-- ==== Sys2Proof/Word.lean ====
section
/-! DEFINITION. Words, bytes, and the plain data that a command can carry. -/

namespace Sys2Proof

/-- A byte of a bus transfer, of memory or of flash. -/
abbrev Byte := BitVec 8

/-- What enters an HDR mode: the Dial value, and the mode that the code names: 0 HDR-DDR, 1 HDR-TSP, 2 HDR-TSL, 3 HDR-BT (R25). -/
structure HdrEntry where
  dial : Nat
  mode : Nat
  deriving DecidableEq, Repr, Inhabited

/-- An HDR-DDR write: its command code and the bytes after it (R30). -/
structure DdrWords where
  code : Nat
  bytes : List Byte
  deriving DecidableEq, Repr, Inhabited

/-- An HDR-DDR read: its command code and how many bytes the controller takes (R30). -/
structure DdrAsk where
  code : Nat
  count : Nat
  deriving DecidableEq, Repr, Inhabited

/-- What the supervision of a Bias output finds (R317): an open load, with the Dial value since which it has stood and the output
voltage nearest to zero since then, in mV; or an over-current, which has stood since the current was clamped. -/
inductive SupCause where
  | openLoad (begun : Nat) (mv : Int)
  | overCurrent
  deriving DecidableEq, Repr, Inhabited

/-- What MCAL reads of one input path (R450): pairs of conversions of zero and of REF_V, a further pair for each retry. A pair that
is not given reads 0. -/
structure McalPath where
  zero : List (Int × Int)
  full : List (Int × Int)
  deriving DecidableEq, Repr, Inhabited

/-- The Header section of a program image (R171, R528). -/
structure ProgHeader where
  version : Nat
  target : Nat
  nanoLen : Nat
  starts : List Nat
  deriving DecidableEq, Repr, Inhabited

/-- A program image by sections (R171). The manual lists what each section holds and gives no byte form (log 6).
`micro` and the spans hold (first index, words); a condition set is its four bit words and its control word, in the form
of R170. -/
structure ProgImage where
  header : Option ProgHeader
  micro : Option (List (Nat × List Nat))
  nano : Option (List Nat)
  counters : Option (List Nat)
  conditions : Option (List (List Nat))
  vectors : Option (List (Nat × Bool))
  barriers : Option Nat
  streams : Nat
  cache : List (Nat × List Nat)
  kernels : List (Nat × List Nat)
  library : List (Nat × Nat × Nat) := [] -- weights to copy from the kernel library (R349): kernel index, first weight there, how many
  deriving DecidableEq, Repr, Inhabited

end Sys2Proof
end

