-- ==== Sys2Proof/Syntax.lean ====
section
/-! DEFINITION. The commands: one constructor for each row of spec/opcode_table.json. The first operand of each is the
Dial value at which the command reaches the block, or holds it (log 1). -/

namespace Sys2Proof

inductive Instr where
  /-- Power is applied; the device enters Dark with every output in its power-up state. (R16) -/
  | powerApplied (t : Nat)
  /-- A low level on nRESET of 100 ns or longer enters Dark within 1 µs; shorter pulses are filtered out. (R61); the width of the low pulse -/
  | nresetLow (t : Nat) (widthNs : Nat)
  /-- VDD_AUX below 1.60 V for 1 µs enters Dark as nRESET low does. (R511); the voltage and for how long it stands -/
  | vddAuxCollapse (t : Nat) (milliVolt : Nat) (ns : Nat)
  /-- A rising edge of nRESET samples BOOT_SEL and starts the boot sequence, reaching Amber within 30 ms. (R489); BOOT_SEL at the edge, and VDD_AUX -/
  | nresetHigh (t : Nat) (bootSel : Nat) (auxMilliVolt : Nat)
  /-- The converter clock PLLs lock and the Dial changes from adding 256 per REF_CLK edge to adding one per tick. (R70) -/
  | pllLock (t : Nat)
  /-- HBM training ends; the boot record is written, then MEMORY sections are written and LOAD sections loaded. (R489) -/
  | hbmTrainingDone (t : Nat)
  /-- Converter calibration of the boot pass completes. (R16); the pairs of the boot pass by item: both results of each quantity, in the order of R462 -/
  | converterCalDone (t : Nat) (results : List (Nat × (List Int × List Int)))
  /-- Once every Green condition holds and green_hold is 0, the device moves from Amber to Green. (R16) -/
  | enterGreen (t : Nat)
  /-- A Green-loss cause is detected: RF outputs mute, Bias goes to zero scale, sequencers abort and shots are invalidated. (R18); the cause of R17 -/
  | leaveGreen (t : Nat) (cause : Nat)
  /-- A Green-loss cause clears; the invalidated calibration reruns and the device returns to Green without host action. (R19) -/
  | greenLossCleared (t : Nat) (cause : Nat)
  /-- MUTE_N falls: every RF output mutes and every Bias output goes to zero scale; overlapping shots are invalid. (R266) -/
  | muteNLow (t : Nat)
  /-- MUTE_N rises: RF outputs resume at the next shot boundary and Bias outputs at their next LOAD. (R266) -/
  | muteNHigh (t : Nat)
  /-- REF_CLK is absent for 200 ns or out of tolerance; Green-loss cause 0x3 and the Dial runs on the housekeeping oscillator. (R69); how long no edge came, or the deviation from nominal in ppm -/
  | refClkLoss (t : Nat) (absentNs : Nat) (ppm : Nat)
  /-- REF_CLK returns; dial_free clears and steering uses the 200 ppm limit until the offset is absorbed. (R418) -/
  | refClkReturn (t : Nat)
  /-- A rising edge on WAKE starts the 9.0 ms wake from Sleep. (R501) -/
  | wakePin (t : Nat)
  /-- Sleep entry finishes: HBM in self-refresh, converters and PLLs off, state reads Sleep. (R500) -/
  | sleepEntryComplete (t : Nat)
  /-- 9.0 ms after the wake event the device enters Green, or Amber if a Green-loss cause is present. (R501) -/
  | wakeComplete (t : Nat)
  /-- The device takes part in dynamic address assignment with its provisional ID. (R25) -/
  | cccEntdaa (t : Nat) (addr : Nat)
  /-- The static address 0x2C is turned into a dynamic address. (R25) -/
  | cccSetdasa (t : Nat) (addr : Nat)
  /-- The dynamic address is changed. (R25) -/
  | cccSetnewda (t : Nat) (addr : Nat)
  /-- The dynamic address is reset. (R25) -/
  | cccRstdaa (t : Nat)
  /-- Target events such as IBIs are enabled. (R25) -/
  | cccEnec (t : Nat) (events : Nat)
  /-- Target events are disabled, which also stops IBI retries. (R25) -/
  | cccDisec (t : Nat) (events : Nat)
  /-- The maximum write length is set. (R26) -/
  | cccSetmwl (t : Nat) (len : Nat)
  /-- The maximum read length is set. (R26) -/
  | cccSetmrl (t : Nat) (len : Nat)
  /-- The maximum write length is returned. (R26) -/
  | cccGetmwl (t : Nat)
  /-- The maximum read length is returned. (R26) -/
  | cccGetmrl (t : Nat)
  /-- The 48-bit provisional ID is returned. (R26) -/
  | cccGetpid (t : Nat)
  /-- The BCR value 0x06 is returned. (R26) -/
  | cccGetbcr (t : Nat)
  /-- The DCR value 0x00 is returned. (R26) -/
  | cccGetdcr (t : Nat)
  /-- The target status is returned. (R25) -/
  | cccGetstatus (t : Nat)
  /-- maxWr and maxRd of zero are returned, and a defining byte is NACKed. (R26) -/
  | cccGetmxds (t : Nat) (defByte : Bool)
  /-- A reset action is set: 0x00 none, 0x01 host interface reset; 0x02 is NACKed. (R25); whether the reset pattern follows -/
  | cccRstact (t : Nat) (action : Nat) (pattern : Bool)
  /-- HDR-DDR mode is entered. (R25); the HDR mode that the code on the bus names stands beside the Dial value; the target ignores all but the first -/
  | cccEnthdr0 (entry : HdrEntry)
  /-- The HDR exit pattern ends HDR mode, including ignored unsupported HDR modes. (R30) -/
  | hdrExit (t : Nat)
  /-- An SDR private write sets the address pointer from four address bytes and writes complete data words. (R29) -/
  | sdrPrivateWrite (t : Nat) (bytes : List Byte)
  /-- An SDR private read returns words from the addressed location or the address pointer. (R29) -/
  | sdrPrivateRead (t : Nat) (addr : List Byte) (count : Nat)
  /-- HDR-DDR command 0x21 sets the address pointer. (R30); the command code on the bus is 0x21, or one that the target ignores -/
  | ddrSetPointer (t : Nat) (words : DdrWords)
  /-- HDR-DDR command 0x20 carries an address followed by data words. (R30); the command code on the bus is 0x20, or one that the target ignores -/
  | ddrWrite (t : Nat) (words : DdrWords)
  /-- HDR-DDR command 0xA0 reads from the address pointer. (R30); the command code on the bus is 0xA0, or one that the target ignores -/
  | ddrRead (t : Nat) (ask : DdrAsk)
  /-- A complete word write to a register with no row of its own reaches it indivisibly, with CFG fields landing in the shadow. (R35) -/
  | registerWrite (t : Nat) (addr : Nat) (data : Nat)
  /-- A read of a word holding RC fields snapshots it and clears the snapshot settings after the last byte. (R40); the clear is reached, and the bits set again after the snapshot -/
  | clearOnRead (t : Nat) (addr : Nat) (done : Bool) (again : Nat)
  /-- A write to a bit alias sets one bit with the effect of the bit's type. (R42) -/
  | bitAliasWrite (t : Nat) (addr : Nat) (data : Nat)
  /-- The first write to a LOCK register fixes it; later writes are ignored and set WLOCK. (R56) -/
  | lockWrite (t : Nat) (addr : Nat) (data : Nat)
  /-- A read of TIME_DIAL_0 captures all 72 Dial bits for the following reads. (R72) -/
  | dialRead (t : Nat)
  /-- A read of the first word of a tag slot or remote cache pair captures the whole entry. (R234) -/
  | slotPairRead (t : Nat) (addr : Nat)
  /-- A read of STP_IN_LAST_LO captures both words of the last stamp. (R346) -/
  | stampLastRead (t : Nat) (input : Fin 32)
  /-- A read of STP_M_RES_LO captures both words of a measurement result. (R346) -/
  | measurementResultRead (t : Nat) (unit : Fin 16)
  /-- A read of CLD_SEC_LO captures the label and every derived calendar field. (R481) -/
  | calendarRead (t : Nat)
  /-- A write of an indirect window's xaddr starts a prefetch, abandoning any prefetch under way. (R44) -/
  | xaddrWrite (t : Nat) (window : Fin 21) (xaddr : Nat)
  /-- A window prefetch completes and ready is set. (R45) -/
  | prefetchComplete (t : Nat) (window : Fin 21)
  /-- A read of xdata returns the prefetched value or BUSY, and a counted read advances xaddr by step. (R46) -/
  | xdataRead (t : Nat) (window : Fin 21)
  /-- A write of xdata is posted, or discarded with BUSY when eight are pending. (R46) -/
  | xdataWrite (t : Nat) (window : Fin 21) (data : Nat)
  /-- A posted window write completes and reaches its shadow or register. (R45) -/
  | postedWriteComplete (t : Nat) (window : Fin 21)
  /-- A write to HIVE_UPDATE strobes domains to apply at beat B. (R50) -/
  | updateStrobe (t : Nat) (mask : Nat)
  /-- arm copies at_mask and T and arms an UPDATE_AT, or applies at once with UPD_LATE. (R53) -/
  | updateAtArm (t : Nat)
  /-- cancel stops a pending UPDATE_AT before its beat, or returns STATE. (R54) -/
  | updateAtCancel (t : Nat)
  /-- At B − 512 ticks the shadows of every domain that applies at B are captured. (R51) -/
  | shadowCapture (t : Nat)
  /-- At beat B every active value in the strobed or armed domains changes together. (R50) -/
  | updateApply (t : Nat)
  /-- An outstanding IBI is attempted with the masked summary byte, or withdrawn if that is zero. (R60) -/
  | ibiAttempt (t : Nat)
  /-- The controller acknowledges an IBI, ending it and starting the hold-off. (R60) -/
  | ibiAcknowledged (t : Nat)
  /-- The controller NACKs an IBI attempt and a retry is scheduled 50 µs later. (R60) -/
  | ibiNacked (t : Nat)
  /-- The 50 µs retry interval after a NACK expires. (R60) -/
  | ibiRetry (t : Nat)
  /-- go freezes the mailbox and runs the checks of opcode, tag, counter and state before storing the counter. (R65); whether the write of the counter to flash completes -/
  | mailboxGo (t : Nat) (flashOk : Bool)
  /-- A mailbox command finishes or times out; the result is posted, busy clears and sum_mailbox is set. (R66) -/
  | mailboxComplete (t : Nat)
  /-- The command verifies an image slot and stages its CONFIG section into a bound transaction. (R253) -/
  | imageSwitch (t : Nat)
  /-- The command unwraps, seals and stores a new command key. (R495) -/
  | keyChange (t : Nat)
  /-- The command snapshots every calibration target and writes it to the older flash copy. (R471) -/
  | calStore (t : Nat)
  /-- CHAIN_MEMBER JOIN sets the ID and role and enters JOINING. (R403) -/
  | chainJoin (t : Nat)
  /-- CHAIN_MEMBER LEAVE enters FREE. (R403) -/
  | chainLeave (t : Nat)
  /-- The command turns the master output enable on or off. (R492) -/
  | outputEnable (t : Nat)
  /-- The command posts OK and begins Sleep entry. (R500) -/
  | sleep (t : Nat)
  /-- Minimum-version fuse bits are blown up to the requested version. (R496) -/
  | fuseMinVersion (t : Nat)
  /-- An owner key slot is programmed with a hash. (R496) -/
  | fuseOwnerKey (t : Nat)
  /-- A key slot is revoked. (R496) -/
  | fuseRevoke (t : Nat)
  /-- The command returns a signed attestation report over a nonce. (R499) -/
  | attest (t : Nat)
  /-- The flash window erases one 64 KiB sector of an image slot. (R498) -/
  | flashErase (t : Nat)
  /-- The flash window programs one 256-byte page from SEC_FL_BUF. (R498) -/
  | flashProg (t : Nat)
  /-- The flash window reads one page into SEC_FL_BUF. (R498) -/
  | flashRead (t : Nat)
  /-- A flash window operation completes and fl_busy clears. (R498) -/
  | flashOpComplete (t : Nat)
  /-- start begins the program at a start entry with a fresh stack and journal and anchor under R139. (R166) -/
  | seqStart (t : Nat) (n : Fin 64)
  /-- resume continues a halted sequencer from its halted position. (R166) -/
  | seqResume (t : Nat) (n : Fin 64)
  /-- abort raises ABORT, which halts the sequencer at its next safe point. (R161) -/
  | seqAbort (t : Nat) (n : Fin 64)
  /-- shot_abort makes SHOT_ABORT pending. (R160) -/
  | seqShotAbort (t : Nat) (n : Fin 64)
  /-- quiet ends every pulse and window of a halted Comb and cancels every issued event. (R166) -/
  | seqQuiet (t : Nat) (n : Fin 64)
  /-- iclr clears pending interrupt sources 2 to 4. (R160) -/
  | seqIclr (t : Nat) (n : Fin 64)
  /-- The NOP micro-word does nothing. (R142) -/
  | nop (t : Nat) (n : Fin 64)
  /-- PLAY schedules its nano-word's Cell pulses, Bias actions and marker edges at t_s. (R143) -/
  | play (t : Nat) (n : Fin 64)
  /-- WAIT advances the anchor by a coded duration. (R144) -/
  | wait (t : Nat) (n : Fin 64)
  /-- WAITT waits for a trigger on its source and re-anchors. (R145) -/
  | waitt (t : Nat) (n : Fin 64)
  /-- BRANCH goes to TARGET OR the condition bits, waiting for any verdicts it tests. (R157) -/
  | branch (t : Nat) (n : Fin 64)
  /-- CALL pushes PC + 1 and branches as BRANCH does. (R158) -/
  | call (t : Nat) (n : Fin 64)
  /-- RET pops a return address, or returns from a handler at handler depth. (R158) -/
  | ret (t : Nat) (n : Fin 64)
  /-- LOOP decrements its counter and branches while it is non-zero. (R147) -/
  | loop (t : Nat) (n : Fin 64)
  /-- SETC LOAD sets a counter to TARGET. (R146) -/
  | setcLoad (t : Nat) (n : Fin 64)
  /-- SETC INIT sets a counter to its cinit value. (R146) -/
  | setcInit (t : Nat) (n : Fin 64)
  /-- SETC ADD adds TARGET to a counter modulo 2^24. (R146) -/
  | setcAdd (t : Nat) (n : Fin 64)
  /-- SETC SUB subtracts TARGET from a counter modulo 2^24. (R146) -/
  | setcSub (t : Nat) (n : Fin 64)
  /-- SYNC waits at a barrier until every member waits. (R148) -/
  | sync (t : Nat) (n : Fin 64)
  /-- FRAME requests SET, ADD, SELECT or NCO_RESET actions on Cells at a scheduled tick. (R149) -/
  | frame (t : Nat) (n : Fin 64)
  /-- MEAS does what PLAY does and opens demodulation windows on the lanes of lane_mask. (R143) -/
  | meas (t : Nat) (n : Fin 64)
  /-- PUBLISH writes a verdict into a local tag slot, valid from the anchor. (R150) -/
  | publish (t : Nat) (n : Fin 64)
  /-- SHOT begin opens a shot at S, deferring it if boundary actions require. (R151) -/
  | shotBegin (t : Nat) (n : Fin 64)
  /-- SHOT end closes the shot at the anchor, optionally marking it invalid. (R151) -/
  | shotEnd (t : Nat) (n : Fin 64)
  /-- COMMIT in mode SHOT requests a transaction commit at the next shot boundary. (R152) -/
  | commitShot (t : Nat) (n : Fin 64)
  /-- COMMIT in mode AT requests a transaction commit at A + TARGET. (R152) -/
  | commitAt (t : Nat) (n : Fin 64)
  /-- COMMIT in mode ABORT aborts a transaction. (R152) -/
  | commitAbort (t : Nat) (n : Fin 64)
  /-- HALT ends the program and raises the halt event. (R152) -/
  | halt (t : Nat) (n : Fin 64)
  /-- A step held by the run-ahead limit starts once the Dial comes within 16,384 ticks of its anchor. (R137) -/
  | runAheadRelease (t : Nat) (n : Fin 64)
  /-- The descriptor check of a PLAY or MEAS returns, faulting on an out-of-range descriptor. (R141) -/
  | descCheckReturn (t : Nat) (n : Fin 64)
  /-- A waiting WAITT takes its trigger and re-anchors at the stamped time plus 614.4 ticks. (R145) -/
  | waittTriggered (t : Nat) (n : Fin 64)
  /-- A WAITT's timeout expires; the step ends with the timeout anchor and sets TIMEOUT. (R145) -/
  | waittTimeout (t : Nat) (n : Fin 64)
  /-- The last member arrives at a barrier and all members leave with equal anchors. (R148) -/
  | syncRelease (t : Nat) (barrier : Fin 32)
  /-- A SYNC times out and its member withdraws from the barrier. (R148) -/
  | syncTimeout (t : Nat) (n : Fin 64)
  /-- The Dial reaches A + H before every tested verdict counts; the verdict is missing and the default way or a fault follows. (R156) -/
  | verdictHorizonExpiry (t : Nat) (n : Fin 64)
  /-- A fault rolls back the journal, cancels later events and halts the sequencer at the safe point. (R165) -/
  | sequencerFault (t : Nat) (n : Fin 64)
  /-- The background scrubber pass over micro and nano stores corrects single-bit errors and poisons double-bit ones. (R131); the bit errors that have struck: store (0 micro, 1 nano, 2 cache, 3 kernel memory), address there, 1 or 2 for a single-bit or double-bit error -/
  | microScrub (t : Nat) (n : Fin 64) (upsets : List (Nat × Nat × Nat))
  /-- A LOAD packet starts a program load: header and proof checks, admission and writing of the stores. (R172); the image that the bytes named by the packet spell -/
  | load (t : Nat) (port : Fin 8) (image : ProgImage)
  /-- A program load finishes and posts its result in load_result and a CPL. (R172) -/
  | loadComplete (t : Nat) (n : Fin 64)
  /-- A pulse's first sample falls due at t_s and its PLAY selections apply, pre-empting an earlier pulse. (R94) -/
  | pulseStart (t : Nat) (n : Fin 64) (c : Fin 8)
  /-- A scheduled frame action applies to samples from its tick, or late with FRAME_LATE. (R100) -/
  | frameAction (t : Nat) (n : Fin 64) (c : Fin 8)
  /-- A segment ends and the Cell takes a due jump, loops, links or ends the pulse. (R108) -/
  | segmentBoundary (t : Nat) (n : Fin 64) (c : Fin 8)
  /-- A write of jump to CELL_CMD places a jump request, merging with one pending. (R119) -/
  | cellJump (t : Nat) (n : Fin 64) (c : Fin 8)
  /-- A write of CELL_BANK_HI marks the half written and advances entry when auto_inc is set. (R128) -/
  | bankHiWrite (t : Nat) (n : Fin 64) (value : Nat)
  /-- A far-store sample has not arrived by its release deadline; the Cell outputs zero for the rest of that play. (R117) -/
  | envelopeUnderrun (t : Nat) (n : Fin 64) (c : Fin 8)
  /-- clip_clr sets clip_count to zero. (R127) -/
  | clipClr (t : Nat) (n : Fin 64) (p : Fin 2)
  /-- A speculative selection's cut-off passes without a counting verdict and the port takes the default way. (R218) -/
  | specCutoff (t : Nat) (n : Fin 64)
  /-- A demodulation window's first sample arrives; the window set, frequency and profile are latched. (R185) -/
  | windowOpen (t : Nat) (n : Fin 64) (c : Fin 8)
  /-- A window's last sample is accumulated; the result is rounded, discriminated and published. (R195); the ADC core values of the samples of the window, from its first sample on (R268); past the end of the list a value is 0 -/
  | windowClose (t : Nat) (n : Fin 64) (c : Fin 8) (samples : List Int)
  /-- A publication reaches a tag slot and replaces, leaves or is discarded under the recorded-time rules. (R210) -/
  | tagSlotArrival (t : Nat) (slot : Fin 4096)
  /-- The result writer drains a record or trailer into the Comb's result ring, or discards it when full. (R201) -/
  | resultRecordWrite (t : Nat) (n : Fin 64)
  /-- Once all records and marks of a shot are settled, its trailer is queued and invalid_count updated. (R524) -/
  | shotTrailer (t : Nat) (n : Fin 64)
  /-- slot_clear invalidates every local slot while every sequencer is halted. (R212) -/
  | slotClear (t : Nat)
  /-- A received VERDICT word is forwarded to subscribed ports and written to the remote cache. (R224) -/
  | verdictWord (t : Nat) (port : Fin 8)
  /-- A received QUERY sets the port in the answer table and queues the current contents or forwards the query. (R224) -/
  | queryWord (t : Nat) (port : Fin 8)
  /-- A received CANCEL clears the port from the answer entry and frees or forwards it. (R224) -/
  | cancelWord (t : Nat) (port : Fin 8)
  /-- open moves a FREE transaction to OPEN. (R256) -/
  | txnOpen (t : Nat)
  /-- stage adds one entry to an OPEN transaction. (R237) -/
  | txnStage (t : Nat)
  /-- commit requests a local commit in NOW, AT or SHOT mode and reads the entries into the apply buffer. (R239) -/
  | txnCommit (t : Nat)
  /-- abort returns an OPEN or PENDING transaction to FREE before its decision point. (R241) -/
  | txnAbort (t : Nat)
  /-- B − 1,024 ticks is reached: later aborts fail, and a swarm participant commits or aborts with IN_DOUBT. (R249) -/
  | txnDecisionPoint (t : Nat) (x : Fin 16)
  /-- At B every entry applies, the transaction returns to FREE and TXN interrupts are raised. (R242) -/
  | txnApply (t : Nat) (x : Fin 16)
  /-- go on the coordinator starts a swarm and sends PREPARE to every participant. (R244) -/
  | swarmGo (t : Nat)
  /-- A participant receiving PREPARE locks its transaction and votes YES or NO. (R247) -/
  | prepare (t : Nat) (port : Fin 8)
  /-- The coordinator receives a vote and floods ABORT on NO or COMMIT when all are YES. (R248) -/
  | vote (t : Nat) (port : Fin 8)
  /-- A participant receiving COMMIT while LOCKED becomes COMMITTED and sends ACK. (R248) -/
  | swarmCommit (t : Nat) (port : Fin 8)
  /-- The coordinator receives an ACK. (R248) -/
  | ack (t : Nat) (port : Fin 8)
  /-- A participant receiving ABORT before its decision point returns to FREE; later it sets ABORT_LATE and ORPHAN. (R249) -/
  | swarmAbort (t : Nat) (port : Fin 8)
  /-- At T − G with ACKs or votes outstanding, the coordinator floods ABORT. (R248) -/
  | swarmGuardExpiry (t : Nat)
  /-- A Hive holding a record of the named swarm answers STATUS_Q with STATUS_A. (R252) -/
  | statusQ (t : Nat) (port : Fin 8)
  /-- The first STATUS_A sets orph_peer to agree or disagree. (R252) -/
  | statusA (t : Nat) (port : Fin 8)
  /-- 1 ms passes without a STATUS_A and orph_peer reads no answer. (R252) -/
  | statusNoAnswer (t : Nat)
  /-- At the first beat boundary at or after E, the pending boundary actions of a Comb apply together. (R82) -/
  | boundaryActionsApply (t : Nat) (n : Fin 64)
  /-- While a Comb is halted or between shots, a calibration step is taken every 1 µs. (R468) -/
  | haltedCalStep (t : Nat) (n : Fin 64)
  /-- A run of over-range ADC samples begins: samples saturate, ovr is set and the event is raised. (R271); the sample at Dial value t is over range -/
  | overRange (t : Nat) (port : Fin 64)
  /-- t_o + 104 ticks passes and the port is valid again. (R272) -/
  | overRangeValidReturn (t : Nat) (port : Fin 64)
  /-- The 1 µs settling after a band change ends and settling clears. (R269) -/
  | bandSettleEnd (t : Nat) (port : Fin 64)
  /-- arm requests admission and moves the ports of the mask from IDLE to WAIT. (R293) -/
  | capArm (t : Nat)
  /-- stop sends the armed ports of the mask to IDLE, truncating a record in progress. (R291) -/
  | capStop (t : Nat)
  /-- force makes a FORCE trigger on the waiting ports of the mask. (R287) -/
  | capForce (t : Nat)
  /-- A trigger condition fires on a decimated sample and a waiting port takes a record or loses it to a full ring. (R287); the sixteen ADC core values of the decimated sample that ends at or before t (R268); past the end of the list a value is 0 -/
  | captureTrigger (t : Nat) (port : Fin 64) (samples : List Int)
  /-- The TIMEOUT condition's count expires and it fires. (R287); t is the sample at which it fires -/
  | captureTimeout (t : Nat) (port : Fin 64)
  /-- No trigger for auto_to µs forces a trigger on the next kept sample. (R290); t is the moment from which the next kept sample is the trigger -/
  | captureAuto (t : Nat) (port : Fin 64)
  /-- A record is whole in HBM; its header is written and cap_wr advanced. (R297); the ADC core values of the samples kept for the record, from sample 0 on (R268); past the end of the list a value is 0 -/
  | captureRecordCommit (t : Nat) (port : Fin 64) (samples : List Int)
  /-- A compatibility-mode port falls 32 KiB behind and halves its rate or ends the record. (R301) -/
  | captureFallBehind (t : Nat) (port : Fin 64)
  /-- A write of BIAS_STAGE_b stages a code for the output. (R308) -/
  | biasStageWrite (t : Nat) (n : Fin 64) (b : Fin 4) (code : Nat)
  /-- load requests a LOAD of the group 1,024 ticks later. (R309) -/
  | biasLoadCmd (t : Nat) (n : Fin 64)
  /-- At its beat a LOAD sets code_act from every staged code of the group. (R309) -/
  | biasLoad (t : Nat) (n : Fin 64)
  /-- trip_clr clears tripped on outputs whose condition no longer holds. (R318) -/
  | tripClr (t : Nat) (n : Fin 64)
  /-- A fast-flux pulse begins at b0 on the outputs of bias_mask. (R312) -/
  | fluxStart (t : Nat) (n : Fin 64) (b : Fin 4)
  /-- At b0 + 16N the output returns to code_act or keeps the last code. (R312) -/
  | fluxEnd (t : Nat) (n : Fin 64) (b : Fin 4)
  /-- The 128,000-tick range-change hold ends. (R316) -/
  | rangeHoldEnd (t : Nat) (n : Fin 64) (b : Fin 4)
  /-- An external source drives the current beyond lim_lvl; the output clamps and sets LIM. (R317) -/
  | biasLimitClamp (t : Nat) (n : Fin 64) (b : Fin 4) (current : Int)
  /-- A supervision condition qualifies and the output trips to zero scale. (R318) -/
  | supervisionTrip (t : Nat) (n : Fin 64) (b : Fin 4) (cause : SupCause)
  /-- VBP or VBN falls below 4.25 V and all 64 Bias outputs of the Front die go high impedance and trip. (R512) -/
  | biasSupplyTrip (t : Nat) (q : Fin 4)
  /-- Both Bias supplies return above 4.50 V and the outputs stand at zero scale. (R512) -/
  | biasSupplyRestored (t : Nat) (q : Fin 4)
  /-- A scheduled marker edge reaches its ball instant and sets the level, merging excess edges in a beat. (R327) -/
  | markerEdge (t : Nat) (n : Fin 64)
  /-- force places the edges of force_set 1,024 ticks after the command. (R329) -/
  | markForce (t : Nat) (n : Fin 64)
  /-- A qualifying edge on a Stamp input is stamped and delivered to its consumers. (R333); at Dial value t the differential voltage passes to mv, in mV (above 0 for a rise of an internal source); the converter code, for an internal source the fraction -/
  | stampEdge (t : Nat) (input : Fin 50) (mv : Int) (code : Nat)
  /-- cd_run starts a code-density calibration run on one Stamp input. (R338) -/
  | cdRun (t : Nat)
  /-- A code-density run ends and the input's lut is rebuilt. (R338); the hits of codes 0 to 15 -/
  | cdRunComplete (t : Nat) (counts : List Nat)
  /-- go arms a Stamp measurement unit in interval or frequency mode. (R340) -/
  | measurementGo (t : Nat) (unit : Fin 16)
  /-- stop ends a measurement with ABORTED. (R342) -/
  | measurementStop (t : Nat) (unit : Fin 16)
  /-- The stop stamp of an interval arrives and the result is formed. (R340) -/
  | intervalResult (t : Nat) (unit : Fin 16)
  /-- No stop arrives within timeout and the result reads TIMEOUT. (R340) -/
  | intervalTimeout (t : Nat) (unit : Fin 16)
  /-- The gate time ends and the least-squares frequency deviation is reported. (R341) -/
  | frequencyGateEnd (t : Nat) (unit : Fin 16)
  /-- A link-delay probe is due and is sent on a NEIGHBOUR port. (R343) -/
  | probeExchange (t : Nat) (port : Fin 8)
  /-- A PROBE request is answered, or a reply updates the one-way delay. (R343) -/
  | probe (t : Nat) (port : Fin 8)
  /-- map_apply places the HBM regions under the requested sizes and bases. (R350) -/
  | mapApply (t : Nat)
  /-- host_req requests admission of the host bulk reservation. (R358) -/
  | hostReq (t : Nat)
  /-- The patrol scrubber reads a chunk, correcting or poisoning it. (R353); the errors that have struck HBM since the last pass: chunk and symbols in error; and the chunk that the scrubber reads now -/
  | hbmScrubPass (t : Nat) (chunk : Nat) (upsets : List (Nat × Nat))
  /-- A marked row is soft-repaired and a repair record written. (R354) -/
  | softRepair (t : Nat) (stack : Fin 4) (pch : Fin 32) (bank : Nat) (row : Nat)
  /-- An HBM stack needs retraining or exceeds the error rate, causing Green-loss cause 0x5. (R355) -/
  | stackLost (t : Nat) (stack : Fin 4)
  /-- An on-demand descriptor read completes, late with DL_LATE if it misses its deadline. (R361) -/
  | descReadComplete (t : Nat) (n : Fin 64)
  /-- A stream refill completes into a Cell's ring. (R359) -/
  | streamRefill (t : Nat) (n : Fin 64) (c : Fin 8)
  /-- A STORE read without a CPL after 1 ms is abandoned as a node error with FS_ERR. (R379) -/
  | farStoreAbandon (t : Nat) (port : Fin 8) (tag : Nat)
  /-- At a frame slot the port fills a frame with verdict words and due packets and sends it. (R377); t is the slot time -/
  | frameSend (t : Nat) (port : Fin 8)
  /-- A frame is received, checked and accepted, or discarded and replay requested. (R376); the bits as received, and the fraction of the arrival time -/
  | frameReceive (t : Nat) (port : Fin 8) (bits : Nat) (frac : Nat)
  /-- lq_push adds a USER packet to the launch queue. (R394) -/
  | lqPush (t : Nat) (port : Fin 8)
  /-- rx_pop removes the oldest packet from the receive mailbox. (R396) -/
  | rxPop (t : Nat) (port : Fin 8)
  /-- A received USER packet enters the receive mailbox. (R396) -/
  | user (t : Nat) (port : Fin 8)
  /-- A MEM_RD request is answered with MEM_DATA and a CPL. (R379) -/
  | memRd (t : Nat) (port : Fin 8)
  /-- A MEM_WR writes chunks, with a CPL if asked. (R379) -/
  | memWr (t : Nat) (port : Fin 8)
  /-- MEM_DATA chunks answering a read arrive. (R379) -/
  | memData (t : Nat) (port : Fin 8)
  /-- A completion for a tagged request arrives. (R379) -/
  | cpl (t : Nat) (port : Fin 8)
  /-- A received REMAP moves a logical lane to a spare and sends ALIGN words. (R391) -/
  | linkRemap (t : Nat) (port : Fin 8)
  /-- A received RESUME ends the pause and DATA frames resume. (R391) -/
  | linkResume (t : Nat) (port : Fin 8)
  /-- LOS or LOL on a receive lane pauses the port or sends it to CLOCK. (R381); LOS, or else LOL -/
  | laneLoss (t : Nat) (port : Fin 8) (lane : Fin 19) (los : Bool)
  /-- A lane's signal stays above 80 mV for 100 ns and LOS clears. (R381) -/
  | losClear (t : Nat) (port : Fin 8) (lane : Fin 19)
  /-- The forwarded clock is steady for 10 µs and the port moves from ABSENT to CLOCK. (R382) -/
  | forwardedClockSteady (t : Nat) (port : Fin 8)
  /-- Every receive lane locks and the port moves to SLIP. (R382); the forwarded clock runs at 4 GHz; the pairs of measurements of the transmit and the receive latency -/
  | lanesLocked (t : Nat) (port : Fin 8) (slow : Bool) (lat : List (List Int × List Int))
  /-- The bit-slip search ends on every lane and the port moves to DESKEW. (R383); the slips of each receive lane; 64 and above, or no entry, for a lane that has failed -/
  | slipSearchDone (t : Nat) (port : Fin 8) (slips : List Nat)
  /-- Deskew completes and the port moves to NEGOTIATE. (R384); the delay of each receive lane in words; above 7, or no entry, for a lane that has failed -/
  | deskewDone (t : Nat) (port : Fin 8) (words : List Nat)
  /-- Both sides have exchanged ready and the port enters ACTIVE or DEGRADED. (R385) -/
  | trainingActive (t : Nat) (port : Fin 8)
  /-- 8 ms pass without ACTIVE and the port returns to ABSENT. (R386) -/
  | trainTo (t : Nat) (port : Fin 8)
  /-- A pause lasts 100 µs and the port leaves for CLOCK. (R392) -/
  | pauseTo (t : Nat) (port : Fin 8)
  /-- retrain sends the port to CLOCK. (R382) -/
  | retrain (t : Nat) (port : Fin 8)
  /-- lane_slip slips one lane by one bit in manual training. (R387); the result of the 8-word check at the new boundary -/
  | laneSlip (t : Nat) (port : Fin 8) (aligned : Bool)
  /-- neg_go moves a manually trained port to NEGOTIATE. (R387) -/
  | negGo (t : Nat) (port : Fin 8)
  /-- Every 100 µs a chain member sends its CHAIN announcement. (R405) -/
  | announceTimer (t : Nat)
  /-- A received announcement updates the route table and is forwarded once. (R406) -/
  | chain (t : Nat) (port : Fin 8)
  /-- A route expires 300 µs after its origin's latest announcement. (R406) -/
  | routeExpiry (t : Nat) (dev : Fin 256)
  /-- Every 1 µs a Queen places a TIME packet in each NEIGHBOUR launch queue. (R409) -/
  | timeSend (t : Nat)
  /-- A received TIME packet updates the offset estimate and steering and is forwarded. (R411) -/
  | time (t : Nat) (port : Fin 8)
  /-- No packet of a Queen is accepted for q_to µs and it becomes invalid. (R411) -/
  | queenTimeout (t : Nat) (which : Fin 2)
  /-- Every 100 µs a HOLDOVER Hive sends a TIME packet with ho set. (R417) -/
  | holdoverTimeSend (t : Nat)
  /-- Queen A has been valid for rev_t × 10 ms and the reference reverts to it. (R415) -/
  | queenRevert (t : Nat)
  /-- Once every join condition holds, the Hive steps its Dial or refuses and enters MEMBER. (R412) -/
  | joinStep (t : Nat)
  /-- A Queen's listening time ends without packets and it forms a new chain with a 2^32-tick step. (R419) -/
  | formListenEnd (t : Nat)
  /-- A PPS_IN rising edge on Queen A steers second boundaries, or sets PPS_BAD. (R421) -/
  | ppsInEdge (t : Nat)
  /-- A second boundary of Hive time raises PPS_OUT and fires D(90). (R422) -/
  | secondBoundary (t : Nat)
  /-- 100 µs after a second boundary PPS_OUT falls. (R422) -/
  | ppsOutFall (t : Nat)
  /-- An enabled producer event reaches a channel's consumer, merging or dropping under refractory rules. (R429) -/
  | waggleDelivery (t : Nat) (ch : Fin 256)
  /-- A write of fire makes an event of slot 15. (R429) -/
  | waggleFire (t : Nat) (ch : Fin 256)
  /-- A channel's refractory period ends. (R431) -/
  | refractoryEnd (t : Nat) (ch : Fin 256)
  /-- A monitor conversion ends; its result is written and thresholds and detectors updated. (R446); the outputs of the sinc stage; past the end of the list an output is 0, and one outside 24 bits has driven the modulator beyond its range -/
  | monConversionDone (t : Nat) (m : Fin 5) (outs : List Int)
  /-- Every 20 ms a housekeeping round falls due on every modulator. (R443); what the stacks read out: temperature in °C and refresh code -/
  | housekeepingDue (t : Nat) (temps : List (Int × Nat))
  /-- mcal calibrates all five monitor modulators. (R450) -/
  | mcal (t : Nat)
  /-- MCAL completes and new factors apply. (R450); the readings of path p of modulator m at place 4m + p -/
  | mcalDone (t : Nat) (paths : List McalPath)
  /-- acc_clr resets every fall-back detector of a modulator. (R448) -/
  | accClr (t : Nat) (m : Fin 5)
  /-- cal_run starts a calibration pass. (R465) -/
  | calRun (t : Nat)
  /-- A Tj change beyond dt or cal_per hours starts a calibration pass. (R465) -/
  | calPassTrigger (t : Nat)
  /-- A measurement pair completes and sets a new target or is retried. (R467); the two results of each quantity, in the order of R462; of a STAMP the hits of codes 0 to 15 in its two runs (R338) -/
  | calMeasurementDone (t : Nat) (item : Nat) (a : List Int) (b : List Int)
  /-- An item stops being idle and its measurement is abandoned. (R466) -/
  | calAbandon (t : Nat) (item : Nat)
  /-- An item waits cal_wait seconds and is skipped with CAL_STALE. (R466) -/
  | calStale (t : Nat) (item : Nat)
  /-- Every 600 s of powered time a periodic life-log record is written. (R472) -/
  | lifePeriodic (t : Nat)
  /-- life_rd copies a life-log record into LIFE_REC. (R476) -/
  | lifeRd (t : Nat)
  /-- The life-log copy completes and life_ready is set. (R476) -/
  | lifeRdDone (t : Nat)
  deriving DecidableEq, Repr

end Sys2Proof
end

