-- ==== Sys2Proof/Machine/Keccak.lean ====
section
/-! DEFINITION. SHA3-256 and KMAC256, which the manual names (R64, R485, R495, R499): FIPS 202 and SP 800-185 over bytes. -/

namespace Sys2Proof.Machine

/-- A lane turned left by `n` places. -/
def turn (n v : Nat) : Nat := (v <<< (n % 64) ||| v >>> (64 - n % 64)) % 2 ^ 64

/-! The state is five planes of five lanes each. -/

/-- The register that drives the round constants moves on by one bit. -/
def rcStep (r : Nat) : Nat := if r < 128 then 2 * r else (2 * r ^^^ 0x71) % 256

/-- Bits of a constant: place 2^j − 1 for the output of step j. -/
def rcBits : Nat → Nat → Nat → Nat × Nat
  | 0, _, r => (0, r)
  | k + 1, j, r =>
    let rest := rcBits k (j + 1) (rcStep r)
    (rest.1 + r % 2 * 2 ^ (2 ^ j - 1), rest.2)

/-- θ: each lane takes the parities of two columns. -/
def thetaOf (planes : List (List Nat)) : List (List Nat) :=
  let par := planes.foldl (List.zipWith (· ^^^ ·)) (List.replicate 5 0)
  let mix := List.zipWith (· ^^^ ·) (par.rotateLeft 4) ((par.rotateLeft 1).map (turn 1))
  planes.map fun p => List.zipWith (· ^^^ ·) p mix

/-- ρ and π in one walk over the 24 lanes beside the origin: each goes to the next place of the walk, turned by the triangular
number of its step. -/
def walkLanes (src : List (List Nat)) : Nat → Nat → Nat → List (List Nat) → List (List Nat)
  | 0, _, _, out => out
  | k + 1, x, y, out =>
    let v := (src.getD y []).getD x 0
    let y' := (2 * x + 3 * y) % 5
    walkLanes src k y y' (out.set y' ((out.getD y' []).set y (turn ((24 - k) * (25 - k) / 2) v)))

/-- χ on one plane: a lane changes where its right neighbour is 0 and the one after is 1. -/
def chiOf (p : List Nat) : List Nat :=
  List.zipWith (· ^^^ ·) p (List.zipWith (fun u v => v ^^^ (u &&& v)) (p.rotateLeft 1) (p.rotateLeft 2))

/-- ι: the constant of the round enters the lane at the origin. -/
def iotaOf (c : Nat) (planes : List (List Nat)) : List (List Nat) := planes.modify 0 fun p => p.modify 0 fun v => v ^^^ c

/-- `k` rounds, with the register of the constants at `r`. -/
def permute : Nat → Nat → List (List Nat) → List (List Nat)
  | 0, _, a => a
  | k + 1, r, a =>
    let c := rcBits 7 0 r
    let m := thetaOf a
    permute k c.2 (iotaOf c.1 ((walkLanes m 24 1 0 m).map chiOf))

/-- Eight bytes as a lane. -/
def laneOf : List Byte → Nat
  | [] => 0
  | b :: bs => b.toNat + 256 * laneOf bs

def laneBytes (v : Nat) : List Byte := (List.range 8).map fun i => BitVec.ofNat 8 (v / 256 ^ i)

/-- A block of 136 bytes enters the state. -/
def absorb (a : List (List Nat)) (bs : List Byte) : List (List Nat) :=
  permute 24 1 ((List.range 5).map fun y =>
    List.zipWith (· ^^^ ·) (a.getD y []) ((List.range 5).map fun x => laneOf ((bs.drop (8 * (x + 5 * y))).take 8)))

def absorbAll : Nat → List (List Nat) → List Byte → List (List Nat)
  | 0, a, _ => a
  | k + 1, a, bs => absorbAll k (absorb a (bs.take 136)) (bs.drop 136)

/-- Padding to whole blocks, with the domain bits in the first byte. -/
def padded (bs : List Byte) (dom : Nat) : List Byte :=
  let n := 136 - bs.length % 136
  if n = 1 then bs ++ [BitVec.ofNat 8 (dom + 128)]
  else bs ++ [BitVec.ofNat 8 dom] ++ List.replicate (n - 2) 0#8 ++ [128#8]

/-- The first `len` bytes of output, at most 136. -/
def sponge (bs : List Byte) (dom len : Nat) : List Byte :=
  let p := padded bs dom
  ((absorbAll (p.length / 136) (List.replicate 5 (List.replicate 5 0)) p).flatMap fun q => q.flatMap laneBytes).take len

def sha3 (bs : List Byte) : List Byte := sponge bs 6 32

/-! ### KMAC256 -/

/-- Bytes of a number, the highest first, at least one. -/
def beBytes : Nat → Nat → List Byte
  | 0, _ => []
  | k + 1, v => beBytes k (v / 256) ++ [BitVec.ofNat 8 v]

def byteCount (v : Nat) : Nat := if v < 2 ^ 8 then 1 else if v < 2 ^ 16 then 2 else if v < 2 ^ 24 then 3 else if v < 2 ^ 32 then 4 else 8

def leftEncode (v : Nat) : List Byte := BitVec.ofNat 8 (byteCount v) :: beBytes (byteCount v) v
def rightEncode (v : Nat) : List Byte := beBytes (byteCount v) v ++ [BitVec.ofNat 8 (byteCount v)]
def encodeString (bs : List Byte) : List Byte := leftEncode (8 * bs.length) ++ bs

def bytePad (bs : List Byte) : List Byte :=
  let p := leftEncode 136 ++ bs
  p ++ List.replicate ((136 - p.length % 136) % 136) 0#8

def textBytes (t : String) : List Byte := t.toList.map fun c => BitVec.ofNat 8 c.toNat

/-- KMAC256 with `len` bytes of output. -/
def kmac256 (key msg : List Byte) (len : Nat) (custom : String) : List Byte :=
  sponge (bytePad (encodeString (textBytes "KMAC") ++ encodeString (textBytes custom)) ++
    (bytePad (encodeString key) ++ msg ++ rightEncode (8 * len))) 4 len

end Sys2Proof.Machine
end

