-- ==== Sys2Proof/Config.lean ====
section
/-! DEFINITION. What is fixed for the machine: the shape of a register field and of a register table, and the values that
the manual leaves open, each a constant with no body. -/

namespace Sys2Proof.Machine

/-- A register field: its key, its width in bits and its reset value. -/
structure Fld where
  key : Nat
  width : Nat
  reset : Nat
  deriving DecidableEq, Repr

/-- The types of R3. -/
inductive FTy where
  | rw | ro | cfg | rc | w1 | rsv
  deriving DecidableEq, Repr

/-- The control field that selects a word's level (R4). -/
inductive Lvl where
  | none | seq | cell | rd | bias | biasF | mark | front | elv | time | dec | txn | mem | mon | cal | cap | stp | chn | wag
  deriving DecidableEq, Repr

/-- How a reset value is found where the table gives a rule in place of a number. -/
inductive RstRule where
  | none | ring | quad | resBase | dom16 | dom20 | wagEn | rgnBase | rgnSize
  deriving DecidableEq, Repr

/-- One field of a word: lowest bit, width, type, reset value, rule of the reset value, expert level. -/
structure FieldDef where
  lo : Nat
  width : Nat
  ty : FTy
  reset : Nat
  rule : RstRule
  expert : Bool
  deriving DecidableEq, Repr

/-- A family of words: its offset, its repetitions (count and stride of each), the level it belongs to, its fields. -/
structure WordDef where
  off : Nat
  dims : List (Nat × Nat)
  lvl : Lvl
  fields : List FieldDef
  deriving DecidableEq, Repr

/-- A value the manual leaves open: draw `k` of the run. No body, so nothing rests on what it is (log 2). -/
opaque Config.freeValue : Nat → Nat

/-- Which of the codes within 1 LSB of the true value the cosine table holds, by phase (R93, log 3). -/
opaque Config.cosPick : Nat → Nat

/-- The same for the sine table (R93, log 3). -/
opaque Config.sinPick : Nat → Nat

/-- The taps of the SMOOTH interpolator by the distance in ticks from a sample, in units of 2^-`smoothBits`: the manual bounds the
response and gives no coefficients (R104, log 3). -/
opaque Config.smoothTap : Nat → Int

opaque Config.smoothBits : Nat

/-- The taps of the fractional delay of an RF output by `frac` (0 to 64, for −32 to +32) and place, −`fracHalf` to `fracHalf`, in
units of 2^-`fracBits`: the manual gives the delay alone (R86, log 62). -/
opaque Config.fracTap : Nat → Int → Int

opaque Config.fracHalf : Nat

opaque Config.fracBits : Nat

/-- The taps of the sinc compensation by the distance from the sample, up to `sincHalf`, in units of 2^-`sincBits`: the manual bounds
the response and gives no coefficients (R262, log 62). -/
opaque Config.sincTap : Nat → Int

opaque Config.sincHalf : Nat

opaque Config.sincBits : Nat

/-- What the noise-shaping loop of an RF output adds to the upper 16 bits of the word of a tick, with `centre`: the manual gives the
spectrum alone (R263, log 62). -/
opaque Config.shaped : Nat → Nat → Nat → Int

/-- The correction of an ADC core value, at 20-bit precision: from band, offset, gain and timing of its sub-converter, the port and
the ball tick (the timing correction takes in what stands around the sample; R268, log 62). -/
opaque Config.adcCorrect : Nat → Int → Int → Int → Int → Nat → Nat → Int

/-- The chunk of the STAGE region that holds an entry of a transaction: the manual gives no layout (log 2). -/
opaque Config.stageChunk : Nat → Nat → Nat

/-- The value of a condition bit whose test or flag the manual calls invalid, by `src` and `test` (R154, log 2). -/
opaque Config.invalidTest : Nat → Nat → Bool

/-- Spare rows that a bank of HBM has: the manual gives no number (log 2). -/
opaque Config.spareRows : Nat

/-- Bank and row of a chunk within its pseudo-channel, bank × 2^32 + row: the manual gives stack and pseudo-channel alone (R348; log
68). -/
opaque Config.rowOf : Nat → Nat

/-- Payload of a repair record, from stack, pseudo-channel, bank and row: the manual names them and gives no places (R475,
log 2). -/
opaque Config.repairPayload : Nat → Nat → Nat → Nat → Nat

/-- Payload of a boot record, from image slot, sequence number, `copy`, BOOT_SEL and the previous `cause` (R475, log 2). -/
opaque Config.bootPayload : Nat → Nat → Nat → Nat → Nat → Nat

/-- The per-device instance field fused at manufacture (R26, R405, R499): the manual gives no width beyond the bits it uses
(log 2). -/
opaque Config.instanceField : Nat

/-- The 15-bit manufacturer ID fused at manufacture (R26, log 2). -/
opaque Config.makerId : Nat

/-- How many steps of its proofs the loader takes within 50 ms: the manual gives the time alone (R172, log 2). -/
opaque Config.loaderSteps : Nat

/-- Pair tolerance and step limit of image amplitude: the manual gives those of image phase alone (R460, log 13). -/
opaque Config.imageTol : Nat

opaque Config.imageStep : Nat

/-- What the declared REF_V, in µV, reads on path p of modulator m, in the result unit of the path: the manual gives no scale but for
the paths in µV of AIN and REF_V (R437, R450, log 13). -/
opaque Config.refReading : Nat → Nat → Nat → Int

/-- The calibration values fused at manufacture, by index, and the digest that stands for them (R470, R471, log 13). -/
opaque Config.factoryCal : Nat → Int

opaque Config.factoryDigest : Nat

/-- The hash of the vendor root key, fused at manufacture (R485, log 12). -/
opaque Config.vendorHash : Nat

/-- Verification under ML-DSA-44 (FIPS 204): public key, message, signature (R485, log 12). -/
opaque Config.verify : List Byte → List Byte → List Byte → Bool

/-- The identity public key, and signing under the identity key (R499, log 12). -/
opaque Config.identity : List Byte

opaque Config.sign : List Byte → List Byte

/-- The program image that bytes in memory spell: the manual gives the sections and no byte form (R171, log 6). -/
opaque Config.progOfBytes : List Byte → Option ProgImage

end Sys2Proof.Machine
end

