-- ==== Sys2Proof/Machine/Regs.lean ====
section
/-! DEFINITION. Reset values that the register tables give by a rule. -/

namespace Sys2Proof.Machine

/-- The reset value of a channel's `en` (R427, R428). -/
def wagEnReset (c : Nat) : Nat :=
  if c = 0xE5 ∨ c = 0xE6 ∨ c = 0xE7 ∨ c = 0xEA then 0x8001
  else if c = 0xE8 then 0x9FFF
  else if c = 0xE9 then 0x8003
  else if c = 0xEB then 0x807F
  else if c = 0xEC then 0x87FF
  else 0x8000

/-- The reset base of a memory region in MiB (R349). -/
def rgnBaseReset (r : Nat) : Nat :=
  if r = 0 then 0 else if r = 1 then 128 else if r = 2 then 1024 else if r = 3 then 2048 else if r = 4 then 6144 else 71680

/-- The reset size of a memory region in MiB (R349). -/
def rgnSizeReset (r : Nat) : Nat :=
  if r = 0 then 128 else if r = 1 then 896 else if r = 2 then 1024 else if r = 3 then 4096 else if r = 4 then 65536 else 190464

end Sys2Proof.Machine
end

