-- ==== Sys2Proof/Machine/Fields.lean ====
section
/-! DEFINITION. One name for every register field of the register tables of spec/ (the rule stands before each register):
its key (byte address times 32 plus the lowest bit; an indirect space stands from 0x1_0000_0000 up, window by window),
its width and its reset value. Command bits (W1) hold nothing and have no name here. -/

namespace Sys2Proof.Machine

-- `HIVE_ID`, R22
def R.hiveId_part : Fld := ⟨(0) * 32 + 16, 16, 0x5120⟩
def R.hiveId_stepping : Fld := ⟨(0) * 32 + 8, 8, 1⟩
-- `HIVE_STATE`, R23
def R.hiveState_state : Fld := ⟨(4) * 32 + 0, 2, 1⟩
def R.hiveState_muted : Fld := ⟨(4) * 32 + 2, 1, 1⟩
def R.hiveState_throttled : Fld := ⟨(4) * 32 + 3, 1, 0⟩
def R.hiveState_cause : Fld := ⟨(4) * 32 + 4, 4, 0⟩
-- `HIVE_SVC_CTL`, R24
def R.hiveSvcCtl_amber_rf : Fld := ⟨(8) * 32 + 0, 1, 0⟩
def R.hiveSvcCtl_green_hold : Fld := ⟨(8) * 32 + 1, 1, 0⟩
-- `HOST_ACC_STATUS`, R36
def R.hostAccStatus_acc_partial : Fld := ⟨(0x10004) * 32 + 0, 1, 0⟩
def R.hostAccStatus_acc_align : Fld := ⟨(0x10004) * 32 + 1, 1, 0⟩
def R.hostAccStatus_acc_unmapped : Fld := ⟨(0x10004) * 32 + 2, 1, 0⟩
def R.hostAccStatus_wlock : Fld := ⟨(0x10004) * 32 + 3, 1, 0⟩
def R.hostAccStatus_xerr : Fld := ⟨(0x10004) * 32 + 4, 1, 0⟩
def R.hostAccStatus_mb_busy_wr : Fld := ⟨(0x10004) * 32 + 5, 1, 0⟩
def R.hostAccStatus_acc_asleep : Fld := ⟨(0x10004) * 32 + 6, 1, 0⟩
-- `HOST_ACC_ADDR`, R37
def R.hostAccAddr_addr : Fld := ⟨(0x10008) * 32 + 0, 32, 0⟩
-- `HIVE_UPD_AT_MASK`, R55
def R.hiveUpdAtMask_at_mask : Fld := ⟨(0x14) * 32 + 0, 32, 0⟩
-- `HIVE_UPD_AT_LO`, R55
def R.hiveUpdAtLo_at_time_lo : Fld := ⟨(0x18) * 32 + 0, 32, 0⟩
-- `HIVE_UPD_AT_HI`, R55
def R.hiveUpdAtHi_at_time_hi : Fld := ⟨(0x1c) * 32 + 0, 8, 0⟩
-- `HIVE_UPD_AT_CTL`, R55
def R.hiveUpdAtCtl_pending : Fld := ⟨(0x20) * 32 + 2, 1, 0⟩
def R.hiveUpdAtCtl_upd_late : Fld := ⟨(0x20) * 32 + 3, 1, 0⟩
def R.hiveUpdAtCtl_result : Fld := ⟨(0x20) * 32 + 8, 8, 0⟩
-- `HOST_EVT_SUMMARY`, R58
def R.hostEvtSummary_sum_state : Fld := ⟨(0x1000c) * 32 + 0, 1, 0⟩
def R.hostEvtSummary_sum_access : Fld := ⟨(0x1000c) * 32 + 1, 1, 0⟩
def R.hostEvtSummary_sum_mailbox : Fld := ⟨(0x1000c) * 32 + 2, 1, 0⟩
def R.hostEvtSummary_sum_seq : Fld := ⟨(0x1000c) * 32 + 3, 1, 0⟩
def R.hostEvtSummary_sum_txn : Fld := ⟨(0x1000c) * 32 + 4, 1, 0⟩
def R.hostEvtSummary_sum_time : Fld := ⟨(0x1000c) * 32 + 5, 1, 0⟩
def R.hostEvtSummary_sum_mon : Fld := ⟨(0x1000c) * 32 + 6, 1, 0⟩
def R.hostEvtSummary_sum_link : Fld := ⟨(0x1000c) * 32 + 7, 1, 0⟩
-- `HOST_EVT_MASK`, R59
def R.hostEvtMask_ibi_mask : Fld := ⟨(0x10010) * 32 + 0, 8, 0xff⟩
def R.hostEvtMask_alert_mask : Fld := ⟨(0x10010) * 32 + 8, 8, 0xff⟩
-- `HOST_I3C_CTL`, R59
def R.hostI3cCtl_static_addr : Fld := ⟨(0x10000) * 32 + 0, 7, 0x2c⟩
def R.hostI3cCtl_dyn_valid : Fld := ⟨(0x10000) * 32 + 7, 1, 0⟩
def R.hostI3cCtl_dyn_addr : Fld := ⟨(0x10000) * 32 + 8, 7, 0⟩
def R.hostI3cCtl_ibi_holdoff : Fld := ⟨(0x10000) * 32 + 16, 8, 0xa⟩
-- `HOST_MB_CTR_LO`, R62
def R.hostMbCtrLo_ctr_lo : Fld := ⟨(0x10100) * 32 + 0, 32, 0⟩
-- `HOST_MB_CTR_HI`, R62
def R.hostMbCtrHi_ctr_hi : Fld := ⟨(0x10104) * 32 + 0, 32, 0⟩
-- `HOST_MB_OP`, R62
def R.hostMbOp_opcode : Fld := ⟨(0x10108) * 32 + 0, 16, 0⟩
def R.hostMbOp_arg_len : Fld := ⟨(0x10108) * 32 + 16, 8, 0⟩
-- `HOST_MB_STATUS`, R62
def R.hostMbStatus_busy : Fld := ⟨(0x10110) * 32 + 0, 1, 0⟩
def R.hostMbStatus_result : Fld := ⟨(0x10110) * 32 + 8, 8, 0⟩
def R.hostMbStatus_resp_len : Fld := ⟨(0x10110) * 32 + 16, 16, 0⟩
-- `HOST_MB_LAST_LO`, R62
def R.hostMbLastLo_last_lo : Fld := ⟨(0x10114) * 32 + 0, 32, 0⟩
-- `HOST_MB_LAST_HI`, R62
def R.hostMbLastHi_last_hi : Fld := ⟨(0x10118) * 32 + 0, 32, 0⟩
-- `HOST_MB_TAG`, R62
def R.hostMbTag_tag (i : Nat) : Fld := ⟨(0x10120 + i * 4) * 32 + 0, 32, 0⟩
-- `HOST_MB_ARG`, R62
def R.hostMbArg_arg (j : Nat) : Fld := ⟨(0x10140 + j * 4) * 32 + 0, 32, 0⟩
-- `HOST_MB_RESP`, R62
def R.hostMbResp_resp (i : Nat) : Fld := ⟨(0x11000 + i * 4) * 32 + 0, 32, 0⟩
-- `FRONT_XADDR`, R44
def R.frontXaddr_xaddr (q : Nat) : Fld := ⟨(0x30ff00 + q * 0x10000) * 32 + 0, 24, 0⟩
-- `FRONT_XDATA`, R44
def R.frontXdata_xdata (q : Nat) : Fld := ⟨(0x30ff04 + q * 0x10000) * 32 + 0, 32, 0⟩
-- `FRONT_XCTL`, R44
def R.frontXctl_step (q : Nat) : Fld := ⟨(0x30ff08 + q * 0x10000) * 32 + 0, 8, 1⟩
def R.frontXctl_ready (q : Nat) : Fld := ⟨(0x30ff08 + q * 0x10000) * 32 + 8, 1, 0⟩
def R.frontXctl_inc_wr (q : Nat) : Fld := ⟨(0x30ff08 + q * 0x10000) * 32 + 9, 1, 1⟩
def R.frontXctl_inc_rd (q : Nat) : Fld := ⟨(0x30ff08 + q * 0x10000) * 32 + 10, 1, 1⟩
def R.frontXctl_xresult (q : Nat) : Fld := ⟨(0x30ff08 + q * 0x10000) * 32 + 16, 8, 0⟩
def R.frontXctl_pending (q : Nat) : Fld := ⟨(0x30ff08 + q * 0x10000) * 32 + 24, 4, 0⟩
-- `MEM_XADDR`, R44
def R.memXaddr_xaddr (x : Nat) : Fld := ⟨(0x5ff00 + x * 0x10) * 32 + 0, 24, 0⟩
-- `MEM_XDATA`, R44
def R.memXdata_xdata (x : Nat) : Fld := ⟨(0x5ff04 + x * 0x10) * 32 + 0, 32, 0⟩
-- `MEM_XCTL`, R44
def R.memXctl_step (x : Nat) : Fld := ⟨(0x5ff08 + x * 0x10) * 32 + 0, 8, 1⟩
def R.memXctl_ready (x : Nat) : Fld := ⟨(0x5ff08 + x * 0x10) * 32 + 8, 1, 0⟩
def R.memXctl_inc_wr (x : Nat) : Fld := ⟨(0x5ff08 + x * 0x10) * 32 + 9, 1, 1⟩
def R.memXctl_inc_rd (x : Nat) : Fld := ⟨(0x5ff08 + x * 0x10) * 32 + 10, 1, 1⟩
def R.memXctl_xresult (x : Nat) : Fld := ⟨(0x5ff08 + x * 0x10) * 32 + 16, 8, 0⟩
def R.memXctl_pending (x : Nat) : Fld := ⟨(0x5ff08 + x * 0x10) * 32 + 24, 4, 0⟩
-- `ELVENT_XADDR`, R44
def R.elventXaddr_xaddr (p : Nat) : Fld := ⟨(0x200f00 + p * 0x1000) * 32 + 0, 24, 0⟩
-- `ELVENT_XDATA`, R44
def R.elventXdata_xdata (p : Nat) : Fld := ⟨(0x200f04 + p * 0x1000) * 32 + 0, 32, 0⟩
-- `ELVENT_XCTL`, R44
def R.elventXctl_step (p : Nat) : Fld := ⟨(0x200f08 + p * 0x1000) * 32 + 0, 8, 1⟩
def R.elventXctl_ready (p : Nat) : Fld := ⟨(0x200f08 + p * 0x1000) * 32 + 8, 1, 0⟩
def R.elventXctl_inc_wr (p : Nat) : Fld := ⟨(0x200f08 + p * 0x1000) * 32 + 9, 1, 1⟩
def R.elventXctl_inc_rd (p : Nat) : Fld := ⟨(0x200f08 + p * 0x1000) * 32 + 10, 1, 1⟩
def R.elventXctl_xresult (p : Nat) : Fld := ⟨(0x200f08 + p * 0x1000) * 32 + 16, 8, 0⟩
def R.elventXctl_pending (p : Nat) : Fld := ⟨(0x200f08 + p * 0x1000) * 32 + 24, 4, 0⟩
-- `MON_XADDR`, R44
def R.monXaddr_xaddr (x : Nat) : Fld := ⟨(0x6ff00 + x * 0x10) * 32 + 0, 24, 0⟩
-- `MON_XDATA`, R44
def R.monXdata_xdata (x : Nat) : Fld := ⟨(0x6ff04 + x * 0x10) * 32 + 0, 32, 0⟩
-- `MON_XCTL`, R44
def R.monXctl_step (x : Nat) : Fld := ⟨(0x6ff08 + x * 0x10) * 32 + 0, 8, 1⟩
def R.monXctl_ready (x : Nat) : Fld := ⟨(0x6ff08 + x * 0x10) * 32 + 8, 1, 0⟩
def R.monXctl_inc_wr (x : Nat) : Fld := ⟨(0x6ff08 + x * 0x10) * 32 + 9, 1, 1⟩
def R.monXctl_inc_rd (x : Nat) : Fld := ⟨(0x6ff08 + x * 0x10) * 32 + 10, 1, 1⟩
def R.monXctl_xresult (x : Nat) : Fld := ⟨(0x6ff08 + x * 0x10) * 32 + 16, 8, 0⟩
def R.monXctl_pending (x : Nat) : Fld := ⟨(0x6ff08 + x * 0x10) * 32 + 24, 4, 0⟩
-- `TIME_CTL`, R91
def R.timeCtl_level : Fld := ⟨(0x30000) * 32 + 0, 1, 0⟩
def R.timeCtl_ref_sel : Fld := ⟨(0x30000) * 32 + 1, 2, 0⟩
def R.timeCtl_domain : Fld := ⟨(0x30000) * 32 + 8, 5, 0x1c⟩
-- `TIME_STATUS`, R91
def R.timeStatus_pll_lock : Fld := ⟨(0x30004) * 32 + 0, 1, 0⟩
def R.timeStatus_ref_ok : Fld := ⟨(0x30004) * 32 + 1, 1, 0⟩
def R.timeStatus_dial_free : Fld := ⟨(0x30004) * 32 + 2, 1, 0⟩
def R.timeStatus_ref_lost : Fld := ⟨(0x30004) * 32 + 3, 1, 0⟩
def R.timeStatus_frac_clamp : Fld := ⟨(0x30004) * 32 + 4, 1, 0⟩
-- `TIME_DIAL_0`, R91
def R.timeDial0_dial_lo : Fld := ⟨(0x30010) * 32 + 0, 32, 0⟩
-- `TIME_DIAL_1`, R91
def R.timeDial1_dial_mid : Fld := ⟨(0x30014) * 32 + 0, 32, 0⟩
-- `TIME_DIAL_2`, R91
def R.timeDial2_dial_hi : Fld := ⟨(0x30018) * 32 + 0, 8, 0⟩
-- `TIME_LEAD`, R91
def R.timeLead_lead_guard : Fld := ⟨(0x30020) * 32 + 0, 2, 1⟩
def R.timeLead_lead_margin : Fld := ⟨(0x30020) * 32 + 16, 12, 0x40⟩
-- `TIME_FRAC`, R91
def R.timeFrac_frac (k : Nat) : Fld := ⟨(0x30100 + k * 4) * 32 + 0, 7, 0⟩
-- `CELL_CTL`, R125
def R.cellCtl_level (n : Nat) : Fld := ⟨(0x100800 + n * 0x4000) * 32 + 0, 1, 0⟩
-- `CELL_MODE`, R126
def R.cellMode_route (n c : Nat) : Fld := ⟨(0x100900 + n * 0x4000 + c * 0x20) * 32 + 0, 2, 0⟩
def R.cellMode_fmode (n c : Nat) : Fld := ⟨(0x100900 + n * 0x4000 + c * 0x20) * 32 + 2, 1, 0⟩
def R.cellMode_stream_en (n c : Nat) : Fld := ⟨(0x100900 + n * 0x4000 + c * 0x20) * 32 + 3, 1, 0⟩
-- `CELL_CMD`, R126
def R.cellCmd_result (n c : Nat) : Fld := ⟨(0x100904 + n * 0x4000 + c * 0x20) * 32 + 8, 8, 0⟩
-- `CELL_GAIN_I`, R126
def R.cellGainI_gain_i (n c : Nat) : Fld := ⟨(0x100908 + n * 0x4000 + c * 0x20) * 32 + 0, 20, 0x7ffff⟩
-- `CELL_GAIN_Q`, R126
def R.cellGainQ_gain_q (n c : Nat) : Fld := ⟨(0x10090c + n * 0x4000 + c * 0x20) * 32 + 0, 20, 0⟩
-- `CELL_FRAME`, R126
def R.cellFrame_frame (n c : Nat) : Fld := ⟨(0x100910 + n * 0x4000 + c * 0x20) * 32 + 0, 20, 0⟩
-- `CELL_STATUS`, R126
def R.cellStatus_underrun (n c : Nat) : Fld := ⟨(0x100914 + n * 0x4000 + c * 0x20) * 32 + 0, 1, 0⟩
def R.cellStatus_jump_late (n c : Nat) : Fld := ⟨(0x100914 + n * 0x4000 + c * 0x20) * 32 + 1, 1, 0⟩
def R.cellStatus_jump_lost (n c : Nat) : Fld := ⟨(0x100914 + n * 0x4000 + c * 0x20) * 32 + 2, 1, 0⟩
def R.cellStatus_jump_merge (n c : Nat) : Fld := ⟨(0x100914 + n * 0x4000 + c * 0x20) * 32 + 3, 1, 0⟩
def R.cellStatus_preempt (n c : Nat) : Fld := ⟨(0x100914 + n * 0x4000 + c * 0x20) * 32 + 4, 1, 0⟩
def R.cellStatus_env_ecc (n c : Nat) : Fld := ⟨(0x100914 + n * 0x4000 + c * 0x20) * 32 + 5, 1, 0⟩
def R.cellStatus_route_err (n c : Nat) : Fld := ⟨(0x100914 + n * 0x4000 + c * 0x20) * 32 + 6, 1, 0⟩
def R.cellStatus_desc_bad (n c : Nat) : Fld := ⟨(0x100914 + n * 0x4000 + c * 0x20) * 32 + 7, 1, 0⟩
def R.cellStatus_playing (n c : Nat) : Fld := ⟨(0x100914 + n * 0x4000 + c * 0x20) * 32 + 8, 1, 0⟩
def R.cellStatus_claim (n c : Nat) : Fld := ⟨(0x100914 + n * 0x4000 + c * 0x20) * 32 + 9, 1, 0⟩
def R.cellStatus_frame_late (n c : Nat) : Fld := ⟨(0x100914 + n * 0x4000 + c * 0x20) * 32 + 10, 1, 0⟩
def R.cellStatus_pulse_late (n c : Nat) : Fld := ⟨(0x100914 + n * 0x4000 + c * 0x20) * 32 + 11, 1, 0⟩
def R.cellStatus_bank_sel (n c : Nat) : Fld := ⟨(0x100914 + n * 0x4000 + c * 0x20) * 32 + 16, 8, 0⟩
-- `CELL_RING`, R126
def R.cellRing_ring_base (n c : Nat) : Fld := ⟨(0x100918 + n * 0x4000 + c * 0x20) * 32 + 0, 16, 65536 - 2048 * (c + 1)⟩
def R.cellRing_ring_len (n c : Nat) : Fld := ⟨(0x100918 + n * 0x4000 + c * 0x20) * 32 + 16, 10, 0x20⟩
-- `CELL_PORT_CTL`, R127
def R.cellPortCtl_hr_shift (n p : Nat) : Fld := ⟨(0x100a00 + n * 0x4000 + p * 0x10) * 32 + 0, 2, 0⟩
-- `CELL_PORT_STATUS`, R127
def R.cellPortStatus_clip (n p : Nat) : Fld := ⟨(0x100a04 + n * 0x4000 + p * 0x10) * 32 + 0, 1, 0⟩
def R.cellPortStatus_clip_count (n p : Nat) : Fld := ⟨(0x100a04 + n * 0x4000 + p * 0x10) * 32 + 16, 16, 0⟩
-- `CELL_BANK_SEL`, R128
def R.cellBankSel_entry (n : Nat) : Fld := ⟨(0x100a40 + n * 0x4000) * 32 + 0, 8, 0⟩
def R.cellBankSel_cell (n : Nat) : Fld := ⟨(0x100a40 + n * 0x4000) * 32 + 8, 3, 0⟩
def R.cellBankSel_auto_inc (n : Nat) : Fld := ⟨(0x100a40 + n * 0x4000) * 32 + 16, 1, 1⟩
-- `CELL_BANK_LO`, R128
def R.cellBankLo_f_lo (n : Nat) : Fld := ⟨(0x100a44 + n * 0x4000) * 32 + 0, 32, 0⟩
-- `CELL_BANK_HI`, R128
def R.cellBankHi_f_hi (n : Nat) : Fld := ⟨(0x100a48 + n * 0x4000) * 32 + 0, 16, 0⟩
-- `SEQ_CTL`, R169
def R.seqCtl_level (n : Nat) : Fld := ⟨(0x100000 + n * 0x4000) * 32 + 0, 1, 0⟩
def R.seqCtl_domain (n : Nat) : Fld := ⟨(0x100000 + n * 0x4000) * 32 + 8, 5, n / 4⟩
def R.seqCtl_ien (n : Nat) : Fld := ⟨(0x100000 + n * 0x4000) * 32 + 16, 3, 0⟩
-- `SEQ_CMD`, R169
def R.seqCmd_result (n : Nat) : Fld := ⟨(0x100004 + n * 0x4000) * 32 + 8, 8, 0⟩
-- `SEQ_START`, R169
def R.seqStart_start_pc (n : Nat) : Fld := ⟨(0x100008 + n * 0x4000) * 32 + 0, 15, 0⟩
def R.seqStart_at_en (n : Nat) : Fld := ⟨(0x100008 + n * 0x4000) * 32 + 15, 1, 0⟩
def R.seqStart_start_at_hi (n : Nat) : Fld := ⟨(0x100008 + n * 0x4000) * 32 + 16, 8, 0⟩
-- `SEQ_START_AT`, R169
def R.seqStartAt_start_at_lo (n : Nat) : Fld := ⟨(0x10000c + n * 0x4000) * 32 + 0, 32, 0⟩
-- `SEQ_STATUS`, R169
def R.seqStatus_run (n : Nat) : Fld := ⟨(0x100010 + n * 0x4000) * 32 + 0, 2, 0⟩
def R.seqStatus_in_shot (n : Nat) : Fld := ⟨(0x100010 + n * 0x4000) * 32 + 2, 1, 0⟩
def R.seqStatus_halt_why (n : Nat) : Fld := ⟨(0x100010 + n * 0x4000) * 32 + 3, 3, 0⟩
def R.seqStatus_late_pin (n : Nat) : Fld := ⟨(0x100010 + n * 0x4000) * 32 + 6, 1, 0⟩
def R.seqStatus_verdict_missing (n : Nat) : Fld := ⟨(0x100010 + n * 0x4000) * 32 + 7, 1, 0⟩
def R.seqStatus_sync_slip (n : Nat) : Fld := ⟨(0x100010 + n * 0x4000) * 32 + 8, 1, 0⟩
def R.seqStatus_timeout (n : Nat) : Fld := ⟨(0x100010 + n * 0x4000) * 32 + 9, 1, 0⟩
def R.seqStatus_deferred (n : Nat) : Fld := ⟨(0x100010 + n * 0x4000) * 32 + 10, 1, 0⟩
def R.seqStatus_shot_unpaired (n : Nat) : Fld := ⟨(0x100010 + n * 0x4000) * 32 + 11, 1, 0⟩
def R.seqStatus_shot_invalid (n : Nat) : Fld := ⟨(0x100010 + n * 0x4000) * 32 + 12, 1, 0⟩
def R.seqStatus_ipend (n : Nat) : Fld := ⟨(0x100010 + n * 0x4000) * 32 + 13, 3, 0⟩
def R.seqStatus_txn_result (n : Nat) : Fld := ⟨(0x100010 + n * 0x4000) * 32 + 16, 8, 0⟩
-- `SEQ_PC`, R169
def R.seqPc_pc (n : Nat) : Fld := ⟨(0x100014 + n * 0x4000) * 32 + 0, 15, 0⟩
def R.seqPc_safe_pc (n : Nat) : Fld := ⟨(0x100014 + n * 0x4000) * 32 + 16, 15, 0⟩
-- `SEQ_FAULT`, R169
def R.seqFault_fault_code (n : Nat) : Fld := ⟨(0x100018 + n * 0x4000) * 32 + 0, 4, 0⟩
def R.seqFault_fault_pc (n : Nat) : Fld := ⟨(0x100018 + n * 0x4000) * 32 + 16, 15, 0⟩
-- `SEQ_SHOTS`, R169
def R.seqShots_shot_count (n : Nat) : Fld := ⟨(0x10001c + n * 0x4000) * 32 + 0, 32, 0⟩
-- `SEQ_INVALID`, R169
def R.seqInvalid_invalid_count (n : Nat) : Fld := ⟨(0x100020 + n * 0x4000) * 32 + 0, 32, 0⟩
-- `SEQ_DEFER`, R169
def R.seqDefer_defer_count (n : Nat) : Fld := ⟨(0x100024 + n * 0x4000) * 32 + 0, 16, 0⟩
def R.seqDefer_defer_last (n : Nat) : Fld := ⟨(0x100024 + n * 0x4000) * 32 + 16, 16, 0⟩
-- `SEQ_ECC`, R169
def R.seqEcc_micro_fix (n : Nat) : Fld := ⟨(0x100028 + n * 0x4000) * 32 + 0, 16, 0⟩
def R.seqEcc_nano_fix (n : Nat) : Fld := ⟨(0x100028 + n * 0x4000) * 32 + 16, 16, 0⟩
-- `SEQ_LOAD`, R169
def R.seqLoad_load_result (n : Nat) : Fld := ⟨(0x10002c + n * 0x4000) * 32 + 0, 8, 0⟩
def R.seqLoad_load_check (n : Nat) : Fld := ⟨(0x10002c + n * 0x4000) * 32 + 8, 8, 0⟩
def R.seqLoad_load_pc (n : Nat) : Fld := ⟨(0x10002c + n * 0x4000) * 32 + 16, 15, 0⟩
-- `SEQ_NANO`, R169
def R.seqNano_nano_base (n : Nat) : Fld := ⟨(0x100030 + n * 0x4000) * 32 + 0, 13, 0⟩
def R.seqNano_nano_len (n : Nat) : Fld := ⟨(0x100030 + n * 0x4000) * 32 + 16, 14, 0⟩
-- `SEQ_ECC2`, R169
def R.seqEcc2_cache_fix (n : Nat) : Fld := ⟨(0x100038 + n * 0x4000) * 32 + 0, 16, 0⟩
def R.seqEcc2_kern_fix (n : Nat) : Fld := ⟨(0x100038 + n * 0x4000) * 32 + 16, 16, 0⟩
-- `SEQ_BAR`, R169
def R.seqBar_bar_memb (n : Nat) : Fld := ⟨(0x100034 + n * 0x4000) * 32 + 0, 32, 0⟩
-- `SEQ_IVEC`, R169
def R.seqIvec_vec (n i : Nat) : Fld := ⟨(0x100040 + n * 0x4000 + i * 4) * 32 + 0, 15, 0⟩
def R.seqIvec_vec_valid (n i : Nat) : Fld := ⟨(0x100040 + n * 0x4000 + i * 4) * 32 + 15, 1, 0⟩
-- `SEQ_CINIT`, R169
def R.seqCinit_cinit (n k : Nat) : Fld := ⟨(0x100080 + n * 0x4000 + k * 4) * 32 + 0, 24, 0⟩
-- `SEQ_CNT`, R169
def R.seqCnt_count (n k : Nat) : Fld := ⟨(0x1000c0 + n * 0x4000 + k * 4) * 32 + 0, 24, 0⟩
-- `SEQ_CSET_BIT`, R170
def R.seqCsetBit_src (n k i : Nat) : Fld := ⟨(0x100200 + n * 0x4000 + k * 0x20 + i * 4) * 32 + 0, 20, 0⟩
def R.seqCsetBit_test (n k i : Nat) : Fld := ⟨(0x100200 + n * 0x4000 + k * 0x20 + i * 4) * 32 + 20, 3, 6⟩
-- `SEQ_CSET_CTL`, R170
def R.seqCsetCtl_dflt_en (n k : Nat) : Fld := ⟨(0x100210 + n * 0x4000 + k * 0x20) * 32 + 0, 1, 0⟩
def R.seqCsetCtl_dflt_way (n k : Nat) : Fld := ⟨(0x100210 + n * 0x4000 + k * 0x20) * 32 + 4, 4, 0⟩
def R.seqCsetCtl_hops (n k : Nat) : Fld := ⟨(0x100210 + n * 0x4000 + k * 0x20) * 32 + 8, 6, 0⟩
-- `RD_CTL`, R204
def R.rdCtl_level (n : Nat) : Fld := ⟨(0x100c00 + n * 0x4000) * 32 + 0, 1, 0⟩
def R.rdCtl_ovr_unsure (n : Nat) : Fld := ⟨(0x100c00 + n * 0x4000) * 32 + 1, 1, 1⟩
-- `RD_STATUS`, R204
def R.rdStatus_win_overlap (n : Nat) : Fld := ⟨(0x100c04 + n * 0x4000) * 32 + 0, 1, 0⟩
def R.rdStatus_win_late (n : Nat) : Fld := ⟨(0x100c04 + n * 0x4000) * 32 + 1, 1, 0⟩
def R.rdStatus_kclamp (n : Nat) : Fld := ⟨(0x100c04 + n * 0x4000) * 32 + 2, 1, 0⟩
def R.rdStatus_kecc (n : Nat) : Fld := ⟨(0x100c04 + n * 0x4000) * 32 + 3, 1, 0⟩
def R.rdStatus_rsat (n : Nat) : Fld := ⟨(0x100c04 + n * 0x4000) * 32 + 4, 1, 0⟩
def R.rdStatus_ovr (n : Nat) : Fld := ⟨(0x100c04 + n * 0x4000) * 32 + 5, 1, 0⟩
def R.rdStatus_res_drop (n : Nat) : Fld := ⟨(0x100c04 + n * 0x4000) * 32 + 6, 1, 0⟩
def R.rdStatus_ring_bad (n : Nat) : Fld := ⟨(0x100c04 + n * 0x4000) * 32 + 7, 1, 0⟩
-- `RD_RES_BASE`, R204
def R.rdResBase_res_base (n : Nat) : Fld := ⟨(0x100c10 + n * 0x4000) * 32 + 0, 20, 16 * n⟩
-- `RD_RES_SIZE`, R204
def R.rdResSize_res_size (n : Nat) : Fld := ⟨(0x100c14 + n * 0x4000) * 32 + 0, 20, 0x10⟩
-- `RD_RES_WR`, R204
def R.rdResWr_res_wr (n : Nat) : Fld := ⟨(0x100c18 + n * 0x4000) * 32 + 0, 28, 0⟩
-- `RD_RES_RD`, R204
def R.rdResRd_res_rd (n : Nat) : Fld := ⟨(0x100c1c + n * 0x4000) * 32 + 0, 28, 0⟩
-- `RD_RES_LOST`, R204
def R.rdResLost_res_lost (n : Nat) : Fld := ⟨(0x100c20 + n * 0x4000) * 32 + 0, 32, 0⟩
-- `RD_LANE_F_LO`, R205
def R.rdLaneFLo_f_lo (n c : Nat) : Fld := ⟨(0x100c40 + n * 0x4000 + c * 0x10) * 32 + 0, 32, 0⟩
-- `RD_LANE_F_HI`, R205
def R.rdLaneFHi_f_hi (n c : Nat) : Fld := ⟨(0x100c44 + n * 0x4000 + c * 0x10) * 32 + 0, 16, 0⟩
-- `RD_LANE_PH`, R205
def R.rdLanePh_lane_poff (n c : Nat) : Fld := ⟨(0x100c48 + n * 0x4000 + c * 0x10) * 32 + 0, 20, 0⟩
-- `RD_LANE_STATUS`, R205
def R.rdLaneStatus_open (n c : Nat) : Fld := ⟨(0x100c4c + n * 0x4000 + c * 0x10) * 32 + 0, 1, 0⟩
def R.rdLaneStatus_last_v (n c : Nat) : Fld := ⟨(0x100c4c + n * 0x4000 + c * 0x10) * 32 + 1, 2, 0⟩
-- `RD_WIN_START`, R206
def R.rdWinStart_win_start (n s : Nat) : Fld := ⟨(0x101000 + n * 0x4000 + s * 0x10) * 32 + 0, 24, 0⟩
-- `RD_WIN_LEN`, R206
def R.rdWinLen_win_len (n s : Nat) : Fld := ⟨(0x101004 + n * 0x4000 + s * 0x10) * 32 + 0, 16, 0⟩
def R.rdWinLen_k_en (n s : Nat) : Fld := ⟨(0x101004 + n * 0x4000 + s * 0x10) * 32 + 16, 1, 0⟩
def R.rdWinLen_rec (n s : Nat) : Fld := ⟨(0x101004 + n * 0x4000 + s * 0x10) * 32 + 17, 1, 1⟩
def R.rdWinLen_k_stride (n s : Nat) : Fld := ⟨(0x101004 + n * 0x4000 + s * 0x10) * 32 + 18, 3, 0⟩
def R.rdWinLen_res_shift (n s : Nat) : Fld := ⟨(0x101004 + n * 0x4000 + s * 0x10) * 32 + 24, 5, 6⟩
-- `RD_PRF_KB`, R207
def R.rdPrfKb_k_base (n c f : Nat) : Fld := ⟨(0x102000 + n * 0x4000 + c * 0x400 + f * 0x40) * 32 + 0, 15, 0⟩
-- `RD_PRF_C0I`, R207
def R.rdPrfC0i_ctr0_i (n c f : Nat) : Fld := ⟨(0x102004 + n * 0x4000 + c * 0x400 + f * 0x40) * 32 + 0, 32, 0⟩
-- `RD_PRF_C0Q`, R207
def R.rdPrfC0q_ctr0_q (n c f : Nat) : Fld := ⟨(0x102008 + n * 0x4000 + c * 0x400 + f * 0x40) * 32 + 0, 32, 0⟩
-- `RD_PRF_C1I`, R207
def R.rdPrfC1i_ctr1_i (n c f : Nat) : Fld := ⟨(0x10200c + n * 0x4000 + c * 0x400 + f * 0x40) * 32 + 0, 32, 0⟩
-- `RD_PRF_C1Q`, R207
def R.rdPrfC1q_ctr1_q (n c f : Nat) : Fld := ⟨(0x102010 + n * 0x4000 + c * 0x400 + f * 0x40) * 32 + 0, 32, 0⟩
-- `RD_PRF_BAND`, R207
def R.rdPrfBand_band (n c f : Nat) : Fld := ⟨(0x102014 + n * 0x4000 + c * 0x400 + f * 0x40) * 32 + 0, 8, 0⟩
-- `RD_PRF_AB0`, R207
def R.rdPrfAb0_a0 (n c f : Nat) : Fld := ⟨(0x102018 + n * 0x4000 + c * 0x400 + f * 0x40) * 32 + 0, 16, 0⟩
def R.rdPrfAb0_b0 (n c f : Nat) : Fld := ⟨(0x102018 + n * 0x4000 + c * 0x400 + f * 0x40) * 32 + 16, 16, 0⟩
-- `RD_PRF_AB1`, R207
def R.rdPrfAb1_a1 (n c f : Nat) : Fld := ⟨(0x10201c + n * 0x4000 + c * 0x400 + f * 0x40) * 32 + 0, 16, 0⟩
def R.rdPrfAb1_b1 (n c f : Nat) : Fld := ⟨(0x10201c + n * 0x4000 + c * 0x400 + f * 0x40) * 32 + 16, 16, 0⟩
-- `RD_PRF_C0_LO`, R207
def R.rdPrfC0Lo_c0_lo (n c f : Nat) : Fld := ⟨(0x102020 + n * 0x4000 + c * 0x400 + f * 0x40) * 32 + 0, 32, 0⟩
-- `RD_PRF_C0_HI`, R207
def R.rdPrfC0Hi_c0_hi (n c f : Nat) : Fld := ⟨(0x102024 + n * 0x4000 + c * 0x400 + f * 0x40) * 32 + 0, 16, 0⟩
-- `RD_PRF_C1_LO`, R207
def R.rdPrfC1Lo_c1_lo (n c f : Nat) : Fld := ⟨(0x102028 + n * 0x4000 + c * 0x400 + f * 0x40) * 32 + 0, 32, 0⟩
-- `RD_PRF_C1_HI`, R207
def R.rdPrfC1Hi_c1_hi (n c f : Nat) : Fld := ⟨(0x10202c + n * 0x4000 + c * 0x400 + f * 0x40) * 32 + 0, 16, 0⟩
-- `RD_PRF_MAP`, R207
def R.rdPrfMap_vmap (n c f : Nat) : Fld := ⟨(0x102030 + n * 0x4000 + c * 0x400 + f * 0x40) * 32 + 0, 8, 0x7c⟩
-- `DEC_CTL`, R232
def R.decCtl_level : Fld := ⟨(0x100) * 32 + 0, 1, 0⟩
def R.decCtl_result : Fld := ⟨(0x100) * 32 + 8, 8, 0⟩
def R.decCtl_domain : Fld := ⟨(0x100) * 32 + 16, 5, 0x1f⟩
-- `DEC_HORIZON`, R232
def R.decHorizon_horizon : Fld := ⟨(0x104) * 32 + 0, 16, 0x800⟩
-- `DEC_STATUS`, R232
def R.decStatus_tag_stale : Fld := ⟨(0x108) * 32 + 0, 1, 0⟩
def R.decStatus_tag_clash : Fld := ⟨(0x108) * 32 + 1, 1, 0⟩
def R.decStatus_spec_busy : Fld := ⟨(0x108) * 32 + 2, 1, 0⟩
def R.decStatus_vlate : Fld := ⟨(0x108) * 32 + 3, 1, 0⟩
def R.decStatus_sub_full : Fld := ⟨(0x108) * 32 + 4, 1, 0⟩
def R.decStatus_route_none : Fld := ⟨(0x108) * 32 + 5, 1, 0⟩
def R.decStatus_ans_full : Fld := ⟨(0x108) * 32 + 6, 1, 0⟩
def R.decStatus_vq_drop : Fld := ⟨(0x108) * 32 + 7, 1, 0⟩
def R.decStatus_hzn_clamp : Fld := ⟨(0x108) * 32 + 8, 1, 0⟩
-- `DEC_LATE`, R232
def R.decLate_late_count : Fld := ⟨(0x10c) * 32 + 0, 32, 0⟩
-- `DEC_DROP`, R232
def R.decDrop_drop_count : Fld := ⟨(0x110) * 32 + 0, 32, 0⟩
-- `DEC_USE`, R232
def R.decUse_cache_used : Fld := ⟨(0x114) * 32 + 0, 11, 0⟩
def R.decUse_ans_used : Fld := ⟨(0x114) * 32 + 16, 12, 0⟩
-- `DEC_PIN`, R233
def R.decPin_pin_tag (k : Nat) : Fld := ⟨(0x200 + k * 4) * 32 + 0, 20, 0⟩
def R.decPin_pin_en (k : Nat) : Fld := ⟨(0x200 + k * 4) * 32 + 20, 1, 0⟩
-- `DEC_RC_LO`, R234
def R.decRcLo_rc_tag (e : Nat) : Fld := ⟨(0x4000 + e * 8) * 32 + 0, 20, 0⟩
def R.decRcLo_rc_verdict (e : Nat) : Fld := ⟨(0x4000 + e * 8) * 32 + 20, 2, 0⟩
def R.decRcLo_rc_valid (e : Nat) : Fld := ⟨(0x4000 + e * 8) * 32 + 22, 1, 0⟩
def R.decRcLo_rc_used (e : Nat) : Fld := ⟨(0x4000 + e * 8) * 32 + 23, 1, 0⟩
def R.decRcLo_rc_time_hi (e : Nat) : Fld := ⟨(0x4000 + e * 8) * 32 + 24, 8, 0⟩
-- `DEC_RC_HI`, R234
def R.decRcHi_rc_time_lo (e : Nat) : Fld := ⟨(0x4004 + e * 8) * 32 + 0, 32, 0⟩
-- `DEC_SLOT_LO`, R234
def R.decSlotLo_verdict (t : Nat) : Fld := ⟨(0x8000 + t * 8) * 32 + 0, 2, 0⟩
def R.decSlotLo_valid (t : Nat) : Fld := ⟨(0x8000 + t * 8) * 32 + 2, 1, 0⟩
def R.decSlotLo_time_hi (t : Nat) : Fld := ⟨(0x8000 + t * 8) * 32 + 8, 8, 0⟩
-- `DEC_SLOT_HI`, R234
def R.decSlotHi_time_lo (t : Nat) : Fld := ⟨(0x8004 + t * 8) * 32 + 0, 32, 0⟩
-- `TXN_CTL`, R256
def R.txnCtl_level : Fld := ⟨(0x40000) * 32 + 0, 1, 0⟩
def R.txnCtl_domain : Fld := ⟨(0x40000) * 32 + 8, 5, 0x1f⟩
def R.txnCtl_swarm_hops : Fld := ⟨(0x40000) * 32 + 16, 6, 1⟩
-- `TXN_SEL`, R256
def R.txnSel_txn : Fld := ⟨(0x40004) * 32 + 0, 4, 0⟩
-- `TXN_CMD`, R256
def R.txnCmd_cmode : Fld := ⟨(0x40008) * 32 + 4, 2, 0⟩
def R.txnCmd_result : Fld := ⟨(0x40008) * 32 + 8, 8, 0⟩
-- `TXN_STAGE_KIND`, R256
def R.txnStageKind_kind : Fld := ⟨(0x4000c) * 32 + 0, 3, 0⟩
def R.txnStageKind_run_len : Fld := ⟨(0x4000c) * 32 + 8, 8, 0⟩
-- `TXN_STAGE_ADDR`, R256
def R.txnStageAddr_target : Fld := ⟨(0x40010) * 32 + 0, 32, 0⟩
-- `TXN_AT_LO`, R256
def R.txnAtLo_at_lo : Fld := ⟨(0x40014) * 32 + 0, 32, 0⟩
-- `TXN_AT_HI`, R256
def R.txnAtHi_at_hi : Fld := ⟨(0x40018) * 32 + 0, 8, 0⟩
-- `TXN_SCOPE_LO`, R256
def R.txnScopeLo_scope : Fld := ⟨(0x40020) * 32 + 0, 32, 0⟩
-- `TXN_SCOPE_HI`, R256
def R.txnScopeHi_scope : Fld := ⟨(0x40024) * 32 + 0, 32, 0⟩
-- `TXN_FLAGS`, R256
def R.txnFlags_txn_late : Fld := ⟨(0x40028) * 32 + 0, 1, 0⟩
def R.txnFlags_shot_split : Fld := ⟨(0x40028) * 32 + 1, 1, 0⟩
def R.txnFlags_in_doubt : Fld := ⟨(0x40028) * 32 + 2, 1, 0⟩
def R.txnFlags_abort_late : Fld := ⟨(0x40028) * 32 + 3, 1, 0⟩
def R.txnFlags_orphan : Fld := ⟨(0x40028) * 32 + 4, 1, 0⟩
def R.txnFlags_swarm_lost : Fld := ⟨(0x40028) * 32 + 5, 1, 0⟩
-- `TXN_IMG`, R256
def R.txnImg_img_run : Fld := ⟨(0x4002c) * 32 + 0, 1, 0⟩
-- `TXN_STATE`, R257
def R.txnState_state (t : Nat) : Fld := ⟨(0x40100 + t * 4) * 32 + 0, 3, 0⟩
def R.txnState_image (t : Nat) : Fld := ⟨(0x40100 + t * 4) * 32 + 3, 1, 0⟩
def R.txnState_entries (t : Nat) : Fld := ⟨(0x40100 + t * 4) * 32 + 4, 13, 0⟩
def R.txnState_outcome (t : Nat) : Fld := ⟨(0x40100 + t * 4) * 32 + 24, 8, 0⟩
-- `SWM_CTL`, R258
def R.swmCtl_mode : Fld := ⟨(0x40200) * 32 + 1, 1, 0⟩
def R.swmCtl_self : Fld := ⟨(0x40200) * 32 + 2, 1, 0⟩
def R.swmCtl_txn_no : Fld := ⟨(0x40200) * 32 + 4, 4, 0⟩
def R.swmCtl_result : Fld := ⟨(0x40200) * 32 + 8, 8, 0⟩
def R.swmCtl_swarm_no : Fld := ⟨(0x40200) * 32 + 16, 16, 0⟩
-- `SWM_T_LO`, R258
def R.swmTLo_t_lo : Fld := ⟨(0x40204) * 32 + 0, 32, 0⟩
-- `SWM_T_HI`, R258
def R.swmTHi_t_hi : Fld := ⟨(0x40208) * 32 + 0, 8, 0⟩
-- `SWM_GUARD`, R258
def R.swmGuard_guard : Fld := ⟨(0x4020c) * 32 + 0, 16, 0xe00⟩
-- `SWM_STATUS`, R258
def R.swmStatus_phase : Fld := ⟨(0x40210) * 32 + 0, 3, 0⟩
def R.swmStatus_votes : Fld := ⟨(0x40210) * 32 + 3, 8, 0⟩
def R.swmStatus_acks : Fld := ⟨(0x40210) * 32 + 11, 8, 0⟩
-- `SWM_PART`, R258
def R.swmPart_part (j : Nat) : Fld := ⟨(0x40220 + j * 4) * 32 + 0, 32, 0⟩
-- `SWM_ORPH_0`, R259
def R.swmOrph0_orph_swarm : Fld := ⟨(0x40240) * 32 + 0, 16, 0⟩
def R.swmOrph0_orph_coord : Fld := ⟨(0x40240) * 32 + 16, 8, 0⟩
def R.swmOrph0_orph_outcome : Fld := ⟨(0x40240) * 32 + 24, 8, 0⟩
-- `SWM_ORPH_1`, R259
def R.swmOrph1_orph_peer : Fld := ⟨(0x40244) * 32 + 0, 2, 0⟩
-- `TXN_BUF`, R259
def R.txnBuf_data (i : Nat) : Fld := ⟨(0x40400 + i * 4) * 32 + 0, 32, 0⟩
-- `FRONT_CTL`, R278
def R.frontCtl_level (q : Nat) : Fld := ⟨(0x300000 + q * 0x10000) * 32 + 0, 1, 0⟩
def R.frontCtl_domain (q : Nat) : Fld := ⟨(0x300000 + q * 0x10000) * 32 + 8, 5, 16 + q⟩
-- `FRONT_OVR`, R278
def R.frontOvr_ovr (q : Nat) : Fld := ⟨(0x300004 + q * 0x10000) * 32 + 0, 16, 0⟩
def R.frontOvr_ovr_nbr (q : Nat) : Fld := ⟨(0x300004 + q * 0x10000) * 32 + 16, 16, 0⟩
-- `FRONT_IN_STATE`, R278
def R.frontInState_in_valid (q : Nat) : Fld := ⟨(0x300008 + q * 0x10000) * 32 + 0, 16, 0xffff⟩
def R.frontInState_settling (q : Nat) : Fld := ⟨(0x300008 + q * 0x10000) * 32 + 16, 16, 0⟩
-- `FRONT_MUTED`, R278
def R.frontMuted_muted (q : Nat) : Fld := ⟨(0x30000c + q * 0x10000) * 32 + 0, 32, 0xffffffff⟩
-- `DAC_CFG`, R279
def R.dacCfg_centre (q j : Nat) : Fld := ⟨(0x100000000 + q * 0x4000000 + j * 0x10) * 32 + 0, 8, 0x64⟩
def R.dacCfg_ns_en (q j : Nat) : Fld := ⟨(0x100000000 + q * 0x4000000 + j * 0x10) * 32 + 8, 1, 1⟩
def R.dacCfg_sinc_en (q j : Nat) : Fld := ⟨(0x100000000 + q * 0x4000000 + j * 0x10) * 32 + 9, 1, 1⟩
def R.dacCfg_mute (q j : Nat) : Fld := ⟨(0x100000000 + q * 0x4000000 + j * 0x10) * 32 + 10, 1, 0⟩
-- `DAC_FS`, R279
def R.dacFs_fs_trim (q j : Nat) : Fld := ⟨(0x100000004 + q * 0x4000000 + j * 0x10) * 32 + 0, 8, 0⟩
-- `DAC_MUTE_WHY`, R279
def R.dacMuteWhy_mute_why (q j : Nat) : Fld := ⟨(0x100000008 + q * 0x4000000 + j * 0x10) * 32 + 0, 6, 1⟩
-- `ADC_CFG`, R280
def R.adcCfg_band (q i : Nat) : Fld := ⟨(0x100000400 + q * 0x4000000 + i * 0x10) * 32 + 0, 1, 0⟩
-- `ADC_OVR_CNT`, R280
def R.adcOvrCnt_ovr_count (q i : Nat) : Fld := ⟨(0x100000404 + q * 0x4000000 + i * 0x10) * 32 + 0, 32, 0⟩
-- `CAP_CTL`, R303
def R.capCtl_level : Fld := ⟨(0x410000) * 32 + 0, 1, 0⟩
def R.capCtl_domain : Fld := ⟨(0x410000) * 32 + 8, 5, 0x1f⟩
def R.capCtl_compat : Fld := ⟨(0x410000) * 32 + 16, 4, 0⟩
-- `CAP_CMD`, R303
def R.capCmd_result : Fld := ⟨(0x410004) * 32 + 8, 8, 0⟩
-- `CAP_MASK_LO`, R303
def R.capMaskLo_mask_lo : Fld := ⟨(0x410008) * 32 + 0, 32, 0⟩
-- `CAP_MASK_HI`, R303
def R.capMaskHi_mask_hi : Fld := ⟨(0x41000c) * 32 + 0, 32, 0⟩
-- `CAP_ARMED_LO`, R303
def R.capArmedLo_armed_lo : Fld := ⟨(0x410010) * 32 + 0, 32, 0⟩
-- `CAP_ARMED_HI`, R303
def R.capArmedHi_armed_hi : Fld := ⟨(0x410014) * 32 + 0, 32, 0⟩
-- `CAP_RING_BASE`, R304
def R.capRingBase_ring_base (p : Nat) : Fld := ⟨(0x411000 + p * 0x40) * 32 + 0, 18, 0⟩
-- `CAP_RING_SIZE`, R304
def R.capRingSize_ring_size (p : Nat) : Fld := ⟨(0x411004 + p * 0x40) * 32 + 0, 18, 1⟩
-- `CAP_WR`, R304
def R.capWr_cap_wr (p : Nat) : Fld := ⟨(0x411008 + p * 0x40) * 32 + 0, 32, 0⟩
-- `CAP_RD`, R304
def R.capRd_cap_rd (p : Nat) : Fld := ⟨(0x41100c + p * 0x40) * 32 + 0, 32, 0⟩
-- `CAP_PRE`, R304
def R.capPre_n_pre (p : Nat) : Fld := ⟨(0x411010 + p * 0x40) * 32 + 0, 32, 0⟩
-- `CAP_POST`, R304
def R.capPost_n_post (p : Nat) : Fld := ⟨(0x411014 + p * 0x40) * 32 + 0, 32, 0x400⟩
-- `CAP_TRIG`, R304
def R.capTrig_en_edge (p : Nat) : Fld := ⟨(0x411018 + p * 0x40) * 32 + 0, 1, 1⟩
def R.capTrig_en_width (p : Nat) : Fld := ⟨(0x411018 + p * 0x40) * 32 + 1, 1, 0⟩
def R.capTrig_en_runt (p : Nat) : Fld := ⟨(0x411018 + p * 0x40) * 32 + 2, 1, 0⟩
def R.capTrig_en_slew (p : Nat) : Fld := ⟨(0x411018 + p * 0x40) * 32 + 3, 1, 0⟩
def R.capTrig_en_timeout (p : Nat) : Fld := ⟨(0x411018 + p * 0x40) * 32 + 4, 1, 0⟩
def R.capTrig_en_ext (p : Nat) : Fld := ⟨(0x411018 + p * 0x40) * 32 + 5, 1, 0⟩
def R.capTrig_edge_pol (p : Nat) : Fld := ⟨(0x411018 + p * 0x40) * 32 + 6, 1, 0⟩
def R.capTrig_w_in (p : Nat) : Fld := ⟨(0x411018 + p * 0x40) * 32 + 7, 1, 1⟩
def R.capTrig_s_in (p : Nat) : Fld := ⟨(0x411018 + p * 0x40) * 32 + 8, 1, 1⟩
def R.capTrig_rearm (p : Nat) : Fld := ⟨(0x411018 + p * 0x40) * 32 + 9, 1, 1⟩
def R.capTrig_dec (p : Nat) : Fld := ⟨(0x411018 + p * 0x40) * 32 + 10, 2, 0⟩
-- `CAP_TH_B`, R304
def R.capThB_th_b (p : Nat) : Fld := ⟨(0x41101c + p * 0x40) * 32 + 0, 19, 0x40000⟩
-- `CAP_TH_A`, R304
def R.capThA_th_a (p : Nat) : Fld := ⟨(0x411020 + p * 0x40) * 32 + 0, 19, 0x20000⟩
-- `CAP_HYST`, R304
def R.capHyst_hyst (p : Nat) : Fld := ⟨(0x411024 + p * 0x40) * 32 + 0, 19, 0x4000⟩
-- `CAP_WIDTH`, R304
def R.capWidth_w_min (p : Nat) : Fld := ⟨(0x411028 + p * 0x40) * 32 + 0, 16, 0⟩
def R.capWidth_w_max (p : Nat) : Fld := ⟨(0x411028 + p * 0x40) * 32 + 16, 16, 0xffff⟩
-- `CAP_SLEW`, R304
def R.capSlew_s_min (p : Nat) : Fld := ⟨(0x41102c + p * 0x40) * 32 + 0, 16, 0⟩
def R.capSlew_s_max (p : Nat) : Fld := ⟨(0x41102c + p * 0x40) * 32 + 16, 16, 0xffff⟩
-- `CAP_TIMEOUT`, R304
def R.capTimeout_to_len (p : Nat) : Fld := ⟨(0x411030 + p * 0x40) * 32 + 0, 24, 0x320⟩
-- `CAP_AUTO`, R304
def R.capAuto_auto_to (p : Nat) : Fld := ⟨(0x411034 + p * 0x40) * 32 + 0, 16, 0⟩
-- `CAP_PSTAT`, R304
def R.capPstat_state (p : Nat) : Fld := ⟨(0x411038 + p * 0x40) * 32 + 0, 2, 0⟩
def R.capPstat_stop_why (p : Nat) : Fld := ⟨(0x411038 + p * 0x40) * 32 + 2, 3, 0⟩
def R.capPstat_cap_full (p : Nat) : Fld := ⟨(0x411038 + p * 0x40) * 32 + 5, 1, 0⟩
def R.capPstat_pre_short (p : Nat) : Fld := ⟨(0x411038 + p * 0x40) * 32 + 6, 1, 0⟩
def R.capPstat_halved (p : Nat) : Fld := ⟨(0x411038 + p * 0x40) * 32 + 7, 1, 0⟩
def R.capPstat_trig_skip (p : Nat) : Fld := ⟨(0x411038 + p * 0x40) * 32 + 8, 8, 0⟩
def R.capPstat_rec_lost (p : Nat) : Fld := ⟨(0x411038 + p * 0x40) * 32 + 16, 16, 0⟩
-- `CAP_SHARE`, R304
def R.capShare_share (p : Nat) : Fld := ⟨(0x41103c + p * 0x40) * 32 + 0, 8, 0x40⟩
-- `BIAS_CTL`, R323
def R.biasCtl_level (n : Nat) : Fld := ⟨(0x100400 + n * 0x4000) * 32 + 0, 1, 0⟩
def R.biasCtl_ld_gang (n : Nat) : Fld := ⟨(0x100400 + n * 0x4000) * 32 + 8, 1, 0⟩
def R.biasCtl_ld_dom (n : Nat) : Fld := ⟨(0x100400 + n * 0x4000) * 32 + 16, 5, 0⟩
-- `BIAS_CMD`, R323
def R.biasCmd_result (n : Nat) : Fld := ⟨(0x100404 + n * 0x4000) * 32 + 8, 8, 0⟩
-- `BIAS_STATUS`, R323
def R.biasStatus_ld_hold (n : Nat) : Fld := ⟨(0x100408 + n * 0x4000) * 32 + 0, 1, 0⟩
def R.biasStatus_hold_drop (n : Nat) : Fld := ⟨(0x100408 + n * 0x4000) * 32 + 1, 1, 0⟩
def R.biasStatus_flux_sat (n : Nat) : Fld := ⟨(0x100408 + n * 0x4000) * 32 + 2, 1, 0⟩
def R.biasStatus_flux_bad (n : Nat) : Fld := ⟨(0x100408 + n * 0x4000) * 32 + 3, 1, 0⟩
def R.biasStatus_flux_ecc (n : Nat) : Fld := ⟨(0x100408 + n * 0x4000) * 32 + 4, 1, 0⟩
def R.biasStatus_flux_preempt (n : Nat) : Fld := ⟨(0x100408 + n * 0x4000) * 32 + 5, 1, 0⟩
def R.biasStatus_tripped (n : Nat) : Fld := ⟨(0x100408 + n * 0x4000) * 32 + 8, 4, 0⟩
def R.biasStatus_holding (n : Nat) : Fld := ⟨(0x100408 + n * 0x4000) * 32 + 12, 4, 0⟩
def R.biasStatus_staged (n : Nat) : Fld := ⟨(0x100408 + n * 0x4000) * 32 + 16, 4, 0⟩
-- `BIAS_STAGE`, R323
def R.biasStage_stage_code (n b : Nat) : Fld := ⟨(0x100410 + n * 0x4000 + b * 4) * 32 + 0, 20, 0⟩
-- `BIAS_ACT`, R323
def R.biasAct_code_act (n b : Nat) : Fld := ⟨(0x100420 + n * 0x4000 + b * 4) * 32 + 0, 20, 0⟩
-- `BIAS_FLUX_A`, R323
def R.biasFluxA_fx_base (n f : Nat) : Fld := ⟨(0x100500 + n * 0x4000 + f * 8) * 32 + 0, 16, 0⟩
def R.biasFluxA_fx_len (n f : Nat) : Fld := ⟨(0x100500 + n * 0x4000 + f * 8) * 32 + 16, 16, 0⟩
-- `BIAS_FLUX_B`, R323
def R.biasFluxB_fx_scale (n f : Nat) : Fld := ⟨(0x100504 + n * 0x4000 + f * 8) * 32 + 0, 20, 0x7ffff⟩
def R.biasFluxB_fx_hold (n f : Nat) : Fld := ⟨(0x100504 + n * 0x4000 + f * 8) * 32 + 20, 1, 0⟩
-- `BIAS_SET`, R323
def R.biasSet_set_code (n s b : Nat) : Fld := ⟨(0x100600 + n * 0x4000 + s * 0x10 + b * 4) * 32 + 0, 20, 0⟩
-- `FRONT_BIAS_OPEN_LO`, R324
def R.frontBiasOpenLo_open_lo (q : Nat) : Fld := ⟨(0x300020 + q * 0x10000) * 32 + 0, 32, 0⟩
-- `FRONT_BIAS_OPEN_HI`, R324
def R.frontBiasOpenHi_open_hi (q : Nat) : Fld := ⟨(0x300024 + q * 0x10000) * 32 + 0, 32, 0⟩
-- `FRONT_BIAS_LIM_LO`, R324
def R.frontBiasLimLo_lim_lo (q : Nat) : Fld := ⟨(0x300028 + q * 0x10000) * 32 + 0, 32, 0⟩
-- `FRONT_BIAS_LIM_HI`, R324
def R.frontBiasLimHi_lim_hi (q : Nat) : Fld := ⟨(0x30002c + q * 0x10000) * 32 + 0, 32, 0⟩
-- `FRONT_BIAS_TRIP_LO`, R324
def R.frontBiasTripLo_trip_lo (q : Nat) : Fld := ⟨(0x300030 + q * 0x10000) * 32 + 0, 32, 0⟩
-- `FRONT_BIAS_TRIP_HI`, R324
def R.frontBiasTripHi_trip_hi (q : Nat) : Fld := ⟨(0x300034 + q * 0x10000) * 32 + 0, 32, 0⟩
-- `BIAS_CFG`, R324
def R.biasCfg_range (q k : Nat) : Fld := ⟨(0x100000500 + q * 0x4000000 + k * 4) * 32 + 0, 2, 0⟩
def R.biasCfg_sup (q k : Nat) : Fld := ⟨(0x100000500 + q * 0x4000000 + k * 4) * 32 + 2, 2, 1⟩
def R.biasCfg_lim_lvl (q k : Nat) : Fld := ⟨(0x100000500 + q * 0x4000000 + k * 4) * 32 + 4, 2, 1⟩
def R.biasCfg_open_q (q k : Nat) : Fld := ⟨(0x100000500 + q * 0x4000000 + k * 4) * 32 + 6, 4, 1⟩
def R.biasCfg_lim_q (q k : Nat) : Fld := ⟨(0x100000500 + q * 0x4000000 + k * 4) * 32 + 10, 4, 9⟩
-- `MARK_CTL`, R345
def R.markCtl_level (n : Nat) : Fld := ⟨(0x100e00 + n * 0x4000) * 32 + 0, 1, 0⟩
def R.markCtl_hold (n : Nat) : Fld := ⟨(0x100e00 + n * 0x4000) * 32 + 1, 2, 0⟩
def R.markCtl_force_set (n : Nat) : Fld := ⟨(0x100e00 + n * 0x4000) * 32 + 8, 3, 0⟩
def R.markCtl_mk_trim (n : Nat) : Fld := ⟨(0x100e00 + n * 0x4000) * 32 + 16, 6, 0⟩
-- `MARK_CMD`, R345
def R.markCmd_result (n : Nat) : Fld := ⟨(0x100e04 + n * 0x4000) * 32 + 8, 8, 0⟩
-- `MARK_STATUS`, R345
def R.markStatus_mark_merge (n : Nat) : Fld := ⟨(0x100e08 + n * 0x4000) * 32 + 0, 1, 0⟩
def R.markStatus_mark_late (n : Nat) : Fld := ⟨(0x100e08 + n * 0x4000) * 32 + 1, 1, 0⟩
def R.markStatus_level_now (n : Nat) : Fld := ⟨(0x100e08 + n * 0x4000) * 32 + 2, 1, 0⟩
-- `MARK_SET_A`, R345
def R.markSetA_rise_off (n t : Nat) : Fld := ⟨(0x100e20 + n * 0x4000 + t * 8) * 32 + 0, 16, 0⟩
def R.markSetA_rise_vern (n t : Nat) : Fld := ⟨(0x100e20 + n * 0x4000 + t * 8) * 32 + 16, 4, 0⟩
def R.markSetA_edges (n t : Nat) : Fld := ⟨(0x100e20 + n * 0x4000 + t * 8) * 32 + 20, 2, 0⟩
-- `MARK_SET_B`, R345
def R.markSetB_fall_off (n t : Nat) : Fld := ⟨(0x100e24 + n * 0x4000 + t * 8) * 32 + 0, 16, 0⟩
def R.markSetB_fall_vern (n t : Nat) : Fld := ⟨(0x100e24 + n * 0x4000 + t * 8) * 32 + 16, 4, 0⟩
-- `STP_CTL`, R346
def R.stpCtl_level : Fld := ⟨(0x400000) * 32 + 0, 1, 0⟩
def R.stpCtl_domain : Fld := ⟨(0x400000) * 32 + 8, 5, 0x1f⟩
-- `STP_MISS`, R346
def R.stpMiss_miss : Fld := ⟨(0x400004) * 32 + 0, 32, 0⟩
-- `STP_CD`, R346
def R.stpCd_cd_in : Fld := ⟨(0x400008) * 32 + 0, 5, 0⟩
def R.stpCd_cd_busy : Fld := ⟨(0x400008) * 32 + 9, 1, 0⟩
def R.stpCd_result : Fld := ⟨(0x400008) * 32 + 16, 8, 0⟩
-- `STP_IN_CFG`, R346
def R.stpInCfg_en (s : Nat) : Fld := ⟨(0x400100 + s * 0x10) * 32 + 0, 1, 0⟩
def R.stpInCfg_edge (s : Nat) : Fld := ⟨(0x400100 + s * 0x10) * 32 + 1, 2, 0⟩
def R.stpInCfg_thr (s : Nat) : Fld := ⟨(0x400100 + s * 0x10) * 32 + 8, 8, 0⟩
def R.stpInCfg_hyst (s : Nat) : Fld := ⟨(0x400100 + s * 0x10) * 32 + 16, 6, 5⟩
-- `STP_IN_HO`, R346
def R.stpInHo_holdoff (s : Nat) : Fld := ⟨(0x400104 + s * 0x10) * 32 + 0, 11, 0⟩
def R.stpInHo_miss_count (s : Nat) : Fld := ⟨(0x400104 + s * 0x10) * 32 + 16, 16, 0⟩
-- `STP_IN_LAST_LO`, R346
def R.stpInLastLo_last_frac (s : Nat) : Fld := ⟨(0x400108 + s * 0x10) * 32 + 0, 8, 0⟩
def R.stpInLastLo_last_t_lo (s : Nat) : Fld := ⟨(0x400108 + s * 0x10) * 32 + 8, 24, 0⟩
-- `STP_IN_LAST_HI`, R346
def R.stpInLastHi_last_t_hi (s : Nat) : Fld := ⟨(0x40010c + s * 0x10) * 32 + 0, 16, 0⟩
def R.stpInLastHi_ho_count (s : Nat) : Fld := ⟨(0x40010c + s * 0x10) * 32 + 16, 16, 0⟩
-- `STP_LUT`, R346
def R.stpLut_lut (s w : Nat) : Fld := ⟨(0x400400 + s * 0x10 + w * 4) * 32 + 0, 32, 0⟩
-- `STP_M_CFG`, R346
def R.stpMCfg_mode (u : Nat) : Fld := ⟨(0x400800 + u * 0x20) * 32 + 0, 1, 0⟩
def R.stpMCfg_repeat (u : Nat) : Fld := ⟨(0x400800 + u * 0x20) * 32 + 1, 1, 0⟩
def R.stpMCfg_restart (u : Nat) : Fld := ⟨(0x400800 + u * 0x20) * 32 + 2, 1, 0⟩
def R.stpMCfg_start_src (u : Nat) : Fld := ⟨(0x400800 + u * 0x20) * 32 + 8, 6, 0⟩
def R.stpMCfg_stop_src (u : Nat) : Fld := ⟨(0x400800 + u * 0x20) * 32 + 16, 6, 0⟩
-- `STP_M_CMD`, R346
def R.stpMCmd_busy (u : Nat) : Fld := ⟨(0x400804 + u * 0x20) * 32 + 2, 1, 0⟩
def R.stpMCmd_lost (u : Nat) : Fld := ⟨(0x400804 + u * 0x20) * 32 + 3, 1, 0⟩
def R.stpMCmd_result (u : Nat) : Fld := ⟨(0x400804 + u * 0x20) * 32 + 8, 8, 0⟩
-- `STP_M_TO_LO`, R346
def R.stpMToLo_to_lo (u : Nat) : Fld := ⟨(0x400808 + u * 0x20) * 32 + 0, 32, 0x6400⟩
-- `STP_M_TO_HI`, R346
def R.stpMToHi_to_hi (u : Nat) : Fld := ⟨(0x40080c + u * 0x20) * 32 + 0, 7, 0⟩
def R.stpMToHi_gate (u : Nat) : Fld := ⟨(0x40080c + u * 0x20) * 32 + 16, 14, 0x3e8⟩
-- `STP_M_PNOM`, R346
def R.stpMPnom_p_nom (u : Nat) : Fld := ⟨(0x400810 + u * 0x20) * 32 + 0, 32, 0x10000⟩
-- `STP_M_RES_LO`, R346
def R.stpMResLo_res_lo (u : Nat) : Fld := ⟨(0x400814 + u * 0x20) * 32 + 0, 32, 0⟩
-- `STP_M_RES_HI`, R346
def R.stpMResHi_res_hi (u : Nat) : Fld := ⟨(0x400818 + u * 0x20) * 32 + 0, 16, 0⟩
-- `STP_M_N`, R346
def R.stpMN_n_used (u : Nat) : Fld := ⟨(0x40081c + u * 0x20) * 32 + 0, 32, 0⟩
-- `STP_LINK`, R346
def R.stpLink_delay (p : Nat) : Fld := ⟨(0x400c00 + p * 4) * 32 + 0, 24, 0⟩
def R.stpLink_ld_valid (p : Nat) : Fld := ⟨(0x400c00 + p * 4) * 32 + 24, 1, 0⟩
def R.stpLink_link_long (p : Nat) : Fld := ⟨(0x400c00 + p * 4) * 32 + 25, 1, 0⟩
-- `MEM_CTL`, R367
def R.memCtl_level : Fld := ⟨(0x50000) * 32 + 0, 1, 0⟩
def R.memCtl_domain : Fld := ⟨(0x50000) * 32 + 8, 5, 0x1d⟩
def R.memCtl_scrub_h : Fld := ⟨(0x50000) * 32 + 16, 8, 8⟩
-- `MEM_CMD`, R367
def R.memCmd_result : Fld := ⟨(0x50004) * 32 + 8, 8, 0⟩
-- `MEM_STATUS`, R367
def R.memStatus_ue : Fld := ⟨(0x50008) * 32 + 0, 1, 0⟩
def R.memStatus_poison_hit : Fld := ⟨(0x50008) * 32 + 1, 1, 0⟩
def R.memStatus_spare_out : Fld := ⟨(0x50008) * 32 + 2, 1, 0⟩
def R.memStatus_stack_lost : Fld := ⟨(0x50008) * 32 + 3, 1, 0⟩
def R.memStatus_dl_late : Fld := ⟨(0x50008) * 32 + 4, 1, 0⟩
def R.memStatus_fs_err : Fld := ⟨(0x50008) * 32 + 5, 1, 0⟩
def R.memStatus_admit_ref : Fld := ⟨(0x50008) * 32 + 6, 1, 0⟩
-- `MEM_RSV`, R367
def R.memRsv_rsv_sum : Fld := ⟨(0x50010) * 32 + 0, 19, 0⟩
-- `MEM_HOST_RSV`, R367
def R.memHostRsv_host_rsv : Fld := ⟨(0x50014) * 32 + 0, 16, 0⟩
def R.memHostRsv_host_act : Fld := ⟨(0x50014) * 32 + 16, 16, 0⟩
-- `MEM_DL_LATE`, R367
def R.memDlLate_dl_late_count : Fld := ⟨(0x50018) * 32 + 0, 32, 0⟩
-- `MEM_DRES_LO`, R367
def R.memDresLo_desc_res_lo : Fld := ⟨(0x50020) * 32 + 0, 32, 0⟩
-- `MEM_DRES_HI`, R367
def R.memDresHi_desc_res_hi : Fld := ⟨(0x50024) * 32 + 0, 32, 0⟩
-- `MEM_RGN_RBASE`, R368
def R.memRgnRbase_req_base (r : Nat) : Fld := ⟨(0x50040 + r * 0x10) * 32 + 0, 19, rgnBaseReset r⟩
-- `MEM_RGN_RSIZE`, R368
def R.memRgnRsize_req_size (r : Nat) : Fld := ⟨(0x50044 + r * 0x10) * 32 + 0, 19, Sys2Proof.Machine.rgnSizeReset r⟩
-- `MEM_RGN_BASE`, R368
def R.memRgnBase_rgn_base (r : Nat) : Fld := ⟨(0x50048 + r * 0x10) * 32 + 0, 19, rgnBaseReset r⟩
-- `MEM_RGN_SIZE`, R368
def R.memRgnSize_rgn_size (r : Nat) : Fld := ⟨(0x5004c + r * 0x10) * 32 + 0, 19, Sys2Proof.Machine.rgnSizeReset r⟩
-- `MEM_STK_CE`, R369
def R.memStkCe_ce_count (s : Nat) : Fld := ⟨(0x50100 + s * 0x10) * 32 + 0, 32, 0⟩
-- `MEM_STK_UE`, R369
def R.memStkUe_ue_count (s : Nat) : Fld := ⟨(0x50104 + s * 0x10) * 32 + 0, 32, 0⟩
-- `MEM_STK_REP`, R369
def R.memStkRep_rep_count (s : Nat) : Fld := ⟨(0x50108 + s * 0x10) * 32 + 0, 16, 0⟩
def R.memStkRep_spares_min (s : Nat) : Fld := ⟨(0x50108 + s * 0x10) * 32 + 16, 16, 0⟩
-- `MEM_STK_TEMP`, R369
def R.memStkTemp_temp (s : Nat) : Fld := ⟨(0x5010c + s * 0x10) * 32 + 0, 8, 0⟩
def R.memStkTemp_refresh (s : Nat) : Fld := ⟨(0x5010c + s * 0x10) * 32 + 8, 2, 0⟩
-- `MEM_FS`, R370
def R.memFs_fs_base (p : Nat) : Fld := ⟨(0x50200 + p * 4) * 32 + 0, 12, 0⟩
def R.memFs_fs_size (p : Nat) : Fld := ⟨(0x50200 + p * 4) * 32 + 12, 13, 0⟩
def R.memFs_fs_en (p : Nat) : Fld := ⟨(0x50200 + p * 4) * 32 + 25, 1, 0⟩
-- `ELV_CTL`, R399
def R.elvCtl_level (p : Nat) : Fld := ⟨(0x200000 + p * 0x1000) * 32 + 0, 1, 0⟩
def R.elvCtl_en (p : Nat) : Fld := ⟨(0x200000 + p * 0x1000) * 32 + 1, 1, 0⟩
def R.elvCtl_role (p : Nat) : Fld := ⟨(0x200000 + p * 0x1000) * 32 + 2, 2, 0⟩
def R.elvCtl_ver_max (p : Nat) : Fld := ⟨(0x200000 + p * 0x1000) * 32 + 4, 3, 3⟩
def R.elvCtl_manual (p : Nat) : Fld := ⟨(0x200000 + p * 0x1000) * 32 + 7, 1, 0⟩
def R.elvCtl_domain (p : Nat) : Fld := ⟨(0x200000 + p * 0x1000) * 32 + 8, 5, 20 + p⟩
-- `ELV_CMD`, R399
def R.elvCmd_result (p : Nat) : Fld := ⟨(0x200004 + p * 0x1000) * 32 + 8, 8, 0⟩
def R.elvCmd_slip_lane (p : Nat) : Fld := ⟨(0x200004 + p * 0x1000) * 32 + 16, 5, 0⟩
-- `ELV_STATUS`, R399
def R.elvStatus_state (p : Nat) : Fld := ⟨(0x200008 + p * 0x1000) * 32 + 0, 3, 0⟩
def R.elvStatus_paused (p : Nat) : Fld := ⟨(0x200008 + p * 0x1000) * 32 + 3, 1, 0⟩
def R.elvStatus_ver (p : Nat) : Fld := ⟨(0x200008 + p * 0x1000) * 32 + 4, 2, 0⟩
def R.elvStatus_pkind (p : Nat) : Fld := ⟨(0x200008 + p * 0x1000) * 32 + 6, 2, 0⟩
def R.elvStatus_pdev (p : Nat) : Fld := ⟨(0x200008 + p * 0x1000) * 32 + 8, 8, 0⟩
def R.elvStatus_lq_count (p : Nat) : Fld := ⟨(0x200008 + p * 0x1000) * 32 + 16, 7, 0⟩
def R.elvStatus_rx_count (p : Nat) : Fld := ⟨(0x200008 + p * 0x1000) * 32 + 23, 5, 0⟩
-- `ELV_FLAGS`, R399
def R.elvFlags_train_to (p : Nat) : Fld := ⟨(0x20000c + p * 0x1000) * 32 + 0, 1, 0⟩
def R.elvFlags_lane_fail (p : Nat) : Fld := ⟨(0x20000c + p * 0x1000) * 32 + 1, 1, 0⟩
def R.elvFlags_ver_err (p : Nat) : Fld := ⟨(0x20000c + p * 0x1000) * 32 + 2, 1, 0⟩
def R.elvFlags_role_err (p : Nat) : Fld := ⟨(0x20000c + p * 0x1000) * 32 + 3, 1, 0⟩
def R.elvFlags_remap (p : Nat) : Fld := ⟨(0x20000c + p * 0x1000) * 32 + 4, 1, 0⟩
def R.elvFlags_pause_to (p : Nat) : Fld := ⟨(0x20000c + p * 0x1000) * 32 + 5, 1, 0⟩
def R.elvFlags_crc_run (p : Nat) : Fld := ⟨(0x20000c + p * 0x1000) * 32 + 6, 1, 0⟩
def R.elvFlags_frame_lost (p : Nat) : Fld := ⟨(0x20000c + p * 0x1000) * 32 + 7, 1, 0⟩
def R.elvFlags_frame_late (p : Nat) : Fld := ⟨(0x20000c + p * 0x1000) * 32 + 8, 1, 0⟩
def R.elvFlags_late_sent (p : Nat) : Fld := ⟨(0x20000c + p * 0x1000) * 32 + 9, 1, 0⟩
def R.elvFlags_lq_slip (p : Nat) : Fld := ⟨(0x20000c + p * 0x1000) * 32 + 10, 1, 0⟩
def R.elvFlags_pkt_bad (p : Nat) : Fld := ⟨(0x20000c + p * 0x1000) * 32 + 11, 1, 0⟩
def R.elvFlags_rx_drop (p : Nat) : Fld := ⟨(0x20000c + p * 0x1000) * 32 + 12, 1, 0⟩
-- `ELV_ALIGN`, R399
def R.elvAlign_align_ok (p : Nat) : Fld := ⟨(0x200010 + p * 0x1000) * 32 + 0, 18, 0⟩
-- `ELV_LOS`, R399
def R.elvLos_los (p : Nat) : Fld := ⟨(0x200014 + p * 0x1000) * 32 + 0, 19, 0⟩
-- `ELV_LOL`, R399
def R.elvLol_lol (p : Nat) : Fld := ⟨(0x200018 + p * 0x1000) * 32 + 0, 19, 0⟩
-- `ELV_MAP`, R399
def R.elvMap_tx_sub0 (p : Nat) : Fld := ⟨(0x20001c + p * 0x1000) * 32 + 0, 5, 0x1f⟩
def R.elvMap_tx_sub1 (p : Nat) : Fld := ⟨(0x20001c + p * 0x1000) * 32 + 8, 5, 0x1f⟩
def R.elvMap_rx_sub0 (p : Nat) : Fld := ⟨(0x20001c + p * 0x1000) * 32 + 16, 5, 0x1f⟩
def R.elvMap_rx_sub1 (p : Nat) : Fld := ⟨(0x20001c + p * 0x1000) * 32 + 24, 5, 0x1f⟩
-- `ELV_CRC`, R399
def R.elvCrc_crc_count (p : Nat) : Fld := ⟨(0x200020 + p * 0x1000) * 32 + 0, 32, 0⟩
-- `ELV_REPLAY`, R399
def R.elvReplay_replay_count (p : Nat) : Fld := ⟨(0x200024 + p * 0x1000) * 32 + 0, 32, 0⟩
-- `ELV_LATE`, R399
def R.elvLate_late_count (p : Nat) : Fld := ⟨(0x200028 + p * 0x1000) * 32 + 0, 32, 0⟩
-- `ELV_LOST`, R399
def R.elvLost_lost_count (p : Nat) : Fld := ⟨(0x20002c + p * 0x1000) * 32 + 0, 32, 0⟩
-- `ELV_LQ_T_LO`, R400
def R.elvLqTLo_lq_t_lo (p : Nat) : Fld := ⟨(0x200040 + p * 0x1000) * 32 + 0, 32, 0⟩
-- `ELV_LQ_CFG`, R400
def R.elvLqCfg_lq_t_hi (p : Nat) : Fld := ⟨(0x200044 + p * 0x1000) * 32 + 0, 8, 0⟩
def R.elvLqCfg_late_ok (p : Nat) : Fld := ⟨(0x200044 + p * 0x1000) * 32 + 8, 1, 0⟩
def R.elvLqCfg_lq_len (p : Nat) : Fld := ⟨(0x200044 + p * 0x1000) * 32 + 12, 4, 1⟩
-- `ELV_LQ_D`, R400
def R.elvLqD_lq_data (p i : Nat) : Fld := ⟨(0x200050 + p * 0x1000 + i * 4) * 32 + 0, 32, 0⟩
-- `ELV_RX_INFO`, R400
def R.elvRxInfo_rx_len (p : Nat) : Fld := ⟨(0x2000a0 + p * 0x1000) * 32 + 0, 4, 0⟩
def R.elvRxInfo_rx_valid (p : Nat) : Fld := ⟨(0x2000a0 + p * 0x1000) * 32 + 4, 1, 0⟩
def R.elvRxInfo_rx_t_hi (p : Nat) : Fld := ⟨(0x2000a0 + p * 0x1000) * 32 + 8, 8, 0⟩
-- `ELV_RX_T_LO`, R400
def R.elvRxTLo_rx_t_lo (p : Nat) : Fld := ⟨(0x2000a4 + p * 0x1000) * 32 + 0, 32, 0⟩
-- `ELV_RX_D`, R400
def R.elvRxD_rx_data (p i : Nat) : Fld := ⟨(0x2000b0 + p * 0x1000 + i * 4) * 32 + 0, 32, 0⟩
-- `ELV_TX_EQ`, R401
def R.elvTxEq_swing (p l : Nat) : Fld := ⟨(0x120000000 + p * 0x4000000 + l * 4) * 32 + 0, 3, 5⟩
def R.elvTxEq_deemph (p l : Nat) : Fld := ⟨(0x120000000 + p * 0x4000000 + l * 4) * 32 + 3, 4, 4⟩
-- `ELV_RX_EQ`, R401
def R.elvRxEq_ctle (p l : Nat) : Fld := ⟨(0x120000080 + p * 0x4000000 + l * 4) * 32 + 0, 4, 6⟩
def R.elvRxEq_dsk (p l : Nat) : Fld := ⟨(0x120000080 + p * 0x4000000 + l * 4) * 32 + 8, 3, 0⟩
def R.elvRxEq_slips (p l : Nat) : Fld := ⟨(0x120000080 + p * 0x4000000 + l * 4) * 32 + 16, 6, 0⟩
-- `CHN_CTL`, R424
def R.chnCtl_level : Fld := ⟨(0x30400) * 32 + 0, 1, 0⟩
def R.chnCtl_role : Fld := ⟨(0x30400) * 32 + 1, 2, 0⟩
def R.chnCtl_id_valid : Fld := ⟨(0x30400) * 32 + 3, 1, 0⟩
def R.chnCtl_pps_oe : Fld := ⟨(0x30400) * 32 + 4, 1, 0⟩
def R.chnCtl_pps_in_en : Fld := ⟨(0x30400) * 32 + 5, 1, 0⟩
def R.chnCtl_revert : Fld := ⟨(0x30400) * 32 + 6, 1, 1⟩
def R.chnCtl_id : Fld := ⟨(0x30400) * 32 + 8, 8, 0⟩
-- `CHN_STATUS`, R424
def R.chnStatus_cstate : Fld := ⟨(0x30404) * 32 + 0, 3, 0⟩
def R.chnStatus_ref : Fld := ⟨(0x30404) * 32 + 3, 2, 0⟩
def R.chnStatus_locked : Fld := ⟨(0x30404) * 32 + 5, 1, 0⟩
def R.chnStatus_a_ok : Fld := ⟨(0x30404) * 32 + 6, 1, 0⟩
def R.chnStatus_b_ok : Fld := ⟨(0x30404) * 32 + 7, 1, 0⟩
def R.chnStatus_join_wait : Fld := ⟨(0x30404) * 32 + 8, 1, 0⟩
def R.chnStatus_join_ahead : Fld := ⟨(0x30404) * 32 + 9, 1, 0⟩
def R.chnStatus_id_clash : Fld := ⟨(0x30404) * 32 + 10, 1, 0⟩
def R.chnStatus_q_switch : Fld := ⟨(0x30404) * 32 + 11, 1, 0⟩
def R.chnStatus_holdover_in : Fld := ⟨(0x30404) * 32 + 12, 1, 0⟩
def R.chnStatus_stepped : Fld := ⟨(0x30404) * 32 + 13, 1, 0⟩
def R.chnStatus_chain_conflict : Fld := ⟨(0x30404) * 32 + 14, 1, 0⟩
def R.chnStatus_pps_bad : Fld := ⟨(0x30404) * 32 + 15, 1, 0⟩
-- `CHN_QUEEN`, R424
def R.chnQueen_qa_id : Fld := ⟨(0x30408) * 32 + 0, 8, 0⟩
def R.chnQueen_qb_id : Fld := ⟨(0x30408) * 32 + 8, 8, 0⟩
def R.chnQueen_qa_hops : Fld := ⟨(0x30408) * 32 + 16, 6, 0⟩
def R.chnQueen_qb_hops : Fld := ⟨(0x30408) * 32 + 24, 6, 0⟩
-- `CHN_OFF_A`, R424
def R.chnOffA_off_a : Fld := ⟨(0x30410) * 32 + 0, 32, 0⟩
-- `CHN_OFF_B`, R424
def R.chnOffB_off_b : Fld := ⟨(0x30414) * 32 + 0, 32, 0⟩
-- `CHN_RATE_LO`, R424
def R.chnRateLo_rho_lo : Fld := ⟨(0x30418) * 32 + 0, 32, 0⟩
-- `CHN_RATE_HI`, R424
def R.chnRateHi_rho_hi : Fld := ⟨(0x3041c) * 32 + 0, 8, 0⟩
-- `CHN_LOOP`, R424
def R.chnLoop_slew : Fld := ⟨(0x30420) * 32 + 0, 14, 0x40⟩
def R.chnLoop_tc : Fld := ⟨(0x30420) * 32 + 16, 4, 4⟩
def R.chnLoop_q_to : Fld := ⟨(0x30420) * 32 + 24, 8, 0xa⟩
-- `CHN_REVERT`, R424
def R.chnRevert_rev_t : Fld := ⟨(0x30424) * 32 + 0, 8, 0x64⟩
-- `CHN_SEC_LO`, R424
def R.chnSecLo_sec_off_lo : Fld := ⟨(0x30428) * 32 + 0, 32, 0⟩
-- `CHN_SEC_HI`, R424
def R.chnSecHi_sec_off_hi : Fld := ⟨(0x3042c) * 32 + 0, 16, 0⟩
-- `CHN_STEP_LO`, R424
def R.chnStepLo_step_lo : Fld := ⟨(0x30430) * 32 + 0, 32, 0⟩
-- `CHN_STEP_HI`, R424
def R.chnStepHi_step_hi : Fld := ⟨(0x30434) * 32 + 0, 32, 0⟩
-- `CHN_ROUTE`, R425
def R.chnRoute_rport (d : Nat) : Fld := ⟨(0x30800 + d * 4) * 32 + 0, 3, 0⟩
def R.chnRoute_r_valid (d : Nat) : Fld := ⟨(0x30800 + d * 4) * 32 + 3, 1, 0⟩
def R.chnRoute_rhops (d : Nat) : Fld := ⟨(0x30800 + d * 4) * 32 + 4, 6, 0⟩
def R.chnRoute_r_role (d : Nat) : Fld := ⟨(0x30800 + d * 4) * 32 + 10, 2, 0⟩
def R.chnRoute_r_ho (d : Nat) : Fld := ⟨(0x30800 + d * 4) * 32 + 12, 1, 0⟩
-- `WAG_CTL`, R435
def R.wagCtl_level : Fld := ⟨(0x20000) * 32 + 0, 1, 0⟩
def R.wagCtl_domain : Fld := ⟨(0x20000) * 32 + 8, 5, 0x1f⟩
-- `WAG_ANY`, R435
def R.wagAny_any_overrun : Fld := ⟨(0x20004) * 32 + 0, 1, 0⟩
def R.wagAny_any_coinc : Fld := ⟨(0x20004) * 32 + 1, 1, 0⟩
def R.wagAny_any_loop : Fld := ⟨(0x20004) * 32 + 2, 1, 0⟩
-- `WAG_EN`, R436
def R.wagEn_en (c : Nat) : Fld := ⟨(0x21000 + c * 0x10) * 32 + 0, 16, wagEnReset c⟩
-- `WAG_REFR`, R436
def R.wagRefr_refr (c : Nat) : Fld := ⟨(0x21004 + c * 0x10) * 32 + 0, 20, 0x64⟩
def R.wagRefr_loop_count (c : Nat) : Fld := ⟨(0x21004 + c * 0x10) * 32 + 20, 12, 0⟩
-- `WAG_STAT`, R436
def R.wagStat_overrun (c : Nat) : Fld := ⟨(0x21008 + c * 0x10) * 32 + 0, 1, 0⟩
def R.wagStat_coincident (c : Nat) : Fld := ⟨(0x21008 + c * 0x10) * 32 + 1, 1, 0⟩
def R.wagStat_loop (c : Nat) : Fld := ⟨(0x21008 + c * 0x10) * 32 + 2, 1, 0⟩
def R.wagStat_last_src (c : Nat) : Fld := ⟨(0x21008 + c * 0x10) * 32 + 16, 16, 0⟩
-- `WAG_COUNT`, R436
def R.wagCount_ev_count (c : Nat) : Fld := ⟨(0x2100c + c * 0x10) * 32 + 0, 32, 0⟩
-- `MON_CTL`, R457
def R.monCtl_level : Fld := ⟨(0x60000) * 32 + 0, 1, 0⟩
def R.monCtl_domain : Fld := ⟨(0x60000) * 32 + 8, 5, 0x1e⟩
def R.monCtl_result : Fld := ⟨(0x60000) * 32 + 16, 8, 0⟩
-- `MON_STATUS`, R457
def R.monStatus_mcal_busy : Fld := ⟨(0x60004) * 32 + 0, 1, 0⟩
def R.monStatus_cal_disagree : Fld := ⟨(0x60004) * 32 + 1, 1, 0⟩
def R.monStatus_ref_bad : Fld := ⟨(0x60004) * 32 + 2, 1, 0⟩
def R.monStatus_rail_bad : Fld := ⟨(0x60004) * 32 + 3, 1, 0⟩
-- `THM_CTL`, R457
def R.thmCtl_p_max : Fld := ⟨(0x60100) * 32 + 0, 10, 0x208⟩
def R.thmCtl_t_start : Fld := ⟨(0x60100) * 32 + 16, 8, 0x5f⟩
def R.thmCtl_t_hbm : Fld := ⟨(0x60100) * 32 + 24, 8, 0x55⟩
-- `THM_STATUS`, R457
def R.thmStatus_lambda : Fld := ⟨(0x60104) * 32 + 0, 7, 0x64⟩
def R.thmStatus_tj : Fld := ⟨(0x60104) * 32 + 8, 8, 0⟩
def R.thmStatus_hot : Fld := ⟨(0x60104) * 32 + 16, 1, 0⟩
def R.thmStatus_shut : Fld := ⟨(0x60104) * 32 + 17, 1, 0⟩
-- `THM_POWER`, R457
def R.thmPower_p_est : Fld := ⟨(0x60108) * 32 + 0, 16, 0⟩
def R.thmPower_p_lim : Fld := ⟨(0x60108) * 32 + 16, 16, 0x2080⟩
-- `THM_DEFER`, R457
def R.thmDefer_g_last : Fld := ⟨(0x6010c) * 32 + 0, 24, 0⟩
-- `MON_REG_SLOT`, R458
def R.monRegSlot_in (m j : Nat) : Fld := ⟨(0x140000000 + m * 0x4000000 + j * 4) * 32 + 0, 7, 0⟩
def R.monRegSlot_preset (m j : Nat) : Fld := ⟨(0x140000000 + m * 0x4000000 + j * 4) * 32 + 8, 2, 0⟩
-- `MON_INJ_SLOT`, R458
def R.monInjSlot_in (m j : Nat) : Fld := ⟨(0x140000100 + m * 0x4000000 + j * 4) * 32 + 0, 7, 0⟩
def R.monInjSlot_preset (m j : Nat) : Fld := ⟨(0x140000100 + m * 0x4000000 + j * 4) * 32 + 8, 2, 0⟩
-- `MON_SEQ`, R458
def R.monSeq_reg_len (m : Nat) : Fld := ⟨(0x140000120 + m * 0x4000000) * 32 + 0, 7, 1⟩
def R.monSeq_reg_run (m : Nat) : Fld := ⟨(0x140000120 + m * 0x4000000) * 32 + 7, 1, 0⟩
def R.monSeq_inj_len (m : Nat) : Fld := ⟨(0x140000120 + m * 0x4000000) * 32 + 8, 4, 1⟩
def R.monSeq_reg_pos (m : Nat) : Fld := ⟨(0x140000120 + m * 0x4000000) * 32 + 16, 6, 0⟩
def R.monSeq_inj_busy (m : Nat) : Fld := ⟨(0x140000120 + m * 0x4000000) * 32 + 22, 1, 0⟩
-- `MON_CUSTOM`, R458
def R.monCustom_c_rom (m : Nat) : Fld := ⟨(0x140000124 + m * 0x4000000) * 32 + 0, 2, 2⟩
def R.monCustom_c_n (m : Nat) : Fld := ⟨(0x140000124 + m * 0x4000000) * 32 + 8, 9, 0x10⟩
def R.monCustom_c_k (m : Nat) : Fld := ⟨(0x140000124 + m * 0x4000000) * 32 + 24, 7, 2⟩
-- `MON_ACC`, R458
def R.monAcc_env_tc (m : Nat) : Fld := ⟨(0x140000128 + m * 0x4000000) * 32 + 0, 4, 4⟩
-- `MON_MOFF`, R458
def R.monMoff_m_off (m p : Nat) : Fld := ⟨(0x140000140 + m * 0x4000000 + p * 0x10) * 32 + 0, 24, 0⟩
-- `MON_MGAIN`, R458
def R.monMgain_m_gain (m p : Nat) : Fld := ⟨(0x140000144 + m * 0x4000000 + p * 0x10) * 32 + 0, 24, 0x800000⟩
-- `MON_COFF`, R458
def R.monCoff_cal_off (m p : Nat) : Fld := ⟨(0x140000148 + m * 0x4000000 + p * 0x10) * 32 + 0, 24, 0⟩
-- `MON_CGAIN`, R458
def R.monCgain_cal_gain (m p : Nat) : Fld := ⟨(0x14000014c + m * 0x4000000 + p * 0x10) * 32 + 0, 24, 0x800000⟩
-- `MON_RES`, R459
def R.monRes_res (m i : Nat) : Fld := ⟨(0x140000400 + m * 0x4000000 + i * 0x40) * 32 + 0, 24, 0⟩
def R.monRes_rsrc (m i : Nat) : Fld := ⟨(0x140000400 + m * 0x4000000 + i * 0x40) * 32 + 24, 2, 0⟩
def R.monRes_clip (m i : Nat) : Fld := ⟨(0x140000400 + m * 0x4000000 + i * 0x40) * 32 + 26, 1, 0⟩
def R.monRes_rchg (m i : Nat) : Fld := ⟨(0x140000400 + m * 0x4000000 + i * 0x40) * 32 + 27, 1, 0⟩
-- `MON_RES_T`, R459
def R.monResT_res_t (m i : Nat) : Fld := ⟨(0x140000404 + m * 0x4000000 + i * 0x40) * 32 + 0, 32, 0⟩
-- `MON_TH_HI`, R459
def R.monThHi_th_hi (m i : Nat) : Fld := ⟨(0x140000408 + m * 0x4000000 + i * 0x40) * 32 + 0, 24, 0x7fffff⟩
-- `MON_TH_LO`, R459
def R.monThLo_th_lo (m i : Nat) : Fld := ⟨(0x14000040c + m * 0x4000000 + i * 0x40) * 32 + 0, 24, 0x800000⟩
-- `MON_TH_CTL`, R459
def R.monThCtl_th_hyst (m i : Nat) : Fld := ⟨(0x140000410 + m * 0x4000000 + i * 0x40) * 32 + 0, 23, 0⟩
def R.monThCtl_th_en (m i : Nat) : Fld := ⟨(0x140000410 + m * 0x4000000 + i * 0x40) * 32 + 23, 1, 0⟩
def R.monThCtl_zone (m i : Nat) : Fld := ⟨(0x140000410 + m * 0x4000000 + i * 0x40) * 32 + 24, 2, 0⟩
-- `MON_PK_MAX`, R459
def R.monPkMax_pk_max (m i : Nat) : Fld := ⟨(0x140000414 + m * 0x4000000 + i * 0x40) * 32 + 0, 24, 0x800000⟩
-- `MON_PK_MIN`, R459
def R.monPkMin_pk_min (m i : Nat) : Fld := ⟨(0x140000418 + m * 0x4000000 + i * 0x40) * 32 + 0, 24, 0x7fffff⟩
-- `MON_RMS`, R459
def R.monRms_rms (m i : Nat) : Fld := ⟨(0x14000041c + m * 0x4000000 + i * 0x40) * 32 + 0, 24, 0⟩
-- `MON_ENV`, R459
def R.monEnv_env (m i : Nat) : Fld := ⟨(0x140000420 + m * 0x4000000 + i * 0x40) * 32 + 0, 24, 0⟩
-- `MON_N`, R459
def R.monN_n_acc (m i : Nat) : Fld := ⟨(0x140000424 + m * 0x4000000 + i * 0x40) * 32 + 0, 32, 0⟩
-- `CAL_CTL`, R480
def R.calCtl_level : Fld := ⟨(0x70000) * 32 + 0, 1, 0⟩
def R.calCtl_domain : Fld := ⟨(0x70000) * 32 + 8, 5, 0x1e⟩
def R.calCtl_bg_en : Fld := ⟨(0x70000) * 32 + 16, 6, 0x3f⟩
def R.calCtl_result : Fld := ⟨(0x70000) * 32 + 24, 8, 0⟩
-- `CAL_CFG`, R480
def R.calCfg_dt : Fld := ⟨(0x70004) * 32 + 0, 8, 0x20⟩
def R.calCfg_cal_per : Fld := ⟨(0x70004) * 32 + 8, 8, 0x18⟩
def R.calCfg_cal_wait : Fld := ⟨(0x70004) * 32 + 16, 8, 0xa⟩
-- `CAL_STATUS`, R480
def R.calStatus_pass_busy : Fld := ⟨(0x70008) * 32 + 0, 1, 0⟩
def R.calStatus_cal_disagree : Fld := ⟨(0x70008) * 32 + 1, 1, 0⟩
def R.calStatus_cal_stale : Fld := ⟨(0x70008) * 32 + 2, 1, 0⟩
def R.calStatus_cal_long : Fld := ⟨(0x70008) * 32 + 3, 1, 0⟩
def R.calStatus_cal_refskip : Fld := ⟨(0x70008) * 32 + 4, 1, 0⟩
def R.calStatus_copy : Fld := ⟨(0x70008) * 32 + 5, 2, 0⟩
def R.calStatus_t_cal : Fld := ⟨(0x70008) * 32 + 8, 8, 0⟩
-- `CAL_COUNT`, R480
def R.calCount_pass_count : Fld := ⟨(0x7000c) * 32 + 0, 16, 0⟩
def R.calCount_dis_count : Fld := ⟨(0x7000c) * 32 + 16, 16, 0⟩
-- `CAL_BAD`, R480
def R.calBad_bad_idx : Fld := ⟨(0x70010) * 32 + 0, 12, 0⟩
-- `CAL_SEQ`, R480
def R.calSeq_cal_seq : Fld := ⟨(0x70014) * 32 + 0, 32, 0⟩
-- `CAL_APPLIED`, R480
def R.calApplied_applied (x : Nat) : Fld := ⟨(0x71000 + x * 4) * 32 + 0, 32, 0⟩
-- `CAL_TARGET`, R480
def R.calTarget_target (x : Nat) : Fld := ⟨(0x75000 + x * 4) * 32 + 0, 32, 0⟩
-- `LIFE_CTL`, R481
def R.lifeCtl_life_back : Fld := ⟨(0x70200) * 32 + 0, 18, 0⟩
def R.lifeCtl_life_ready : Fld := ⟨(0x70200) * 32 + 19, 1, 0⟩
def R.lifeCtl_life_ok : Fld := ⟨(0x70200) * 32 + 20, 1, 0⟩
def R.lifeCtl_result : Fld := ⟨(0x70200) * 32 + 24, 8, 0⟩
-- `LIFE_HEAD`, R481
def R.lifeHead_lseq_head : Fld := ⟨(0x70204) * 32 + 0, 32, 0⟩
-- `LIFE_AV_BASE`, R481
def R.lifeAvBase_av_base : Fld := ⟨(0x70208) * 32 + 0, 32, 0⟩
-- `LIFE_AV_OUT`, R481
def R.lifeAvOut_av_out : Fld := ⟨(0x7020c) * 32 + 0, 32, 0⟩
-- `CLD_SEC_LO`, R481
def R.cldSecLo_label_lo : Fld := ⟨(0x70300) * 32 + 0, 32, 0⟩
-- `CLD_SEC_HI`, R481
def R.cldSecHi_label_hi : Fld := ⟨(0x70304) * 32 + 0, 16, 0⟩
def R.cldSecHi_uncertain : Fld := ⟨(0x70304) * 32 + 16, 1, 1⟩
-- `CLD_DATE`, R481
def R.cldDate_year : Fld := ⟨(0x70308) * 32 + 0, 16, 0x7d0⟩
def R.cldDate_month : Fld := ⟨(0x70308) * 32 + 16, 4, 1⟩
def R.cldDate_day : Fld := ⟨(0x70308) * 32 + 20, 5, 1⟩
def R.cldDate_wday : Fld := ⟨(0x70308) * 32 + 25, 3, 6⟩
-- `CLD_TIME`, R481
def R.cldTime_hour : Fld := ⟨(0x7030c) * 32 + 0, 5, 0⟩
def R.cldTime_minute : Fld := ⟨(0x7030c) * 32 + 5, 6, 0⟩
def R.cldTime_second : Fld := ⟨(0x7030c) * 32 + 11, 6, 0⟩
-- `LIFE_REC`, R481
def R.lifeRec_rec (w : Nat) : Fld := ⟨(0x70240 + w * 4) * 32 + 0, 32, 0⟩
-- `SEC_BOOT`, R502
def R.secBoot_boot_sel : Fld := ⟨(0x80000) * 32 + 0, 2, 0⟩
def R.secBoot_boot_slot : Fld := ⟨(0x80000) * 32 + 2, 1, 0⟩
def R.secBoot_recovery : Fld := ⟨(0x80000) * 32 + 3, 1, 0⟩
def R.secBoot_no_image : Fld := ⟨(0x80000) * 32 + 4, 1, 0⟩
def R.secBoot_boot_warn : Fld := ⟨(0x80000) * 32 + 5, 1, 0⟩
def R.secBoot_bootload_err : Fld := ⟨(0x80000) * 32 + 6, 1, 0⟩
def R.secBoot_oe : Fld := ⟨(0x80000) * 32 + 7, 1, 0⟩
def R.secBoot_slot_a_err : Fld := ⟨(0x80000) * 32 + 8, 3, 0⟩
def R.secBoot_slot_b_err : Fld := ⟨(0x80000) * 32 + 12, 3, 0⟩
-- `SEC_SEQ_A`, R502
def R.secSeqA_seq_a : Fld := ⟨(0x80004) * 32 + 0, 32, 0⟩
-- `SEC_SEQ_B`, R502
def R.secSeqB_seq_b : Fld := ⟨(0x80008) * 32 + 0, 32, 0⟩
-- `SEC_FUSE`, R502
def R.secFuse_min_ver : Fld := ⟨(0x8000c) * 32 + 0, 7, 0⟩
def R.secFuse_key_prog : Fld := ⟨(0x8000c) * 32 + 8, 3, 0⟩
def R.secFuse_key_rev : Fld := ⟨(0x8000c) * 32 + 12, 3, 0⟩
-- `SEC_KEY`, R502
def R.secKey_key_seq : Fld := ⟨(0x80010) * 32 + 0, 32, 0⟩
-- `SEC_FL_ADDR`, R503
def R.secFlAddr_fl_addr : Fld := ⟨(0x80020) * 32 + 0, 25, 0⟩
-- `SEC_FL_CMD`, R503
def R.secFlCmd_fl_busy : Fld := ⟨(0x80024) * 32 + 3, 1, 0⟩
def R.secFlCmd_result : Fld := ⟨(0x80024) * 32 + 8, 8, 0⟩
-- `SEC_FL_BUF`, R503
def R.secFlBuf_fl_data (i : Nat) : Fld := ⟨(0x80100 + i * 4) * 32 + 0, 32, 0⟩

end Sys2Proof.Machine
end

