-- ==== Sys2Proof/Machine/State.lean ====
section
/-! DEFINITION. The state of the block: every register field in one home (`regs`, with the active values of CFG fields in
`act`), and beside it everything the manual gives the machine that is no register field. Plain data throughout. -/

namespace Sys2Proof.Machine

/-- The service states (R15). -/
inductive Svc where
  | dark | amber | green | sleep
  deriving DecidableEq, Repr

/-- Service state and pins that have no register (R16 to R20, R61, R490, R500, R501). -/
structure SvcSt where
  svc : Svc
  muteHigh : Bool          -- level of MUTE_N
  muteAt : Nat             -- when it last fell
  fine : Bool              -- the Dial adds one at every tick (R70)
  hbmTrained : Bool
  monCal : Bool            -- the boot MCAL is done
  convCal : Bool           -- converter calibration of the boot pass is done
  causes : List Nat        -- the Green-loss causes present (R17)
  greenSeen : Bool         -- Green reached since nRESET (R493)
  entry : Bool             -- Sleep entry under way
  asleepAt : Nat           -- when the entry completed
  wakeAt : Option Nat      -- the wake event that is being served
  firstLoad : Bool         -- an enabled load has released the outputs (R490)
  ppsOut : Bool            -- level of PPS_OUT (R422)
  lastCause : Nat          -- `cause` as the block last lost its state to Dark (R475)
  deriving DecidableEq, Repr

/-- What the I3C target holds beside its registers (R25 to R41, R60). -/
structure I3cSt where
  ptr : Nat
  mwl : Nat
  mrl : Nat
  ibiEn : Bool
  hdr : Nat                -- 0 SDR, 1 HDR-DDR, 2 an HDR mode that is ignored
  rstAct : Nat
  nack : Bool              -- the last header or command code was not acknowledged
  resp : List Byte         -- the bytes the target drove last
  ibiOut : Bool            -- an IBI is outstanding
  ibiMore : Bool           -- bits set meanwhile ask for one more
  ibiFrom : Nat            -- the earliest Dial value of the next first attempt
  ibiTry : Bool            -- an attempt is on the bus
  ibiRetry : Option Nat    -- when the next retry is due
  ibiByte : Nat            -- data byte of the last attempt
  alert : Bool             -- nALERT is driven low
  deriving DecidableEq, Repr

/-- UPDATE strobes and UPDATE_AT (R50 to R54): each pending beat with its domains and, once captured, its shadows. -/
structure Strobe where
  beat : Nat
  mask : Nat
  at40 : Bool              -- it is the UPDATE_AT
  shadows : Option (List (Nat × Nat))
  banks : Option (List (Nat × Nat))
  deriving DecidableEq, Repr

/-- One indirect window (R44 to R47). -/
structure WinSt where
  fetch : Bool             -- a prefetch is under way
  posted : List (Nat × Nat) -- posted writes, oldest first: index and word
  deriving DecidableEq, Repr

/-- The values captured by reads (R72, R234, R346, R481). -/
structure Captures where
  dial : Nat
  slotHi : Nat
  cacheHi : Nat
  stampHi : List (Nat × Nat) -- by input
  resHi : List (Nat × Nat)   -- by measurement unit
  deriving DecidableEq, Repr

/-- What a step-issued item remembers of its step: address, safe-point span, place in program order, open shot (R524). -/
structure Issue where
  pc : Nat
  sp : Nat
  ord : Nat
  arr : Nat                -- the Dial value of the step
  shot : Option Nat
  deriving DecidableEq, Repr

/-- A pulse descriptor (R106). `zeroOk` says that every must-be-zero field is zero. -/
structure Desc where
  envAddr : Nat
  envSrc : Nat
  interp : Nat
  length : Nat
  loops : Nat
  loopInf : Bool
  link : Bool
  jmpOk : Bool
  next : Nat
  jnext : Nat
  constI : Nat
  constQ : Nat
  headAddr : Nat
  zeroOk : Bool
  deriving DecidableEq, Repr

/-- One play of a segment: its descriptor, its first tick, the further plays, and whether the rest of it is silent
(R108, R117, R118). -/
structure Seg where
  idx : Nat
  d : Desc
  b0 : Nat
  left : Nat
  deadAt : Option Nat      -- the play is silent from this tick on
  read : Nat               -- samples of the play that the pipeline has read
  hist : List (Int × Int)  -- the samples before the play, the nearest first: the interpolator's history (R105)
  deriving DecidableEq, Repr

/-- A pulse that a PLAY scheduled (R94, R143). -/
structure Pulse where
  ts : Nat
  amp : Nat
  phase : Nat
  bank : Nat
  desc : Nat
  alt : Option Nat
  stop : Option Nat        -- the first tick that it no longer plays
  endless : Bool           -- it had no last sample when it was scheduled (R81)
  fin : Nat                -- the tick after its last sample, as it is scheduled
  iss : Issue
  deriving DecidableEq, Repr

/-- A frame action waiting for its tick (R100). -/
structure FrameAct where
  tick : Nat
  set : Bool
  add : Bool
  sel : Bool
  nco : Bool
  v : Nat
  k : Nat
  poff : Option Nat        -- the phase offset that a rollback restores beside the bank (R165)
  iss : Issue
  deriving DecidableEq, Repr

/-- A jump request: its earliest tick and its arrival (R119). -/
structure JumpReq where
  tj : Nat
  r : Nat
  iss : Option Issue
  deriving DecidableEq, Repr

/-- A Cell beside its registers (R95 to R123). -/
structure CellSt where
  accAt : Nat              -- the CONTINUOUS accumulator at tick `accTick`
  accTick : Nat
  poff : Nat
  play : Option (Pulse × Seg)
  waiting : List Pulse
  acts : List FrameAct
  jumps : List JumpReq
  lastB : Option Nat       -- the last jumpable boundary of the pulse that was passed without a jump (R119)
  holds : Bool             -- it holds its port's jump claim (R121)
  runFrom : Option Nat     -- start of the jumpable run under way (R121)
  fill : Nat               -- samples of the stream ring refilled (R359)
  asked : Nat              -- samples asked of far store for this play
  farDead : Bool           -- far store failed this play's refills (R365)
  silentFrom : Nat         -- samples from here up to `silentTo` are absent: a descriptor came late (R361)
  silentTo : Nat
  deriving DecidableEq, Repr

/-- A condition set as a step read it (R153): the four (src, test) pairs and the control word. -/
structure CSet where
  bits : List (Nat × Nat)
  dfltEn : Bool
  dfltWay : Nat
  hops : Nat
  deriving DecidableEq, Repr

/-- A speculative span (R217, R218). -/
structure Spec where
  ts : Nat
  ends : List (Nat × Option Nat) -- for each Cell the tick after the later of its two alternatives
  ports : Nat
  way : Option Nat
  cset : CSet
  hzn : Nat
  s0 : Nat                 -- S of the shot that the test of R155 uses
  iss : Issue
  deriving DecidableEq, Repr

/-- A demodulation window as its MEAS issued it (R185, R186). -/
structure Win where
  set : Nat
  prof : Nat
  mFirst : Nat
  count : Nat
  kEn : Bool
  record : Bool
  stride : Nat
  shift : Nat
  pub : Option Nat
  cut : Option Nat         -- `quiet` ends it with this decimated sample
  iss : Issue
  deriving DecidableEq, Repr

/-- An open window: what R186 latches at its first sample, and how it ends. -/
structure OpenWin where
  w : Win
  freq : Nat
  poff : Nat
  kBase : Nat
  lines : List Int         -- a0, b0, c0, a1, b1, c1
  vmap : Nat
  first : Nat              -- the first decimated sample it takes
  last : Nat               -- the last one
  trunc : Bool
  force3 : Bool
  silent : Bool            -- it publishes nothing (R197)
  pubTime : Option Nat     -- its recorded time where it is not t_last (R196)
  deriving DecidableEq, Repr

/-- A lane beside its registers. `ending` holds windows that closed early and await their result (R196, R197). -/
structure LaneSt where
  wins : List Win
  cur : Option OpenWin
  ending : List OpenWin
  deriving DecidableEq, Repr

/-- A shot of a sequencer (R81, R199, R524). `last` is the tick after the last thing
of it that is over. -/
structure Shot where
  num : Nat
  s : Nat
  endA : Option Nat
  last : Nat
  invalid : Bool
  recs : Nat
  lost : Bool
  told : Option Nat        -- the Dial value at which SHOT end fires
  deriving DecidableEq, Repr

/-- A record or trailer waiting for the result writer (R200, R201). -/
structure RecQ where
  tLast : Nat
  lane : Nat
  bits : Nat
  shot : Option Nat
  deriving DecidableEq, Repr

/-- A code staged for a Bias output: its ball tick and its arrival (R308). -/
structure Staging where
  code : Nat
  tick : Nat
  arr : Nat
  deriving DecidableEq, Repr

/-- A LOAD of a group on its way to its beat (R309). -/
structure GroupLoad where
  beat : Nat
  arr : Nat
  iss : Option Issue
  deriving DecidableEq, Repr

/-- A fast-flux pulse (R312): N samples from cache index `base`; silent from sample `ecc` on (R313). The samples below `read` have
come from the cache, those below `next` have been put out. -/
structure Flux where
  b0 : Nat
  base : Nat
  len : Nat
  scale : Nat
  hold : Bool
  ecc : Option Nat
  read : Nat
  next : Nat
  iss : Issue
  deriving DecidableEq, Repr

/-- A Bias output beside its registers (R307 to R318). `zero` holds the causes of R314 that keep it at zero scale: bit 0
power-up, 1 Green lost, 2 tripped, 3 MUTE_N, 4 enable off. `ready` holds those that the next LOAD ends. `cond` holds the
conditions that still stand: bit 0 over-current, since `ocAt`, 1 supply out, 2 open load. `entryAt` is the beat of the last BIAS
entry, `undo` the last LOAD: its beat, and what the output held before it (R315). -/
structure BiasSt where
  stages : List Staging
  zero : Nat
  ready : Nat
  holdEnd : Option Nat
  flux : Option Flux
  fluxes : List Flux
  cond : Nat
  ocAt : Nat
  entryAt : Option Nat
  undo : Option (Nat × (Nat × List Staging))
  deriving DecidableEq, Repr

/-- A marker edge scheduled (R325 to R329): its ball instant in 1/16 tick, the level it sets. -/
structure MarkEdge where
  at16 : Nat
  rise : Bool
  arr : Nat
  iss : Option Issue
  deriving DecidableEq, Repr

/-- The values a step held before a change (R164). -/
inductive JEntry where
  | count (k old : Nat)
  | frames (old : List (Nat × Nat))
  | banks (old : List (Nat × Nat × Nat))
  | stages (old : List (Nat × List Staging))
  | slots (old : List (Nat × (Nat × Nat × Nat × Nat)))
  | commit (x : Nat)
  | stack (i old : Nat)
  deriving DecidableEq, Repr

/-- What a sequencer waits for. A WAITT keeps bit 0 of the condition set that it waits on (R170). A verdict branch keeps its anchor, H, condition set and target, and once its verdicts count
the way and the Dial value of that moment (R211). -/
inductive Wait where
  | none
  | runAhead
  | checks
  | waitt (src a0 : Nat) (dl : Option Nat) (test : Nat × Nat)
  | sync (b a0 : Nat) (dl : Option Nat)
  | verdict (a hzn : Nat) (cset : CSet) (ways target : Nat) (call : Bool) (got : Option (Nat × Nat))
  | shotHold
  deriving DecidableEq, Repr

/-- The safe-point record (R159). -/
structure SafeRec where
  pc : Nat
  anchor : Nat
  depth : Nat
  handler : Option (Nat × Nat)
  deriving DecidableEq, Repr

/-- A descriptor check under way (R141): the PLAY or MEAS step, the check's outcome, its latest return. -/
structure DescChk where
  pc : Nat
  sp : Nat
  bad : Bool
  by40 : Nat
  shot : Option Nat
  deriving DecidableEq, Repr

/-- A fault detected (R163): its code, its step and the shot to mark. -/
structure FaultRep where
  code : Nat
  pc : Nat
  shot : Option Nat
  deriving DecidableEq, Repr

/-- A load under way: its image, the LOAD packet's port and tag (none at boot), `lead_margin` as the load began, and its
bytes in HBM. -/
structure LoadReq where
  image : ProgImage
  reply : Option (Nat × Nat)
  margin : Nat
  at' : Nat
  len : Nat
  deriving DecidableEq, Repr

/-- A sequencer beside its registers (R129, R136 to R176). -/
structure SeqSt where
  anchor : Nat
  stack : List Nat         -- sixteen positions, the first pushed first
  depth : Nat
  journal : List JEntry    -- newest first
  saved : List Nat         -- stack positions already journalled since the safe point
  safe : SafeRec
  handler : Option (Nat × Nat)
  sp : Nat                 -- number of the present safe-point span
  ord : Nat                -- steps executed, the program order
  wait : Wait
  timedOut : Bool          -- flag 0 of R154
  commitBad : Bool         -- flag 2 of R154
  runnable : Bool          -- it has run, and no load has replaced its program since
  abort : Option Nat       -- ABORT pending, with its halt_why
  faults : List FaultRep   -- faults detected and not yet answered, oldest first
  shots : List Shot
  events : List (Nat × Nat) -- the last scheduled tick of each issued event, and its span (R138)
  checks : List DescChk
  trigs : List (Nat × Nat) -- held triggers, newest first: source and time in 1/256 tick (R176)
  starts : List Nat        -- start entries of the loaded program (R528)
  loading : Option LoadReq
  resume : Option Nat      -- the RF outputs resume at the next boundary (R20): the Dial value of the request
  calReq : Nat             -- the Dial value of the calibration change that waits for a boundary (R84)
  bndAt : Option Nat       -- B of the boundary that the latest SHOT begin has waited for (R83)
  calAt : Nat              -- when the Comb took its last calibration step (R468)
  calFor : Option Nat      -- the shot at whose boundary that was
  lastE : Nat              -- the latest E of shots that are over
  lastS : Nat              -- S of the latest shot
  settleTo : Nat           -- B + G of the boundary actions applied last (R83)
  deriving DecidableEq, Repr

/-- A stored word with its error mark: 0 none, 1 a single-bit error, 2 a double-bit error, 3 poisoned (R130, R131). A nano-word has
four codewords, and `mark` is the four marks as the digits of a number in base 4, codeword 0 lowest. -/
structure Mem1 where
  data : Nat
  mark : Nat
  deriving DecidableEq, Repr

/-- An on-demand read of a descriptor: its index, the Cells that wait for it, the tick of the first sample that needs it
where that is known, and the step it serves (R361). -/
structure DescRead where
  idx : Nat
  cells : Nat
  first : Option Nat
  iss : Issue
  deriving DecidableEq, Repr

/-- A Comb's readout writer and ports. -/
structure CombSt where
  recs : List RecQ         -- records and trailers waiting, in writing order
  half : Nat               -- the other 16 bytes of the chunk last written
  specs : List Spec
  clipFrom : Nat           -- clip reports are made up to this tick
  ovr : List (Nat × Nat)   -- spans of over-range and settling samples at INn, [from, to)
  ovrRun : Option (Nat × Bool) -- t_o of the over-range run under way, and whether it has been reported
  distFrom : Nat           -- the span that the last run disturbs on the die's other ports, first and last tick (R273)
  distTo : Nat
  nbrAt : Nat              -- up to here `ovr_nbr` of this port has been judged
  resStart : Nat           -- first byte of its result ring's region, as latched (R350)
  settleEnd : Option Nat   -- the end of the settling after a band change (R269)
  reads : List DescRead    -- descriptor reads in flight, oldest first
  used : List Nat          -- the descriptor cache's entries, the latest used first (R360)
  old : List (Nat × List (Nat × Nat)) -- the active lane and profile fields that a recent beat replaced, newest first (R186)
  deriving DecidableEq, Repr

/-- A publication on its way to a local slot (R209). -/
structure Pub where
  slot : Nat
  verdict : Nat
  time : Nat
  due : Nat
  comb : Nat
  lane : Bool
  iss : Issue
  deriving DecidableEq, Repr

/-- The decision network beside its registers (R208 to R227). -/
structure DecSt where
  pubs : List Pub
  arrived : List (Nat × Nat) -- arrival time of each local slot's contents
  cacheArr : List (Nat × Nat) -- arrival time of each cache entry's contents
  answers : List (Nat × Nat) -- chain-wide tag and mask of ports
  deriving DecidableEq, Repr

/-- An event in a Waggle channel: its event time, the channel and the slot (R429). -/
structure Flight where
  time : Nat
  ch : Nat
  slot : Nat
  deriving DecidableEq, Repr

/-- The Waggle lines beside their registers: events in the channels, events whose time is still ahead, and for each
channel that has delivered its first arrival and the end of its refractory period (R429 to R431). -/
structure WagSt where
  flight : List Flight
  recent : List (Nat × Nat) -- the events of the last 2,560 ticks: event time and source; `fire` of channel c counts as source 4,096 + c (R429)
  later : List (Nat × Nat)
  chans : List (Nat × (Nat × Nat))
  deriving DecidableEq, Repr

/-- A marker beside its registers (R325 to R330). -/
structure MarkSt where
  edges : List MarkEdge    -- scheduled edges, by instant, then by program order; those of the beat under way stay
  base : Bool              -- the level of R327 before the first of `edges`
  upto : Nat               -- instants below this one (1/16 tick) have been produced
  low : Nat                -- causes of R330: bit 0 power or Dark, bit 1 Green left, bit 2 Sleep
  deriving DecidableEq, Repr

/-- A source of stamps: STAMP0 to STAMP31, and the internal sources 32 to 49 (R332 to R334, R339). Times in 1/256 tick. -/
structure StampSt where
  high : Bool              -- the comparator
  mv : Option Int          -- the differential voltage it saw last, mV
  conv : List Nat          -- times of the last two edges that converters took, newest first
  last : Option Nat        -- stamped time of the last qualifying edge, from which hold-off runs
  held : List Nat          -- the four most recent stamps, newest first (R176)
  deriving DecidableEq, Repr

/-- A code-density run (R338, R467): its input, the table of the pair's first half, the pairs that disagreed. -/
structure CdSt where
  input : Nat
  half : Option (List Nat)
  bad : Nat
  deriving DecidableEq, Repr

/-- A measurement unit beside its registers: what it latched at `go` (R342), the stamps it holds, and for a frequency the
sums over its stamps, index and time counted from the first. -/
structure MeasSt where
  mode : Nat
  rep : Bool
  restart : Bool
  src1 : Nat
  src2 : Nat
  tmo : Nat
  gate : Nat
  pnom : Nat
  goAt : Nat               -- in 1/256 tick
  start : Option Nat
  stop : Option Nat
  idx : Nat                -- edges since the first stamp
  cnt : Nat
  si : Nat
  st : Nat
  sii : Nat
  sit : Nat
  unread : Bool            -- STP_M_RES_LO has not captured the result
  deriving DecidableEq, Repr

/-- A packet (R378): header word, following words, and for a received one the arrival time of its frame in 1/256 tick. -/
structure Pkt where
  hdr : Nat
  ws : List Nat
  arr : Nat
  deriving DecidableEq, Repr

/-- A launch-queue entry (R394): its packet, launch time, `late_ok`, whether it is late (R395). A TIME packet takes t_Q
(`own`) or the last part of c (`fwd`, in 1/256 tick) from the slot time of its frame (R409, R410). -/
structure LqEnt where
  hdr : Nat
  ws : List Nat
  launch : Nat
  lateOk : Bool
  late : Bool
  own : Bool
  fwd : Option Int
  at' : Nat                -- when it was queued
  deriving DecidableEq, Repr

/-- An Elvent port beside its registers (R371 to R397, R227, R343). -/
structure PortSt where
  seq : Nat                -- last sequence number sent
  ack : Nat                -- last one received in order
  nak : Bool               -- the receiver asks for replay
  buf : List (Nat × Nat)   -- the replay buffer, oldest first: sequence number and content
  resend : List (Nat × Nat) -- the rest of the replay under way
  resendAck : Option Nat   -- the `ack` that the replay under way answers
  crcRun : Nat             -- consecutive CRC failures
  alignN : Nat             -- ALIGN frame counter
  txScr : List Nat         -- scrambler states by logical lane (R372)
  rxScr : List Nat
  lq : List LqEnt
  mbox : List Pkt          -- receive mailbox, oldest first
  inbox : List Pkt         -- packets accepted and not yet acted on
  vin : List (Nat × Nat)   -- verdict queue of the receive direction: order time and word
  vq : List (Nat × Nat)    -- verdict queue of the transmit direction
  outq : List Pkt          -- SWARM and CHAIN packets queued
  cplq : List Pkt
  memq : List Pkt
  probeq : List Pkt
  link : Option Nat        -- the LINK packet repeated in every frame (R391)
  negIn : Option Nat       -- the partner's NEG word
  negOut : Bool            -- `ready` has been sent
  good : Nat               -- lanes aligned and deskewed
  absentAt : Nat           -- last entry to ABSENT from a later state
  everLeft : Bool          -- such an entry has happened
  leftAt : Nat             -- when ABSENT was left, or `neg_go`
  v1 : Bool                -- version 1 form
  pauseAt : Nat
  lost : List (Nat × Nat)  -- logical lanes waiting for a spare, each with the spare it will have
  spare : Nat              -- lanes 16 and 17 that have failed, as a mask
  txAlign : Bool           -- ALIGN words go out in a pause
  wire : Nat               -- the frame sent last
  grid : Option (Nat × Nat) -- bounds of the instant of the last frame slot, in 1/5 tick (R68, R394)
  t1 : Option Nat          -- the probe under way: its departure
  delays : List Int        -- the last 64 one-way delays, newest first
  probeAt : Nat            -- when the next probe is due
  probed : Nat             -- exchanges since ACTIVE
  noSig : Nat              -- receive lanes without signal, as a mask
  eqTx : List (Nat × Nat)  -- swing and de-emphasis in effect, by lane (R380)
  eqRx : List Nat          -- CTLE codes in effect
  dsk : List Nat           -- the delays that the last deskew found, by receive lane (R384)
  deriving DecidableEq, Repr

/-- A staged entry (R236). -/
structure Entry where
  kind : Nat
  target : Nat
  data : List Nat
  deriving DecidableEq, Repr

/-- A transaction beside its registers (R235 to R254). -/
structure TxnSt where
  ents : List Entry
  beat : Option Nat        -- B, once it is fixed
  scope : Nat              -- the Combs of a SHOT-mode commit whose starts are held
  shot : Bool              -- SHOT mode
  reqAt : Nat              -- the Dial value of the request
  decided : Bool           -- its decision point has passed
  issuer : Option (Nat × Issue) -- the COMMIT step that asked
  coord : Nat              -- of a swarm: coordinator, number, T
  swarm : Nat
  tApply : Nat
  eq : Option (List (Nat × Nat)) -- the attached EQ section (R253)
  slot : Nat
  no : Nat                 -- the number of its commit request
  deriving DecidableEq, Repr

/-- A record of a swarm (R252): its outcome once it is known, B where this Hive takes part, the first answer to its STATUS_Q, and
the Hives whose STATUS_Q awaits the outcome. -/
structure SwarmRec where
  swarm : Nat
  coord : Nat
  outcome : Option Nat
  isolated : Bool
  inDoubt : Bool
  asked : Bool             -- STATUS_Q has gone out for it
  beat : Option Nat
  peer : Option Nat
  askers : List Nat
  deriving DecidableEq, Repr

/-- The swarm protocol beside its registers (R243 to R252). -/
structure SwarmSt where
  running : Bool           -- this Hive coordinates a swarm
  txnNo : Nat
  t : Nat
  shot : Bool
  parts : List Nat         -- participants, the coordinator itself left out
  self : Bool
  yes : List Nat           -- who voted YES
  acked : List Nat
  guard : Nat              -- G as used
  recs : List SwarmRec     -- newest first, at most 64
  flood : List (Nat × Nat × Nat) -- the last 64 floods: coordinator, swarm, kind
  asks : List (Nat × Nat × Nat) -- STATUS_Q under way: coordinator, swarm, when
  deriving DecidableEq, Repr

/-- What a Hive knows of an origin beside its route register (R406). -/
structure RouteSt where
  aseq : Nat
  seenAt : Nat             -- when its latest announcement was accepted
  deriving DecidableEq, Repr

/-- A Queen as a member tracks it (R411). -/
structure QueenSt where
  src : Option Nat         -- the Queen joined under
  thetas : List Int        -- offsets of the last accepted packets, newest first, in 1/256 tick
  run : Nat                -- consecutive accepted packets
  okSince : Nat
  lastAt : Nat
  deriving DecidableEq, Repr

/-- Chain time beside its registers (R402 to R422). -/
structure ChainSt where
  aseq : Nat
  annAt : Nat              -- when the next announcement is due
  tseq : Nat
  timeAt : Nat             -- when the next TIME packet is due
  routes : List (Nat × RouteSt)
  seen : List (Nat × Nat × Nat) -- TIME packets forwarded: src, which, tseq
  qa : QueenSt
  qb : QueenSt
  lockRun : Nat            -- consecutive packets within an eighth of a tick
  rhos : List Int          -- ρ at the last packets, newest first
  fast : Bool              -- the 200 ppm limit applies (R418)
  joinAt : Nat             -- entry to JOINING
  heard : List (Nat × Nat) -- TIME sources heard while JOINING: src, 1 where `ho` = 0
  stepAt : Option (Nat × Nat) -- a step decided: its beat and amount
  ppsLast : Option Nat     -- the last PPS_IN edge, 1/256 tick
  jumped : Bool            -- joined under a source with `ho` = 1
  forming : Bool           -- the step decided forms a chain (R419)
  deriving DecidableEq, Repr

/-- A read or write under way over a STORE port (R364, R379): the first chunk and how many, whom it serves (a Cell with the
first tick of the play and the first sample, or a HOST port with its tag), the chunks that have come with their `bad`
bits, and the result once the CPL has come. -/
structure FarRead where
  port : Nat
  tag : Nat
  chunk : Nat
  count : Nat
  at' : Nat
  cell : Option (Nat × Nat × Nat)
  host : Option (Nat × Nat)
  write : Bool
  got : List (Nat × Nat × Bool) -- chunk, data, `bad`; of a write, the chunks still to be written
  rest : Nat               -- chunks of the host's request that follow this one
  bad : Bool               -- some chunk of the host's request was bad
  code : Option Nat
  deriving DecidableEq, Repr

/-- The memory block beside its registers. -/
structure MemSt where
  charges : List (Nat × Nat)  -- charges admitted, 10 MB/s: key 0 host, 1 + g stream of Cell g, 1,024 + n capture port n
  ues : List (Nat × Nat)      -- chunks found uncorrectable within the last second, with the Dial value (R355)
  repairs : List (Nat × Nat)  -- the last soft repair of each stack
  weak : List (Nat × Nat)     -- chunks struck by errors that no read has met yet, with the symbols in error (R351)
  fixes : List (Nat × Nat)    -- corrected errors of the last 24 h: row key, Dial value (R354)
  marked : List Nat           -- rows marked for repair, by row key
  spent : List (Nat × Nat)    -- spare rows used, by (stack × 32 + pseudo-channel) × 65,536 + bank
  lost : Nat                  -- stacks rewritten whole with poison, as a mask: there `poison` lists the clean chunks (R355)
  deriving DecidableEq, Repr

/-- The life log, the calendar and the availability counts beside their registers and the flash (R472 to R478). Counters by
16 × page + place: pages 0, 1 and from 5 on in milliseconds. -/
structure LifeSt where
  slot : Option Nat        -- slot of the newest record
  label : Nat              -- `label` of the newest record at boot
  secSet : Bool            -- `sec_off` has been written since nRESET
  page : Nat               -- the next periodic record's page
  dueAt : Nat              -- when it is due
  pwr : Nat                -- powered time, lifetime, in ticks
  slp : Nat                -- time in Sleep
  cycles : Nat
  rej : Nat                -- authentication rejects
  ctrs : List (Nat × Nat)
  seen : Nat               -- time is counted up to this Dial value
  avBase : Nat             -- in ticks
  avOut : Nat
  booted : Bool            -- the boot interval is over (R478)
  reading : Option Nat     -- a `life_rd` under way
  deriving DecidableEq, Repr

/-- A capture record (R292, R296): its number, arm, first sample's ball tick and spacing, samples before the trigger and in
all, trigger, conditions, and its place in the ring. -/
structure CapRec where
  no : Nat
  gen : Nat
  first : Nat
  sp : Nat
  dec : Nat
  pre : Nat
  cnt : Nat
  trig : Nat
  tTrig : Nat
  coinc : Nat
  primary : Nat
  auto : Bool
  preShort : Bool
  trunc : Bool
  half : Option Nat
  at' : Nat                -- its first unit in the ring
  units : Nat
  deriving DecidableEq, Repr

/-- A capture port beside its registers (R281 to R301). -/
structure CapSt where
  gen : Nat                -- arms so far
  dec : Nat                -- latched at `arm`, from here to `ring`
  compat : Bool
  pre : Nat
  post : Nat
  base : Nat               -- first byte of its ring in HBM
  ring : Nat               -- ring size in units
  lo : Nat                 -- `ring_base` as latched
  from' : Nat              -- history begins at this tick
  no : Nat                 -- number of the next record
  wr : Nat                 -- the unit after the last record taken
  cur : Option CapRec      -- the record under way
  done : List CapRec       -- ended and not yet committed
  cA : Bool
  cB : Bool
  rise : Option Nat        -- the sample at which c_A last rose, while it is 1
  roseB : Bool             -- c_B has risen since then
  last : Nat               -- the decimated sample judged last
  toFrom : Nat             -- l of TIMEOUT
  autoFrom : Nat           -- the arm or the end of the last record, for AUTO
  lostAt : Option Nat      -- the trigger sample of the record lost last (R295)
  deriving DecidableEq, Repr

/-- A monitor conversion under way (R437 to R440): its source (0 regular, 1 injected, 2 housekeeping) and slot, its input,
R, N and k, its start, the factors it took there, and whether the output's range has changed since. -/
structure MonConv where
  src : Nat
  slot : Nat
  input : Nat
  rate : Nat
  outs : Nat
  drop : Nat
  start : Nat
  gain : Nat
  off : Int
  rchg : Bool
  deriving DecidableEq, Repr

/-- A monitor modulator beside its registers (R439 to R448): the conversion under way, the next slot of an injected sequence
and the next input of a housekeeping round that wait or run, and the sums of r² by input. -/
structure MonSt where
  cur : Option MonConv
  inj : Option Nat
  hk : Option Nat
  sums : List (Nat × Nat)
  extra : Nat              -- ticks that housekeeping rounds have added to the MCAL run (R450)
  deriving DecidableEq, Repr

/-- The governor and the checks of housekeeping rounds (R443 to R455). -/
structure ThmSt where
  hkAt : Option Nat        -- when the next housekeeping round falls due; none before the first PLL lock
  mcalAt : Option Nat      -- start of the MCAL run under way
  tj : Int                 -- Tj of the latest core housekeeping round, 2^-16 °C
  volts : List (Nat × Int) -- latest housekeeping results by rail
  amps : List (Nat × Int)
  rails : List (Nat × (Nat × Nat)) -- consecutive rounds out of limits and within them, by rail
  railMod : Nat            -- the modulator of the first failing rail
  coolRun : Nat            -- consecutive core rounds with Tj at or below 110 °C
  wasHot : Bool            -- the latest core round was hot
  lamAt : Nat              -- when λ last changed
  refFail : Bool           -- the latest core check of REF_V failed
  deriving DecidableEq, Repr

/-- A calibration ramp (R468): from `a0` to `t` in `n` steps, `i` of them taken. -/
structure Ramp where
  a0 : Int
  t : Int
  n : Nat
  i : Nat
  deriving DecidableEq, Repr

/-- Calibration beside its registers (R460 to R471). Items: 0 + k OUT, 128 + i IN, 192 + b BIAS, 448 + n MARK, 512 + s STAMP,
544 the monitor. `left` holds those that the pass under way has still to measure. -/
structure CalSt where
  ramps : List (Nat × Ramp)
  left : List Nat
  boot : Bool              -- the pass under way is the boot pass
  passAt : Option Nat      -- start of the last pass
  tCal : Int               -- T_cal, 2^-16 °C
  bad : List (Nat × Nat)   -- disagreeing pairs so far, by item
  since : List (Nat × Nat) -- an item's pair starts no earlier than this
  free : List (Nat × Nat)  -- when the last measurement of a die ended: Front dies 0 to 3, the core 4
  digest : Nat             -- calibration digest (R471)
  deriving DecidableEq, Repr

/-- A mailbox command under way (R62 to R66): when step 7 began, and once it is known its result and response. -/
structure MbRun where
  op : Nat
  since : Nat
  out : Option (Nat × List Byte)
  deriving DecidableEq, Repr

/-- An image as it is in force or waits in an image-bound transaction: slot (255 recovery), `key_slot`, `svn`, `seq`, D. -/
structure ImgRef where
  slot : Nat
  key : Nat
  svn : Nat
  seq : Nat
  digest : Nat
  deriving DecidableEq, Repr

/-- The security block beside its registers (R482 to R503). Fuses: `hashes` of key slots 1 and 2, minimum version, programmed
and revoked slots. -/
structure SecSt where
  hashes : List (Nat × Nat)
  minVer : Nat
  prog : Nat
  rev : Nat
  key : Nat                -- the command key in force, 256 bits, byte 0 in bits [7:0]
  refV : Nat               -- REF_V in force, µV
  eqTab : List (Nat × Nat) -- the equalisation table in force: port × 32 + lane, swing and de-emphasis and 256 × CTLE (R380, R484)
  keys : List (Nat × (Nat × Nat)) -- the command key copies A and B that are valid: sequence number and key (R495)
  img : ImgRef             -- the image in force
  bound : List (Nat × ImgRef) -- images waiting, by transaction
  mb : Option MbRun
  fl : Option (Nat × Nat)  -- a flash-window operation under way: 0 erase, 1 prog, 2 read, and its address
  autostart : Bool
  booted : List Nat        -- sequencers that hold a program from step 5 of R489
  todo : List (Nat × Nat × Nat) -- LOAD sections still to be loaded: sequencer, address in flash, length
  deriving DecidableEq, Repr

def SvcSt.init : SvcSt :=
  { svc := .dark, muteHigh := false, muteAt := 0, fine := false, hbmTrained := false, monCal := false, convCal := false, causes := [],
    greenSeen := false, entry := false, asleepAt := 0, wakeAt := none, firstLoad := false, ppsOut := false,
    lastCause := 0 }

def I3cSt.init : I3cSt :=
  { ptr := 0, mwl := 4096, mrl := 4096, ibiEn := true, hdr := 0, rstAct := 0, nack := false, resp := [], ibiOut := false,
    ibiMore := false, ibiFrom := 0, ibiTry := false, ibiRetry := none, ibiByte := 0, alert := false }

def WinSt.init : WinSt := { fetch := false, posted := [] }

def Captures.init : Captures :=
  { dial := 0, slotHi := 0, cacheHi := 0, stampHi := [], resHi := [] }

def CellSt.init : CellSt :=
  { accAt := 0, accTick := 0, poff := 0, play := none, waiting := [], acts := [], jumps := [], lastB := none,
    holds := false, runFrom := none, fill := 0, asked := 0, farDead := false, silentFrom := 0, silentTo := 0 }

def LaneSt.init : LaneSt := { wins := [], cur := none, ending := [] }

def SeqSt.init : SeqSt :=
  { anchor := 0, stack := [], depth := 0, journal := [], saved := [], safe := { pc := 0, anchor := 0, depth := 0, handler := none },
    handler := none, sp := 0, ord := 0, wait := .none, timedOut := false, commitBad := false, runnable := false,
    abort := none, faults := [], shots := [], events := [], checks := [], trigs := [], starts := [], loading := none,
    resume := none, calReq := 0, bndAt := none, calAt := 0, calFor := none, lastE := 0, lastS := 0, settleTo := 0 }

def CombSt.init : CombSt := { recs := [], half := 0, specs := [], clipFrom := 0, ovr := [], ovrRun := none, distFrom := 0, distTo := 0, nbrAt := 0, resStart := 2147483648, settleEnd := none, reads := [], used := [], old := [] }

def DecSt.init : DecSt := { pubs := [], arrived := [], cacheArr := [], answers := [] }

/-- From power-up to the first LOAD after the first enabled load an output stands at zero scale (R314, R491). -/
def BiasSt.init : BiasSt :=
  { stages := [], zero := 1, ready := 0, holdEnd := none, flux := none, fluxes := [], cond := 0, ocAt := 0,
    entryAt := none, undo := none }

def WagSt.init : WagSt := { flight := [], recent := [], later := [], chans := [] }

def MarkSt.init : MarkSt := { edges := [], base := false, upto := 0, low := 1 }

def StampSt.init : StampSt := { high := false, mv := none, conv := [], last := none, held := [] }

def MeasSt.init : MeasSt :=
  { mode := 0, rep := false, restart := false, src1 := 0, src2 := 0, tmo := 0, gate := 0, pnom := 0, goAt := 0, start := none,
    stop := none, idx := 0, cnt := 0, si := 0, st := 0, sii := 0, sit := 0, unread := false }

def PortSt.init : PortSt :=
  { seq := 4095, ack := 4095, nak := false, buf := [], resend := [], resendAck := none, crcRun := 0, alignN := 0, txScr := [],
    rxScr := [], lq := [], mbox := [], inbox := [], vin := [], vq := [], outq := [], cplq := [], memq := [], probeq := [],
    link := none, negIn := none, negOut := false, good := 0, absentAt := 0, everLeft := false, leftAt := 0, v1 := false,
    pauseAt := 0, lost := [], spare := 0, txAlign := false, wire := 0, grid := none, t1 := none, delays := [], probeAt := 0,
    probed := 0, noSig := 0, eqTx := [], eqRx := [], dsk := [] }

def TxnSt.init : TxnSt :=
  { ents := [], beat := none, scope := 0, shot := false, reqAt := 0, decided := false, issuer := none, coord := 0, swarm := 0,
    tApply := 0, eq := none, slot := 0, no := 0 }

def SwarmSt.init : SwarmSt :=
  { running := false, txnNo := 0, t := 0, shot := false, parts := [], self := false, yes := [], acked := [], guard := 0,
    recs := [], flood := [], asks := [] }

def QueenSt.init : QueenSt := { src := none, thetas := [], run := 0, okSince := 0, lastAt := 0 }

def ChainSt.init : ChainSt :=
  { aseq := 0, annAt := 0, tseq := 0, timeAt := 0, routes := [], seen := [], qa := QueenSt.init, qb := QueenSt.init,
    lockRun := 0, rhos := [], fast := false, joinAt := 0, heard := [], stepAt := none, ppsLast := none, jumped := false, forming := false }

def MemSt.init : MemSt :=
  { charges := [], ues := [], repairs := [], weak := [], fixes := [], marked := [], spent := [], lost := 0 }

def LifeSt.init : LifeSt :=
  { slot := none, label := 0, secSet := false, page := 0, dueAt := 0, pwr := 0, slp := 0, cycles := 0, rej := 0, ctrs := [], seen := 0,
    avBase := 0, avOut := 0, booted := false, reading := none }

def CapSt.init : CapSt :=
  { gen := 0, dec := 0, compat := false, pre := 0, post := 0, base := 0, ring := 0, lo := 0, from' := 0, no := 0, wr := 0, cur := none,
    done := [], cA := false, cB := false, rise := none, roseB := false, last := 0, toFrom := 0, autoFrom := 0,
    lostAt := none }

def MonSt.init : MonSt := { cur := none, inj := none, hk := none, sums := [], extra := 0 }

def ThmSt.init : ThmSt :=
  { hkAt := none, mcalAt := none, tj := 0, volts := [], amps := [], rails := [], railMod := 4, coolRun := 0, wasHot := false, lamAt := 0,
    refFail := false }

def CalSt.init : CalSt := { ramps := [], left := [], boot := false, passAt := none, tCal := 0, bad := [], since := [], free := [], digest := 0 }

def ImgRef.none : ImgRef := { slot := 255, key := 0, svn := 0, seq := 0, digest := 0 }

/-- Key slot 0, the vendor root, is programmed at manufacture (log 12). -/
def SecSt.init : SecSt :=
  { hashes := [], minVer := 0, prog := 1, rev := 0, key := 0, refV := 0, eqTab := [], keys := [], img := ImgRef.none, bound := [], mb := none, fl := none,
    autostart := false, booted := [], todo := [] }

/-- Why the block stops with a fault. No command of the manual stops the block: no meaning raises it. -/
inductive Fault where
  /-- Raised by no meaning: the manual has the block go on after every event it describes. Safe. -/
  | stopped
  deriving DecidableEq, Repr

/-- Why a command has no outcome. -/
inductive Refusal where
  /-- Raised by exec's arms alone, for a command whose meaning is not written. Safe: the model stops. -/
  | notModelled (mnemonic : String)
  deriving DecidableEq, Repr

/-- The state of the block. -/
structure State where
  pending : List Instr           -- the commands waiting, first in, first out
  free : Nat                     -- the model's own: draws of free values made so far (log 2)
  dial : Nat                     -- the 72-bit Dial (R70)
  regs : List (Nat × Nat)        -- every register field by key; a CFG field's shadow
  act : List (Nat × Nat)         -- the active values of CFG fields (R48)
  svc : SvcSt
  i3c : I3cSt
  strobes : List Strobe          -- UPDATE beats pending
  wins : List (Nat × WinSt)
  capt : Captures
  locks : List (Nat × Nat)       -- LOCK registers already written, with their values (R56)
  accBase : Nat                  -- the Dial value at PLL lock, where CONTINUOUS accumulators start (R98)
  seqs : List (Nat × SeqSt)
  cells : List (Nat × CellSt)
  lanes : List (Nat × LaneSt)
  combs : List (Nat × CombSt)
  bank : List (Nat × Nat)        -- bank entries, shadow: key Cell × 256 + entry, 48 bits (R96, R128)
  bankAct : List (Nat × Nat)     -- bank entries, active
  marks : List (Nat × Nat)       -- halves written since the entry last applied: bit 0 LO, bit 1 HI (R128, R205)
  micro : List (Nat × Mem1)      -- key sequencer × 32,768 + address; an unlisted word is not loaded (R171)
  nano : List (Nat × Mem1)       -- key Quarter × 8,192 + word
  cache : List (Nat × Mem1)      -- key Comb × 65,536 + index (R113)
  kern : List (Nat × Mem1)       -- key Comb × 32,768 + index (R191)
  descs : List (Nat × Nat)       -- descriptor caches: key Comb × 4,194,304 + index (R360)
  dec : DecSt
  bias : List (Nat × BiasSt)     -- output 4n + b
  loads : List (Nat × List GroupLoad) -- LOADs waiting, by Comb
  wag : WagSt
  hbm : List Host.Cell           -- HBM by byte address (R348)
  poison : List Nat              -- poisoned 32-byte chunks (R352); in a stack of `memo.lost`, the clean ones
  flash : List Host.Cell         -- the flash by byte address (R482)
  mkrs : List (Nat × MarkSt)   -- markers
  stmp : List (Nat × StampSt)  -- stamp sources
  cd : Option CdSt             -- the code-density run under way
  meas : List (Nat × MeasSt)   -- measurement units
  ports : List (Nat × PortSt)  -- Elvent ports
  txns : List (Nat × TxnSt)    -- transactions
  swm : SwarmSt                -- swarms
  chain : ChainSt              -- chain time
  far : List FarRead           -- reads and writes over STORE ports
  memo : MemSt                 -- the memory block
  life : LifeSt                -- the life log
  caps : List (Nat × CapSt)    -- capture ports
  mons : List (Nat × MonSt)    -- monitor modulators
  thm : ThmSt                  -- the governor
  cal : CalSt                  -- calibration
  sec : SecSt                  -- the security block
  reqNo : Nat                  -- commit requests taken so far (R238)
  lastApply : Nat × List (Nat × Nat) -- the beat applied last, and what each commit wrote there: target, request (R52, R238)
  deriving DecidableEq, Repr

/-- The block right after reset: Dark (R61), every register at its reset value, nothing waiting, nothing stored. -/
def State.reset : State :=
  { pending := [], free := 0, dial := 0, regs := [], act := [], svc := SvcSt.init, i3c := I3cSt.init, strobes := [], wins := [],
    capt := Captures.init, locks := [], accBase := 0, seqs := [], cells := [], lanes := [], combs := [], bank := [], bankAct := [], marks := [],
    micro := [], nano := [], cache := [], kern := [], descs := [], dec := DecSt.init,
    bias := [], loads := [], wag := WagSt.init, hbm := [], poison := [], flash := [],
    mkrs := [],
    stmp := [],
    cd := none,
    meas := [],
    ports := [],
    txns := [],
    swm := SwarmSt.init,
    chain := ChainSt.init,
    far := [],
    memo := MemSt.init,
    life := LifeSt.init,
    caps := [],
    mons := [],
    thm := ThmSt.init,
    cal := CalSt.init,
    sec := SecSt.init,
    reqNo := 0,
    lastApply := (0, []) }

end Sys2Proof.Machine
end

