-- ==== Sys2Proof/Machine/Ops.lean ====
section
/-! DEFINITION. The shared operations: sparse maps, register fields, numbers of the manual, time, and the firing of
Waggle events. -/

namespace Sys2Proof.Machine

/-! ### Sparse maps: an unlisted key holds the default -/

def SMap.get {α : Type} (d : α) : List (Nat × α) → Nat → α
  | [], _ => d
  | (k', v) :: m, k => if k' = k then v else SMap.get d m k

def SMap.erase {α : Type} : List (Nat × α) → Nat → List (Nat × α)
  | [], _ => []
  | (k', v) :: m, k => if k' = k then SMap.erase m k else (k', v) :: SMap.erase m k

def SMap.insert {α : Type} : List (Nat × α) → Nat → α → List (Nat × α)
  | [], k, v => [(k, v)]
  | (k', v') :: m, k, v => if k < k' then (k, v) :: (k', v') :: m else (k', v') :: SMap.insert m k v

/-- Writing the default removes the entry. -/
def SMap.set {α : Type} [DecidableEq α] (d : α) (m : List (Nat × α)) (k : Nat) (v : α) : List (Nat × α) :=
  if v = d then SMap.erase m k else SMap.insert (SMap.erase m k) k v

/-! ### Register fields -/

/-- The stored value of a field: the shadow of a CFG field. -/
def State.rd (s : State) (f : Fld) : Nat := SMap.get f.reset s.regs f.key

def State.wr (s : State) (f : Fld) (v : Nat) : State := { s with regs := SMap.set f.reset s.regs f.key (v % 2 ^ f.width) }

/-- The active value of a CFG field (R48). -/
def State.ard (s : State) (f : Fld) : Nat := SMap.get f.reset s.act f.key

def State.awr (s : State) (f : Fld) (v : Nat) : State := { s with act := SMap.set f.reset s.act f.key (v % 2 ^ f.width) }

/-- A field is set to 1. -/
def State.setF (s : State) (f : Fld) : State := s.wr f 1

/-- A counter field counts modulo 2^width. -/
def State.inc (s : State) (f : Fld) : State := s.wr f (s.rd f + 1)

/-- A counter field stops at its largest value. -/
def State.incSat (s : State) (f : Fld) : State := if s.rd f + 1 < 2 ^ f.width then s.wr f (s.rd f + 1) else s

/-- Both the shadow and the active value (R52). -/
def State.both (s : State) (f : Fld) (v : Nat) : State := (s.wr f v).awr f v

def State.flag (s : State) (f : Fld) : Bool := decide (s.rd f = 1)

def State.setBit (s : State) (f : Fld) (i : Nat) : State := s.wr f (s.rd f ||| 2 ^ i)

def State.clrBit (s : State) (f : Fld) (i : Nat) : State :=
  if (s.rd f).testBit i then s.wr f (s.rd f - 2 ^ i) else s

/-! ### Numbers -/

/-- A field of `w` bits read as two's complement. -/
def signed (w v : Nat) : Int := if v % 2 ^ w < 2 ^ (w - 1) then (v % 2 ^ w : Nat) else ((v % 2 ^ w : Nat) : Int) - 2 ^ w

/-- The two's-complement code of `w` bits. -/
def unsigned (w : Nat) (x : Int) : Nat := (x % 2 ^ w).toNat

/-- Shift right by `k` with convergent rounding, ties to even (R93). -/
def crnd (x : Int) (k : Nat) : Int :=
  if k = 0 then x
  else
    let q := x / 2 ^ k
    let r := x % 2 ^ k
    if r > 2 ^ (k - 1) ∨ (r = 2 ^ (k - 1) ∧ q % 2 = 1) then q + 1 else q

/-- Saturation to `w` bits of two's complement. -/
def satw (w : Nat) (x : Int) : Int := if x ≥ 2 ^ (w - 1) then 2 ^ (w - 1) - 1 else if x < -(2 ^ (w - 1)) then -(2 ^ (w - 1)) else x

/-- A product of two 20-bit values (R93). -/
def mul20 (a b : Int) : Int := satw 20 (crnd (a * b) 19)

/-- The bits [hi:lo]. -/
def bits (v hi lo : Nat) : Nat := v / 2 ^ lo % 2 ^ (hi + 1 - lo)

def ceilDiv (a b : Nat) : Nat := (a + b - 1) / b

def clampN (v lo hi : Nat) : Nat := if v < lo then lo else if hi < v then hi else v

/-- The first beat boundary at or after a tick (R71). -/
def beatUp (t : Nat) : Nat := ceilDiv t 16 * 16

/-- The signed difference of R73. -/
def diff40 (f dial : Nat) : Int := signed 40 ((f % 2 ^ 40 + (2 ^ 40 - dial % 2 ^ 40)) % 2 ^ 40)

def due40 (f dial : Nat) : Bool := decide (diff40 f dial ≤ 0)

/-- The Hive time nearest the present with these low 40 bits (R74). -/
def expand40 (f dial : Nat) : Nat := ((dial : Int) + diff40 f dial).toNat

/-- Little-endian bytes as a number. -/
def leNat : List Byte → Nat
  | [] => 0
  | b :: bs => b.toNat + 256 * leNat bs

/-- A number as `k` little-endian bytes. -/
def leBytes : Nat → Nat → List Byte
  | 0, _ => []
  | k + 1, v => BitVec.ofNat 8 v :: leBytes k (v / 256)

/-! ### Result codes (R5) -/

def rOK : Nat := 0
def rBUSY : Nat := 1
def rSTATE : Nat := 2
def rAUTH : Nat := 3
def rCOUNTER : Nat := 4
def rRANGE : Nat := 5
def rLOCKED : Nat := 6
def rADMIT : Nat := 7
def rECC : Nat := 8
def rTIMEOUT : Nat := 9
def rVERSION : Nat := 10
def rABORTED : Nat := 11
def rPARTIAL : Nat := 12

/-! ### Free values -/

/-- Draw a value the manual leaves open (log 2). -/
def State.draw (s : State) : Nat × State := (Config.freeValue s.free, { s with free := s.free + 1 })

/-! ### Waggle events -/

/-- The source wired to a slot of a channel (R427, R428). S(n,k) is 20n + k, D(d) is 1,280 + d. -/
def srcOf (c slot : Nat) : Option Nat :=
  let stamps (q : Nat) : Option Nat := some (1280 + 8 * q + slot)
  if slot = 15 then none
  else if c < 0x40 then
    if slot < 8 then stamps (c / 16)
    else if slot = 8 then some (20 * c) else if slot = 9 then some (20 * c + 19) else if slot = 10 then some (20 * c + 14)
    else if slot = 11 then some (20 * c + 3) else if slot = 12 then some (20 * (c ^^^ 1) + 17)
    else if slot = 13 then some 1370 else none
  else if c < 0x80 then
    let n := c - 0x40
    if slot < 8 then stamps (n / 16)
    else if slot = 8 then some (20 * n) else if slot = 9 then some (20 * n + 1) else if slot = 10 then some (20 * n + 19)
    else if slot = 11 then some (20 * n + 14) else if slot = 12 then some 1370 else if slot = 13 then some 1375 else none
  else if c < 0xC0 then
    let n := c - 0x80
    if slot < 8 then stamps (n / 16)
    else if slot = 8 then some (20 * n + 15) else if slot = 9 then some (20 * n + 16) else if slot = 10 then some (20 * n + 9)
    else if slot = 11 then some (20 * n + 5) else if slot = 12 then some (20 * n + 13) else if slot = 13 then some 1372
    else some 1373
  else if c < 0xD0 then
    let i := c - 0xC0
    if slot < 2 then some (1280 + 2 * i + slot) else if slot = 2 then some (1280 + 32 + i) else if slot = 3 then some 1370
    else if slot = 4 then some (1280 + 48 + i % 8) else if slot = 5 then some (1280 + 78) else if slot = 6 then some (1280 + 83)
    else if slot = 7 then some 1375 else if slot = 8 then some (1280 + 87)
    else if slot < 13 then some (20 * (4 * i + (slot - 9)) + 1) else none
  else if c < 0xE0 then
    let k := c - 0xD0
    if slot < 8 then stamps (k / 4)
    else if slot < 12 then some (20 * (4 * k + (slot - 8))) else if slot = 12 then some 1370
    else if slot = 13 then some (20 * (4 * k) + 19) else none
  else if c < 0xE5 then
    let m := c - 0xE0
    if slot < 8 then (if m < 4 then stamps m else none)
    else if slot = 8 then some 1370 else if slot = 9 then some 1364 else if slot = 10 then some 1372
    else if slot = 11 then some 1373 else if slot = 12 then some (1280 + 96 + 32 * m)
    else if slot = 13 then some (1280 + 97 + 32 * m) else some (1280 + 79)
  else if c = 0xE5 then (if slot = 0 then some 1364 else none)
  else if c = 0xE6 then (if slot = 0 then some 1365 else none)
  else if c = 0xE7 then (if slot = 0 then some 1366 else none)
  else if c = 0xE8 then (if slot < 12 then some (1280 + 66 + slot) else if slot = 12 then some (1280 + 79) else none)
  else if c = 0xE9 then (if slot < 2 then some (1280 + 87 + slot) else none)
  else if c = 0xEA then (if slot = 0 then some (1280 + 89) else none)
  else if c = 0xEB then
    if slot < 2 then some (1280 + 93 + slot) else if slot < 7 then some (1280 + 127 + 32 * (slot - 2)) else none
  else if c = 0xEC then
    if slot < 8 then some (1280 + 48 + slot) else if slot = 8 then some (1280 + 92) else if slot = 9 then some (1280 + 80)
    else if slot = 10 then some (1280 + 82) else none
  else if c = 0xED then
    if slot < 5 then some (1280 + 127 + 32 * slot) else if slot = 5 then some (1280 + 79) else if slot = 6 then some (1280 + 89)
    else if slot = 7 then some 1370 else none
  else if c < 0xFE then
    let u := c - 0xEE
    if slot < 2 then some (1280 + 2 * u + slot) else if slot = 2 then some 1370 else if slot = 3 then some 1375
    else if slot = 4 then some (1280 + 64) else if slot = 5 then some (1280 + 32 + u) else none
  else if c = 0xFE then some (1280 + 64 + slot)
  else if slot < 8 then some (1280 + 79 + slot) else some (1280 + 79 + slot)

/-- The channels that can have an enabled slot other than `fire`: the summary channels, and each channel whose active
`en` is not its reset value. -/
def State.wiredChans (s : State) : List Nat :=
  [0xE5, 0xE6, 0xE7, 0xE8, 0xE9, 0xEA, 0xEB, 0xEC] ++
    (s.act.filterMap fun e =>
      if 0x21000 * 32 ≤ e.1 ∧ e.1 < 0x22000 * 32 ∧ e.1 % 512 = 0 then
        let c := (e.1 - 0x21000 * 32) / 512
        if 0xE5 ≤ c ∧ c ≤ 0xEC then none else some c
      else none)

/-- The events that one occurrence of `src` at time `time` puts into channels: one for each wired slot whose active
enable is set (R429). -/
def State.enter (s : State) (time src : Nat) : List Flight :=
  s.wiredChans.flatMap fun c =>
    (List.range 15).filterMap fun slot =>
      if srcOf c slot = some src ∧ (s.ard (R.wagEn_en c)).testBit slot then some ⟨time, c, slot⟩ else none

/-- The events of the last 2,560 ticks, the longest way through a channel (R429), with one more. -/
def State.recall (s : State) (time src : Nat) : List (Nat × Nat) :=
  (time, src) :: s.wag.recent.filter fun e => decide (s.dial < e.1 + 2560)

/-- An occurrence of `src` at event time `time`. -/
def State.occur (s : State) (time src : Nat) : State :=
  { s with wag := { s.wag with flight := s.wag.flight ++ s.enter time src, recent := s.recall time src } }

/-- A source fires at the present Dial value. -/
def State.fire (s : State) (src : Nat) : State := s.occur s.dial src

/-- A source whose event time is `time`: now, or when the Dial reaches it. -/
def State.fireAt (s : State) (time src : Nat) : State :=
  if time ≤ s.dial then s.occur time src
  else { s with wag := { s.wag with later := s.wag.later ++ [(time, src)] } }

/-- Device source D(d). -/
def State.fireD (s : State) (d : Nat) : State := s.fire (1280 + d)

/-- Comb source S(n,k), and with it its aggregate D(64 + k) (R426). -/
def State.fireS (s : State) (n k : Nat) : State := (s.fire (20 * n + k)).fireD (64 + k)

def State.fireSAt (s : State) (time n k : Nat) : State := (s.fireAt time (20 * n + k)).fireAt time (1280 + 64 + k)

/-- An event that was to fire later does not (S(n,k) with its aggregate). -/
def State.unfireS (s : State) (time n k : Nat) : State :=
  { s with wag := { s.wag with later := (s.wag.later.erase (time, 20 * n + k)).erase (time, 1280 + 64 + k) } }

/-! ### Time -/

/-- What one count of the Dial adds: 256 for each REF_CLK edge until the PLLs lock and in Sleep (2,560 at 10 MHz), one
from lock on and while REF_CLK is absent (R69, R70). -/
def State.gran (s : State) : Nat :=
  if s.svc.fine = true ∨ s.rd R.timeStatus_dial_free = 1 then 1
  else if s.rd R.timeCtl_ref_sel = 1 then 2560 else 256

/-- The events whose time has come enter their channels. -/
def State.flush (s : State) : State :=
  match s.wag.later with
  | [] => s
  | _ :: _ =>
    (s.wag.later.filter fun e => e.1 ≤ s.dial).foldl (fun s e => s.occur e.1 e.2)
      { s with wag := { s.wag with later := s.wag.later.filter fun e => ¬ e.1 ≤ s.dial } }

/-- The Dial reaches `t`: it counts forward only, on its present grid, and stands still in Dark (R70). -/
def State.at (s : State) (t : Nat) : State :=
  if s.svc.svc = .dark then s
  else ({ s with dial := max s.dial (t - t % s.gran) % 2 ^ 72 }).flush

/-- The Dial read as its low 40 bits. -/
def State.now40 (s : State) : Nat := s.dial % 2 ^ 40

end Sys2Proof.Machine
end

