-- ==== Sys2Proof/Machine/Mem.lean ====
section
/-! DEFINITION. HBM and flash: bytes of a canonical list, chunks and their poison (R348 to R352, R482). -/

namespace Sys2Proof.Machine

/-- What an unlisted byte of HBM reads as (log 4). -/
def hbmBlank : Byte := 0#8

/-- What an unlisted byte of flash reads as: erased (R486, log 4). -/
def flashBlank : Byte := 255#8

/-- The canonical form: addresses strictly rising, no entry equal to what an unlisted address reads as. -/
def Memory.rising : List Host.Cell → Bool
  | [] => true
  | [_] => true
  | a :: b :: m => decide (a.1 < b.1) && Memory.rising (b :: m)

def Memory.wf (blank : Byte) (m : List Host.Cell) : Bool := Memory.rising m && m.all fun e => decide (e.2 ≠ blank)

def State.hbmByte (s : State) (a : Nat) : Byte := SMap.get hbmBlank s.hbm a

def State.setHbmByte (s : State) (a : Nat) (v : Byte) : State := { s with hbm := SMap.set hbmBlank s.hbm a v }

/-- `len` bytes from address `a` as a little-endian number. -/
def State.hbmNat (s : State) (a : Nat) : Nat → Nat
  | 0 => 0
  | k + 1 => (s.hbmByte a).toNat + 256 * State.hbmNat s (a + 1) k

def State.hbmBytes (s : State) (a : Nat) : Nat → List Byte
  | 0 => []
  | k + 1 => s.hbmByte a :: State.hbmBytes s (a + 1) k

/-- Bytes written one after the other. -/
def State.putHbm (s : State) (a : Nat) : List Byte → State
  | [] => s
  | b :: bs => (s.setHbmByte a b).putHbm (a + 1) bs

/-- The stack that holds a chunk: address bits [9:8] (R348). -/
def stackOf (chunk : Nat) : Nat := chunk / 8 % 4

/-- A chunk of 32 bytes is poisoned (R352, R355). -/
def State.poisoned (s : State) (chunk : Nat) : Bool := s.poison.contains chunk != s.memo.lost.testBit (stackOf chunk)

/-- The list of `poison` with a chunk in it or not. -/
def State.listChunk (s : State) (chunk : Nat) (listed : Bool) : State :=
  let rest := s.poison.filter (· ≠ chunk)
  { s with poison := if listed then chunk :: rest else rest }

def State.setMemo (s : State) (x : MemSt) : State := { s with memo := x }

/-- A chunk is written whole: no error is in it. -/
def State.healChunk (s : State) (chunk : Nat) : State := s.setMemo { s.memo with weak := s.memo.weak.filter fun e => decide (e.1 ≠ chunk) }

/-- A full write of a chunk clears its poison (R352). -/
def State.cleanChunk (s : State) (chunk : Nat) : State := (s.healChunk chunk).listChunk chunk (s.memo.lost.testBit (stackOf chunk))

def State.poisonChunk (s : State) (chunk : Nat) : State := (s.healChunk chunk).listChunk chunk (!s.memo.lost.testBit (stackOf chunk))

/-- A write of whole chunks from a chunk address on. -/
def State.putChunks (s : State) (a : Nat) (bs : List Byte) : State :=
  (List.range (bs.length / 32)).foldl (fun s i => s.cleanChunk (a / 32 + i)) (s.putHbm a bs)

/-- First byte of a region in HBM (R349). -/
def State.rgnStart (s : State) (r : Nat) : Nat := s.rd (R.memRgnBase_rgn_base r) * 2 ^ 20

def State.rgnBytes (s : State) (r : Nat) : Nat := s.rd (R.memRgnSize_rgn_size r) * 2 ^ 20

/-- The memory error event (R367). -/
def State.memEvent (s : State) : State := s.fireD 92

/-! ### Admission (R357, R358) -/

/-- The reservable share in units of 10 MB/s. -/
def rsvLimit : Nat := 329728

def chargeSum (l : List (Nat × Nat)) : Nat := (l.map (·.2)).foldl (· + ·) 0

/-- The charges without those of some holders. -/
def dropCharges (l : List (Nat × Nat)) (ks : List Nat) : List (Nat × Nat) := l.filter fun e => !ks.contains e.1

def State.setCharges (s : State) (l : List (Nat × Nat)) : State :=
  ({ s with memo := { s.memo with charges := l } }).wr R.memRsv_rsv_sum (chargeSum l)

def State.release (s : State) (ks : List Nat) : State := s.setCharges (dropCharges s.memo.charges ks)

/-- One request: it adds charges and gives up those of `old`; refused whole where the sum would pass the limit. -/
def State.admission (s : State) (old : List Nat) (new : List (Nat × Nat)) : Bool × State :=
  let l := dropCharges s.memo.charges old ++ new.filter fun e => decide (e.2 ≠ 0)
  if chargeSum l ≤ rsvLimit then (true, s.setCharges l) else (false, (s.setF R.memStatus_admit_ref).memEvent)

/-- A chunk is found poisoned or turns out uncorrectable on a read: POISON_HIT (R352). -/
def State.poisonHit (s : State) : State := (s.setF R.memStatus_poison_hit).memEvent

/-! ### Errors found as HBM is read (R351, R352, R354) -/

def ticksPerSec : Nat := 25600000000
def ticksPerMs : Nat := 25600000

/-- A lifetime counter grows (R474). -/
def State.lifeAdd (s : State) (page i by' : Nat) : State :=
  let k := 16 * page + i
  { s with life := { s.life with ctrs := SMap.set 0 s.life.ctrs k (SMap.get 0 s.life.ctrs k + by') } }

/-- Key of a row: stack, pseudo-channel (R348), bank and row. -/
def rowKey (stack pch bank row : Nat) : Nat := ((stack * 32 + pch) * 65536 + bank % 65536) * 2 ^ 32 + row % 2 ^ 32

def rowOfChunk (chunk : Nat) : Nat :=
  rowKey (stackOf chunk) (chunk / 32 % 32) (Config.rowOf chunk / 2 ^ 32) (Config.rowOf chunk)

/-- A row is marked for repair. -/
def State.markRow (s : State) (k : Nat) : State := s.setMemo { s.memo with marked := k :: s.memo.marked.filter (· ≠ k) }

/-- A read corrects an error confined to one symbol and writes the chunk back; the fourth of a row within 24 h marks it. -/
def State.corrected (s : State) (chunk : Nat) : State :=
  let k := rowOfChunk chunk
  let fixes := (k, s.dial) :: s.memo.fixes.filter fun e => decide (s.dial < e.2 + 86400 * ticksPerSec)
  let s := ((s.incSat (R.memStkCe_ce_count (stackOf chunk))).lifeAdd 2 (stackOf chunk) 1).healChunk chunk
  let s := s.setMemo { s.memo with fixes := fixes }
  if 4 ≤ (fixes.filter fun e => decide (e.1 = k)).length then s.markRow k else s

/-- A read finds an uncorrectable error: poison, the stack's count, UE, and the row is marked. -/
def State.uncorrectable (s : State) (chunk : Nat) : State :=
  let s := (((s.poisonChunk chunk).incSat (R.memStkUe_ue_count (stackOf chunk))).setF R.memStatus_ue).memEvent
  let s := (s.lifeAdd 2 5 1).markRow (rowOfChunk chunk)
  let recent := (chunk, s.dial) :: s.memo.ues.filter fun e => decide (e.1 ≠ chunk ∧ s.dial < e.2 + ticksPerSec)
  s.setMemo { s.memo with ues := recent }

/-- The symbols in error of a chunk that is not poisoned. -/
def State.errorsOf (s : State) (chunk : Nat) : Nat := SMap.get 0 s.memo.weak chunk

/-- A read of a chunk: whether it is unreadable, and what the controller does. Errors in more than one symbol are uncorrectable (log
68). -/
def State.meetChunk (s : State) (chunk : Nat) : Bool × State :=
  if s.poisoned chunk then (true, s.poisonHit)
  else if s.errorsOf chunk = 0 then (false, s)
  else if s.errorsOf chunk = 1 then (false, s.corrected chunk)
  else (true, s.uncorrectable chunk)

/-- Chunks of `len` bytes from `a` that may not read plainly. -/
def State.suspects (s : State) (a len : Nat) : List Nat :=
  if s.memo.lost = 0 then
    ((s.memo.weak.map (·.1)) ++ s.poison).filter fun c => decide (a / 32 ≤ c) && decide (c * 32 < a + len)
  else (List.range ((a + len + 31) / 32 - a / 32)).map (a / 32 + ·)

/-- A read of chunks: those that are unreadable. -/
def State.meetAll (s : State) (chunks : List Nat) : List Nat × State :=
  chunks.foldl (fun r c => let q := r.2.meetChunk c; (if q.1 then c :: r.1 else r.1, q.2)) ([], s)

/-- A read of `len` bytes from `a`: the chunks of it that are unreadable. -/
def State.meetSpan (s : State) (a len : Nat) : List Nat × State := s.meetAll (s.suspects a len)

/-- Errors in `k` more symbols strike a chunk. -/
def State.strikeChunk (s : State) (chunk k : Nat) : State :=
  if s.poisoned chunk ∨ k = 0 then s
  else s.setMemo { s.memo with weak := SMap.set 0 s.memo.weak chunk (s.errorsOf chunk + k) }

def State.flashByte (s : State) (a : Nat) : Byte := SMap.get flashBlank s.flash a

def State.setFlashByte (s : State) (a : Nat) (v : Byte) : State := { s with flash := SMap.set flashBlank s.flash a v }

def State.flashNat (s : State) (a : Nat) : Nat → Nat
  | 0 => 0
  | k + 1 => (s.flashByte a).toNat + 256 * State.flashNat s (a + 1) k

def State.flashBytes (s : State) (a : Nat) : Nat → List Byte
  | 0 => []
  | k + 1 => s.flashByte a :: State.flashBytes s (a + 1) k

def State.putFlash (s : State) (a : Nat) : List Byte → State
  | [] => s
  | b :: bs => (s.setFlashByte a b).putFlash (a + 1) bs

/-- An erase makes every byte of the sector blank, and counts (R474). -/
def State.eraseFlash (s : State) (a len : Nat) : State :=
  { s with flash := s.flash.filter fun e => ¬ (a ≤ e.1 ∧ e.1 < a + len) }.lifeAdd 2 6 1

end Sys2Proof.Machine
end

