-- ==== Sys2Proof/Machine/Common.lean ====
section
/-! DEFINITION. The units' own state by number, shots and their marks, and the settings that several families share. -/

namespace Sys2Proof.Machine

def State.seq (s : State) (n : Nat) : SeqSt := SMap.get SeqSt.init s.seqs n
def State.setSeq (s : State) (n : Nat) (q : SeqSt) : State := { s with seqs := SMap.set SeqSt.init s.seqs n q }
def State.cell (s : State) (g : Nat) : CellSt := SMap.get CellSt.init s.cells g
def State.setCell (s : State) (g : Nat) (x : CellSt) : State := { s with cells := SMap.set CellSt.init s.cells g x }
def State.lane (s : State) (g : Nat) : LaneSt := SMap.get LaneSt.init s.lanes g
def State.setLane (s : State) (g : Nat) (x : LaneSt) : State := { s with lanes := SMap.set LaneSt.init s.lanes g x }
def State.comb (s : State) (n : Nat) : CombSt := SMap.get CombSt.init s.combs n
def State.setComb (s : State) (n : Nat) (x : CombSt) : State := { s with combs := SMap.set CombSt.init s.combs n x }

/-- The device answers commands: it is not in Dark (R15). -/
def State.awake (s : State) : Bool := decide (s.svc.svc ≠ .dark)

def State.isAmber (s : State) : Bool := decide (s.svc.svc = .amber)
def State.isGreen (s : State) : Bool := decide (s.svc.svc = .green)
def State.isSleep (s : State) : Bool := decide (s.svc.svc = .sleep)

/-- The bits set in an 8-bit mask. -/
def maskBits (w m : Nat) : List Nat := (List.range w).filter fun i => m.testBit i

/-- Sequencer n is halted. -/
def State.halted (s : State) (n : Nat) : Bool := decide (s.rd (R.seqStatus_run n) = 0)

def State.allHalted (s : State) : Bool := (List.range 64).all s.halted

/-! ### Shots (R81, R84, R524) -/

/-- The shot that is open on sequencer n. -/
def State.openShot (s : State) (n : Nat) : Option Shot :=
  if s.rd (R.seqStatus_in_shot n) = 1 then (s.seq n).shots.head? else none

def markIn (k : Nat) : List Shot → List Shot
  | [] => []
  | x :: xs => (if x.num = k then { x with invalid := true } else x) :: markIn k xs

/-- Marks shot `k` of sequencer n invalid (R524); a step with no open shot marks none. `shot_invalid` shows the latest shot, which
carries the number that `shot_count` holds. -/
def State.markShot (s : State) (n : Nat) (k : Option Nat) : State :=
  match k with
  | none => s
  | some k =>
    if (s.seq n).shots.any fun x => x.num = k then
      let s := s.setSeq n { s.seq n with shots := markIn k (s.seq n).shots }
      let s := if s.rd (R.seqShots_shot_count n) = k then s.wr (R.seqStatus_shot_invalid n) 1 else s
      s.fireS n 4
    else s

/-- Marks the open shot of sequencer n. -/
def State.markOpen (s : State) (n : Nat) : State := s.markShot n ((s.openShot n).map (·.num))

/-- Something of shot `k` has ended at the tick before `t`. -/
def noteIn (k t : Nat) : List Shot → List Shot
  | [] => []
  | x :: xs => (if x.num = k then { x with last := max x.last t } else x) :: noteIn k t xs

def State.noteEnd (s : State) (n : Nat) (k : Option Nat) (t : Nat) : State :=
  match k with
  | none => s
  | some k => s.setSeq n { s.seq n with shots := noteIn k t (s.seq n).shots }

/-- A pulse of the shot that had no last sample when it was scheduled has not ended yet (R81). -/
def State.endless (s : State) (n : Nat) (k : Nat) : Bool :=
  (List.range 8).any fun c =>
    let x := s.cell (8 * n + c)
    let open' := fun (p : Pulse) => decide (p.iss.shot = some k) && p.endless && p.stop.isNone
    (match x.play with
      | some (p, _) => open' p
      | none => false) || x.waiting.any open'

/-- Where a pulse ends, as far as it is scheduled. -/
def Pulse.till (p : Pulse) : Nat := match p.stop with | some k => if p.endless then k else min k p.fin | none => p.fin

def Win.till (w : Win) : Nat :=
  32 * (match w.cut with | some m => min m (w.mFirst + w.count - 1) | none => w.mFirst + w.count - 1) + 1

/-- The tick after the last sample, code, edge or window sample of shot k that is still ahead or under way: as it plays, so
that a jump, a cut or a cancellation moves E (DEDUCED, log 24). -/
def State.aheadEnd (s : State) (n k : Nat) : Nat :=
  let mine := fun (i : Issue) => decide (i.shot = some k)
  let may := fun (i : Option Issue) => match i with | some i => mine i | none => false
  let top := fun (l : List Nat) => l.foldl max 0
  let cells := (List.range 8).flatMap fun c =>
    let x := s.cell (8 * n + c)
    ((((x.play.map (·.1)).toList ++ x.waiting).filter fun p => mine p.iss).map Pulse.till)
  let wins := (List.range 8).flatMap fun c =>
    let x := s.lane (8 * n + c)
    ((x.wins.filter fun w => mine w.iss).map Win.till) ++
      (((x.cur.toList ++ x.ending).filter fun o => mine o.w.iss).map fun o => 32 * o.last + 1)
  let flux := (List.range 4).flatMap fun b =>
    let x := SMap.get BiasSt.init s.bias (4 * n + b)
    ((x.flux.toList ++ x.fluxes).filter fun f => mine f.iss).map fun f => f.b0 + 16 * f.len
  let loads := ((SMap.get [] s.loads n).filter fun (l : GroupLoad) => may l.iss).map fun l => l.beat + 1
  let edges := ((SMap.get MarkSt.init s.mkrs n).edges.filter fun e => may e.iss).map fun e => e.at16 / 16 + 1
  max (max (top cells) (top wins)) (max (top flux) (max (top loads) (top edges)))

/-- E of a shot, once its SHOT end has executed and the end of everything in it is known (R81). -/
def State.shotE (s : State) (n : Nat) (x : Shot) : Option Nat :=
  match x.endA with
  | none => none
  | some a => if s.endless n x.num then none else some (max a (max x.last (s.aheadEnd n x.num)))

/-- The Comb is between shots at the present Dial value: no shot is open, and no E lies ahead (R84). -/
def State.betweenShots (s : State) (n : Nat) : Bool :=
  (s.seq n).shots.all fun x =>
    match s.shotE n x with
    | none => false
    | some e => decide (e ≤ s.dial)

/-- The end that a boundary action of Comb n waits for: the latest E of its shots, where they overlap too, so that it never acts
inside a shot (R81, R82, R85; DEDUCED, log 21). None while an end is not known. -/
def State.lastEnd (s : State) (n : Nat) : Option Nat :=
  (s.seq n).shots.foldl (fun acc x => acc.bind fun m => (s.shotE n x).map fun e => max m e) (some (s.seq n).lastE)

/-- No shot of Comb n is under way at the present Dial value. -/
def State.noShotNow (s : State) (n : Nat) : Bool :=
  (s.seq n).shots.all fun x =>
    decide (s.dial < x.s) || (match s.shotE n x with | some e => decide (e ≤ s.dial) | none => false)

/-! ### Flags that are event sources -/

/-- A bit of HOST_ACC_STATUS is set: the first fault keeps its address, and D(85) fires (R36, R37, R426). `addr` is the address
of the access itself, the alias where it goes through one (DEDUCED, log 58). -/
def State.accFault (s : State) (f : Fld) (addr : Nat) : State :=
  let clear := s.rd R.hostAccStatus_acc_partial = 0 ∧ s.rd R.hostAccStatus_acc_align = 0 ∧ s.rd R.hostAccStatus_acc_unmapped = 0 ∧
    s.rd R.hostAccStatus_wlock = 0 ∧ s.rd R.hostAccStatus_xerr = 0 ∧ s.rd R.hostAccStatus_mb_busy_wr = 0 ∧
    s.rd R.hostAccStatus_acc_asleep = 0
  let s := if clear then s.wr R.hostAccAddr_addr addr else s
  (s.setF f).fireD 85

/-- A command of the host at the word `a` of a block that Sleep shuts off: in Sleep its access is ignored and sets ACC_ASLEEP
(R27). -/
def State.hostCmd (s : State) (a : Nat) (f : State → State) : State :=
  if s.isSleep then s.accFault R.hostAccStatus_acc_asleep a else f s

/-- A flag of DEC_STATUS (R232). -/
def State.decFlag (s : State) (f : Fld) : State := (s.setF f).fireD 91

/-- A flag of TXN_FLAGS that belongs to swarms fires D(88) (R426). -/
def State.swarmFlag (s : State) (f : Fld) : State := (s.setF f).fireD 88

/-- A flag of CHN_STATUS (R426). -/
def State.chnFlag (s : State) (f : Fld) : State := (s.setF f).fireD 89

/-- A flag of a Comb with its event. -/
def State.combFlag (s : State) (f : Fld) (n k : Nat) : State := (s.setF f).fireS n k

/-! ### Mute causes (R266): the home of each is `mute_why` of its DAC port -/

/-- OUTk stands on Front die k / 32 as port k mod 32. -/
def muteWhy (k : Nat) : Fld := R.dacMuteWhy_mute_why (k / 32) (k % 32)

/-- `muted` of the port follows its causes. -/
def State.muteState (s : State) (k : Nat) : State :=
  if s.rd (muteWhy k) = 0 then s.clrBit (R.frontMuted_muted (k / 32)) (k % 32) else s.setBit (R.frontMuted_muted (k / 32)) (k % 32)

def State.mute (s : State) (k cause : Nat) : State := (s.setBit (muteWhy k) cause).muteState k

def State.unmute (s : State) (k cause : Nat) : State := (s.clrBit (muteWhy k) cause).muteState k

def State.muteAll (s : State) (cause : Nat) : State := (List.range 128).foldl (fun s k => s.mute k cause) s

def State.unmuteAll (s : State) (cause : Nat) : State := (List.range 128).foldl (fun s k => s.unmute k cause) s

/-- `muted` of HIVE_STATE: MUTE_N is low or the master output enable is off (R23). -/
def State.hiveMuted (s : State) : State :=
  s.wr R.hiveState_muted (if s.svc.muteHigh = false ∨ s.rd R.secBoot_oe = 0 then 1 else 0)

end Sys2Proof.Machine
end

