-- ==== Sys2Proof/Machine/Codes.lean ====
section
/-! DEFINITION. Check words: the CRC-32 of IEEE 802.3 (R376) and CRC-32C (R64, R470, R473, R483, R494). -/

namespace Sys2Proof.Machine

/-- One bit of a reflected CRC with a generator given bit-reversed. -/
def crcBit (poly c : Nat) : Nat := if c % 2 = 1 then c / 2 ^^^ poly else c / 2

/-- `w` bits of `v`, the least significant first, shifted into a reflected CRC. -/
def crcShift (poly : Nat) : Nat → Nat → Nat → Nat
  | 0, _, c => c
  | w + 1, v, c => crcShift poly w (v / 2) (crcBit poly (c ^^^ v % 2))

/-- The CRC-32 of IEEE 802.3 over the `w` low bits of `v`, from bit 0 upward. -/
def crc32 (w v : Nat) : Nat := crcShift 0xEDB88320 w v 0xFFFFFFFF ^^^ 0xFFFFFFFF

def crcBytes : List Byte → Nat → Nat
  | [], c => c
  | b :: bs, c => crcBytes bs (crcShift 0x82F63B78 8 b.toNat c)

/-- CRC-32C over bytes. -/
def crc32c (bs : List Byte) : Nat := crcBytes bs 0xFFFFFFFF ^^^ 0xFFFFFFFF

end Sys2Proof.Machine
end

