-- ==== Sys2Proof/Machine/Life.lean ====
section
/-! DEFINITION. The life log, the calendar, the availability counts (R472 to R478, R481). -/

namespace Sys2Proof.Machine

def State.setLife (s : State) (x : LifeSt) : State := { s with life := x }

/-! ### Counters (R474) -/

def State.lifeCtr (s : State) (page i : Nat) : Nat := SMap.get 0 s.life.ctrs (16 * page + i)

/-- A counter in the unit of its record: minutes in pages 0, 1 and from 5 on (the last two places of page 4 are R478's). -/
def State.lifeValue (s : State) (page i : Nat) : Nat :=
  if page = 4 ∧ i = 5 then s.life.avBase / ticksPerSec
  else if page = 4 ∧ i = 6 then s.life.avOut / ticksPerMs
  else if page ≤ 1 ∨ 5 ≤ page then s.lifeCtr page i / 60000
  else s.lifeCtr page i

/-! ### Time spent (R473, R478) -/

/-- Time counts for availability: not in Dark, not in the boot interval, not in a requested Sleep (R478). -/
def State.avCounts (s : State) : Bool := s.awake && s.life.booted && !s.isSleep && !s.svc.entry

/-- Brings the counts of time up to the present Dial value: before every change of service state, and at a reading. -/
def State.account (s : State) : State :=
  let x := s.life
  let d := s.dial - x.seen
  let x := { x with
    seen := s.dial
    pwr := if s.awake then x.pwr + d else x.pwr
    slp := if s.isSleep then x.slp + d else x.slp
    avBase := if s.avCounts then x.avBase + d else x.avBase
    avOut := if s.avCounts ∧ s.isGreen = false then x.avOut + d else x.avOut }
  ((s.setLife x).wr R.lifeAvBase_av_base (x.avBase / ticksPerSec)).wr R.lifeAvOut_av_out (min 0xFFFFFFFF (x.avOut / ticksPerMs))

/-! ### The calendar (R421, R477) -/

/-- K of the chain, where one is in force: members, holdover, Queen B in SOURCE, Queen A once `sec_off` is written. -/
def State.chainK (s : State) : Option Nat :=
  let c := s.rd R.chnStatus_cstate
  let k := s.rd R.chnSecLo_sec_off_lo + 2 ^ 32 * s.rd R.chnSecHi_sec_off_hi
  if s.rd R.chnCtl_role = 1 then (if s.life.secSet then some k else if c = 2 ∨ c = 3 then some k else none)
  else if c = 2 ∨ c = 3 ∨ (c = 4 ∧ s.rd R.chnCtl_role = 2) then some k
  else none

def State.label (s : State) : Nat := (s.dial / ticksPerSec + (s.chainK.getD s.life.label)) % 2 ^ 48

/-- Year, month and day of a day counted from 2000-01-01, in the proleptic Gregorian calendar. Years begin in March here:
146,097 days make 400 years. -/
def civil (days : Nat) : Nat × Nat × Nat :=
  let z := days + 730425
  let era := z / 146097
  let doe := z % 146097
  let yoe := (doe - doe / 1460 + doe / 36524 - doe / 146096) / 365
  let doy := doe - (365 * yoe + yoe / 4 - yoe / 100)
  let mp := (5 * doy + 2) / 153
  let m := if mp < 10 then mp + 3 else mp - 9
  (yoe + era * 400 + (if m ≤ 2 then 1 else 0), m, doy - (153 * mp + 2) / 5 + 1)

/-- CALENDAR_READ: CLD_SEC_LO captures the label and every derived field. -/
def State.captureCalendar (s : State) : State :=
  let l := s.label
  let c := civil (l / 86400)
  let sec := l % 86400
  let s := ((s.wr R.cldSecLo_label_lo l).wr R.cldSecHi_label_hi (l / 2 ^ 32)).wr R.cldSecHi_uncertain (if s.chainK.isSome then 0 else 1)
  let s := ((s.wr R.cldDate_year (min 65535 c.1)).wr R.cldDate_month c.2.1).wr R.cldDate_day c.2.2
  let s := s.wr R.cldDate_wday ((l / 86400 + 6) % 7)
  ((s.wr R.cldTime_hour (sec / 3600)).wr R.cldTime_minute (sec / 60 % 60)).wr R.cldTime_second (sec % 60)

def execCalendarRead (t : Nat) (s : State) : Host.Outcome State Fault Refusal :=
  let s := s.at t
  if s.awake then .next (s.hostCmd 0x70300 fun s => s.captureCalendar) else .next s

/-! ### Records (R472, R473, R475) -/

def lifeBase : Nat := 0x1000000
def lifeSlots : Nat := 262144
def lifeAddr (slot : Nat) : Nat := lifeBase + 64 * slot

/-- A record's slot is blank. -/
def State.lifeBlank (s : State) (slot : Nat) : Bool := (s.flashBytes (lifeAddr slot) 64).all fun b => decide (b = flashBlank)

/-- The slot that the next record takes: a slot after the head whose record was cut off stays unused. -/
def State.freeSlot (s : State) : Nat → Nat → Nat
  | 0, k => k % lifeSlots
  | fuel + 1, k => if k % 1024 = 0 ∨ s.lifeBlank (k % lifeSlots) then k % lifeSlots else State.freeSlot s fuel (k + 1)

def State.nextSlot (s : State) : Nat := match s.life.slot with | some k => s.freeSlot 1024 (k + 1) | none => 0

/-- Bytes 0 to 59 of a record. -/
def State.lifeBody (s : State) (lseq kind page payload : Nat) : List Byte :=
  let x := s.life
  let flags := (if s.chainK.isSome then 0 else 1) + (if s.isSleep then 2 else 0)
  leBytes 4 lseq ++ leBytes 1 kind ++ leBytes 1 page ++ leBytes 2 flags ++ leBytes 6 s.label ++ leBytes 2 0 ++
    leBytes 4 (min 0xFFFFFFFF (x.pwr / (60 * ticksPerSec))) ++ leBytes 4 (min 0xFFFFFFFF (x.slp / (60 * ticksPerSec))) ++
    leBytes 4 (min 0xFFFFFFFF x.cycles) ++ leBytes 4 (min 0xFFFFFFFF x.rej) ++ leBytes 28 payload

/-- One record goes into the log; a new sector is erased first. -/
def State.lifeAppend (s : State) (kind page payload : Nat) : State :=
  let s := s.account
  let slot := s.nextSlot
  let lseq := if s.life.slot.isSome then (s.rd R.lifeHead_lseq_head + 1) % 2 ^ 32 else 0
  let s := if slot % 1024 = 0 then s.eraseFlash (lifeAddr slot) 65536 else s
  let body := s.lifeBody lseq kind page payload
  let s := s.putFlash (lifeAddr slot) (body ++ leBytes 4 (crc32c body))
  (s.setLife { s.life with slot := some slot }).wr R.lifeHead_lseq_head lseq

/-- Payload of a periodic record: seven counters of 32 bits, or nine of 24. -/
def State.lifePage (s : State) (page : Nat) : Nat :=
  if page < 5 then ((List.range 7).map fun i => min 0xFFFFFFFF (s.lifeValue page i) * 2 ^ (32 * i)).foldl (· + ·) 0
  else ((List.range 9).map fun i => min 0xFFFFFF (s.lifeValue page i) * 2 ^ (24 * i)).foldl (· + ·) 0

/-- LIFE_PERIODIC: 600 s of powered time have passed. -/
def execLifePeriodic (t : Nat) (s : State) : Host.Outcome State Fault Refusal :=
  let s := s.at t
  if s.awake ∧ s.life.dueAt ≤ s.dial then
    let s := s.account
    let s := s.lifeAppend 1 s.life.page (s.lifePage s.life.page)
    .next (s.setLife { s.life with page := (s.life.page + 1) % 49, dueAt := s.life.dueAt + 600 * ticksPerSec })
  else .next s

/-! ### Reading the log (R476) -/

def State.lifeRd (s : State) : State :=
  if lifeSlots ≤ s.rd R.lifeCtl_life_back then s.wr R.lifeCtl_result rRANGE
  else if s.life.reading.isSome then s.wr R.lifeCtl_result rBUSY
  else ((s.setLife { s.life with reading := some (s.rd R.lifeCtl_life_back) }).wr R.lifeCtl_life_ready 0).wr R.lifeCtl_result rOK

def execLifeRd (t : Nat) (s : State) : Host.Outcome State Fault Refusal :=
  let s := s.at t
  if s.awake then .next (s.hostCmd 0x70200 fun s => s.lifeRd) else .next s

/-- A record passes its check word. -/
def State.lifeValid (s : State) (slot : Nat) : Bool :=
  decide (s.flashNat (lifeAddr slot + 60) 4 = crc32c (s.flashBytes (lifeAddr slot) 60))

/-- LIFE_RD_DONE: the record is in LIFE_REC_0 to LIFE_REC_15. -/
def execLifeRdDone (t : Nat) (s : State) : Host.Outcome State Fault Refusal :=
  let s := s.at t
  match s.life.reading with
  | none => .next s
  | some back =>
    let slot := (s.life.slot.getD 0 + lifeSlots - back) % lifeSlots
    let s := (List.range 16).foldl (fun s w => s.wr (R.lifeRec_rec w) (s.flashNat (lifeAddr slot + 4 * w) 4)) s
    .next (((s.setLife { s.life with reading := none }).wr R.lifeCtl_life_ready 1).wr R.lifeCtl_life_ok
      (if s.lifeValid slot then 1 else 0))

/-! ### The log at boot (R472, R475) -/

/-- The slots that hold some byte of the flash. -/
def State.lifeUsed (s : State) : List Nat :=
  ((s.flash.filter fun e => decide (lifeBase ≤ e.1 ∧ e.1 < lifeBase + 64 * lifeSlots)).map fun e => (e.1 - lifeBase) / 64).eraseDups

/-- The valid records: `lseq` and slot. -/
def State.lifeRecs (s : State) : List (Nat × Nat) :=
  (s.lifeUsed.filter s.lifeValid).map fun k => (s.flashNat (lifeAddr k) 4, k)

def newest : List (Nat × Nat) → Option (Nat × Nat)
  | [] => none
  | r :: rs =>
    match newest rs with
    | none => some r
    | some q => if q.1 < r.1 then some r else some q

/-- The counters of a page as its newest record holds them, in the model's units. -/
def State.restorePage (s : State) (rs : List (Nat × Nat)) (page : Nat) : State :=
  let mine := rs.filter fun r => decide (s.flashNat (lifeAddr r.2 + 4) 1 = 1) && decide (s.flashNat (lifeAddr r.2 + 5) 1 = page)
  match newest mine with
  | none => s
  | some r =>
    let w := if page < 5 then 4 else 3
    (List.range (if page < 5 then 7 else 9)).foldl
      (fun s i =>
        let v := s.flashNat (lifeAddr r.2 + 32 + w * i) w
        if page = 4 ∧ i = 5 then s.setLife { s.life with avBase := v * ticksPerSec }
        else if page = 4 ∧ i = 6 then s.setLife { s.life with avOut := v * ticksPerMs }
        else s.setLife { s.life with ctrs := SMap.set 0 s.life.ctrs (16 * page + i) (if page ≤ 1 ∨ 5 ≤ page then v * 60000 else v) }) s

/-- The head and the lifetime counts are found in the flash. -/
def State.lifeBoot (s : State) : State :=
  let rs := s.lifeRecs
  match newest rs with
  | none => s.setLife { LifeSt.init with seen := s.dial, dueAt := s.dial + 600 * ticksPerSec }
  | some h =>
    let a := lifeAddr h.2
    let lastPage := newest (rs.filter fun r => decide (s.flashNat (lifeAddr r.2 + 4) 1 = 1))
    let s := s.setLife
      { LifeSt.init with
        slot := some h.2, label := s.flashNat (a + 8) 6, seen := s.dial, dueAt := s.dial + 600 * ticksPerSec,
        page := match lastPage with | some r => (s.flashNat (lifeAddr r.2 + 5) 1 + 1) % 49 | none => 0,
        pwr := s.flashNat (a + 16) 4 * (60 * ticksPerSec), slp := s.flashNat (a + 20) 4 * (60 * ticksPerSec),
        cycles := s.flashNat (a + 24) 4, rej := s.flashNat (a + 28) 4 }
    ((List.range 49).foldl (fun s p => s.restorePage rs p) s).wr R.lifeHead_lseq_head h.1

/-- Rows named by repair records newer than the latest boot record: each is made permanent while HBM trains (R475). -/
def State.pendingRepairs (s : State) : Nat :=
  let rs := s.lifeRecs
  let boot := newest (rs.filter fun r => decide (s.flashNat (lifeAddr r.2 + 4) 1 = 3))
  (((rs.filter fun r =>
    decide (s.flashNat (lifeAddr r.2 + 4) 1 = 2) && (match boot with | some b => decide (b.1 < r.1) | none => true)).map
      fun r => s.flashNat (lifeAddr r.2 + 32) 28).eraseDups).length

/-- The boot record (R475). -/
def State.bootRecord (s : State) : State :=
  let s := s.lifeAdd 2 4 s.pendingRepairs
  let s := s.setLife { s.life with cycles := s.life.cycles + 1 }
  s.lifeAppend 3 0
    (Config.bootPayload (s.rd R.secBoot_boot_slot)
      (if s.rd R.secBoot_boot_slot = 0 then s.rd R.secSeqA_seq_a else s.rd R.secSeqB_seq_b) (s.rd R.calStatus_copy)
      (s.rd R.secBoot_boot_sel) s.svc.lastCause % 2 ^ 224)

end Sys2Proof.Machine
end

