-- ==== Sys2Proof/Machine/CalTable.lean ====
section
/-! DEFINITION. The calibration table: what a value is, how a measurement sets it, how ramps move it, and the fields derived
from it (R460 to R469). -/

namespace Sys2Proof.Machine

def State.setCal (s : State) (x : CalSt) : State := { s with cal := x }

/-- A value of the table as a number: an entry of `lut` words and a monitor gain are unsigned (R462). -/
def calNum (x v : Nat) : Int :=
  if 0xE00 ≤ x ∧ x < 0xE80 then v else if 0xE80 ≤ x ∧ x < 0xEA8 ∧ x % 2 = 1 then (v % 2 ^ 24 : Nat) else signed 24 v

def calCode (x : Nat) (v : Int) : Nat := if 0xE00 ≤ x ∧ x < 0xE80 then unsigned 32 v else unsigned 24 v

def State.applied (s : State) (x : Nat) : Int := calNum x (s.rd (R.calApplied_applied x))

/-! ### Fields derived at the basic level (R464) -/

/-- `frac` of OUTk from a skew: −skew / 4, ties to even, within ±32. -/
def fracOf (skew : Int) : Int :=
  let v := crnd (-skew) 2
  if v < -32 then -32 else if 32 < v then 32 else v

/-- `mk_trim` from the applied skew. -/
def State.deriveMark (s : State) (n : Nat) : State :=
  if s.rd (R.markCtl_level n) = 1 then s
  else
    let v := crnd (-(s.applied (0xF00 + n))) 4
    let v := if v < -32 then -32 else if 31 < v then 31 else v
    s.both (R.markCtl_mk_trim n) (unsigned 6 v)

def State.setFrac (s : State) (k : Nat) : State :=
  if s.rd R.timeCtl_level = 1 then s else s.both (R.timeFrac_frac k) (unsigned 7 (fracOf (s.applied (8 * k + 6))))

/-- The fields that one index governs. -/
def State.calDerive (s : State) (x : Nat) : State :=
  if x < 0x400 then (if x % 8 = 6 then s.setFrac (x / 8) else s)
  else if x < 0xE00 then s
  else if x < 0xE80 then
    if s.rd R.stpCtl_level = 1 then s
    else s.both (R.stpLut_lut ((x - 0xE00) / 4) (x % 4)) (s.rd (R.calApplied_applied x))
  else if x < 0xEA8 then
    let m := (x - 0xE80) / 8
    let p := x % 8 / 2
    if s.rd R.monCtl_level = 1 then s
    else if x % 2 = 0 then s.both (R.monCoff_cal_off m p) (s.rd (R.calApplied_applied x))
    else s.both (R.monCgain_cal_gain m p) (s.rd (R.calApplied_applied x))
  else if 0xF00 ≤ x then s.deriveMark (x - 0xF00)
  else s

/-! ### Setting values (R463, R468, R469) -/

def dropRamp (x : Nat) (l : List (Nat × Ramp)) : List (Nat × Ramp) := l.filter fun e => decide (e.1 ≠ x)

/-- The applied value changes, with the fields it governs. -/
def State.calSet (s : State) (x : Nat) (v : Int) : State := (s.wr (R.calApplied_applied x) (calCode x v)).calDerive x

/-- Target and applied value at once; a ramp of the index ends. -/
def State.calApply (s : State) (x : Nat) (v : Int) : State :=
  let s := s.setCal { s.cal with ramps := dropRamp x s.cal.ramps }
  (s.wr (R.calTarget_target x) (calCode x v)).calSet x v

/-- The step limit of an index; none for a value applied at once (R460). The manual gives image amplitude no limit of its
own (log 13). -/
def calStep (x : Nat) : Option Nat :=
  if x < 0x400 then
    (if x % 8 = 0 ∨ x % 8 = 4 ∨ x % 8 = 5 then some 1677 else if x % 8 = 1 then some 16
      else if x % 8 = 2 then some Config.imageStep else if x % 8 = 3 then some 256 else some 4)
  else if x < 0xC00 then
    let o := (x - 0x400) % 32
    if o = 24 then some 4 else if o % 3 = 0 then some 16 else if o % 3 = 1 then some 1677 else some 128
  else if x < 0xE00 then (if x % 2 = 0 then some 16 else some 168)
  else if 0xF00 ≤ x then some 16
  else none

/-- The Comb that owns an index with a step limit (R468). -/
def calComb (x : Nat) : Nat :=
  if x < 0x400 then x / 16 else if x < 0xC00 then (x - 0x400) / 32 else if x < 0xE00 then (x - 0xC00) / 8 else x - 0xF00

/-- The output that owns an index has been held since power-up or since leaving Green (R469). -/
def State.calHeld (s : State) (x : Nat) : Bool :=
  if x < 0x400 then (s.rd (muteWhy (x / 8))).testBit 0 || (s.rd (muteWhy (x / 8))).testBit 2
  else if 0xC00 ≤ x ∧ x < 0xE00 then
    let o := SMap.get BiasSt.init s.bias ((x - 0xC00) / 2)
    (o.zero.testBit 0 && !o.ready.testBit 0) || (o.zero.testBit 1 && !o.ready.testBit 1)
  else if 0xF00 ≤ x then
    let m := SMap.get MarkSt.init s.mkrs (x - 0xF00)
    m.low.testBit 0 || m.low.testBit 1
  else false

/-! ### Ramps (R468) -/

def State.rampsOf (s : State) (n : Nat) : List (Nat × Ramp) := s.cal.ramps.filter fun e => decide (calComb e.1 = n)

/-- The value after the next step. -/
def Ramp.next (r : Ramp) : Int := r.a0 + (r.t - r.a0) * ((r.i + 1 : Nat) : Int) / (r.n : Int)

/-- One step of one ramp. -/
def State.rampStep (s : State) (e : Nat × Ramp) : State :=
  let rest := s.cal.ramps.filter fun y => decide (y.1 ≠ e.1)
  let s := s.setCal { s.cal with ramps := if e.2.i + 1 < e.2.n then rest ++ [(e.1, { e.2 with i := e.2.i + 1 })] else rest }
  s.calSet e.1 e.2.next

/-- `frac` of OUTk as the boundary would leave it (R87). -/
def State.fracNext (s : State) (k : Nat) : Nat :=
  let skew := match s.cal.ramps.find? fun e => decide (e.1 = 8 * k + 6) with | some e => e.2.next | none => s.applied (8 * k + 6)
  unsigned 7 (fracOf skew)

/-- The boundary changes `frac` of a port of Comb n. -/
def State.fracDue (s : State) (n : Nat) : Bool :=
  decide (s.rd R.timeCtl_level = 0) &&
    (List.range 2).any fun p => decide (s.fracNext (2 * n + p) ≠ s.ard (R.timeFrac_frac (2 * n + p)))

/-- Comb n has calibration changes that wait for a boundary. -/
def State.calPending (s : State) (n : Nat) : Bool := !(s.rampsOf n).isEmpty || s.fracDue n

/-- Calibration changes of Comb n are asked for now, unless some wait already (R84). -/
def State.askCal (s : State) (n : Nat) (pend : Bool) : State :=
  if pend = false ∧ s.calPending n then s.setSeq n { s.seq n with calReq := s.dial } else s

/-- An accepted measurement sets the target; what has a step limit goes there by a ramp. -/
def State.calMeasured (s : State) (x : Nat) (v : Int) : State :=
  let pend := s.calPending (calComb x)
  match calStep x with
  | none => s.calApply x v
  | some lim =>
    if s.calHeld x ∨ s.cal.boot then s.calApply x v
    else
      let s := s.wr (R.calTarget_target x) (calCode x v)
      let a := s.applied x
      let d := (v - a).natAbs
      let n := max 1 (ceilDiv d lim)
      let rest := dropRamp x s.cal.ramps
      if d = 0 then s.setCal { s.cal with ramps := rest }
      else
        let s := s.setCal { s.cal with ramps := rest ++ [(x, ⟨a, v, n, 0⟩)] }
        let s := s.askCal (calComb x) pend
        if 256 < n then (s.setF R.calStatus_cal_long).fireD 94 else s

/-- All calibration steps due for Comb n. -/
def State.calSteps (s : State) (n : Nat) : State :=
  let s := (s.rampsOf n).foldl (fun s e => s.rampStep e) s
  (List.range 2).foldl (fun s p => s.setFrac (2 * n + p)) s

/-- A list without a key. -/
def dropKey {α : Type} (k : Nat) (l : List (Nat × α)) : List (Nat × α) := l.filter fun e => decide (e.1 ≠ k)

/-! ### Items and pairs (R460, R461, R467) -/

/-- The items: 0 + k OUT, 128 + i IN, 192 + b BIAS, 448 + n MARK, 512 + s STAMP, 544 the monitor, 545 + p Elvent. -/
def itemFirst (item : Nat) : Nat :=
  if item < 128 then 8 * item
  else if item < 192 then 0x400 + 32 * (item - 128)
  else if item < 448 then 0xC00 + 2 * (item - 192)
  else if item < 512 then 0xF00 + (item - 448)
  else if item < 544 then 0xE00 + 4 * (item - 512)
  else if item = 544 then 0xE80
  else 0xEC0 + 2 * (item - 545)

/-- Quantities of an item; of a STAMP the sixteen entries of its `lut`. -/
def itemCount (item : Nat) : Nat :=
  if item < 128 then 7 else if item < 192 then 25 else if item < 448 then 2 else if item < 512 then 1 else if item < 544 then 16 else 2

/-- The pair tolerance of quantity j. -/
def pairTol (item j : Nat) : Nat :=
  if item < 128 then
    (if j = 0 ∨ j = 4 ∨ j = 5 then 335 else if j = 1 then 8 else if j = 2 then Config.imageTol else if j = 3 then 128 else 2)
  else if item < 192 then (if j = 24 then 2 else if j % 3 = 0 then 8 else if j % 3 = 1 then 335 else 64)
  else if item < 448 then (if j = 0 then 4 else 168)
  else 2

/-- An amplitude quantity: it traces to REF_V. -/
def isAmplitude (item j : Nat) : Bool :=
  if item < 128 then decide (j ≠ 6)
  else if item < 192 then decide (j ≠ 24 ∧ j % 3 ≠ 2)
  else decide (item < 448)

/-- What is measured of an item: everything, or timing alone where the check of REF_V failed. -/
def State.measured (s : State) (item : Nat) : List Nat :=
  (List.range (itemCount item)).filter fun j => !(s.thm.refFail && isAmplitude item j)

def pairAgrees (item : Nat) (js : List Nat) (a b : List Int) : Bool :=
  js.all fun j => decide ((a.getD j 0 - b.getD j 0).natAbs ≤ pairTol item j)

/-- The mean of a pair, rounded to even. -/
def pairMean (a b : List Int) (j : Nat) : Int := crnd (a.getD j 0 + b.getD j 0) 1

/-- Four entries of a `lut` as a word of the table. -/
def packLut (l : List Nat) (w : Nat) : Nat :=
  l.getD (4 * w) 0 + 256 * l.getD (4 * w + 1) 0 + 65536 * l.getD (4 * w + 2) 0 + 16777216 * l.getD (4 * w + 3) 0

/-- An agreeing pair sets the targets of an item. -/
def State.acceptPair (s : State) (item : Nat) (a b : List Int) : State :=
  if 512 ≤ item ∧ item < 544 then
    let l := (List.range 16).map fun j => unsigned 8 (pairMean a b j)
    (List.range 4).foldl (fun s w => s.calApply (itemFirst item + w) (packLut l w)) s
  else (s.measured item).foldl (fun s j => s.calMeasured (itemFirst item + j) (pairMean a b j)) s

/-- A fourth pair disagrees: the old values stay. -/
def State.calDisagree (s : State) (idx : Nat) : State :=
  let s := (s.setF R.calStatus_cal_disagree).incSat R.calCount_dis_count
  ((s.wr R.calBad_bad_idx idx).lifeAdd 4 3 1).fireD 94

/-- Pairs of an item one after the other: the first that agrees counts, a fourth that disagrees ends the measurement. -/
def State.measurePairs (s : State) (item : Nat) : Nat → List (List Int × List Int) → State
  | _, [] => s
  | bad, p :: ps =>
    if pairAgrees item (s.measured item) p.1 p.2 then s.acceptPair item p.1 p.2
    else if bad < 3 then s.measurePairs item (bad + 1) ps
    else s.calDisagree (itemFirst item)

/-! ### The end of a pass (R466) -/

/-- A pass ends when every item has been measured or skipped. -/
def State.endPass (s : State) : State :=
  let s := ((s.wr R.calStatus_pass_busy 0).incSat R.calCount_pass_count).lifeAdd 4 2 1
  (s.setCal { s.cal with boot := false }).fireD 94

/-- An item of the pass is measured or skipped. -/
def State.itemDone (s : State) (item : Nat) : State :=
  if s.cal.left.contains item then
    let s := s.setCal { s.cal with left := s.cal.left.filter (· ≠ item), bad := dropKey item s.cal.bad, since := dropKey item s.cal.since }
    if s.cal.left = [] then s.endPass else s
  else s

end Sys2Proof.Machine
end

