-- ==== Sys2Proof/Machine/Far.lean ====
section
/-! DEFINITION. Elvent ports as the memory reads through them: memory packets, far-store spans, reads over STORE ports
(R364, R365, R379). -/

namespace Sys2Proof.Machine

def State.port (s : State) (p : Nat) : PortSt := SMap.get PortSt.init s.ports p
def State.setPort (s : State) (p : Nat) (x : PortSt) : State := { s with ports := SMap.set PortSt.init s.ports p x }

/-- ACTIVE or DEGRADED. -/
def State.portUp (s : State) (p : Nat) : Bool := decide (5 ≤ s.rd (R.elvStatus_state p))

def State.role (s : State) (p : Nat) : Nat := s.ard (R.elvCtl_role p)

/-- A NEIGHBOUR port in ACTIVE or DEGRADED. -/
def State.neighbourUp (s : State) (p : Nat) : Bool := s.portUp p && decide (s.role p = 0)

/-! ### Memory packets (R378, R379) -/

/-- The header of a memory packet. -/
def memHdr (ptype plen tag chunk bad : Nat) : Nat := ptype + plen * 2 ^ 4 + tag * 2 ^ 8 + chunk % 2 ^ 38 * 2 ^ 20 + bad * 2 ^ 58

def cplHdr (tag code : Nat) : Nat := 0xA + tag * 2 ^ 8 + code * 2 ^ 20

/-- Memory packets leave in the order queued. -/
def State.queueMem (s : State) (p : Nat) (x : Pkt) : State := s.setPort p { s.port p with memq := (s.port p).memq ++ [x] }

def State.queueCpl (s : State) (p tag code : Nat) : State :=
  s.setPort p { s.port p with cplq := (s.port p).cplq ++ [⟨cplHdr tag code, [], 0⟩] }

/-- A chunk as its four words, byte 0 in bits [7:0] of the first. -/
def chunkWords (v : Nat) : List Nat := [v % 2 ^ 64, v / 2 ^ 64 % 2 ^ 64, v / 2 ^ 128 % 2 ^ 64, v / 2 ^ 192 % 2 ^ 64]

def wordsChunk (ws : List Nat) : Nat :=
  ws.getD 0 0 % 2 ^ 64 + ws.getD 1 0 % 2 ^ 64 * 2 ^ 64 + ws.getD 2 0 % 2 ^ 64 * 2 ^ 128 + ws.getD 3 0 % 2 ^ 64 * 2 ^ 192

/-! ### Far store (R348, R364) -/

/-- The first chunk of the far-store window, and the chunk after it. -/
def farBase : Nat := 2 ^ 37
def farEnd : Nat := 2 ^ 38

/-- The STORE port that serves a chunk of the window: the lower number where two spans hold it. -/
def State.spanPort (s : State) (chunk : Nat) : Option Nat :=
  (List.range 8).find? fun p =>
    decide (s.role p = 2) && decide (s.ard (R.memFs_fs_en p) = 1) &&
      decide (s.ard (R.memFs_fs_base p) * 2 ^ 25 ≤ chunk - farBase) &&
      decide (chunk - farBase < (s.ard (R.memFs_fs_base p) + s.ard (R.memFs_fs_size p)) * 2 ^ 25)

/-- The smallest tag that no request over the port has. -/
def State.freeTag (s : State) (p : Nat) : Option Nat :=
  (List.range 4096).find? fun k => !s.far.any fun r => decide (r.port = p ∧ r.tag = k)

/-- The port that a chunk can be reached over now. -/
def State.farPort (s : State) (chunk : Nat) : Option Nat :=
  match s.spanPort chunk with
  | some p => if s.portUp p then some p else none
  | none => none

/-- `cnt` chunks from one on that lie in one span, and the rest. -/
def State.spanRun (s : State) (p : Option Nat) (chunk : Nat) : Nat → Nat
  | 0 => 0
  | k + 1 => if s.farPort chunk = p then 1 + State.spanRun s p (chunk + 1) k else 0

/-- A far-store request: its read or write goes out over the port. -/
def State.farIssue (s : State) (p : Nat) (pkt : Nat → Pkt) (r : FarRead) : State :=
  match s.freeTag p with
  | none => s
  | some tag => ({ s with far := s.far ++ [{ r with port := p, tag := tag }] }).queueMem p (pkt tag)

def farReadPkt (chunk count tag : Nat) : Pkt := ⟨memHdr 7 1 tag chunk 0, [count], 0⟩

/-- FS_ERR with its event (R365). -/
def State.fsErr (s : State) : State := (s.setF R.memStatus_fs_err).fireD 92

/-- Reads of `count` chunks for a Cell's refill, span by span; true when some chunk cannot be asked for. -/
def State.farAsk (s : State) (cell : Nat × Nat × Nat) : Nat → Nat → Nat → Bool × State
  | 0, _, _ => (false, s)
  | _ + 1, _, 0 => (false, s)
  | fuel + 1, chunk, count =>
    match s.farPort chunk with
    | none => (true, s)
    | some p =>
      let k := s.spanRun (some p) chunk count
      let s := s.farIssue p (farReadPkt chunk k)
        { port := p, tag := 0, chunk := chunk, count := k, at' := s.dial, cell := some cell, host := none, write := false, got := [],
          rest := 0, bad := false, code := none }
      State.farAsk s cell fuel (chunk + k) (count - k)

/-- First byte of sample k of a far-store envelope, from the base of memory (R114). -/
def farByte (envAddr k : Nat) : Nat := 2 ^ 42 + 5 * (envAddr + k)

/-- Room in the ring for samples past the head: `cap` of them, those before sample `now` free again. -/
def refillRoom (cap now : Nat) : Nat := cap + (now - 256)

/-- The Cell asks far store for refills of 64 samples while its ring has room (R359, R364, R365). -/
def State.askRefills (s : State) (g b0 envAddr len cap : Nat) : Nat → State
  | 0 => s
  | fuel + 1 =>
    let x := SMap.get CellSt.init s.cells g
    let now := (s.dial - b0) / 16
    if x.farDead ∨ len ≤ 256 + x.asked ∨ refillRoom cap now < x.asked + 64 then s
    else
      let k := 256 + x.asked
      let cnt := min 64 (len - k)
      let a := farByte envAddr k
      let c0 := a / 32
      let c1 := (a + 5 * cnt - 1) / 32
      let r := s.farAsk (g, b0, k) 16 c0 (c1 + 1 - c0)
      let s := r.2
      if r.1 then (s.setCell g { s.cell g with farDead := true }).fsErr
      else State.askRefills (s.setCell g { s.cell g with asked := x.asked + cnt }) g b0 envAddr len cap fuel

end Sys2Proof.Machine
end

