-- ==== Sys2Proof/Machine/SeqCore.lean ====
section
/-! DEFINITION. What other families ask of a sequencer: interrupts, halts, faults, the end of a shot (R81, R159 to R163). -/

namespace Sys2Proof.Machine

/-- The word at an address of a micro store; none where nothing is loaded (R171). -/
def State.microWord (s : State) (n a : Nat) : Option Mem1 := (s.micro.find? fun e => decide (e.1 = n * 32768 + a)).map (·.2)

def editShot (k : Nat) (f : Shot → Shot) (l : List Shot) : List Shot := l.map fun x => if x.num = k then f x else x

/-- SHOT end fires when the Dial reaches E (R426); while E still moves, so does the event. -/
def State.tellShot (s : State) (n : Nat) (x : Shot) : State :=
  let e := (s.shotE n x).map fun e => max e s.dial
  match x.told with
  | none =>
    (match e with
      | none => s
      | some e => (s.setSeq n { s.seq n with shots := editShot x.num (fun y => { y with told := some e }) (s.seq n).shots }).fireSAt e n 1)
  | some a =>
    if a ≤ s.dial ∨ e = some a then s
    else
      let s := (s.unfireS a n 1).setSeq n { s.seq n with shots := editShot x.num (fun y => { y with told := e }) (s.seq n).shots }
      match e with
      | none => s
      | some e => s.fireSAt e n 1

def State.tellShots (s : State) (n : Nat) : State := (s.seq n).shots.foldl (fun s x => s.tellShot n x) s

/-- The open shot closes at the present Dial value: by an abort or a fault (R165, R528). -/
def State.closeShot (s : State) (n : Nat) : State :=
  if s.rd (R.seqStatus_in_shot n) = 1 then
    match (s.seq n).shots with
    | [] => s.wr (R.seqStatus_in_shot n) 0
    | x :: xs => ((s.setSeq n { s.seq n with shots := { x with endA := some s.dial } :: xs }).wr (R.seqStatus_in_shot n) 0).tellShots n
  else s

/-- `run` while the sequencer steps: in a handler, or not. -/
def State.runStep (s : State) (n : Nat) : State := s.wr (R.seqStatus_run n) (if (s.seq n).handler.isSome then 3 else 1)

/-- A step begins to wait: `run` reads waiting, and in a handler it goes on reading HANDLER (DEDUCED, log 23). -/
def State.setWait (s : State) (n : Nat) (w : Wait) : State :=
  (s.setSeq n { s.seq n with wait := w }).wr (R.seqStatus_run n) (if (s.seq n).handler.isSome then 3 else 2)

def State.endWait (s : State) (n : Nat) : State := (s.setSeq n { s.seq n with wait := .none }).runStep n

/-- ABORT halts the sequencer at its safe point (R161). -/
def State.takeAbortInt (s : State) (n why : Nat) : State :=
  let s := s.closeShot n
  let s := s.setSeq n { s.seq n with wait := .none, abort := none }
  ((s.wr (R.seqStatus_run n) 0).wr (R.seqStatus_halt_why n) why).fireS n 2

/-- The pending source that may be taken: enabled, its vector valid, no handler running (R160, R161). -/
def State.pickInt (s : State) (n : Nat) : Option Nat :=
  if (s.seq n).handler.isSome then none
  else
    (List.range 3).find? fun i =>
      (s.rd (R.seqStatus_ipend n)).testBit i && (s.rd (R.seqCtl_ien n)).testBit i && decide (s.ard (R.seqIvec_vec_valid n i) = 1)

/-- A source 2 to 4 is taken: link, handler depth, vector (R161). -/
def State.enterHandler (s : State) (n i : Nat) : State :=
  let q := s.seq n
  let s := s.clrBit (R.seqStatus_ipend n) i
  let s := s.setSeq n { q with wait := .none, handler := some (s.rd (R.seqPc_pc n), q.depth) }
  (s.wr (R.seqStatus_run n) 3).wr (R.seqPc_pc n) (s.ard (R.seqIvec_vec n i))

/-- Step 3 of R159 at a safe point: the interrupt taken, if there is one. -/
def State.takeSafe (s : State) (n : Nat) : Option State :=
  match (s.seq n).abort with
  | some why => some (s.takeAbortInt n why)
  | none => (s.pickInt n).map fun i => s.enterHandler n i

/-- A step with SAFE = 1 waits in a WAITT, a SYNC or a verdict branch (R162). -/
def State.waitsSafe (s : State) (n : Nat) : Bool :=
  (match (s.seq n).wait with
    | .waitt .. => true
    | .sync _ _ _ => true
    | .verdict .. => true
    | _ => false) &&
  (match s.microWord n (s.rd (R.seqPc_pc n)) with
    | some w => w.data.testBit 21
    | none => false)

/-- Interrupts that reach a waiting safe step are taken at once (R162). -/
def State.interruptWait (s : State) (n : Nat) : State := if s.waitsSafe n then (s.takeSafe n).getD s else s

/-- ABORT is raised, with the `halt_why` it will leave (R160, R161). -/
def State.raiseAbort (s : State) (n why : Nat) : State :=
  if s.halted n then s else (s.setSeq n { s.seq n with abort := some why }).interruptWait n

/-- Source 2 to 4 of R160 becomes pending; a repeat merges: 0 SHOT_ABORT, 1 THROTTLE, 2 TXN. -/
def State.raiseInt (s : State) (n i : Nat) : State := (s.setBit (R.seqStatus_ipend n) i).interruptWait n

/-- A fault is detected: the response is SEQUENCER_FAULT's (R163, R165). -/
def State.raiseFault (s : State) (n code pc : Nat) (shot : Option Nat) : State :=
  (s.setSeq n { s.seq n with faults := (s.seq n).faults ++ [⟨code, pc, shot⟩] }).fireS n 3

/-- A change made since the safe point goes into the journal (R164). -/
def State.journalize (s : State) (n : Nat) (e : JEntry) : State :=
  s.setSeq n { s.seq n with journal := e :: (s.seq n).journal }

/-- An item that a step after the present safe point issued. -/
def State.sinceSafe (s : State) (n : Nat) (i : Issue) : Bool := decide (i.sp = (s.seq n).sp)

end Sys2Proof.Machine
end

