-- ==== Sys2Proof/Machine/Sine.lean ====
section
/-! DEFINITION. The sine and cosine tables (R93): 20-bit codes within one LSB of the true value. -/

namespace Sys2Proof.Machine

/-- π in units of 2^-64. -/
def piFix : Nat := 57952155664616982739

/-- `n` terms of 1 − x²/(d(d+1))·(1 − x²/((d+2)(d+3))·(…)) in units of 2^-64: the cosine of x for d = 1, the sine over x for
d = 2. -/
def turnSeries (x2 : Nat) : Nat → Nat → Nat
  | _, 0 => 2 ^ 64
  | d, n + 1 => 2 ^ 64 - x2 * turnSeries x2 (d + 2) n / 2 ^ 64 / (d * (d + 1))

/-- The cosine of `b` units of 2^-20 turn, in units of 2^-64, for b up to a quarter turn. -/
def cosFix (b : Nat) : Nat :=
  if b ≤ 2 ^ 17 then
    let x := piFix * b / 2 ^ 19
    turnSeries (x * x / 2 ^ 64) 1 10
  else
    let x := piFix * (2 ^ 18 - b) / 2 ^ 19
    x * turnSeries (x * x / 2 ^ 64) 2 10 / 2 ^ 64

/-- 2^19 times the cosine of `r` units of 2^-20 turn, rounded down. -/
def cosFloor (r : Nat) : Int :=
  let q := r % 2 ^ 20
  let a := if 2 ^ 19 < q then 2 ^ 20 - q else q
  if a = 0 then 2 ^ 19
  else if a = 2 ^ 18 then 0
  else if a = 2 ^ 19 then -2 ^ 19
  else if a < 2 ^ 18 then (cosFix a / 2 ^ 45 : Nat)
  else -((cosFix (2 ^ 19 - a) / 2 ^ 45 : Nat) : Int) - 1

/-- A table entry within one LSB of the true value: which one is left open by the manual, so `pick` chooses it (R93, log 3). -/
def nearCos (pick r : Nat) : Int :=
  satw 20 (if r % 2 ^ 18 = 0 then cosFloor r + (pick % 3 : Nat) - 1 else cosFloor r + (pick % 2 : Nat))

def cosCode (φ : Nat) : Int := nearCos (Config.cosPick (φ % 2 ^ 20)) φ

def sinCode (φ : Nat) : Int := nearCos (Config.sinPick (φ % 2 ^ 20)) (φ + 3 * 2 ^ 18)

end Sys2Proof.Machine
end

