-- ==== Sys2Proof/Machine/Cells.lean ====
section
/-! DEFINITION. Cells: descriptors, phase, samples and the port sum, pulses and segments, jumps, frame actions, the bank
port (R92 to R128, R526). -/

namespace Sys2Proof.Machine

/-! ### Descriptors (R106, R107) -/

def decodeDesc (w : Nat) : Desc :=
  { envAddr := bits w 39 0, envSrc := bits w 41 40, interp := bits w 43 42, length := bits w 71 48, loops := bits w 87 72,
    loopInf := w.testBit 88, link := w.testBit 89, jmpOk := w.testBit 90, next := bits w 117 96, jnext := bits w 149 128,
    constI := bits w 179 160, constQ := bits w 199 180, headAddr := bits w 215 200,
    zeroOk := decide (bits w 47 44 = 0 ∧ bits w 95 91 = 0 ∧ bits w 127 118 = 0 ∧ bits w 159 150 = 0 ∧ bits w 255 216 = 0) }

/-- The descriptor as the Comb reads it: its cached copy, else the table in region 0 (R360). -/
def State.descWord (s : State) (n i : Nat) : Nat :=
  match s.descs.find? fun e => decide (e.1 = n * 2 ^ 22 + i) with
  | some e => e.2
  | none => s.hbmNat (s.rgnStart 0 + 32 * i) 32

def State.descCached (s : State) (n i : Nat) : Bool := s.descs.any fun e => e.1 = n * 2 ^ 22 + i

/-- A read of the table meets an uncorrectable error (R352). -/
def State.descPoison (s : State) (n i : Nat) : Bool :=
  let chunk := (s.rgnStart 0 + 32 * i) / 32
  !s.descCached n i && (s.poisoned chunk || decide (1 < s.errorsOf chunk))

def State.desc (s : State) (n i : Nat) : Desc := decodeDesc (s.descWord n i)

/-- The samples run past the end of their source (R107, R113, R114, R348). -/
def State.pastSource (s : State) (d : Desc) : Bool :=
  if d.envSrc = 0 then decide (65536 < d.envAddr + d.length)
  else if d.envSrc = 1 then decide (s.rgnBytes 4 * 8 < 40 * (d.envAddr + d.length))
  else if d.envSrc = 2 then decide (2 ^ 45 < 40 * (d.envAddr + d.length))
  else false

/-- Out of range (R107), on Cell c of Comb n. -/
def State.descBad (s : State) (n c : Nat) (d : Desc) : Bool :=
  decide (d.length = 0) || decide (d.interp = 3) || !d.zeroOk || s.pastSource d ||
    (decide (d.envSrc = 1 ∨ d.envSrc = 2) && decide (65536 < d.headAddr + 256)) ||
    (decide (d.envSrc = 1) && decide (s.rd (R.cellMode_stream_en n c) = 0))

/-- The check of a descriptor index: out of range, or unreadable (R107, R352). -/
def State.descFails (s : State) (n c i : Nat) : Bool := s.descPoison n i || s.descBad n c (s.desc n i)

/-! ### Descriptor reads in flight (R360, R361) -/

/-- The read of a descriptor that is not cached; one already in flight serves the further Cells too. -/
def State.askDesc (s : State) (n i cells : Nat) (first : Option Nat) (iss : Issue) : State :=
  if s.descCached n i then s
  else if (s.comb n).reads.any fun r => r.idx = i then
    s.setComb n { s.comb n with reads := (s.comb n).reads.map fun r => if r.idx = i then { r with cells := r.cells ||| cells } else r }
  else s.setComb n { s.comb n with reads := (s.comb n).reads ++ [⟨i, cells, first, iss⟩] }

/-- The segment of a read in flight begins at tick b: from now on the read is needed (R361). -/
def State.readFor (s : State) (n i c b : Nat) : State :=
  if (s.comb n).reads.any fun r => r.idx = i then
    s.setComb n
      { s.comb n with reads := (s.comb n).reads.map fun r =>
          if r.idx = i ∧ r.first = none then { r with first := some b, cells := r.cells ||| 2 ^ c } else r }
  else s

/-- A cached descriptor is used: it is now the last to be replaced. -/
def State.useDesc (s : State) (n i : Nat) : State :=
  if s.descCached n i then s.setComb n { s.comb n with used := i :: (s.comb n).used.filter (· ≠ i) } else s

/-! ### Where a run of segments ends, as the descriptors stand (R81, R108, R217) -/

/-- The tick after the last one of a pulse that begins at `t` with descriptor `i`; none when it has no end, or when
`fuel` segments do not reach it. -/
def State.runEnd (s : State) (n c : Nat) : Nat → Nat → Nat → Option Nat
  | 0, _, _ => none
  | fuel + 1, i, t =>
    let d := s.desc n i
    if s.descFails n c i then some t
    else if d.loopInf then none
    else
      let t' := t + 16 * d.length * (d.loops + 1)
      if d.link then State.runEnd s n c fuel d.next t' else some t'

/-- Segments a walk follows before it counts as endless: more than the manual's tables make a chain of without a cycle. -/
def walkFuel : Nat := 4096

/-! ### Phase (R95 to R99) -/

def coherent (s : State) (n c : Nat) : Bool := decide (s.ard (R.cellMode_fmode n c) = 0)

/-- The increment of the active bank entry (R96). -/
def State.incr (s : State) (n c : Nat) : Nat :=
  SMap.get 0 s.bankAct ((8 * n + c) * 256 + s.rd (R.cellStatus_bank_sel n c))

/-- acc at tick `t` (R97); CONTINUOUS accumulators start from zero at the first tick after PLL lock (R98). -/
def State.acc (s : State) (n c t : Nat) : Nat :=
  if coherent s n c then s.incr n c * t % 2 ^ 48
  else if (s.cell (8 * n + c)).accTick < s.accBase then s.incr n c * (t - s.accBase) % 2 ^ 48
  else ((s.cell (8 * n + c)).accAt + s.incr n c * (t - (s.cell (8 * n + c)).accTick)) % 2 ^ 48

/-- The accumulator goes on from its value at tick `t` (before a change that keeps acc continuous). -/
def State.anchorAcc (s : State) (n c t : Nat) : State :=
  s.setCell (8 * n + c) { s.cell (8 * n + c) with accAt := s.acc n c t, accTick := t }

/-- φ of R99. -/
def State.phase (s : State) (n c t : Nat) : Nat :=
  (s.acc n c t / 2 ^ 28 + s.rd (R.cellFrame_frame n c) + (s.cell (8 * n + c)).poff) % 2 ^ 20

/-- A new active bank entry from tick `t` (R96, R103). -/
def State.selectBank (s : State) (n c k t : Nat) : State :=
  (s.anchorAcc n c t).wr (R.cellStatus_bank_sel n c) k

/-! ### Envelope samples (R104, R105, R113 to R118) -/

def State.cacheWord (s : State) (n i : Nat) : Mem1 := SMap.get ⟨0, 0⟩ s.cache (n * 65536 + i)

def cplx (w : Nat) : Int × Int := (signed 20 w, signed 20 (w / 2 ^ 20))

/-- The cache index that sample `k` of a play of a segment is read from. -/
def State.envIndex (s : State) (n c : Nat) (d : Desc) (k : Nat) : Nat :=
  if d.envSrc = 0 then d.envAddr + k
  else if k < 256 then d.headAddr + k
  else s.ard (R.cellRing_ring_base n c) + (k - 256) % (64 * s.ard (R.cellRing_ring_len n c))

/-- Sample `k` of a play of a segment; a word with a double-bit error stands for zero (R118). -/
def State.segSample (s : State) (n c : Nat) (d : Desc) (k : Nat) : Int × Int :=
  if d.envSrc = 3 then (signed 20 d.constI, signed 20 d.constQ)
  else
    let w := s.cacheWord n (s.envIndex n c d k)
    if 2 ≤ w.mark then (0, 0) else cplx w.data

/-- The earliest boundary test of a jump request: it came in time for boundary b and asks for none later (R119). -/
def jumpDue (x : CellSt) (b : Nat) : Bool := x.jumps.any fun r => decide (r.tj ≤ b) && decide (r.r + 462 < b)

/-- The port that a Cell's active route names: 0 for OUT2n, 1 for OUT2n+1. -/
def State.routePort (s : State) (n c : Nat) : Option Nat :=
  let r := s.ard (R.cellMode_route n c)
  if r = 1 then some 0 else if r = 2 then some 1 else none

/-- t_e of a speculative span; none while some alternative has no end (R217). -/
def Spec.te (x : Spec) : Option Nat :=
  x.ends.foldl
    (fun acc e =>
      match acc, e.2 with
      | some m, some k => some (max m k)
      | _, _ => none) (some x.ts)

/-- The span holds the twin of port p somewhere in ticks `a` up to `b` (none: without end). -/
def Spec.overlaps (x : Spec) (p a : Nat) (b : Option Nat) : Bool :=
  x.ports.testBit p && (match b with | some b => decide (x.ts < b) | none => true) &&
    (match x.te with | some e => decide (a < e) | none => true)

/-- A speculative span holds the twin of port p at tick t. -/
def State.twinHeld (s : State) (n p t : Nat) : Bool := (s.comb n).specs.any fun x => x.overlaps p t (some (t + 1))

/-- A boundary at tick b of a segment with `jmp_ok` is jumpable (R121, R220). -/
def State.jumpable (s : State) (n c b : Nat) : Bool :=
  match s.routePort n c with
  | none => true
  | some p => (s.cell (8 * n + c)).holds && !s.twinHeld n p b

/-- The sample of the pulse that stands `k` samples after the first one of play `g`: of this play, or of what follows it under
R108 and R119, with `jump` while the pending request may still be served. After the pulse, and in a segment that is out of range,
it is zero (R105, R107). -/
def State.sampleAhead (s : State) (n c : Nat) : Nat → Bool → Seg → Nat → Int × Int
  | 0, _, _, _ => (0, 0)
  | fuel + 1, jump, g, k =>
    if k < g.d.length then s.segSample n c g.d k
    else
      let b := g.b0 + 16 * g.d.length
      let k' := k - g.d.length
      let into := fun (jump : Bool) (i : Nat) =>
        if s.descFails n c i then (0, 0)
        else State.sampleAhead s n c fuel jump { idx := i, d := s.desc n i, b0 := b, left := (s.desc n i).loops, deadAt := none, read := 0, hist := [] } k'
      if jump && g.d.jmpOk && s.jumpable n c b && jumpDue (s.cell (8 * n + c)) b then into false g.d.jnext
      else if g.d.loopInf then State.sampleAhead s n c fuel jump { g with b0 := b } k'
      else if 0 < g.left then State.sampleAhead s n c fuel jump { g with b0 := b, left := g.left - 1 } k'
      else if g.d.link then into jump g.d.next
      else (0, 0)

/-- The sample `i` places before (negative) or after the first one of play `g`, as the interpolator takes it (R105). -/
def State.sampleAt (s : State) (n c : Nat) (g : Seg) (i : Int) : Int × Int :=
  if i < 0 then g.hist.getD (-i - 1).toNat (0, 0) else s.sampleAhead n c 8 true g i.toNat

/-- A SMOOTH tap at a distance of `m` ticks: none beyond the support of R104, the same on both sides. -/
def smoothTapAt (m : Int) : Int := if m.natAbs ≤ 64 then Config.smoothTap m.natAbs else 0

/-- e(t) by the segment's interpolation: exact, then rounded once (R104). -/
def State.env (s : State) (n c : Nat) (g : Seg) (t : Nat) : Int × Int :=
  let k : Int := ((t - g.b0) / 16 : Nat)
  let j : Int := ((t - g.b0) % 16 : Nat)
  if g.d.interp = 0 then s.sampleAt n c g k
  else if g.d.interp = 1 then
    let a := s.sampleAt n c g k
    let b := s.sampleAt n c g (k + 1)
    (crnd (16 * a.1 + (b.1 - a.1) * j) 4, crnd (16 * a.2 + (b.2 - a.2) * j) 4)
  else
    let v := ((List.range 9).map fun i => (smoothTapAt (16 * ((i : Int) - 4) - j), s.sampleAt n c g (k + i - 4))).foldl
      (fun (a : Int × Int) e => (a.1 + e.1 * e.2.1, a.2 + e.1 * e.2.2)) (0, 0)
    (satw 20 (crnd v.1 Config.smoothBits), satw 20 (crnd v.2 Config.smoothBits))

/-- The interpolator's history after a play: its last samples, the nearest first, zero from where it went silent (R105, R117;
DEDUCED, log 61). -/
def State.histAfter (s : State) (n c : Nat) (g : Seg) : List (Int × Int) :=
  let own := ((List.range 4).filter fun i => decide (i < g.d.length)).map fun i =>
    let k := g.d.length - 1 - i
    if (match g.deadAt with | some a => decide (a ≤ g.b0 + 16 * k) | none => false) then (0, 0) else s.segSample n c g.d k
  (own ++ g.hist).take 4

/-- y of R92 at a tick inside the span of the pulse playing, and zero outside (R92, R93; the sums of two products
saturate to 20 bits, log 7). -/
def State.cellSample (s : State) (n c t : Nat) : Int :=
  match (s.cell (8 * n + c)).play with
  | none => 0
  | some (p, g) =>
    if ((s.cell (8 * n + c)).silentFrom ≤ t ∧ t < (s.cell (8 * n + c)).silentTo) ∨ t < g.b0 ∨
        (match p.stop with | some x => decide (x ≤ t) | none => false) = true ∨
        (match g.deadAt with | some x => decide (x ≤ t) | none => false) = true then 0
    else
      let e := s.env n c g t
      let a := signed 20 p.amp
      let er := mul20 e.1 a
      let ei := mul20 e.2 a
      let gi := signed 20 (s.ard (R.cellGainI_gain_i n c))
      let gq := signed 20 (s.ard (R.cellGainQ_gain_q n c))
      let zr := satw 20 (mul20 er gi - mul20 ei gq)
      let zi := satw 20 (mul20 er gq + mul20 ei gi)
      let φ := s.phase n c t
      satw 20 (mul20 zr (cosCode φ) - mul20 zi (sinCode φ))

/-! ### The port sum (R110, R111) -/

/-- The sum of port p before saturation. -/
def State.portRaw (s : State) (n p t : Nat) : Int :=
  crnd (((List.range 8).map fun c => if s.routePort n c = some p then s.cellSample n c t else 0).foldl (· + ·) 0)
    (s.ard (R.cellPortCtl_hr_shift n p))

/-- The 20-bit word of port p at tick t. -/
def State.portWord (s : State) (n p t : Nat) : Int := satw 20 (s.portRaw n p t)

def State.clips (s : State) (n p t : Nat) : Bool := decide (s.portWord n p t ≠ s.portRaw n p t)

/-- One clipped sample is reported at its ball tick (R111). -/
def State.reportClip (s : State) (n p t : Nat) : State :=
  ((s.setF (R.cellPortStatus_clip n p)).incSat (R.cellPortStatus_clip_count n p)).fireSAt t n (11 + p)

/-- Some Cell of the Comb plays. -/
def State.combPlays (s : State) (n : Nat) : Bool := (List.range 8).any fun c => (s.cell (8 * n + c)).play.isSome

/-- Reports the clipped samples of both ports at `len` ticks from `t` on. -/
def State.clipSpan (s : State) (n t : Nat) : Nat → State
  | 0 => s
  | len + 1 =>
    let s := if s.clips n 0 t then s.reportClip n 0 t else s
    let s := if s.clips n 1 t then s.reportClip n 1 t else s
    State.clipSpan s n (t + 1) len

/-! ### Reading the envelope (R77, R78, R117, R118) -/

/-- Samples of an RF release buffer, and the ticks that markers and Bias outputs cover: nothing is written earlier than this
before its release deadline (R78). -/
def bufDepth : Nat := 8192

/-- Samples of the play that its values up to tick t need. -/
def needBy (g : Seg) (t : Nat) : Nat :=
  if t < g.b0 then 0
  else
    let k := (t - g.b0) / 16
    min g.d.length
      (if g.d.interp = 0 then k + 1 else if g.d.interp = 1 then (if (t - g.b0) % 16 = 0 then k + 1 else k + 2) else k + 5)

/-- The first tick of the play whose value needs sample m. -/
def deadTick (g : Seg) (m : Nat) : Nat :=
  if g.d.interp = 0 ∨ m = 0 then g.b0 + 16 * m else if g.d.interp = 1 then g.b0 + 16 * (m - 1) + 1 else g.b0 + 16 * (m - 4)

/-- The samples of a play, from the first unread one up to `upto`, that stand in cache word i. -/
def State.samplesAt (s : State) (n c : Nat) (g : Seg) (upto i : Nat) : List Nat :=
  let cap := 64 * s.ard (R.cellRing_ring_len n c)
  let base := s.ard (R.cellRing_ring_base n c)
  let low := max g.read 256 - 256
  let ks :=
    if g.d.envSrc = 0 then (if g.d.envAddr ≤ i then [i - g.d.envAddr] else [])
    else
      (if g.d.headAddr ≤ i ∧ i < g.d.headAddr + 256 then [i - g.d.headAddr] else []) ++
        (if base ≤ i ∧ i < base + cap then [256 + (i - base) + ceilDiv (low - (i - base)) cap * cap] else [])
  ks.filter fun k => decide (g.read ≤ k ∧ k < upto)

/-- The Cell's pipeline reads its envelope on: as far as its release buffer takes samples (a full buffer holds it back), and as
far as its ring is filled. A single-bit error is corrected and counted; a double-bit error silences the rest of the play, and so
does a sample of far store that is not there by the release deadline of the first tick that needs it (R78, R117, R118). -/
def State.readEnv (s : State) (n c : Nat) : State :=
  match (s.cell (8 * n + c)).play with
  | none => s
  | some (p, g) =>
    if g.deadAt.isSome || decide (g.d.envSrc = 3) then s
    else
      let last := fun (t : Nat) => match p.stop with | some x => min t (x - 1) | none => t
      let have' := if g.d.envSrc = 0 then g.d.length else 256 + (s.cell (8 * n + c)).fill
      let upto := min have' (needBy g (last (s.dial + 461 + bufDepth)))
      let marks := (s.cache.filter fun e => decide (e.1 / 65536 = n ∧ e.2.mark ≠ 0)).flatMap fun e =>
        (s.samplesAt n c g upto (e.1 % 65536)).map fun k => (k, e.2.mark)
      let bad := ((marks.filter fun e => decide (2 ≤ e.2)).map (·.1)).min?
      let fixes := (marks.filter fun e => decide (e.2 = 1) && (match bad with | some m => decide (e.1 < m) | none => true)).length
      let s := s.wr (R.seqEcc2_cache_fix n) (min 0xFFFF (s.rd (R.seqEcc2_cache_fix n) + fixes))
      let late := decide (g.d.envSrc = 2 ∧ have' < needBy g (last (s.dial + 461)))
      let dead :=
        match bad with
        | some m => some (deadTick g m)
        | none => if late then some (deadTick g have') else none
      let s := s.setCell (8 * n + c) { s.cell (8 * n + c) with play := some (p, { g with read := max g.read upto, deadAt := dead }) }
      if bad.isSome then (s.combFlag (R.cellStatus_env_ecc n c) n 9).markShot n p.iss.shot
      else if late then (s.combFlag (R.cellStatus_underrun n c) n 9).markShot n p.iss.shot
      else s

/-- Brings a Comb's envelope reads up to the present Dial value and its clip reports up to tick x. -/
def State.settleTo (s : State) (n x : Nat) : State :=
  let s := (List.range 8).foldl (fun s c => s.readEnv n c) s
  let a := (s.comb n).clipFrom
  let s := if s.combPlays n then s.clipSpan n a (x - a) else s
  s.setComb n { s.comb n with clipFrom := max a x }

/-- The reports of every tick before the present one: called before anything that changes what the Cells put out from now
on. -/
def State.settle (s : State) (n : Nat) : State := s.settleTo n s.dial

/-- The reports with the present tick: called before the status is read. -/
def State.settleNow (s : State) (n : Nat) : State := s.settleTo n (s.dial + 1)

/-! ### Jump claims (R120, R121, R220) -/

/-- A Cell's share of every span that began by tick t ends there (R217). -/
def State.cutSpecs (s : State) (n c t : Nat) : State :=
  s.setComb n
    { s.comb n with specs := (s.comb n).specs.map fun x =>
        if x.ts ≤ t then
          { x with ends := x.ends.map fun e => if e.1 = c then (c, some (match e.2 with | some k => min k t | none => t)) else e }
        else x }

/-- The Cell of the Comb that may take the claim of port p: routed there, in a jumpable run, the run that began first,
the lower number on a tie. -/
def State.claimant (s : State) (n p : Nat) : Option Nat :=
  ((List.range 8).filter fun c => decide (s.routePort n c = some p) && (s.cell (8 * n + c)).runFrom.isSome).foldl
    (fun best c =>
      match best with
      | none => some c
      | some b => if (s.cell (8 * n + c)).runFrom.getD 0 < (s.cell (8 * n + b)).runFrom.getD 0 then some c else some b) none

/-- Grants the claim of port p where no Cell has it. -/
def State.grantClaim (s : State) (n p : Nat) : State :=
  if (List.range 8).any fun c => decide (s.routePort n c = some p) && (s.cell (8 * n + c)).holds then s
  else
    match s.claimant n p with
    | none => s
    | some c => s.setCell (8 * n + c) { s.cell (8 * n + c) with holds := true }

/-- The claims of both ports. -/
def State.claims (s : State) (n : Nat) : State := (s.grantClaim n 0).grantClaim n 1

/-- The jumpable run of Cell c begins at tick b: on a tie the lower Cell number has the claim. -/
def State.tieClaim (s : State) (n c b : Nat) : State :=
  match s.routePort n c with
  | none => s
  | some p =>
    match (List.range 8).find? fun h =>
        decide (c < h ∧ s.routePort n h = some p ∧ (s.cell (8 * n + h)).runFrom = some b) && (s.cell (8 * n + h)).holds with
    | none => s
    | some h =>
      let s := s.setCell (8 * n + h) { s.cell (8 * n + h) with holds := false }
      s.setCell (8 * n + c) { s.cell (8 * n + c) with holds := true }

/-- Cell c has a new route: it leaves the claim of its old port (R121). -/
def State.newRoute (s : State) (n c : Nat) : State :=
  (s.setCell (8 * n + c) { s.cell (8 * n + c) with holds := false }).claims n

/-- `claim` as it reads: the Cell holds its port's claim, and no speculation suspends it (R121, R126, R220). -/
def State.claimBit (s : State) (n c : Nat) : Bool :=
  match s.routePort n c with
  | none => false
  | some p => (s.cell (8 * n + c)).holds && !s.twinHeld n p s.dial

/-! ### Pulses and segments (R94, R107 to R109, R526) -/

/-- A Cell's play stops at tick t: `playing` falls, a pending jump is lost (R123), the run's claim goes. -/
def State.endPulse (s : State) (n c t : Nat) : State :=
  let x := s.cell (8 * n + c)
  match x.play with
  | none => s
  | some (p, _) =>
    let s := s.noteEnd n p.iss.shot t
    let s := s.setCell (8 * n + c) { s.cell (8 * n + c) with play := none, jumps := [], lastB := none, runFrom := none, holds := false }
    let s := ((s.wr (R.cellStatus_playing n c) 0).tellShots n).claims n
    if x.jumps.isEmpty then s else s.combFlag (R.cellStatus_jump_lost n c) n 10

/-- Where the pulse ends if descriptor `i` begins at tick b and no jump comes. -/
def State.planned (s : State) (n c i b : Nat) (p : Pulse) : Pulse :=
  match s.runEnd n c walkFuel i b with
  | some e => { p with fin := e, endless := false }
  | none => { p with endless := true }

/-- A play of a segment begins. -/
def State.beginPlay (s : State) (n c : Nat) (p : Pulse) (g : Seg) : State :=
  let x := s.cell (8 * n + c)
  let s := s.setCell (8 * n + c)
    { x with
      play := some (p, { g with deadAt := none, read := 0 }), fill := 0, asked := 0, farDead := false,
      runFrom := if g.d.jmpOk then some (x.runFrom.getD g.b0) else none,
      holds := x.holds && g.d.jmpOk }
  let s := s.readEnv n c
  let s := if g.d.envSrc = 2 then
      s.askRefills (8 * n + c) g.b0 g.d.envAddr g.d.length (64 * s.ard (R.cellRing_ring_len n c)) 1024
    else s
  let s := if g.d.jmpOk ∧ x.runFrom = none then s.tieClaim n c g.b0 else s
  s.claims n

/-- The table read of descriptor `i` is in flight. -/
def State.descReading (s : State) (n i : Nat) : Bool := (s.comb n).reads.any fun r => decide (r.idx = i)

/-- A segment with descriptor `i` begins at tick b, after samples `hist`. Out of range: the pulse ends there (R107). While its
descriptor is still being read its samples are absent (R361). -/
def State.beginSeg (s : State) (n c : Nat) (p : Pulse) (i b : Nat) (hist : List (Int × Int)) : State :=
  if s.descFails n c i then
    let s := s.endPulse n c b
    let s := s.setF (R.cellStatus_desc_bad n c)
    (s.raiseFault n 3 p.iss.pc p.iss.shot).markShot n p.iss.shot
  else
    let d := s.desc n i
    let s := if s.descReading n i then s.setCell (8 * n + c) { s.cell (8 * n + c) with silentFrom := b, silentTo := 2 ^ 72 } else s
    let s := (s.useDesc n i).readFor n i c b
    let s := if d.link ∧ d.loopInf = false then s.askDesc n d.next (2 ^ c) (some (b + 16 * d.length * (d.loops + 1))) p.iss else s
    let s := if d.jmpOk then s.askDesc n d.jnext (2 ^ c) none p.iss else s
    s.beginPlay n c p { idx := i, d := d, b0 := b, left := d.loops, deadAt := none, read := 0, hist := hist }

/-- The first tick, from `tick` on, whose release deadline lies after the step that issued the item (R77, R102, R526). -/
def firstTick (tick : Nat) (i : Issue) : Nat := max tick (i.arr + 462)

/-- A frame action applies at the first tick whose release deadline is still ahead; after its own tick it is FRAME_LATE (R100 to
R102). -/
def State.applyAct (s : State) (n c : Nat) (a : FrameAct) : State :=
  let g := 8 * n + c
  let x := firstTick a.tick a.iss
  let s := s.settleTo n x
  let s :=
    if s.sinceSafe n a.iss then
      if a.sel then s.journalize n (.banks [(g, s.rd (R.cellStatus_bank_sel n c), (s.cell g).poff)])
      else if a.set || a.add then s.journalize n (.frames [(g, s.rd (R.cellFrame_frame n c))]) else s
    else s
  let s := if a.sel ∧ (a.set ∨ a.add) ∧ s.sinceSafe n a.iss then s.journalize n (.frames [(g, s.rd (R.cellFrame_frame n c))]) else s
  let s := if a.set then s.wr (R.cellFrame_frame n c) a.v else s
  let s := if a.add then s.wr (R.cellFrame_frame n c) (s.rd (R.cellFrame_frame n c) + a.v) else s
  let s := if a.sel then s.selectBank n c a.k x else s
  let s := match a.poff with | some v => s.setCell g { s.cell g with poff := v } | none => s
  let s :=
    if a.nco ∧ coherent s n c = false then
      s.setCell (8 * n + c) { s.cell (8 * n + c) with accAt := 0, accTick := x }
    else s
  if a.tick < x then (s.setF (R.cellStatus_frame_late n c)).markShot n a.iss.shot else s

/-- The frame actions of a Cell that apply by tick x, in the order of their samples, then of the program (R101). -/
def State.applyActs (s : State) (n c x : Nat) : State :=
  let y := s.cell (8 * n + c)
  let due := y.acts.filter fun a => decide (firstTick a.tick a.iss ≤ x)
  let s := s.setCell (8 * n + c) { y with acts := y.acts.filter fun a => ¬ firstTick a.tick a.iss ≤ x }
  due.foldl (fun s a => s.applyAct n c a) s

/-- A frame action takes its place among the waiting ones: by the sample where it applies, then by program order. -/
def insertAct (a : FrameAct) : List FrameAct → List FrameAct
  | [] => [a]
  | b :: bs =>
    if firstTick a.tick a.iss < firstTick b.tick b.iss ∨ (firstTick a.tick a.iss = firstTick b.tick b.iss ∧ a.iss.ord < b.iss.ord) then
      a :: b :: bs
    else b :: insertAct a bs

/-- Pulse `p` plays rather than `q` where both could: the later start, the later in program order on a tie (R109). -/
def Pulse.beats (p q : Pulse) : Bool := decide (q.ts < p.ts ∨ (q.ts = p.ts ∧ q.iss.ord < p.iss.ord))

/-- Of several pulses, the one that plays (R109). -/
def latestPulse : List Pulse → Option Pulse
  | [] => none
  | p :: ps =>
    match latestPulse ps with
    | none => some p
    | some q => if p.beats q then some p else some q

/-- A pulse that comes too late for its first sample (R526). -/
def State.pulseLate (s : State) (n c x : Nat) (p : Pulse) : State :=
  if p.ts < x then (s.setF (R.cellStatus_pulse_late n c)).markShot n p.iss.shot else s

/-- The pulse starts at tick x: it pre-empts the one that plays, its selections apply after every frame action of the tick, and its
first segment runs since t_s. A start later than t_s is PULSE_LATE (R94, R101, R109, R526). -/
def State.startPulse (s : State) (n c : Nat) (p : Pulse) (d x : Nat) : State :=
  if s.descFails n c d then s else
  let g := 8 * n + c
  let s := if s.sinceSafe n p.iss then s.journalize n (.banks [(g, s.rd (R.cellStatus_bank_sel n c), (s.cell g).poff)]) else s
  let pre := (s.cell (8 * n + c)).play.isSome
  let s := s.endPulse n c x
  let s := if pre then s.setF (R.cellStatus_preempt n c) else s
  let s := s.selectBank n c p.bank x
  let s := s.setCell (8 * n + c) { s.cell (8 * n + c) with poff := p.phase }
  let s := s.pulseLate n c x p
  let s := s.wr (R.cellStatus_playing n c) 1
  (s.beginSeg n c (s.planned n c d p.ts p) d p.ts []).tellShots n

def jumpEarliest (x : CellSt) : Option Nat := (x.jumps.map (·.tj)).min?

/-- A jump request reaches a Cell (R119, R123): merged where one is pending. -/
def State.askJump (s : State) (n c tj : Nat) (iss : Option Issue) : State :=
  let x := s.cell (8 * n + c)
  let s := if x.jumps.isEmpty then s else s.setF (R.cellStatus_jump_merge n c)
  s.setCell (8 * n + c) { s.cell (8 * n + c) with jumps := x.jumps ++ [⟨tj, s.dial, iss⟩] }

/-- The segment's end at tick b (R108, R119). -/
def State.boundary (s : State) (n c : Nat) (p : Pulse) (g : Seg) (b : Nat) : State :=
  let s := s.settleTo n b
  let x := s.cell (8 * n + c)
  let can := g.d.jmpOk && s.jumpable n c b
  let hist := s.histAfter n c g
  if can && jumpDue x b then
    let late := match jumpEarliest x, x.lastB with | some t, some l => decide (t ≤ l) | _, _ => false
    let s := if late then s.combFlag (R.cellStatus_jump_late n c) n 10 else s
    if s.descFails n c g.d.jnext then s.beginSeg n c p g.d.jnext b hist
    else
      let s := s.setCell (8 * n + c) { s.cell (8 * n + c) with jumps := [] }
      (s.beginSeg n c (s.planned n c g.d.jnext b p) g.d.jnext b hist).tellShots n
  else
    let s := s.setCell (8 * n + c) { x with lastB := if can then some b else x.lastB }
    if g.d.loopInf then s.beginPlay n c p { g with b0 := b, hist := hist }
    else if 0 < g.left then s.beginPlay n c p { g with b0 := b, left := g.left - 1, hist := hist }
    else if g.d.link then s.beginSeg n c p g.d.next b hist
    else s.endPulse n c b

/-- What the play under way reaches first, where it comes by tick x: the pulse's end at a stop, or the segment's boundary. -/
def State.boundaryBy (s : State) (n c x : Nat) : State :=
  match (s.cell (8 * n + c)).play with
  | none => s
  | some (p, g) =>
    let b := g.b0 + 16 * g.d.length
    match p.stop with
    | some y =>
      if y ≤ b then (if y ≤ x then (s.settleTo n y).endPulse n c y else s) else if b ≤ x then s.boundary n c p g b else s
    | none => if b ≤ x then s.boundary n c p g b else s

/-- The play under way reaches its stop or a boundary by tick x. -/
def State.reaches (s : State) (n c x : Nat) : Bool :=
  match (s.cell (8 * n + c)).play with
  | none => false
  | some (p, g) => decide (g.b0 + 16 * g.d.length ≤ x) || (match p.stop with | some y => decide (y ≤ x) | none => false)

/-- Everything that the play under way reaches by tick x, `fuel` boundaries at most. -/
def State.playTo (s : State) (n c x : Nat) : Nat → State
  | 0 => s
  | fuel + 1 => if s.reaches n c x then State.playTo (s.boundaryBy n c x) n c x fuel else s

/-- SEGMENT_BOUNDARY: the Cell's segment has reached its end. -/
def execSegmentBoundary (t n c : Nat) (s : State) : Host.Outcome State Fault Refusal :=
  let s := s.at t
  if s.awake then .next (s.boundaryBy n c s.dial) else .next s

/-- FRAME_ACTION: the actions whose tick has come apply. -/
def execFrameAction (t n c : Nat) (s : State) : Host.Outcome State Fault Refusal :=
  let s := s.at t
  if s.awake then .next (s.applyActs n c s.dial) else .next s

/-- The effect of a write of 1 to `jump` in CELL_CMD. -/
def State.cellJump (s : State) (n c : Nat) : State :=
  if (s.cell (8 * n + c)).play.isSome then (s.askJump n c s.dial none).wr (R.cellCmd_result n c) rOK
  else s.wr (R.cellCmd_result n c) rSTATE

def execCellJump (t n c : Nat) (s : State) : Host.Outcome State Fault Refusal :=
  let s := s.at t
  if s.awake then .next (s.hostCmd (0x100000 + n * 0x4000 + 0x904 + 32 * c) fun s => s.cellJump n c) else .next s

/-- ENVELOPE_UNDERRUN: the release deadline of a tick is reached, and the far-store sample that it needs has not arrived (R117). -/
def execEnvelopeUnderrun (t n c : Nat) (s : State) : Host.Outcome State Fault Refusal :=
  let s := s.at t
  if s.awake then .next ((s.settle n).readEnv n c) else .next s

/-- `clip_clr` of port p (R127). -/
def State.clipClr (s : State) (n p : Nat) : State := s.wr (R.cellPortStatus_clip_count n p) 0

def execClipClr (t n p : Nat) (s : State) : Host.Outcome State Fault Refusal :=
  let s := s.at t
  if s.awake then .next (s.hostCmd (0x100000 + n * 0x4000 + 0xA00 + 16 * p) fun s => (s.settleNow n).clipClr n p) else .next s

/-! ### The bank port (R128) -/

/-- The bank entry that CELL_BANK_SEL names. -/
def State.bankKey (s : State) (n : Nat) : Nat := (8 * n + s.rd (R.cellBankSel_cell n)) * 256 + s.rd (R.cellBankSel_entry n)

def State.mark (s : State) (k bit : Nat) : State := { s with marks := SMap.set 0 s.marks k (SMap.get 0 s.marks k ||| bit) }

def State.bankLo (s : State) (n v : Nat) : State :=
  let k := s.bankKey n
  ({ s with bank := SMap.set 0 s.bank k (SMap.get 0 s.bank k / 2 ^ 32 * 2 ^ 32 + v % 2 ^ 32) }).mark k 1

/-- A write of CELL_BANK_HI marks the half, and with `auto_inc` advances `entry`; a write of one of its bits through the alias
range is a write of the word and advances it too (DESIGN CHOICE, log 61). -/
def State.bankHi (s : State) (n v : Nat) : State :=
  let k := s.bankKey n
  let s := ({ s with bank := SMap.set 0 s.bank k (SMap.get 0 s.bank k % 2 ^ 32 + v % 2 ^ 16 * 2 ^ 32) }).mark k 2
  if s.rd (R.cellBankSel_auto_inc n) = 1 then s.wr (R.cellBankSel_entry n) (s.rd (R.cellBankSel_entry n) + 1) else s

def execBankHiWrite (t n value : Nat) (s : State) : Host.Outcome State Fault Refusal :=
  let s := s.at t
  if s.awake then .next (s.hostCmd (0x100000 + n * 0x4000 + 0xA48) fun s => s.bankHi n value) else .next s

/-- A bank entry takes a new active value from tick b on (R103). A half written between the capture of a strobe and its B is part of
no later pair: both marks are clear from B on (DESIGN CHOICE, log 61). -/
def State.applyBank (s : State) (k v b : Nat) : State :=
  let n := k / 2048
  let c := k / 256 % 8
  let s := s.settleTo n b
  let s := if s.rd (R.cellStatus_bank_sel n c) = k % 256 then s.anchorAcc n c b else s
  { s with bankAct := SMap.set 0 s.bankAct k v, marks := SMap.set 0 s.marks k 0 }

/-! ### The basic level (R112, R124) -/

/-- Cells whose active route names port p. -/
def State.routed (s : State) (n p : Nat) : Nat := ((List.range 8).filter fun c => s.routePort n c = some p).length

def hrShiftOf (r : Nat) : Nat := if r ≤ 1 then 0 else if r = 2 then 1 else if r ≤ 4 then 2 else 3

/-- At the basic level the E fields follow the B fields. -/
def State.deriveCells (s : State) (n : Nat) : State :=
  if s.rd (R.cellCtl_level n) = 1 then s
  else
    let s := (List.range 8).foldl
      (fun s c =>
        (((s.both (R.cellGainI_gain_i n c) 0x7FFFF).both (R.cellGainQ_gain_q n c) 0).both (R.cellRing_ring_len n c) 32).both
          (R.cellRing_ring_base n c) (65536 - 2048 * (c + 1))) s
    let s := (s.both (R.cellPortCtl_hr_shift n 0) (hrShiftOf (s.routed n 0))).both (R.cellPortCtl_hr_shift n 1) (hrShiftOf (s.routed n 1))
    s.wr (R.cellBankSel_auto_inc n) 1

end Sys2Proof.Machine
end

