-- ==== Sys2Proof/Machine/RfPorts.lean ====
section
/-! DEFINITION. RF outputs and inputs: what a DAC port releases, the `mute` field, over-range and band changes (R260 to
R277). -/

namespace Sys2Proof.Machine

/-! ### The DAC side (R261, R265 to R267, R276) -/

/-- A filter at tick t: the words around it by their taps, exact, then rounded once and saturated to 20 bits. -/
def firAt (tap : Int → Int) (half shift : Nat) (word : Nat → Int) (t : Nat) : Int :=
  satw 20 (crnd (((List.range (2 * half + 1)).map fun (i : Nat) => tap ((i : Int) - (half : Int)) * word (t + half - i)).foldl (· + ·) 0) shift)

/-- The word of port k at tick t after its delay: `frac` is the active one, so that samples from the beat of its activation on take
it (R86, R87). -/
def State.delayWord (s : State) (k t : Nat) : Int :=
  let f := signed 7 (s.ard (R.timeFrac_frac k))
  if f = 0 then s.portWord (k / 2) (k % 2) t
  else firAt (Config.fracTap (f + 32).toNat) Config.fracHalf Config.fracBits (s.portWord (k / 2) (k % 2)) t

/-- The sinc compensation, a linear-phase filter, and off in Amber (R262, R267). -/
def State.sincWord (s : State) (k t : Nat) : Int :=
  if s.ard (R.dacCfg_sinc_en (k / 32) (k % 32)) = 1 ∧ s.isAmber = false then
    firAt (fun i => Config.sincTap i.natAbs) Config.sincHalf Config.sincBits (s.delayWord k) t
  else s.delayWord k t

/-- The 16-bit core value of a 20-bit word: rounded, or with its low bits shaped away about `centre`; noise shaping is off in Amber
(R261, R263, R267). -/
def State.coreWord (s : State) (k t : Nat) : Int :=
  let w := s.sincWord k t
  if s.ard (R.dacCfg_ns_en (k / 32) (k % 32)) = 1 ∧ s.isAmber = false then
    satw 16 (w / 16 + Config.shaped (s.ard (R.dacCfg_centre (k / 32) (k % 32))) k t)
  else satw 16 (crnd w 4)

/-- The 16-bit value that OUTk converts at tick t: zero while muted; in Amber that of the last tick that is a multiple of 4 (R265,
R267). From Sleep entry to the end of the wake the outputs are in the mute state (R500, R501). -/
def State.outWord (s : State) (k t : Nat) : Int :=
  if s.rd (muteWhy k) ≠ 0 ∨ s.isSleep ∨ s.svc.entry then 0
  else s.coreWord k (if s.isAmber then t - t % 4 else t)

/-- `mute` of port k takes its active value (R266). -/
def State.dacMute (s : State) (k : Nat) : State :=
  if s.ard (R.dacCfg_mute (k / 32) (k % 32)) = 1 then s.mute k 5 else s.unmute k 5

/-- The basic level of Front die q (R276). -/
def State.deriveFront (s : State) (q : Nat) : State :=
  if s.rd (R.frontCtl_level q) = 1 then s
  else
    (List.range 32).foldl
      (fun s j => ((s.both (R.dacCfg_ns_en q j) 1).both (R.dacCfg_sinc_en q j) 1).both (R.dacFs_fs_trim q j) 0) s

/-! ### The ADC side (R269 to R273) -/

/-- The converters run: outside Dark and Sleep, with the clock PLLs locked (R16). -/
def State.converting (s : State) : Bool := s.awake && !s.isSleep && decide (s.rd R.timeStatus_pll_lock = 1)

/-- The samples of INn at ticks from `a` up to `b` count as over-range samples (R194, R269, R272). -/
def State.addOvr (s : State) (n a b : Nat) : State := s.setComb n { s.comb n with ovr := (s.comb n).ovr ++ [(a, b)] }

/-- Some over-range sample lies between ticks `a` and `b`, both included. -/
def State.ovrIn (s : State) (n a b : Nat) : Bool :=
  (s.comb n).ovr.any fun x => decide (x.1 ≤ b) && decide (a < x.2)

/-- `in_valid` of a port: no run's invalid span and no settling is under way. -/
def State.showValid (s : State) (n : Nat) : State :=
  if (s.comb n).ovrRun.isSome ∨ (s.comb n).settleEnd.isSome then s.clrBit (R.frontInState_in_valid (n / 16)) (n % 16)
  else s.setBit (R.frontInState_in_valid (n / 16)) (n % 16)

/-- The sub-converter that takes the sample at an even tick (R268). -/
def subConv (t : Nat) : Nat := t / 2 % 8

/-- The word that INp delivers for the core value of the sample at ball tick t: full scale where the core value is at its limit, else
corrected by the applied values of its sub-converter (R268, R271). -/
def State.adcWord (s : State) (p t : Nat) (core : Int) : Int :=
  if 8191 ≤ core then 524287
  else if core ≤ -8192 then -524288
  else
    let v := fun (i : Nat) => signed 24 (s.rd (R.calApplied_applied (0x400 + 32 * p + 3 * subConv t + i)))
    satw 20 (Config.adcCorrect (s.ard (R.adcCfg_band (p / 16) (p % 16))) (v 0) (v 1) (v 2) core p t)

/-- The words of samples at ticks `t0`, `t0` + `step`, and so on. -/
def State.adcWords (s : State) (p t0 step : Nat) (cores : List Int) : List Int :=
  cores.mapIdx fun i x => s.adcWord p (t0 + step * i) x

/-- The even ticks after `a` and up to `b` that the disturbed span of port n holds: there is one (R273). -/
def State.disturbs (s : State) (n a b : Nat) : Bool :=
  let lo := max (a + 1) (s.comb n).distFrom
  decide ((lo + 1) / 2 * 2 ≤ min b (s.comb n).distTo)

/-- `ovr_nbr` of Front die q up to the present: a bit for each port with a sample in another port's disturbed span (R273). -/
def State.judgeNbr (s : State) (q : Nat) : State :=
  let hit := (List.range 16).filter fun i =>
    (List.range 16).any fun j => decide (j ≠ i) && s.disturbs (16 * q + j) (s.comb (16 * q + i)).nbrAt s.dial
  let s := hit.foldl (fun s i => s.setBit (R.frontOvr_ovr_nbr q) i) s
  (List.range 16).foldl (fun s i => s.setComb (16 * q + i) { s.comb (16 * q + i) with nbrAt := s.dial }) s

/-- The run's report: once for a run that no valid span breaks (R271). -/
def State.reportRun (s : State) (n x : Nat) : State :=
  ((s.setBit (R.frontOvr_ovr (n / 16)) (n % 16)).incSat (R.adcOvrCnt_ovr_count (n / 16) (n % 16))).fireSAt x n 16

/-- The run that an over-range sample at tick x extends. -/
def CombSt.runAt (c : CombSt) (x : Nat) : Option (Nat × Bool) := c.ovrRun.filter fun o => decide (x < o.1 + 104)

/-- The port's run with its invalid and disturbed spans after a sample at tick x; `told` says that the run is reported. -/
def CombSt.runOn (c : CombSt) (x : Nat) (told : Bool) : CombSt :=
  { c with
    ovr := c.ovr ++ [(((c.runAt x).map (·.1)).getD x, x + 104)]
    ovrRun := some (x, told)
    distFrom := if x ≤ c.distTo then c.distFrom else x
    distTo := x + 511 }

/-- One over-range sample at INn at tick `x`: it begins a run, or extends the one under way. During the settling after a band change
it reports nothing (R269, R271 to R273). -/
def State.overRange (s : State) (n x : Nat) : State :=
  let q := n / 16
  let s := s.judgeNbr q
  let told := ((s.comb n).runAt x).any (·.2)
  let settling := (s.comb n).settleEnd.any fun e => decide (x < e)
  let s := s.setComb n ((s.comb n).runOn x (told || !settling))
  let s := if settling then s else if told then s.setBit (R.frontOvr_ovr q) (n % 16) else s.reportRun n x
  ((List.range 16).foldl (fun s i => if i = n % 16 then s else s.setBit (R.frontOvr_ovr_nbr q) i) s).showValid n

/-- OVER_RANGE: the ADC sample of INn at the last even tick is over range. -/
def execOverRange (t port : Nat) (s : State) : Host.Outcome State Fault Refusal :=
  let s := s.at t
  if s.converting then .next (s.overRange port (s.dial - s.dial % 2)) else .next s

/-- OVER_RANGE_VALID_RETURN: t_o + 104 is reached (R272). -/
def execOverRangeValidReturn (t port : Nat) (s : State) : Host.Outcome State Fault Refusal :=
  let s := s.at t
  match (s.comb port).ovrRun with
  | none => .next s
  | some o => if o.1 + 104 ≤ s.dial then .next ((s.setComb port { s.comb port with ovrRun := none }).showValid port) else .next s

/-- A new `band` of INn is active from beat b on: the port settles, and its capture comparators stand at 0 (R269, R299). -/
def State.bandChange (s : State) (n b : Nat) : State :=
  let s := s.addOvr n b (b + 25600)
  let s := s.setComb n { s.comb n with settleEnd := some (b + 25600) }
  let x := SMap.get CapSt.init s.caps n
  let s := { s with caps := SMap.set CapSt.init s.caps n { x with cA := false, cB := false, rise := none, roseB := false } }
  (s.setBit (R.frontInState_settling (n / 16)) (n % 16)).showValid n

/-- BAND_SETTLE_END: `settling` clears 25,600 ticks after the beat (R269). -/
def execBandSettleEnd (t port : Nat) (s : State) : Host.Outcome State Fault Refusal :=
  let s := s.at t
  match (s.comb port).settleEnd with
  | none => .next s
  | some e =>
    if e ≤ s.dial then
      .next (((s.setComb port { s.comb port with settleEnd := none }).clrBit (R.frontInState_settling (port / 16)) (port % 16)).showValid
        port)
    else .next s

end Sys2Proof.Machine
end

