-- ==== Sys2Proof/Machine/Capture.lean ====
section
/-! DEFINITION. Capture and triggers (R281 to R304). -/

namespace Sys2Proof.Machine

def State.cap (s : State) (p : Nat) : CapSt := SMap.get CapSt.init s.caps p
def State.setCap (s : State) (p : Nat) (x : CapSt) : State := { s with caps := SMap.set CapSt.init s.caps p x }

/-- The states of R291. -/
def cIDLE : Nat := 0
def cWAIT : Nat := 1
def cRECORD : Nat := 2

def State.capState (s : State) (p : Nat) : Nat := s.rd (R.capPstat_state p)

def State.setCapState (s : State) (p v : Nat) : State :=
  let s := s.wr (R.capPstat_state p) v
  let f := if p < 32 then R.capArmedLo_armed_lo else R.capArmedHi_armed_hi
  if v = cIDLE then s.clrBit f (p % 32) else s.setBit f (p % 32)

/-! ### Records in time and in the ring (R282, R292, R294, R296, R298) -/

/-- The first kept tick at or after `x`. -/
def keptUp (sp x : Nat) : Nat := ceilDiv x sp * sp

/-- Ball tick of sample k. -/
def CapRec.tick (r : CapRec) (k : Nat) : Nat :=
  match r.half with
  | some h => if k < h then r.first + k * r.sp else r.first + (2 * k - h + 1) * r.sp
  | none => r.first + k * r.sp

/-- The tick after the record's last sample. -/
def CapRec.endTick (r : CapRec) : Nat := if r.cnt = 0 then r.first else r.tick (r.cnt - 1) + 1

def unitsOf (n : Nat) : Nat := ceilDiv (512 + 20 * n) 512

/-- The free space of the ring (R295). -/
def State.capFree (s : State) (p : Nat) : Nat :=
  let u := (s.cap p).ring
  (s.rd (R.capRd_cap_rd p) % u + 2 * u - s.rd (R.capWr_cap_wr p) - 1) % u

/-- What is left of it beyond the records that are taken and not yet committed, which no other record may overwrite. -/
def State.capRoom (s : State) (p : Nat) : Nat :=
  s.capFree p - (((s.cap p).done.filter fun r => r.gen = (s.cap p).gen).map fun r => unitsOf r.cnt).sum

/-- The samples that a record in `u` units can hold. -/
def samplesIn (u : Nat) : Nat := (512 * u - 512) / 20

/-- The kept samples before tick x that a waiting port may use: none from before `from'`, none that the free space could not hold
(R292, R295). -/
def State.capHistory (s : State) (p x : Nat) : Nat :=
  let c := s.cap p
  let sp := 2 ^ (c.dec + 1)
  min (samplesIn (s.capRoom p)) ((x - keptUp sp c.from') / sp)

/-- Before the free space changes: history that it did not hold is gone (R295). -/
def State.capForget (s : State) (p : Nat) : State :=
  let c := s.cap p
  let sp := 2 ^ (c.dec + 1)
  s.setCap p { c with from' := max c.from' (keptUp sp (s.dial + 1) - s.capHistory p (keptUp sp (s.dial + 1)) * sp) }

/-- A port returns to IDLE: its reservation goes (R283, R291). -/
def State.capIdle (s : State) (p why : Nat) : State :=
  ((s.setCapState p cIDLE).wr (R.capPstat_stop_why p) why).release [1024 + p]

/-- The record under way has ended: it awaits its commit, and the port waits again or is idle (R291, R301). -/
def State.capEnd (s : State) (p : Nat) (r : CapRec) (why : Option Nat) : State :=
  let x := s.cap p
  let e := r.endTick
  let s := s.setCap p
    { x with
      cur := none, done := x.done ++ [r], from' := max x.from' e, wr := (r.at' + unitsOf r.cnt) % x.ring,
      toFrom := max x.toFrom (e / 32), autoFrom := max x.autoFrom e }
  match why with
  | some 4 => if s.ard (R.capTrig_rearm p) = 1 then (s.setCapState p cWAIT).wr (R.capPstat_stop_why p) 4 else s.capIdle p 4
  | some w => s.capIdle p w
  | none => if s.ard (R.capTrig_rearm p) = 1 then s.setCapState p cWAIT else s.capIdle p 1

/-- The record whose last sample lies before tick `x` has ended. -/
def State.capSettle (s : State) (p x : Nat) : State :=
  match (s.cap p).cur with
  | some r => if r.endTick ≤ x then s.capEnd p r none else s
  | none => s

/-- Every record that has ended by now is closed. -/
def State.capSettleAll (s : State) : State := (List.range 64).foldl (fun s p => s.capSettle p (s.dial + 1)) s

/-- The state of a port now, a record that has ended taken as ended. -/
def State.capNow (s : State) (p : Nat) : Nat := (s.capSettle p (s.dial + 1)).capState p

/-- `cap_rd` is written: modulo the units of the ring latched last, or before the first arm of the ring its fields give (R294; DESIGN
CHOICE, log 67). -/
def State.capAdvance (s : State) (p old : Nat) : State :=
  let v := s.rd (R.capRd_cap_rd p)
  let u := if (s.cap p).ring = 0 then 16384 * max 1 (s.ard (R.capRingSize_ring_size p)) else (s.cap p).ring
  let s := (s.wr (R.capRd_cap_rd p) old).capSettle p (s.dial + 1)
  (if s.capState p = cIDLE then s else s.capForget p).wr (R.capRd_cap_rd p) (v % u)

/-! ### Triggers (R287 to R290, R292, R295) -/

/-- The lowest-numbered condition of a mask; 7 where there is none. -/
def primaryOf (mask : Nat) : Nat := ((List.range 7).find? fun c => mask.testBit c).getD 7

def State.trigSkip (s : State) (p k : Nat) : State := s.wr (R.capPstat_trig_skip p) (min 0xFF (s.rd (R.capPstat_trig_skip p) + k))

/-- No room for the record of a trigger at tick T: it is lost, once for one trigger sample. -/
def State.capLose (s : State) (p T : Nat) : State :=
  let x := s.cap p
  if x.lostAt = some T then s
  else
    ((s.setCap p { x with lostAt := some T }).wr (R.capPstat_rec_lost p) (min 0xFFFF (s.rd (R.capPstat_rec_lost p) + 1))).combFlag
      (R.capPstat_cap_full p) p 18

/-- A waiting port takes a trigger, or loses the record for want of room: the record's size is that of the history there is and of
the `n_post` samples. -/
def State.capTake (s : State) (p mask T tTrig : Nat) : State :=
  let x := s.cap p
  let sp := 2 ^ (x.dec + 1)
  let pre := min x.pre (s.capHistory p T)
  if s.capRoom p < unitsOf (pre + x.post) then s.capLose p T
  else
    let pre := min pre (samplesIn (s.capRoom p) - x.post)
    let cnt := pre + x.post
    let r : CapRec :=
      { no := x.no, gen := x.gen, first := T - pre * sp, sp := sp, dec := x.dec, pre := pre, cnt := cnt, trig := T, tTrig := tTrig,
        coinc := mask, primary := primaryOf mask, auto := decide (mask = 0), preShort := decide (pre < x.pre), trunc := false,
        half := none, at' := x.wr, units := unitsOf cnt }
    let s := (s.setCap p { x with cur := some r, no := (x.no + 1) % 2 ^ 32 }).setCapState p cRECORD
    if pre < x.pre then s.setF (R.capPstat_pre_short p) else s

/-- Conditions of `mask` (none: AUTO) fire on the sample at tick T. -/
def State.capFire (s : State) (p mask T tTrig : Nat) : State :=
  let s := s.capSettle p T
  let x := s.cap p
  if s.capState p = cWAIT then s.capTake p mask T tTrig
  else
    match x.cur with
    | none => s
    | some r =>
      if r.trig = T then
        let m := r.coinc ||| mask
        let q := primaryOf m
        let r := { r with coinc := m, primary := q, auto := r.auto && decide (mask = 0), tTrig := if q < r.primary then tTrig else r.tTrig }
        s.setCap p { x with cur := some r }
      else s.trigSkip p ((List.range 7).filter fun c => mask.testBit c).length

/-! ### The detector (R285 to R287, R299) -/

/-- Ball tick of decimated sample m's first ADC sample (R181). -/
def tFirst (m : Nat) : Nat := 32 * m - 30

/-- mag of a decimated sample: the largest magnitude of its sixteen words. -/
def magOf (xs : List Int) : Nat := ((xs.take 16).map fun x => min 524287 x.natAbs).foldl max 0

def comparator (mag X hyst : Nat) (old : Bool) : Bool := if X ≤ mag then true else if mag + hyst < X then false else old

/-- The sample `r + lim + 1` lies after `prev` and at or before `m`, and what must hold there holds. -/
def overAt (r lim prev m : Nat) (still : Bool) : Option Nat :=
  let x := r + lim + 1
  if prev < x ∧ (x < m ∨ (x = m ∧ still = true)) then some x else none

/-- What fires when sample m is judged: samples with their conditions. -/
def State.capJudge (s : State) (p : Nat) (x : CapSt) (a b : Bool) (m : Nat) : List (Nat × Nat) :=
  let on := fun (f : Fld) => decide (s.ard f = 1)
  let order := decide (s.ard (R.capThA_th_a p) < s.ard (R.capThB_th_b p))
  let riseA := !x.cA && a
  let fallA := x.cA && !a
  let riseB := !x.cB && b
  let r := if riseA then m else x.rise.getD m
  let rose := if riseA then riseB else x.roseB || riseB
  let edge := on (R.capTrig_en_edge p) && (if s.ard (R.capTrig_edge_pol p) = 0 then riseB else x.cB && !b)
  let w := m - r
  let wMin := s.ard (R.capWidth_w_min p)
  let wMax := s.ard (R.capWidth_w_max p)
  let width := on (R.capTrig_en_width p) && fallA &&
    (if s.ard (R.capTrig_w_in p) = 1 then decide (wMin ≤ w ∧ w ≤ wMax) else decide (w < wMin))
  let runt := on (R.capTrig_en_runt p) && order && fallA && !rose
  let sMin := s.ard (R.capSlew_s_min p)
  let sMax := s.ard (R.capSlew_s_max p)
  let slew := on (R.capTrig_en_slew p) && order && a && riseB && !(x.roseB && !riseA) &&
    (if s.ard (R.capTrig_s_in p) = 1 then decide (sMin ≤ w ∧ w ≤ sMax) else decide (w < sMin))
  let past : Bool → Nat → Bool → Nat → List (Nat × Nat) := fun ok lim still code =>
    if ok && x.cA then ((overAt r lim x.last m still).map fun k => (k, 2 ^ code)).toList else []
  past (on (R.capTrig_en_width p) && decide (s.ard (R.capTrig_w_in p) = 0)) wMax a 1 ++
    past (on (R.capTrig_en_slew p) && order && decide (s.ard (R.capTrig_s_in p) = 0) && !x.roseB) sMax (a && !riseB) 3 ++
    [(m, (if edge then 1 else 0) + (if width then 2 else 0) + (if runt then 4 else 0) + (if slew then 8 else 0))]

/-- The comparators and what is kept of them after sample m. -/
def CapSt.step (x : CapSt) (a b : Bool) (m : Nat) : CapSt :=
  let riseA := !x.cA && a
  let riseB := !x.cB && b
  { x with
    cA := a, cB := b, last := m,
    rise := if riseA then some m else if a then x.rise else none,
    roseB := if riseA then riseB else x.roseB || riseB,
    toFrom := if a = x.cA then x.toFrom else max x.toFrom m }

/-- Conditions at one sample join into one mask. -/
def mergeFires : List (Nat × Nat) → List (Nat × Nat)
  | [] => []
  | f :: fs =>
    match mergeFires fs with
    | [] => if f.2 = 0 then [] else [f]
    | g :: gs => if f.2 = 0 then g :: gs else if f.1 = g.1 then (f.1, f.2 ||| g.2) :: gs else f :: g :: gs

/-! ### Samples in the ring (R284, R291, R295) -/

/-- A 20-bit word into a ring of `size` bytes at bit `at'`; the writer writes whole chunks, so no error is left in them (R352). -/
def State.putWord20 (s : State) (base size at' v : Nat) : State :=
  let a := fun (i : Nat) => base + (at' / 8 + i) % size
  let old := (s.hbmByte (a 0)).toNat + 2 ^ 8 * (s.hbmByte (a 1)).toNat + 2 ^ 16 * (s.hbmByte (a 2)).toNat
  let new := if at' % 8 = 0 then old / 2 ^ 20 * 2 ^ 20 + v else old % 2 ^ 4 + 2 ^ 4 * v
  let s := ((s.setHbmByte (a 0) (BitVec.ofNat 8 new)).setHbmByte (a 1) (BitVec.ofNat 8 (new / 2 ^ 8))).setHbmByte (a 2) (BitVec.ofNat 8 (new / 2 ^ 16))
  (s.cleanChunk (a 0 / 32)).cleanChunk (a 2 / 32)

/-- The place of the sample at tick t in the record under way. -/
def CapRec.place (r : CapRec) (t : Nat) : Option Nat :=
  if t < r.first then none
  else
    let n := (t - r.first) / r.sp
    match r.half with
    | none => if n < r.cnt then some n else none
    | some h => if n < h then some n else if (n + h) % 2 = 1 ∧ (n + h) / 2 < r.cnt then some ((n + h) / 2) else none

/-- Where the ring takes the kept sample at tick t, as a bit of it: in the record under way, or as history in the free space, which
begins after the last record taken. The place of history is this model's (DESIGN CHOICE, log 67). -/
def State.samplePlace (s : State) (p t : Nat) : Option Nat :=
  let x := s.cap p
  let sp := 2 ^ (x.dec + 1)
  match x.cur with
  | some r => (r.place t).map fun k => 512 * r.at' + 512 + 20 * k
  | none =>
    let n := samplesIn (s.capRoom p)
    if t < x.from' ∨ t % sp ≠ 0 ∨ n = 0 then none else some (512 * x.wr + 512 + 20 * ((t - keptUp sp x.from') / sp % n))

/-- The kept ones of words at `t0`, `t0` + 2, and so on are written. -/
def State.putSamples (s : State) (p t0 : Nat) (ws : List Int) : State :=
  (ws.zipIdx).foldl
    (fun s e =>
      match s.samplePlace p (t0 + 2 * e.2) with
      | some k => s.putWord20 (s.cap p).base (64 * (s.cap p).ring) k (unsigned 20 e.1)
      | none => s) s

/-- Sample m of a port is written and judged. While `settling` is 1 the comparators stand at 0 (R299). -/
def State.capSample (s : State) (p : Nat) (xs : List Int) : State :=
  let s := s.capSettle p (s.dial + 1)
  let x := s.cap p
  let m := s.dial / 32
  let ws := s.adcWords p (tFirst m) 2 (xs.take 16)
  if s.capState p = cIDLE ∨ m ≤ x.last then s
  else if (s.comb p).settleEnd.isSome then
    (s.putSamples p (tFirst m) ws).setCap p { x with cA := false, cB := false, rise := none, roseB := false, last := m }
  else
    let s := s.putSamples p (tFirst m) ws
    let mag := magOf ws
    let h := s.ard (R.capHyst_hyst p)
    let a := comparator mag (s.ard (R.capThA_th_a p)) h x.cA
    let b := comparator mag (s.ard (R.capThB_th_b p)) h x.cB
    let fires := mergeFires (s.capJudge p x a b m)
    let s := s.setCap p (x.step a b m)
    fires.foldl (fun s f => s.capFire p f.2 (32 * f.1) (32 * f.1)) s

def execCaptureTrigger (t port : Nat) (samples : List Int) (s : State) : Host.Outcome State Fault Refusal :=
  let s := s.at t
  if s.isGreen then .next (s.capSample port samples) else .next s

/-- CAPTURE_TIMEOUT: the decimated sample at the Dial value is l + `to_len` (R287). -/
def execCaptureTimeout (t port : Nat) (s : State) : Host.Outcome State Fault Refusal :=
  let s := s.at t
  let s := s.capSettle port (s.dial + 1)
  let x := s.cap port
  let m := x.toFrom + max 1 (s.ard (R.capTimeout_to_len port))
  if s.isGreen ∧ s.capState port ≠ cIDLE ∧ s.ard (R.capTrig_en_timeout port) = 1 ∧ (s.comb port).settleEnd = none ∧ s.dial / 32 = m then
    .next ((s.setCap port { x with toFrom := m }).capFire port 16 (32 * m) (32 * m))
  else .next s

/-- CAPTURE_AUTO: no trigger for `auto_to` µs, so the next kept sample is one (R290); not while the port settles (R299). -/
def execCaptureAuto (t port : Nat) (s : State) : Host.Outcome State Fault Refusal :=
  let s := s.at t
  let s := s.capSettle port (s.dial + 1)
  let x := s.cap port
  let k := s.ard (R.capAuto_auto_to port)
  if s.isGreen ∧ s.capState port = cWAIT ∧ k ≠ 0 ∧ (s.comb port).settleEnd = none ∧ x.autoFrom + 25600 * k ≤ s.dial then
    let T := keptUp (2 ^ (x.dec + 1)) s.dial
    .next (s.capFire port 0 T T)
  else .next s

/-- An event at the port's capture trigger input (R289). -/
def State.capExt (s : State) (p time : Nat) : State :=
  let s := s.capSettle p (s.dial + 1)
  let T := keptUp (2 ^ ((s.cap p).dec + 1)) time
  let same : Bool := match (s.cap p).cur with | some r => decide (r.trig = T) | none => false
  if s.capState p = cWAIT ∨ same then (if s.ard (R.capTrig_en_ext p) = 1 then s.capFire p 32 T time else s)
  else s.trigSkip p 1

/-! ### The commands of CAP_CMD (R283, R291, R293) -/

def State.capMask (s : State) : List Nat :=
  maskBits 64 (s.rd R.capMaskLo_mask_lo + 2 ^ 32 * s.rd R.capMaskHi_mask_hi)

def State.capCode (s : State) (code : Nat) : State := s.wr R.capCmd_result code

/-- The ring of a port as its active fields have it: start and size in MiB. -/
def State.capRing (s : State) (p : Nat) : Nat × Nat :=
  (s.ard (R.capRingBase_ring_base p), max 1 (s.ard (R.capRingSize_ring_size p)))

/-- The ring of another port that is armed, or is to be armed with it. -/
def State.otherRing (s : State) (ps : List Nat) (q : Nat) : Option (Nat × Nat) :=
  if s.capNow q ≠ cIDLE then some ((s.cap q).lo, (s.cap q).ring / 16384) else if ps.contains q then some (s.capRing q) else none

/-- R293's reasons for RANGE. -/
def State.capBad (s : State) (ps : List Nat) (p : Nat) : Bool :=
  let r := s.capRing p
  let n := s.ard (R.capPre_n_pre p) + s.ard (R.capPost_n_post p)
  decide (s.rgnBytes 5 < (r.1 + r.2) * 2 ^ 20) ||
    ((List.range 64).any fun q =>
      decide (q ≠ p) && (match s.otherRing ps q with | some o => decide (r.1 < o.1 + o.2 ∧ o.1 < r.1 + r.2) | none => false)) ||
    decide (n = 0 ∨ 2 ^ 32 - 1 < n) || decide (r.2 * 16384 - 1 < unitsOf n) ||
    (decide (s.ard (R.capTrig_en_runt p) = 1 ∨ s.ard (R.capTrig_en_slew p) = 1) &&
      decide (s.ard (R.capThB_th_b p) ≤ s.ard (R.capThA_th_a p)))

def State.capCompat (s : State) (p : Nat) : Bool := (s.ard R.capCtl_compat).testBit (p / 16)

/-- The charge of a port (R283, R301, R357). -/
def State.capCharge (s : State) (p : Nat) : Nat :=
  if s.capCompat p then s.ard (R.capShare_share p) * 50 else 3400 / 2 ^ s.ard (R.capTrig_dec p)

/-- One port is armed. -/
def State.capArmOne (s : State) (p : Nat) : State :=
  let r := s.capRing p
  let x := s.cap p
  let s := s.setCap p
    { CapSt.init with
      gen := x.gen + 1, dec := s.ard (R.capTrig_dec p), compat := s.capCompat p, pre := s.ard (R.capPre_n_pre p),
      post := s.ard (R.capPost_n_post p), base := s.rgnStart 5 + r.1 * 2 ^ 20, ring := r.2 * 16384, lo := r.1, from' := s.dial,
      done := x.done, last := s.dial / 32, toFrom := s.dial / 32, autoFrom := s.dial }
  let s := (s.wr (R.capWr_cap_wr p) 0).wr (R.capRd_cap_rd p) 0
  ((s.wr (R.capPstat_trig_skip p) 0).wr (R.capPstat_rec_lost p) 0).setCapState p cWAIT

def State.capArm (s : State) : State :=
  let ps := s.capMask
  let s := s.capSettleAll
  if s.isGreen = false ∨ (ps.any fun p => decide (s.capState p ≠ cIDLE)) = true then s.capCode rSTATE
  else if ps.any (s.capBad ps) then s.capCode rRANGE
  else
    let r := s.admission [] (ps.map fun p => (1024 + p, s.capCharge p))
    if r.1 then (ps.foldl (fun s p => s.capArmOne p) r.2).capCode rOK else r.2.capCode rADMIT

def execCapArm (t : Nat) (s : State) : Host.Outcome State Fault Refusal :=
  let s := s.at t
  if s.awake then .next (s.hostCmd 0x410004 fun s => s.capArm) else .next s

/-- A port is stopped: a record under way ends with the samples received so far. -/
def State.capStopOne (s : State) (p why : Nat) : State :=
  let s := s.capSettle p (s.dial + 1)
  if s.capState p = cIDLE then s
  else
    match (s.cap p).cur with
    | none => s.capIdle p why
    | some r =>
      let got := (List.range r.cnt).countP fun k => decide (r.tick k ≤ s.dial)
      s.capEnd p { r with cnt := got, trunc := true } (some why)

def State.capStop (s : State) : State :=
  let s := s.capSettleAll
  let ps := s.capMask.filter fun p => decide (s.capState p ≠ cIDLE)
  if ps = [] then s.capCode rSTATE else (ps.foldl (fun s p => s.capStopOne p 2) s).capCode rOK

def execCapStop (t : Nat) (s : State) : Host.Outcome State Fault Refusal :=
  let s := s.at t
  if s.awake then .next (s.hostCmd 0x410004 fun s => s.capStop) else .next s

/-- Leaving Green and Sleep entry stop every armed port (R300). -/
def State.capService (s : State) : State := (List.range 64).foldl (fun s p => s.capStopOne p 3) s

def State.capForce (s : State) : State :=
  let s := s.capSettleAll
  let ps := s.capMask.filter fun p => decide (s.capState p ≠ cIDLE)
  if ps = [] then s.capCode rSTATE
  else (ps.foldl (fun s p => s.capFire p 64 (keptUp (2 ^ ((s.cap p).dec + 1)) s.dial) s.dial) s).capCode rOK

def execCapForce (t : Nat) (s : State) : Host.Outcome State Fault Refusal :=
  let s := s.at t
  if s.awake then .next (s.hostCmd 0x410004 fun s => s.capForce) else .next s

/-! ### Commit and compatibility mode (R296 to R299, R301) -/

def bitIf (b : Bool) (k : Nat) : Nat := if b then 2 ^ k else 0

/-- The header of a record. -/
def State.capHeader (s : State) (p : Nat) (r : CapRec) : Nat :=
  let τ : Int := 256 * (r.first : Int) + signed 24 (s.rd (R.calApplied_applied (0x400 + 32 * p + 24)))
  let ovr := decide (0 < r.cnt) && s.ovrIn p r.first (r.endTick - 1)
  r.no + (τ / 256).toNat % 2 ^ 72 * 2 ^ 32 + (τ % 256).toNat * 2 ^ 104 + r.cnt * 2 ^ 112 + r.pre * 2 ^ 144 + r.tTrig % 2 ^ 40 * 2 ^ 176 +
    r.coinc * 2 ^ 216 + r.primary * 2 ^ 223 + bitIf r.auto 226 + bitIf ovr 227 + bitIf r.preShort 228 + bitIf r.trunc 229 +
    bitIf r.half.isSome 230 + r.dec * 2 ^ 232 + p * 2 ^ 234 + s.rd R.chnCtl_id * 2 ^ 240 + (r.half.getD 0xFFFFFFFF) * 2 ^ 248 + 0xA5 * 2 ^ 280

/-- The samples, 20 bits each, from sample 0 upward. -/
def packSamples : List Int → Nat → Nat
  | _, 0 => 0
  | [], _ => 0
  | x :: xs, k + 1 => unsigned 20 x + 2 ^ 20 * packSamples xs k

/-- Bytes go into a ring of `size` bytes at `pos`, and go on at its start. -/
def State.putRing (s : State) (base size pos : Nat) (bs : List Byte) : State :=
  let head := bs.take (size - pos)
  (s.putChunks (base + pos) head).putChunks base (bs.drop (size - pos))

/-- CAPTURE_RECORD_COMMIT: the oldest ended record whose last sample has reached the engine is in HBM. -/
def State.capCommit (s : State) (p : Nat) (samples : List Int) : State :=
  let s := s.capSettle p (s.dial + 1)
  let x := s.cap p
  match x.done with
  | [] => s
  | r :: rs =>
    if s.dial + 1 < r.endTick + 307 then s
    else
      let units := unitsOf r.cnt
      let s := s.setCap p { x with done := rs }
      if r.gen ≠ x.gen then s
      else
        let s := s.putRing x.base (64 * x.ring) (64 * r.at') (leBytes (64 * units) (s.capHeader p r + 2 ^ 512 * packSamples (samples.mapIdx fun k x => s.adcWord p (r.tick k) x) r.cnt))
        (s.wr (R.capWr_cap_wr p) ((r.at' + units) % x.ring)).fireS p 17

def execCaptureRecordCommit (t port : Nat) (samples : List Int) (s : State) : Host.Outcome State Fault Refusal :=
  let s := s.at t
  if s.awake then .next (s.capCommit port samples) else .next s

/-- CAPTURE_FALL_BEHIND: a port in compatibility mode is more than 32 KiB behind its reservation (R301). -/
def State.capBehind (s : State) (p : Nat) : State :=
  let s := s.capSettle p (s.dial + 1)
  let x := s.cap p
  if s.capState p = cIDLE ∨ x.compat = false then s
  else
    match x.cur with
    | none => s.setCap p { x with dec := min 3 (x.dec + 1) }
    | some r =>
      let got := (List.range r.cnt).countP fun k => decide (r.tick k ≤ s.dial)
      if r.half.isSome ∨ x.dec = 3 then s.capEnd p { r with cnt := got, trunc := true } (some 4)
      else (s.setCap p { x with cur := some { r with half := some got }, dec := x.dec + 1 }).setF (R.capPstat_halved p)

def execCaptureFallBehind (t port : Nat) (s : State) : Host.Outcome State Fault Refusal :=
  let s := s.at t
  if s.isGreen then .next (s.capBehind port) else .next s

/-- The basic level (R302). The E fields for which it names no value (`w_in`, `s_in`, `w_min`, `w_max`, `s_min`, `s_max`) keep their
last ones (DESIGN CHOICE, log 59). -/
def State.deriveCap (s : State) : State :=
  if s.rd R.capCtl_level = 1 then s
  else
    (List.range 64).foldl
      (fun s p =>
        let b := s.ard (R.capThB_th_b p)
        let s := (s.both (R.capThA_th_a p) (b / 2)).both (R.capHyst_hyst p) (b / 16)
        let s := ((s.both (R.capTrig_en_width p) 0).both (R.capTrig_en_runt p) 0).both (R.capTrig_en_slew p) 0
        (s.both (R.capTrig_dec p) 0).both (R.capShare_share p) 0x40)
      (s.both R.capCtl_compat 0)

end Sys2Proof.Machine
end

