-- ==== Sys2Proof/Machine/Readout.lean ====
section
/-! DEFINITION. Readout: windows, kernels, accumulators, discrimination, result rings and trailers (R180 to R207, R524). -/

namespace Sys2Proof.Machine

/-! ### Grids (R181, R185) -/

/-- The smallest m with 32m − 30 ≥ x. -/
def firstM (x : Nat) : Nat := ceilDiv (x + 30) 32

/-- The last decimated sample whose last ADC sample stands before tick x (at the ball). -/
def lastBefore (x : Nat) : Nat := (x - 1) / 32

/-! ### Mixing, decimation, weights (R182 to R189) -/

/-- θ(t) of R182. -/
def laneTheta (f poff t : Nat) : Nat := (f * t % 2 ^ 48 / 2 ^ 28 + poff) % 2 ^ 20

/-- One mixed sample (R183). -/
def mix (f poff t : Nat) (x : Int) : Int × Int :=
  let θ := laneTheta f poff t
  (mul20 x (cosCode θ), satw 20 (crnd (-(x * sinCode θ)) 19))

/-- d_m: the mean of sixteen mixed samples (R184). `xs` holds the words from decimated sample `base` on. -/
def decim (f poff base : Nat) (xs : List Int) (m : Nat) : Int × Int :=
  let l := (List.range 16).map fun k => mix f poff (tFirst m + 2 * k) (satw 20 (xs.getD (16 * (m - base) + k) 0))
  (crnd ((l.map (·.1)).foldl (· + ·) 0) 4, crnd ((l.map (·.2)).foldl (· + ·) 0) 4)

/-- A kernel weight with its error mark. -/
def State.kernWord (s : State) (n i : Nat) : Mem1 := SMap.get ⟨0, 0⟩ s.kern (n * 32768 + i)

/-- The weight number of decimated sample `i` of a window (R188). -/
def weightNo (stride i : Nat) : Nat := min (i / 2 ^ stride) 4095

/-- The weight itself; a double-bit error reads as zero (R191). -/
def State.weight (s : State) (n : Nat) (w : OpenWin) (i : Nat) : Int × Int :=
  if w.w.kEn then
    let k := s.kernWord n ((w.kBase + weightNo w.w.stride i) % 32768)
    if 2 ≤ k.mark then (0, 0) else cplx k.data
  else (0x7FFFF, 0)

/-- The weights that a window reads, each once. -/
def weightsRead (w : OpenWin) : List Nat :=
  if w.w.kEn ∧ w.first ≤ w.last then
    (List.range (weightNo w.w.stride (w.last - w.w.mFirst) + 1)).filter fun k => decide (weightNo w.w.stride (w.first - w.w.mFirst) ≤ k)
  else []

/-- One step of the accumulators (R189). -/
def accStep (a d k : Int × Int) : Int × Int :=
  (a.1 + crnd (d.1 * k.1 - d.2 * k.2) 2, a.2 + crnd (d.1 * k.2 + d.2 * k.1) 2)

/-- The accumulators at the window's end. -/
def State.accumulate (s : State) (n : Nat) (w : OpenWin) (xs : List Int) : Int × Int :=
  (List.range (w.last + 1 - w.first)).foldl
    (fun a j => accStep a (decim w.freq w.poff w.first xs (w.first + j)) (s.weight n w (w.first + j - w.w.mFirst))) (0, 0)

/-! ### Discrimination (R192) -/

def discriminate (lines : List Int) (vmap : Nat) (i q : Int) : Nat :=
  let l0 := if lines.getD 0 0 * i + lines.getD 1 0 * q > lines.getD 2 0 then 1 else 0
  let l1 := if lines.getD 3 0 * i + lines.getD 4 0 * q > lines.getD 5 0 then 1 else 0
  vmap / 2 ^ (2 * (2 * l1 + l0)) % 4

/-! ### Records (R198 to R201) -/

/-- The result of a window. -/
structure WinRes where
  i : Int
  q : Int
  verdict : Nat
  ovr : Bool
  rsat : Bool
  kecc : Bool
  kclamp : Bool

def flagBit (b : Bool) (i : Nat) : Nat := if b then 2 ^ i else 0

def recordBits (r : WinRes) (tLast : Nat) (trunc void : Bool) (set prof lane : Nat) : Nat :=
  unsigned 32 r.i + unsigned 32 r.q * 2 ^ 32 + tLast % 2 ^ 40 * 2 ^ 64 + r.verdict * 2 ^ 104 + flagBit r.ovr 106 + flagBit trunc 107 +
    flagBit void 108 + flagBit r.rsat 109 + flagBit r.kecc 110 + flagBit r.kclamp 111 + set * 2 ^ 112 + prof * 2 ^ 120 + lane * 2 ^ 124

def trailerBits (x : Shot) : Nat :=
  x.num % 2 ^ 32 + x.s % 2 ^ 40 * 2 ^ 32 + min x.recs 0xFFFF * 2 ^ 72 + flagBit x.invalid 88 + flagBit x.lost 89 + 2 ^ 127

/-- Records wait in the order of their `t_last`, then of their lanes; a trailer (lane 8) after the records of its time. -/
def insertRec (r : RecQ) : List RecQ → List RecQ
  | [] => [r]
  | x :: xs => if r.tLast < x.tLast ∨ (r.tLast = x.tLast ∧ r.lane < x.lane) then r :: x :: xs else x :: insertRec r xs

def State.editShot (s : State) (n : Nat) (k : Option Nat) (f : Shot → Shot) : State :=
  match k with
  | none => s
  | some k => s.setSeq n { s.seq n with shots := Machine.editShot k f (s.seq n).shots }

/-- A record is lost (R201). A trailer's loss marks its own shot, which is already counted. -/
def State.loseRec (s : State) (n : Nat) (r : RecQ) : State :=
  let s := (s.inc (R.rdResLost_res_lost n)).combFlag (R.rdStatus_res_drop n) n 13
  if r.bits.testBit 127 then
    let s := if s.rd (R.seqShots_shot_count n) = r.bits % 2 ^ 32 then s.wr (R.seqStatus_shot_invalid n) 1 else s
    if r.bits.testBit 88 then s.fireS n 4 else (s.inc (R.seqInvalid_invalid_count n)).fireS n 4
  else (s.editShot n r.shot fun x => { x with lost := true }).markShot n r.shot

/-- A record enters the write buffer of 256. -/
def State.queueRec (s : State) (n : Nat) (r : RecQ) : State :=
  if 256 ≤ (s.comb n).recs.length then s.loseRec n r
  else s.setComb n { s.comb n with recs := insertRec r (s.comb n).recs }

/-! ### Opening a window (R185, R186, R196, R197) -/

def State.laneNo (n c : Nat) : Nat := 8 * n + c

/-- The words of the lanes' frequencies and phases and of the profiles of Comb n. -/
def isLaneKey (n k : Nat) : Bool :=
  let o := k / 32 - (0x100000 + 0x4000 * n)
  decide (0x100000 + 0x4000 * n ≤ k / 32) && (decide (0xC40 ≤ o ∧ o < 0xCC0) || decide (0x2000 ≤ o ∧ o < 0x4000))

/-- The active lane and profile fields of Comb n at tick t: the present ones, or those that a later beat has replaced (R186). -/
def State.laneFields (s : State) (n t : Nat) : List (Nat × Nat) :=
  match ((s.comb n).old.filter fun e => decide (t < e.1)).getLast? with
  | some e => e.2
  | none => s.act

/-- What a window latches at its first sample, at tick t. -/
def State.openWin (s : State) (n c : Nat) (w : Win) (t : Nat) : OpenWin :=
  let f := w.prof
  let act := s.laneFields n t
  let v := fun (x : Fld) => SMap.get x.reset act x.key
  { w := w
    freq := v (R.rdLaneFLo_f_lo n c) + v (R.rdLaneFHi_f_hi n c) * 2 ^ 32
    poff := v (R.rdLanePh_lane_poff n c)
    kBase := v (R.rdPrfKb_k_base n c f)
    lines :=
      [signed 16 (v (R.rdPrfAb0_a0 n c f)), signed 16 (v (R.rdPrfAb0_b0 n c f)),
       signed 48 (v (R.rdPrfC0Lo_c0_lo n c f) + v (R.rdPrfC0Hi_c0_hi n c f) * 2 ^ 32),
       signed 16 (v (R.rdPrfAb1_a1 n c f)), signed 16 (v (R.rdPrfAb1_b1 n c f)),
       signed 48 (v (R.rdPrfC1Lo_c1_lo n c f) + v (R.rdPrfC1Hi_c1_hi n c f) * 2 ^ 32)]
    vmap := v (R.rdPrfMap_vmap n c f)
    first := w.mFirst
    last := match w.cut with | some m => min m (w.mFirst + w.count - 1) | none => w.mFirst + w.count - 1
    trunc := w.cut.isSome
    force3 := false
    silent := w.cut.isSome
    pubTime := none }

/-- A window that never opens: the record of R196. -/
def State.voidWin (s : State) (n c : Nat) (w : Win) : State :=
  let t := 32 * (w.mFirst + w.count - 1)
  let s := s.noteEnd n w.iss.shot (t + 1)
  if w.record then s.queueRec n ⟨t, c, recordBits ⟨0, 0, 0, false, false, false, false⟩ t false true w.set w.prof c, w.iss.shot⟩ else s

/-- The window of a lane that opens next: the earliest first sample, on a tie the MEAS later in program order. -/
def nextWin : List Win → Option Win
  | [] => none
  | w :: ws =>
    match nextWin ws with
    | none => some w
    | some v => if w.mFirst < v.mFirst ∨ (w.mFirst = v.mFirst ∧ v.iss.ord < w.iss.ord) then some w else some v

/-- The open window of the lane ends before decimated sample `m` of window `w`, or has ended there already; one with the same first
sample has never opened (R196). -/
def State.overtake (s : State) (n c m : Nat) (w : Win) : State :=
  let x := s.lane (8 * n + c)
  match x.cur with
  | none => s
  | some o =>
    if o.w.mFirst = w.mFirst then (s.setLane (8 * n + c) { x with cur := none }).voidWin n c o.w
    else if o.last < m then s.setLane (8 * n + c) { x with cur := none, ending := x.ending ++ [o] }
    else
      let o' := { o with last := m - 1, trunc := true, force3 := true, pubTime := some (tFirst m - 32) }
      let s := s.setLane (8 * n + c) { x with cur := none, ending := x.ending ++ [o'] }
      (s.combFlag (R.rdStatus_win_overlap n) n 13).markShot n o.w.iss.shot

/-- The first decimated sample that a window set up at Dial value `d` can take: its first ADC sample reaches the lane no
earlier (R180). -/
def firstTaken (mFirst d : Nat) : Nat := max mFirst (firstM (d - 307))

/-- The lane opens its next window. One whose set-up came late starts with the first sample that it can take, and latches there
(R186, R197; DEDUCED, log 61). -/
def State.windowOpen (s : State) (n c : Nat) (w : Win) : State :=
  let g := 8 * n + c
  let x := s.lane g
  let same := x.wins.filter fun v => decide (v.mFirst = w.mFirst) && decide (v ≠ w)
  let s := s.setLane g { x with wins := x.wins.filter fun v => decide (v.mFirst ≠ w.mFirst) }
  let s := same.foldl (fun s v => s.voidWin n c v) s
  let m := firstTaken w.mFirst w.iss.arr
  let o := s.openWin n c w (tFirst m)
  let s := s.overtake n c m w
  let late := decide (w.mFirst < m)
  let o := if late then { o with first := m, trunc := true, force3 := true } else o
  let s := if late then s.setF (R.rdStatus_win_late n) else s
  s.setLane g { s.lane g with cur := some o }

/-- The windows of a lane whose first sample lies before tick b open, `fuel` of them at most. -/
def State.openBefore (s : State) (n c b : Nat) : Nat → State
  | 0 => s
  | fuel + 1 =>
    match nextWin (s.lane (8 * n + c)).wins with
    | none => s
    | some w => if tFirst w.mFirst < b then State.openBefore (s.windowOpen n c w) n c b fuel else s

/-- Lane and profile fields of Comb n are to change at beat b: windows that began before have latched the old ones, and a MEAS that
issues a window for a tick before b still finds them (R186). -/
def State.keepLanes (s : State) (n b : Nat) : State :=
  if (s.comb n).old.any fun e => decide (e.1 = b) then s
  else
    let s := (List.range 8).foldl (fun s c => s.openBefore n c b (s.lane (8 * n + c)).wins.length) s
    s.setComb n
      { s.comb n with
        old := (b, s.act.filter fun e => isLaneKey n e.1) :: (s.comb n).old.filter fun e => decide (s.dial ≤ e.1 + 1024) }

/-- WINDOW_OPEN: the first sample of a window issued for lane c has come. -/
def execWindowOpen (t n c : Nat) (s : State) : Host.Outcome State Fault Refusal :=
  let s := s.at t
  match nextWin (s.lane (8 * n + c)).wins with
  | none => .next s
  | some w => if s.converting ∧ tFirst w.mFirst ≤ s.dial then .next (s.windowOpen n c w) else .next s

/-! ### Closing a window (R190 to R195) -/

/-- Result and flags of a window with the words it took. -/
def State.winResult (s : State) (n : Nat) (o : OpenWin) (xs : List Int) : WinRes :=
  let a := s.accumulate n o xs
  let i := crnd a.1 o.w.shift
  let q := crnd a.2 o.w.shift
  let ovr := decide (o.first ≤ o.last) && s.ovrIn n (tFirst o.first) (32 * o.last)
  let kecc := (weightsRead o).any fun k => decide (2 ≤ (s.kernWord n ((o.kBase + k) % 32768)).mark)
  let forced := o.force3 || kecc || (ovr && decide (s.rd (R.rdCtl_ovr_unsure n) = 1))
  { i := satw 32 i, q := satw 32 q,
    verdict := if forced then 3 else discriminate o.lines o.vmap (satw 32 i) (satw 32 q),
    ovr := ovr, rsat := decide (satw 32 i ≠ i ∨ satw 32 q ≠ q), kecc := kecc,
    kclamp := o.w.kEn && decide (4096 < ceilDiv o.w.count (2 ^ o.w.stride)) }

def State.setIf (s : State) (b : Bool) (f : Fld) : State := if b then s.setF f else s

/-- The window's result is formed, recorded and published. -/
def State.windowResult (s : State) (n c : Nat) (o : OpenWin) (xs : List Int) : State :=
  let r := s.winResult n o (s.adcWords n (tFirst o.first) 2 xs)
  let t := 32 * o.last
  let s := s.noteEnd n o.w.iss.shot (t + 1)
  let fixes := ((weightsRead o).filter fun k => decide ((s.kernWord n ((o.kBase + k) % 32768)).mark = 1)).length
  let s := s.wr (R.seqEcc2_kern_fix n) (min 0xFFFF (s.rd (R.seqEcc2_kern_fix n) + fixes))
  let s := ((s.setIf r.rsat (R.rdStatus_rsat n)).setIf r.ovr (R.rdStatus_ovr n)).setIf r.kclamp (R.rdStatus_kclamp n)
  let s := if r.kecc then (s.combFlag (R.rdStatus_kecc n) n 13).markShot n o.w.iss.shot else s
  let s := s.wr (R.rdLaneStatus_last_v n c) r.verdict
  let s :=
    match o.w.pub with
    | some slot =>
      if o.silent then s
      else { s with dec := { s.dec with pubs := s.dec.pubs ++ [⟨slot, r.verdict, o.pubTime.getD t % 2 ^ 40, s.dial, n, true, o.w.iss⟩] } }
    | none => s
  if o.w.record then s.queueRec n ⟨t, c, recordBits r t o.trunc false o.w.set o.w.prof c, o.w.iss.shot⟩ else s

/-- WINDOW_CLOSE: the last sample of the lane's earliest unfinished window has reached the lane. `samples` are the core values of
INn's ADC from the window's first sample on. -/
def execWindowClose (t n c : Nat) (samples : List Int) (s : State) : Host.Outcome State Fault Refusal :=
  let s := s.at t
  let g := 8 * n + c
  match (s.lane g).ending with
  | o :: os =>
    if 32 * o.last + 307 ≤ s.dial ∧ s.awake then .next ((s.setLane g { s.lane g with ending := os }).windowResult n c o samples)
    else .next s
  | [] =>
    match (s.lane g).cur with
    | none => .next s
    | some o =>
      if 32 * o.last + 307 ≤ s.dial ∧ s.awake then .next ((s.setLane g { s.lane g with cur := none }).windowResult n c o samples)
      else .next s

/-- `open` of a lane, in lane time (R205). -/
def State.laneOpen (s : State) (n c : Nat) : Bool :=
  match (s.lane (8 * n + c)).cur with
  | none => false
  | some o => decide (tFirst o.first + 307 ≤ s.dial) && decide (s.dial ≤ 32 * o.last + 307)

/-! ### Windows that end early (R165, R166, R197) -/

/-- Windows of lane g that `pick` names and whose first sample lies before tick `upto` end with decimated sample `m` at the
latest. -/
def State.cutLane (s : State) (m upto : Nat) (pick : Issue → Bool) (g : Nat) : State :=
  let x := s.lane g
  let cut := fun (o : OpenWin) => if pick o.w.iss ∧ m < o.last then { o with last := m, trunc := true, silent := true } else o
  s.setLane g
    { wins := x.wins.map fun w => if pick w.iss ∧ tFirst w.mFirst < upto ∧ m < w.mFirst + w.count - 1 then { w with cut := some m } else w
      cur := x.cur.map cut
      ending := x.ending.map cut }

def State.cutComb (s : State) (n m upto : Nat) (pick : Issue → Bool) : State :=
  (List.range 8).foldl (fun s c => s.cutLane m upto pick (8 * n + c)) s

/-- Leaving Green, or MUTE_N low: open windows end with the last decimated sample whose ball tick is not after the
detection (R197). -/
def State.cutOpen (s : State) : State := (List.range 64).foldl (fun s n => s.cutComb n (s.dial / 32) (s.dial + 1) fun _ => true) s

/-! ### The result writer (R200 to R202) -/

/-- R of R201. -/
def State.ringSize (s : State) (n : Nat) : Nat := max 1 (s.ard (R.rdResSize_res_size n)) * 256

/-- The active rings lie wholly inside region 3 and do not overlap (R201). -/
def State.ringBad (s : State) (n : Nat) : Bool :=
  let lo := fun k => s.ard (R.rdResBase_res_base k)
  let hi := fun k => s.ard (R.rdResBase_res_base k) + max 1 (s.ard (R.rdResSize_res_size k))
  decide (s.rgnBytes 3 < hi n * 4096) || (List.range 64).any fun k => decide (k ≠ n) && decide (lo k < hi n) && decide (lo n < hi k)

def State.checkRings (s : State) : State :=
  (List.range 64).foldl (fun s n => s.wr (R.rdStatus_ring_bad n) (if s.ringBad n then 1 else 0)) s

/-- An activation of a Comb's ring, of the same values too, refers to the region where it starts now (R350). -/
def State.latchRing (s : State) (n : Nat) : State := if (s.comb n).resStart = s.rgnStart 3 then s else s.setComb n { s.comb n with resStart := s.rgnStart 3 }

/-- A new base or size is active (R201). -/
def State.newRing (s : State) (n : Nat) : State :=
  ((s.wr (R.rdResWr_res_wr n) 0).wr (R.rdResRd_res_rd n) 0).setComb n { s.comb n with half := 0, resStart := s.rgnStart 3 }

/-- An unfinished or waiting window of the Comb whose record comes before a time and lane (R200). -/
def State.earlierRec (s : State) (n tLast lane : Nat) : Bool :=
  (List.range 8).any fun c =>
    let x := s.lane (8 * n + c)
    let before := fun (r : Bool) (m : Nat) => r && (decide (32 * m < tLast) || (decide (32 * m = tLast) && decide (c < lane)))
    x.wins.any (fun w => before w.record (w.mFirst + w.count - 1)) || x.ending.any (fun o => before o.w.record o.last) ||
      (match x.cur with | some o => before o.w.record o.last | none => false)

/-- A record or trailer goes into the ring as a write of its whole chunk (R201). -/
def State.writeRec (s : State) (n : Nat) (r : RecQ) : State :=
  let w := s.rd (R.rdResWr_res_wr n)
  let a := (s.comb n).resStart + s.ard (R.rdResBase_res_base n) * 4096 + w / 2 * 32
  let bs := if w % 2 = 0 then leBytes 16 r.bits ++ leBytes 16 0 else leBytes 16 (s.comb n).half ++ leBytes 16 r.bits
  let s := (s.putChunks a bs).setComb n { s.comb n with half := r.bits }
  let s := s.wr (R.rdResWr_res_wr n) ((w + 1) % s.ringSize n)
  if r.bits.testBit 127 then s else s.editShot n r.shot fun x => { x with recs := x.recs + 1 }

def State.drainRec (s : State) (n : Nat) (r : RecQ) (rs : List RecQ) : State :=
  let s := s.setComb n { s.comb n with recs := rs }
  if s.flag (R.rdStatus_ring_bad n) ∨ (s.rd (R.rdResWr_res_wr n) + 1) % s.ringSize n = s.rd (R.rdResRd_res_rd n) then s.loseRec n r
  else s.writeRec n r

/-- RESULT_RECORD_WRITE: the oldest waiting record, once none before it can still come. -/
def execResultRecordWrite (t n : Nat) (s : State) : Host.Outcome State Fault Refusal :=
  let s := s.at t
  match (s.comb n).recs with
  | [] => .next s
  | r :: rs => if s.awake ∧ s.earlierRec n r.tLast r.lane = false then .next (s.drainRec n r rs) else .next s

/-! ### Trailers (R199, R524) -/

/-- Everything that a step of shot k issued is over, so that no mark can still come. -/
def State.shotSettled (s : State) (n k : Nat) : Bool :=
  let q := s.seq n
  let mine := fun (i : Issue) => decide (i.shot = some k)
  (List.range 8).all (fun c =>
    let x := s.cell (8 * n + c)
    let l := s.lane (8 * n + c)
    !(match x.play with | some p => mine p.1.iss | none => false) && x.waiting.all (fun p => !mine p.iss) && x.acts.all (fun a => !mine a.iss) &&
      l.wins.all (fun w => !mine w.iss) && l.ending.all (fun o => !mine o.w.iss) &&
      !(match l.cur with | some o => mine o.w.iss | none => false)) &&
    (List.range 4).all (fun b => (SMap.get BiasSt.init s.bias (4 * n + b)).fluxes.all fun f => !mine f.iss) &&
    (s.comb n).specs.all (fun x => !mine x.iss || x.way.isSome) && (s.comb n).recs.all (fun r => decide (r.shot ≠ some k)) &&
    q.checks.all (fun c => decide (c.shot ≠ some k)) && q.faults.all (fun f => decide (f.shot ≠ some k)) &&
    (SMap.get MarkSt.init s.mkrs n).edges.all (fun e => match e.iss with | some i => !mine i | none => true) &&
    s.dec.pubs.all (fun p => decide (p.comb ≠ n) || !mine p.iss)

/-- The shots of sequencer n that are over, with everything in them settled: of these the one that ended first (shots that
overlap need not end in their order; DEDUCED, log 22). -/
def State.shotDone (s : State) (n : Nat) : Option (Shot × Nat) :=
  (s.seq n).shots.foldr
    (fun x acc =>
      match s.shotE n x with
      | none => acc
      | some e =>
        if e ≤ s.dial ∧ s.shotSettled n x.num ∧ (match acc with | some y => decide (e < y.2) | none => true) = true then some (x, e) else acc)
    none

def State.shotTrailer (s : State) (n : Nat) (x : Shot) (e : Nat) : State :=
  let q := s.seq n
  let s := s.setSeq n { q with shots := q.shots.filter fun y => decide (y.num ≠ x.num), lastE := max q.lastE e }
  let s := if x.invalid then s.inc (R.seqInvalid_invalid_count n) else s
  s.queueRec n ⟨e, 8, trailerBits x, none⟩

/-- SHOT_TRAILER: a finished shot's trailer is queued and the shot counted. -/
def execShotTrailer (t n : Nat) (s : State) : Host.Outcome State Fault Refusal :=
  let s := (s.at t).settleNow n
  match s.shotDone n with
  | none => .next s
  | some (x, e) =>
    let low := decide (s.svc.muteHigh = false ∧ s.svc.muteAt < e ∧ x.invalid = false)
    let s := if low then s.markShot n (some x.num) else s
    if s.awake then .next ((s.tellShots n).shotTrailer n { x with invalid := x.invalid || low } e) else .next s

/-! ### The basic level (R203) -/

/-- The smallest stride of at most 16 that keeps ⌈N / 2^s⌉ within 4,096. -/
def strideOf (count : Nat) : Nat := ((List.range 17).find? fun k => decide (ceilDiv count (2 ^ k) ≤ 4096)).getD 16

/-- The smallest k with x ≤ 2^k. -/
def log2Up (x : Nat) : Nat := ((List.range 64).find? fun k => decide (x ≤ 2 ^ k)).getD 64

def State.deriveSet (s : State) (n x : Nat) : State :=
  let count := s.ard (R.rdWinLen_win_len n x) + 1
  (s.both (R.rdWinLen_k_stride n x) (strideOf count)).both (R.rdWinLen_res_shift n x) (log2Up count + 6)

/-- σ of R203. -/
def sigmaOf (a b : Int) : Nat :=
  let fits := fun (k : Nat) (x : Int) => decide (-(2 ^ (15 + k)) ≤ x) && decide (x < 2 ^ (15 + k))
  ((List.range 40).find? fun k => fits k a && fits k b).getD 40

def State.deriveProf (s : State) (n c f : Nat) : State :=
  let i0 := signed 32 (s.ard (R.rdPrfC0i_ctr0_i n c f))
  let q0 := signed 32 (s.ard (R.rdPrfC0q_ctr0_q n c f))
  let i1 := signed 32 (s.ard (R.rdPrfC1i_ctr1_i n c f))
  let q1 := signed 32 (s.ard (R.rdPrfC1q_ctr1_q n c f))
  let σ := sigmaOf (i1 - i0) (q1 - q0)
  let a := (i1 - i0) / 2 ^ σ
  let b := (q1 - q0) / 2 ^ σ
  let p0 := a * i0 + b * q0
  let p1 := a * i1 + b * q1
  let m := (p0 + p1) / 2
  let d := (p1 - p0) * (s.ard (R.rdPrfBand_band n c f) : Nat) / 512
  let c0 := unsigned 48 (m - d)
  let c1 := unsigned 48 (m + d)
  let s := ((s.both (R.rdPrfAb0_a0 n c f) (unsigned 16 a)).both (R.rdPrfAb0_b0 n c f) (unsigned 16 b))
  let s := ((s.both (R.rdPrfAb1_a1 n c f) (unsigned 16 a)).both (R.rdPrfAb1_b1 n c f) (unsigned 16 b))
  let s := ((s.both (R.rdPrfC0Lo_c0_lo n c f) (c0 % 2 ^ 32)).both (R.rdPrfC0Hi_c0_hi n c f) (c0 / 2 ^ 32))
  let s := ((s.both (R.rdPrfC1Lo_c1_lo n c f) (c1 % 2 ^ 32)).both (R.rdPrfC1Hi_c1_hi n c f) (c1 / 2 ^ 32))
  s.both (R.rdPrfMap_vmap n c f) 0x7C

def State.deriveReadout (s : State) (n : Nat) : State :=
  if s.rd (R.rdCtl_level n) = 1 then s
  else
    let s := (List.range 256).foldl (fun s x => s.deriveSet n x) s
    (List.range 128).foldl (fun s k => s.deriveProf n (k / 16) (k % 16)) s

end Sys2Proof.Machine
end

