-- ==== Sys2Proof/Machine/RegTable.lean ====
section
/-! DEFINITION. The register tables of spec/ as data, for the host's accesses: for each block its words, with the place,
type (R3), level (R4) and reset value of every field, reserved fields among them. -/

namespace Sys2Proof.Machine

def T.hive0 : List WordDef :=
  [
   -- `HIVE_ID`, R22
   ⟨0, [], .none, [⟨0, 8, .rsv, 0, .none, true⟩, ⟨8, 8, .ro, 1, .none, false⟩, ⟨16, 16, .ro, 0x5120, .none, false⟩]⟩,
   -- `HIVE_STATE`, R23
   ⟨4, [], .none, [⟨0, 2, .ro, 1, .none, false⟩, ⟨2, 1, .ro, 1, .none, false⟩, ⟨3, 1, .ro, 0, .none, false⟩, ⟨4, 4, .ro, 0, .none, false⟩, ⟨8, 24, .rsv, 0, .none, true⟩]⟩,
   -- `HIVE_SVC_CTL`, R24
   ⟨8, [], .none, [⟨0, 1, .rw, 0, .none, false⟩, ⟨1, 1, .rw, 0, .none, true⟩, ⟨2, 30, .rsv, 0, .none, true⟩]⟩,
   -- `HIVE_UPDATE`, R55
   ⟨0x10, [], .none, [⟨0, 32, .w1, 0, .none, false⟩]⟩,
   -- `HIVE_UPD_AT_MASK`, R55
   ⟨0x14, [], .none, [⟨0, 32, .rw, 0, .none, false⟩]⟩,
   -- `HIVE_UPD_AT_LO`, R55
   ⟨0x18, [], .none, [⟨0, 32, .rw, 0, .none, false⟩]⟩,
   -- `HIVE_UPD_AT_HI`, R55
   ⟨0x1c, [], .none, [⟨0, 8, .rw, 0, .none, false⟩, ⟨8, 24, .rsv, 0, .none, true⟩]⟩,
   -- `HIVE_UPD_AT_CTL`, R55
   ⟨0x20, [], .none, [⟨0, 1, .w1, 0, .none, false⟩, ⟨1, 1, .w1, 0, .none, false⟩, ⟨2, 1, .ro, 0, .none, false⟩, ⟨3, 1, .rc, 0, .none, false⟩, ⟨4, 4, .rsv, 0, .none, true⟩, ⟨8, 8, .ro, 0, .none, false⟩, ⟨16, 16, .rsv, 0, .none, true⟩]⟩]

def T.hive1 : List WordDef :=
  [
   -- `DEC_CTL`, R232
   ⟨0x100, [], .dec, [⟨0, 1, .rw, 0, .none, false⟩, ⟨1, 1, .w1, 0, .none, false⟩, ⟨2, 6, .rsv, 0, .none, true⟩, ⟨8, 8, .ro, 0, .none, false⟩, ⟨16, 5, .rw, 0x1f, .none, false⟩, ⟨21, 11, .rsv, 0, .none, true⟩]⟩,
   -- `DEC_HORIZON`, R232
   ⟨0x104, [], .none, [⟨0, 16, .cfg, 0x800, .none, false⟩, ⟨16, 16, .rsv, 0, .none, true⟩]⟩,
   -- `DEC_STATUS`, R232
   ⟨0x108, [], .none, [⟨0, 1, .rc, 0, .none, false⟩, ⟨1, 1, .rc, 0, .none, false⟩, ⟨2, 1, .rc, 0, .none, false⟩, ⟨3, 1, .rc, 0, .none, false⟩, ⟨4, 1, .rc, 0, .none, false⟩, ⟨5, 1, .rc, 0, .none, false⟩, ⟨6, 1, .rc, 0, .none, false⟩, ⟨7, 1, .rc, 0, .none, false⟩, ⟨8, 1, .rc, 0, .none, false⟩, ⟨9, 23, .rsv, 0, .none, true⟩]⟩,
   -- `DEC_LATE`, R232
   ⟨0x10c, [], .none, [⟨0, 32, .ro, 0, .none, false⟩]⟩,
   -- `DEC_DROP`, R232
   ⟨0x110, [], .none, [⟨0, 32, .ro, 0, .none, false⟩]⟩,
   -- `DEC_USE`, R232
   ⟨0x114, [], .none, [⟨0, 11, .ro, 0, .none, false⟩, ⟨11, 5, .rsv, 0, .none, true⟩, ⟨16, 12, .ro, 0, .none, false⟩, ⟨28, 4, .rsv, 0, .none, true⟩]⟩,
   -- `DEC_PIN`, R233
   ⟨0x200, [(64, 4)], .dec, [⟨0, 20, .cfg, 0, .none, true⟩, ⟨20, 1, .cfg, 0, .none, true⟩, ⟨21, 11, .rsv, 0, .none, true⟩]⟩,
   -- `DEC_RC_LO`, R234
   ⟨0x4000, [(1024, 8)], .none, [⟨0, 20, .ro, 0, .none, false⟩, ⟨20, 2, .ro, 0, .none, false⟩, ⟨22, 1, .ro, 0, .none, false⟩, ⟨23, 1, .ro, 0, .none, false⟩, ⟨24, 8, .ro, 0, .none, false⟩]⟩]

def T.hive2 : List WordDef :=
  [
   -- `DEC_RC_HI`, R234
   ⟨0x4004, [(1024, 8)], .none, [⟨0, 32, .ro, 0, .none, false⟩]⟩,
   -- `DEC_SLOT_LO`, R234
   ⟨0x8000, [(4096, 8)], .none, [⟨0, 2, .ro, 0, .none, false⟩, ⟨2, 1, .ro, 0, .none, false⟩, ⟨3, 5, .rsv, 0, .none, true⟩, ⟨8, 8, .ro, 0, .none, false⟩, ⟨16, 16, .rsv, 0, .none, true⟩]⟩,
   -- `DEC_SLOT_HI`, R234
   ⟨0x8004, [(4096, 8)], .none, [⟨0, 32, .ro, 0, .none, false⟩]⟩]

/-- Every word of the block or space hive. -/
def T.hive : List WordDef := T.hive0 ++ T.hive1 ++ T.hive2

def T.host0 : List WordDef :=
  [
   -- `HOST_ACC_STATUS`, R36
   ⟨4, [], .none, [⟨0, 1, .rc, 0, .none, false⟩, ⟨1, 1, .rc, 0, .none, false⟩, ⟨2, 1, .rc, 0, .none, false⟩, ⟨3, 1, .rc, 0, .none, false⟩, ⟨4, 1, .rc, 0, .none, false⟩, ⟨5, 1, .rc, 0, .none, false⟩, ⟨6, 1, .rc, 0, .none, false⟩, ⟨7, 25, .rsv, 0, .none, true⟩]⟩,
   -- `HOST_ACC_ADDR`, R37
   ⟨8, [], .none, [⟨0, 32, .ro, 0, .none, false⟩]⟩,
   -- `HOST_EVT_SUMMARY`, R58
   ⟨0xc, [], .none, [⟨0, 1, .rc, 0, .none, false⟩, ⟨1, 1, .rc, 0, .none, false⟩, ⟨2, 1, .rc, 0, .none, false⟩, ⟨3, 1, .rc, 0, .none, false⟩, ⟨4, 1, .rc, 0, .none, false⟩, ⟨5, 1, .rc, 0, .none, false⟩, ⟨6, 1, .rc, 0, .none, false⟩, ⟨7, 1, .rc, 0, .none, false⟩, ⟨8, 24, .rsv, 0, .none, true⟩]⟩,
   -- `HOST_EVT_MASK`, R59
   ⟨0x10, [], .none, [⟨0, 8, .rw, 0xff, .none, false⟩, ⟨8, 8, .rw, 0xff, .none, false⟩, ⟨16, 16, .rsv, 0, .none, true⟩]⟩,
   -- `HOST_I3C_CTL`, R59
   ⟨0, [], .none, [⟨0, 7, .ro, 0x2c, .none, false⟩, ⟨7, 1, .ro, 0, .none, false⟩, ⟨8, 7, .ro, 0, .none, false⟩, ⟨15, 1, .rsv, 0, .none, true⟩, ⟨16, 8, .rw, 0xa, .none, true⟩, ⟨24, 8, .rsv, 0, .none, true⟩]⟩,
   -- `HOST_MB_CTR_LO`, R62
   ⟨0x100, [], .none, [⟨0, 32, .rw, 0, .none, false⟩]⟩,
   -- `HOST_MB_CTR_HI`, R62
   ⟨0x104, [], .none, [⟨0, 32, .rw, 0, .none, false⟩]⟩,
   -- `HOST_MB_OP`, R62
   ⟨0x108, [], .none, [⟨0, 16, .rw, 0, .none, false⟩, ⟨16, 8, .rw, 0, .none, false⟩, ⟨24, 8, .rsv, 0, .none, true⟩]⟩]

def T.host1 : List WordDef :=
  [
   -- `HOST_MB_CTL`, R62
   ⟨0x10c, [], .none, [⟨0, 1, .w1, 0, .none, false⟩, ⟨1, 31, .rsv, 0, .none, true⟩]⟩,
   -- `HOST_MB_STATUS`, R62
   ⟨0x110, [], .none, [⟨0, 1, .ro, 0, .none, false⟩, ⟨1, 7, .rsv, 0, .none, true⟩, ⟨8, 8, .ro, 0, .none, false⟩, ⟨16, 16, .ro, 0, .none, false⟩]⟩,
   -- `HOST_MB_LAST_LO`, R62
   ⟨0x114, [], .none, [⟨0, 32, .ro, 0, .none, false⟩]⟩,
   -- `HOST_MB_LAST_HI`, R62
   ⟨0x118, [], .none, [⟨0, 32, .ro, 0, .none, false⟩]⟩,
   -- `HOST_MB_TAG`, R62
   ⟨0x120, [(4, 4)], .none, [⟨0, 32, .rw, 0, .none, false⟩]⟩,
   -- `HOST_MB_ARG`, R62
   ⟨0x140, [(16, 4)], .none, [⟨0, 32, .rw, 0, .none, false⟩]⟩,
   -- `HOST_MB_RESP`, R62
   ⟨0x1000, [(1024, 4)], .none, [⟨0, 32, .ro, 0, .none, false⟩]⟩]

/-- Every word of the block or space host. -/
def T.host : List WordDef := T.host0 ++ T.host1

def T.front0 : List WordDef :=
  [
   -- `FRONT_XADDR`, R44
   ⟨0xff00, [], .none, [⟨0, 24, .rw, 0, .none, false⟩, ⟨24, 8, .rsv, 0, .none, true⟩]⟩,
   -- `FRONT_XDATA`, R44
   ⟨0xff04, [], .none, [⟨0, 32, .rw, 0, .none, false⟩]⟩,
   -- `FRONT_XCTL`, R44
   ⟨0xff08, [], .none, [⟨0, 8, .rw, 1, .none, true⟩, ⟨8, 1, .ro, 0, .none, false⟩, ⟨9, 1, .rw, 1, .none, true⟩, ⟨10, 1, .rw, 1, .none, true⟩, ⟨11, 5, .rsv, 0, .none, true⟩, ⟨16, 8, .rc, 0, .none, false⟩, ⟨24, 4, .ro, 0, .none, false⟩, ⟨28, 4, .rsv, 0, .none, true⟩]⟩,
   -- `FRONT_CTL`, R278
   ⟨0, [], .front, [⟨0, 1, .rw, 0, .none, false⟩, ⟨1, 7, .rsv, 0, .none, true⟩, ⟨8, 5, .rw, 0, .dom16, false⟩, ⟨13, 19, .rsv, 0, .none, true⟩]⟩,
   -- `FRONT_OVR`, R278
   ⟨4, [], .front, [⟨0, 16, .rc, 0, .none, false⟩, ⟨16, 16, .rc, 0, .none, false⟩]⟩,
   -- `FRONT_IN_STATE`, R278
   ⟨8, [], .front, [⟨0, 16, .ro, 0xffff, .none, false⟩, ⟨16, 16, .ro, 0, .none, false⟩]⟩,
   -- `FRONT_MUTED`, R278
   ⟨0xc, [], .front, [⟨0, 32, .ro, 0xffffffff, .none, false⟩]⟩,
   -- `FRONT_BIAS_OPEN_LO`, R324
   ⟨0x20, [], .none, [⟨0, 32, .rc, 0, .none, false⟩]⟩]

def T.front1 : List WordDef :=
  [
   -- `FRONT_BIAS_OPEN_HI`, R324
   ⟨0x24, [], .none, [⟨0, 32, .rc, 0, .none, false⟩]⟩,
   -- `FRONT_BIAS_LIM_LO`, R324
   ⟨0x28, [], .none, [⟨0, 32, .rc, 0, .none, false⟩]⟩,
   -- `FRONT_BIAS_LIM_HI`, R324
   ⟨0x2c, [], .none, [⟨0, 32, .rc, 0, .none, false⟩]⟩,
   -- `FRONT_BIAS_TRIP_LO`, R324
   ⟨0x30, [], .none, [⟨0, 32, .ro, 0, .none, false⟩]⟩,
   -- `FRONT_BIAS_TRIP_HI`, R324
   ⟨0x34, [], .none, [⟨0, 32, .ro, 0, .none, false⟩]⟩]

/-- Every word of the block or space front. -/
def T.front : List WordDef := T.front0 ++ T.front1

def T.mem0 : List WordDef :=
  [
   -- `MEM_XADDR`, R44
   ⟨0xff00, [(4, 0x10)], .none, [⟨0, 24, .rw, 0, .none, false⟩, ⟨24, 8, .rsv, 0, .none, true⟩]⟩,
   -- `MEM_XDATA`, R44
   ⟨0xff04, [(4, 0x10)], .none, [⟨0, 32, .rw, 0, .none, false⟩]⟩,
   -- `MEM_XCTL`, R44
   ⟨0xff08, [(4, 0x10)], .none, [⟨0, 8, .rw, 1, .none, true⟩, ⟨8, 1, .ro, 0, .none, false⟩, ⟨9, 1, .rw, 1, .none, true⟩, ⟨10, 1, .rw, 1, .none, true⟩, ⟨11, 5, .rsv, 0, .none, true⟩, ⟨16, 8, .rc, 0, .none, false⟩, ⟨24, 4, .ro, 0, .none, false⟩, ⟨28, 4, .rsv, 0, .none, true⟩]⟩,
   -- `MEM_CTL`, R367
   ⟨0, [], .mem, [⟨0, 1, .rw, 0, .none, false⟩, ⟨1, 7, .rsv, 0, .none, true⟩, ⟨8, 5, .rw, 0x1d, .none, false⟩, ⟨13, 3, .rsv, 0, .none, true⟩, ⟨16, 8, .cfg, 8, .none, true⟩, ⟨24, 8, .rsv, 0, .none, true⟩]⟩,
   -- `MEM_CMD`, R367
   ⟨4, [], .mem, [⟨0, 1, .w1, 0, .none, false⟩, ⟨1, 1, .w1, 0, .none, false⟩, ⟨2, 6, .rsv, 0, .none, true⟩, ⟨8, 8, .ro, 0, .none, false⟩, ⟨16, 16, .rsv, 0, .none, true⟩]⟩,
   -- `MEM_STATUS`, R367
   ⟨8, [], .mem, [⟨0, 1, .rc, 0, .none, false⟩, ⟨1, 1, .rc, 0, .none, false⟩, ⟨2, 1, .rc, 0, .none, false⟩, ⟨3, 1, .rc, 0, .none, false⟩, ⟨4, 1, .rc, 0, .none, false⟩, ⟨5, 1, .rc, 0, .none, false⟩, ⟨6, 1, .rc, 0, .none, false⟩, ⟨7, 25, .rsv, 0, .none, true⟩]⟩,
   -- `MEM_RSV`, R367
   ⟨0x10, [], .mem, [⟨0, 19, .ro, 0, .none, false⟩, ⟨19, 13, .rsv, 0, .none, true⟩]⟩,
   -- `MEM_HOST_RSV`, R367
   ⟨0x14, [], .mem, [⟨0, 16, .rw, 0, .none, false⟩, ⟨16, 16, .ro, 0, .none, false⟩]⟩]

def T.mem1 : List WordDef :=
  [
   -- `MEM_DL_LATE`, R367
   ⟨0x18, [], .mem, [⟨0, 32, .ro, 0, .none, false⟩]⟩,
   -- `MEM_DRES_LO`, R367
   ⟨0x20, [], .mem, [⟨0, 32, .ro, 0, .none, false⟩]⟩,
   -- `MEM_DRES_HI`, R367
   ⟨0x24, [], .mem, [⟨0, 32, .ro, 0, .none, false⟩]⟩,
   -- `MEM_RGN_RBASE`, R368
   ⟨0x40, [(6, 0x10)], .mem, [⟨0, 19, .rw, 0, .rgnBase, true⟩, ⟨19, 13, .rsv, 0, .none, true⟩]⟩,
   -- `MEM_RGN_RSIZE`, R368
   ⟨0x44, [(6, 0x10)], .mem, [⟨0, 19, .rw, 0, .rgnSize, false⟩, ⟨19, 13, .rsv, 0, .none, true⟩]⟩,
   -- `MEM_RGN_BASE`, R368
   ⟨0x48, [(6, 0x10)], .mem, [⟨0, 19, .ro, 0, .rgnBase, false⟩, ⟨19, 13, .rsv, 0, .none, true⟩]⟩,
   -- `MEM_RGN_SIZE`, R368
   ⟨0x4c, [(6, 0x10)], .mem, [⟨0, 19, .ro, 0, .rgnSize, false⟩, ⟨19, 13, .rsv, 0, .none, true⟩]⟩,
   -- `MEM_STK_CE`, R369
   ⟨0x100, [(4, 0x10)], .none, [⟨0, 32, .ro, 0, .none, false⟩]⟩]

def T.mem2 : List WordDef :=
  [
   -- `MEM_STK_UE`, R369
   ⟨0x104, [(4, 0x10)], .none, [⟨0, 32, .ro, 0, .none, false⟩]⟩,
   -- `MEM_STK_REP`, R369
   ⟨0x108, [(4, 0x10)], .none, [⟨0, 16, .ro, 0, .none, false⟩, ⟨16, 16, .ro, 0, .none, false⟩]⟩,
   -- `MEM_STK_TEMP`, R369
   ⟨0x10c, [(4, 0x10)], .none, [⟨0, 8, .ro, 0, .none, false⟩, ⟨8, 2, .ro, 0, .none, false⟩, ⟨10, 22, .rsv, 0, .none, true⟩]⟩,
   -- `MEM_FS`, R370
   ⟨0x200, [(8, 4)], .none, [⟨0, 12, .cfg, 0, .none, false⟩, ⟨12, 13, .cfg, 0, .none, false⟩, ⟨25, 1, .cfg, 0, .none, false⟩, ⟨26, 6, .rsv, 0, .none, true⟩]⟩]

/-- Every word of the block or space mem. -/
def T.mem : List WordDef := T.mem0 ++ T.mem1 ++ T.mem2

def T.elv0 : List WordDef :=
  [
   -- `ELVENT_XADDR`, R44
   ⟨0xf00, [], .none, [⟨0, 24, .rw, 0, .none, false⟩, ⟨24, 8, .rsv, 0, .none, true⟩]⟩,
   -- `ELVENT_XDATA`, R44
   ⟨0xf04, [], .none, [⟨0, 32, .rw, 0, .none, false⟩]⟩,
   -- `ELVENT_XCTL`, R44
   ⟨0xf08, [], .none, [⟨0, 8, .rw, 1, .none, true⟩, ⟨8, 1, .ro, 0, .none, false⟩, ⟨9, 1, .rw, 1, .none, true⟩, ⟨10, 1, .rw, 1, .none, true⟩, ⟨11, 5, .rsv, 0, .none, true⟩, ⟨16, 8, .rc, 0, .none, false⟩, ⟨24, 4, .ro, 0, .none, false⟩, ⟨28, 4, .rsv, 0, .none, true⟩]⟩,
   -- `ELV_CTL`, R399
   ⟨0, [], .elv, [⟨0, 1, .rw, 0, .none, false⟩, ⟨1, 1, .cfg, 0, .none, false⟩, ⟨2, 2, .cfg, 0, .none, false⟩, ⟨4, 3, .cfg, 3, .none, true⟩, ⟨7, 1, .cfg, 0, .none, true⟩, ⟨8, 5, .rw, 0, .dom20, false⟩, ⟨13, 19, .rsv, 0, .none, true⟩]⟩,
   -- `ELV_CMD`, R399
   ⟨4, [], .elv, [⟨0, 1, .w1, 0, .none, false⟩, ⟨1, 1, .w1, 0, .none, true⟩, ⟨2, 1, .w1, 0, .none, true⟩, ⟨3, 1, .w1, 0, .none, false⟩, ⟨4, 1, .w1, 0, .none, false⟩, ⟨5, 3, .rsv, 0, .none, true⟩, ⟨8, 8, .ro, 0, .none, false⟩, ⟨16, 5, .rw, 0, .none, true⟩, ⟨21, 11, .rsv, 0, .none, true⟩]⟩,
   -- `ELV_STATUS`, R399
   ⟨8, [], .elv, [⟨0, 3, .ro, 0, .none, false⟩, ⟨3, 1, .ro, 0, .none, false⟩, ⟨4, 2, .ro, 0, .none, false⟩, ⟨6, 2, .ro, 0, .none, false⟩, ⟨8, 8, .ro, 0, .none, false⟩, ⟨16, 7, .ro, 0, .none, false⟩, ⟨23, 5, .ro, 0, .none, false⟩, ⟨28, 4, .rsv, 0, .none, true⟩]⟩,
   -- `ELV_FLAGS`, R399
   ⟨0xc, [], .elv, [⟨0, 1, .rc, 0, .none, false⟩, ⟨1, 1, .rc, 0, .none, false⟩, ⟨2, 1, .rc, 0, .none, false⟩, ⟨3, 1, .rc, 0, .none, false⟩, ⟨4, 1, .rc, 0, .none, false⟩, ⟨5, 1, .rc, 0, .none, false⟩, ⟨6, 1, .rc, 0, .none, false⟩, ⟨7, 1, .rc, 0, .none, false⟩, ⟨8, 1, .rc, 0, .none, false⟩, ⟨9, 1, .rc, 0, .none, false⟩, ⟨10, 1, .rc, 0, .none, false⟩, ⟨11, 1, .rc, 0, .none, false⟩, ⟨12, 1, .rc, 0, .none, false⟩, ⟨13, 19, .rsv, 0, .none, true⟩]⟩,
   -- `ELV_ALIGN`, R399
   ⟨0x10, [], .elv, [⟨0, 18, .ro, 0, .none, false⟩, ⟨18, 14, .rsv, 0, .none, true⟩]⟩]

def T.elv1 : List WordDef :=
  [
   -- `ELV_LOS`, R399
   ⟨0x14, [], .elv, [⟨0, 19, .rc, 0, .none, false⟩, ⟨19, 13, .rsv, 0, .none, true⟩]⟩,
   -- `ELV_LOL`, R399
   ⟨0x18, [], .elv, [⟨0, 19, .rc, 0, .none, false⟩, ⟨19, 13, .rsv, 0, .none, true⟩]⟩,
   -- `ELV_MAP`, R399
   ⟨0x1c, [], .elv, [⟨0, 5, .ro, 0x1f, .none, false⟩, ⟨5, 3, .rsv, 0, .none, true⟩, ⟨8, 5, .ro, 0x1f, .none, false⟩, ⟨13, 3, .rsv, 0, .none, true⟩, ⟨16, 5, .ro, 0x1f, .none, false⟩, ⟨21, 3, .rsv, 0, .none, true⟩, ⟨24, 5, .ro, 0x1f, .none, false⟩, ⟨29, 3, .rsv, 0, .none, true⟩]⟩,
   -- `ELV_CRC`, R399
   ⟨0x20, [], .elv, [⟨0, 32, .ro, 0, .none, false⟩]⟩,
   -- `ELV_REPLAY`, R399
   ⟨0x24, [], .elv, [⟨0, 32, .ro, 0, .none, false⟩]⟩,
   -- `ELV_LATE`, R399
   ⟨0x28, [], .elv, [⟨0, 32, .ro, 0, .none, false⟩]⟩,
   -- `ELV_LOST`, R399
   ⟨0x2c, [], .elv, [⟨0, 32, .ro, 0, .none, false⟩]⟩,
   -- `ELV_LQ_T_LO`, R400
   ⟨0x40, [], .none, [⟨0, 32, .rw, 0, .none, false⟩]⟩]

def T.elv2 : List WordDef :=
  [
   -- `ELV_LQ_CFG`, R400
   ⟨0x44, [], .none, [⟨0, 8, .rw, 0, .none, false⟩, ⟨8, 1, .rw, 0, .none, false⟩, ⟨9, 3, .rsv, 0, .none, true⟩, ⟨12, 4, .rw, 1, .none, false⟩, ⟨16, 16, .rsv, 0, .none, true⟩]⟩,
   -- `ELV_LQ_D`, R400
   ⟨0x50, [(16, 4)], .none, [⟨0, 32, .rw, 0, .none, false⟩]⟩,
   -- `ELV_RX_INFO`, R400
   ⟨0xa0, [], .none, [⟨0, 4, .ro, 0, .none, false⟩, ⟨4, 1, .ro, 0, .none, false⟩, ⟨5, 3, .rsv, 0, .none, true⟩, ⟨8, 8, .ro, 0, .none, false⟩, ⟨16, 16, .rsv, 0, .none, true⟩]⟩,
   -- `ELV_RX_T_LO`, R400
   ⟨0xa4, [], .none, [⟨0, 32, .ro, 0, .none, false⟩]⟩,
   -- `ELV_RX_D`, R400
   ⟨0xb0, [(16, 4)], .none, [⟨0, 32, .ro, 0, .none, false⟩]⟩]

/-- Every word of the block or space elv. -/
def T.elv : List WordDef := T.elv0 ++ T.elv1 ++ T.elv2

def T.mon0 : List WordDef :=
  [
   -- `MON_XADDR`, R44
   ⟨0xff00, [(5, 0x10)], .none, [⟨0, 24, .rw, 0, .none, false⟩, ⟨24, 8, .rsv, 0, .none, true⟩]⟩,
   -- `MON_XDATA`, R44
   ⟨0xff04, [(5, 0x10)], .none, [⟨0, 32, .rw, 0, .none, false⟩]⟩,
   -- `MON_XCTL`, R44
   ⟨0xff08, [(5, 0x10)], .none, [⟨0, 8, .rw, 1, .none, true⟩, ⟨8, 1, .ro, 0, .none, false⟩, ⟨9, 1, .rw, 1, .none, true⟩, ⟨10, 1, .rw, 1, .none, true⟩, ⟨11, 5, .rsv, 0, .none, true⟩, ⟨16, 8, .rc, 0, .none, false⟩, ⟨24, 4, .ro, 0, .none, false⟩, ⟨28, 4, .rsv, 0, .none, true⟩]⟩,
   -- `MON_CTL`, R457
   ⟨0, [], .mon, [⟨0, 1, .rw, 0, .none, false⟩, ⟨1, 1, .w1, 0, .none, false⟩, ⟨2, 6, .rsv, 0, .none, true⟩, ⟨8, 5, .rw, 0x1e, .none, false⟩, ⟨13, 3, .rsv, 0, .none, true⟩, ⟨16, 8, .ro, 0, .none, false⟩, ⟨24, 8, .rsv, 0, .none, true⟩]⟩,
   -- `MON_STATUS`, R457
   ⟨4, [], .mon, [⟨0, 1, .ro, 0, .none, false⟩, ⟨1, 1, .rc, 0, .none, false⟩, ⟨2, 1, .rc, 0, .none, false⟩, ⟨3, 1, .ro, 0, .none, false⟩, ⟨4, 28, .rsv, 0, .none, true⟩]⟩,
   -- `THM_CTL`, R457
   ⟨0x100, [], .mon, [⟨0, 10, .cfg, 0x208, .none, true⟩, ⟨10, 6, .rsv, 0, .none, true⟩, ⟨16, 8, .cfg, 0x5f, .none, true⟩, ⟨24, 8, .cfg, 0x55, .none, true⟩]⟩,
   -- `THM_STATUS`, R457
   ⟨0x104, [], .mon, [⟨0, 7, .ro, 0x64, .none, false⟩, ⟨7, 1, .rsv, 0, .none, true⟩, ⟨8, 8, .ro, 0, .none, false⟩, ⟨16, 1, .ro, 0, .none, false⟩, ⟨17, 1, .ro, 0, .none, false⟩, ⟨18, 14, .rsv, 0, .none, true⟩]⟩,
   -- `THM_POWER`, R457
   ⟨0x108, [], .mon, [⟨0, 16, .ro, 0, .none, false⟩, ⟨16, 16, .ro, 0x2080, .none, false⟩]⟩]

def T.mon1 : List WordDef :=
  [
   -- `THM_DEFER`, R457
   ⟨0x10c, [], .mon, [⟨0, 24, .ro, 0, .none, false⟩, ⟨24, 8, .rsv, 0, .none, true⟩]⟩]

/-- Every word of the block or space mon. -/
def T.mon : List WordDef := T.mon0 ++ T.mon1

def T.time0 : List WordDef :=
  [
   -- `TIME_CTL`, R91
   ⟨0, [], .none, [⟨0, 1, .rw, 0, .none, false⟩, ⟨1, 2, .ro, 0, .none, false⟩, ⟨3, 5, .rsv, 0, .none, true⟩, ⟨8, 5, .rw, 0x1c, .none, false⟩, ⟨13, 19, .rsv, 0, .none, true⟩]⟩,
   -- `TIME_STATUS`, R91
   ⟨4, [], .none, [⟨0, 1, .ro, 0, .none, false⟩, ⟨1, 1, .ro, 0, .none, false⟩, ⟨2, 1, .ro, 0, .none, false⟩, ⟨3, 1, .rc, 0, .none, false⟩, ⟨4, 1, .rc, 0, .none, false⟩, ⟨5, 27, .rsv, 0, .none, true⟩]⟩,
   -- `TIME_DIAL_0`, R91
   ⟨0x10, [], .time, [⟨0, 32, .ro, 0, .none, false⟩]⟩,
   -- `TIME_DIAL_1`, R91
   ⟨0x14, [], .time, [⟨0, 32, .ro, 0, .none, false⟩]⟩,
   -- `TIME_DIAL_2`, R91
   ⟨0x18, [], .time, [⟨0, 8, .ro, 0, .none, false⟩, ⟨8, 24, .rsv, 0, .none, true⟩]⟩,
   -- `TIME_LEAD`, R91
   ⟨0x20, [], .time, [⟨0, 2, .rw, 1, .none, false⟩, ⟨2, 14, .rsv, 0, .none, true⟩, ⟨16, 12, .rw, 0x40, .none, true⟩, ⟨28, 4, .rsv, 0, .none, true⟩]⟩,
   -- `TIME_FRAC`, R91
   ⟨0x100, [(128, 4)], .time, [⟨0, 7, .cfg, 0, .none, true⟩, ⟨7, 25, .rsv, 0, .none, true⟩]⟩,
   -- `CHN_CTL`, R424
   ⟨0x400, [], .chn, [⟨0, 1, .rw, 0, .none, false⟩, ⟨1, 2, .ro, 0, .none, false⟩, ⟨3, 1, .ro, 0, .none, false⟩, ⟨4, 1, .rw, 0, .none, false⟩, ⟨5, 1, .rw, 0, .none, false⟩, ⟨6, 1, .cfg, 1, .none, true⟩, ⟨7, 1, .rsv, 0, .none, true⟩, ⟨8, 8, .ro, 0, .none, false⟩, ⟨16, 16, .rsv, 0, .none, true⟩]⟩]

def T.time1 : List WordDef :=
  [
   -- `CHN_STATUS`, R424
   ⟨0x404, [], .chn, [⟨0, 3, .ro, 0, .none, false⟩, ⟨3, 2, .ro, 0, .none, false⟩, ⟨5, 1, .ro, 0, .none, false⟩, ⟨6, 1, .ro, 0, .none, false⟩, ⟨7, 1, .ro, 0, .none, false⟩, ⟨8, 1, .ro, 0, .none, false⟩, ⟨9, 1, .rc, 0, .none, false⟩, ⟨10, 1, .rc, 0, .none, false⟩, ⟨11, 1, .rc, 0, .none, false⟩, ⟨12, 1, .rc, 0, .none, false⟩, ⟨13, 1, .rc, 0, .none, false⟩, ⟨14, 1, .rc, 0, .none, false⟩, ⟨15, 1, .rc, 0, .none, false⟩, ⟨16, 16, .rsv, 0, .none, true⟩]⟩,
   -- `CHN_QUEEN`, R424
   ⟨0x408, [], .chn, [⟨0, 8, .ro, 0, .none, false⟩, ⟨8, 8, .ro, 0, .none, false⟩, ⟨16, 6, .ro, 0, .none, false⟩, ⟨22, 2, .rsv, 0, .none, true⟩, ⟨24, 6, .ro, 0, .none, false⟩, ⟨30, 2, .rsv, 0, .none, true⟩]⟩,
   -- `CHN_OFF_A`, R424
   ⟨0x410, [], .chn, [⟨0, 32, .ro, 0, .none, false⟩]⟩,
   -- `CHN_OFF_B`, R424
   ⟨0x414, [], .chn, [⟨0, 32, .ro, 0, .none, false⟩]⟩,
   -- `CHN_RATE_LO`, R424
   ⟨0x418, [], .chn, [⟨0, 32, .ro, 0, .none, false⟩]⟩,
   -- `CHN_RATE_HI`, R424
   ⟨0x41c, [], .chn, [⟨0, 8, .ro, 0, .none, false⟩, ⟨8, 24, .rsv, 0, .none, true⟩]⟩,
   -- `CHN_LOOP`, R424
   ⟨0x420, [], .chn, [⟨0, 14, .cfg, 0x40, .none, true⟩, ⟨14, 2, .rsv, 0, .none, true⟩, ⟨16, 4, .cfg, 4, .none, true⟩, ⟨20, 4, .rsv, 0, .none, true⟩, ⟨24, 8, .cfg, 0xa, .none, true⟩]⟩,
   -- `CHN_REVERT`, R424
   ⟨0x424, [], .chn, [⟨0, 8, .cfg, 0x64, .none, true⟩, ⟨8, 24, .rsv, 0, .none, true⟩]⟩]

def T.time2 : List WordDef :=
  [
   -- `CHN_SEC_LO`, R424
   ⟨0x428, [], .chn, [⟨0, 32, .rw, 0, .none, false⟩]⟩,
   -- `CHN_SEC_HI`, R424
   ⟨0x42c, [], .chn, [⟨0, 16, .rw, 0, .none, false⟩, ⟨16, 16, .rsv, 0, .none, true⟩]⟩,
   -- `CHN_STEP_LO`, R424
   ⟨0x430, [], .chn, [⟨0, 32, .ro, 0, .none, false⟩]⟩,
   -- `CHN_STEP_HI`, R424
   ⟨0x434, [], .chn, [⟨0, 32, .ro, 0, .none, false⟩]⟩,
   -- `CHN_ROUTE`, R425
   ⟨0x800, [(256, 4)], .none, [⟨0, 3, .ro, 0, .none, false⟩, ⟨3, 1, .ro, 0, .none, false⟩, ⟨4, 6, .ro, 0, .none, false⟩, ⟨10, 2, .ro, 0, .none, false⟩, ⟨12, 1, .ro, 0, .none, false⟩, ⟨13, 19, .rsv, 0, .none, true⟩]⟩]

/-- Every word of the block or space time. -/
def T.time : List WordDef := T.time0 ++ T.time1 ++ T.time2

def T.comb0 : List WordDef :=
  [
   -- `CELL_CTL`, R125
   ⟨0x800, [], .cell, [⟨0, 1, .rw, 0, .none, false⟩, ⟨1, 31, .rsv, 0, .none, true⟩]⟩,
   -- `CELL_MODE`, R126
   ⟨0x900, [(8, 0x20)], .cell, [⟨0, 2, .cfg, 0, .none, false⟩, ⟨2, 1, .cfg, 0, .none, false⟩, ⟨3, 1, .ro, 0, .none, false⟩, ⟨4, 28, .rsv, 0, .none, true⟩]⟩,
   -- `CELL_CMD`, R126
   ⟨0x904, [(8, 0x20)], .cell, [⟨0, 1, .w1, 0, .none, false⟩, ⟨1, 7, .rsv, 0, .none, true⟩, ⟨8, 8, .ro, 0, .none, false⟩, ⟨16, 16, .rsv, 0, .none, true⟩]⟩,
   -- `CELL_GAIN_I`, R126
   ⟨0x908, [(8, 0x20)], .cell, [⟨0, 20, .cfg, 0x7ffff, .none, true⟩, ⟨20, 12, .rsv, 0, .none, true⟩]⟩,
   -- `CELL_GAIN_Q`, R126
   ⟨0x90c, [(8, 0x20)], .cell, [⟨0, 20, .cfg, 0, .none, true⟩, ⟨20, 12, .rsv, 0, .none, true⟩]⟩,
   -- `CELL_FRAME`, R126
   ⟨0x910, [(8, 0x20)], .cell, [⟨0, 20, .ro, 0, .none, false⟩, ⟨20, 12, .rsv, 0, .none, true⟩]⟩,
   -- `CELL_STATUS`, R126
   ⟨0x914, [(8, 0x20)], .cell, [⟨0, 1, .rc, 0, .none, false⟩, ⟨1, 1, .rc, 0, .none, false⟩, ⟨2, 1, .rc, 0, .none, false⟩, ⟨3, 1, .rc, 0, .none, false⟩, ⟨4, 1, .rc, 0, .none, false⟩, ⟨5, 1, .rc, 0, .none, false⟩, ⟨6, 1, .rc, 0, .none, false⟩, ⟨7, 1, .rc, 0, .none, false⟩, ⟨8, 1, .ro, 0, .none, false⟩, ⟨9, 1, .ro, 0, .none, false⟩, ⟨10, 1, .rc, 0, .none, false⟩, ⟨11, 1, .rc, 0, .none, false⟩, ⟨12, 4, .rsv, 0, .none, true⟩, ⟨16, 8, .ro, 0, .none, false⟩, ⟨24, 8, .rsv, 0, .none, true⟩]⟩,
   -- `CELL_RING`, R126
   ⟨0x918, [(8, 0x20)], .cell, [⟨0, 16, .cfg, 0, .ring, true⟩, ⟨16, 10, .cfg, 0x20, .none, true⟩, ⟨26, 6, .rsv, 0, .none, true⟩]⟩]

def T.comb1 : List WordDef :=
  [
   -- `CELL_PORT_CTL`, R127
   ⟨0xa00, [(2, 0x10)], .cell, [⟨0, 2, .cfg, 0, .none, true⟩, ⟨2, 30, .rsv, 0, .none, true⟩]⟩,
   -- `CELL_PORT_STATUS`, R127
   ⟨0xa04, [(2, 0x10)], .cell, [⟨0, 1, .rc, 0, .none, false⟩, ⟨1, 1, .w1, 0, .none, false⟩, ⟨2, 14, .rsv, 0, .none, true⟩, ⟨16, 16, .ro, 0, .none, false⟩]⟩,
   -- `CELL_BANK_SEL`, R128
   ⟨0xa40, [], .cell, [⟨0, 8, .rw, 0, .none, false⟩, ⟨8, 3, .rw, 0, .none, false⟩, ⟨11, 5, .rsv, 0, .none, true⟩, ⟨16, 1, .rw, 1, .none, true⟩, ⟨17, 15, .rsv, 0, .none, true⟩]⟩,
   -- `CELL_BANK_LO`, R128
   ⟨0xa44, [], .cell, [⟨0, 32, .cfg, 0, .none, false⟩]⟩,
   -- `CELL_BANK_HI`, R128
   ⟨0xa48, [], .cell, [⟨0, 16, .cfg, 0, .none, false⟩, ⟨16, 16, .rsv, 0, .none, true⟩]⟩,
   -- `SEQ_CTL`, R169
   ⟨0, [], .seq, [⟨0, 1, .rw, 0, .none, false⟩, ⟨1, 7, .rsv, 0, .none, true⟩, ⟨8, 5, .rw, 0, .quad, false⟩, ⟨13, 3, .rsv, 0, .none, true⟩, ⟨16, 3, .rw, 0, .none, false⟩, ⟨19, 13, .rsv, 0, .none, true⟩]⟩,
   -- `SEQ_CMD`, R169
   ⟨4, [], .seq, [⟨0, 1, .w1, 0, .none, false⟩, ⟨1, 1, .w1, 0, .none, false⟩, ⟨2, 1, .w1, 0, .none, false⟩, ⟨3, 1, .w1, 0, .none, false⟩, ⟨4, 1, .w1, 0, .none, false⟩, ⟨5, 1, .w1, 0, .none, true⟩, ⟨6, 2, .rsv, 0, .none, true⟩, ⟨8, 8, .ro, 0, .none, false⟩, ⟨16, 16, .rsv, 0, .none, true⟩]⟩,
   -- `SEQ_START`, R169
   ⟨8, [], .seq, [⟨0, 15, .rw, 0, .none, false⟩, ⟨15, 1, .rw, 0, .none, false⟩, ⟨16, 8, .rw, 0, .none, false⟩, ⟨24, 8, .rsv, 0, .none, true⟩]⟩]

def T.comb2 : List WordDef :=
  [
   -- `SEQ_START_AT`, R169
   ⟨0xc, [], .seq, [⟨0, 32, .rw, 0, .none, false⟩]⟩,
   -- `SEQ_STATUS`, R169
   ⟨0x10, [], .seq, [⟨0, 2, .ro, 0, .none, false⟩, ⟨2, 1, .ro, 0, .none, false⟩, ⟨3, 3, .ro, 0, .none, false⟩, ⟨6, 1, .rc, 0, .none, false⟩, ⟨7, 1, .rc, 0, .none, false⟩, ⟨8, 1, .rc, 0, .none, false⟩, ⟨9, 1, .rc, 0, .none, false⟩, ⟨10, 1, .rc, 0, .none, false⟩, ⟨11, 1, .rc, 0, .none, false⟩, ⟨12, 1, .ro, 0, .none, false⟩, ⟨13, 3, .ro, 0, .none, false⟩, ⟨16, 8, .ro, 0, .none, false⟩, ⟨24, 8, .rsv, 0, .none, true⟩]⟩,
   -- `SEQ_PC`, R169
   ⟨0x14, [], .seq, [⟨0, 15, .ro, 0, .none, false⟩, ⟨15, 1, .rsv, 0, .none, true⟩, ⟨16, 15, .ro, 0, .none, false⟩, ⟨31, 1, .rsv, 0, .none, true⟩]⟩,
   -- `SEQ_FAULT`, R169
   ⟨0x18, [], .seq, [⟨0, 4, .ro, 0, .none, false⟩, ⟨4, 12, .rsv, 0, .none, true⟩, ⟨16, 15, .ro, 0, .none, false⟩, ⟨31, 1, .rsv, 0, .none, true⟩]⟩,
   -- `SEQ_SHOTS`, R169
   ⟨0x1c, [], .seq, [⟨0, 32, .ro, 0, .none, false⟩]⟩,
   -- `SEQ_INVALID`, R169
   ⟨0x20, [], .seq, [⟨0, 32, .ro, 0, .none, false⟩]⟩,
   -- `SEQ_DEFER`, R169
   ⟨0x24, [], .seq, [⟨0, 16, .ro, 0, .none, false⟩, ⟨16, 16, .ro, 0, .none, false⟩]⟩,
   -- `SEQ_ECC`, R169
   ⟨0x28, [], .seq, [⟨0, 16, .ro, 0, .none, false⟩, ⟨16, 16, .ro, 0, .none, false⟩]⟩]

def T.comb3 : List WordDef :=
  [
   -- `SEQ_LOAD`, R169
   ⟨0x2c, [], .seq, [⟨0, 8, .ro, 0, .none, false⟩, ⟨8, 8, .ro, 0, .none, false⟩, ⟨16, 15, .ro, 0, .none, false⟩, ⟨31, 1, .rsv, 0, .none, true⟩]⟩,
   -- `SEQ_NANO`, R169
   ⟨0x30, [], .seq, [⟨0, 13, .ro, 0, .none, false⟩, ⟨13, 3, .rsv, 0, .none, true⟩, ⟨16, 14, .ro, 0, .none, false⟩, ⟨30, 2, .rsv, 0, .none, true⟩]⟩,
   -- `SEQ_ECC2`, R169
   ⟨0x38, [], .seq, [⟨0, 16, .ro, 0, .none, false⟩, ⟨16, 16, .ro, 0, .none, false⟩]⟩,
   -- `SEQ_BAR`, R169
   ⟨0x34, [], .seq, [⟨0, 32, .cfg, 0, .none, true⟩]⟩,
   -- `SEQ_IVEC`, R169
   ⟨0x40, [(3, 4)], .seq, [⟨0, 15, .cfg, 0, .none, true⟩, ⟨15, 1, .cfg, 0, .none, true⟩, ⟨16, 16, .rsv, 0, .none, true⟩]⟩,
   -- `SEQ_CINIT`, R169
   ⟨0x80, [(16, 4)], .seq, [⟨0, 24, .cfg, 0, .none, false⟩, ⟨24, 8, .rsv, 0, .none, true⟩]⟩,
   -- `SEQ_CNT`, R169
   ⟨0xc0, [(16, 4)], .seq, [⟨0, 24, .ro, 0, .none, false⟩, ⟨24, 8, .rsv, 0, .none, true⟩]⟩,
   -- `SEQ_CSET_BIT`, R170
   ⟨0x200, [(16, 0x20), (4, 4)], .seq, [⟨0, 20, .cfg, 0, .none, true⟩, ⟨20, 3, .cfg, 6, .none, true⟩, ⟨23, 9, .rsv, 0, .none, true⟩]⟩]

def T.comb4 : List WordDef :=
  [
   -- `SEQ_CSET_CTL`, R170
   ⟨0x210, [(16, 0x20)], .seq, [⟨0, 1, .cfg, 0, .none, true⟩, ⟨1, 3, .rsv, 0, .none, true⟩, ⟨4, 4, .cfg, 0, .none, true⟩, ⟨8, 6, .cfg, 0, .none, true⟩, ⟨14, 18, .rsv, 0, .none, true⟩]⟩,
   -- `RD_CTL`, R204
   ⟨0xc00, [], .rd, [⟨0, 1, .rw, 0, .none, false⟩, ⟨1, 1, .rw, 1, .none, false⟩, ⟨2, 30, .rsv, 0, .none, true⟩]⟩,
   -- `RD_STATUS`, R204
   ⟨0xc04, [], .rd, [⟨0, 1, .rc, 0, .none, false⟩, ⟨1, 1, .rc, 0, .none, false⟩, ⟨2, 1, .rc, 0, .none, false⟩, ⟨3, 1, .rc, 0, .none, false⟩, ⟨4, 1, .rc, 0, .none, false⟩, ⟨5, 1, .rc, 0, .none, false⟩, ⟨6, 1, .rc, 0, .none, false⟩, ⟨7, 1, .ro, 0, .none, false⟩, ⟨8, 24, .rsv, 0, .none, true⟩]⟩,
   -- `RD_RES_BASE`, R204
   ⟨0xc10, [], .rd, [⟨0, 20, .cfg, 0, .resBase, false⟩, ⟨20, 12, .rsv, 0, .none, true⟩]⟩,
   -- `RD_RES_SIZE`, R204
   ⟨0xc14, [], .rd, [⟨0, 20, .cfg, 0x10, .none, false⟩, ⟨20, 12, .rsv, 0, .none, true⟩]⟩,
   -- `RD_RES_WR`, R204
   ⟨0xc18, [], .rd, [⟨0, 28, .ro, 0, .none, false⟩, ⟨28, 4, .rsv, 0, .none, true⟩]⟩,
   -- `RD_RES_RD`, R204
   ⟨0xc1c, [], .rd, [⟨0, 28, .rw, 0, .none, false⟩, ⟨28, 4, .rsv, 0, .none, true⟩]⟩,
   -- `RD_RES_LOST`, R204
   ⟨0xc20, [], .rd, [⟨0, 32, .ro, 0, .none, false⟩]⟩]

def T.comb5 : List WordDef :=
  [
   -- `RD_LANE_F_LO`, R205
   ⟨0xc40, [(8, 0x10)], .rd, [⟨0, 32, .cfg, 0, .none, false⟩]⟩,
   -- `RD_LANE_F_HI`, R205
   ⟨0xc44, [(8, 0x10)], .rd, [⟨0, 16, .cfg, 0, .none, false⟩, ⟨16, 16, .rsv, 0, .none, true⟩]⟩,
   -- `RD_LANE_PH`, R205
   ⟨0xc48, [(8, 0x10)], .rd, [⟨0, 20, .cfg, 0, .none, false⟩, ⟨20, 12, .rsv, 0, .none, true⟩]⟩,
   -- `RD_LANE_STATUS`, R205
   ⟨0xc4c, [(8, 0x10)], .rd, [⟨0, 1, .ro, 0, .none, false⟩, ⟨1, 2, .ro, 0, .none, false⟩, ⟨3, 29, .rsv, 0, .none, true⟩]⟩,
   -- `RD_WIN_START`, R206
   ⟨0x1000, [(256, 0x10)], .rd, [⟨0, 24, .cfg, 0, .none, false⟩, ⟨24, 8, .rsv, 0, .none, true⟩]⟩,
   -- `RD_WIN_LEN`, R206
   ⟨0x1004, [(256, 0x10)], .rd, [⟨0, 16, .cfg, 0, .none, false⟩, ⟨16, 1, .cfg, 0, .none, false⟩, ⟨17, 1, .cfg, 1, .none, false⟩, ⟨18, 3, .cfg, 0, .none, true⟩, ⟨21, 3, .rsv, 0, .none, true⟩, ⟨24, 5, .cfg, 6, .none, true⟩, ⟨29, 3, .rsv, 0, .none, true⟩]⟩,
   -- `RD_PRF_KB`, R207
   ⟨0x2000, [(8, 0x400), (16, 0x40)], .rd, [⟨0, 15, .cfg, 0, .none, false⟩, ⟨15, 17, .rsv, 0, .none, true⟩]⟩,
   -- `RD_PRF_C0I`, R207
   ⟨0x2004, [(8, 0x400), (16, 0x40)], .rd, [⟨0, 32, .cfg, 0, .none, false⟩]⟩]

def T.comb6 : List WordDef :=
  [
   -- `RD_PRF_C0Q`, R207
   ⟨0x2008, [(8, 0x400), (16, 0x40)], .rd, [⟨0, 32, .cfg, 0, .none, false⟩]⟩,
   -- `RD_PRF_C1I`, R207
   ⟨0x200c, [(8, 0x400), (16, 0x40)], .rd, [⟨0, 32, .cfg, 0, .none, false⟩]⟩,
   -- `RD_PRF_C1Q`, R207
   ⟨0x2010, [(8, 0x400), (16, 0x40)], .rd, [⟨0, 32, .cfg, 0, .none, false⟩]⟩,
   -- `RD_PRF_BAND`, R207
   ⟨0x2014, [(8, 0x400), (16, 0x40)], .rd, [⟨0, 8, .cfg, 0, .none, false⟩, ⟨8, 24, .rsv, 0, .none, true⟩]⟩,
   -- `RD_PRF_AB0`, R207
   ⟨0x2018, [(8, 0x400), (16, 0x40)], .rd, [⟨0, 16, .cfg, 0, .none, true⟩, ⟨16, 16, .cfg, 0, .none, true⟩]⟩,
   -- `RD_PRF_AB1`, R207
   ⟨0x201c, [(8, 0x400), (16, 0x40)], .rd, [⟨0, 16, .cfg, 0, .none, true⟩, ⟨16, 16, .cfg, 0, .none, true⟩]⟩,
   -- `RD_PRF_C0_LO`, R207
   ⟨0x2020, [(8, 0x400), (16, 0x40)], .rd, [⟨0, 32, .cfg, 0, .none, true⟩]⟩,
   -- `RD_PRF_C0_HI`, R207
   ⟨0x2024, [(8, 0x400), (16, 0x40)], .rd, [⟨0, 16, .cfg, 0, .none, true⟩, ⟨16, 16, .rsv, 0, .none, true⟩]⟩]

def T.comb7 : List WordDef :=
  [
   -- `RD_PRF_C1_LO`, R207
   ⟨0x2028, [(8, 0x400), (16, 0x40)], .rd, [⟨0, 32, .cfg, 0, .none, true⟩]⟩,
   -- `RD_PRF_C1_HI`, R207
   ⟨0x202c, [(8, 0x400), (16, 0x40)], .rd, [⟨0, 16, .cfg, 0, .none, true⟩, ⟨16, 16, .rsv, 0, .none, true⟩]⟩,
   -- `RD_PRF_MAP`, R207
   ⟨0x2030, [(8, 0x400), (16, 0x40)], .rd, [⟨0, 8, .cfg, 0x7c, .none, true⟩, ⟨8, 24, .rsv, 0, .none, true⟩]⟩,
   -- `BIAS_CTL`, R323
   ⟨0x400, [], .bias, [⟨0, 1, .rw, 0, .none, false⟩, ⟨1, 7, .rsv, 0, .none, true⟩, ⟨8, 1, .rw, 0, .none, true⟩, ⟨9, 7, .rsv, 0, .none, true⟩, ⟨16, 5, .rw, 0, .none, true⟩, ⟨21, 11, .rsv, 0, .none, true⟩]⟩,
   -- `BIAS_CMD`, R323
   ⟨0x404, [], .bias, [⟨0, 1, .w1, 0, .none, false⟩, ⟨1, 1, .w1, 0, .none, false⟩, ⟨2, 6, .rsv, 0, .none, true⟩, ⟨8, 8, .ro, 0, .none, false⟩, ⟨16, 16, .rsv, 0, .none, true⟩]⟩,
   -- `BIAS_STATUS`, R323
   ⟨0x408, [], .bias, [⟨0, 1, .rc, 0, .none, false⟩, ⟨1, 1, .rc, 0, .none, false⟩, ⟨2, 1, .rc, 0, .none, false⟩, ⟨3, 1, .rc, 0, .none, false⟩, ⟨4, 1, .rc, 0, .none, false⟩, ⟨5, 1, .rc, 0, .none, false⟩, ⟨6, 2, .rsv, 0, .none, true⟩, ⟨8, 4, .ro, 0, .none, false⟩, ⟨12, 4, .ro, 0, .none, false⟩, ⟨16, 4, .ro, 0, .none, false⟩, ⟨20, 12, .rsv, 0, .none, true⟩]⟩,
   -- `BIAS_STAGE`, R323
   ⟨0x410, [(4, 4)], .bias, [⟨0, 20, .rw, 0, .none, false⟩, ⟨20, 12, .rsv, 0, .none, true⟩]⟩,
   -- `BIAS_ACT`, R323
   ⟨0x420, [(4, 4)], .bias, [⟨0, 20, .ro, 0, .none, false⟩, ⟨20, 12, .rsv, 0, .none, true⟩]⟩]

def T.comb8 : List WordDef :=
  [
   -- `BIAS_FLUX_A`, R323
   ⟨0x500, [(32, 8)], .bias, [⟨0, 16, .cfg, 0, .none, false⟩, ⟨16, 16, .cfg, 0, .none, false⟩]⟩,
   -- `BIAS_FLUX_B`, R323
   ⟨0x504, [(32, 8)], .bias, [⟨0, 20, .cfg, 0x7ffff, .none, false⟩, ⟨20, 1, .cfg, 0, .none, false⟩, ⟨21, 11, .rsv, 0, .none, true⟩]⟩,
   -- `BIAS_SET`, R323
   ⟨0x600, [(32, 0x10), (4, 4)], .bias, [⟨0, 20, .cfg, 0, .none, false⟩, ⟨20, 12, .rsv, 0, .none, true⟩]⟩,
   -- `MARK_CTL`, R345
   ⟨0xe00, [], .mark, [⟨0, 1, .rw, 0, .none, false⟩, ⟨1, 2, .cfg, 0, .none, false⟩, ⟨3, 5, .rsv, 0, .none, true⟩, ⟨8, 3, .cfg, 0, .none, false⟩, ⟨11, 5, .rsv, 0, .none, true⟩, ⟨16, 6, .cfg, 0, .none, true⟩, ⟨22, 10, .rsv, 0, .none, true⟩]⟩,
   -- `MARK_CMD`, R345
   ⟨0xe04, [], .mark, [⟨0, 1, .w1, 0, .none, false⟩, ⟨1, 7, .rsv, 0, .none, true⟩, ⟨8, 8, .ro, 0, .none, false⟩, ⟨16, 16, .rsv, 0, .none, true⟩]⟩,
   -- `MARK_STATUS`, R345
   ⟨0xe08, [], .mark, [⟨0, 1, .rc, 0, .none, false⟩, ⟨1, 1, .rc, 0, .none, false⟩, ⟨2, 1, .ro, 0, .none, false⟩, ⟨3, 29, .rsv, 0, .none, true⟩]⟩,
   -- `MARK_SET_A`, R345
   ⟨0xe20, [(8, 8)], .mark, [⟨0, 16, .cfg, 0, .none, false⟩, ⟨16, 4, .cfg, 0, .none, false⟩, ⟨20, 2, .cfg, 0, .none, false⟩, ⟨22, 10, .rsv, 0, .none, true⟩]⟩,
   -- `MARK_SET_B`, R345
   ⟨0xe24, [(8, 8)], .mark, [⟨0, 16, .cfg, 0, .none, false⟩, ⟨16, 4, .cfg, 0, .none, false⟩, ⟨20, 12, .rsv, 0, .none, true⟩]⟩]

/-- Every word of the block or space comb. -/
def T.comb : List WordDef := T.comb0 ++ T.comb1 ++ T.comb2 ++ T.comb3 ++ T.comb4 ++ T.comb5 ++ T.comb6 ++ T.comb7 ++ T.comb8

def T.txn0 : List WordDef :=
  [
   -- `TXN_CTL`, R256
   ⟨0, [], .txn, [⟨0, 1, .rw, 0, .none, false⟩, ⟨1, 7, .rsv, 0, .none, true⟩, ⟨8, 5, .rw, 0x1f, .none, false⟩, ⟨13, 3, .rsv, 0, .none, true⟩, ⟨16, 6, .cfg, 1, .none, false⟩, ⟨22, 10, .rsv, 0, .none, true⟩]⟩,
   -- `TXN_SEL`, R256
   ⟨4, [], .txn, [⟨0, 4, .rw, 0, .none, false⟩, ⟨4, 28, .rsv, 0, .none, true⟩]⟩,
   -- `TXN_CMD`, R256
   ⟨8, [], .txn, [⟨0, 1, .w1, 0, .none, false⟩, ⟨1, 1, .w1, 0, .none, false⟩, ⟨2, 1, .w1, 0, .none, false⟩, ⟨3, 1, .w1, 0, .none, false⟩, ⟨4, 2, .rw, 0, .none, false⟩, ⟨6, 2, .rsv, 0, .none, true⟩, ⟨8, 8, .ro, 0, .none, false⟩, ⟨16, 16, .rsv, 0, .none, true⟩]⟩,
   -- `TXN_STAGE_KIND`, R256
   ⟨0xc, [], .txn, [⟨0, 3, .rw, 0, .none, false⟩, ⟨3, 5, .rsv, 0, .none, true⟩, ⟨8, 8, .rw, 0, .none, false⟩, ⟨16, 16, .rsv, 0, .none, true⟩]⟩,
   -- `TXN_STAGE_ADDR`, R256
   ⟨0x10, [], .txn, [⟨0, 32, .rw, 0, .none, false⟩]⟩,
   -- `TXN_AT_LO`, R256
   ⟨0x14, [], .txn, [⟨0, 32, .rw, 0, .none, false⟩]⟩,
   -- `TXN_AT_HI`, R256
   ⟨0x18, [], .txn, [⟨0, 8, .rw, 0, .none, false⟩, ⟨8, 24, .rsv, 0, .none, true⟩]⟩,
   -- `TXN_SCOPE_LO`, R256
   ⟨0x20, [], .txn, [⟨0, 32, .rw, 0, .none, true⟩]⟩]

def T.txn1 : List WordDef :=
  [
   -- `TXN_SCOPE_HI`, R256
   ⟨0x24, [], .txn, [⟨0, 32, .rw, 0, .none, true⟩]⟩,
   -- `TXN_FLAGS`, R256
   ⟨0x28, [], .txn, [⟨0, 1, .rc, 0, .none, false⟩, ⟨1, 1, .rc, 0, .none, false⟩, ⟨2, 1, .rc, 0, .none, false⟩, ⟨3, 1, .rc, 0, .none, false⟩, ⟨4, 1, .rc, 0, .none, false⟩, ⟨5, 1, .rc, 0, .none, false⟩, ⟨6, 26, .rsv, 0, .none, true⟩]⟩,
   -- `TXN_IMG`, R256
   ⟨0x2c, [], .txn, [⟨0, 1, .ro, 0, .none, false⟩, ⟨1, 31, .rsv, 0, .none, true⟩]⟩,
   -- `TXN_STATE`, R257
   ⟨0x100, [(16, 4)], .none, [⟨0, 3, .ro, 0, .none, false⟩, ⟨3, 1, .ro, 0, .none, false⟩, ⟨4, 13, .ro, 0, .none, false⟩, ⟨17, 7, .rsv, 0, .none, true⟩, ⟨24, 8, .ro, 0, .none, false⟩]⟩,
   -- `SWM_CTL`, R258
   ⟨0x200, [], .txn, [⟨0, 1, .w1, 0, .none, false⟩, ⟨1, 1, .rw, 0, .none, false⟩, ⟨2, 1, .rw, 0, .none, false⟩, ⟨3, 1, .rsv, 0, .none, true⟩, ⟨4, 4, .rw, 0, .none, false⟩, ⟨8, 8, .ro, 0, .none, false⟩, ⟨16, 16, .ro, 0, .none, false⟩]⟩,
   -- `SWM_T_LO`, R258
   ⟨0x204, [], .txn, [⟨0, 32, .rw, 0, .none, false⟩]⟩,
   -- `SWM_T_HI`, R258
   ⟨0x208, [], .txn, [⟨0, 8, .rw, 0, .none, false⟩, ⟨8, 24, .rsv, 0, .none, true⟩]⟩,
   -- `SWM_GUARD`, R258
   ⟨0x20c, [], .txn, [⟨0, 16, .rw, 0xe00, .none, true⟩, ⟨16, 16, .rsv, 0, .none, true⟩]⟩]

def T.txn2 : List WordDef :=
  [
   -- `SWM_STATUS`, R258
   ⟨0x210, [], .txn, [⟨0, 3, .ro, 0, .none, false⟩, ⟨3, 8, .ro, 0, .none, false⟩, ⟨11, 8, .ro, 0, .none, false⟩, ⟨19, 13, .rsv, 0, .none, true⟩]⟩,
   -- `SWM_PART`, R258
   ⟨0x220, [(8, 4)], .none, [⟨0, 32, .rw, 0, .none, false⟩]⟩,
   -- `SWM_ORPH_0`, R259
   ⟨0x240, [], .none, [⟨0, 16, .ro, 0, .none, false⟩, ⟨16, 8, .ro, 0, .none, false⟩, ⟨24, 8, .ro, 0, .none, false⟩]⟩,
   -- `SWM_ORPH_1`, R259
   ⟨0x244, [], .none, [⟨0, 2, .ro, 0, .none, false⟩, ⟨2, 30, .rsv, 0, .none, true⟩]⟩,
   -- `TXN_BUF`, R259
   ⟨0x400, [(256, 4)], .none, [⟨0, 32, .rw, 0, .none, false⟩]⟩]

/-- Every word of the block or space txn. -/
def T.txn : List WordDef := T.txn0 ++ T.txn1 ++ T.txn2

def T.frontx0 : List WordDef :=
  [
   -- `DAC_CFG`, R279
   ⟨0, [(32, 0x10)], .front, [⟨0, 8, .cfg, 0x64, .none, false⟩, ⟨8, 1, .cfg, 1, .none, true⟩, ⟨9, 1, .cfg, 1, .none, true⟩, ⟨10, 1, .cfg, 0, .none, false⟩, ⟨11, 21, .rsv, 0, .none, true⟩]⟩,
   -- `DAC_FS`, R279
   ⟨4, [(32, 0x10)], .front, [⟨0, 8, .cfg, 0, .none, true⟩, ⟨8, 24, .rsv, 0, .none, true⟩]⟩,
   -- `DAC_MUTE_WHY`, R279
   ⟨8, [(32, 0x10)], .front, [⟨0, 6, .ro, 1, .none, false⟩, ⟨6, 26, .rsv, 0, .none, true⟩]⟩,
   -- `ADC_CFG`, R280
   ⟨0x400, [(16, 0x10)], .front, [⟨0, 1, .cfg, 0, .none, false⟩, ⟨1, 31, .rsv, 0, .none, true⟩]⟩,
   -- `ADC_OVR_CNT`, R280
   ⟨0x404, [(16, 0x10)], .front, [⟨0, 32, .ro, 0, .none, false⟩]⟩,
   -- `BIAS_CFG`, R324
   ⟨0x500, [(64, 4)], .biasF, [⟨0, 2, .cfg, 0, .none, false⟩, ⟨2, 2, .cfg, 1, .none, false⟩, ⟨4, 2, .cfg, 1, .none, true⟩, ⟨6, 4, .cfg, 1, .none, true⟩, ⟨10, 4, .cfg, 9, .none, true⟩, ⟨14, 18, .rsv, 0, .none, true⟩]⟩]

/-- Every word of the block or space frontx. -/
def T.frontx : List WordDef := T.frontx0

def T.cap0 : List WordDef :=
  [
   -- `CAP_CTL`, R303
   ⟨0, [], .cap, [⟨0, 1, .rw, 0, .none, false⟩, ⟨1, 7, .rsv, 0, .none, true⟩, ⟨8, 5, .rw, 0x1f, .none, false⟩, ⟨13, 3, .rsv, 0, .none, true⟩, ⟨16, 4, .cfg, 0, .none, true⟩, ⟨20, 12, .rsv, 0, .none, true⟩]⟩,
   -- `CAP_CMD`, R303
   ⟨4, [], .cap, [⟨0, 1, .w1, 0, .none, false⟩, ⟨1, 1, .w1, 0, .none, false⟩, ⟨2, 1, .w1, 0, .none, false⟩, ⟨3, 5, .rsv, 0, .none, true⟩, ⟨8, 8, .ro, 0, .none, false⟩, ⟨16, 16, .rsv, 0, .none, true⟩]⟩,
   -- `CAP_MASK_LO`, R303
   ⟨8, [], .cap, [⟨0, 32, .rw, 0, .none, false⟩]⟩,
   -- `CAP_MASK_HI`, R303
   ⟨0xc, [], .cap, [⟨0, 32, .rw, 0, .none, false⟩]⟩,
   -- `CAP_ARMED_LO`, R303
   ⟨0x10, [], .cap, [⟨0, 32, .ro, 0, .none, false⟩]⟩,
   -- `CAP_ARMED_HI`, R303
   ⟨0x14, [], .cap, [⟨0, 32, .ro, 0, .none, false⟩]⟩,
   -- `CAP_RING_BASE`, R304
   ⟨0x1000, [(64, 0x40)], .cap, [⟨0, 18, .cfg, 0, .none, false⟩, ⟨18, 14, .rsv, 0, .none, true⟩]⟩,
   -- `CAP_RING_SIZE`, R304
   ⟨0x1004, [(64, 0x40)], .cap, [⟨0, 18, .cfg, 1, .none, false⟩, ⟨18, 14, .rsv, 0, .none, true⟩]⟩]

def T.cap1 : List WordDef :=
  [
   -- `CAP_WR`, R304
   ⟨0x1008, [(64, 0x40)], .cap, [⟨0, 32, .ro, 0, .none, false⟩]⟩,
   -- `CAP_RD`, R304
   ⟨0x100c, [(64, 0x40)], .cap, [⟨0, 32, .rw, 0, .none, false⟩]⟩,
   -- `CAP_PRE`, R304
   ⟨0x1010, [(64, 0x40)], .cap, [⟨0, 32, .cfg, 0, .none, false⟩]⟩,
   -- `CAP_POST`, R304
   ⟨0x1014, [(64, 0x40)], .cap, [⟨0, 32, .cfg, 0x400, .none, false⟩]⟩,
   -- `CAP_TRIG`, R304
   ⟨0x1018, [(64, 0x40)], .cap, [⟨0, 1, .cfg, 1, .none, false⟩, ⟨1, 1, .cfg, 0, .none, true⟩, ⟨2, 1, .cfg, 0, .none, true⟩, ⟨3, 1, .cfg, 0, .none, true⟩, ⟨4, 1, .cfg, 0, .none, false⟩, ⟨5, 1, .cfg, 0, .none, false⟩, ⟨6, 1, .cfg, 0, .none, false⟩, ⟨7, 1, .cfg, 1, .none, true⟩, ⟨8, 1, .cfg, 1, .none, true⟩, ⟨9, 1, .cfg, 1, .none, false⟩, ⟨10, 2, .cfg, 0, .none, true⟩, ⟨12, 20, .rsv, 0, .none, true⟩]⟩,
   -- `CAP_TH_B`, R304
   ⟨0x101c, [(64, 0x40)], .cap, [⟨0, 19, .cfg, 0x40000, .none, false⟩, ⟨19, 13, .rsv, 0, .none, true⟩]⟩,
   -- `CAP_TH_A`, R304
   ⟨0x1020, [(64, 0x40)], .cap, [⟨0, 19, .cfg, 0x20000, .none, true⟩, ⟨19, 13, .rsv, 0, .none, true⟩]⟩,
   -- `CAP_HYST`, R304
   ⟨0x1024, [(64, 0x40)], .cap, [⟨0, 19, .cfg, 0x4000, .none, true⟩, ⟨19, 13, .rsv, 0, .none, true⟩]⟩]

def T.cap2 : List WordDef :=
  [
   -- `CAP_WIDTH`, R304
   ⟨0x1028, [(64, 0x40)], .cap, [⟨0, 16, .cfg, 0, .none, true⟩, ⟨16, 16, .cfg, 0xffff, .none, true⟩]⟩,
   -- `CAP_SLEW`, R304
   ⟨0x102c, [(64, 0x40)], .cap, [⟨0, 16, .cfg, 0, .none, true⟩, ⟨16, 16, .cfg, 0xffff, .none, true⟩]⟩,
   -- `CAP_TIMEOUT`, R304
   ⟨0x1030, [(64, 0x40)], .cap, [⟨0, 24, .cfg, 0x320, .none, false⟩, ⟨24, 8, .rsv, 0, .none, true⟩]⟩,
   -- `CAP_AUTO`, R304
   ⟨0x1034, [(64, 0x40)], .cap, [⟨0, 16, .cfg, 0, .none, false⟩, ⟨16, 16, .rsv, 0, .none, true⟩]⟩,
   -- `CAP_PSTAT`, R304
   ⟨0x1038, [(64, 0x40)], .cap, [⟨0, 2, .ro, 0, .none, false⟩, ⟨2, 3, .ro, 0, .none, false⟩, ⟨5, 1, .rc, 0, .none, false⟩, ⟨6, 1, .rc, 0, .none, false⟩, ⟨7, 1, .rc, 0, .none, false⟩, ⟨8, 8, .ro, 0, .none, false⟩, ⟨16, 16, .ro, 0, .none, false⟩]⟩,
   -- `CAP_SHARE`, R304
   ⟨0x103c, [(64, 0x40)], .cap, [⟨0, 8, .cfg, 0x40, .none, true⟩, ⟨8, 24, .rsv, 0, .none, true⟩]⟩]

/-- Every word of the block or space cap. -/
def T.cap : List WordDef := T.cap0 ++ T.cap1 ++ T.cap2

def T.stp0 : List WordDef :=
  [
   -- `STP_CTL`, R346
   ⟨0, [], .stp, [⟨0, 1, .rw, 0, .none, false⟩, ⟨1, 7, .rsv, 0, .none, true⟩, ⟨8, 5, .rw, 0x1f, .none, false⟩, ⟨13, 19, .rsv, 0, .none, true⟩]⟩,
   -- `STP_MISS`, R346
   ⟨4, [], .stp, [⟨0, 32, .rc, 0, .none, false⟩]⟩,
   -- `STP_CD`, R346
   ⟨8, [], .stp, [⟨0, 5, .rw, 0, .none, false⟩, ⟨5, 3, .rsv, 0, .none, true⟩, ⟨8, 1, .w1, 0, .none, false⟩, ⟨9, 1, .ro, 0, .none, false⟩, ⟨10, 6, .rsv, 0, .none, true⟩, ⟨16, 8, .ro, 0, .none, false⟩, ⟨24, 8, .rsv, 0, .none, true⟩]⟩,
   -- `STP_IN_CFG`, R346
   ⟨0x100, [(32, 0x10)], .stp, [⟨0, 1, .cfg, 0, .none, false⟩, ⟨1, 2, .cfg, 0, .none, false⟩, ⟨3, 5, .rsv, 0, .none, true⟩, ⟨8, 8, .cfg, 0, .none, true⟩, ⟨16, 6, .cfg, 5, .none, true⟩, ⟨22, 10, .rsv, 0, .none, true⟩]⟩,
   -- `STP_IN_HO`, R346
   ⟨0x104, [(32, 0x10)], .stp, [⟨0, 11, .cfg, 0, .none, false⟩, ⟨11, 5, .rsv, 0, .none, true⟩, ⟨16, 16, .ro, 0, .none, false⟩]⟩,
   -- `STP_IN_LAST_LO`, R346
   ⟨0x108, [(32, 0x10)], .stp, [⟨0, 8, .ro, 0, .none, false⟩, ⟨8, 24, .ro, 0, .none, false⟩]⟩,
   -- `STP_IN_LAST_HI`, R346
   ⟨0x10c, [(32, 0x10)], .stp, [⟨0, 16, .ro, 0, .none, false⟩, ⟨16, 16, .ro, 0, .none, false⟩]⟩,
   -- `STP_LUT`, R346
   ⟨0x400, [(32, 0x10), (4, 4)], .stp, [⟨0, 32, .cfg, 0, .none, true⟩]⟩]

def T.stp1 : List WordDef :=
  [
   -- `STP_M_CFG`, R346
   ⟨0x800, [(16, 0x20)], .stp, [⟨0, 1, .rw, 0, .none, false⟩, ⟨1, 1, .rw, 0, .none, false⟩, ⟨2, 1, .rw, 0, .none, false⟩, ⟨3, 5, .rsv, 0, .none, true⟩, ⟨8, 6, .rw, 0, .none, false⟩, ⟨14, 2, .rsv, 0, .none, true⟩, ⟨16, 6, .rw, 0, .none, false⟩, ⟨22, 10, .rsv, 0, .none, true⟩]⟩,
   -- `STP_M_CMD`, R346
   ⟨0x804, [(16, 0x20)], .stp, [⟨0, 1, .w1, 0, .none, false⟩, ⟨1, 1, .w1, 0, .none, false⟩, ⟨2, 1, .ro, 0, .none, false⟩, ⟨3, 1, .rc, 0, .none, false⟩, ⟨4, 4, .rsv, 0, .none, true⟩, ⟨8, 8, .ro, 0, .none, false⟩, ⟨16, 16, .rsv, 0, .none, true⟩]⟩,
   -- `STP_M_TO_LO`, R346
   ⟨0x808, [(16, 0x20)], .stp, [⟨0, 32, .rw, 0x6400, .none, false⟩]⟩,
   -- `STP_M_TO_HI`, R346
   ⟨0x80c, [(16, 0x20)], .stp, [⟨0, 7, .rw, 0, .none, false⟩, ⟨7, 9, .rsv, 0, .none, true⟩, ⟨16, 14, .rw, 0x3e8, .none, false⟩, ⟨30, 2, .rsv, 0, .none, true⟩]⟩,
   -- `STP_M_PNOM`, R346
   ⟨0x810, [(16, 0x20)], .stp, [⟨0, 32, .rw, 0x10000, .none, false⟩]⟩,
   -- `STP_M_RES_LO`, R346
   ⟨0x814, [(16, 0x20)], .stp, [⟨0, 32, .ro, 0, .none, false⟩]⟩,
   -- `STP_M_RES_HI`, R346
   ⟨0x818, [(16, 0x20)], .stp, [⟨0, 16, .ro, 0, .none, false⟩, ⟨16, 16, .rsv, 0, .none, true⟩]⟩,
   -- `STP_M_N`, R346
   ⟨0x81c, [(16, 0x20)], .stp, [⟨0, 32, .ro, 0, .none, false⟩]⟩]

def T.stp2 : List WordDef :=
  [
   -- `STP_LINK`, R346
   ⟨0xc00, [(8, 4)], .none, [⟨0, 24, .ro, 0, .none, false⟩, ⟨24, 1, .ro, 0, .none, false⟩, ⟨25, 1, .rc, 0, .none, false⟩, ⟨26, 6, .rsv, 0, .none, true⟩]⟩]

/-- Every word of the block or space stp. -/
def T.stp : List WordDef := T.stp0 ++ T.stp1 ++ T.stp2

def T.elvx0 : List WordDef :=
  [
   -- `ELV_TX_EQ`, R401
   ⟨0, [(19, 4)], .elv, [⟨0, 3, .cfg, 5, .none, true⟩, ⟨3, 4, .cfg, 4, .none, true⟩, ⟨7, 25, .rsv, 0, .none, true⟩]⟩,
   -- `ELV_RX_EQ`, R401
   ⟨0x80, [(18, 4)], .elv, [⟨0, 4, .cfg, 6, .none, true⟩, ⟨4, 4, .rsv, 0, .none, true⟩, ⟨8, 3, .cfg, 0, .none, true⟩, ⟨11, 5, .rsv, 0, .none, true⟩, ⟨16, 6, .ro, 0, .none, false⟩, ⟨22, 10, .rsv, 0, .none, true⟩]⟩]

/-- Every word of the block or space elvx. -/
def T.elvx : List WordDef := T.elvx0

def T.wag0 : List WordDef :=
  [
   -- `WAG_CTL`, R435
   ⟨0, [], .wag, [⟨0, 1, .rw, 0, .none, false⟩, ⟨1, 7, .rsv, 0, .none, true⟩, ⟨8, 5, .rw, 0x1f, .none, false⟩, ⟨13, 19, .rsv, 0, .none, true⟩]⟩,
   -- `WAG_ANY`, R435
   ⟨4, [], .none, [⟨0, 1, .ro, 0, .none, false⟩, ⟨1, 1, .ro, 0, .none, false⟩, ⟨2, 1, .ro, 0, .none, false⟩, ⟨3, 29, .rsv, 0, .none, true⟩]⟩,
   -- `WAG_EN`, R436
   ⟨0x1000, [(256, 0x10)], .wag, [⟨0, 16, .cfg, 0, .wagEn, false⟩, ⟨16, 16, .rsv, 0, .none, true⟩]⟩,
   -- `WAG_REFR`, R436
   ⟨0x1004, [(256, 0x10)], .wag, [⟨0, 20, .cfg, 0x64, .none, true⟩, ⟨20, 12, .ro, 0, .none, false⟩]⟩,
   -- `WAG_STAT`, R436
   ⟨0x1008, [(256, 0x10)], .wag, [⟨0, 1, .rc, 0, .none, false⟩, ⟨1, 1, .rc, 0, .none, false⟩, ⟨2, 1, .rc, 0, .none, false⟩, ⟨3, 1, .w1, 0, .none, false⟩, ⟨4, 12, .rsv, 0, .none, true⟩, ⟨16, 16, .ro, 0, .none, false⟩]⟩,
   -- `WAG_COUNT`, R436
   ⟨0x100c, [(256, 0x10)], .wag, [⟨0, 32, .ro, 0, .none, false⟩]⟩]

/-- Every word of the block or space wag. -/
def T.wag : List WordDef := T.wag0

def T.monx0 : List WordDef :=
  [
   -- `MON_REG_SLOT`, R458
   ⟨0, [(64, 4)], .mon, [⟨0, 7, .cfg, 0, .none, false⟩, ⟨7, 1, .rsv, 0, .none, true⟩, ⟨8, 2, .cfg, 0, .none, false⟩, ⟨10, 22, .rsv, 0, .none, true⟩]⟩,
   -- `MON_INJ_SLOT`, R458
   ⟨0x100, [(8, 4)], .mon, [⟨0, 7, .cfg, 0, .none, false⟩, ⟨7, 1, .rsv, 0, .none, true⟩, ⟨8, 2, .cfg, 0, .none, false⟩, ⟨10, 22, .rsv, 0, .none, true⟩]⟩,
   -- `MON_SEQ`, R458
   ⟨0x120, [], .mon, [⟨0, 7, .cfg, 1, .none, false⟩, ⟨7, 1, .cfg, 0, .none, false⟩, ⟨8, 4, .cfg, 1, .none, false⟩, ⟨12, 4, .rsv, 0, .none, true⟩, ⟨16, 6, .ro, 0, .none, false⟩, ⟨22, 1, .ro, 0, .none, false⟩, ⟨23, 9, .rsv, 0, .none, true⟩]⟩,
   -- `MON_CUSTOM`, R458
   ⟨0x124, [], .mon, [⟨0, 2, .cfg, 2, .none, true⟩, ⟨2, 6, .rsv, 0, .none, true⟩, ⟨8, 9, .cfg, 0x10, .none, true⟩, ⟨17, 7, .rsv, 0, .none, true⟩, ⟨24, 7, .cfg, 2, .none, true⟩, ⟨31, 1, .rsv, 0, .none, true⟩]⟩,
   -- `MON_ACC`, R458
   ⟨0x128, [], .mon, [⟨0, 4, .cfg, 4, .none, true⟩, ⟨4, 1, .w1, 0, .none, false⟩, ⟨5, 27, .rsv, 0, .none, true⟩]⟩,
   -- `MON_MOFF`, R458
   ⟨0x140, [(4, 0x10)], .mon, [⟨0, 24, .ro, 0, .none, false⟩, ⟨24, 8, .rsv, 0, .none, true⟩]⟩,
   -- `MON_MGAIN`, R458
   ⟨0x144, [(4, 0x10)], .mon, [⟨0, 24, .ro, 0x800000, .none, false⟩, ⟨24, 8, .rsv, 0, .none, true⟩]⟩,
   -- `MON_COFF`, R458
   ⟨0x148, [(4, 0x10)], .mon, [⟨0, 24, .cfg, 0, .none, true⟩, ⟨24, 8, .rsv, 0, .none, true⟩]⟩]

def T.monx1 : List WordDef :=
  [
   -- `MON_CGAIN`, R458
   ⟨0x14c, [(4, 0x10)], .mon, [⟨0, 24, .cfg, 0x800000, .none, true⟩, ⟨24, 8, .rsv, 0, .none, true⟩]⟩,
   -- `MON_RES`, R459
   ⟨0x400, [(74, 0x40)], .mon, [⟨0, 24, .ro, 0, .none, false⟩, ⟨24, 2, .ro, 0, .none, false⟩, ⟨26, 1, .ro, 0, .none, false⟩, ⟨27, 1, .ro, 0, .none, false⟩, ⟨28, 4, .rsv, 0, .none, true⟩]⟩,
   -- `MON_RES_T`, R459
   ⟨0x404, [(74, 0x40)], .mon, [⟨0, 32, .ro, 0, .none, false⟩]⟩,
   -- `MON_TH_HI`, R459
   ⟨0x408, [(74, 0x40)], .mon, [⟨0, 24, .cfg, 0x7fffff, .none, false⟩, ⟨24, 8, .rsv, 0, .none, true⟩]⟩,
   -- `MON_TH_LO`, R459
   ⟨0x40c, [(74, 0x40)], .mon, [⟨0, 24, .cfg, 0x800000, .none, false⟩, ⟨24, 8, .rsv, 0, .none, true⟩]⟩,
   -- `MON_TH_CTL`, R459
   ⟨0x410, [(74, 0x40)], .mon, [⟨0, 23, .cfg, 0, .none, false⟩, ⟨23, 1, .cfg, 0, .none, false⟩, ⟨24, 2, .ro, 0, .none, false⟩, ⟨26, 6, .rsv, 0, .none, true⟩]⟩,
   -- `MON_PK_MAX`, R459
   ⟨0x414, [(74, 0x40)], .mon, [⟨0, 24, .ro, 0x800000, .none, false⟩, ⟨24, 8, .rsv, 0, .none, true⟩]⟩,
   -- `MON_PK_MIN`, R459
   ⟨0x418, [(74, 0x40)], .mon, [⟨0, 24, .ro, 0x7fffff, .none, false⟩, ⟨24, 8, .rsv, 0, .none, true⟩]⟩]

def T.monx2 : List WordDef :=
  [
   -- `MON_RMS`, R459
   ⟨0x41c, [(74, 0x40)], .mon, [⟨0, 24, .ro, 0, .none, false⟩, ⟨24, 8, .rsv, 0, .none, true⟩]⟩,
   -- `MON_ENV`, R459
   ⟨0x420, [(74, 0x40)], .mon, [⟨0, 24, .ro, 0, .none, false⟩, ⟨24, 8, .rsv, 0, .none, true⟩]⟩,
   -- `MON_N`, R459
   ⟨0x424, [(74, 0x40)], .mon, [⟨0, 32, .ro, 0, .none, false⟩]⟩]

/-- Every word of the block or space monx. -/
def T.monx : List WordDef := T.monx0 ++ T.monx1 ++ T.monx2

def T.cal0 : List WordDef :=
  [
   -- `CAL_CTL`, R480
   ⟨0, [], .cal, [⟨0, 1, .rw, 0, .none, false⟩, ⟨1, 1, .w1, 0, .none, false⟩, ⟨2, 6, .rsv, 0, .none, true⟩, ⟨8, 5, .rw, 0x1e, .none, false⟩, ⟨13, 3, .rsv, 0, .none, true⟩, ⟨16, 6, .cfg, 0x3f, .none, true⟩, ⟨22, 2, .rsv, 0, .none, true⟩, ⟨24, 8, .ro, 0, .none, false⟩]⟩,
   -- `CAL_CFG`, R480
   ⟨4, [], .cal, [⟨0, 8, .cfg, 0x20, .none, true⟩, ⟨8, 8, .cfg, 0x18, .none, true⟩, ⟨16, 8, .cfg, 0xa, .none, true⟩, ⟨24, 8, .rsv, 0, .none, true⟩]⟩,
   -- `CAL_STATUS`, R480
   ⟨8, [], .cal, [⟨0, 1, .ro, 0, .none, false⟩, ⟨1, 1, .rc, 0, .none, false⟩, ⟨2, 1, .rc, 0, .none, false⟩, ⟨3, 1, .rc, 0, .none, false⟩, ⟨4, 1, .rc, 0, .none, false⟩, ⟨5, 2, .ro, 0, .none, false⟩, ⟨7, 1, .rsv, 0, .none, true⟩, ⟨8, 8, .ro, 0, .none, false⟩, ⟨16, 16, .rsv, 0, .none, true⟩]⟩,
   -- `CAL_COUNT`, R480
   ⟨0xc, [], .cal, [⟨0, 16, .ro, 0, .none, false⟩, ⟨16, 16, .ro, 0, .none, false⟩]⟩,
   -- `CAL_BAD`, R480
   ⟨0x10, [], .cal, [⟨0, 12, .ro, 0, .none, false⟩, ⟨12, 20, .rsv, 0, .none, true⟩]⟩,
   -- `CAL_SEQ`, R480
   ⟨0x14, [], .cal, [⟨0, 32, .ro, 0, .none, false⟩]⟩,
   -- `CAL_APPLIED`, R480
   ⟨0x1000, [(3904, 4)], .none, [⟨0, 32, .ro, 0, .none, false⟩]⟩,
   -- `CAL_TARGET`, R480
   ⟨0x5000, [(3904, 4)], .none, [⟨0, 32, .ro, 0, .none, false⟩]⟩]

def T.cal1 : List WordDef :=
  [
   -- `LIFE_CTL`, R481
   ⟨0x200, [], .none, [⟨0, 18, .rw, 0, .none, false⟩, ⟨18, 1, .w1, 0, .none, false⟩, ⟨19, 1, .ro, 0, .none, false⟩, ⟨20, 1, .ro, 0, .none, false⟩, ⟨21, 3, .rsv, 0, .none, true⟩, ⟨24, 8, .ro, 0, .none, false⟩]⟩,
   -- `LIFE_HEAD`, R481
   ⟨0x204, [], .none, [⟨0, 32, .ro, 0, .none, false⟩]⟩,
   -- `LIFE_AV_BASE`, R481
   ⟨0x208, [], .none, [⟨0, 32, .ro, 0, .none, false⟩]⟩,
   -- `LIFE_AV_OUT`, R481
   ⟨0x20c, [], .none, [⟨0, 32, .ro, 0, .none, false⟩]⟩,
   -- `CLD_SEC_LO`, R481
   ⟨0x300, [], .none, [⟨0, 32, .ro, 0, .none, false⟩]⟩,
   -- `CLD_SEC_HI`, R481
   ⟨0x304, [], .none, [⟨0, 16, .ro, 0, .none, false⟩, ⟨16, 1, .ro, 1, .none, false⟩, ⟨17, 15, .rsv, 0, .none, true⟩]⟩,
   -- `CLD_DATE`, R481
   ⟨0x308, [], .none, [⟨0, 16, .ro, 0x7d0, .none, false⟩, ⟨16, 4, .ro, 1, .none, false⟩, ⟨20, 5, .ro, 1, .none, false⟩, ⟨25, 3, .ro, 6, .none, false⟩, ⟨28, 4, .rsv, 0, .none, true⟩]⟩,
   -- `CLD_TIME`, R481
   ⟨0x30c, [], .none, [⟨0, 5, .ro, 0, .none, false⟩, ⟨5, 6, .ro, 0, .none, false⟩, ⟨11, 6, .ro, 0, .none, false⟩, ⟨17, 15, .rsv, 0, .none, true⟩]⟩]

def T.cal2 : List WordDef :=
  [
   -- `LIFE_REC`, R481
   ⟨0x240, [(16, 4)], .none, [⟨0, 32, .ro, 0, .none, false⟩]⟩]

/-- Every word of the block or space cal. -/
def T.cal : List WordDef := T.cal0 ++ T.cal1 ++ T.cal2

def T.sec0 : List WordDef :=
  [
   -- `SEC_BOOT`, R502
   ⟨0, [], .none, [⟨0, 2, .ro, 0, .none, false⟩, ⟨2, 1, .ro, 0, .none, false⟩, ⟨3, 1, .ro, 0, .none, false⟩, ⟨4, 1, .ro, 0, .none, false⟩, ⟨5, 1, .ro, 0, .none, false⟩, ⟨6, 1, .ro, 0, .none, false⟩, ⟨7, 1, .ro, 0, .none, false⟩, ⟨8, 3, .ro, 0, .none, false⟩, ⟨11, 1, .rsv, 0, .none, true⟩, ⟨12, 3, .ro, 0, .none, false⟩, ⟨15, 17, .rsv, 0, .none, true⟩]⟩,
   -- `SEC_SEQ_A`, R502
   ⟨4, [], .none, [⟨0, 32, .ro, 0, .none, false⟩]⟩,
   -- `SEC_SEQ_B`, R502
   ⟨8, [], .none, [⟨0, 32, .ro, 0, .none, false⟩]⟩,
   -- `SEC_FUSE`, R502
   ⟨0xc, [], .none, [⟨0, 7, .ro, 0, .none, false⟩, ⟨7, 1, .rsv, 0, .none, true⟩, ⟨8, 3, .ro, 0, .none, false⟩, ⟨11, 1, .rsv, 0, .none, true⟩, ⟨12, 3, .ro, 0, .none, false⟩, ⟨15, 17, .rsv, 0, .none, true⟩]⟩,
   -- `SEC_KEY`, R502
   ⟨0x10, [], .none, [⟨0, 32, .ro, 0, .none, false⟩]⟩,
   -- `SEC_FL_ADDR`, R503
   ⟨0x20, [], .none, [⟨0, 25, .rw, 0, .none, false⟩, ⟨25, 7, .rsv, 0, .none, true⟩]⟩,
   -- `SEC_FL_CMD`, R503
   ⟨0x24, [], .none, [⟨0, 1, .w1, 0, .none, false⟩, ⟨1, 1, .w1, 0, .none, false⟩, ⟨2, 1, .w1, 0, .none, false⟩, ⟨3, 1, .ro, 0, .none, false⟩, ⟨4, 4, .rsv, 0, .none, true⟩, ⟨8, 8, .ro, 0, .none, false⟩, ⟨16, 16, .rsv, 0, .none, true⟩]⟩,
   -- `SEC_FL_BUF`, R503
   ⟨0x100, [(64, 4)], .none, [⟨0, 32, .rw, 0, .none, false⟩]⟩]

/-- Every word of the block or space sec. -/
def T.sec : List WordDef := T.sec0

end Sys2Proof.Machine
end

