-- ==== Sys2Proof/Machine/Bias.lean ====
section
/-! DEFINITION. Bias current outputs: staging and LOAD, fast flux, zero scale, range change, supervision (R305 to R324,
R512). Output b of Comb n is output k = 4(n mod 16) + b of Front die n / 16. -/

namespace Sys2Proof.Machine

def State.biasOut (s : State) (o : Nat) : BiasSt := SMap.get BiasSt.init s.bias o
def State.setBias (s : State) (o : Nat) (x : BiasSt) : State := { s with bias := SMap.set BiasSt.init s.bias o x }
def State.grpLoads (s : State) (n : Nat) : List GroupLoad := SMap.get [] s.loads n
def State.setLoads (s : State) (n : Nat) (l : List GroupLoad) : State := { s with loads := SMap.set [] s.loads n l }

/-- The Front die and local number of an output. -/
def biasDie (o : Nat) : Nat := o / 64
def biasLocal (o : Nat) : Nat := o % 64

def tripFld (o : Nat) : Fld :=
  if biasLocal o < 32 then R.frontBiasTripLo_trip_lo (biasDie o) else R.frontBiasTripHi_trip_hi (biasDie o)
def openFld (o : Nat) : Fld :=
  if biasLocal o < 32 then R.frontBiasOpenLo_open_lo (biasDie o) else R.frontBiasOpenHi_open_hi (biasDie o)
def limFld (o : Nat) : Fld :=
  if biasLocal o < 32 then R.frontBiasLimLo_lim_lo (biasDie o) else R.frontBiasLimHi_lim_hi (biasDie o)

def State.codeAct (s : State) (o : Nat) : Nat := s.rd (R.biasAct_code_act (o / 4) (o % 4))

def State.setCode (s : State) (o v : Nat) : State := s.wr (R.biasAct_code_act (o / 4) (o % 4)) v

/-- A staging has taken effect at a tick: the first beat boundary at or after its ball tick has come (R306). -/
def Staging.inForce (g : Staging) (t : Nat) : Bool := decide (beatUp g.tick ≤ t)

/-- `staged` and the code that BIAS_STAGE_b reads follow the staged codes in effect. -/
def State.showStage (s : State) (o : Nat) : State :=
  match ((s.biasOut o).stages.filter fun g => g.inForce s.dial).getLast? with
  | some g => (s.setBit (R.biasStatus_staged (o / 4)) (o % 4)).wr (R.biasStage_stage_code (o / 4) (o % 4)) g.code
  | none => s.clrBit (R.biasStatus_staged (o / 4)) (o % 4)

def State.setStages (s : State) (o : Nat) (l : List Staging) : State :=
  (s.setBias o { s.biasOut o with stages := l }).showStage o

/-- Stagings stand in the order in which they take effect. -/
def insertStage (a : Staging) : List Staging → List Staging
  | [] => [a]
  | b :: bs => if beatUp a.tick < beatUp b.tick then a :: b :: bs else b :: insertStage a bs

/-- A code is staged for an output (R308). -/
def State.stage (s : State) (o code tick : Nat) : State :=
  s.setStages o (insertStage ⟨code % 2 ^ 20, tick, s.dial⟩ (s.biasOut o).stages)

/-! ### The output code (R305, R307, R312 to R316, R320) -/

/-- The ball beat of sample j. -/
def Flux.beat (f : Flux) (j : Nat) : Nat := f.b0 + 16 * j

def Flux.fin (f : Flux) : Nat := f.beat f.len

/-- Sample j missed its release deadline: the previous code stays (R77, R306). -/
def Flux.late (f : Flux) (j : Nat) : Bool := decide (f.beat j < f.iss.arr + 1024)

/-- Sample j of a flux pulse, scaled and convergently rounded to 20 bits. -/
def State.fluxSample (s : State) (o : Nat) (f : Flux) (j : Nat) : Int :=
  if (match f.ecc with | some a => decide (a ≤ j) | none => false) then 0
  else mul20 (signed 20 f.scale) (signed 20 (s.cacheWord (o / 4) (f.base + j)).data)

/-- The sum before saturation at sample j. -/
def State.fluxRaw (s : State) (o : Nat) (f : Flux) (j : Nat) : Int :=
  signed 20 (s.codeAct o) + if f.late j then 0 else s.fluxSample o f j

/-- A range-change hold stands at a tick (R316). -/
def BiasSt.holds (x : BiasSt) (t : Nat) : Bool := match x.holdEnd with | some e => decide (t < e) | none => false

/-- A code at the precision of Amber and Sleep: a multiple of 16, convergently rounded (R320); saturated to 16 bits (DEDUCED, log 65). -/
def code16 (v : Int) : Int := satw 16 (crnd v 4) * 16

/-- The output code v at a tick. -/
def State.biasCode (s : State) (o t : Nat) : Int :=
  let x := s.biasOut o
  if x.zero ≠ 0 ∨ x.holds t then 0
  else
    let v :=
      match x.flux with
      | none => signed 20 (s.codeAct o)
      | some f => if f.b0 ≤ t ∧ t < f.fin then satw 20 (s.fluxRaw o f ((t - f.b0) / 16)) else signed 20 (s.codeAct o)
    if s.isAmber ∨ s.isSleep then code16 v else v

/-- I_FS of an output in units of 1.25 mA (R305). -/
def State.fullScale (s : State) (o : Nat) : Nat := 2 ^ s.ard (R.biasCfg_range (biasDie o) (biasLocal o))

/-- The output's current, in units of 1.25 mA / 2^19. -/
def State.biasCurrent (s : State) (o t : Nat) : Int := s.biasCode o t * s.fullScale o

/-! ### Flux (R312, R313) -/

/-- A sum outside the 20-bit range. -/
def State.fluxSats (s : State) (o : Nat) (f : Flux) (j : Nat) : Bool := decide (s.fluxRaw o f j ≠ satw 20 (s.fluxRaw o f j))

/-- The pipeline reads the cache as far as the release buffer allows (R78): a single-bit error is corrected and counted, a
double-bit error silences the rest (R313). -/
def State.fluxRead (s : State) (o : Nat) : State :=
  let n := o / 4
  match (s.biasOut o).flux with
  | none => s
  | some f =>
    let k := min f.len (ceilDiv (s.dial + 1025 + bufDepth - f.b0) 16)
    if k ≤ f.read then s
    else
      let ws := (s.cache.filter fun e => decide (n * 65536 + f.base + f.read ≤ e.1) && decide (e.1 < n * 65536 + f.base + k)).map fun e =>
        (e.1 - (n * 65536 + f.base), e.2.mark)
      let bad := if f.ecc.isSome then f.ecc else ((ws.filter fun e => decide (2 ≤ e.2)).map (·.1)).min?
      let fixes := (ws.filter fun e => decide (e.2 = 1) && (match bad with | some m => decide (e.1 < m) | none => true)).length
      let s := s.wr (R.seqEcc2_cache_fix n) (min 0xFFFF (s.rd (R.seqEcc2_cache_fix n) + fixes))
      let s := s.setBias o { s.biasOut o with flux := some { f with read := k, ecc := bad } }
      if f.ecc = none ∧ bad.isSome then (s.setF (R.biasStatus_flux_ecc n)).markShot n f.iss.shot else s

/-- The flux samples whose beats lie before tick t have been put out: a sum of theirs may have saturated. -/
def State.fluxOut (s : State) (o t : Nat) : State :=
  let x := s.biasOut o
  match x.flux with
  | none => s
  | some f =>
    let k := min f.len (ceilDiv (t - f.b0) 16)
    if k ≤ f.next then s
    else
      let sat := (List.range' f.next (k - f.next)).any fun j => decide (x.zero = 0) && !x.holds (f.beat j) && s.fluxSats o f j
      let s := s.setBias o { x with flux := some { f with next := k } }
      if sat then s.setF (R.biasStatus_flux_sat (o / 4)) else s

/-- The flux pulse of an output ends; with `fx_hold` the last code becomes `code_act`, unless the output stands at 0 mA. -/
def State.endFlux (s : State) (o : Nat) : State :=
  let x := s.biasOut o
  match x.flux with
  | none => s
  | some f =>
    let j := f.len - 1
    let s := if f.hold ∧ x.zero = 0 ∧ x.holds (f.beat j) = false then s.setCode o (unsigned 20 (satw 20 (s.fluxRaw o f j))) else s
    (s.setBias o { s.biasOut o with flux := none }).noteEnd (o / 4) f.iss.shot f.fin

/-- The pulse under way is played up to tick t, and ends if its end has come. -/
def State.fluxTo (s : State) (o t : Nat) : State :=
  let s := (s.fluxRead o).fluxOut o t
  match (s.biasOut o).flux with
  | none => s
  | some f => if f.fin ≤ t then s.endFlux o else s

/-- A flux pulse whose samples a hold or a zero-scale cause discards makes its shot invalid (R313). -/
def State.fluxStopped (s : State) (o : Nat) (hold : Bool) : State :=
  match (s.biasOut o).flux with
  | none => s
  | some f =>
    let s := if hold then s.setF (R.biasStatus_hold_drop (o / 4)) else s
    s.markShot (o / 4) f.iss.shot

/-- The pulse begins at its beat and pre-empts one that still plays. -/
def State.startFlux (s : State) (o : Nat) (f : Flux) : State :=
  let n := o / 4
  let s := s.fluxTo o f.b0
  let s : State := match (s.biasOut o).flux with
    | some g => (s.setF (R.biasStatus_flux_preempt n)).noteEnd n g.iss.shot f.b0
    | none => s
  let s := (s.setBias o { s.biasOut o with flux := some f }).fluxRead o
  let x := s.biasOut o
  if x.holds f.b0 then s.fluxStopped o true else if x.zero ≠ 0 then s.fluxStopped o false else s

/-- Of the flux pulses that are due, the one that plays: the latest beat, the later in program order on a tie (R313). -/
def latestFlux : List Flux → Option Flux
  | [] => none
  | p :: ps =>
    match latestFlux ps with
    | none => some p
    | some q => if q.b0 < p.b0 ∨ (q.b0 = p.b0 ∧ q.iss.ord < p.iss.ord) then some p else some q

/-- FLUX_START: a pulse whose beat has come begins. -/
def execFluxStart (t n b : Nat) (s : State) : Host.Outcome State Fault Refusal :=
  let s := s.at t
  let o := 4 * n + b
  let x := s.biasOut o
  let due := x.fluxes.filter fun f => decide (f.b0 ≤ s.dial)
  match latestFlux due with
  | none => .next s
  | some f =>
    let s := s.setBias o { x with fluxes := x.fluxes.filter fun f => ¬ f.b0 ≤ s.dial }
    let s := if 1 < due.length then s.setF (R.biasStatus_flux_preempt n) else s
    .next (s.startFlux o f)

/-- FLUX_END: the last sample has been put out. -/
def execFluxEnd (t n b : Nat) (s : State) : Host.Outcome State Fault Refusal :=
  let s := s.at t
  let o := 4 * n + b
  match (s.biasOut o).flux with
  | none => .next s
  | some f => if f.fin ≤ s.dial then .next (s.fluxTo o s.dial) else .next s

/-! ### LOAD (R309, R314 to R316) -/

/-- The causes of zero scale that a LOAD does not end. -/
def BiasSt.kept (x : BiasSt) : Nat := x.zero &&& (x.zero ^^^ (x.zero &&& x.ready))

/-- A LOAD at beat `beat` reaches one output: a hold or a zero-scale cause keeps it out, and so does a BIAS entry of the same
beat (R315). -/
def State.loadOut (s : State) (o beat : Nat) : State :=
  let s := s.fluxTo o beat
  let x := s.biasOut o
  let z := x.kept
  if x.holds beat then s.setF (R.biasStatus_ld_hold (o / 4))
  else if z ≠ 0 then s.setBias o { x with zero := z, ready := x.ready &&& z }
  else if x.entryAt = some beat then s
  else
    let now := fun (g : Staging) => decide (g.tick ≤ beat) && decide (g.arr + 1024 ≤ beat)
    let s := s.setBias o { x with zero := 0, ready := 0, undo := some (beat, s.codeAct o, x.stages) }
    match (x.stages.filter now).getLast? with
    | none => s
    | some g => (s.setCode o g.code).setStages o (x.stages.filter fun g => !now g)

/-- A hold or a zero-scale cause keeps a LOAD of the same beat out after all: its codes stay staged (R315). -/
def State.unload (s : State) (o beat : Nat) : State :=
  match (s.biasOut o).undo with
  | none => s
  | some (b, code, l) =>
    if b = beat then
      ((s.setCode o code).setStages o l).setBias o { ((s.setCode o code).setStages o l).biasOut o with undo := none }
    else s

/-- A LOAD of the whole group. -/
def State.loadGroup (s : State) (n beat : Nat) : State :=
  (List.range 4).foldl (fun s b => s.loadOut (4 * n + b) beat) s

/-- A LOAD takes its place. -/
def State.askLoad (s : State) (n tick : Nat) (iss : Option Issue) : State :=
  s.setLoads n (s.grpLoads n ++ [⟨beatUp tick, s.dial, iss⟩])

def insertLoad (a : GroupLoad) : List GroupLoad → List GroupLoad
  | [] => [a]
  | b :: bs => if a.beat < b.beat then a :: b :: bs else b :: insertLoad a bs

/-- BIAS_LOAD: every LOAD of the group whose beat has come acts, in the order of their beats; those on one beat act as one. One that
missed its release deadline leaves the codes in place (R77, R306, R309). -/
def execBiasLoad (t n : Nat) (s : State) : Host.Outcome State Fault Refusal :=
  let s := s.at t
  let due := ((s.grpLoads n).filter fun l => decide (l.beat ≤ s.dial)).foldl (fun acc l => insertLoad l acc) []
  let s := s.setLoads n ((s.grpLoads n).filter fun l => ¬ l.beat ≤ s.dial)
  let s := due.foldl (fun s l => s.noteEnd n (l.iss.bind (·.shot)) (l.beat + 1)) s
  let beats := ((due.filter fun l => decide (l.arr + 1024 ≤ l.beat)).map (·.beat)).eraseDups
  .next (beats.foldl (fun s b => s.loadGroup n b) s)

/-- `load` in BIAS_CMD. -/
def State.biasLoadCmd (s : State) (n : Nat) : State :=
  (s.askLoad n (s.dial + 1024) none).wr (R.biasCmd_result n) rOK

def execBiasLoadCmd (t n : Nat) (s : State) : Host.Outcome State Fault Refusal :=
  let s := s.at t
  if s.awake then .next (s.hostCmd (0x100000 + n * 0x4000 + 0x404) fun s => s.biasLoadCmd n) else .next s

/-- A write of BIAS_STAGE_b. -/
def State.biasStageWrite (s : State) (n b code : Nat) : State :=
  s.stage (4 * n + b) code (s.dial + 1024)

def execBiasStageWrite (t n b code : Nat) (s : State) : Host.Outcome State Fault Refusal :=
  let s := s.at t
  if s.awake then .next (s.hostCmd (0x100000 + n * 0x4000 + 0x410 + 4 * b) fun s => s.biasStageWrite n b code) else .next s

/-- A transaction's BIAS entry at beat b: as a LOAD of that output alone, with the entry's code; codes staged by then are
discarded (R236, R311, R315). -/
def State.biasEntry (s : State) (o code b : Nat) : State :=
  let s := s.fluxTo o b
  let x := s.biasOut o
  let z := x.kept
  if x.holds b then s
  else if z ≠ 0 then s.setBias o { x with zero := z, ready := x.ready &&& z }
  else
    let s := s.setBias o { x with zero := 0, ready := 0, entryAt := some b }
    (s.setCode o code).setStages o (x.stages.filter fun g => !g.inForce b)

/-- What reads of a group's status and codes bring up to date. -/
def State.biasNow (s : State) (n : Nat) : State :=
  (List.range 4).foldl
    (fun s b =>
      let o := 4 * n + b
      let s := (s.fluxTo o s.dial).showStage o
      if (s.biasOut o).holds s.dial then s else s.clrBit (R.biasStatus_holding n) b) s

/-! ### Zero scale (R314) -/

/-- A cause of zero scale reaches an output. `keep` keeps its codes; otherwise the codes staged by now are discarded. -/
def State.zeroOut (s : State) (cause : Nat) (keep : Bool) (o : Nat) : State :=
  let s := ((s.fluxTo o s.dial).unload o s.dial).fluxStopped o false
  let x := s.biasOut o
  let s := s.setBias o { x with zero := x.zero ||| 2 ^ cause, ready := x.ready &&& (255 - 2 ^ cause) }
  if keep then s else (s.setCode o 0).setStages o (x.stages.filter fun g => !g.inForce s.dial)

def State.zeroAll (s : State) (cause : Nat) (keep : Bool) : State :=
  (List.range 256).foldl (fun s o => s.zeroOut cause keep o) s

/-- The end condition of a cause is met: the next LOAD ends it. -/
def State.readyOut (s : State) (cause o : Nat) : State :=
  let x := s.biasOut o
  if x.zero.testBit cause then s.setBias o { x with ready := x.ready ||| 2 ^ cause } else s

def State.readyAll (s : State) (cause : Nat) : State := (List.range 256).foldl (fun s o => s.readyOut cause o) s

/-! ### Range change (R316) -/

/-- A new range activates at beat b. -/
def State.changeRange (s : State) (o b : Nat) : State :=
  let s := s.fluxTo o b
  let s := if (match (s.biasOut o).undo with | some u => decide (u.1 = b) | none => false) then
      (s.unload o b).setF (R.biasStatus_ld_hold (o / 4))
    else s
  let s := (s.setCode o 0).fluxStopped o true
  (s.setBias o { s.biasOut o with holdEnd := some (b + 128000) }).setBit (R.biasStatus_holding (o / 4)) (o % 4)

/-- RANGE_HOLD_END: the hold is over. -/
def execRangeHoldEnd (t n b : Nat) (s : State) : Host.Outcome State Fault Refusal :=
  let s := s.at t
  let o := 4 * n + b
  match (s.biasOut o).holdEnd with
  | none => .next s
  | some e =>
    if e ≤ s.dial then
      let s := s.fluxTo o s.dial
      .next ((s.setBias o { s.biasOut o with holdEnd := none }).clrBit (R.biasStatus_holding n) b)
    else .next s

/-! ### Supervision (R317, R318, R512) -/

def limPercent (code : Nat) : Nat := if code = 0 then 110 else if code = 1 then 125 else if code = 2 then 150 else 200

/-- The supervision mode of an output selects a detection: bit 0 COMPLIANCE, bit 1 LIMIT. -/
def State.supervised (s : State) (o i : Nat) : Bool := (s.ard (R.biasCfg_sup (biasDie o) (biasLocal o))).testBit i

/-- The output trips. -/
def State.trip (s : State) (o : Nat) : State :=
  let n := o / 4
  let s := s.setBit (R.biasStatus_tripped n) (o % 4)
  let s := s.setBit (tripFld o) (biasLocal o % 32)
  let s := (s.zeroOut 2 false o).fireS n 15
  s.markOpen n

/-- Ticks of a qualification time of (`q` + 1) µs. -/
def qualTicks (q : Nat) : Nat := (q + 1) * 25600

/-- An output that the supervision has tripped for a cause whose bit stands at `f`. -/
def State.tripFor (s : State) (f : Fld) (o : Nat) : State := (s.setBit f (biasLocal o % 32)).trip o

/-- Open load: the output voltage, in mV, has been no nearer to zero than `mv` since the Dial value `begun`. At ±2.85 V or beyond
the condition stands, and it trips after its qualification time. -/
def State.openLoad (s : State) (o begun : Nat) (mv : Int) : State :=
  let x := s.biasOut o
  if mv.natAbs < 2850 then s.setBias o { x with cond := x.cond &&& 3 }
  else
    let s := s.setBias o { x with cond := x.cond ||| 4 }
    if begun + qualTicks (s.ard (R.biasCfg_open_q (biasDie o) (biasLocal o))) ≤ s.dial then s.tripFor (openFld o) o else s

/-- Over-current that has stood for its qualification time. -/
def State.overCurrent (s : State) (o : Nat) : State :=
  let x := s.biasOut o
  if x.cond.testBit 0 ∧ x.ocAt + qualTicks (s.ard (R.biasCfg_lim_q (biasDie o) (biasLocal o))) ≤ s.dial then s.tripFor (limFld o) o else s

/-- SUPERVISION_TRIP: a detection of R317 qualifies: an open load, or an over-current, which BIAS_LIMIT_CLAMP began. -/
def execSupervisionTrip (t n b : Nat) (cause : SupCause) (s : State) : Host.Outcome State Fault Refusal :=
  let s := s.at t
  let o := 4 * n + b
  match cause with
  | .openLoad begun mv => if s.awake ∧ s.supervised o 0 then .next (s.openLoad o begun mv) else .next s
  | .overCurrent => if s.awake ∧ s.supervised o 1 then .next (s.overCurrent o) else .next s

/-- BIAS_LIMIT_CLAMP: the current that an external source drives, in units of 1.25 mA / 2^19. Beyond `lim_lvl` of I_FS it is
clamped and LIM set; a current within the level ends the condition. -/
def execBiasLimitClamp (t n b : Nat) (current : Int) (s : State) : Host.Outcome State Fault Refusal :=
  let s := s.at t
  let o := 4 * n + b
  let x := s.biasOut o
  if s.awake ∧ s.supervised o 1 then
    if current.natAbs * 100 > 2 ^ 19 * s.fullScale o * limPercent (s.ard (R.biasCfg_lim_lvl (biasDie o) (biasLocal o))) then
      let at' := if x.cond.testBit 0 then x.ocAt else s.dial
      .next ((s.setBias o { x with cond := x.cond ||| 1, ocAt := at' }).setBit (limFld o) (biasLocal o % 32))
    else .next (s.setBias o { x with cond := x.cond &&& 6 })
  else .next s

/-- `trip_clr` (R318): outputs whose condition no longer holds. -/
def State.tripClr (s : State) (n : Nat) : State :=
  if s.rd (R.biasStatus_tripped n) = 0 then s.wr (R.biasCmd_result n) rSTATE
  else
    let s := (List.range 4).foldl
      (fun s b =>
        let o := 4 * n + b
        if (s.rd (R.biasStatus_tripped n)).testBit b ∧ (s.biasOut o).cond = 0 then
          ((s.clrBit (R.biasStatus_tripped n) b).clrBit (tripFld o) (biasLocal o % 32)).readyOut 2 o
        else s) s
    s.wr (R.biasCmd_result n) rOK

def execTripClr (t n : Nat) (s : State) : Host.Outcome State Fault Refusal :=
  let s := s.at t
  if s.awake then .next (s.hostCmd (0x100000 + n * 0x4000 + 0x404) fun s => s.tripClr n) else .next s

/-- BIAS_SUPPLY_TRIP: a Bias supply of Front die q is below 4.25 V. -/
def execBiasSupplyTrip (t q : Nat) (s : State) : Host.Outcome State Fault Refusal :=
  let s := s.at t
  if s.awake then
    .next ((List.range 64).foldl
      (fun s k =>
        let o := 64 * q + k
        (s.setBias o { s.biasOut o with cond := (s.biasOut o).cond ||| 2 }).trip o) s)
  else .next s

/-- BIAS_SUPPLY_RESTORED: both supplies are above 4.50 V again. -/
def execBiasSupplyRestored (t q : Nat) (s : State) : Host.Outcome State Fault Refusal :=
  let s := s.at t
  .next ((List.range 64).foldl
    (fun s k => s.setBias (64 * q + k) { s.biasOut (64 * q + k) with cond := (s.biasOut (64 * q + k)).cond &&& 5 }) s)

/-! ### The basic level (R322) -/

/-- The E fields that R322 derives; `ld_dom`, for which it names no value, keeps its last one (DESIGN CHOICE, log 59). -/
def State.deriveBias (s : State) (n : Nat) : State :=
  if s.rd (R.biasCtl_level n) = 1 then s
  else
    let s := s.wr (R.biasCtl_ld_gang n) 0
    (List.range 4).foldl
      (fun s b =>
        let o := 4 * n + b
        ((s.both (R.biasCfg_lim_lvl (biasDie o) (biasLocal o)) 1).both (R.biasCfg_open_q (biasDie o) (biasLocal o)) 1).both
          (R.biasCfg_lim_q (biasDie o) (biasLocal o)) 9) s

end Sys2Proof.Machine
end

