-- ==== Sys2Proof/Machine/Marker.lean ====
section
/-! DEFINITION. Markers: placing edges, the level they drive, hold, force, cancellation (R325 to R330, R344). -/

namespace Sys2Proof.Machine

def State.mkr (s : State) (n : Nat) : MarkSt := SMap.get MarkSt.init s.mkrs n
def State.setMkr (s : State) (n : Nat) (x : MarkSt) : State := { s with mkrs := SMap.set MarkSt.init s.mkrs n x }

/-- An edge takes its place: by instant, then by program order (R327). -/
def insertEdge (a : MarkEdge) : List MarkEdge → List MarkEdge
  | [] => [a]
  | b :: bs => if a.at16 < b.at16 then a :: b :: bs else b :: insertEdge a bs

/-- The trace's changes within a beat: a change is an edge whose level differs from the level before it. -/
def traceOf : Bool → List MarkEdge → List (Nat × Bool)
  | _, [] => []
  | l, e :: es => if e.rise = l then traceOf l es else (e.at16, e.rise) :: traceOf e.rise es

/-- Two edges at one instant leave the later one's level alone. -/
def lastAt : List MarkEdge → List MarkEdge
  | [] => []
  | [e] => [e]
  | e :: f :: es => if e.at16 = f.at16 then lastAt (f :: es) else e :: lastAt (f :: es)

/-- What the driver does within one beat, and whether it merges (R328). -/
def driveBeat (l : Bool) (es : List MarkEdge) : List (Nat × Bool) × Bool :=
  let tr := traceOf l (lastAt es)
  match tr with
  | a :: _ :: _ :: _ =>
    let fin := match es.getLast? with | some e => e.rise | none => l
    let at' := match es.getLast? with | some e => e.at16 | none => 0
    (if fin = a.2 then [a] else [a, (at', fin)], true)
  | _ => (tr, false)

/-- The level of R327 after the given edges. -/
def levelAfter (l : Bool) (es : List MarkEdge) : Bool := match es.getLast? with | some e => e.rise | none => l

/-- `hold` overrides the schedule (R329): the level it drives. -/
def State.markHold (s : State) (n : Nat) : Option Bool :=
  let h := s.ard (R.markCtl_hold n)
  if h = 2 then some false else if h = 3 then some true else none

def State.setLevel (s : State) (n : Nat) (l : Bool) : State := s.wr (R.markStatus_level_now n) (if l then 1 else 0)

/-- The beats, each with its edges, that hold an edge whose tick is below `x / 16`. -/
def beatsOf (es : List MarkEdge) : List Nat := (es.map fun e => e.at16 / 256).eraseDups

/-- One beat's changes whose instants lie in [from, x) reach the ball. -/
def State.driveUpTo (s : State) (n frm x : Nat) (cs : List (Nat × Bool)) : State :=
  (cs.filter fun c => decide (frm ≤ c.1) && decide (c.1 < x)).foldl
    (fun s c =>
      let s := s.setLevel n c.2
      if c.2 then s.fireSAt (c.1 / 16) n 19 else s) s

/-- Edges that have reached their ticks. -/
def State.noteEdges (s : State) (n : Nat) (es : List MarkEdge) : State :=
  es.foldl (fun s e => s.noteEnd n (e.iss.bind (·.shot)) (e.at16 / 16 + 1)) s

/-- Edges whose instant is below `x` (1/16 tick) reach the ball. -/
def State.markRunTo (s : State) (n to' : Nat) : State :=
  let m := s.mkr n
  let x := max m.upto to'
  if m.edges.isEmpty then s
  else if (s.markHold n).isSome then
    let rest := m.edges.filter fun e => ¬ e.at16 < x
    (s.setMkr n { m with edges := rest, upto := x }).noteEdges n (m.edges.filter fun e => e.at16 < x)
  else
    let s := (beatsOf m.edges).foldl
      (fun s b =>
        let es := m.edges.filter fun e => decide (e.at16 / 256 = b)
        let before := m.edges.filter fun e => decide (e.at16 / 256 < b)
        let d := driveBeat (levelAfter m.base before) es
        let s := s.driveUpTo n m.upto x d.1
        if d.2 ∧ (es.any fun e => decide (e.at16 < x)) then s.setF (R.markStatus_mark_merge n) else s) s
    let past := m.edges.filter fun e => decide ((e.at16 / 256 + 1) * 256 ≤ x)
    (s.setMkr n
      { m with base := levelAfter m.base past, edges := m.edges.filter fun e => ¬ (e.at16 / 256 + 1) * 256 ≤ x, upto := x }).noteEdges n past

/-- Edges up to the present Dial value. -/
def State.markRun (s : State) (n : Nat) : State := s.markRunTo n (16 * s.dial + 16)

/-- MARKER_EDGE: the edges whose tick has come. -/
def execMarkerEdge (t n : Nat) (s : State) : Host.Outcome State Fault Refusal :=
  let s := s.at t
  if s.awake then .next (s.markRun n) else .next s

/-- The instant of an edge with anchor `ts` (R325). -/
def edgeAt (ts off vern trim : Nat) : Int := ((16 * (ts + off) + vern : Nat) : Int) + signed 6 trim

def edgeInstant (ts off vern trim : Nat) : Nat := (edgeAt ts off vern trim).toNat

/-- One edge is scheduled: not while R330 holds the marker low; not past its release deadline (R326). -/
def State.addEdge (s : State) (n : Nat) (e : MarkEdge) : State :=
  let m := s.mkr n
  if m.low ≠ 0 then s
  else if e.at16 / 16 < s.dial + 461 then s.setF (R.markStatus_mark_late n)
  else s.setMkr n { m with edges := insertEdge e m.edges }

/-- A timing set's edges with anchor `ts` (R325, R326). -/
def State.placeSet (s : State) (n set ts : Nat) (iss : Option Issue) : State :=
  let es := s.ard (R.markSetA_edges n set)
  let trim := s.ard (R.markCtl_mk_trim n)
  let s := if es.testBit 0 then
      s.addEdge n ⟨edgeInstant ts (s.ard (R.markSetA_rise_off n set)) (s.ard (R.markSetA_rise_vern n set)) trim, true, s.dial, iss⟩
    else s
  if es.testBit 1 then
    s.addEdge n ⟨edgeInstant ts (s.ard (R.markSetB_fall_off n set)) (s.ard (R.markSetB_fall_vern n set)) trim, false, s.dial, iss⟩
  else s

/-- The last tick at which a set's edges stand, for the end of a shot. -/
def State.setEnd (s : State) (n set ts : Nat) : Nat :=
  let es := s.ard (R.markSetA_edges n set)
  let trim := s.ard (R.markCtl_mk_trim n)
  max (if es.testBit 0 then edgeInstant ts (s.ard (R.markSetA_rise_off n set)) (s.ard (R.markSetA_rise_vern n set)) trim / 16 + 1 else 0)
    (if es.testBit 1 then edgeInstant ts (s.ard (R.markSetB_fall_off n set)) (s.ard (R.markSetB_fall_vern n set)) trim / 16 + 1 else 0)

/-- `force`: by the command or by the marker's Waggle channel (R329). -/
def State.forceSet (s : State) (n : Nat) : State := s.placeSet n (s.ard (R.markCtl_force_set n)) (s.dial + 1024) none

def State.markForce (s : State) (n : Nat) : State :=
  if (s.mkr n).low ≠ 0 then s.wr (R.markCmd_result n) rSTATE else (s.forceSet n).wr (R.markCmd_result n) rOK

def execMarkForce (t n : Nat) (s : State) : Host.Outcome State Fault Refusal :=
  let s := s.at t
  if s.awake then .next (s.hostCmd (0x100000 + n * 0x4000 + 0xE04) fun s => s.markForce n) else .next s

/-- A cause of R330 drives the marker low. -/
def State.markLow (s : State) (cause n : Nat) : State :=
  (s.setMkr n { edges := [], base := false, upto := 16 * s.dial + 16, low := (s.mkr n).low ||| 2 ^ cause }).setLevel n false

def State.markLowAll (s : State) (cause : Nat) : State := (List.range 64).foldl (fun s n => s.markLow cause n) s

/-- A level that the marker takes at tick b, with the event of a rise. -/
def State.takeLevel (s : State) (n b : Nat) (l : Bool) : State :=
  let rise := l && decide (s.rd (R.markStatus_level_now n) = 0)
  let s := s.setLevel n l
  if rise then s.fireSAt b n 19 else s

/-- The cause ends: edges scheduled from now on are taken, and a hold that stands drives its level (R329). -/
def State.markFree (s : State) (cause n : Nat) : State :=
  let m := s.mkr n
  if m.low.testBit cause then
    let s := s.setMkr n { m with low := m.low - 2 ^ cause }
    if m.low = 2 ^ cause then s.takeLevel n s.dial ((s.markHold n).getD false) else s
  else s

def State.markFreeAll (s : State) (cause : Nat) : State := (List.range 64).foldl (fun s n => s.markFree cause n) s

/-- Edges that a cancellation takes: those that `gone` names whose release deadline is still ahead. A marker that what is
left would leave high falls at the first tick whose release deadline is still ahead, and takes no edge from there on (R330;
DEDUCED, log 63). -/
def State.markCancel (s : State) (n : Nat) (gone : MarkEdge → Bool) : State :=
  let s := s.markRun n
  let m := s.mkr n
  let kept := m.edges.filter fun e => !(gone e && decide (s.dial + 461 < e.at16 / 16))
  if kept.length ≠ m.edges.length ∧ levelAfter m.base kept then
    let x := 16 * (s.dial + 462)
    s.setMkr n { m with edges := insertEdge ⟨x, false, s.dial, none⟩ (kept.filter fun e => decide (e.at16 < x)) }
  else s.setMkr n { m with edges := kept }

/-- A new active `hold` from beat b on: edges before it belong to the schedule, or to the hold, that stood until then (R329). -/
def State.newHold (s : State) (n v b : Nat) : State :=
  let s := s.markRunTo n (16 * b)
  let s := s.awr (R.markCtl_hold n) v
  let m := s.mkr n
  if m.low ≠ 0 then s
  else s.takeLevel n b ((s.markHold n).getD (levelAfter m.base (m.edges.filter fun e => decide (e.at16 < 16 * b))))

end Sys2Proof.Machine
end

