-- ==== Sys2Proof/Machine/Stamp.lean ====
section
/-! DEFINITION. Stamp inputs, the vernier tables, code-density runs and the measurement units (R332 to R342, R344, R346,
R176). Times carry their fraction: they count in 1/256 tick (R88). -/

namespace Sys2Proof.Machine

def State.stamp (s : State) (i : Nat) : StampSt := SMap.get StampSt.init s.stmp i
def State.setStamp (s : State) (i : Nat) (x : StampSt) : State := { s with stmp := SMap.set StampSt.init s.stmp i x }
def State.unit (s : State) (u : Nat) : MeasSt := SMap.get MeasSt.init s.meas u
def State.setUnit (s : State) (u : Nat) (x : MeasSt) : State := { s with meas := SMap.set MeasSt.init s.meas u x }

/-! ### Measurement units (R339 to R342) -/

/-- A measurement's result replaces the one before it. -/
def State.postMeas (s : State) (u code : Nat) (value : Option Nat) : State :=
  let x := s.unit u
  let s := s.wr (R.stpMCmd_result u) code
  let s := s.fireD (32 + u)
  match value with
  | none => s
  | some v =>
    let s := if x.unread then s.setF (R.stpMCmd_lost u) else s
    let s := (s.wr (R.stpMResLo_res_lo u) (v % 2 ^ 32)).wr (R.stpMResHi_res_hi u) (v / 2 ^ 32)
    s.setUnit u { s.unit u with unread := true }

/-- The unit becomes idle. -/
def State.idleUnit (s : State) (u : Nat) : State :=
  (s.wr (R.stpMCmd_busy u) 0).setUnit u { MeasSt.init with unread := (s.unit u).unread }

/-- A measurement in progress ends with ABORTED (R342). -/
def State.abortUnit (s : State) (u : Nat) : State :=
  if s.rd (R.stpMCmd_busy u) = 1 then (s.wr (R.stpMCmd_result u) rABORTED).idleUnit u else s

/-- `stop`: a measurement in progress ends with ABORTED; with none the command is refused with STATE (R57, R342; DEDUCED, log
58). -/
def State.stopUnit (s : State) (u : Nat) : State :=
  if s.rd (R.stpMCmd_busy u) = 1 then s.abortUnit u else s.wr (R.stpMCmd_result u) rSTATE

def State.abortUnits (s : State) : State := (List.range 16).foldl (fun s u => s.abortUnit u) s

/-- A unit that waits for a stamp of input i. -/
def MeasSt.uses (x : MeasSt) (i : Nat) : Bool := decide (x.src1 = i) || (decide (x.mode = 0) && decide (x.src2 = i))

/-- A run takes input i: the units that use it end. -/
def State.cdTakes (s : State) (i : Nat) : State :=
  (List.range 16).foldl (fun s u => if (s.unit u).uses i then s.abortUnit u else s) s

/-- The earliest of the held stamps at or after `x`. -/
def earliest (held : List Nat) (x : Nat) : Option Nat := (held.filter fun y => decide (x ≤ y)).min?

/-- The longest wait for a stop, clamped (R340). -/
def timeoutOf (v : Nat) : Nat := clampN v 26 409600000000

/-- A stop stamp is taken while it lies within the timeout. -/
def MeasSt.takeStop (x : MeasSt) (y : Nat) : MeasSt :=
  match x.start, x.stop with
  | some a, none => if a ≤ y ∧ y ≤ a + 256 * x.tmo then { x with stop := some y } else x
  | _, _ => x

/-- A start is taken; a stop that another source has already stamped after it counts. -/
def State.takeStart (s : State) (x : MeasSt) (y : Nat) : MeasSt :=
  let x := { x with start := some y, stop := none }
  if x.src1 = x.src2 then x
  else match earliest (s.stamp x.src2).held y with | some z => x.takeStop z | none => x

/-- A stamp of `src` at time `y` reaches an interval unit (R340). -/
def State.unitInterval (s : State) (x : MeasSt) (src y : Nat) : MeasSt :=
  match x.start with
  | none => if src = x.src1 ∧ x.goAt ≤ y then s.takeStart x y else x
  | some a =>
    if x.stop.isSome then x
    else if src = x.src2 ∧ a ≤ y then x.takeStop y
    else if src = x.src1 ∧ x.restart ∧ a ≤ y then s.takeStart x y
    else x

/-- One millisecond in ticks. -/
def msTicks : Nat := 25600000

/-- An edge of `src` reaches a frequency unit: stamped at `y`, or missed (R341, R334). -/
def unitFreq (x : MeasSt) (src : Nat) (y : Option Nat) : MeasSt :=
  if src ≠ x.src1 then x
  else
    match x.start, y with
    | none, some y => if x.goAt ≤ y then { x with start := some y, cnt := 1 } else x
    | none, none => x
    | some _, none => { x with idx := x.idx + 1 }
    | some a, some y =>
      let i := x.idx + 1
      if y - a ≤ 256 * x.gate * msTicks then
        { x with idx := i, cnt := x.cnt + 1, si := x.si + i, st := x.st + (y - a), sii := x.sii + i * i, sit := x.sit + i * (y - a) }
      else { x with idx := i }

def State.unitsSee (s : State) (src : Nat) (y : Option Nat) : State :=
  (List.range 16).foldl
    (fun s u =>
      if s.rd (R.stpMCmd_busy u) = 0 then s
      else
        let x := s.unit u
        if x.mode = 1 then s.setUnit u (unitFreq x src y)
        else match y with | some y => s.setUnit u (s.unitInterval x src y) | none => s) s

/-- `go` of a unit, by the command or by its Waggle channel. -/
def State.measGo (s : State) (u : Nat) : State :=
  let a := s.rd (R.stpMCfg_start_src u)
  let b := s.rd (R.stpMCfg_stop_src u)
  let mode := s.rd (R.stpMCfg_mode u)
  let gate := s.rd (R.stpMToHi_gate u)
  let pnom := s.rd (R.stpMPnom_p_nom u)
  if s.rd (R.stpMCmd_busy u) = 1 then s.wr (R.stpMCmd_result u) rBUSY
  else if 50 ≤ a ∨ (mode = 0 ∧ 50 ≤ b) ∨ (mode = 1 ∧ (pnom = 0 ∨ gate = 0 ∨ 16000 < gate)) then s.wr (R.stpMCmd_result u) rRANGE
  else
    ((s.wr (R.stpMCmd_result u) rOK).wr (R.stpMCmd_busy u) 1).setUnit u
      { MeasSt.init with
        mode := mode, rep := s.flag (R.stpMCfg_repeat u), restart := s.flag (R.stpMCfg_restart u), src1 := a, src2 := b,
        tmo := timeoutOf (s.rd (R.stpMToLo_to_lo u) + 2 ^ 32 * s.rd (R.stpMToHi_to_hi u)), gate := gate, pnom := pnom,
        goAt := 256 * s.dial, unread := (s.unit u).unread }

def execMeasurementGo (t u : Nat) (s : State) : Host.Outcome State Fault Refusal :=
  let s := s.at t
  if s.awake then .next (s.hostCmd (0x400804 + 32 * u) fun s => s.measGo u) else .next s

def execMeasurementStop (t u : Nat) (s : State) : Host.Outcome State Fault Refusal :=
  let s := s.at t
  if s.awake then .next (s.hostCmd (0x400804 + 32 * u) fun s => s.stopUnit u) else .next s

/-- After a result or timeout with `repeat` the unit waits for a start later than `from'`; otherwise it becomes idle. -/
def State.rearm (s : State) (u from' : Nat) : State :=
  let x := s.unit u
  if x.rep then
    let x := { x with goAt := from' + 1, start := none, stop := none }
    match earliest (s.stamp x.src1).held (from' + 1) with
    | some y => s.setUnit u (s.takeStart x y)
    | none => s.setUnit u x
  else s.idleUnit u

/-- INTERVAL_RESULT: start and stop are both stamped. -/
def execIntervalResult (t u : Nat) (s : State) : Host.Outcome State Fault Refusal :=
  let s := s.at t
  let x := s.unit u
  match x.start, x.stop with
  | some a, some b =>
    if x.mode = 0 ∧ s.rd (R.stpMCmd_busy u) = 1 then .next ((s.postMeas u rOK (some ((b - a) % 2 ^ 48))).rearm u b) else .next s
  | _, _ => .next s

/-- INTERVAL_TIMEOUT: no stop has come within `timeout` ticks of the start. -/
def execIntervalTimeout (t u : Nat) (s : State) : Host.Outcome State Fault Refusal :=
  let s := s.at t
  let x := s.unit u
  match x.start, x.stop with
  | some a, none =>
    if x.mode = 0 ∧ s.rd (R.stpMCmd_busy u) = 1 ∧ a + 256 * x.tmo < 256 * s.dial then
      .next ((s.postMeas u rTIMEOUT (some (2 ^ 48 - 1))).rearm u (a + 256 * x.tmo))
    else .next s
  | _, _ => .next s

/-- A quotient rounded to the nearest whole number, ties to even. -/
def roundDiv (a : Int) (b : Nat) : Int :=
  let q := a / b
  let r := a % b
  if 2 * r > b ∨ (2 * r = b ∧ q % 2 = 1) then q + 1 else q

/-- dev of R341 from the sums: the period is num / den in 1/256 tick. -/
def freqDev (x : MeasSt) : Int :=
  let num : Int := (x.cnt * x.sit : Nat) - (x.si * x.st : Nat)
  let den : Int := (x.cnt * x.sii : Nat) - (x.si * x.si : Nat)
  satw 40 (roundDiv ((x.pnom * den - num) * 2 ^ 40) num.toNat)

/-- FREQUENCY_GATE_END: the gate time has passed. -/
def execFrequencyGateEnd (t u : Nat) (s : State) : Host.Outcome State Fault Refusal :=
  let s := s.at t
  let x := s.unit u
  if x.mode = 1 ∧ s.rd (R.stpMCmd_busy u) = 1 ∧ (x.start.getD x.goAt) + 256 * x.gate * msTicks < 256 * s.dial then
    let s := s.wr (R.stpMN_n_used u) x.cnt
    .next ((if x.cnt < 2 then s.postMeas u rTIMEOUT none else s.postMeas u rOK (some (unsigned 48 (freqDev x)))).idleUnit u)
  else .next s

/-! ### Edges (R332 to R337) -/

/-- The fraction of an edge: the input's table by code; an internal source's own fraction. -/
def State.stampFrac (s : State) (i code : Nat) : Nat :=
  if i < 32 then s.ard (R.stpLut_lut i (code % 16 / 4)) / 2 ^ (8 * (code % 4)) % 256 else code % 256

/-- The crossing qualifies under `edge`. -/
def edgeSel (e : Nat) (rising : Bool) : Bool := if e = 1 then !rising else if e = 2 then true else rising

/-- The input takes edges now (R335, R338). -/
def State.takesEdges (s : State) (i : Nat) : Bool :=
  (s.isAmber || s.isGreen) && decide (s.rd R.timeStatus_dial_free = 0) &&
    (if i < 32 then
      s.svc.firstLoad && decide (s.ard (R.stpInCfg_en i) = 1) && (match s.cd with | some c => decide (c.input ≠ i) | none => true)
     else decide (i < 50))

/-- A stamp is delivered to its consumers (R333). -/
def State.deliver (s : State) (i y : Nat) : State :=
  let s := s.setStamp i { s.stamp i with held := (y :: (s.stamp i).held).take 4 }
  let s := s.unitsSee i (some y)
  if i < 32 then
    let s := (s.wr (R.stpInLastLo_last_frac i) (y % 256)).wr (R.stpInLastLo_last_t_lo i) (y / 256 % 2 ^ 24)
    (s.wr (R.stpInLastHi_last_t_hi i) (y / 256 / 2 ^ 24)).fireD i
  else s

/-- A converter is free at time `y`: it took an edge 128 ticks ago or more (R334). -/
def convFree (x : StampSt) (y : Nat) : Bool :=
  match x.conv with
  | _ :: b :: _ => decide (b + 256 * 128 ≤ y)
  | _ => true

/-- What the comparator of Stamp input i gives for a differential voltage in mV under the active `thr` and `hyst` (R332). -/
def State.stampHigh (s : State) (i : Nat) (mv : Int) (old : Bool) : Bool :=
  let mid := 4 * signed 8 (s.ard (R.stpInCfg_thr i))
  let half : Int := 2 * (min 50 (s.ard (R.stpInCfg_hyst i)) : Nat)
  if mid + half < mv then true else if mv < mid - half then false else old

/-- A crossing that the input takes: held off, missed, or stamped. -/
def State.takeEdge (s : State) (i y : Nat) (rising : Bool) : State :=
  let x := s.stamp i
  let off := if i < 32 then 256 * 16 * min 1600 (s.ard (R.stpInHo_holdoff i)) else 0
  if (match x.last with | some l => decide (y < l + off) | none => false) then s.incSat (R.stpInLastHi_ho_count i)
  else if i < 32 ∧ edgeSel (s.ard (R.stpInCfg_edge i)) rising = false then s
  else if i ≥ 32 ∧ rising = false then s
  else
    let s := s.setStamp i { x with last := some y }
    if convFree x y then
      (s.setStamp i { s.stamp i with conv := (y :: x.conv).take 2 }).deliver i y
    else
      let s := if i < 32 then (s.incSat (R.stpInHo_miss_count i)).setBit R.stpMiss_miss i else s
      s.unitsSee i none

/-- The comparator of a Stamp input follows its voltage in Amber and Green (R332). -/
def State.stampFollow (s : State) (i : Nat) (mv : Int) : State :=
  if s.isAmber || s.isGreen then s.setStamp i { s.stamp i with high := s.stampHigh i mv (s.stamp i).high, mv := some mv } else s

/-- STAMP_EDGE: in the tick `t` the differential voltage of an input passes to `mv`, which is a crossing where its comparator changes;
an internal source rises where `mv` is above 0 (R332, R339). -/
def execStampEdge (t input : Nat) (mv : Int) (code : Nat) (s : State) : Host.Outcome State Fault Refusal :=
  let s := s.at t
  let y := 256 * s.dial + s.stampFrac input code
  if 32 ≤ input then (if s.takesEdges input ∧ 0 < mv then .next (s.takeEdge input y true) else .next s)
  else
    let v := s.stampFollow input mv
    let rising := (v.stamp input).high
    if s.takesEdges input ∧ rising ≠ (s.stamp input).high then .next (v.takeEdge input y rising) else .next v

/-- New `thr` or `hyst`: the comparator judges the voltage it sees anew. Where that changes it, nothing has crossed and no edge is taken
(DESIGN CHOICE, log 63). -/
def State.stampRetune (s : State) (i : Nat) : State :=
  match (s.stamp i).mv with
  | some mv => s.stampFollow i mv
  | none => s

/-- An input is enabled: no hold-off runs (R332). -/
def State.stampEnabled (s : State) (i : Nat) : State := s.setStamp i { s.stamp i with last := none }

/-! ### Code-density runs (R338, R463, R464, R467) -/

def hitsOf (h : List Nat) (n : Nat) : Nat := h.getD n 0

/-- Entry of a code that has hits; a value of 256 has no room in its 8 bits and is left open. -/
def lutEntry (h : List Nat) (z n : Nat) : Nat :=
  let v := (crnd (2 ^ 21 - (2 * ((h.take n).foldl (· + ·) 0) + hitsOf h n : Nat)) 13).toNat
  if v < 256 then v else z / 256 ^ n % 256

/-- The nearest code with hits, the lower on a tie. -/
def nearestHit (h : List Nat) (n : Nat) : Nat → Nat → Option Nat
  | 0, _ => none
  | fuel + 1, d =>
    if d ≤ n ∧ 0 < hitsOf h (n - d) then some (n - d)
    else if n + d < 16 ∧ 0 < hitsOf h (n + d) then some (n + d)
    else nearestHit h n fuel (d + 1)

/-- The table of a run; with no hits at all every entry is left open. -/
def lutOf (h : List Nat) (z : Nat) : List Nat :=
  (List.range 16).map fun n => match nearestHit h n 16 0 with | some c => lutEntry h z c | none => z / 256 ^ n % 256

/-- A new table: target and applied value at once, and `lut` where the block is at the basic level (R464). -/
def State.setLut (s : State) (i : Nat) (l : List Nat) : State :=
  (List.range 4).foldl (fun s w => s.calApply (0xE00 + 4 * i + w) (packLut l w)) s

def lutsAgree (a b : List Nat) : Bool :=
  (List.range 16).all fun n => decide (((a.getD n 0 : Int) - (b.getD n 0 : Int)).natAbs ≤ 2)

def meanLut (a b : List Nat) : List Nat := (List.range 16).map fun n => (crnd ((a.getD n 0 + b.getD n 0 : Nat) : Int) 1).toNat

/-! ### The basic level (R344) -/

def State.deriveStamps (s : State) : State :=
  if s.rd R.stpCtl_level = 1 then s
  else
    (List.range 32).foldl
      (fun s i =>
        let s := ((s.both (R.stpInCfg_thr i) 0).both (R.stpInCfg_hyst i) 5).stampRetune i
        (List.range 4).foldl (fun s w => s.both (R.stpLut_lut i w) (s.rd (R.calApplied_applied (0xE00 + 4 * i + w)))) s) s

end Sys2Proof.Machine
end

