-- ==== Sys2Proof/Machine/RegMap.lean ====
section
/-! DEFINITION. From an address to its word: blocks (R28), words, fields, levels (R4) and strobe domains (R48). -/

namespace Sys2Proof.Machine

/-- The blocks of R28, and the spaces behind the indirect windows (R45). -/
inductive Blk where
  | hive | host | wag | time | txn | mem | mon | cal | sec | comb | elv | front | stp | cap | frontx | elvx | monx
  deriving DecidableEq, Repr

/-- A word: its address (or pseudo-address of an indirect space), block, block number, indices, level, fields. -/
structure WordRef where
  addr : Nat
  blk : Blk
  bi : Nat
  idx : List Nat
  lvl : Lvl
  fields : List FieldDef
  deriving DecidableEq, Repr

def tableOf : Blk → List WordDef
  | .hive => T.hive
  | .host => T.host
  | .wag => T.wag
  | .time => T.time
  | .txn => T.txn
  | .mem => T.mem
  | .mon => T.mon
  | .cal => T.cal
  | .sec => T.sec
  | .comb => T.comb
  | .elv => T.elv
  | .front => T.front
  | .stp => T.stp
  | .cap => T.cap
  | .frontx => T.frontx
  | .elvx => T.elvx
  | .monx => T.monx

/-- Block, block number and base of an address. -/
def blockOf (a : Nat) : Option (Blk × Nat × Nat) :=
  if a < 0x10000 then some (.hive, 0, 0)
  else if a < 0x20000 then some (.host, 0, 0x10000)
  else if a < 0x30000 then some (.wag, 0, 0x20000)
  else if a < 0x40000 then some (.time, 0, 0x30000)
  else if a < 0x50000 then some (.txn, 0, 0x40000)
  else if a < 0x60000 then some (.mem, 0, 0x50000)
  else if a < 0x70000 then some (.mon, 0, 0x60000)
  else if a < 0x80000 then some (.cal, 0, 0x70000)
  else if a < 0x90000 then some (.sec, 0, 0x80000)
  else if 0x100000 ≤ a ∧ a < 0x200000 then some (.comb, (a - 0x100000) / 0x4000, a - (a - 0x100000) % 0x4000)
  else if 0x200000 ≤ a ∧ a < 0x208000 then some (.elv, (a - 0x200000) / 0x1000, a - (a - 0x200000) % 0x1000)
  else if 0x300000 ≤ a ∧ a < 0x340000 then some (.front, (a - 0x300000) / 0x10000, a - (a - 0x300000) % 0x10000)
  else if 0x400000 ≤ a ∧ a < 0x410000 then some (.stp, 0, 0x400000)
  else if 0x410000 ≤ a ∧ a < 0x420000 then some (.cap, 0, 0x410000)
  else if 0x100000000 ≤ a ∧ a < 0x110000000 then some (.frontx, (a - 0x100000000) / 0x4000000, a - (a - 0x100000000) % 0x4000000)
  else if 0x120000000 ≤ a ∧ a < 0x140000000 then some (.elvx, (a - 0x120000000) / 0x4000000, a - (a - 0x120000000) % 0x4000000)
  else if 0x140000000 ≤ a ∧ a < 0x154000000 then some (.monx, (a - 0x140000000) / 0x4000000, a - (a - 0x140000000) % 0x4000000)
  else none

/-- The indices of an offset within a family's repetitions. -/
def matchDims : List (Nat × Nat) → Nat → Option (List Nat)
  | [], 0 => some []
  | [], _ + 1 => none
  | (cnt, st) :: ds, o =>
    if o / st < cnt then (matchDims ds (o % st)).map fun l => o / st :: l else none

def WordDef.at? (w : WordDef) (o : Nat) : Option (List Nat) := if w.off ≤ o then matchDims w.dims (o - w.off) else none

/-- The word at an address; none where it is unmapped (R28, R34). -/
def lookupWord (a : Nat) : Option WordRef :=
  if a % 4 ≠ 0 then none
  else
    match blockOf a with
    | none => none
    | some (b, i, base) =>
      (tableOf b).findSome? fun w => (w.at? (a - base)).map fun idx => ⟨a, b, i, idx, w.lvl, w.fields⟩

/-- A field of a word as the fields' names have it. -/
def WordRef.fld (w : WordRef) (f : FieldDef) : Fld :=
  let i := w.idx.headD 0
  ⟨w.addr * 32 + f.lo, f.width,
    match f.rule with
    | .none => f.reset
    | .ring => 65536 - 2048 * (i + 1)
    | .quad => w.bi / 4
    | .resBase => 16 * w.bi
    | .dom16 => 16 + w.bi
    | .dom20 => 20 + w.bi
    | .wagEn => wagEnReset i
    | .rgnBase => rgnBaseReset i
    | .rgnSize => rgnSizeReset i⟩

/-- The control field that selects a word's level. -/
def levelFld (w : WordRef) : Option Fld :=
  match w.lvl with
  | .none => none
  | .seq => some (R.seqCtl_level w.bi)
  | .cell => some (R.cellCtl_level w.bi)
  | .rd => some (R.rdCtl_level w.bi)
  | .bias => some (R.biasCtl_level w.bi)
  | .biasF => some (R.biasCtl_level (16 * w.bi + w.idx.headD 0 / 4))
  | .mark => some (R.markCtl_level w.bi)
  | .front => some (R.frontCtl_level w.bi)
  | .elv => some (R.elvCtl_level w.bi)
  | .time => some R.timeCtl_level
  | .dec => some R.decCtl_level
  | .txn => some R.txnCtl_level
  | .mem => some R.memCtl_level
  | .mon => some R.monCtl_level
  | .cal => some R.calCtl_level
  | .cap => some R.capCtl_level
  | .stp => some R.stpCtl_level
  | .chn => some R.chnCtl_level
  | .wag => some R.wagCtl_level

/-- Expert level, or no level at all (R4, R37). -/
def State.expert (s : State) (w : WordRef) : Bool :=
  match levelFld w with
  | none => true
  | some f => s.flag f

/-- The strobe domain of a word's CFG fields (R48). -/
def State.domainOf (s : State) (w : WordRef) : Nat :=
  match w.blk with
  | .comb => s.rd (R.seqCtl_domain w.bi)
  | .front => s.rd (R.frontCtl_domain w.bi)
  | .frontx => s.rd (R.frontCtl_domain w.bi)
  | .elv => s.rd (R.elvCtl_domain w.bi)
  | .elvx => s.rd (R.elvCtl_domain w.bi)
  | .time => s.rd R.timeCtl_domain
  | .mem => s.rd R.memCtl_domain
  | .mon => s.rd R.monCtl_domain
  | .monx => s.rd R.monCtl_domain
  | .cal => s.rd R.calCtl_domain
  | .wag => s.rd R.wagCtl_domain
  | .stp => s.rd R.stpCtl_domain
  | .cap => s.rd R.capCtl_domain
  | .txn => s.rd R.txnCtl_domain
  | .hive => s.rd R.decCtl_domain
  | .host => 31
  | .sec => 31

/-- A word that holds a CFG field. -/
def WordRef.hasCfg (w : WordRef) : Bool := w.fields.any fun f => decide (f.ty = .cfg)

/-- The word's value as stored: shadows for CFG fields, zero for command bits. -/
def State.wordVal (s : State) (w : WordRef) : Nat :=
  w.fields.foldl (fun v f => v + (if f.ty = .w1 then 0 else s.rd (w.fld f)) * 2 ^ f.lo) 0

/-- A field's share of a data word. -/
def FieldDef.part (f : FieldDef) (data : Nat) : Nat := data / 2 ^ f.lo % 2 ^ f.width

end Sys2Proof.Machine
end

