-- ==== Sys2Proof/Machine/Links.lean ====
section
/-! DEFINITION. Elvent ports as other families use them: sending packets, routes, floods, the packets received (R246, R377,
R378, R404 to R406). -/

namespace Sys2Proof.Machine

/-- This Hive forwards chain traffic (R404). -/
def State.inChain (s : State) : Bool := decide (2 ≤ s.rd R.chnStatus_cstate)

def State.linkEvent (s : State) (p : Nat) : State := s.fireD (48 + p)

/-- SWARM and CHAIN packets are queued together (R377). -/
def State.queueOut (s : State) (p : Nat) (x : Pkt) : State := s.setPort p { s.port p with outq := (s.port p).outq ++ [x] }

/-- The route to a device (R406). -/
def State.routeTo (s : State) (d : Nat) : Option Nat :=
  if s.rd (R.chnRoute_r_valid d) = 1 then some (s.rd (R.chnRoute_rport d)) else none

def State.myId (s : State) : Nat := s.rd R.chnCtl_id

/-! ### Swarm messages (R245, R246) -/

/-- The two words of R245. -/
structure SwarmMsg where
  kind : Nat
  sender : Nat
  dest : Nat
  coord : Nat
  swarm : Nat
  txn : Nat
  code : Nat
  t : Nat
  shot : Bool
  deriving DecidableEq, Repr

def SwarmMsg.words (m : SwarmMsg) : List Nat :=
  [m.kind + m.sender * 2 ^ 4 + m.dest * 2 ^ 12 + m.coord * 2 ^ 20 + m.swarm * 2 ^ 28 + m.txn * 2 ^ 44 + m.code * 2 ^ 48,
    m.t % 2 ^ 40 + (if m.shot then 2 ^ 40 else 0)]

def SwarmMsg.ofWords (ws : List Nat) : SwarmMsg :=
  let a := ws.getD 0 0
  let b := ws.getD 1 0
  { kind := bits a 3 0, sender := bits a 11 4, dest := bits a 19 12, coord := bits a 27 20, swarm := bits a 43 28,
    txn := bits a 47 44, code := bits a 55 48, t := bits b 39 0, shot := b.testBit 40 }

/-- A SWARM packet: header type 0x6 with two following words (R378). -/
def swarmPkt (m : SwarmMsg) : Pkt := ⟨0x26, m.words, 0⟩

/-- A message leaves over a port: dropped on a link below version 3 (R246). -/
def State.sendSwarm (s : State) (p : Nat) (m : SwarmMsg) : State :=
  if s.neighbourUp p ∧ s.rd (R.elvStatus_ver p) = 3 then s.queueOut p (swarmPkt m) else s

/-- A routed message. -/
def State.sendTo (s : State) (m : SwarmMsg) : State :=
  match s.routeTo m.dest with
  | none => s
  | some p => s.sendSwarm p m

/-- A flooded message goes out on every NEIGHBOUR port but one, and its identity is kept. -/
def State.floodOut (s : State) (m : SwarmMsg) (but : Option Nat) : State :=
  let s := { s with swm := { s.swm with flood := ((m.coord, m.swarm, m.kind) :: s.swm.flood).take 64 } }
  (List.range 8).foldl (fun s p => if some p = but then s else s.sendSwarm p m) s

/-- The flood has passed here before. -/
def State.flooded (s : State) (m : SwarmMsg) : Bool := s.swm.flood.contains (m.coord, m.swarm, m.kind)

/-! ### Packets received -/

/-- The oldest packet of a port that `ok` names, and the state without it. -/
def State.takePkt (s : State) (p : Nat) (ok : Pkt → Bool) : Option (Pkt × State) :=
  match (s.port p).inbox.find? ok with
  | none => none
  | some x => some (x, s.setPort p { s.port p with inbox := (s.port p).inbox.erase x })

def Pkt.ptype (x : Pkt) : Nat := x.hdr % 16
def Pkt.plen (x : Pkt) : Nat := x.hdr / 16 % 16

/-- The oldest SWARM packet of one kind. -/
def State.takeSwarm (s : State) (p kind : Nat) : Option (SwarmMsg × State) :=
  match s.takePkt p fun x => decide (x.ptype = 6 ∧ x.ws.getD 0 0 % 16 = kind) with
  | none => none
  | some (x, s) => some (SwarmMsg.ofWords x.ws, s)

end Sys2Proof.Machine
end

