-- ==== Sys2Proof/Machine/Txn.lean ====
section
/-! DEFINITION. Transactions and swarm commits: staging, requests, aborts, decision points, the swarm protocol (R235 to R255).
What an application does to the registers stands in Apply. -/

namespace Sys2Proof.Machine

def State.txn (s : State) (x : Nat) : TxnSt := SMap.get TxnSt.init s.txns x
def State.setTxn (s : State) (x : Nat) (v : TxnSt) : State := { s with txns := SMap.set TxnSt.init s.txns x v }

def State.txnState (s : State) (x : Nat) : Nat := s.rd (R.txnState_state x)
def tFREE : Nat := 0
def tOPEN : Nat := 1
def tPENDING : Nat := 2
def tLOCKED : Nat := 3
def tCOMMITTED : Nat := 4

def State.setTxnState (s : State) (x v : Nat) : State := s.wr (R.txnState_state x) v

/-- A transaction returns to FREE with an outcome; its entries and attachment go. -/
def State.freeTxn (s : State) (x code : Nat) : State :=
  ((((s.setTxnState x tFREE).wr (R.txnState_image x) 0).wr (R.txnState_entries x) 0).wr (R.txnState_outcome x) code).setTxn x
    TxnSt.init

/-! ### Staging (R236, R237) -/

/-- A calibration index that R462 lists. -/
def calIndexOk (x : Nat) : Bool :=
  if x < 0x400 then decide (x % 8 ≠ 7)
  else if x < 0xC00 then decide ((x - 0x400) % 32 < 25)
  else if x < 0xE00 then true
  else if x < 0xE80 then true
  else if x < 0xEA8 then true
  else if 0xEC0 ≤ x ∧ x < 0xED0 then true
  else decide (0xF00 ≤ x ∧ x < 0xF40)

/-- A word that a REG or RUN entry may name. -/
def stageable (a : Nat) : Bool :=
  match lookupWord a with
  | none => false
  | some w => w.hasCfg && decide (w.blk ≠ .txn ∧ w.blk ≠ .sec ∧ w.blk ≠ .host) && decide (a < 0x1000000)

/-- The buffer words an entry takes. -/
def entryLen (kind runLen : Nat) : Nat :=
  if kind = 1 then runLen + 1 else if kind = 2 then 2 else if kind = 3 then 8 else 1

def entryOk (kind target runLen : Nat) : Bool :=
  if kind = 0 then stageable target
  else if kind = 1 then (List.range (runLen + 1)).all fun i => stageable (target + 4 * i)
  else if kind = 2 then decide (target < 2 ^ 17)
  else if kind = 3 then decide (target < 2 ^ 22)
  else if kind = 4 then decide (target < 256)
  else if kind = 5 then calIndexOk target
  else false

/-- An entry is added; it takes its place in staging memory. -/
def State.addEntry (s : State) (x : Nat) (e : Entry) : State :=
  let v := s.txn x
  let s := s.cleanChunk (s.rgnStart 1 / 32 + Config.stageChunk x v.ents.length)
  (s.setTxn x { v with ents := v.ents ++ [e] }).wr (R.txnState_entries x) (v.ents.length + 1)

def State.txnOpen (s : State) : State :=
  let x := s.rd R.txnSel_txn
  if s.txnState x = tFREE then ((s.setTxn x TxnSt.init).setTxnState x tOPEN).wr R.txnCmd_result rOK
  else s.wr R.txnCmd_result rSTATE

def State.txnStage (s : State) : State :=
  let x := s.rd R.txnSel_txn
  let kind := s.rd R.txnStageKind_kind
  let len := s.rd R.txnStageKind_run_len
  let target := s.rd R.txnStageAddr_target
  if s.txnState x ≠ tOPEN ∨ s.rd (R.txnState_image x) = 1 then s.wr R.txnCmd_result rSTATE
  else if 4096 ≤ (s.txn x).ents.length ∨ entryOk kind target len = false then s.wr R.txnCmd_result rRANGE
  else (s.addEntry x ⟨kind, target, (List.range (entryLen kind len)).map fun i => s.rd (R.txnBuf_data i)⟩).wr R.txnCmd_result rOK

def execTxnOpen (t : Nat) (s : State) : Host.Outcome State Fault Refusal :=
  let s := s.at t
  if s.awake then .next (s.hostCmd 0x40008 fun s => s.txnOpen) else .next s

def execTxnStage (t : Nat) (s : State) : Host.Outcome State Fault Refusal :=
  let s := s.at t
  if s.awake then .next (s.hostCmd 0x40008 fun s => s.txnStage) else .next s

/-! ### What a transaction names -/

/-- The Combs in whose block a run of words lies. -/
def combsOfRun (a len : Nat) : Nat :=
  (List.range 64).foldl
    (fun m n =>
      if 0x100000 + 0x4000 * n < a + 4 * len ∧ a < 0x100000 + 0x4000 * (n + 1) then m ||| 2 ^ n else m) 0

/-- The Combs whose outputs the TIME_FRAC words of a run belong to (R91). -/
def fracCombs (a len : Nat) : Nat :=
  (List.range 64).foldl (fun m n => if 0x30100 + 8 * n < a + 4 * len ∧ a < 0x30100 + 8 * (n + 1) then m ||| 2 ^ n else m) 0

/-- The Combs an entry names, as a mask (R240, R242). -/
def entryCombs (e : Entry) : Nat :=
  if e.kind ≤ 1 then combsOfRun e.target e.data.length ||| fracCombs e.target e.data.length
  else if e.kind = 2 then 2 ^ (e.target / 2048)
  else if e.kind = 4 then 2 ^ (e.target / 4)
  else 0

def entsCombs (es : List Entry) : Nat := es.foldl (fun m e => m ||| entryCombs e) 0

/-- The TXN interrupt on every Comb an entry names (R242), and the event of R426. -/
def State.txnOutcome (s : State) (es : List Entry) : State :=
  ((List.range 64).foldl (fun s n => if (entsCombs es).testBit n then s.raiseInt n 2 else s) s).fireD 87

/-! ### Requests (R239 to R241) -/

/-- The entries are read from staging memory: the chunks that are unreadable (R352). -/
def State.readStage (s : State) (x : Nat) : List Nat × State :=
  s.meetAll ((List.range (s.txn x).ents.length).map fun i => s.rgnStart 1 / 32 + Config.stageChunk x i)

/-- An entry's place in staging memory is uncorrectable. -/
def State.stageBad (s : State) (x : Nat) : Bool := !(s.readStage x).1.isEmpty

/-- The SHOT scope of a host's commit (R240, R254). -/
def State.hostScope (s : State) (x : Nat) : Nat :=
  if s.rd R.txnCtl_level = 1 then s.rd R.txnScopeLo_scope + 2 ^ 32 * s.rd R.txnScopeHi_scope
  else if s.rd (R.txnState_image x) = 1 then 2 ^ 64 - 1
  else entsCombs (s.txn x).ents

/-- The point of a Comb in a SHOT scope; none while E is not known. -/
def State.combPoint (s : State) (n reqAt : Nat) : Option Nat :=
  match (s.seq n).shots.head? with
  | none => some (max reqAt (s.seq n).lastE)
  | some x => (s.shotE n x).map fun e => max reqAt (max e (s.seq n).lastE)

/-- B of a transaction: fixed, or in SHOT mode the first beat boundary at or after the latest point. -/
def State.txnBeat (s : State) (x : Nat) : Option Nat :=
  let v := s.txn x
  match v.beat with
  | some b => some b
  | none =>
    ((List.range 64).foldl
      (fun acc n =>
        match acc with
        | none => none
        | some m => if v.scope.testBit n then (s.combPoint n v.reqAt).map fun p => max m p else some m) (some (v.reqAt + 1024))).map beatUp

/-- A SHOT begin of Comb n that goes on fixes B of every commit that held it: the shot it opens is no point of theirs. -/
def State.fixTxns (s : State) (n : Nat) : State :=
  (List.range 16).foldl
    (fun s x =>
      let v := s.txn x
      if (s.txnState x = tPENDING ∨ s.txnState x = tCOMMITTED) ∧ v.shot ∧ v.scope.testBit n then
        s.setTxn x { v with beat := s.txnBeat x }
      else s) s

/-- Starts of Comb n are held by a transaction (R240, R250). -/
def State.txnHolds (s : State) (n : Nat) : Bool :=
  (List.range 16).any fun x =>
    decide (s.txnState x = tPENDING ∨ s.txnState x = tCOMMITTED) && (s.txn x).shot && (s.txn x).scope.testBit n

/-- The request of a commit on this Hive: the result code and the new state. `only` is the issuing Comb of a COMMIT step. -/
def State.requestCommit (s : State) (x mode t : Nat) (only : Option Nat) (iss : Option (Nat × Issue)) : Nat × State :=
  if mode = 3 then (rRANGE, s)
  else if s.txnState x ≠ tOPEN then (rSTATE, s)
  else if s.stageBad x then (rECC, (s.readStage x).2.freeTxn x rECC)
  else
    let s := (s.readStage x).2
    let now := beatUp (s.dial + 1024)
    let v := { s.txn x with reqAt := s.dial, issuer := iss, no := s.reqNo + 1 }
    let s := { s with reqNo := s.reqNo + 1 }
    if mode = 2 then
      let scope := match only with | some n => 2 ^ n | none => s.hostScope x
      let s := if only = none ∧ s.rd R.txnCtl_level = 0 then
          (s.wr R.txnScopeLo_scope (scope % 2 ^ 32)).wr R.txnScopeHi_scope (scope / 2 ^ 32)
        else s
      (rOK, (s.setTxn x { v with shot := true, scope := scope, beat := if scope = 0 then some now else none }).setTxnState x tPENDING)
    else if mode = 1 then
      if t ≤ s.dial + 1024 then
        (rOK, (((s.setTxn x { v with beat := some now }).setTxnState x tPENDING)).setF R.txnFlags_txn_late)
      else (rOK, (s.setTxn x { v with beat := some (beatUp t) }).setTxnState x tPENDING)
    else (rOK, (s.setTxn x { v with beat := some now }).setTxnState x tPENDING)

def State.txnCommit (s : State) : State :=
  let r := s.requestCommit (s.rd R.txnSel_txn) (s.rd R.txnCmd_cmode)
    (expand40 (s.rd R.txnAtLo_at_lo + 2 ^ 32 * s.rd R.txnAtHi_at_hi) s.dial) none none
  r.2.wr R.txnCmd_result r.1

def execTxnCommit (t : Nat) (s : State) : Host.Outcome State Fault Refusal :=
  let s := s.at t
  if s.awake then .next (s.hostCmd 0x40008 fun s => s.txnCommit) else .next s

/-- The decision point has passed (R241). -/
def State.decided (s : State) (x : Nat) : Bool :=
  (s.txn x).decided ||
    (match s.txnBeat x with
      | some b => decide (b < s.dial + 1024)
      | none => false)

/-- An abort request: the result code and the new state (R241, R247). -/
def State.abortTxn (s : State) (x : Nat) : Nat × State :=
  if s.txnState x = tOPEN ∨ (s.txnState x = tPENDING ∧ s.decided x = false) then
    let es := (s.txn x).ents
    (rOK, (s.freeTxn x rABORTED).txnOutcome es)
  else (rSTATE, s)

def State.txnAbort (s : State) : State :=
  let r := s.abortTxn (s.rd R.txnSel_txn)
  r.2.wr R.txnCmd_result r.1

def execTxnAbort (t : Nat) (s : State) : Host.Outcome State Fault Refusal :=
  let s := s.at t
  if s.awake then .next (s.hostCmd 0x40008 fun s => s.txnAbort) else .next s

/-! ### Swarms: times and records (R243, R252) -/

/-- L1 of R243. -/
def State.swarmL1 (s : State) : Nat := max 1 (s.ard R.txnCtl_swarm_hops) * 1280

/-- G of R243. -/
def State.swarmG (s : State) : Nat := if s.rd R.txnCtl_level = 1 then s.rd R.swmGuard_guard else 2 * s.swarmL1 + 1024

def State.addRec (s : State) (r : SwarmRec) : State := { s with swm := { s.swm with recs := (r :: s.swm.recs).take 64 } }

def setRecIn (coord swarm : Nat) (f : SwarmRec → SwarmRec) : List SwarmRec → List SwarmRec
  | [] => []
  | r :: rs => if r.coord = coord ∧ r.swarm = swarm then f r :: rs else r :: setRecIn coord swarm f rs

def State.setRec (s : State) (coord swarm : Nat) (f : SwarmRec → SwarmRec) : State :=
  { s with swm := { s.swm with recs := setRecIn coord swarm f s.swm.recs } }

def State.findRec (s : State) (coord swarm : Nat) : Option SwarmRec :=
  s.swm.recs.find? fun r => decide (r.coord = coord ∧ r.swarm = swarm)

/-- SWM_ORPH_0 and SWM_ORPH_1 show a record whose outcome is known (R252, R259). -/
def State.showOrphan (s : State) (r : SwarmRec) : State :=
  match r.outcome with
  | none => s
  | some o =>
    (((s.wr R.swmOrph0_orph_swarm r.swarm).wr R.swmOrph0_orph_coord r.coord).wr R.swmOrph0_orph_outcome o).wr R.swmOrph1_orph_peer
      (match r.peer with | none => 0 | some c => if c = o then 1 else 2)

/-- STATUS_A to a Hive that asked. -/
def State.answerStatus (s : State) (coord swarm dest code : Nat) : State :=
  s.sendTo { kind := 7, sender := s.myId, dest := dest, coord := coord, swarm := swarm, txn := 0, code := code, t := 0, shot := false }

/-- The outcome of a swarm is known here: those who asked are answered, and an orphan that was asked about is shown. -/
def State.decideRec (s : State) (coord swarm code : Nat) : State :=
  match s.findRec coord swarm with
  | none => s
  | some r =>
    let s := s.setRec coord swarm fun r => { r with outcome := some code, askers := [] }
    let s := r.askers.foldl (fun s d => s.answerStatus coord swarm d code) s
    if r.asked ∨ r.inDoubt then s.showOrphan { r with outcome := some code } else s

/-- The transaction of this Hive that is LOCKED or COMMITTED in a swarm. -/
def State.swarmTxn (s : State) (coord swarm : Nat) : Option Nat :=
  (List.range 16).find? fun x =>
    decide (s.txnState x = tLOCKED ∨ s.txnState x = tCOMMITTED) && decide ((s.txn x).coord = coord ∧ (s.txn x).swarm = swarm)

/-! ### Swarms: a participant (R247 to R250) -/

/-- A new record; `beat` is B where this Hive takes part. -/
def newRec (coord swarm : Nat) (beat : Option Nat) : SwarmRec :=
  { swarm := swarm, coord := coord, outcome := none, isolated := false, inDoubt := false, asked := false, beat := beat, peer := none,
    askers := [] }

/-- What a participant votes on PREPARE. -/
def State.voteOn (s : State) (x t : Nat) : Nat :=
  if s.txnState x ≠ tOPEN ∨ s.rd (R.txnState_image x) = 1 then rSTATE
  else if t ≤ s.dial + 1024 then rRANGE
  else if s.stageBad x then rECC
  else rOK

/-- A participant's vote on PREPARE, and its new state: a NO keeps a record too, whose outcome is ABORTED (R251, R252). -/
def State.prepare (s : State) (x coord swarm t40 : Nat) (shot : Bool) : Nat × State :=
  let t := expand40 t40 s.dial
  let v := s.voteOn x t
  let s := if v = rOK ∨ v = rECC then (s.readStage x).2 else s
  let r := newRec coord swarm (some (beatUp t))
  if v ≠ rOK then (v, s.addRec { r with outcome := some rABORTED })
  else
    let s := s.setTxn x
      { s.txn x with beat := some (beatUp t), tApply := t, coord := coord, swarm := swarm, shot := shot, reqAt := s.dial,
                     no := s.reqNo + 1 }
    let s := { s with reqNo := s.reqNo + 1 }
    (rOK, (s.setTxnState x tLOCKED).addRec r)

/-- COMMIT reaches a participant; true when it acknowledges. -/
def State.takeCommit (s : State) (coord swarm : Nat) : Bool × State :=
  match s.swarmTxn coord swarm with
  | none => (false, s)
  | some x =>
    if s.txnState x = tLOCKED ∧ s.decided x = false then
      let v := s.txn x
      (true, (s.setTxn x { v with scope := if v.shot then s.hostScope x else 0 }).setTxnState x tCOMMITTED)
    else (false, s)

/-- ABORT reaches a participant (R249): it is late once the decision point has passed. -/
def State.takeAbort (s : State) (coord swarm : Nat) : State :=
  let late := fun (s : State) => (s.swarmFlag R.txnFlags_abort_late).swarmFlag R.txnFlags_orphan
  match s.swarmTxn coord swarm with
  | some x =>
    if s.decided x then late s
    else
      let es := (s.txn x).ents
      ((s.freeTxn x rABORTED).decideRec coord swarm rABORTED).txnOutcome es
  | none =>
    match (s.findRec coord swarm).bind (·.beat) with
    | some b => if b < s.dial + 1024 then late s else s
    | none => s

/-- TXN_DECISION_POINT: B − 1,024 ticks is reached. -/
def execTxnDecisionPoint (t x : Nat) (s : State) : Host.Outcome State Fault Refusal :=
  let s := s.at t
  let v := s.txn x
  match s.txnBeat x with
  | none => .next s
  | some b =>
    if s.dial + 1024 < b then .next s
    else if s.txnState x = tPENDING ∨ s.txnState x = tCOMMITTED then .next (s.setTxn x { v with decided := true, beat := some b })
    else if s.txnState x = tLOCKED then
      let s := (s.freeTxn x rABORTED).setRec v.coord v.swarm fun r => { r with inDoubt := true }
      .next (((s.decideRec v.coord v.swarm rABORTED).swarmFlag R.txnFlags_in_doubt).txnOutcome v.ents)
    else .next s

/-! ### Swarms: the coordinator (R244, R248) -/

def swarmMsg (s : State) (kind dest code : Nat) : SwarmMsg :=
  { kind := kind, sender := s.myId, dest := dest, coord := s.myId, swarm := s.rd R.swmCtl_swarm_no, txn := s.swm.txnNo,
    code := code, t := s.swm.t, shot := s.swm.shot }

def State.setSwm (s : State) (x : SwarmSt) : State := { s with swm := x }

/-- The swarm ends with ABORT flooded. -/
def State.swarmAbort (s : State) : State :=
  let s := s.floodOut (swarmMsg s 5 0xFF 0) none
  let s := (s.wr R.swmStatus_phase 4).wr R.swmCtl_result rABORTED
  let s := s.setSwm { s.swm with running := false }
  if s.swm.self then s.takeAbort s.myId (s.rd R.swmCtl_swarm_no)
  else s.decideRec s.myId (s.rd R.swmCtl_swarm_no) rABORTED

/-- An ACK counts; with all of them by T − G the swarm is committed. -/
def State.countAck (s : State) (d : Nat) : State :=
  let w := s.swm
  if w.acked.contains d then s
  else
    let s := (s.setSwm { w with acked := d :: w.acked }).wr R.swmStatus_acks (w.acked.length + 1)
    if (w.parts.all fun p => (d :: w.acked).contains p) ∧ (w.self = false ∨ (d :: w.acked).contains s.myId) then
      let s := ((s.wr R.swmStatus_phase 3).wr R.swmCtl_result rOK).setSwm { s.swm with running := false }
      if w.self then s else s.decideRec s.myId (s.rd R.swmCtl_swarm_no) rOK
    else s

/-- A YES counts; with all of them COMMIT is flooded. -/
def State.countYes (s : State) (d : Nat) : State :=
  let w := s.swm
  if w.yes.contains d then s
  else
    let s := (s.setSwm { w with yes := d :: w.yes }).wr R.swmStatus_votes (w.yes.length + 1)
    if (w.parts.all fun p => (d :: w.yes).contains p) ∧ (w.self = false ∨ (d :: w.yes).contains s.myId) then
      let s := (s.floodOut (swarmMsg s 3 0xFF 0) none).wr R.swmStatus_phase 2
      if w.self then
        let r := s.takeCommit s.myId (s.rd R.swmCtl_swarm_no)
        if r.1 then r.2.countAck s.myId else r.2
      else s
    else s

/-- The participants that SWM_PART_j names, the coordinator's own bit ignored. -/
def State.swarmParts (s : State) : List Nat :=
  (List.range 255).filter fun d => (s.rd (R.swmPart_part (d / 32))).testBit (d % 32) && decide (d ≠ s.myId)

/-- `go` of SWM_CTL. -/
def State.swarmGo (s : State) : State :=
  let t40 := s.rd R.swmTLo_t_lo + 2 ^ 32 * s.rd R.swmTHi_t_hi
  let parts := s.swarmParts
  let x := s.rd R.swmCtl_txn_no
  let self := s.flag R.swmCtl_self
  let l1 := s.swarmL1
  let g := s.swarmG
  if s.swm.running then s.wr R.swmCtl_result rBUSY
  else if parts = [] then s.wr R.swmCtl_result rRANGE
  else if diff40 t40 s.dial < (4 * l1 + 1792 + g : Nat) then s.wr R.swmCtl_result rRANGE
  else if g < 2 * l1 + 1024 then s.wr R.swmCtl_result rRANGE
  else if self ∧ s.txnState x ≠ tOPEN then s.wr R.swmCtl_result rSTATE
  else
    let s := (s.wr R.swmCtl_swarm_no (s.rd R.swmCtl_swarm_no + 1)).wr R.swmCtl_result rOK
    let s := ((s.wr R.swmStatus_phase 1).wr R.swmStatus_votes 0).wr R.swmStatus_acks 0
    let s := s.setSwm
      { s.swm with running := true, txnNo := x, t := expand40 t40 s.dial, shot := s.flag R.swmCtl_mode, parts := parts,
                   self := self, yes := [], acked := [], guard := g }
    let s := parts.foldl (fun s d => s.sendTo (swarmMsg s 1 d 0)) s
    if self then
      let r := s.prepare x s.myId (s.rd R.swmCtl_swarm_no) t40 s.swm.shot
      if r.1 = rOK then r.2.countYes s.myId else r.2.swarmAbort
    else s.addRec (newRec s.myId (s.rd R.swmCtl_swarm_no) none)

def execSwarmGo (t : Nat) (s : State) : Host.Outcome State Fault Refusal :=
  let s := s.at t
  if s.awake then .next (s.hostCmd 0x40200 fun s => s.swarmGo) else .next s

/-- SWARM_GUARD_EXPIRY: T − G is reached with votes or ACKs outstanding. -/
def execSwarmGuardExpiry (t : Nat) (s : State) : Host.Outcome State Fault Refusal :=
  let s := s.at t
  if s.swm.running ∧ s.swm.t ≤ s.dial + s.swm.guard then .next s.swarmAbort else .next s

/-! ### Swarms: messages received (R246) -/

/-- A routed message that is not for this Hive goes on. -/
def State.passOn (s : State) (m : SwarmMsg) : State := if m.dest = s.myId then s else s.sendTo m

/-- PREPARE: the participant votes. -/
def execPrepare (t port : Nat) (s : State) : Host.Outcome State Fault Refusal :=
  let s := s.at t
  match s.takeSwarm port 1 with
  | none => .next s
  | some (m, s) =>
    if s.inChain = false then .next s
    else if m.dest ≠ s.myId then .next (s.sendTo m)
    else
      let r := s.prepare m.txn m.coord m.swarm m.t m.shot
      .next (r.2.sendTo { m with kind := 2, sender := s.myId, dest := m.coord, code := r.1 })

/-- VOTE: the coordinator counts it. -/
def execVote (t port : Nat) (s : State) : Host.Outcome State Fault Refusal :=
  let s := s.at t
  match s.takeSwarm port 2 with
  | none => .next s
  | some (m, s) =>
    if s.inChain = false then .next s
    else if m.dest ≠ s.myId then .next (s.sendTo m)
    else if s.swm.running ∧ m.coord = s.myId ∧ m.swarm = s.rd R.swmCtl_swarm_no ∧ s.rd R.swmStatus_phase = 1 ∧ s.swm.parts.contains m.sender then
      .next (if m.code = rOK then s.countYes m.sender else s.swarmAbort)
    else .next s

/-- COMMIT: a LOCKED participant commits and acknowledges; the flood goes on. -/
def execSwarmCommit (t port : Nat) (s : State) : Host.Outcome State Fault Refusal :=
  let s := s.at t
  match s.takeSwarm port 3 with
  | none => .next s
  | some (m, s) =>
    if s.inChain = false ∨ s.flooded m then .next s
    else
      let s := s.floodOut m (some port)
      let r := s.takeCommit m.coord m.swarm
      .next (if r.1 then r.2.sendTo { m with kind := 4, sender := s.myId, dest := m.coord } else r.2)

/-- ACK: the coordinator counts it when it comes at or before T − G. -/
def execAck (t port : Nat) (s : State) : Host.Outcome State Fault Refusal :=
  let s := s.at t
  match s.takeSwarm port 4 with
  | none => .next s
  | some (m, s) =>
    if s.inChain = false then .next s
    else if m.dest ≠ s.myId then .next (s.sendTo m)
    else if s.swm.running ∧ m.coord = s.myId ∧ m.swarm = s.rd R.swmCtl_swarm_no ∧ s.rd R.swmStatus_phase = 2 ∧
        s.swm.parts.contains m.sender ∧ s.dial + s.swm.guard ≤ s.swm.t then
      .next (s.countAck m.sender)
    else .next s

/-- ABORT: the participant aborts; the flood goes on. -/
def execSwarmAbort (t port : Nat) (s : State) : Host.Outcome State Fault Refusal :=
  let s := s.at t
  match s.takeSwarm port 5 with
  | none => .next s
  | some (m, s) =>
    if s.inChain = false ∨ s.flooded m then .next s
    else .next ((s.floodOut m (some port)).takeAbort m.coord m.swarm)

/-- STATUS_Q: whoever holds the record answers, once its outcome is known; the flood goes on. -/
def execStatusQ (t port : Nat) (s : State) : Host.Outcome State Fault Refusal :=
  let s := s.at t
  match s.takeSwarm port 6 with
  | none => .next s
  | some (m, s) =>
    if s.inChain = false ∨ s.flooded m then .next s
    else
      let s := s.floodOut m (some port)
      match (s.findRec m.coord m.swarm).map (·.outcome) with
      | none => .next s
      | some none => .next (s.setRec m.coord m.swarm fun r => { r with askers := r.askers ++ [m.sender] })
      | some (some o) => .next (s.answerStatus m.coord m.swarm m.sender o)

/-- STATUS_A: the first answer settles `orph_peer`. -/
def execStatusA (t port : Nat) (s : State) : Host.Outcome State Fault Refusal :=
  let s := s.at t
  match s.takeSwarm port 7 with
  | none => .next s
  | some (m, s) =>
    if s.inChain = false then .next s
    else if m.dest ≠ s.myId then .next (s.sendTo m)
    else if s.swm.asks.any fun a => decide (a.1 = m.coord ∧ a.2.1 = m.swarm) then
      let s := s.setSwm { s.swm with asks := s.swm.asks.filter fun a => ¬ (a.1 = m.coord ∧ a.2.1 = m.swarm) }
      let s := s.setRec m.coord m.swarm fun r => { r with peer := some m.code }
      if s.rd R.swmOrph0_orph_swarm = m.swarm ∧ s.rd R.swmOrph0_orph_coord = m.coord then
        .next (match s.findRec m.coord m.swarm with | some r => s.showOrphan r | none => s)
      else .next s
    else .next s

/-- STATUS_NO_ANSWER: a STATUS_Q has waited 1 ms. -/
def execStatusNoAnswer (t : Nat) (s : State) : Host.Outcome State Fault Refusal :=
  let s := s.at t
  let old := s.swm.asks.filter fun a => decide (a.2.2 + msTicks ≤ s.dial)
  if old = [] then .next s
  else
    let s := s.setSwm { s.swm with asks := s.swm.asks.filter fun a => ¬ a.2.2 + msTicks ≤ s.dial }
    if old.any fun a => decide (s.rd R.swmOrph0_orph_swarm = a.2.1 ∧ s.rd R.swmOrph0_orph_coord = a.1) then
      .next (s.wr R.swmOrph1_orph_peer 0)
    else .next s

/-- STATUS_Q goes out for every isolated or IN_DOUBT record when a NEIGHBOUR port reaches ACTIVE (R251, R252). -/
def State.askOrphans (s : State) : State :=
  s.swm.recs.reverse.foldl
    (fun s r =>
      if (r.isolated ∨ r.inDoubt) ∧ r.asked = false then
        let r := { r with asked := true, peer := none }
        let s := s.setRec r.coord r.swarm fun _ => r
        let s := if r.isolated then s.swarmFlag R.txnFlags_orphan else s
        let s := s.showOrphan r
        let s := s.floodOut
          { kind := 6, sender := s.myId, dest := 0xFF, coord := r.coord, swarm := r.swarm, txn := 0, code := 0, t := 0, shot := false } none
        s.setSwm { s.swm with asks := s.swm.asks ++ [(r.coord, r.swarm, s.dial)] }
      else s) s

/-- Every NEIGHBOUR port has left ACTIVE and DEGRADED: this Hive is isolated in each swarm that it takes part in and whose B lies
ahead, decided or not (R251). -/
def State.isolate (s : State) : State :=
  if (List.range 8).any s.neighbourUp then s
  else
    let cut := fun (r : SwarmRec) => match r.beat with | some b => decide (s.dial < b) | none => false
    { s with swm := { s.swm with recs := s.swm.recs.map fun r => if cut r then { r with isolated := true, asked := false } else r } }

/-- The route to a participant disappears between PREPARE and B (R251). -/
def State.lostRoute (s : State) (d : Nat) : State :=
  if s.swm.parts.contains d ∧ s.dial < beatUp s.swm.t then s.swarmFlag R.txnFlags_swarm_lost else s

/-- `guard` at the basic level (R255). -/
def State.deriveTxn (s : State) : State :=
  if s.rd R.txnCtl_level = 1 then s else s.wr R.swmGuard_guard (2 * s.swarmL1 + 1024)

end Sys2Proof.Machine
end

