-- ==== Sys2Proof/Machine/Service.lean ====
section
/-! DEFINITION. Service states: the causes of leaving Green, entering and leaving Green, MUTE_N, the first enabled load (R15
to R20, R266, R314, R330, R490 to R492). -/

namespace Sys2Proof.Machine

def State.setSvc (s : State) (x : SvcSt) : State := { s with svc := x }

/-- The code of R15 that `state` shows; Dark shows nothing. -/
def svcCode : Svc → Nat
  | .dark => 1
  | .amber => 1
  | .green => 2
  | .sleep => 3

/-- The service state changes: time is counted up to here, D(84) fires. -/
def State.toSvc (s : State) (v : Svc) : State :=
  let s := s.account
  ((s.setSvc { s.svc with svc := v }).wr R.hiveState_state (svcCode v)).fireD 84

/-! ### The first enabled load (R490, R491) -/

/-- An enabled load. The first one releases the outputs from their power-up states; the first after a return to Green
releases those that leaving Green held. -/
def State.enabledLoad (s : State) : State :=
  if s.rd R.secBoot_oe = 0 ∨ (s.isAmber = false ∧ s.isGreen = false) then s
  else
    let s :=
      if s.svc.firstLoad then s
      else (((s.setSvc { s.svc with firstLoad := true }).unmuteAll 0).readyAll 0).markFreeAll 0
    if s.isGreen then ((s.unmuteAll 2).readyAll 1).markFreeAll 1 else s

/-! ### Leaving Green (R16 to R18, R20) -/

/-- Every shot that is open is marked invalid. -/
def State.markAllOpen (s : State) : State := (List.range 64).foldl (fun s n => s.markOpen n) s

/-- What leaving Green does to outputs, sequencers, windows and capture. -/
def State.stopGreen (s : State) : State :=
  let s := s.markAllOpen
  let s := s.cutOpen
  let s := ((s.muteAll 2).zeroAll 1 false).markLowAll 1
  let s := (List.range 64).foldl (fun s n => s.raiseAbort n 3) s
  s.capService

def State.leaveGreen (s : State) (cause : Nat) : State :=
  let s := s.stopGreen
  let s := if s.isSleep then s.markFreeAll 2 else s
  ((s.wr R.hiveState_cause cause).lifeAdd 4 4 1).toSvc .amber

/-- What a cause invalidates, and the status that shows it: `shut` and `rail_bad` (R445, R455). -/
def State.noteCause (s : State) (cause : Nat) : State :=
  let s := if s.svc.causes.contains cause then s else s.setSvc { s.svc with causes := s.svc.causes ++ [cause] }
  if cause = 1 then s.wr R.thmStatus_shut 1
  else if cause = 4 then s.wr R.monStatus_rail_bad 1
  else if cause = 5 then s.setSvc { s.svc with hbmTrained := false }
  else s.setSvc { s.svc with convCal := false }

/-- A Green-loss cause arises. The first one ordered is recorded; each raises the state-change event (R20). In Sleep only
cause 0x1 acts at once (R16). -/
def State.greenLoss (s : State) (cause : Nat) : State :=
  let s := s.noteCause cause
  if s.isGreen ∨ (s.isSleep ∧ cause = 1) then s.leaveGreen cause else s.fireD 84

/-- LEAVE_GREEN: one of the causes of R17. -/
def execLeaveGreen (t cause : Nat) (s : State) : Host.Outcome State Fault Refusal :=
  let s := s.at t
  if s.awake ∧ 1 ≤ cause ∧ cause ≤ 5 then
    let s := if cause = 2 then s.wr R.timeStatus_pll_lock 0 else s
    .next (s.greenLoss cause)
  else .next s

/-! ### Green (R16, R19, R488, R489) -/

/-- The conditions of R16 for Green other than `green_hold`. -/
def State.fit (s : State) : Bool :=
  decide (s.rd R.timeStatus_pll_lock = 1) && s.svc.hbmTrained && s.svc.monCal && s.svc.convCal && decide (s.svc.causes = []) &&
    decide (s.rd R.secBoot_recovery = 0 ∧ s.rd R.secBoot_no_image = 0)

/-- The boot interval ends when these conditions first hold (R478). -/
def State.bootCheck (s : State) : State :=
  if s.fit ∧ s.life.booted = false then (s.account).setLife { s.account.life with booted := true } else s

/-- GREEN_LOSS_CLEARED: the cause holds no longer. -/
def State.clearCause (s : State) (cause : Nat) : State :=
  let s := s.setSvc { s.svc with causes := s.svc.causes.filter (· ≠ cause) }
  let s :=
    if cause = 1 then s.wr R.thmStatus_shut 0
    else if cause = 4 then s.wr R.monStatus_rail_bad 0
    else if cause = 5 then s.setSvc { s.svc with hbmTrained := true }
    else s
  s.bootCheck

def execGreenLossCleared (t cause : Nat) (s : State) : Host.Outcome State Fault Refusal :=
  let s := s.at t
  if s.awake ∧ s.svc.causes.contains cause then .next (s.clearCause cause) else .next s

/-! ### MUTE_N (R23, R266, R314) -/

/-- Shots that overlap the low period of MUTE_N up to now. -/
def State.markOverlap (s : State) : State :=
  (List.range 64).foldl
    (fun s n =>
      (s.seq n).shots.foldl
        (fun s x =>
          if x.s ≤ s.dial ∧ x.invalid = false ∧ (match s.shotE n x with | some e => decide (s.svc.muteAt < e) | none => true) = true then
            s.markShot n (some x.num)
          else s) s) s

/-- MUTE_N_LOW: its falling edge. -/
def State.muteLow (s : State) : State :=
  let s := s.setSvc { s.svc with muteHigh := false, muteAt := s.dial }
  (((s.markOverlap.cutOpen).muteAll 3).zeroAll 3 true).hiveMuted

def execMuteNLow (t : Nat) (s : State) : Host.Outcome State Fault Refusal :=
  let s := s.at t
  if s.svc.muteHigh = false then .next s else if s.awake then .next s.muteLow else .next (s.setSvc { s.svc with muteHigh := false })

/-- The RF outputs of every Comb resume at its next shot boundary. -/
def State.askResume (s : State) : State :=
  (List.range 64).foldl
    (fun s n => s.setSeq n { s.seq n with resume := some s.dial }) s

/-- MUTE_N_HIGH: its rising edge. -/
def State.muteHigh (s : State) : State :=
  let s := s.markOverlap
  (((s.setSvc { s.svc with muteHigh := true }).askResume).readyAll 3).hiveMuted

def execMuteNHigh (t : Nat) (s : State) : Host.Outcome State Fault Refusal :=
  let s := s.at t
  if s.svc.muteHigh then .next s else if s.awake then .next s.muteHigh else .next (s.setSvc { s.svc with muteHigh := true })

/-! ### The master output enable (R492) -/

def State.setOe (s : State) (on : Bool) : State :=
  let was := decide (s.rd R.secBoot_oe = 1)
  let s := s.wr R.secBoot_oe (if on then 1 else 0)
  let s :=
    if on ∧ was = false then (s.askResume).readyAll 4
    else if on = false ∧ was then (s.muteAll 4).zeroAll 4 true
    else s
  s.hiveMuted

/-- `amber_rf` = 1 lets the RF outputs out of the mute of Amber (R266). -/
def State.amberRf (s : State) : State :=
  if s.rd R.hiveSvcCtl_amber_rf = 1 then s.unmuteAll 1 else if s.isAmber ∧ s.svc.greenSeen = false then s.muteAll 1 else s

/-! ### Waking (R16, R20, R501) -/

/-- A wake event: it counts in Sleep and during Sleep entry. -/
def State.wake (s : State) : State :=
  if (s.isSleep ∨ s.svc.entry) ∧ s.svc.wakeAt = none then s.setSvc { s.svc with wakeAt := some s.dial } else s

/-- WAKE_PIN: a rising edge on WAKE. -/
def execWakePin (t : Nat) (s : State) : Host.Outcome State Fault Refusal := .next ((s.at t).wake)

end Sys2Proof.Machine
end

