-- ==== Sys2Proof/Machine/Monitor.lean ====
section
/-! DEFINITION. Monitor converters, MCAL and the governor (R437 to R456). -/

namespace Sys2Proof.Machine

def State.mon (s : State) (m : Nat) : MonSt := SMap.get MonSt.init s.mons m
def State.setMon (s : State) (m : Nat) (x : MonSt) : State := { s with mons := SMap.set MonSt.init s.mons m x }
def State.setThm (s : State) (x : ThmSt) : State := { s with thm := x }

/-- Event e of modulator m, and its summary (R449, R426). -/
def State.monEvent (s : State) (m e : Nat) : State := (s.fireD (96 + 32 * m + e)).fireD (127 + 32 * m)

/-! ### Choosing the next work (R439 to R443) -/

/-- Inputs that a modulator has (R437). -/
def monInputs (m : Nat) : Nat := if m = 4 then 18 else 74

/-- The calibration path of an input (R450). -/
def monPath (m i : Nat) : Nat :=
  if m = 4 then (if i < 8 then 0 else if i < 16 then 1 else if i = 16 then 2 else 3)
  else if i < 64 then 0 else if i < 68 then 1 else if i < 72 then 2 else 3

def romRate (code : Nat) : Nat := if code = 0 then 64 else if code = 1 then 250 else if code = 2 then 1000 else 4000

/-- R, N and k of a preset on modulator m (R439, R440). -/
def State.preset (s : State) (m p : Nat) : Nat × Nat × Nat :=
  if p = 0 then (64, 2, 0)
  else if p = 1 then (250, 14, 2)
  else if p = 2 then (4000, 14, 2)
  else
    let n := clampN (s.ard (R.monCustom_c_n m)) 1 256
    (romRate (s.ard (R.monCustom_c_rom m)), n, min (s.ard (R.monCustom_c_k m)) ((n - 1) / 2))

/-- The Dial value at which a conversion ends. -/
def MonConv.finish (c : MonConv) : Nat := c.start + (2 + c.outs) * c.rate * 1600

/-- A conversion begins at `at'`, with the factors active there (R450). -/
def State.monStart (s : State) (m src slot input preset at' : Nat) : State :=
  let p := s.preset m preset
  let path := monPath m input
  s.setMon m
    { s.mon m with
      cur := some
        { src := src, slot := slot, input := input, rate := p.1, outs := p.2.1, drop := p.2.2, start := at',
          gain := s.ard (R.monCgain_cal_gain m path), off := signed 24 (s.ard (R.monCoff_cal_off m path)), rchg := false } }

def State.regLen (s : State) (m : Nat) : Nat := clampN (s.ard (R.monSeq_reg_len m)) 1 64
def State.injLen (s : State) (m : Nat) : Nat := clampN (s.ard (R.monSeq_inj_len m)) 1 8

/-- The next work at a conversion boundary: injected, housekeeping, regular; while MCAL runs, housekeeping alone. -/
def State.monNext (s : State) (m at' : Nat) : State :=
  let x := s.mon m
  let free := s.thm.mcalAt.isNone
  match (if free then x.inj else none), x.hk with
  | some j, _ => s.monStart m 1 j (s.ard (R.monInjSlot_in m j)) (s.ard (R.monInjSlot_preset m j)) at'
  | none, some i => s.monStart m 2 i i 0 at'
  | none, none =>
    if free ∧ s.ard (R.monSeq_reg_run m) = 1 then
      let j := if s.rd (R.monSeq_reg_pos m) < s.regLen m then s.rd (R.monSeq_reg_pos m) else 0
      (s.wr (R.monSeq_reg_pos m) j).monStart m 0 j (s.ard (R.monRegSlot_in m j)) (s.ard (R.monRegSlot_preset m j)) at'
    else s

/-- An idle modulator takes up work at the first multiple of 1,600 ticks at or after `at'`. -/
def State.monKick (s : State) (m at' : Nat) : State :=
  if (s.mon m).cur.isSome ∨ s.awake = false then s else s.monNext m (ceilDiv at' 1600 * 1600)

/-- `reg_run` = 1 activates at beat b (R441). -/
def State.monRun (s : State) (m b : Nat) : State :=
  let s := s.wr (R.monSeq_reg_pos m) 0
  let s :=
    match (s.mon m).cur with
    | some c => if c.src = 0 then s.setMon m { s.mon m with cur := some { c with slot := 64 } } else s
    | none => s
  s.monKick m b

/-- A trigger of the injected sequence; false where one is pending or running (R442). -/
def State.monTrigger (s : State) (m : Nat) : Bool × State :=
  if (s.mon m).inj.isSome then (false, s)
  else (true, ((s.setMon m { s.mon m with inj := some 0 }).wr (R.monSeq_inj_busy m) 1).monKick m s.dial)

/-- HOUSEKEEPING_DUE: a round falls due on every modulator, and the stacks' readouts are taken (R369, R443). -/
def execHousekeepingDue (t : Nat) (temps : List (Int × Nat)) (s : State) : Host.Outcome State Fault Refusal :=
  let s := s.at t
  match s.thm.hkAt with
  | none => .next s
  | some a =>
    if s.dial < a ∨ s.awake = false then .next s
    else
      let s := s.setThm { s.thm with hkAt := some (a + 512000000) }
      let s := (List.range 4).foldl
        (fun s k =>
          match temps[k]? with
          | some r => (s.wr (R.memStkTemp_temp k) (unsigned 8 r.1)).wr (R.memStkTemp_refresh k) r.2
          | none => s) s
      .next ((List.range 5).foldl
        (fun s m =>
          let s := if (s.mon m).hk.isSome then s else s.setMon m { s.mon m with hk := some (if m = 4 then 0 else 64) }
          s.monKick m a) s)

/-! ### Results (R438, R440, R446) -/

def insertInt (a : Int) : List Int → List Int
  | [] => [a]
  | b :: l => if a ≤ b then a :: b :: l else b :: insertInt a l

def sortInts : List Int → List Int
  | [] => []
  | a :: l => insertInt a (sortInts l)

/-- The rank-average filter: k outputs fall away at each end. -/
def rankAverage (outs : List Int) (k : Nat) : Int :=
  let kept := ((sortInts outs).drop k).take (outs.length - 2 * k)
  roundDiv (kept.foldl (· + ·) 0) kept.length

/-- The result of a conversion and its `clip`. A calibrated value outside 24 bits is left open (log 14). -/
def convResult (c : MonConv) (outs : List Int) (z : Nat) : Int × Bool :=
  let xs := (List.range c.outs).map fun i => outs.getD i 0
  if xs.any fun x => decide (2 ^ 23 ≤ x) then (2 ^ 23 - 1, true)
  else if xs.any fun x => decide (x < -(2 ^ 23)) then (-(2 ^ 23), true)
  else
    let v := crnd (c.gain * (rankAverage xs c.drop - c.off)) 23
    if satw 24 v = v then (v, false) else (signed 24 z, false)

/-! ### Thresholds and detectors (R447, R448) -/

/-- The zone after a result, and the event: 0 HI, 1 LO, 2 BACK. -/
def zoneStep (zone : Nat) (r hi lo : Int) (hyst : Nat) : Nat × Option Nat :=
  if zone = 1 then (if r ≤ lo then (2, some 1) else if r < hi - hyst then (0, some 2) else (1, none))
  else if zone = 2 then (if hi ≤ r then (1, some 0) else if lo + hyst < r then (0, some 2) else (2, none))
  else if hi ≤ r then (1, some 0)
  else if r ≤ lo then (2, some 1)
  else (0, none)

/-- The largest number of 24 bits whose square is at most `v`, from bit `k` down. -/
def isqrt (v : Nat) : Nat → Nat → Nat
  | 0, acc => acc
  | k + 1, acc => if (acc + 2 ^ k) * (acc + 2 ^ k) ≤ v then isqrt v k (acc + 2 ^ k) else isqrt v k acc

/-- The square root of sum / n, to the nearest whole number, ties to even. -/
def rootMean (sum n : Nat) : Nat :=
  let q := isqrt (sum / n) 24 0
  if n * ((2 * q + 1) * (2 * q + 1)) < 4 * sum ∨ (n * ((2 * q + 1) * (2 * q + 1)) = 4 * sum ∧ q % 2 = 1) then q + 1 else q

def State.detect (s : State) (m i : Nat) (r : Int) : State :=
  let s := s.wr (R.monPkMax_pk_max m i) (unsigned 24 (max (signed 24 (s.rd (R.monPkMax_pk_max m i))) r))
  let s := s.wr (R.monPkMin_pk_min m i) (unsigned 24 (min (signed 24 (s.rd (R.monPkMin_pk_min m i))) r))
  let s := s.incSat (R.monN_n_acc m i)
  let sum := SMap.get 0 (s.mon m).sums i + r.natAbs * r.natAbs
  let s := s.setMon m { s.mon m with sums := SMap.set 0 (s.mon m).sums i sum }
  let s := s.wr (R.monRms_rms m i) (rootMean sum (s.rd (R.monN_n_acc m i)))
  let env := s.rd (R.monEnv_env m i)
  s.wr (R.monEnv_env m i) (max r.natAbs (env - env / 2 ^ s.ard (R.monAcc_env_tc m)))

def State.threshold (s : State) (m i : Nat) (r : Int) : State :=
  if s.ard (R.monThCtl_th_en m i) = 0 then s.detect m i r
  else
    let z := zoneStep (s.rd (R.monThCtl_zone m i)) r (signed 24 (s.ard (R.monThHi_th_hi m i))) (signed 24 (s.ard (R.monThLo_th_lo m i)))
      (s.ard (R.monThCtl_th_hyst m i))
    let s := s.wr (R.monThCtl_zone m i) z.1
    match z.2 with
    | some e => s.monEvent m e
    | none => s

/-- `th_en` activates, either way: the zone is IN. -/
def State.newZone (s : State) (m i : Nat) : State := s.wr (R.monThCtl_zone m i) 0

/-- ACC_CLR: every detector of the modulator. -/
def State.accClear (s : State) (m : Nat) : State :=
  let s := (List.range (monInputs m)).foldl
    (fun s i =>
      let s := (s.wr (R.monPkMax_pk_max m i) 0x800000).wr (R.monPkMin_pk_min m i) 0x7FFFFF
      ((s.wr (R.monRms_rms m i) 0).wr (R.monEnv_env m i) 0).wr (R.monN_n_acc m i) 0) s
  s.setMon m { s.mon m with sums := [] }

def execAccClr (t m : Nat) (s : State) : Host.Outcome State Fault Refusal :=
  let s := s.at t
  if s.awake then .next (s.accClear m) else .next s

/-! ### Rails (R445, R504) -/

/-- Operating limits of a rail in µV. -/
def railLimits (r : Nat) : Int × Int :=
  if r < 16 then
    (if r % 4 = 0 then (873000, 927000) else if r % 4 = 1 then (1746000, 1854000)
      else if r % 4 = 2 then (4750000, 5250000) else (-5250000, -4750000))
  else if r = 16 then (700000, 800000)
  else if r = 17 then (776000, 824000)
  else if r = 18 then (849000, 901000)
  else if r = 19 then (1213000, 1288000)
  else if r = 20 then (1067000, 1133000)
  else if r = 21 then (388000, 412000)
  else if r = 22 then (1710000, 1890000)
  else (1746000, 1854000)

/-- One more round's verdict on a rail: two bad ones running set the cause, two good ones of every rail clear it. -/
def State.railVerdict (s : State) (m r : Nat) (good : Bool) : State :=
  let c := SMap.get (0, 2) s.thm.rails r
  let c := if good then (0, c.2 + 1) else (c.1 + 1, 0)
  let s := s.setThm { s.thm with rails := SMap.set (0, 2) s.thm.rails r (min 2 c.1, min 2 c.2) }
  if 2 ≤ c.1 ∧ s.svc.causes.contains 4 = false then ((s.setThm { s.thm with railMod := m }).greenLoss 4).monEvent m 5
  else if s.svc.causes.contains 4 ∧ (List.range 24).all (fun k => decide (2 ≤ (SMap.get (0, 2) s.thm.rails k).2)) then
    (s.clearCause 4).monEvent s.thm.railMod 6
  else s

/-- The rail whose voltage or current an input reads. -/
def railOf (m i : Nat) : Option (Nat × Bool) :=
  if m = 4 then (if i < 8 then some (16 + i, true) else if i < 16 then some (8 + i, false) else none)
  else if 64 ≤ i ∧ i < 68 then some (4 * m + (i - 64), true)
  else if 68 ≤ i ∧ i < 72 then some (4 * m + (i - 68), false)
  else none

/-! ### Temperatures and the power limit (R452 to R455) -/

def stackTemp (s : State) (k : Nat) : Int := signed 8 (s.rd (R.memStkTemp_temp k))

def State.stackHot (s : State) : Bool := (List.range 4).any fun k => decide ((s.ard R.thmCtl_t_hbm : Int) ≤ stackTemp s k)

def State.stacksCool (s : State) : Bool := (List.range 4).all fun k => decide (stackTemp s k ≤ (s.ard R.thmCtl_t_hbm : Int) - 3)

/-- L from λ and `p_max`, in 1/16 W. -/
def State.showLimit (s : State) : State := s.wr R.thmPower_p_lim (s.rd R.thmStatus_lambda * s.ard R.thmCtl_p_max * 16 / 100)

/-- λ changes. -/
def State.setLambda (s : State) (v : Nat) : State :=
  let s := (s.wr R.thmStatus_lambda v).wr R.hiveState_throttled (if v < 100 then 1 else 0)
  let s := (s.setThm { s.thm with lamAt := s.dial }).fireD 93
  (List.range 64).foldl (fun s n => s.raiseInt n 1) s

/-- P_est in 1/16 W from the latest housekeeping results: µV × mA sums to nW. -/
def State.powerSum (s : State) : Nat :=
  let p : Int := (List.range 24).foldl (fun a r => a + SMap.get 0 s.thm.volts r * SMap.get 0 s.thm.amps r) 0
  min 65535 (16 * p / 1000000000).toNat

/-- The governor after a core round. -/
def State.govern (s : State) : State :=
  let hot := decide ((s.ard R.thmCtl_t_start * 65536 : Nat) ≤ s.thm.tj) || s.stackHot
  let cool := decide (s.thm.tj ≤ ((s.ard R.thmCtl_t_start : Int) - 3) * 65536) && s.stacksCool
  let lam := s.rd R.thmStatus_lambda
  let ripe := decide (s.thm.lamAt + 51200000000 ≤ s.dial)
  let first := hot && !s.thm.wasHot
  let s := s.setThm { s.thm with wasHot := hot }
  let s := s.wr R.thmStatus_hot (if hot then 1 else 0)
  let s :=
    if hot ∧ 60 < lam ∧ (first ∨ ripe) then s.setLambda (lam - 5)
    else if cool ∧ lam < 100 ∧ ripe then s.setLambda (lam + 5)
    else s
  (s.showLimit).wr R.thmPower_p_est s.powerSum

/-- The Tj bin of the life log: page and place (R474). -/
def tjBin (tj : Int) : Nat × Nat :=
  let c := (tj / 65536).toNat
  if c < 20 then (0, 0)
  else if c < 80 then (0, c / 10 - 1)
  else if c < 110 then (1, c / 10 - 8)
  else if c < 115 then (1, 3)
  else (1, 4)

/-- What the life log counts in each core round (R474). -/
def State.countRound (s : State) : State :=
  let b := tjBin s.thm.tj
  let s := s.lifeAdd b.1 b.2 20
  let s := if s.rd R.thmStatus_lambda < 100 then s.lifeAdd 1 5 20 else s
  let s := if s.stackHot then s.lifeAdd 1 6 20 else s
  let s := if s.isGreen then
      (List.range 128).foldl (fun s k => if s.rd (muteWhy k) = 0 then s.lifeAdd (5 + k / 9) (k % 9) 20 else s) s
    else s
  (List.range 256).foldl
    (fun s o => if s.codeAct o ≠ 0 ∧ (s.biasOut o).zero = 0 then s.lifeAdd (20 + o / 9) (o % 9) 20 else s) s

/-- The check of REF_V against the declared value; the recovery form declares none (R444). -/
def State.refCheck (s : State) : State :=
  let d := (SMap.get 0 s.thm.volts 24 - (s.sec.refV : Int)).natAbs
  if s.sec.refV = 0 then s
  else if s.sec.refV < 1000 * d then ((s.setThm { s.thm with refFail := true }).setF R.monStatus_ref_bad).monEvent 4 12
  else s.setThm { s.thm with refFail := false }

/-- The end of a core round. -/
def State.coreRound (s : State) : State :=
  let s := s.refCheck
  let s := s.wr R.thmStatus_tj (unsigned 8 (satw 8 (crnd s.thm.tj 16)))
  let run := if s.thm.tj ≤ 110 * 65536 then s.thm.coolRun + 1 else 0
  let s := s.setThm { s.thm with coolRun := min 10 run }
  let s := if s.svc.causes.contains 1 ∧ 10 ≤ run then s.clearCause 1 else s
  let s := if s.stackHot then s.monEvent 4 9 else s
  s.govern.countRound

/-- A diode reading: TJ_HOT, TJ_SHUT and Green-loss cause 0x1 (R449, R455). A clipped one counts as 115 °C or more. -/
def State.diode (s : State) (r : Int) (clip : Bool) : State :=
  let s := if clip ∨ (s.ard R.thmCtl_t_start * 65536 : Nat) ≤ r then s.monEvent 4 7 else s
  if clip ∨ 115 * 65536 ≤ r then
    let s := s.setThm { s.thm with coolRun := 0 }
    (if s.isAmber ∧ s.svc.causes.contains 1 then s else s.greenLoss 1).monEvent 4 8
  else s

/-! ### MON_CONVERSION_DONE -/

/-- A housekeeping result beside its words. -/
def State.houseResult (s : State) (m i : Nat) (r : Int) (clip : Bool) : State :=
  match railOf m i with
  | some (k, true) =>
    let s := s.setThm { s.thm with volts := SMap.set 0 s.thm.volts k r }
    s.railVerdict m k (decide ((railLimits k).1 ≤ r ∧ r ≤ (railLimits k).2) && !clip)
  | some (k, false) => s.setThm { s.thm with amps := SMap.set 0 s.thm.amps k r }
  | none =>
    if m = 4 ∧ i = 16 then s.setThm { s.thm with tj := if clip then 2 ^ 23 - 1 else r }
    else if m = 4 ∧ i = 17 then s.setThm { s.thm with volts := SMap.set 0 s.thm.volts 24 r }
    else s

/-- The words of an input take a result. An input that the modulator lacks has none (log 14). -/
def State.monWrite (s : State) (m : Nat) (c : MonConv) (r : Int) (clip : Bool) : State :=
  let i := c.input
  if monInputs m ≤ i then s
  else
    let s := ((s.wr (R.monRes_res m i) (unsigned 24 r)).wr (R.monRes_rsrc m i) c.src).wr (R.monRes_clip m i) (if clip then 1 else 0)
    let s := (s.wr (R.monRes_rchg m i) (if c.rchg then 1 else 0)).wr (R.monResT_res_t m i) (c.finish / 256)
    let s := s.threshold m i r
    let s := if clip then s.monEvent m 13 else s
    let s := if c.rchg then s.monEvent m 14 else s
    let s := if m = 4 ∧ i = 16 then s.diode r clip else s
    if c.src = 2 then s.houseResult m i r clip else s

/-- What the sequences do at the end of a conversion. -/
def State.monAdvance (s : State) (m : Nat) (c : MonConv) : State :=
  let x := { s.mon m with cur := none }
  if c.src = 1 then
    if c.slot + 1 < s.injLen m then s.setMon m { x with inj := some (c.slot + 1) }
    else ((s.setMon m { x with inj := none }).wr (R.monSeq_inj_busy m) 0).monEvent m 3
  else if c.src = 2 then
    let x := if s.thm.mcalAt.isSome then { x with extra := x.extra + 409600 } else x
    if c.input = (if m = 4 then 17 else 71) then
      let s := s.setMon m { x with hk := none }
      if m = 4 then s.coreRound else s
    else s.setMon m { x with hk := some (c.input + 1) }
  else
    let s := s.setMon m x
    if c.slot = 64 then s
    else if c.slot + 1 < s.regLen m then s.wr (R.monSeq_reg_pos m) (c.slot + 1)
    else (s.wr (R.monSeq_reg_pos m) 0).monEvent m 4

/-- MON_CONVERSION_DONE: `outs` are the outputs of the sinc stage. -/
def execMonConversionDone (t m : Nat) (outs : List Int) (s : State) : Host.Outcome State Fault Refusal :=
  let s := s.at t
  match (s.mon m).cur with
  | none => .next s
  | some c =>
    if s.awake = false ∨ s.dial < c.finish then .next s
    else
      let (z, s) := s.draw
      let r := convResult c outs z
      let s := (s.monWrite m c r.1 r.2).monAdvance m c
      .next (s.monNext m c.finish)

/-- The range of a Bias output changes while its current is being converted (R438). -/
def State.monRange (s : State) (o : Nat) : State :=
  let m := o / 64
  match (s.mon m).cur with
  | some c => if c.input = o % 64 then s.setMon m { s.mon m with cur := some { c with rchg := true } } else s
  | none => s

/-! ### MCAL (R450) -/

/-- A run begins on all five modulators. -/
def State.mcalStart (s : State) : State :=
  let s := s.setThm { s.thm with mcalAt := some s.dial }
  let s := (List.range 5).foldl (fun s m => s.setMon m { s.mon m with extra := 0 }) s
  s.wr R.monStatus_mcal_busy 1

/-- `mcal`. -/
def State.mcal (s : State) : State :=
  if s.isSleep then s.wr R.monCtl_result rSTATE
  else if s.thm.mcalAt.isSome then s.wr R.monCtl_result rBUSY
  else (s.mcalStart).wr R.monCtl_result rOK

def execMcal (t : Nat) (s : State) : Host.Outcome State Fault Refusal :=
  let s := s.at t
  if s.awake then .next s.mcal else .next s

/-- The four pairs that a point of a path has at most: three retries (R450, R467). -/
def mcalTries (l : List (Int × Int)) : List (Int × Int) := (List.range 4).map fun i => l.getD i (0, 0)

def mcalAgrees (e : Int × Int) : Bool := decide ((e.1 - e.2).natAbs ≤ 16)

/-- The mean of the first pair that agrees within 16 LSB, rounded to even. -/
def mcalPoint (l : List (Int × Int)) : Option Int := ((mcalTries l).find? mcalAgrees).map fun e => crnd (e.1 + e.2) 1

/-- How often a point is retried. -/
def mcalRetries (l : List (Int × Int)) : Nat := min 3 ((mcalTries l).takeWhile fun e => !mcalAgrees e).length

/-- The reading of the declared REF_V on a path: in µV on AIN and REF_V. -/
def refReading (m p refV : Nat) : Int := if p = 3 then refV else Config.refReading m p refV

/-- The gain that makes `span` read `ideal`, 0x80_0000 for 1.0; one outside 24 bits is left open (log 14). -/
def mcalGain (ideal span : Int) (z : Nat) : Nat :=
  let v := if 0 < span then roundDiv (2 ^ 23 * ideal) span.toNat else -1
  if 0 ≤ v ∧ v < 2 ^ 24 then v.toNat else z % 2 ^ 24

/-- Ticks that housekeeping rounds and retries, of 8 ms each, add to the run. -/
def State.mcalExtra (s : State) (l : List McalPath) : Nat :=
  (List.range 5).foldl
    (fun a m =>
      let tries := (List.range 4).foldl (fun b p => b + mcalRetries (l.getD (4 * m + p) default).zero + mcalRetries (l.getD (4 * m + p) default).full) 0
      max a ((s.mon m).extra + 204800000 * tries)) 0

/-- Factors of one path from its two points, or its disagreement. -/
def State.mcalPath (s : State) (m p : Nat) (r : McalPath) : State :=
  let x := 0xE80 + 8 * m + 2 * p
  match mcalPoint r.zero, mcalPoint r.full with
  | some off, some full =>
    let d := s.draw
    let gain := mcalGain (refReading m p s.sec.refV) (full - off) d.1
    let s := (d.2.wr (R.monMoff_m_off m p) (unsigned 24 off)).wr (R.monMgain_m_gain m p) gain
    (s.calApply x off).calApply (x + 1) gain
  | _, _ => ((s.setF R.monStatus_cal_disagree).calDisagree x).monEvent m 11

/-- Every path takes its factors. Where the latest check of REF_V failed they are skipped (R461). -/
def State.mcalTake (s : State) (l : List McalPath) : State :=
  if s.thm.refFail then s.setF R.calStatus_cal_refskip
  else (List.range 20).foldl (fun s k => s.mcalPath (k / 4) (k % 4) (l.getD k default)) s

/-- The run ends, and the sequences go on. -/
def State.mcalEnd (s : State) : State :=
  let s := (s.setThm { s.thm with mcalAt := none }).wr R.monStatus_mcal_busy 0
  let s := (List.range 5).foldl (fun s m => s.monEvent m 10) s
  let s := (s.setSvc { s.svc with monCal := true }).itemDone 544
  ((List.range 5).foldl (fun s m => s.monKick m s.dial) s).bootCheck

/-- MCAL_DONE: 180 ms, and what housekeeping and retries have added, have passed. -/
def execMcalDone (t : Nat) (paths : List McalPath) (s : State) : Host.Outcome State Fault Refusal :=
  let s := s.at t
  match s.thm.mcalAt with
  | none => .next s
  | some a => if s.awake = false ∨ s.dial < a + 4608000000 + s.mcalExtra paths then .next s else .next (s.mcalTake paths).mcalEnd

/-! ### The basic level (R456) -/

def State.deriveMon (s : State) : State :=
  if s.rd R.monCtl_level = 1 then s
  else
    let s := (List.range 5).foldl
      (fun s m =>
        let s := ((s.both (R.monCustom_c_rom m) 2).both (R.monCustom_c_n m) 16).both (R.monCustom_c_k m) 2
        let s := s.both (R.monAcc_env_tc m) 4
        (List.range 4).foldl
          (fun s p =>
            if s.svc.monCal then (s.calDerive (0xE80 + 8 * m + 2 * p)).calDerive (0xE81 + 8 * m + 2 * p)
            else (s.both (R.monCoff_cal_off m p) 0).both (R.monCgain_cal_gain m p) 0x800000) s) s
    (((s.both R.thmCtl_p_max 520).both R.thmCtl_t_start 95).both R.thmCtl_t_hbm 85).showLimit

end Sys2Proof.Machine
end

