-- ==== Sys2Proof/Machine/Decision.lean ====
section
/-! DEFINITION. Decisions: tag slots, the remote cache, condition bits, speculative selection, verdict words between Hives
(R153 to R157, R208 to R234). -/

namespace Sys2Proof.Machine

/-! ### Contents of slots and cache entries -/

/-- What a slot or a cache entry holds: verdict, valid bit, recorded time, and when it came. -/
structure Held where
  verdict : Nat
  valid : Nat
  time : Nat
  arr : Nat

def State.slotHeld (s : State) (x : Nat) : Held :=
  ⟨s.rd (R.decSlotLo_verdict x), s.rd (R.decSlotLo_valid x), s.rd (R.decSlotHi_time_lo x) + s.rd (R.decSlotLo_time_hi x) * 2 ^ 32,
    SMap.get 0 s.dec.arrived x⟩

def State.setSlot (s : State) (x : Nat) (h : Held) : State :=
  let s := { s with dec := { s.dec with arrived := SMap.set 0 s.dec.arrived x h.arr } }
  (((s.wr (R.decSlotLo_verdict x) h.verdict).wr (R.decSlotLo_valid x) h.valid).wr (R.decSlotLo_time_hi x) (h.time / 2 ^ 32)).wr
    (R.decSlotHi_time_lo x) h.time

def State.entryHeld (s : State) (e : Nat) : Held :=
  ⟨s.rd (R.decRcLo_rc_verdict e), s.rd (R.decRcLo_rc_valid e), s.rd (R.decRcHi_rc_time_lo e) + s.rd (R.decRcLo_rc_time_hi e) * 2 ^ 32,
    SMap.get 0 s.dec.cacheArr e⟩

def State.setEntry (s : State) (e : Nat) (h : Held) : State :=
  let s := { s with dec := { s.dec with cacheArr := SMap.set 0 s.dec.cacheArr e h.arr } }
  (((s.wr (R.decRcLo_rc_verdict e) h.verdict).wr (R.decRcLo_rc_valid e) h.valid).wr (R.decRcLo_rc_time_hi e) (h.time / 2 ^ 32)).wr
    (R.decRcHi_rc_time_lo e) h.time

/-- The cache entry of a chain-wide tag. -/
def State.entryOf (s : State) (tag : Nat) : Option Nat :=
  (List.range 1024).find? fun e => decide (s.rd (R.decRcLo_rc_used e) = 1 ∧ s.rd (R.decRcLo_rc_tag e) = tag)

/-- A tag's own Hive and slot. -/
def tagDev (tag : Nat) : Nat := tag / 4096
def tagSlot (tag : Nat) : Nat := tag % 4096

/-- What a verdict test of a tag reads (R222). -/
def State.heldOf (s : State) (tag : Nat) : Option Held :=
  let h := if tagDev tag = s.myId then some (s.slotHeld (tagSlot tag)) else (s.entryOf tag).map s.entryHeld
  h.filter fun h => decide (h.valid = 1)

/-! ### What counts (R154, R155) -/

def State.horizon (s : State) : Nat := s.ard R.decHorizon_horizon

/-- A recorded time against its arrival: no later than the horizon allows. -/
def inTime (h : Held) (hzn : Nat) : Bool := decide (h.arr ≤ expand40 h.time h.arr + hzn)

/-- The verdict of a tag counts for a step whose shot began at `s0`; none in Amber (R213). -/
def State.counting (s : State) (tag s0 hzn : Nat) : Option Held :=
  if s.isGreen then (s.heldOf tag).filter fun h => decide (s0 ≤ expand40 h.time s.dial) && inTime h hzn else none

/-- A condition set as a step reads it (R153). -/
def State.readCset (s : State) (n k : Nat) : CSet :=
  { bits := (List.range 4).map fun i => (s.ard (R.seqCsetBit_src n k i), s.ard (R.seqCsetBit_test n k i))
    dfltEn := decide (s.ard (R.seqCsetCtl_dflt_en n k) = 1)
    dfltWay := s.ard (R.seqCsetCtl_dflt_way n k)
    hops := s.ard (R.seqCsetCtl_hops n k) }

/-- One condition bit; none where its verdict does not count. -/
def State.condBit (s : State) (n s0 hzn : Nat) (b : Nat × Nat) : Option Bool :=
  let (src, test) := b
  if test < 4 then (s.counting src s0 hzn).map fun h => decide (h.verdict = test)
  else if test = 4 then some (decide (s.rd (R.seqCnt_count n (src % 16)) = 0))
  else if test = 5 then
    let f := src % 16
    if f = 0 then some (s.seq n).timedOut
    else if f = 1 then some (match s.openShot n with | some x => x.invalid | none => false)
    else if f = 2 then some (s.seq n).commitBad
    else some (Config.invalidTest src test)
  else if test = 6 then some false
  else some (Config.invalidTest src test)

/-- Condition bits that WAYS uses. -/
def waysBits (ways : Nat) : Nat := if ways = 3 then 4 else ways

/-- w of R157; none where a verdict is missing. -/
def State.wayOf (s : State) (n : Nat) (cs : CSet) (ways s0 hzn : Nat) : Option Nat :=
  (List.range (waysBits ways)).foldl
    (fun acc i =>
      match acc, s.condBit n s0 hzn (cs.bits.getD i (0, 6)) with
      | some w, some b => some (if b then w + 2 ^ i else w)
      | _, _ => none) (some 0)

/-- The verdicts that a branch waits for. -/
def csetTags (cs : CSet) (ways : Nat) : List Nat := ((cs.bits.take (waysBits ways)).filter fun b => decide (b.2 < 4)).map (·.1)

/-- A verdict is missing (R156, R157). -/
def State.verdictMissing (s : State) (n : Nat) (shot : Option Nat) : State :=
  (s.combFlag (R.seqStatus_verdict_missing n) n 5).markShot n shot

/-! ### Speculative selection (R217 to R221) -/

/-- The selection that a span can take now: counter and flag bits at its PLAY, a verdict that counts by the cut-off. -/
def State.specWay (s : State) (n : Nat) (x : Spec) : Option Nat :=
  (s.condBit n x.s0 x.hzn (x.cset.bits.getD 0 (0, 6))).map fun b => if b then 1 else 0

/-- Spans of Comb n that wait for this tag take their selection. -/
def State.selectSpecs (s : State) (n tag : Nat) : State :=
  s.setComb n
    { s.comb n with specs := (s.comb n).specs.map fun x =>
        let b := x.cset.bits.getD 0 (0, 6)
        if x.way = none ∧ b.2 < 4 ∧ b.1 = tag ∧ s.dial + 563 ≤ x.ts then { x with way := s.specWay n x } else x }

/-- The default way of a span whose verdict is missing (R157). -/
def State.specDefault (s : State) (n : Nat) (x : Spec) : State :=
  let way := if x.cset.dfltEn then x.cset.dfltWay % 2 else 0
  (s.setComb n { s.comb n with specs := (s.comb n).specs.map fun y => if y.iss.ord = x.iss.ord then { y with way := some way } else y }).verdictMissing
    n x.iss.shot

/-- SPEC_CUTOFF: spans whose cut-off is past with no selection take the default way. -/
def execSpecCutoff (t n : Nat) (s : State) : Host.Outcome State Fault Refusal :=
  let s := s.at t
  if s.awake then
    .next (((s.comb n).specs.filter fun x => decide (x.way = none ∧ x.ts ≤ s.dial + 562)).foldl (fun s x => s.specDefault n x) s)
  else .next s

/-- The descriptor that a pulse plays: `alt_desc` where its span selected way 1. -/
def State.pulseDesc (s : State) (n : Nat) (p : Pulse) : Nat :=
  match p.alt with
  | none => p.desc
  | some a => if (s.comb n).specs.any fun x => decide (x.iss.ord = p.iss.ord ∧ x.way = some 1) then a else p.desc

/-- The tick at which a waiting pulse of Comb n begins to play; none while its descriptor is being read (R361, R526). -/
def State.startTick (s : State) (n : Nat) (p : Pulse) : Option Nat :=
  if s.descReading n p.desc || (match p.alt with | some a => s.descReading n a | none => false) then none
  else some (firstTick p.ts p.iss)

/-- The start of a Cell's pulses that has come first. -/
def State.nextStart (s : State) (n c : Nat) : Option Nat :=
  (((s.cell (8 * n + c)).waiting.filterMap fun p => s.startTick n p).filter fun x => decide (x ≤ s.dial)).min?

/-- The waiting pulses of a Cell that begin at tick x. -/
def State.startsAt (s : State) (n c x : Nat) : List Pulse :=
  (s.cell (8 * n + c)).waiting.filter fun p => s.startTick n p == some x

/-- Up to tick x everything of the Cell is done, and the pulses that begin then no longer wait. -/
def State.upToStart (s : State) (n c x : Nat) : State :=
  let s := s.setCell (8 * n + c)
    { s.cell (8 * n + c) with waiting := (s.cell (8 * n + c)).waiting.filter fun p => s.startTick n p != some x }
  ((s.settleTo n x).applyActs n c x).playTo n c x walkFuel

/-- Pulses overtaken before their first sample: a pre-emption (R109). -/
def State.overtaken (s : State) (n c x : Nat) (ps : List Pulse) : State :=
  let s := ps.foldl (fun s q => s.pulseLate n c x q) s
  if ps = [] then s else s.setF (R.cellStatus_preempt n c)

/-- The pulses that begin at tick x: of these and the pulse under way the one with the latest start plays (R109). -/
def State.startAt (s : State) (n c x : Nat) : State :=
  let due := s.startsAt n c x
  let s := s.upToStart n c x
  match latestPulse due with
  | none => s
  | some p =>
    if (match (s.cell (8 * n + c)).play with | some (q, _) => q.beats p | none => false) then s.overtaken n c x due
    else
      let s := s.overtaken n c x (due.erase p)
      let s := ((s.comb n).specs.filter fun y => decide (y.way = none ∧ y.iss.ord = p.iss.ord)).foldl (fun s y => s.specDefault n y) s
      s.startPulse n c p (s.pulseDesc n p) x

/-- PULSE_START: the pulses of the Cell whose start has come. -/
def execPulseStart (t n c : Nat) (s : State) : Host.Outcome State Fault Refusal :=
  let s := s.at t
  match s.nextStart n c with
  | none => .next s
  | some x => if s.awake then .next (s.startAt n c x) else .next s

/-! ### WAITT triggers (R145, R176) -/

/-- A trigger of sequencer n at a time in 1/256 tick: the four most recent of its source are held. -/
def State.addTrig (s : State) (n src time : Nat) : State :=
  let q := s.seq n
  let same := ((src, time) :: q.trigs.filter fun e => decide (e.1 = src)).take 4
  s.setSeq n { q with trigs := same ++ q.trigs.filter fun e => ¬ e.1 = src }

/-- Bit 0 of condition set k for a trigger: a WAITT that waits on the set goes on with the bit that it read as it began (R170). -/
def State.trigTest (s : State) (n k : Nat) : Nat × Nat :=
  let now := (s.ard (R.seqCsetBit_src n k 0), s.ard (R.seqCsetBit_test n k 0))
  match (s.seq n).wait with
  | .waitt src _ _ test => if src = 48 + k then test else now
  | _ => now

/-- A verdict that becomes counting triggers source 48 + k of every condition set k whose bit 0 tests it. -/
def State.verdictTrigs (s : State) (tag : Nat) : State :=
  (List.range 64).foldl
    (fun s n =>
      (List.range 16).foldl
        (fun s k =>
          if (s.trigTest n k).1 = tag ∧ (s.trigTest n k).2 < 4 ∧
              (s.counting tag (s.seq n).lastS s.horizon).isSome then s.addTrig n (48 + k) (256 * s.dial)
          else s) s) s

/-- A waiting branch takes its way at the moment its last verdict counts (R211). -/
def State.branchSees (s : State) (n : Nat) : State :=
  match (s.seq n).wait with
  | .verdict a hzn cs ways target call none =>
    if s.dial ≤ a + hzn then
      match s.wayOf n cs ways (s.seq n).lastS hzn with
      | some w => s.setSeq n { s.seq n with wait := .verdict a hzn cs ways target call (some (w, s.dial)) }
      | none => s
    else s
  | _ => s

/-- A slot or cache entry has new contents. -/
def State.tagChanged (s : State) (tag : Nat) : State :=
  ((List.range 64).foldl (fun s n => (s.selectSpecs n tag).branchSees n) s).verdictTrigs tag

/-- A verdict that arrives beyond the horizon now active (R215). -/
def State.judgeLate (s : State) (h : Held) : State :=
  if inTime h s.horizon then s else (s.inc R.decLate_late_count).decFlag R.decStatus_vlate

/-! ### The rules of an arrival (R210) -/

inductive Arrival where
  | replace (clash : Bool)
  | same
  | stale
  deriving DecidableEq

def arrivalOf (h : Held) (verdict time : Nat) : Arrival :=
  let d := signed 40 ((time % 2 ^ 40 + (2 ^ 40 - h.time % 2 ^ 40)) % 2 ^ 40)
  if h.valid = 0 ∨ d > 0 then .replace false
  else if d < 0 then .stale
  else if h.verdict = verdict then .same
  else .replace true

/-! ### Words (R226, R227) -/

def verdictWord (tag verdict time : Nat) : Nat := 1 + tagSlot tag * 4 + tagDev tag * 2 ^ 14 + verdict * 2 ^ 22 + time % 2 ^ 40 * 2 ^ 24
def queryWord (kind tag dev : Nat) : Nat := kind + tagSlot tag * 4 + tagDev tag * 2 ^ 14 + dev * 2 ^ 22
def wordKind (w : Nat) : Nat := w % 4
def wordTag (w : Nat) : Nat := bits w 21 14 * 4096 + bits w 13 2
def wordVerdict (w : Nat) : Nat := bits w 23 22
def wordTime (w : Nat) : Nat := bits w 63 24

/-- The layout of R226 holds. -/
def wordOk (w : Nat) : Bool := decide (wordKind w = 1) || (decide (2 ≤ wordKind w) && decide (bits w 63 30 = 0))

/-- The queue's order: recorded times under R73, equal times as they came. -/
def insertWord (time w : Nat) : List (Nat × Nat) → List (Nat × Nat)
  | [] => [(time, w)]
  | x :: xs =>
    if signed 40 ((x.1 + (2 ^ 40 - time % 2 ^ 40)) % 2 ^ 40) > 0 then (time, w) :: x :: xs else x :: insertWord time w xs

/-- A word finds its queue full. -/
def State.dropWord (s : State) : State := (s.inc R.decDrop_drop_count).decFlag R.decStatus_vq_drop

/-- A word is queued on a port, or dropped where its queue is full. -/
def State.queueWord (s : State) (p time w : Nat) : State :=
  if s.neighbourUp p then
    if 256 ≤ (s.port p).vq.length then s.dropWord else s.setPort p { s.port p with vq := insertWord (time % 2 ^ 40) w (s.port p).vq }
  else s

/-- A word that has arrived is queued in the receive direction (R227). -/
def State.acceptWord (s : State) (p w : Nat) : State :=
  let time := if wordKind w = 1 then wordTime w else s.now40
  if 256 ≤ (s.port p).vin.length then s.dropWord else s.setPort p { s.port p with vin := insertWord time w (s.port p).vin }

def State.queueQuery (s : State) (kind p tag : Nat) : State := s.queueWord p s.now40 (queryWord kind tag s.myId)

/-! ### The answer table (R224) -/

def State.answer (s : State) (tag : Nat) : Option Nat := (s.dec.answers.find? fun e => decide (e.1 = tag)).map (·.2)

def State.setAnswers (s : State) (l : List (Nat × Nat)) : State :=
  ({ s with dec := { s.dec with answers := l } }).wr R.decUse_ans_used l.length

def setAnswerIn (tag m : Nat) (l : List (Nat × Nat)) : List (Nat × Nat) := l.map fun e => if e.1 = tag then (tag, m) else e

/-- New contents of a tag go out on every port that wants it but one. -/
def State.answerWith (s : State) (tag : Nat) (h : Held) (but : Option Nat) : State :=
  match s.answer tag with
  | none => s
  | some m =>
    (List.range 8).foldl
      (fun s p => if m.testBit p ∧ some p ≠ but then s.queueWord p h.time (verdictWord tag h.verdict h.time) else s) s

/-- QUERY or CANCEL goes towards a tag's producer, where a route leads there. -/
def State.sendToward (s : State) (kind tag : Nat) : State :=
  match s.routeTo (tagDev tag) with
  | none => s
  | some p => s.queueQuery kind p tag

/-- A verdict of this Hive's own goes out only outside Amber (R213). -/
def State.answerOne (s : State) (p tag : Nat) (h : Held) : State :=
  if s.isAmber ∨ h.valid = 0 then s else s.queueWord p h.time (verdictWord tag h.verdict h.time)

/-- QUERY on port p. -/
def State.takeQuery (s : State) (p tag : Nat) : State :=
  let own := decide (tagDev tag = s.myId)
  let old := s.answer tag
  if old = none ∧ 2048 ≤ s.dec.answers.length then s.decFlag R.decStatus_ans_full
  else
    let s :=
      match old with
      | some m => s.setAnswers (setAnswerIn tag (m ||| 2 ^ p) s.dec.answers)
      | none => s.setAnswers (s.dec.answers ++ [(tag, 2 ^ p)])
    if own then s.answerOne p tag (s.slotHeld (tagSlot tag))
    else
      let s := if old = none then s.sendToward 2 tag else s
      match s.entryOf tag with
      | none => s
      | some e => s.answerOne p tag (s.entryHeld e)

/-- CANCEL on port p, or the port has left ACTIVE and DEGRADED. -/
def State.takeCancel (s : State) (p tag : Nat) : State :=
  match s.answer tag with
  | none => s
  | some m =>
    let m := if m.testBit p then m - 2 ^ p else m
    if m = 0 ∧ s.entryOf tag = none then
      let s := s.setAnswers (s.dec.answers.filter fun e => ¬ e.1 = tag)
      if tagDev tag = s.myId then s else s.sendToward 3 tag
    else s.setAnswers (setAnswerIn tag m s.dec.answers)

/-- A port leaves ACTIVE and DEGRADED (R224). -/
def State.dropAnswers (s : State) (p : Nat) : State :=
  (s.dec.answers.filter fun e => e.2.testBit p).foldl (fun s e => s.takeCancel p e.1) s

/-- VERDICT on port p: it goes on, and into the cache; while in Amber it only goes on (R213). -/
def State.takeVerdict (s : State) (p tag verdict time : Nat) : State :=
  let h : Held := ⟨verdict, 1, time, s.dial⟩
  let s := s.answerWith tag h (some p)
  if s.isAmber then s
  else
    match s.entryOf tag with
    | none => s
    | some e =>
      match arrivalOf (s.entryHeld e) verdict time with
      | .replace clash =>
        let s := if clash then s.decFlag R.decStatus_tag_clash else s
        ((s.setEntry e h).judgeLate h).tagChanged tag
      | .same => s
      | .stale => s.decFlag R.decStatus_tag_stale

/-- The first word of one kind in the receive queue of a port. In Sleep the network is stopped (R213). -/
def State.takeWord (s : State) (p kind : Nat) : Option (Nat × State) :=
  match (s.port p).vin.find? fun w => decide (wordKind w.2 = kind) with
  | none => none
  | some w => if s.isSleep then none else some (w.2, s.setPort p { s.port p with vin := (s.port p).vin.erase w })

/-- VERDICT_WORD. -/
def execVerdictWord (t port : Nat) (s : State) : Host.Outcome State Fault Refusal :=
  let s := s.at t
  match s.takeWord port 1 with
  | none => .next s
  | some (w, s) => .next (s.takeVerdict port (wordTag w) (wordVerdict w) (wordTime w))

/-- QUERY_WORD. -/
def execQueryWord (t port : Nat) (s : State) : Host.Outcome State Fault Refusal :=
  let s := s.at t
  match s.takeWord port 2 with
  | none => .next s
  | some (w, s) => .next (s.takeQuery port (wordTag w))

/-- CANCEL_WORD. -/
def execCancelWord (t port : Nat) (s : State) : Host.Outcome State Fault Refusal :=
  let s := s.at t
  match s.takeWord port 3 with
  | none => .next s
  | some (w, s) => .next (s.takeCancel port (wordTag w))

/-! ### Publications (R209, R210, R225) -/

/-- A publication reaches its slot. -/
def State.publish (s : State) (p : Pub) : State :=
  if s.isGreen = false then s
  else
    let old := s.slotHeld p.slot
    let s :=
      if s.sinceSafe p.comb p.iss then
        s.journalize p.comb (.slots [(p.slot, (old.verdict, old.valid, old.time, old.arr))])
      else s
    let h : Held := ⟨p.verdict, 1, p.time, s.dial⟩
    match arrivalOf old p.verdict p.time with
    | .same => s
    | .stale => s.decFlag R.decStatus_tag_stale
    | .replace clash =>
      let s := if clash then s.decFlag R.decStatus_tag_clash else s
      let tag := s.myId * 4096 + p.slot
      let s := ((s.setSlot p.slot h).judgeLate h).answerWith tag h none
      let s := if p.lane then s.fireS p.comb 14 else s
      s.tagChanged tag

/-- TAG_SLOT_ARRIVAL: the oldest publication on its way to the slot whose time has come. -/
def execTagSlotArrival (t slot : Nat) (s : State) : Host.Outcome State Fault Refusal :=
  let s := s.at t
  match s.dec.pubs.find? fun p => decide (p.slot = slot ∧ p.due ≤ s.dial) with
  | none => .next s
  | some p => if s.awake then .next (({ s with dec := { s.dec with pubs := s.dec.pubs.erase p } }).publish p) else .next s

/-- `slot_clear` (R212). -/
def State.slotClear (s : State) : State :=
  if s.allHalted then
    let lo := (R.decSlotLo_valid 0).key
    ({ s with regs := s.regs.filter fun e => ¬ (lo ≤ e.1 ∧ e.1 < lo + 4096 * 256 ∧ (e.1 - lo) % 256 = 0) }).wr R.decCtl_result rOK
  else s.wr R.decCtl_result rSTATE

def execSlotClear (t : Nat) (s : State) : Host.Outcome State Fault Refusal :=
  let s := s.at t
  if s.awake then .next s.slotClear else .next s

/-! ### Subscriptions (R223, R231) -/

/-- Tags that active condition sets use with a verdict test. -/
def State.csetSubs (s : State) : List Nat :=
  s.act.filterMap fun e =>
    let a := e.1 / 32
    let o := (a - 0x100000) % 0x4000
    if 0x100000 ≤ a ∧ a < 0x200000 ∧ e.1 % 32 = 20 ∧ 0x200 ≤ o ∧ o < 0x400 ∧ o % 32 < 16 ∧ e.2 < 4 then
      some (SMap.get 0 s.act (e.1 - 20))
    else none

/-- Tags of enabled pins, at the expert level. -/
def State.pinSubs (s : State) : List Nat :=
  if s.rd R.decCtl_level = 1 then
    (List.range 64).filterMap fun k => if s.ard (R.decPin_pin_en k) = 1 then some (s.ard (R.decPin_pin_tag k)) else none
  else []

/-- The remote tags that this Hive names. -/
def State.wantedTags (s : State) : List Nat := ((s.csetSubs ++ s.pinSubs).filter fun t => decide (tagDev t ≠ s.myId)).eraseDups

def State.showCacheUse (s : State) : State :=
  s.wr R.decUse_cache_used ((List.range 1024).filter fun e => decide (s.rd (R.decRcLo_rc_used e) = 1)).length

/-- Nothing names the tag of entry `e` any longer: CANCEL goes out and the entry is free; an answer entry goes with it where no
port wants the tag (R223, R224). -/
def State.unsubscribe (s : State) (e : Nat) : State :=
  let tag := s.rd (R.decRcLo_rc_tag e)
  let s := ((s.setEntry e ⟨0, 0, 0, 0⟩).wr (R.decRcLo_rc_used e) 0).wr (R.decRcLo_rc_tag e) 0
  (s.setAnswers (s.dec.answers.filter fun x => ¬ (x.1 = tag ∧ x.2 = 0))).sendToward 3 tag

/-- A tag is named for the first time. -/
def State.subscribe (s : State) (tag : Nat) : State :=
  match s.entryOf tag with
  | some _ => s
  | none =>
    match (List.range 1024).find? fun e => decide (s.rd (R.decRcLo_rc_used e) = 0) with
    | none => s.decFlag R.decStatus_sub_full
    | some e =>
      let s := ((s.setEntry e ⟨0, 0, 0, 0⟩).wr (R.decRcLo_rc_used e) 1).wr (R.decRcLo_rc_tag e) tag
      match s.routeTo (tagDev tag) with
      | none => s.decFlag R.decStatus_route_none
      | some p => s.queueQuery 2 p tag

/-- Subscriptions follow what the active condition sets and pins name: `old` are the tags named before, so that a tag which
found the cache full gets no entry later (DEDUCED, log 26). -/
def State.resubscribe (s : State) (old : List Nat) : State :=
  let want := s.wantedTags
  let s := (List.range 1024).foldl
    (fun s e => if s.rd (R.decRcLo_rc_used e) = 1 ∧ want.contains (s.rd (R.decRcLo_rc_tag e)) = false then s.unsubscribe e else s) s
  ((want.filter fun t => !old.contains t).foldl (fun s t => s.subscribe t) s).showCacheUse

/-- QUERY goes out again for every cache and forward entry that leads over port p (R223). -/
def State.requery (s : State) (p : Nat) : State :=
  let cached := (List.range 1024).filterMap fun e => if s.rd (R.decRcLo_rc_used e) = 1 then some (s.rd (R.decRcLo_rc_tag e)) else none
  let fwd := (s.dec.answers.filter fun e => decide (tagDev e.1 ≠ s.myId)).map (·.1)
  ((cached ++ fwd).eraseDups.filter fun t => decide (s.routeTo (tagDev t) = some p)).foldl (fun s t => s.queueQuery 2 p t) s

/-- The same, for the entries of one device whose route has changed. -/
def State.requeryDev (s : State) (d : Nat) : State :=
  match s.routeTo d with
  | none => s
  | some p =>
    let cached := (List.range 1024).filterMap fun e => if s.rd (R.decRcLo_rc_used e) = 1 then some (s.rd (R.decRcLo_rc_tag e)) else none
    let fwd := s.dec.answers.map (·.1)
    ((cached ++ fwd).eraseDups.filter fun t => decide (tagDev t = d ∧ d ≠ s.myId)).foldl (fun s t => s.queueQuery 2 p t) s

end Sys2Proof.Machine
end

