-- ==== Sys2Proof/Machine/SeqStep.lean ====
section
/-! DEFINITION. Sequencer steps: fetch, safe points and the sixteen operations (R129 to R159, R176, R186). -/

namespace Sys2Proof.Machine

/-! ### The micro-word and the nano-word (R132, R134) -/

def mwOp (w : Nat) : Nat := bits w 31 28
def mwWays (w : Nat) : Nat := bits w 27 26
def mwCsel (w : Nat) : Nat := bits w 25 22
def mwSafe (w : Nat) : Bool := w.testBit 21
def mwArg (w : Nat) : Nat := bits w 20 15
def mwTarget (w : Nat) : Nat := bits w 14 0

def nwOffset (v : Nat) : Nat := bits v 23 0
def nwCells (v : Nat) : Nat := bits v 31 24
def nwDesc (v : Nat) : Nat := bits v 53 32
def nwJump (v : Nat) : Bool := v.testBit 56
def nwSpec (v : Nat) : Bool := v.testBit 57
def nwFast (v : Nat) : Bool := v.testBit 58
def nwPub (v : Nat) : Bool := v.testBit 59
def nwAlt (v : Nat) : Nat := bits v 85 64
def nwAmp (v : Nat) : Nat := bits v 105 86
def nwPhase (v : Nat) : Nat := bits v 125 106
def nwBank (v : Nat) : Nat := bits v 135 128
def nwLanes (v : Nat) : Nat := bits v 143 136
def nwWindow (v : Nat) : Nat := bits v 155 144
def nwBias (v : Nat) : Nat := bits v 159 156
def nwBiasRef (v : Nat) : Nat := bits v 175 160
def nwMark (v : Nat) : Bool := v.testBit 176
def nwMarkSet (v : Nat) : Nat := bits v 179 177
def nwTag (v : Nat) : Nat := bits v 191 180

/-! ### Fetch (R130) -/

def setStore (m : List (Nat × Mem1)) (k : Nat) (v : Mem1) : List (Nat × Mem1) := SMap.insert (SMap.erase m k) k v

/-- The micro-word at PC: a single-bit error is corrected; a double-bit error, a poisoned word or a word that is not loaded
faults (log 8). -/
def State.fetchMicro (s : State) (n : Nat) : Option Nat × State :=
  let pc := s.rd (R.seqPc_pc n)
  match s.microWord n pc with
  | some w =>
    if w.mark = 0 then (some w.data, s)
    else if w.mark = 1 then
      (some w.data, ({ s with micro := setStore s.micro (n * 32768 + pc) ⟨w.data, 0⟩ }).incSat (R.seqEcc_micro_fix n))
    else (none, s.raiseFault n 1 pc ((s.openShot n).map (·.num)))
  | none => (none, s.raiseFault n 1 pc ((s.openShot n).map (·.num)))

/-- The key of a sequencer's nano-word. -/
def State.nanoKey (s : State) (n i : Nat) : Nat := n / 16 * 8192 + (s.rd (R.seqNano_nano_base n) + i) % 8192

/-- The mark of codeword q. -/
def markOf (m q : Nat) : Nat := m / 4 ^ q % 4

/-- The marks of all four codewords, each through `f`. -/
def mapMarks (f : Nat → Nat) (m : Nat) : Nat := (List.range 4).foldl (fun (v q : Nat) => v + f (markOf m q) * 4 ^ q) 0

/-- How many codewords have this mark. -/
def markCount (m k : Nat) : Nat := ((List.range 4).filter fun q => decide (markOf m q = k)).length

/-- A mark after correction: a single-bit error is gone. -/
def fixMark (k : Nat) : Nat := if k = 1 then 0 else k

/-- Corrections counted: each corrected codeword adds one. -/
def State.addFixes (s : State) (r : Fld) (k : Nat) : State := if k = 0 then s else s.wr r (min 0xFFFF (s.rd r + k))

/-- Nano-word i: single-bit errors, one in any of its codewords, are corrected; a double-bit error in one is a fault. -/
def State.fetchNano (s : State) (n i : Nat) : Option Nat × State :=
  let k := s.nanoKey n i
  let w := SMap.get ⟨0, 0⟩ s.nano k
  if w.mark = 0 then (some w.data, s)
  else
    let m := mapMarks fixMark w.mark
    let s := ({ s with nano := setStore s.nano k ⟨w.data, m⟩ }).addFixes (R.seqEcc_nano_fix n) (markCount w.mark 1)
    if m = 0 then (some w.data, s) else (none, s.raiseFault n 2 (s.rd (R.seqPc_pc n)) ((s.openShot n).map (·.num)))

/-! ### Safe points and the frame of a step (R136, R137, R141, R159) -/

def State.anchor (s : State) (n : Nat) : Nat := (s.seq n).anchor

def State.setAnchor (s : State) (n a : Nat) : State := s.setSeq n { s.seq n with anchor := a }

/-- The step is over: the next address, and the count that gives program order. -/
def State.goto (s : State) (n pc : Nat) : State :=
  ((s.setSeq n { s.seq n with ord := (s.seq n).ord + 1, wait := .none }).wr (R.seqPc_pc n) pc).runStep n

def State.goNext (s : State) (n : Nat) : State := s.goto n (s.rd (R.seqPc_pc n) + 1)

/-- The marks that a step puts on what it issues. -/
def State.issue (s : State) (n : Nat) : Issue :=
  { pc := s.rd (R.seqPc_pc n), sp := (s.seq n).sp, ord := (s.seq n).ord, arr := s.dial, shot := (s.openShot n).map (·.num) }

/-- An issued event with its last scheduled tick; events past leave the count (R138). -/
def State.addEvent (s : State) (n tick : Nat) : State :=
  s.setSeq n { s.seq n with events := ((s.seq n).events.filter fun e => decide (s.dial < e.1)) ++ [(tick, (s.seq n).sp)] }

/-- The sequencer may take a step: it runs, answers no fault, and waits for nothing but what a step waits for first. -/
def State.mayStep (s : State) (n : Nat) : Bool :=
  !s.halted n && (s.seq n).faults.isEmpty &&
    (match (s.seq n).wait with
      | .none => true
      | .runAhead => true
      | .checks => true
      | .verdict .. => true
      | .shotHold => true
      | _ => false)

/-- The step resumes a wait of its own: it is past its safe point. -/
def State.midStep (s : State) (n : Nat) : Bool :=
  match (s.seq n).wait with
  | .verdict .. => true
  | .shotHold => true
  | _ => false

/-- The safe-point record (R159). -/
def State.recordSafe (s : State) (n : Nat) : State :=
  let q := s.seq n
  let pc := s.rd (R.seqPc_pc n)
  (s.setSeq n
    { q with journal := [], saved := [], sp := q.sp + 1,
             safe := { pc := pc, anchor := q.anchor, depth := q.depth, handler := q.handler } }).wr (R.seqPc_safe_pc n) pc

/-- A step of sequencer n whose word `is` names: run-ahead limit, fetch, safe point, then its effect. -/
def State.stepWith (s : State) (n : Nat) (is : Nat → Bool) (eff : State → Nat → State) : State :=
  if s.awake = false ∨ s.mayStep n = false then s
  else if s.dial + 16384 < s.anchor n then s.setWait n .runAhead
  else
    match s.fetchMicro n with
    | (none, s') => s'
    | (some w, s') =>
      if is w = false then s
      else if s'.midStep n ∨ mwSafe w = false then eff s' w
      else if (s'.seq n).checks ≠ [] then s'.setWait n .checks
      else
        let s' := s'.recordSafe n
        match s'.takeSafe n with
        | some s'' => s''
        | none => eff s' w

def isOp (op : Nat) (w : Nat) : Bool := decide (mwOp w = op)

/-! ### NOP, WAIT, LOOP, SETC, HALT (R142, R144, R146, R147, R152) -/

def execNop (t n : Nat) (s : State) : Host.Outcome State Fault Refusal :=
  .next ((s.at t).stepWith n (isOp 0) fun s _ => s.goNext n)

def State.count (s : State) (n k : Nat) : Nat := s.rd (R.seqCnt_count n k)

/-- The duration that WAIT adds. -/
def State.waitTicks (s : State) (n w : Nat) : Nat :=
  let k := mwArg w % 16
  let mode := mwArg w / 16
  if mode = 0 then mwTarget w * 2 ^ k
  else if mode = 2 then s.count n k
  else if mode = 3 then s.count n k * 16
  else 0

def execWait (t n : Nat) (s : State) : Host.Outcome State Fault Refusal :=
  .next ((s.at t).stepWith n (isOp 2) fun s w => (s.setAnchor n (s.anchor n + s.waitTicks n w)).goNext n)

/-- A counter changes; its old value goes into the journal (R164). -/
def State.setCount (s : State) (n k v : Nat) : State := (s.journalize n (.count k (s.count n k))).wr (R.seqCnt_count n k) v

/-- SETC in one of its modes. -/
def isSetc (mode w : Nat) : Bool := isOp 8 w && decide (mwArg w / 16 = mode)

def execSetcLoad (t n : Nat) (s : State) : Host.Outcome State Fault Refusal :=
  .next ((s.at t).stepWith n (isSetc 0) fun s w => (s.setCount n (mwArg w % 16) (mwTarget w)).goNext n)

def execSetcInit (t n : Nat) (s : State) : Host.Outcome State Fault Refusal :=
  .next ((s.at t).stepWith n (isSetc 1) fun s w =>
    (s.setCount n (mwArg w % 16) (s.ard (R.seqCinit_cinit n (mwArg w % 16)))).goNext n)

def execSetcAdd (t n : Nat) (s : State) : Host.Outcome State Fault Refusal :=
  .next ((s.at t).stepWith n (isSetc 2) fun s w =>
    (s.setCount n (mwArg w % 16) (s.count n (mwArg w % 16) + mwTarget w)).goNext n)

def execSetcSub (t n : Nat) (s : State) : Host.Outcome State Fault Refusal :=
  .next ((s.at t).stepWith n (isSetc 3) fun s w =>
    (s.setCount n (mwArg w % 16) (s.count n (mwArg w % 16) + 2 ^ 24 - mwTarget w)).goNext n)

def execLoop (t n : Nat) (s : State) : Host.Outcome State Fault Refusal :=
  .next ((s.at t).stepWith n (isOp 7) fun s w =>
    let k := mwArg w % 16
    let c := s.count n k
    if c = 0 then s.goNext n
    else
      let s := s.setCount n k (c - 1)
      if c - 1 = 0 then s.goNext n else s.goto n (mwTarget w))

def execHalt (t n : Nat) (s : State) : Host.Outcome State Fault Refusal :=
  .next ((s.at t).stepWith n (isOp 15) fun s _ =>
    (((s.goNext n).wr (R.seqStatus_run n) 0).wr (R.seqStatus_halt_why n) 1).fireS n 2)

/-! ### PLAY and MEAS (R143, R185 to R187, R217 to R219) -/

/-- The later end of the alternatives of a pulse on Cell c; none without end. -/
def State.playEnd (s : State) (n c ts desc : Nat) (alt : Option Nat) : Option Nat :=
  match s.runEnd n c walkFuel desc ts, alt with
  | some e, none => some e
  | some e, some a => (s.runEnd n c walkFuel a ts).map fun e' => max e e'
  | none, _ => none

/-- The pulse of one Cell is scheduled; it ends the Cell's share of earlier spans (R109, R217). -/
def State.addPulse (s : State) (n c ts v : Nat) (alt : Option Nat) (iss : Issue) : State :=
  let g := 8 * n + c
  let e := s.playEnd n c ts (nwDesc v) alt
  let p : Pulse :=
    { ts := ts, amp := nwAmp v, phase := nwPhase v, bank := nwBank v, desc := nwDesc v, alt := alt, stop := none,
      endless := e.isNone, fin := e.getD ts, iss := iss }
  let s := s.cutSpecs n c ts
  s.setCell g { s.cell g with waiting := (s.cell g).waiting ++ [p] }

/-- A jump request of a PLAY: lost where the Cell plays nothing (R123). -/
def State.playJump (s : State) (n c ts : Nat) (iss : Issue) : State :=
  if (s.cell (8 * n + c)).play.isSome then s.askJump n c ts (some iss) else s.combFlag (R.cellStatus_jump_lost n c) n 10

/-- Ports that the Cells of a mask feed. -/
def State.maskPorts (s : State) (n mask : Nat) : Nat :=
  (maskBits 8 mask).foldl (fun m c => match s.routePort n c with | some p => m ||| 2 ^ p | none => m) 0

/-- The span that a speculative PLAY asks for. Its ports are those of the routing as the step executes; they follow a route that
changes before t_s (R217; DEDUCED, log 61). -/
def State.newSpec (s : State) (n ts v w : Nat) (iss : Issue) : Spec :=
  { ts := ts
    ends := (maskBits 8 (nwCells v)).map fun c => (c, s.playEnd n c ts (nwDesc v) (some (nwAlt v)))
    ports := s.maskPorts n (nwCells v)
    way := none
    cset := s.readCset n (mwCsel w)
    hzn := s.horizon
    s0 := (s.seq n).lastS
    iss := iss }

/-- Its span overlaps one that already holds a twin it needs (R219); the spans of pulses that this very PLAY pre-empts still stand,
since a twin that they free is free for the steps after it (R217). -/
def State.specBusy (s : State) (n : Nat) (x : Spec) : Bool :=
  (List.range 2).any fun p => x.ports.testBit p && (s.comb n).specs.any fun y => y.overlaps p x.ts x.te

/-- The Cell pulses of a PLAY or MEAS. -/
def State.playCells (s : State) (n ts v w : Nat) (iss : Issue) : State :=
  let cells := maskBits 8 (nwCells v)
  if nwJump v then cells.foldl (fun s c => s.playJump n c ts iss) s
  else if nwSpec v then
    let s := s.setComb n { s.comb n with specs := (s.comb n).specs.filter fun x => match x.te with | some e => decide (s.dial < e) | none => true }
    let x := s.newSpec n ts v w iss
    if s.specBusy n x then
      let s := cells.foldl (fun s c => s.addPulse n c ts v none iss) s
      (s.decFlag R.decStatus_spec_busy).markShot n iss.shot
    else
      let s := cells.foldl (fun s c => s.addPulse n c ts v (some (nwAlt v)) iss) s
      let b := x.cset.bits.getD 0 (0, 6)
      let x := if 4 ≤ b.2 ∨ s.dial + 563 ≤ ts then { x with way := s.specWay n x } else x
      s.setComb n { s.comb n with specs := (s.comb n).specs ++ [x] }
  else cells.foldl (fun s c => s.addPulse n c ts v none iss) s

/-- The descriptor check that a PLAY or MEAS starts (R141). -/
def State.addCheck (s : State) (n v : Nat) (iss : Issue) : State :=
  if nwCells v = 0 ∨ nwJump v then s
  else
    let bad := (maskBits 8 (nwCells v)).any fun c => s.descFails n c (nwDesc v) || (nwSpec v && s.descFails n c (nwAlt v))
    let ts := s.anchor n + nwOffset v
    let s := s.askDesc n (nwDesc v) (nwCells v) (some ts) iss
    let s := if nwSpec v then s.askDesc n (nwAlt v) (nwCells v) (some ts) iss else s
    s.setSeq n { s.seq n with checks := (s.seq n).checks ++ [⟨iss.pc, iss.sp, bad, s.dial + 640, iss.shot⟩] }

/-- The Bias actions of a PLAY or MEAS (R308, R309, R312, R313). -/
def State.playBias (s : State) (n ts v : Nat) (iss : Issue) : State :=
  let outs := maskBits 4 (nwBias v)
  let r := nwBiasRef v % 32
  if nwFast v then
    let base := s.ard (R.biasFluxA_fx_base n r)
    let len := s.ard (R.biasFluxA_fx_len n r) + 1
    if outs = [] then s
    else if 65536 < base + len then (s.setF (R.biasStatus_flux_bad n)).markShot n iss.shot
    else
      let f : Flux :=
        { b0 := beatUp ts, base := base, len := len, scale := s.ard (R.biasFluxB_fx_scale n r),
          hold := decide (s.ard (R.biasFluxB_fx_hold n r) = 1), ecc := none, read := 0, next := 0, iss := iss }
      outs.foldl (fun s b => s.setBias (4 * n + b) { s.biasOut (4 * n + b) with fluxes := (s.biasOut (4 * n + b)).fluxes ++ [f] }) s
  else
    let s := if outs = [] then s else s.journalize n (.stages (outs.map fun b => (4 * n + b, (s.biasOut (4 * n + b)).stages)))
    let s := outs.foldl (fun s b => s.stage (4 * n + b) (s.ard (R.biasSet_set_code n r b)) ts) s
    if (nwBiasRef v).testBit 15 then s.askLoad n ts (some iss) else s

/-- The marker edges of a PLAY or MEAS (R326). -/
def State.playMark (s : State) (n ts v : Nat) (iss : Issue) : State :=
  if nwMark v then s.placeSet n (nwMarkSet v) ts (some iss) else s

/-- A window of a MEAS with what R186 reads as the step issues it. -/
def State.newWin (s : State) (n c ts v : Nat) (iss : Issue) : Win :=
  let x := nwWindow v % 256
  { set := x
    prof := nwWindow v / 256
    mFirst := firstM (ts + s.ard (R.rdWinStart_win_start n x))
    count := s.ard (R.rdWinLen_win_len n x) + 1
    kEn := decide (s.ard (R.rdWinLen_k_en n x) = 1)
    record := decide (s.ard (R.rdWinLen_rec n x) = 1)
    stride := min 4 (s.ard (R.rdWinLen_k_stride n x))
    shift := s.ard (R.rdWinLen_res_shift n x)
    pub := if nwPub v then some ((nwTag v + c) % 4096) else none
    cut := none
    iss := iss }

def State.addWin (s : State) (n c : Nat) (w : Win) : State :=
  let g := 8 * n + c
  s.setLane g { s.lane g with wins := (s.lane g).wins ++ [w] }

def State.playWins (s : State) (n ts v : Nat) (iss : Issue) : State :=
  (maskBits 8 (nwLanes v)).foldl (fun s c => s.addWin n c (s.newWin n c ts v iss)) s

/-- The last scheduled tick of the step as one issued event (R138). -/
def State.eventEnd (s : State) (n ts v : Nat) (meas : Bool) : Nat :=
  let a := if nwMark v then max ts (s.setEnd n (nwMarkSet v) ts) else ts
  if meas ∧ nwLanes v ≠ 0 then max a (tFirst (firstM (ts + s.ard (R.rdWinStart_win_start n (nwWindow v % 256))))) else a

/-- What a PLAY and a MEAS share. -/
def State.playStep (s : State) (n w : Nat) (meas : Bool) : State :=
  match s.fetchNano n (mwTarget w) with
  | (none, s) => s
  | (some v, s) =>
    let iss := s.issue n
    let ts := s.anchor n + nwOffset v
    let s := s.addEvent n (s.eventEnd n ts v meas)
    let s := (((s.playCells n ts v w iss).addCheck n v iss).playBias n ts v iss).playMark n ts v iss
    (if meas then s.playWins n ts v iss else s).goNext n

def execPlay (t n : Nat) (s : State) : Host.Outcome State Fault Refusal :=
  .next ((s.at t).stepWith n (isOp 1) fun s w => s.playStep n w false)

def execMeas (t n : Nat) (s : State) : Host.Outcome State Fault Refusal :=
  .next ((s.at t).stepWith n (isOp 11) fun s w => s.playStep n w true)

/-! ### FRAME and PUBLISH (R149, R150) -/

/-- The actions of a FRAME on its Cells. -/
def State.frameStep (s : State) (n w : Nat) : State :=
  match s.fetchNano n (mwTarget w) with
  | (none, s) => s
  | (some v, s) =>
    let tick := s.anchor n + nwOffset v
    let a : FrameAct :=
      { tick := tick, set := (mwArg w).testBit 0, add := (mwArg w).testBit 1, sel := (mwArg w).testBit 2, nco := (mwArg w).testBit 3,
        v := nwPhase v, k := nwBank v, poff := none, iss := s.issue n }
    let s := (maskBits 8 (nwCells v)).foldl
      (fun s c => s.setCell (8 * n + c) { s.cell (8 * n + c) with acts := insertAct a (s.cell (8 * n + c)).acts }) s
    (s.addEvent n tick).goNext n

def execFrame (t n : Nat) (s : State) : Host.Outcome State Fault Refusal :=
  .next ((s.at t).stepWith n (isOp 10) fun s w => s.frameStep n w)

def State.publishStep (s : State) (n w : Nat) : State :=
  let a := s.anchor n
  let p : Pub := ⟨mwTarget w % 4096, mwArg w % 4, a % 2 ^ 40, a, n, false, s.issue n⟩
  (({ s with dec := { s.dec with pubs := s.dec.pubs ++ [p] } }).addEvent n a).goNext n

def execPublish (t n : Nat) (s : State) : Host.Outcome State Fault Refusal :=
  .next ((s.at t).stepWith n (isOp 12) fun s w => s.publishStep n w)

/-! ### BRANCH, CALL, RET (R155 to R158, R211) -/

/-- CALL pushes its return address; the first push over an entry that the safe point knew takes a journal entry. -/
def State.push (s : State) (n ret : Nat) : State :=
  let q := s.seq n
  let i := q.depth
  let old := q.stack.getD i 0
  let s := if i < q.safe.depth ∧ q.saved.contains i = false then
      (s.setSeq n { q with saved := i :: q.saved }).journalize n (.stack i old)
    else s
  let q := s.seq n
  s.setSeq n { q with stack := (q.stack ++ List.replicate (i + 1 - q.stack.length) 0).set i ret, depth := i + 1 }

/-- A way is taken. -/
def State.takeWay (s : State) (n target w : Nat) (call : Bool) : State :=
  let s := if call then s.push n (s.rd (R.seqPc_pc n) + 1) else s
  s.goto n (target ||| w)

/-- LATE_PIN (R140). -/
def State.latePin (s : State) (n : Nat) (late : Bool) : State :=
  if late then (s.combFlag (R.seqStatus_late_pin n) n 6).markOpen n else s

/-- P of a verdict branch (R139). -/
def pinTime (a : Nat) (cs : CSet) : Nat := a + 921 + 972 * cs.hops

/-- A needed verdict is missing at A + H (R156). -/
def State.missed (s : State) (n a : Nat) (cs : CSet) (target : Nat) (call : Bool) : State :=
  let s := s.verdictMissing n ((s.openShot n).map (·.num))
  if cs.dfltEn then (s.latePin n (decide (pinTime a cs < s.dial))).takeWay n target cs.dfltWay call
  else s.raiseFault n 4 (s.rd (R.seqPc_pc n)) ((s.openShot n).map (·.num))

/-- A BRANCH or CALL, at its start or while it waits. -/
def State.branchStep (s : State) (n w : Nat) (call : Bool) : State :=
  match (s.seq n).wait with
  | .verdict a _ cs _ target call' got =>
    match got with
    | some (way, d) => (s.latePin n (decide (pinTime a cs < s.dial ∧ pinTime a cs < d + 205))).takeWay n target way call'
    | none => s
  | _ =>
    let ways := mwWays w
    let cs := s.readCset n (mwCsel w)
    let a := s.anchor n
    match s.wayOf n cs ways (s.seq n).lastS s.horizon with
    | some way => (s.latePin n (decide (csetTags cs ways ≠ [] ∧ pinTime a cs < s.dial))).takeWay n (mwTarget w) way call
    | none =>
      if a + s.horizon ≤ s.dial then s.missed n a cs (mwTarget w) call
      else s.setWait n (.verdict a s.horizon cs ways (mwTarget w) call none)

def execBranch (t n : Nat) (s : State) : Host.Outcome State Fault Refusal :=
  .next ((s.at t).stepWith n (isOp 4) fun s w => s.branchStep n w false)

def execCall (t n : Nat) (s : State) : Host.Outcome State Fault Refusal :=
  .next ((s.at t).stepWith n (isOp 5) fun s w => s.branchStep n w true)

/-- VERDICT_HORIZON_EXPIRY: A + H is reached before every verdict counts. -/
def execVerdictHorizonExpiry (t n : Nat) (s : State) : Host.Outcome State Fault Refusal :=
  let s := s.at t
  match (s.seq n).wait with
  | .verdict a hzn cs _ target call none =>
    if a + hzn ≤ s.dial ∧ (s.seq n).faults = [] ∧ s.halted n = false then .next (s.missed n a cs target call) else .next s
  | _ => .next s

def execRet (t n : Nat) (s : State) : Host.Outcome State Fault Refusal :=
  .next ((s.at t).stepWith n (isOp 6) fun s _ =>
    let q := s.seq n
    match q.handler with
    | some (link, d) =>
      if q.depth = d then (s.setSeq n { q with handler := none }).goto n link
      else (s.setSeq n { q with depth := q.depth - 1 }).goto n (q.stack.getD (q.depth - 1) 0)
    | none => (s.setSeq n { q with depth := q.depth - 1 }).goto n (q.stack.getD (q.depth - 1) 0))

/-! ### WAITT and SYNC (R145, R148, R175, R176) -/

/-- When a wait with this timeout ends. -/
def waitLimit (a w : Nat) : Option Nat := if mwTarget w = 0 then none else some (a + 1024 * mwTarget w)

def execWaitt (t n : Nat) (s : State) : Host.Outcome State Fault Refusal :=
  .next ((s.at t).stepWith n (isOp 3) fun s w =>
    let test := if 48 ≤ mwArg w then (s.readCset n (mwArg w - 48)).bits.getD 0 (0, 6) else (0, 6)
    s.setWait n (.waitt (mwArg w) (s.anchor n) (waitLimit (s.anchor n) w) test))

/-- The held triggers of a source, in 1/256 tick. -/
def State.heldTrigs (s : State) (n src : Nat) : List Nat :=
  if src < 32 then (s.stamp src).held else ((s.seq n).trigs.filter fun e => decide (e.1 = src)).map (·.2)

/-- The earliest held trigger at or after A0 that has come no later than the timeout (DEDUCED, log 60). -/
def State.trigger (s : State) (n src a0 : Nat) (dl : Option Nat) : Option Nat :=
  (earliest (s.heldTrigs n src) (256 * a0)).filter fun y => match dl with | some d => decide (y ≤ 256 * d) | none => true

/-- Stamped time plus 614.4 ticks, rounded up to a whole tick. -/
def trigAnchor (y : Nat) : Nat := ceilDiv (10 * y + 1572864) 2560

/-- A waiting step ends with an anchor. -/
def State.endAt (s : State) (n a : Nat) (timeout : Bool) : State :=
  let s := s.setSeq n { s.seq n with anchor := a, timedOut := timeout }
  let s := if timeout then s.setF (R.seqStatus_timeout n) else s
  s.goNext n

def State.waiting (s : State) (n : Nat) : Bool := !s.halted n && (s.seq n).faults.isEmpty

/-- WAITT_TRIGGERED. -/
def execWaittTriggered (t n : Nat) (s : State) : Host.Outcome State Fault Refusal :=
  let s := s.at t
  match (s.seq n).wait with
  | .waitt src a0 dl _ =>
    match s.trigger n src a0 dl with
    | some y => if s.waiting n then .next (s.endAt n (trigAnchor y) false) else .next s
    | none => .next s
  | _ => .next s

/-- WAITT_TIMEOUT. -/
def execWaittTimeout (t n : Nat) (s : State) : Host.Outcome State Fault Refusal :=
  let s := s.at t
  match (s.seq n).wait with
  | .waitt src a0 (some dl) _ =>
    if dl ≤ s.dial ∧ s.trigger n src a0 (some dl) = none ∧ s.waiting n then .next (s.endAt n dl true) else .next s
  | _ => .next s

def execSync (t n : Nat) (s : State) : Host.Outcome State Fault Refusal :=
  .next ((s.at t).stepWith n (isOp 9) fun s w => s.setWait n (.sync (mwArg w % 32) (s.anchor n) (waitLimit (s.anchor n) w)))

def State.members (s : State) (b : Nat) : List Nat := (List.range 64).filter fun n => (s.ard (R.seqBar_bar_memb n)).testBit b

/-- A sequencer waits at barrier b. -/
def State.waitsAt (s : State) (b n : Nat) : Bool :=
  s.waiting n && (match (s.seq n).wait with | .sync b' _ _ => decide (b' = b) | _ => false)

/-- Every member waits: all leave with one anchor (R139, R148). -/
def State.releaseBarrier (s : State) (b : Nat) : State :=
  let ms := s.members b
  if ms ≠ [] ∧ ms.all (s.waitsAt b) then
    let top := ms.foldl (fun a n => max a (s.anchor n)) 0
    ms.foldl
      (fun s' n =>
        let s' := if top < s.dial + 2048 then s'.setF (R.seqStatus_sync_slip n) else s'
        s'.endAt n (max top (s.dial + 2048)) false) s
  else s

/-- SYNC_RELEASE. -/
def execSyncRelease (t barrier : Nat) (s : State) : Host.Outcome State Fault Refusal := .next ((s.at t).releaseBarrier barrier)

/-- SYNC_TIMEOUT. -/
def execSyncTimeout (t n : Nat) (s : State) : Host.Outcome State Fault Refusal :=
  let s := s.at t
  match (s.seq n).wait with
  | .sync _ _ (some dl) => if dl ≤ s.dial ∧ s.waiting n then .next (s.endAt n dl true) else .next s
  | _ => .next s

/-- `bar_memb` of sequencer n has been activated: a member that waits at a barrier it left leaves at once, and that may
release the others (R175). -/
def State.newBarriers (s : State) (n : Nat) : State :=
  match (s.seq n).wait with
  | .sync b _ _ =>
    if (s.ard (R.seqBar_bar_memb n)).testBit b ∨ s.waiting n = false then s
    else ((s.setF (R.seqStatus_sync_slip n)).endAt n (max (s.anchor n) (s.dial + 2048)) false).releaseBarrier b
  | _ => s

/-! ### SHOT and COMMIT (R83, R151, R152, R240) -/

/-- A boundary action of Comb n other than a commit and the governor's waits for its boundary (R82). -/
def State.bndPending (s : State) (n : Nat) : Bool := (s.seq n).resume.isSome || s.calPending n

/-- B of the actions that wait: the one that a SHOT begin has fixed, else the first beat boundary at or after the latest E and
the request (R82, R84). -/
def State.bndPlan (s : State) (n : Nat) : Option Nat :=
  let q := s.seq n
  match q.bndAt with
  | some b => some b
  | none => (s.lastEnd n).map fun e => beatUp (max e (max (q.resume.getD 0) (if s.calPending n then q.calReq else 0)))

/-- P_est is above L: a power-limit deferral is pending at every boundary (R454). -/
def State.powerOver (s : State) : Bool := decide (s.rd R.thmPower_p_lim < s.rd R.thmPower_p_est)

/-- The start S of the latest shot. -/
def State.latestS (s : State) (n : Nat) : Nat := match (s.seq n).shots with | x :: _ => x.s | [] => (s.seq n).lastS

/-- G of the governor for a latest shot that ends at `e`; a sequencer that has run no shot has none (R454). -/
def State.powerG (s : State) (n e : Nat) : Nat :=
  if s.powerOver = false ∨ ((s.seq n).shots = [] ∧ (s.seq n).lastE = 0) then 0
  else
    let pe := s.rd R.thmPower_p_est
    let pl := s.rd R.thmPower_p_lim
    min 16777216 (ceilDiv (ceilDiv ((e - s.latestS n) * (pe - pl)) pl) 16 * 16)

/-- The earliest start that the Comb's own boundary actions allow; none while one of them waits for an unknown E (R81, R83). -/
def State.ownPlan (s : State) (n : Nat) : Option Nat :=
  let q := s.seq n
  let g := if s.fracDue n then 32 else 0
  if s.bndPending n = false ∧ s.powerOver = false then some q.settleTo
  else
    (s.combPoint n 0).bind fun e =>
      if s.bndPending n then (s.bndPlan n).map fun b => max q.settleTo (max (b + g) (beatUp e + s.powerG n e))
      else some (max q.settleTo (beatUp e + s.powerG n e))

/-- The earliest start that all boundary actions and commits allow (R83, R240). -/
def State.boundaryPlan (s : State) (n : Nat) : Option Nat :=
  (List.range 16).foldl
    (fun acc x =>
      match acc with
      | none => none
      | some m =>
        let v := s.txn x
        if (s.txnState x = tPENDING ∨ s.txnState x = tCOMMITTED) ∧ v.shot ∧ v.scope.testBit n then
          (s.txnBeat x).map fun b => max m (b + if s.rd (R.txnState_image x) = 1 then 16384 else 0)
        else some m) (s.ownPlan n)

/-- A shot opens with its anchor as S. -/
def State.openNew (s : State) (n : Nat) : State :=
  let a := s.anchor n
  let s := s.inc (R.seqShots_shot_count n)
  let k := s.rd (R.seqShots_shot_count n)
  let x : Shot := { num := k, s := a, endA := none, last := 0, invalid := false, recs := 0, lost := false, told := none }
  let s := s.setSeq n { s.seq n with shots := x :: (s.seq n).shots, lastS := a }
  let s := ((s.wr (R.seqStatus_in_shot n) 1).wr (R.seqStatus_shot_invalid n) 0).fireSAt a n 0
  if s.isAmber ∨ (s.svc.muteHigh = false ∧ a ≤ s.dial) then s.markShot n (some k) else s

/-- A deferral to S′ (R83, R151). -/
def State.defer (s : State) (n a : Nat) : State :=
  let d := ceilDiv (a - s.anchor n) 16
  (((s.incSat (R.seqDefer_defer_count n)).wr (R.seqDefer_defer_last n) (min d 0xFFFF)).setAnchor n a).combFlag (R.seqStatus_deferred n) n 7

/-- What SHOT begin does beside the deferral: B is fixed for the actions that wait, and a start that the governor defers raises
THROTTLE (R83, R454). -/
def State.fixBoundary (s : State) (n : Nat) : State :=
  match s.combPoint n 0 with
  | none => s
  | some e =>
    let s :=
      if s.bndPending n then s.setSeq n { s.seq n with bndAt := s.bndPlan n } else s
    let g := s.powerG n e
    if g = 0 then s
    else
      let s := s.wr R.thmDefer_g_last g
      if s.anchor n < beatUp e + g then s.raiseInt n 1 else s

def isShot (last : Bool) (w : Nat) : Bool := isOp 13 w && decide ((mwArg w).testBit 0 = last)

def State.shotBegin (s : State) (n : Nat) : State :=
  if s.rd (R.seqStatus_in_shot n) = 1 then (s.setF (R.seqStatus_shot_unpaired n)).goNext n
  else
    match s.boundaryPlan n with
    | none => s.setWait n .shotHold
    | some b =>
      let s := (s.fixBoundary n).fixTxns n
      ((if s.anchor n < b then s.defer n b else s).openNew n).goNext n

def execShotBegin (t n : Nat) (s : State) : Host.Outcome State Fault Refusal :=
  .next ((s.at t).stepWith n (isShot false) fun s _ => s.shotBegin n)

def State.shotEnd (s : State) (n w : Nat) : State :=
  if s.rd (R.seqStatus_in_shot n) = 0 then (s.setF (R.seqStatus_shot_unpaired n)).goNext n
  else
    let s := if (mwArg w).testBit 1 then s.markOpen n else s
    let a := s.anchor n
    let s :=
      match (s.seq n).shots with
      | [] => s
      | x :: xs => s.setSeq n { s.seq n with shots := { x with endA := some a } :: xs }
    ((s.wr (R.seqStatus_in_shot n) 0).tellShots n).goNext n

def execShotEnd (t n : Nat) (s : State) : Host.Outcome State Fault Refusal :=
  .next ((s.at t).stepWith n (isShot true) fun s w => s.shotEnd n w)

/-- The code of a COMMIT (R152). -/
def State.commitCode (s : State) (n code : Nat) : State :=
  (s.setSeq n { s.seq n with commitBad := decide (code ≠ rOK) }).wr (R.seqStatus_txn_result n) code

def isCommit (mode w : Nat) : Bool := isOp 14 w && decide (mwArg w / 16 = mode)

/-- A COMMIT request in one of the two modes. -/
def State.commitStep (s : State) (n w mode at' : Nat) : State :=
  let x := mwArg w % 16
  let r := s.requestCommit x mode at' (if mode = 2 then some n else none) (some (n, s.issue n))
  let s := if r.1 = rOK then r.2.journalize n (.commit x) else r.2
  (s.commitCode n r.1).goNext n

def execCommitShot (t n : Nat) (s : State) : Host.Outcome State Fault Refusal :=
  .next ((s.at t).stepWith n (isCommit 0) fun s w => s.commitStep n w 2 0)

def execCommitAt (t n : Nat) (s : State) : Host.Outcome State Fault Refusal :=
  .next ((s.at t).stepWith n (isCommit 1) fun s w => s.commitStep n w 1 (s.anchor n + mwTarget w))

def execCommitAbort (t n : Nat) (s : State) : Host.Outcome State Fault Refusal :=
  .next ((s.at t).stepWith n (isCommit 2) fun s w =>
    let r := s.abortTxn (mwArg w % 16)
    (r.2.commitCode n r.1).goNext n)

end Sys2Proof.Machine
end

