-- ==== Sys2Proof/Machine/Calib.lean ====
section
/-! DEFINITION. Calibration passes, the boundary actions of a Comb, and the stored copies (R81 to R84, R460 to R471, R479). -/

namespace Sys2Proof.Machine

/-! ### When an item is idle (R466) -/

/-- Comb n is halted with no pulse span ahead. -/
def State.outIdle (s : State) (n : Nat) : Bool :=
  s.halted n && (List.range 8).all fun c => (s.cell (8 * n + c)).play.isNone && (s.cell (8 * n + c)).waiting.isEmpty

def State.itemIdle (s : State) (item : Nat) : Bool :=
  if item < 128 then decide (s.rd (muteWhy item) ≠ 0) || s.outIdle (item / 2)
  else if item < 192 then
    let i := item - 128
    s.halted i && (List.range 8).all (fun c => (s.lane (8 * i + c)).cur.isNone && (s.lane (8 * i + c)).wins.isEmpty) &&
      decide (s.capNow i = cIDLE)
  else if item < 448 then
    let x := s.biasOut (item - 192)
    decide (x.zero ≠ 0) || (decide (s.codeAct (item - 192) = 0) && x.flux.isNone && x.fluxes.isEmpty)
  else if item < 512 then s.halted (item - 448) && (s.mkr (item - 448)).edges.isEmpty
  else if item < 544 then decide (s.ard (R.stpInCfg_en (item - 512)) = 0)
  else true

/-- The part that measures an item: Front die 0 to 3. -/
def itemDie (item : Nat) : Nat :=
  if item < 128 then item / 32
  else if item < 192 then (item - 128) / 16
  else if item < 448 then (item - 192) / 64
  else if item < 512 then (item - 448) / 16
  else if item < 544 then (item - 512) / 8
  else 4

/-- Ticks that a pair takes. -/
def pairTicks (item : Nat) : Nat :=
  if item < 128 then 20480000
  else if item < 192 then 12800000
  else if item < 448 then 5120000
  else if item < 512 then 2560000
  else 536870912

/-! ### Passes (R461, R465 to R467) -/

/-- The items of the enabled classes. -/
def State.passItems (s : State) : List Nat :=
  let bg := s.ard R.calCtl_bg_en
  (List.range 545).filter fun i =>
    bg.testBit (if i < 128 then 0 else if i < 192 then 1 else if i < 448 then 2 else if i < 512 then 3 else if i < 544 then 4 else 5)

/-- A pass starts; every item is measured, and MCAL runs. -/
def State.startPass (s : State) (boot : Bool) : State :=
  let items := s.passItems
  let s := s.setCal
    { s.cal with left := items, boot := boot, passAt := some s.dial, tCal := s.thm.tj, bad := [], since := [], free := [] }
  let s := s.wr R.calStatus_t_cal (unsigned 8 (satw 8 (crnd s.thm.tj 16)))
  let s := s.wr R.calStatus_pass_busy 1
  let s :=
    if items.contains 544 = false then s
    else if s.thm.refFail then (s.setF R.calStatus_cal_refskip).itemDone 544
    else if s.thm.mcalAt.isSome then s
    else s.mcalStart
  if items = [] then s.endPass else s

def State.passBusy (s : State) : Bool := decide (s.rd R.calStatus_pass_busy = 1)

/-- `cal_run`. -/
def State.calRun (s : State) : State :=
  if s.passBusy then s.wr R.calCtl_result rBUSY
  else if s.isAmber || s.isGreen then (s.startPass false).wr R.calCtl_result rOK
  else s.wr R.calCtl_result rSTATE

def execCalRun (t : Nat) (s : State) : Host.Outcome State Fault Refusal :=
  let s := s.at t
  if s.awake then .next (s.hostCmd 0x70000 fun s => s.calRun) else .next s

/-- Tj has moved by more than `dt`, or `cal_per` hours have passed since the last pass began. -/
def State.passDue (s : State) : Bool :=
  match s.cal.passAt with
  | none => false
  | some a =>
    decide (max 1 (s.ard R.calCfg_dt) * 4096 < (s.thm.tj - s.cal.tCal).natAbs) ||
      (decide (s.ard R.calCfg_cal_per ≠ 0) && decide (a + s.ard R.calCfg_cal_per * 3600 * ticksPerSec ≤ s.dial))

/-- CAL_PASS_TRIGGER: one of the two holds; a trigger during a pass merges into it. -/
def execCalPassTrigger (t : Nat) (s : State) : Host.Outcome State Fault Refusal :=
  let s := s.at t
  if (s.isAmber || s.isGreen) ∧ s.passBusy = false ∧ s.passDue then .next (s.startPass false) else .next s

/-- The earliest end of a pair of an item. -/
def State.pairDue (s : State) (item : Nat) : Nat :=
  let a := s.cal.passAt.getD 0
  let begin' := max (SMap.get a s.cal.since item) (if s.cal.boot then a else SMap.get a s.cal.free (itemDie item))
  begin' + pairTicks item

/-- What one measurement of an item gives: its quantities, of a STAMP the table that the hits of its run make (R338). -/
def readings (item : Nat) (l : List Int) (z : Nat) : List Int :=
  if 512 ≤ item ∧ item < 544 then (lutOf (l.map Int.toNat) z).map Int.ofNat else l

/-- The two results of a pair, what is open in them drawn. -/
def State.pairOf (s : State) (item : Nat) (a b : List Int) : (List Int × List Int) × State :=
  let d := s.draw
  ((readings item a d.1, readings item b (d.1 / 256 ^ 16)), d.2)

/-- A pair counts, or is discarded and taken again; a fourth that disagrees leaves the item as it was. -/
def State.takePair (s : State) (item : Nat) (a b : List Int) : State :=
  let q := s.pairOf item a b
  let s := q.2
  let a := q.1.1
  let b := q.1.2
  let s := if 512 ≤ item then s.cdTakes (item - 512) else s
  let js := s.measured item
  let s := if js.length < itemCount item then s.setF R.calStatus_cal_refskip else s
  let s := s.setCal
    { s.cal with free := SMap.insert (dropKey (itemDie item) s.cal.free) (itemDie item) s.dial,
                 since := SMap.insert (dropKey item s.cal.since) item s.dial }
  if pairAgrees item js a b then (s.acceptPair item a b).itemDone item
  else
    let k := SMap.get 0 s.cal.bad item
    if k < 3 then s.setCal { s.cal with bad := SMap.insert (dropKey item s.cal.bad) item (k + 1) }
    else (s.calDisagree (itemFirst item)).itemDone item

/-- CAL_MEASUREMENT_DONE: the pair of an idle item of the pass ends. -/
def execCalMeasurementDone (t item : Nat) (a b : List Int) (s : State) : Host.Outcome State Fault Refusal :=
  let s := s.at t
  if s.awake ∧ s.cal.left.contains item ∧ item < 544 ∧ s.itemIdle item ∧ s.pairDue item ≤ s.dial then .next (s.takePair item a b)
  else .next s

/-- CAL_ABANDON: an item that is not idle loses its partial pair and waits. -/
def execCalAbandon (t item : Nat) (s : State) : Host.Outcome State Fault Refusal :=
  let s := s.at t
  if s.cal.left.contains item ∧ s.itemIdle item = false then
    .next (s.setCal { s.cal with since := SMap.insert (dropKey item s.cal.since) item s.dial })
  else .next s

/-- CAL_STALE: an item has waited `cal_wait` seconds from the start of the pass. -/
def execCalStale (t item : Nat) (s : State) : Host.Outcome State Fault Refusal :=
  let s := s.at t
  let limit := s.cal.passAt.getD 0 + max 1 (s.ard R.calCfg_cal_wait) * ticksPerSec
  if s.awake ∧ s.cal.left.contains item ∧ s.itemIdle item = false ∧ limit ≤ s.dial then
    .next (((s.setF R.calStatus_cal_stale).fireD 94).itemDone item)
  else .next s

/-- The pairs of an item that a list of results brings, in their order. -/
def State.itemPairs (s : State) (item : Nat) : List (Nat × (List Int × List Int)) → List (List Int × List Int) × State
  | [] => ([], s)
  | r :: rs =>
    if r.1 = item then
      let q := s.pairOf item r.2.1 r.2.2
      let rest := q.2.itemPairs item rs
      (q.1 :: rest.1, rest.2)
    else s.itemPairs item rs

/-- CONVERTER_CAL_DONE: the items of the boot pass but MCAL are measured, each with as many pairs as it is named; an item not named, or
with four pairs that disagree, keeps its loaded values (R467, R470). After a clock failure it is the calibration that R19 repeats. -/
def execConverterCalDone (t : Nat) (results : List (Nat × (List Int × List Int))) (s : State) : Host.Outcome State Fault Refusal :=
  let s := s.at t
  if s.awake ∧ s.isSleep = false ∧ s.svc.convCal = false ∧ s.rd R.timeStatus_pll_lock = 1 ∧ s.rd R.secBoot_recovery = 0 ∧
      s.rd R.secBoot_no_image = 0 ∧ s.svc.causes.contains 2 = false ∧ s.svc.causes.contains 3 = false then
    let s := ((results.map (·.1)).eraseDups.filter (· < 544)).foldl
      (fun s i =>
        let q := s.itemPairs i results
        q.2.measurePairs i 0 q.1) s
    let s := if s.cal.boot then (s.cal.left.filter (· < 544)).foldl (fun s i => s.itemDone i) s else s
    .next (s.setSvc { s.svc with convCal := true }).bootCheck
  else .next s

/-! ### Code-density runs (R338, R342, R463, R464, R467) -/

/-- The Stamp inputs that the background schedule has on a run now. Of the items that a part has still to measure and may, it measures
one at a time, the lowest number first (DESIGN CHOICE, log 63); the boot pass measures all at once (R465, R466). -/
def State.cdBackground (s : State) : List Nat :=
  if (s.isAmber || s.isGreen) && s.passBusy then
    let l := s.cal.left.filter fun x => decide (x < 544)
    let l := if s.cal.boot then l else (List.range 4).filterMap fun d => l.find? fun x => decide (itemDie x = d) && s.itemIdle x
    (l.filter fun x => decide (512 ≤ x) && s.itemIdle x).map fun x => x - 512
  else []

/-- The runs of the background schedule that are under way take their inputs. -/
def State.cdSettle (s : State) : State := s.cdBackground.foldl (fun s i => s.cdTakes i) s

/-- A run is under way. -/
def State.cdBusy (s : State) : Bool := decide (s.rd R.stpCd_cd_busy = 1) || !s.cdBackground.isEmpty

/-- `cd_run`. -/
def State.cdRun (s : State) : State :=
  if s.cdBusy then s.wr R.stpCd_result rBUSY
  else if s.isAmber || s.isGreen then
    let i := s.rd R.stpCd_cd_in
    { s.wr R.stpCd_cd_busy 1 with cd := some ⟨i, none, 0⟩ }.cdTakes i
  else s.wr R.stpCd_result rSTATE

def execCdRun (t : Nat) (s : State) : Host.Outcome State Fault Refusal :=
  let s := s.at t
  if s.awake then .next (s.hostCmd 0x400008 fun s => s.cdRun) else .next s

/-- The code of a run that ends without an agreeing pair: R338 names none. It is one of the named codes that stand for a failure or
for success, PARTIAL excepted (R6, R7; free, log 2). -/
def cdFailCode (z : Nat) : Nat := z % rPARTIAL

/-- CD_RUN_COMPLETE: one half of a pair ends; an agreeing pair gives the table, four disagreeing ones keep it (R467). -/
def execCdRunComplete (t : Nat) (counts : List Nat) (s : State) : Host.Outcome State Fault Refusal :=
  let s := s.at t
  match s.cd with
  | none => .next s
  | some c =>
    let (z, s) := s.draw
    let l := lutOf counts z
    match c.half with
    | none => .next { s with cd := some { c with half := some l } }
    | some a =>
      if lutsAgree a l then
        .next { ((s.setLut c.input (meanLut a l)).wr R.stpCd_cd_busy 0).wr R.stpCd_result rOK with cd := none }
      else if c.bad < 3 then .next { s with cd := some { c with half := none, bad := c.bad + 1 } }
      else
        let s := s.calDisagree (0xE00 + 4 * c.input)
        .next { (s.wr R.stpCd_cd_busy 0).wr R.stpCd_result (cdFailCode z) with cd := none }

/-! ### Boundary actions of a Comb (R82 to R84, R468) -/

/-- The RF outputs of Comb n resume: MUTE_N is high, the master output enable is on (R266). -/
def State.resumeRf (s : State) (n : Nat) : State :=
  (List.range 2).foldl
    (fun s p =>
      let k := 2 * n + p
      let s := if s.svc.muteHigh then s.unmute k 3 else s
      if s.rd R.secBoot_oe = 1 then s.unmute k 4 else s) s

/-- The beat at which the actions that wait apply, once it is reached, with no shot under way (R85). -/
def State.bndBeat (s : State) (n : Nat) : Option Nat :=
  (s.bndPlan n).filter fun b => decide (b ≤ s.dial) && s.noShotNow n

/-- One calibration step of Comb n at beat b, with the settling of a new `frac`. -/
def State.takeStep (s : State) (n b : Nat) : State :=
  let g := if s.fracDue n then 32 else 0
  let s := s.setSeq n { s.seq n with calAt := s.dial, settleTo := max (s.seq n).settleTo (b + g) }
  s.calSteps n

/-- The actions of one boundary at b: RF resume, and one calibration step. -/
def State.applyBoundary (s : State) (n b : Nat) : State :=
  let s := if (s.seq n).resume.isSome then (s.resumeRf n).setSeq n { (s.resumeRf n).seq n with resume := none } else s
  let s := s.setSeq n { s.seq n with bndAt := none }
  if (s.seq n).calFor = some b ∨ s.calPending n = false then s
  else
    let s := s.takeStep n b
    s.setSeq n { s.seq n with calFor := some b }

/-- BOUNDARY_ACTIONS_APPLY: all actions pending for the Comb at E apply together at B; one calibration step to a boundary. -/
def execBoundaryActionsApply (t n : Nat) (s : State) : Host.Outcome State Fault Refusal :=
  let s := s.at t
  match s.bndBeat n with
  | none => .next s
  | some b => if s.awake then .next (s.applyBoundary n b) else .next s

/-- HALTED_CAL_STEP: between shots the Comb takes one step every 25,600 ticks. -/
def execHaltedCalStep (t n : Nat) (s : State) : Host.Outcome State Fault Refusal :=
  let s := s.at t
  match s.bndBeat n with
  | none => .next s
  | some _ =>
    if s.awake ∧ s.betweenShots n ∧ s.calPending n ∧ (s.seq n).calAt + 25600 ≤ s.dial then .next (s.takeStep n (beatUp s.dial))
    else .next s

/-! ### Stored copies (R470, R471) -/

def calWords : Nat := 3904
def calBase (copy : Nat) : Nat := 0x40000 + 0x10000 * copy

/-- Header and values of a copy. -/
def State.calBody (s : State) (seq : Nat) : List Byte :=
  leBytes 4 0x43414C31 ++ leBytes 4 seq ++ leBytes 4 1 ++ leBytes 4 calWords ++
    (List.range calWords).flatMap fun x => leBytes 4 (s.rd (R.calTarget_target x))

def copyLen : Nat := 16 + 4 * calWords

def State.calMagic (s : State) (copy : Nat) : Bool := decide (s.flashNat (calBase copy) 4 = 0x43414C31)

def State.calValid (s : State) (copy : Nat) : Bool :=
  let a := calBase copy
  s.calMagic copy && decide (s.flashNat (a + 8) 4 = 1 ∧ s.flashNat (a + 12) 4 = calWords) &&
    decide (crc32c (s.flashBytes a copyLen) = s.flashNat (a + copyLen) 4)

def State.calSeqOf (s : State) (copy : Nat) : Nat := s.flashNat (calBase copy + 4) 4

/-- The valid copy with the higher sequence number. -/
def State.calCopy (s : State) : Option Nat :=
  if s.calValid 0 ∧ (s.calValid 1 = false ∨ s.calSeqOf 1 ≤ s.calSeqOf 0) then some 0
  else if s.calValid 1 then some 1 else none

/-- At boot the valid copy, or the factory values, become targets and applied values. Monitor factors stay as at manufacture
until the first MCAL (R450). -/
def State.calLoad (s : State) : State :=
  let c := s.calCopy
  let s := (List.range 2).foldl (fun s k => if s.calMagic k ∧ s.calValid k = false then s.fireD 94 else s) s
  let val := fun (x : Nat) =>
    match c with
    | some k => s.flashNat (calBase k + 16 + 4 * x) 4
    | none => calCode x (Config.factoryCal x)
  let s' := (List.range calWords).foldl (fun s x => (s.wr (R.calTarget_target x) (val x)).wr (R.calApplied_applied x) (val x)) s
  let s' := (List.range calWords).foldl (fun s x => if 0xE80 ≤ x ∧ x < 0xEA8 then s else s.calDerive x) s'
  match c with
  | some k =>
    let s' := (s'.wr R.calStatus_copy (k + 1)).wr R.calSeq_cal_seq (s.calSeqOf k)
    s'.setCal { s'.cal with digest := leNat (sha3 (s.flashBytes (calBase k) (copyLen + 4))) }
  | none => s'.setCal { s'.cal with digest := Config.factoryDigest }

/-- CAL_STORE: the snapshot goes into the copy with the lower sequence number. -/
def State.calStore (s : State) : State :=
  let c := s.calCopy
  let to' := match c with | some k => 1 - k | none => 0
  let seq := match c with | some k => (s.calSeqOf k + 1) % 2 ^ 32 | none => 1
  let body := s.calBody seq
  let bytes := body ++ leBytes 4 (crc32c body)
  let s := ((s.eraseFlash (calBase to') 0x10000).putFlash (calBase to') bytes).wr R.calSeq_cal_seq seq
  (s.setCal { s.cal with digest := leNat (sha3 bytes) }).fireD 94

/-! ### The basic level (R479) -/

def State.deriveCal (s : State) : State :=
  if s.rd R.calCtl_level = 1 then s
  else (((s.both R.calCtl_bg_en 0x3F).both R.calCfg_dt 32).both R.calCfg_cal_per 24).both R.calCfg_cal_wait 10

end Sys2Proof.Machine
end

