-- ==== Sys2Proof/Machine/Frame.lean ====
section
/-! DEFINITION. Elvent frames: layout, scrambling, the launch queue, sending and receiving with replay (R371 to R379, R388 to
R390, R394 to R396, R227, R343). -/

namespace Sys2Proof.Machine

/-! ### Scrambling (R372, log 10) -/

/-- The next state of the PRBS31 register. -/
def prbsNext (st : Nat) : Nat := (st * 2 + (st / 2 ^ 30 + st / 2 ^ 27) % 2) % 2 ^ 31

/-- `k` bits of the sequence, the first in bit 0, and the state after them. -/
def prbsRun : Nat → Nat → Nat × Nat
  | 0, st => (0, st)
  | k + 1, st =>
    let r := prbsRun k (prbsNext st)
    (st / 2 ^ 30 % 2 + 2 * r.1, r.2)

/-- Data lanes of a frame. -/
def dataLanes (v1 : Bool) : Nat := if v1 then 12 else 16

/-- The scrambler states at the first frame of ACTIVE or DEGRADED. -/
def scrSeeds (v1 : Bool) : List Nat := (List.range (dataLanes v1)).map (0x40000000 + ·)

/-- A frame with each lane's 64 bits XORed with its sequence, and the states after it. -/
def scramble (v1 : Bool) (frame : Nat) (scr : List Nat) : Nat × List Nat :=
  let runs := (List.range (dataLanes v1)).map fun i => prbsRun 64 (scr.getD i 0)
  ((List.range (dataLanes v1)).foldl (fun f i => f ^^^ (runs.getD i (0, 0)).1 * 2 ^ (64 * i)) frame, runs.map (·.2))

/-! ### Layout (R371, R374 to R376, R383) -/

/-- Bits that the CRC covers. -/
def crcLen (v1 : Bool) : Nat := if v1 then 736 else 992

/-- Payload words. -/
def roomWords (v1 : Bool) : Nat := if v1 then 10 else 14

def packWords (ws : List Nat) : Nat := ws.foldr (fun w acc => w % 2 ^ 64 + 2 ^ 64 * acc) 0

/-- The frame body without `ack`, `nak` and CRC. -/
def frameBody (ftype ctl seq vcount sub : Nat) (ws : List Nat) : Nat :=
  ftype + ctl * 2 ^ 3 + seq % 4096 * 2 ^ 4 + vcount * 2 ^ 28 + sub % 2 ^ 64 * 2 ^ 32 + packWords ws * 2 ^ 96

/-- The body with fresh `ack`, `nak` and CRC. -/
def sealFrame (v1 : Bool) (body ack : Nat) (nak : Bool) : Nat :=
  let b := body + (if nak then 2 ^ 2 else 0) + ack % 4096 * 2 ^ 16
  b + crc32 (crcLen v1) b * 2 ^ crcLen v1

def frFtype (f : Nat) : Nat := f % 4
def frNak (f : Nat) : Bool := f.testBit 2
def frCtl (f : Nat) : Bool := f.testBit 3
def frSeq (f : Nat) : Nat := bits f 15 4
def frAck (f : Nat) : Nat := bits f 27 16
def frVcount (f : Nat) : Nat := bits f 31 28
def frSub (f : Nat) : Nat := bits f 95 32
def frWord (f i : Nat) : Nat := bits f (64 * i + 159) (64 * i + 96)
def frWords (v1 : Bool) (f : Nat) : List Nat := (List.range (roomWords v1)).map (frWord f)

def crcOk (v1 : Bool) (f : Nat) : Bool := decide (crc32 (crcLen v1) (f % 2 ^ crcLen v1) = f / 2 ^ crcLen v1 % 2 ^ 32)

/-- An ALIGN word (R383). -/
def alignWord (lane ver cnt : Nat) : Nat := 0x96C35A0F + lane * 2 ^ 32 + ver * 2 ^ 37 + cnt % 256 * 2 ^ 40 + 0xF0A5 * 2 ^ 48

/-- An ALIGN frame: the word of each lane. -/
def alignFrame (lanes ver cnt : Nat) : Nat := packWords ((List.range lanes).map fun l => alignWord l ver cnt)

/-- Lane 0 carries an ALIGN word. -/
def isAlign (f : Nat) : Bool := decide (f % 2 ^ 32 = 0x96C35A0F ∧ bits f 63 48 = 0xF0A5)

/-! ### Port states (R382, R397) -/

def eABSENT : Nat := 0
def eCLOCK : Nat := 1
def eSLIP : Nat := 2
def eDESKEW : Nat := 3
def eNEG : Nat := 4
def eACTIVE : Nat := 5
def eDEGRADED : Nat := 6

def State.elvState (s : State) (p : Nat) : Nat := s.rd (R.elvStatus_state p)

/-- R397 holds the port in ABSENT with its transmitters idle. Ports train from PLL lock on during a wake (R501). -/
def State.portHeld (s : State) (p : Nat) : Bool :=
  !s.awake || s.svc.entry || (s.isSleep && decide (s.rd R.timeStatus_pll_lock = 0)) || !s.svc.firstLoad || decide (s.ard (R.elvCtl_en p) = 0)

def State.elvPaused (s : State) (p : Nat) : Bool := decide (s.rd (R.elvStatus_paused p) = 1)

/-- Frames that the replay buffer holds at most (R388, R390). -/
def bufMax (v1 : Bool) : Nat := if v1 then 1000 else 2000

/-- The highest version offered: 0 is treated as 1 (R399). -/
def State.verMax (s : State) (p : Nat) : Nat := max 1 (s.ard (R.elvCtl_ver_max p))

/-! ### Packets of a frame (R377) -/

/-- Packets taken from the head of a queue while they fit: their words, the room left, the rest. -/
def takeFit : Nat → List Pkt → List Nat × Nat × List Pkt
  | room, [] => ([], room, [])
  | room, x :: xs =>
    if x.ws.length + 1 ≤ room then
      let r := takeFit (room - (x.ws.length + 1)) xs
      (x.hdr :: x.ws ++ r.1, r.2)
    else ([], room, x :: xs)

/-- The probe at the head of its queue: a request takes its departure, a reply carries t3 − t2 (R343, R378). -/
def State.sendProbes (s : State) (p room slot : Nat) : List Nat × Nat × State :=
  match (s.port p).probeq with
  | [] => ([], room, s)
  | x :: xs =>
    if room < 2 then ([], room, s)
    else
      let d := s.draw
      let at' := 256 * slot - d.1 % 256
      let s := d.2
      if x.hdr.testBit 8 then
        ([x.hdr, (at' + (2 ^ 40 - x.arr % 2 ^ 40)) % 2 ^ 40], room - 2, s.setPort p { s.port p with probeq := xs })
      else ([x.hdr, 0], room - 2, s.setPort p { s.port p with probeq := xs, t1 := some at' })

/-- The words of a launch entry in the frame with this slot time (R409, R410). -/
def lqWords (x : LqEnt) (slot : Nat) : List Nat :=
  let ws :=
    if x.own then [slot % 2 ^ 56 * 2 ^ 8, slot / 2 ^ 56 % 2 ^ 16 , x.ws.getD 2 0]
    else
      match x.fwd with
      | some c => [x.ws.getD 0 0, x.ws.getD 1 0 % 2 ^ 16 + (c + 256 * (slot : Int)).toNat % 2 ^ 48 * 2 ^ 16, x.ws.getD 2 0]
      | none => x.ws
  x.hdr :: ws

/-- Launch entries in order of L, equal ones as queued. -/
def insertLq (x : LqEnt) : List LqEnt → List LqEnt
  | [] => [x]
  | y :: ys => if diff40 x.launch y.launch < 0 then x :: y :: ys else y :: insertLq x ys

/-- Entries placed while they fit: words, room, those left. -/
def placeLq (slot : Nat) : Nat → List LqEnt → List Nat × Nat × List LqEnt
  | room, [] => ([], room, [])
  | room, x :: xs =>
    if x.ws.length + 1 ≤ room then
      let r := placeLq slot (room - (x.ws.length + 1)) xs
      (lqWords x slot ++ r.1, r.2)
    else
      let r := placeLq slot room xs
      (r.1, r.2.1, x :: r.2.2)

def State.setLq (s : State) (p : Nat) (l : List LqEnt) : State :=
  (s.setPort p { s.port p with lq := l }).wr (R.elvStatus_lq_count p) l.length

/-- Launch entries dropped late (R395). -/
def State.dropLate (s : State) (p k : Nat) : State :=
  if k = 0 then s else (s.setF (R.elvFlags_frame_late p)).wr (R.elvLate_late_count p) (s.rd (R.elvLate_late_count p) + k)

/-- The entry is due in a slot that was evaluated 128 ticks before it (R394). -/
def LqEnt.due (x : LqEnt) (slot : Nat) : Bool := due40 x.launch slot && decide (x.at' + 128 ≤ slot)

/-- A slot in an outage: entries due in it are late (R395). -/
def State.outageSlot (s : State) (p slot : Nat) : State :=
  s.setPort p { s.port p with lq := (s.port p).lq.map fun x => if x.due slot then { x with late := true } else x }

/-- The due launch entries of a slot that takes new content (R394, R395). -/
def State.sendLq (s : State) (p room slot : Nat) : List Nat × Nat × State :=
  let l := (s.port p).lq
  let gone := (l.filter fun x => x.late && !x.lateOk).length
  let s := s.dropLate p gone
  let l := l.filter fun x => !(x.late && !x.lateOk)
  let late := l.filter (·.late)
  let due := ((l.filter fun x => !x.late && x.due slot).foldl (fun acc x => insertLq x acc) [])
  let rest := l.filter fun x => !x.late && !x.due slot
  let s := if late = [] then s else s.setF (R.elvFlags_late_sent p)
  let r := placeLq slot room (late ++ due)
  let s := if r.2.2 = [] then s else s.setF (R.elvFlags_lq_slip p)
  (r.1, r.2.1, s.setLq p (r.2.2 ++ rest))

/-- A word that stays in its queue: a VERDICT of this Hive's own while it is in Amber (R213; DESIGN CHOICE, log 64). -/
def State.heldBack (s : State) (w : Nat) : Bool := s.isAmber && decide (wordKind w = 1 ∧ tagDev (wordTag w) = s.myId)

/-- The verdict words of a frame: the sub-slot and up to `room` in the payload (R227). -/
def State.sendVerdicts (s : State) (p room : Nat) : Nat × List Nat × State :=
  let l := (s.port p).vq
  match l.filter fun x => !s.heldBack x.2 with
  | [] => (0, [], s)
  | x :: xs => (x.2, (xs.take room).map (·.2), s.setPort p { s.port p with vq := (l.filter fun y => s.heldBack y.2) ++ xs.drop room })

/-- A new DATA frame: sub-slot, verdict words, packets. -/
def State.fillFrame (s : State) (p slot : Nat) : Nat × Nat × List Nat × State :=
  let v1 := (s.port p).v1
  let v := s.sendVerdicts p (if v1 then 0 else 14)
  let room := roomWords v1 - v.2.1.length
  let a := v.2.2.sendProbes p room slot
  let b := a.2.2.sendLq p a.2.1 slot
  let s := b.2.2
  let c := takeFit b.2.1 (s.port p).outq
  let d := takeFit c.2.1 (s.port p).cplq
  let e := takeFit d.2.1 (s.port p).memq
  (v.1, v.2.1.length, v.2.1 ++ a.1 ++ b.1 ++ c.1 ++ d.1 ++ e.1,
    s.setPort p { s.port p with outq := c.2.2, cplq := d.2.2, memq := e.2.2 })

/-! ### Sending (R377, R388 to R391) -/

/-- A body goes out scrambled with the receiver's `ack` and `nak`. -/
def State.emit (s : State) (p body : Nat) : State :=
  let x := s.port p
  let f := scramble x.v1 (sealFrame x.v1 body x.ack x.nak) x.txScr
  s.setPort p { x with wire := f.1, txScr := f.2 }

/-- A `ctl` frame: the LINK packet of R391, or nothing. -/
def State.sendCtl (s : State) (p : Nat) : State :=
  s.emit p (frameBody 0 1 (s.port p).seq 0 0 (s.port p).link.toList)

/-- An ALIGN frame goes out unscrambled; in a pause the scramblers advance. -/
def State.sendAlign (s : State) (p : Nat) : State :=
  let x := s.port p
  let lanes := if x.v1 then 12 else if s.verMax p = 3 then 18 else 16
  s.setPort p { x with
    wire := alignFrame lanes (s.verMax p) x.alignN, alignN := (x.alignN + 1) % 256
    txScr := if 5 ≤ s.elvState p then (scramble x.v1 0 x.txScr).2 else x.txScr }

/-- A new frame takes the next `seq` and stays in the replay buffer. -/
def State.sendNew (s : State) (p slot : Nat) : State :=
  let r := s.fillFrame p slot
  let s := r.2.2.2
  let seq := ((s.port p).seq + 1) % 4096
  let body := frameBody 0 0 seq r.2.1 r.1 r.2.2.1
  let s := s.setPort p { s.port p with seq := seq, buf := (s.port p).buf ++ [(seq, body)] }
  s.emit p body

/-- The word of a NEG frame (R385). -/
def State.negWord (s : State) (p : Nat) (ready : Bool) : Nat :=
  s.verMax p + 1 * 2 ^ 3 + (s.port p).good % 2 ^ 18 * 2 ^ 8 + s.myId * 2 ^ 26 + (if ready then 2 ^ 34 else 0)

def negVerMax (w : Nat) : Nat := w % 8
def negVerMin (w : Nat) : Nat := bits w 5 3
def negKind (w : Nat) : Nat := bits w 7 6
def negGood (w : Nat) : Nat := bits w 25 8
def negDev (w : Nat) : Nat := bits w 33 26
def negReady (w : Nat) : Bool := w.testBit 34

/-- `ready` goes out once a valid NEG of the partner is held and agreed. -/
def State.sendNeg (s : State) (p : Nat) : State :=
  let x := s.port p
  let ready := x.negIn.isSome
  let f := sealFrame x.v1 (frameBody 2 0 0 0 0 [s.negWord p ready]) 0 false
  s.setPort p { x with wire := f, negOut := x.negOut || ready }

/-- FRAME_SEND: the frame of one slot. -/
def State.frameSend (s : State) (p slot : Nat) : State :=
  let x := s.port p
  let st := s.elvState p
  if s.portHeld p then s.outageSlot p slot
  else if st < eNEG then (s.outageSlot p slot).sendAlign p
  else if st = eNEG then (s.outageSlot p slot).sendNeg p
  else if s.elvPaused p then (if x.txAlign then (s.outageSlot p slot).sendAlign p else (s.outageSlot p slot).sendCtl p)
  else
    match x.resend with
    | b :: bs => ((s.outageSlot p slot).setPort p { (s.outageSlot p slot).port p with resend := bs }).emit p b.2
    | [] => if bufMax x.v1 ≤ x.buf.length then (s.outageSlot p slot).sendCtl p else s.sendNew p slot

/-- Five times the length of a frame in ticks (R371). -/
def slotFifths (v1 : Bool) : Nat := if v1 then 512 else 256

/-- The bounds of a slot's instant where the slot time is the present Dial value; none where no slot has this time. The first frame
may begin anywhere within its tick (R68, R394). -/
def State.slotHere (s : State) (p : Nat) : Option (Nat × Nat) :=
  let x := 5 * s.dial
  match (s.port p).grid with
  | none => some (x - 4, x)
  | some (lo, hi) =>
    let k := (x - lo) / slotFifths (s.port p).v1 * slotFifths (s.port p).v1
    if lo < x ∧ k ≠ 0 ∧ x ≤ hi + k + 4 then some (max (lo + k) (x - 4), min (hi + k) x) else none

/-- FRAME_SEND: one frame where the present Dial value is a slot time. -/
def execFrameSend (t port : Nat) (s : State) : Host.Outcome State Fault Refusal :=
  let s := s.at t
  match s.slotHere port with
  | none => .next s
  | some g => if s.awake then .next ((s.setPort port { s.port port with grid := some g }).frameSend port s.dial) else .next s

/-! ### The host's launch queue and mailbox (R394, R396, R399, R400) -/

def State.elvCode (s : State) (p code : Nat) : State := s.wr (R.elvCmd_result p) code

def State.lqPush (s : State) (p : Nat) : State :=
  let len := s.rd (R.elvLqCfg_lq_len p)
  if 64 ≤ (s.port p).lq.length then s.elvCode p rBUSY
  else if len = 0 ∨ 8 < len then s.elvCode p rRANGE
  else
    let word := fun i => s.rd (R.elvLqD_lq_data p (2 * i)) + s.rd (R.elvLqD_lq_data p (2 * i + 1)) * 2 ^ 32
    let x : LqEnt :=
      { hdr := 2 + len * 16, ws := (List.range len).map word
        launch := s.rd (R.elvLqTLo_lq_t_lo p) + s.rd (R.elvLqCfg_lq_t_hi p) * 2 ^ 32
        lateOk := decide (s.rd (R.elvLqCfg_late_ok p) = 1), late := false, own := false, fwd := none, at' := s.dial }
    (s.setLq p ((s.port p).lq ++ [x])).elvCode p rOK

def execLqPush (t port : Nat) (s : State) : Host.Outcome State Fault Refusal :=
  let s := s.at t
  if s.awake then .next (s.hostCmd (0x200000 + port * 0x1000 + 4) fun s => s.lqPush port) else .next s

/-- The mailbox registers show the oldest packet. -/
def State.showMbox (s : State) (p : Nat) : State :=
  let l := (s.port p).mbox
  let s := s.wr (R.elvStatus_rx_count p) l.length
  match l with
  | [] => s.wr (R.elvRxInfo_rx_valid p) 0
  | x :: _ =>
    let s := (s.wr (R.elvRxInfo_rx_valid p) 1).wr (R.elvRxInfo_rx_len p) x.ws.length
    let s := (s.wr (R.elvRxTLo_rx_t_lo p) (x.arr / 256 % 2 ^ 32)).wr (R.elvRxInfo_rx_t_hi p) (x.arr / 256 / 2 ^ 32 % 256)
    (List.range 16).foldl (fun s i => s.wr (R.elvRxD_rx_data p i) (x.ws.getD (i / 2) 0 / (if i % 2 = 0 then 1 else 2 ^ 32) % 2 ^ 32)) s

def State.rxPop (s : State) (p : Nat) : State :=
  match (s.port p).mbox with
  | [] => s.elvCode p rSTATE
  | _ :: l => ((s.setPort p { s.port p with mbox := l }).showMbox p).elvCode p rOK

def execRxPop (t port : Nat) (s : State) : Host.Outcome State Fault Refusal :=
  let s := s.at t
  if s.awake then .next (s.hostCmd (0x200000 + port * 0x1000 + 4) fun s => s.rxPop port) else .next s

/-- USER: a received USER packet enters the mailbox. -/
def State.userPkt (s : State) (p : Nat) (x : Pkt) : State :=
  if 16 ≤ (s.port p).mbox.length then s.setF (R.elvFlags_rx_drop p)
  else ((s.setPort p { s.port p with mbox := (s.port p).mbox ++ [x] }).showMbox p).linkEvent p

def execUser (t port : Nat) (s : State) : Host.Outcome State Fault Refusal :=
  let s := s.at t
  match s.takePkt port fun x => decide (x.ptype = 2) with
  | none => .next s
  | some (x, s) => if s.awake then .next (s.userPkt port x) else .next s

/-! ### Delay probes (R343) -/

/-- A probe is due: 64 of them one after the other, then one a millisecond. -/
def State.probeDue (s : State) (p : Nat) : Bool :=
  let x := s.port p
  s.neighbourUp p && x.t1.isNone && !(x.probeq.any fun k => !k.hdr.testBit 8) && (decide (x.probed < 64) || decide (x.probeAt ≤ s.dial))

def execProbeExchange (t port : Nat) (s : State) : Host.Outcome State Fault Refusal :=
  let s := s.at t
  let x := s.port port
  if s.probeDue port then
    .next (s.setPort port { x with probeq := x.probeq ++ [⟨0x14, [0], 0⟩], probeAt := s.dial + ticksPerMs })
  else .next s

/-- The mean of the last 64 results. -/
def State.showDelay (s : State) (p : Nat) : State :=
  let l := (s.port p).delays
  if l.length < 64 then s
  else
    let d := (crnd (l.foldl (· + ·) 0) 7).toNat
    let s := (s.wr (R.stpLink_delay p) (min d (2 ^ 24 - 1))).wr (R.stpLink_ld_valid p) 1
    if 65536 < d then (s.setF (R.stpLink_link_long p)).linkEvent p else s

/-- PROBE: a request is answered, a reply ends an exchange. -/
def State.probePkt (s : State) (p : Nat) (x : Pkt) : State :=
  if x.hdr.testBit 8 then
    match (s.port p).t1 with
    | none => s
    | some t1 =>
      let twice : Int := ((x.arr : Int) - t1) - (x.ws.getD 0 0 % 2 ^ 40 : Nat)
      let y := s.port p
      (s.setPort p { y with t1 := none, delays := (twice :: y.delays).take 64, probed := y.probed + 1 }).showDelay p
  else s.setPort p { s.port p with probeq := (s.port p).probeq ++ [⟨0x114, [], x.arr⟩] }

def execProbe (t port : Nat) (s : State) : Host.Outcome State Fault Refusal :=
  let s := s.at t
  match s.takePkt port fun x => decide (x.ptype = 4) with
  | none => .next s
  | some (x, s) => if s.neighbourUp port then .next (s.probePkt port x) else .next s

end Sys2Proof.Machine
end

