-- ==== Sys2Proof/Machine/Elvent.lean ====
section
/-! DEFINITION. Elvent ports: training, failures, lane loss and spares, leaving ACTIVE, receiving frames (R376, R378, R380 to
R387, R389, R391 to R393, R395, R397). -/

namespace Sys2Proof.Machine

/-! ### Leaving ACTIVE and DEGRADED (R393), entering ABSENT and CLOCK -/

def State.setElv (s : State) (p v : Nat) : State := s.wr (R.elvStatus_state p) v

/-- The port leaves ACTIVE or DEGRADED for state `v`. -/
def State.leaveActive (s : State) (p v : Nat) : State :=
  let x := s.port p
  let lost := x.buf.length
  let s := if lost = 0 then s else (s.setF (R.elvFlags_frame_lost p)).wr (R.elvLost_lost_count p) (s.rd (R.elvLost_lost_count p) + lost)
  let s := s.setPort p { x with
    buf := [], resend := [], resendAck := none, vq := [], vin := [], link := none, lost := [], txAlign := false, nak := false, crcRun := 0,
    t1 := none, probeq := [] }
  let s := (s.wr (R.elvStatus_paused p) 0).setElv p v
  (s.dropAnswers p).isolate

/-- The port enters ABSENT: its launch queue is emptied, each entry dropped (R395). -/
def State.enterAbsent (s : State) (p : Nat) : State :=
  if s.elvState p = eABSENT then s
  else
    let s := if s.portUp p then s.leaveActive p eABSENT else s.setElv p eABSENT
    let s := s.dropLate p (s.port p).lq.length
    let s := s.setLq p []
    let x := s.port p
    s.setPort p { x with absentAt := s.dial, everLeft := true, v1 := false, grid := if x.v1 then none else x.grid, negIn := none, negOut := false }

/-- The port enters CLOCK: equalisation codes take effect, no spare is in use. -/
def State.toClock (s : State) (p : Nat) : State :=
  let s := (((s.wr (R.elvMap_tx_sub0 p) 31).wr (R.elvMap_tx_sub1 p) 31).wr (R.elvMap_rx_sub0 p) 31).wr (R.elvMap_rx_sub1 p) 31
  let x := { s.port p with
    spare := 0, negIn := none, negOut := false
    eqTx := (List.range 19).map fun l => (s.ard (R.elvTxEq_swing p l), s.ard (R.elvTxEq_deemph p l))
    eqRx := (List.range 18).map fun l => s.ard (R.elvRxEq_ctle p l) }
  (s.setPort p x).setElv p eCLOCK

/-- The port leaves ACTIVE or DEGRADED for CLOCK (R392): the time to train runs from here. -/
def State.backToClock (s : State) (p : Nat) : State :=
  let s := if s.portUp p then (s.leaveActive p eCLOCK).setPort p { (s.leaveActive p eCLOCK).port p with leftAt := s.dial } else s
  s.toClock p

/-- Training fails (R386). -/
def State.trainFail (s : State) (p : Nat) (f : Fld) : State := ((s.setF f).linkEvent p).enterAbsent p

/-! ### Training (R382 to R387) -/

/-- FORWARDED_CLOCK_STEADY. -/
def execForwardedClockSteady (t port : Nat) (s : State) : Host.Outcome State Fault Refusal :=
  let s := s.at t
  if s.elvState port = eABSENT ∧ s.portHeld port = false ∧
      ((s.port port).everLeft = false ∨ (s.port port).absentAt + 100 * ticksPerMs ≤ s.dial) then
    .next ((s.setPort port { s.port port with leftAt := s.dial }).toClock port)
  else .next s

/-- LANES_LOCKED: `slow` is a forwarded clock of 4 GHz; `lat` holds the pairs of the port's latency measurement (R460). -/
def execLanesLocked (t port : Nat) (slow : Bool) (lat : List (List Int × List Int)) (s : State) : Host.Outcome State Fault Refusal :=
  let s := s.at t
  if s.elvState port = eCLOCK ∧ s.portHeld port = false then
    let s := s.measurePairs (545 + port) 0 lat
    let x := s.port port
    let s := s.setPort port { x with v1 := x.v1 || slow, grid := if slow && !x.v1 then none else x.grid, alignN := 0 }
    .next ((s.wr (R.elvAlign_align_ok port) 0).setElv port eSLIP)
  else .next s

/-- Lanes that a direction needs, of those good. -/
def lanesEnough (v1 : Bool) (ver good : Nat) : Bool :=
  if v1 then (List.range 12).all fun l => good.testBit l
  else if ver = 3 then decide (16 ≤ ((List.range 18).filter fun l => good.testBit l).length)
  else (List.range 16).all fun l => good.testBit l

/-- The version that the training expects before it is negotiated. -/
def State.verForm (s : State) (p : Nat) : Nat := if (s.port p).v1 then 1 else s.verMax p

/-- The search has ended on every lane, or in a pause on the spares asked for. -/
def State.slipDone (s : State) (p : Nat) (slips : List Nat) : State :=
  let inPause := decide (5 ≤ s.elvState p)
  let lanes := if inPause then (s.port p).lost.map (·.2) else List.range 18
  let s := lanes.foldl
    (fun s l =>
      let k := slips.getD l 64
      let s := s.wr (R.elvRxEq_slips p l) (min k 63)
      if k < 64 then s.setBit (R.elvAlign_align_ok p) l else s.clrBit (R.elvAlign_align_ok p) l) s
  if inPause then s
  else if lanesEnough (s.port p).v1 (s.verForm p) (s.rd (R.elvAlign_align_ok p)) then s.setElv p eDESKEW
  else s.trainFail p (R.elvFlags_lane_fail p)

def execSlipSearchDone (t port : Nat) (slips : List Nat) (s : State) : Host.Outcome State Fault Refusal :=
  let s := s.at t
  if (s.elvState port = eSLIP ∧ s.ard (R.elvCtl_manual port) = 0) ∨ (5 ≤ s.elvState port ∧ (s.port port).lost ≠ []) then
    .next (s.slipDone port slips)
  else .next s

/-- NEGOTIATE begins. -/
def State.toNeg (s : State) (p good : Nat) : State := (s.setPort p { s.port p with good := good, negIn := none, negOut := false }).setElv p eNEG

/-- The spare takes its logical lane: RESUME goes out, and `nak` asks for the replay (R391, step 4). -/
def State.remapped (s : State) (p : Nat) : State :=
  let s := (s.port p).lost.foldl
    (fun s e => if e.2 = 16 then s.wr (R.elvMap_rx_sub0 p) e.1 else s.wr (R.elvMap_rx_sub1 p) e.1) s
  let s := (s.setF (R.elvFlags_remap p)).lifeAdd 4 1 1
  s.setPort p { s.port p with lost := [], link := some (1 + 2 ^ 8), nak := true }

/-- The delays that a deskew found for some lanes stand in `dsk` (R384, R398). -/
def State.setDsk (s : State) (p : Nat) (lanes words : List Nat) : State :=
  lanes.foldl
    (fun s l =>
      let v := words.getD l 0
      (s.setPort p { s.port p with dsk := (List.range 18).map fun i => if i = l then v else (s.port p).dsk.getD i 0 }).both
        (R.elvRxEq_dsk p l) v) s

/-- Deskew completes: the words of delay of each lane. -/
def State.deskewDone (s : State) (p : Nat) (words : List Nat) : State :=
  if 5 ≤ s.elvState p then
    if (s.port p).lost.all fun e => (s.rd (R.elvAlign_align_ok p)).testBit e.2 && decide (words.getD e.2 8 ≤ 7) then
      (s.setDsk p ((s.port p).lost.map (·.2)) words).remapped p
    else s
  else
    let ok := s.rd (R.elvAlign_align_ok p)
    let lanes := (List.range 18).filter fun l => ok.testBit l && decide (words.getD l 8 ≤ 7)
    let good := lanes.foldl (fun m l => m + 2 ^ l) 0
    let s := s.setDsk p lanes words
    if lanesEnough (s.port p).v1 (s.verForm p) good then s.toNeg p good else s.trainFail p (R.elvFlags_lane_fail p)

def execDeskewDone (t port : Nat) (words : List Nat) (s : State) : Host.Outcome State Fault Refusal :=
  let s := s.at t
  if (s.elvState port = eDESKEW ∧ s.ard (R.elvCtl_manual port) = 0) ∨ (5 ≤ s.elvState port ∧ (s.port port).lost ≠ []) then
    .next (s.deskewDone port words)
  else .next s

/-- LANE_SLIP: `lane_slip` of a manual port, with the result of the 8-word check (R387). -/
def State.laneSlip (s : State) (p : Nat) (aligned : Bool) : State :=
  let l := s.rd (R.elvCmd_slip_lane p)
  if s.ard (R.elvCtl_manual p) = 0 ∨ (s.elvState p ≠ eSLIP ∧ s.elvState p ≠ eDESKEW) then s.elvCode p rSTATE
  else if 17 < l then s.elvCode p rRANGE
  else
    let s := s.wr (R.elvRxEq_slips p l) ((s.rd (R.elvRxEq_slips p l) + 1) % 64)
    let s := if aligned then s.setBit (R.elvAlign_align_ok p) l else s.clrBit (R.elvAlign_align_ok p) l
    s.elvCode p rOK

/-- An E command bit is ignored at the basic level. -/
def execLaneSlip (t port : Nat) (aligned : Bool) (s : State) : Host.Outcome State Fault Refusal :=
  let s := s.at t
  if s.awake then .next (s.hostCmd (0x200000 + port * 0x1000 + 4) fun s => if s.rd (R.elvCtl_level port) = 1 then s.laneSlip port aligned else s) else .next s

/-- NEG_GO. -/
def State.negGo (s : State) (p : Nat) : State :=
  if s.ard (R.elvCtl_manual p) = 0 ∨ (s.elvState p ≠ eSLIP ∧ s.elvState p ≠ eDESKEW) then s.elvCode p rSTATE
  else ((s.setPort p { s.port p with leftAt := s.dial }).toNeg p (s.rd (R.elvAlign_align_ok p))).elvCode p rOK

def execNegGo (t port : Nat) (s : State) : Host.Outcome State Fault Refusal :=
  let s := s.at t
  if s.awake then .next (s.hostCmd (0x200000 + port * 0x1000 + 4) fun s => if s.rd (R.elvCtl_level port) = 1 then s.negGo port else s) else .next s

/-- The version that two NEG words agree on (R385). -/
def State.agreed (s : State) (p w : Nat) : Option Nat :=
  let v := if (s.port p).v1 then 1 else min (s.verMax p) (negVerMax w)
  if v = 0 ∨ v < negVerMin w ∨ ((s.port p).v1 = false ∧ v < 2) then none else some v

/-- The partner's `kind` matches the role (R386). -/
def kindOk (role kind : Nat) : Bool := decide (role = kind) && decide (role ≤ 2)

/-- A valid NEG frame: failures of R386, or the partner's word is held. -/
def State.takeNeg (s : State) (p w : Nat) : State :=
  let s := (s.wr (R.elvStatus_pkind p) (negKind w)).wr (R.elvStatus_pdev p) (negDev w)
  if kindOk (s.role p) (negKind w) = false then s.trainFail p (R.elvFlags_role_err p)
  else
    match s.agreed p w with
    | none => s.trainFail p (R.elvFlags_ver_err p)
    | some v =>
      if lanesEnough (s.port p).v1 v (s.port p).good ∧ lanesEnough (s.port p).v1 v (negGood w) then
        (s.setPort p { s.port p with negIn := some w }).wr (R.elvStatus_ver p) v
      else s.trainFail p (R.elvFlags_lane_fail p)

/-- The lanes below 16 that a direction has failed, ascending: they move to spares 16 and 17 that are good. -/
def spareMap (good : Nat) : Nat × Nat :=
  let bad := (List.range 16).filter fun l => !good.testBit l
  let sp := [16, 17].filter fun l => good.testBit l
  let at' := fun k => match (sp.idxOf? k) with | some i => bad.getD i 31 | none => 31
  (at' 16, at' 17)

/-- TRAINING_ACTIVE. -/
def State.goActive (s : State) (p w : Nat) : State :=
  let x := s.port p
  let rx := if x.v1 then (31, 31) else spareMap x.good
  let tx := if x.v1 then (31, 31) else spareMap (negGood w)
  let s := (((s.wr (R.elvMap_rx_sub0 p) rx.1).wr (R.elvMap_rx_sub1 p) rx.2).wr (R.elvMap_tx_sub0 p) tx.1).wr (R.elvMap_tx_sub1 p) tx.2
  let whole := decide (rx = (31, 31) ∧ tx = (31, 31))
  let s := s.setPort p { x with
    seq := 4095, ack := 4095, nak := false, buf := [], resend := [], resendAck := none, crcRun := 0, txScr := scrSeeds x.v1,
    rxScr := scrSeeds x.v1, link := none, lost := [], txAlign := false, t1 := none, probeq := [], delays := [], probed := 0,
    probeAt := s.dial, spare := ((List.range 2).filter fun i => !x.good.testBit (16 + i)).foldl (fun m i => m + 2 ^ i) 0 }
  let s := (s.wr (R.stpLink_ld_valid p) 0).setElv p (if whole then eACTIVE else eDEGRADED)
  let s := s.requery p
  if s.role p = 0 then s.askOrphans else s

def execTrainingActive (t port : Nat) (s : State) : Host.Outcome State Fault Refusal :=
  let s := s.at t
  match (s.port port).negIn with
  | some w => if s.elvState port = eNEG ∧ (s.port port).negOut ∧ negReady w then .next (s.goActive port w) else .next s
  | none => .next s

/-- TRAIN_TO: 8 ms after leaving ABSENT, or after `neg_go`. -/
def execTrainTo (t port : Nat) (s : State) : Host.Outcome State Fault Refusal :=
  let s := s.at t
  let st := s.elvState port
  let yours := decide (s.ard (R.elvCtl_manual port) = 1) && decide (st = eSLIP ∨ st = eDESKEW)
  if eCLOCK ≤ st ∧ st ≤ eNEG ∧ yours = false ∧ (s.port port).leftAt + 8 * ticksPerMs ≤ s.dial then
    .next (s.trainFail port (R.elvFlags_train_to port))
  else .next s

/-- `retrain`. -/
def State.retrain (s : State) (p : Nat) : State :=
  if s.elvState p = eABSENT then s.elvCode p rSTATE else (s.backToClock p).elvCode p rOK

def execRetrain (t port : Nat) (s : State) : Host.Outcome State Fault Refusal :=
  let s := s.at t
  if s.awake then .next (s.hostCmd (0x200000 + port * 0x1000 + 4) fun s => s.retrain port) else .next s

/-! ### Detectors, spares and the pause (R381, R391, R392) -/

/-- The logical lane that a physical receive lane carries. -/
def State.rxLogical (s : State) (p lane : Nat) : Option Nat :=
  let a := s.rd (R.elvMap_rx_sub0 p)
  let b := s.rd (R.elvMap_rx_sub1 p)
  if lane = 16 then (if a = 31 then none else some a)
  else if lane = 17 then (if b = 31 then none else some b)
  else if dataLanes (s.port p).v1 ≤ lane ∨ a = lane ∨ b = lane then none
  else some lane

/-- The lower spare that carries nothing and has not failed. -/
def State.freeSpare (s : State) (p : Nat) : Option Nat :=
  [16, 17].find? fun l =>
    !(s.port p).spare.testBit (l - 16) && (s.rxLogical p l).isNone && !((s.port p).lost.any fun e => decide (e.2 = l))

/-- A LINK REMAP packet. -/
def remapHdr (i spare : Nat) : Nat := 1 + i * 2 ^ 10 + (spare - 16) * 2 ^ 15

/-- A data lane in use is lost: the pause with the next free spare, or CLOCK. -/
def State.loseLane (s : State) (p lane i : Nat) : State :=
  let s := if 16 ≤ lane then
      (s.setPort p { s.port p with spare := (s.port p).spare ||| 2 ^ (lane - 16) }).wr
        (if lane = 16 then R.elvMap_rx_sub0 p else R.elvMap_rx_sub1 p) 31
    else s
  match s.freeSpare p with
  | none => s.backToClock p
  | some sp =>
    if s.rd (R.elvStatus_ver p) ≠ 3 then s.backToClock p
    else
      let s := if s.elvPaused p then s else (s.wr (R.elvStatus_paused p) 1).setPort p { s.port p with pauseAt := s.dial }
      s.setPort p { s.port p with lost := (s.port p).lost ++ [(i, sp)], link := some (remapHdr i sp) }

/-- A spare that a remap under way was to use is lost as well. -/
def State.loseWaiting (s : State) (p lane : Nat) : State :=
  match (s.port p).lost.find? fun e => decide (e.2 = lane) with
  | none => s
  | some e =>
    let s := s.setPort p { s.port p with lost := (s.port p).lost.filter fun x => decide (x.2 ≠ lane) }
    s.loseLane p lane e.1

/-- LANE_LOSS: LOS or LOL on a receive lane. -/
def State.laneLoss (s : State) (p lane : Nat) (los : Bool) : State :=
  let s := if los then (s.setBit (R.elvLos_los p) lane).setPort p { s.port p with noSig := (s.port p).noSig ||| 2 ^ lane }
    else s.setBit (R.elvLol_lol p) lane
  let s := s.linkEvent p
  if s.portUp p then
    if lane = 18 then s.backToClock p
    else
      match s.rxLogical p lane with
      | some i => if (s.port p).lost.any fun e => decide (e.1 = i) then s else s.loseLane p lane i
      | none => s.loseWaiting p lane
  else if lane = 18 ∧ eCLOCK ≤ s.elvState p then s.trainFail p (R.elvFlags_train_to p)
  else s

def execLaneLoss (t port lane : Nat) (los : Bool) (s : State) : Host.Outcome State Fault Refusal :=
  let s := s.at t
  if s.portHeld port then .next s else .next (s.laneLoss port lane los)

/-- LOS_CLEAR: the lane's signal is back. -/
def execLosClear (t port lane : Nat) (s : State) : Host.Outcome State Fault Refusal :=
  let s := s.at t
  let x := s.port port
  if x.noSig.testBit lane then .next (s.setPort port { x with noSig := x.noSig - 2 ^ lane }) else .next s

/-- LINK_REMAP: the partner's receiver has lost a lane of ours (R391, step 3). -/
def State.takeRemap (s : State) (p hdr : Nat) : State :=
  let i := bits hdr 14 10
  let second := hdr.testBit 15
  let f := if second then R.elvMap_tx_sub1 p else R.elvMap_tx_sub0 p
  let other := if second then R.elvMap_tx_sub0 p else R.elvMap_tx_sub1 p
  if s.rd f = i then s
  else
    let s := if s.rd other = i then s.wr other 31 else s
    let s := (s.wr f i).setF (R.elvFlags_remap p)
    let s := s.lifeAdd 4 1 1
    let s := if s.elvPaused p then s else (s.wr (R.elvStatus_paused p) 1).setPort p { s.port p with pauseAt := s.dial }
    s.setPort p { s.port p with txAlign := true }

/-- The oldest LINK packet with an `op`. -/
def linkIs (op : Nat) (x : Pkt) : Bool := decide (x.ptype = 1 ∧ bits x.hdr 9 8 = op)

def execLinkRemap (t port : Nat) (s : State) : Host.Outcome State Fault Refusal :=
  let s := s.at t
  match s.takePkt port (linkIs 0) with
  | none => .next s
  | some (x, s) => if s.portUp port then .next (s.takeRemap port x.hdr) else .next s

/-- The pause ends on this side. -/
def State.endPause (s : State) (p : Nat) : State :=
  let s := s.setPort p { s.port p with txAlign := false }
  if (s.port p).lost = [] ∧ (s.port p).link = none then
    let was := s.elvState p
    let s := (s.wr (R.elvStatus_paused p) 0).setElv p eDEGRADED
    if was = eDEGRADED then s else (s.setPort p { s.port p with probed := 0, probeAt := s.dial }).requery p
  else s

/-- LINK_RESUME. -/
def execLinkResume (t port : Nat) (s : State) : Host.Outcome State Fault Refusal :=
  let s := s.at t
  match s.takePkt port (linkIs 1) with
  | none => .next s
  | some (_, s) => if s.portUp port ∧ (s.port port).txAlign then .next (s.endPause port) else .next s

/-- PAUSE_TO: a pause of 100 µs. -/
def execPauseTo (t port : Nat) (s : State) : Host.Outcome State Fault Refusal :=
  let s := s.at t
  if s.elvPaused port ∧ (s.port port).pauseAt + 2560000 ≤ s.dial then
    .next (((s.setF (R.elvFlags_pause_to port)).linkEvent port).backToClock port)
  else .next s

/-! ### Receiving (R374 to R378, R389, R391) -/

/-- `plen` of a packet type, and the roles that take it (R378, R405, R408). -/
def pktShape (role ver ptype plen : Nat) : Bool :=
  if ptype = 1 then decide (plen = 0)
  else if ptype = 2 then decide (1 ≤ plen ∧ plen ≤ 8)
  else if ptype = 3 then decide (plen = 3 ∧ role = 0)
  else if ptype = 4 then decide (plen = 1 ∧ role = 0)
  else if ptype = 6 then decide (plen = 2 ∧ role = 0 ∧ ver = 3)
  else if ptype = 7 then decide (plen = 1) && decide (role = 1 ∨ role = 2)
  else if ptype = 8 ∨ ptype = 9 then decide (plen = 4 ∨ plen = 8 ∨ plen = 12) && decide (role = 1 ∨ role = 2)
  else if ptype = 0xA then decide (plen = 0) && decide (role = 1 ∨ role = 2)
  else if ptype = 0xB then decide (plen = 1 ∧ role = 1)
  else if ptype = 0xC then decide (plen = 0 ∧ role = 0)
  else false

/-- The packets of payload words up to a zero header word; whether a bad one ended them. -/
def parsePkts (role ver arr : Nat) : Nat → List Nat → List Pkt × Bool
  | _, [] => ([], false)
  | 0, _ :: _ => ([], false)
  | k + 1, h :: ws =>
    if h = 0 then ([], false)
    else
      let plen := bits h 7 4
      if pktShape role ver (h % 16) plen = false ∨ ws.length < plen then ([], true)
      else
        let r := parsePkts role ver arr k (ws.drop plen)
        (⟨h, ws.take plen, arr⟩ :: r.1, r.2)

/-- LINK packets repeat in every frame: one of a kind waits. -/
def addInbox (l : List Pkt) (x : Pkt) : List Pkt :=
  if x.ptype = 1 ∧ l.any (fun y => decide (y.hdr = x.hdr)) then l else l ++ [x]

/-- The content of an accepted frame. -/
def State.takeContent (s : State) (p f arr : Nat) : State :=
  let v1 := (s.port p).v1
  let ws := frWords v1 f
  let vw := (frSub f :: ws.take (frVcount f)).filter wordOk
  let s := if s.role p = 0 then vw.foldl (fun s w => s.acceptWord p w) s else s
  let r := parsePkts (s.role p) (s.rd (R.elvStatus_ver p)) arr 14 (ws.drop (frVcount f))
  let x := s.port p
  let s := s.setPort p { x with inbox := r.1.foldl addInbox x.inbox }
  if r.2 then s.setF (R.elvFlags_pkt_bad p) else s

/-- The partner's `ack` and `nak` (R388, R389). -/
def State.takeAck (s : State) (p f : Nat) : State :=
  let x := s.port p
  let a := frAck f
  let covered := fun (e : Nat × Nat) => decide ((a + 4096 - e.1) % 4096 < 2048)
  let buf := x.buf.filter fun e => !covered e
  let x := { x with buf := buf, resend := x.resend.filter fun e => !covered e }
  if frNak f = false ∨ buf = [] then s.setPort p x
  else if x.resend ≠ [] ∧ x.resendAck = some a then s.setPort p x
  else (s.setPort p { x with resend := buf, resendAck := some a }).inc (R.elvReplay_replay_count p)

/-- A frame that the CRC fails (R376, R392). -/
def State.crcFail (s : State) (p : Nat) : State :=
  let s := (s.inc (R.elvCrc_crc_count p)).lifeAdd (if p < 7 then 3 else 4) (if p < 7 then p else 0) 1
  let x := s.port p
  let s := s.setPort p { x with nak := true, crcRun := x.crcRun + 1 }
  if 32 ≤ x.crcRun + 1 ∧ x.lost = [] then ((s.setF (R.elvFlags_crc_run p)).linkEvent p).backToClock p else s

/-- The frame is invalid (R375, R376). -/
def frameBad (v1 : Bool) (f : Nat) : Bool := decide (frFtype f = 3 ∨ frVcount f = 15) || (v1 && decide (frVcount f ≠ 0))

/-- A descrambled frame with a good CRC. -/
def State.takeData (s : State) (p f arr : Nat) : State :=
  let s := s.setPort p { s.port p with crcRun := 0 }
  if frameBad (s.port p).v1 f then s.setPort p { s.port p with nak := true }
  else
    let s := if (s.port p).link = some (1 + 2 ^ 8) then (s.setPort p { s.port p with link := none }).endPause p else s
    if frFtype f ≠ 0 then s
    else if frCtl f then (s.takeAck p f).takeContent p f arr
    else if frSeq f ≠ ((s.port p).ack + 1) % 4096 then s.setPort p { s.port p with nak := true }
    else
      let s := s.setPort p { s.port p with ack := frSeq f, nak := false }
      (s.takeAck p f).takeContent p f arr

/-- FRAME_RECEIVE: a frame's bits as received. -/
def State.frameReceive (s : State) (p bits' arr : Nat) : State :=
  let x := s.port p
  let st := s.elvState p
  let f := bits' % 2 ^ (crcLen x.v1 + 32)
  if st = eNEG then
    if isAlign bits' then s
    else if crcOk x.v1 f then (if frFtype f = 2 then s.takeNeg p (frWord f 0) else s)
    else s.inc (R.elvCrc_crc_count p)
  else if eACTIVE ≤ st then
    if crcOk x.v1 f ∧ frFtype f = 2 then s
    else
      let r := scramble x.v1 f x.rxScr
      let s := s.setPort p { x with rxScr := r.2 }
      if isAlign bits' ∨ x.lost ≠ [] then s else if crcOk x.v1 r.1 then s.takeData p r.1 arr else s.crcFail p
  else s

def execFrameReceive (t port bits frac : Nat) (s : State) : Host.Outcome State Fault Refusal :=
  let s := s.at t
  if s.portHeld port then .next s else .next (s.frameReceive port bits (256 * s.dial + frac % 256))

/-! ### Service states, activation (R392, R397) -/

/-- Every port goes to ABSENT: Sleep entry. -/
def State.portsDown (s : State) : State := (List.range 8).foldl (fun s p => s.enterAbsent p) s

/-- The active values of a port have changed: `en` = 0, or a new role. -/
def State.portChange (s : State) (p roleWas : Nat) : State :=
  if s.ard (R.elvCtl_en p) = 0 then s.enterAbsent p
  else if s.role p ≠ roleWas ∧ s.portUp p then s.enterAbsent p
  else s

/-- The codes that the table in force gives a lane: swing, de-emphasis and CTLE, or the defaults (R380). -/
def State.eqCode (s : State) (p l : Nat) : Nat × Nat × Nat :=
  match s.sec.eqTab.find? fun e => decide (e.1 = 32 * p + l) with
  | some e => (bits e.2 2 0, bits e.2 6 3, bits e.2 11 8)
  | none => (5, 4, 6)

/-- The PHY window of a port at the basic level shows the codes of the table. -/
def State.showEq (s : State) (p : Nat) : State :=
  (List.range 19).foldl
    (fun s l =>
      let c := s.eqCode p l
      let s := (s.both (R.elvTxEq_swing p l) c.1).both (R.elvTxEq_deemph p l) c.2.1
      if l < 18 then s.both (R.elvRxEq_ctle p l) c.2.2 else s) s

/-- The E fields of a port at the basic level: `dsk` is what the last deskew found (R398). -/
def State.deriveElv (s : State) (p : Nat) : State :=
  if s.rd (R.elvCtl_level p) = 1 then s
  else
    let s := (List.range 18).foldl (fun s l => s.both (R.elvRxEq_dsk p l) ((s.port p).dsk.getD l 0)) s
    ((s.both (R.elvCtl_ver_max p) 3).both (R.elvCtl_manual p) 0).showEq p

end Sys2Proof.Machine
end

