-- ==== Sys2Proof/Machine/LoadProof.lean ====
section
/-! DEFINITION. The loader's proofs of a program: the checks of R167 over its loaded words and over every path (R79, R133 to
R159, R164, R527, R528). -/

namespace Sys2Proof.Machine

/-- What the proofs of a program use: its words, its nano-words, and the condition sets, vectors, barriers and settings that
will hold for it. -/
structure LdEnv where
  n : Nat
  margin : Nat
  micro : List (Nat × Nat)
  nano : List Nat
  csets : List CSet
  vecs : List (Nat × Bool)
  bar : Nat
  starts : List Nat
  deriving DecidableEq, Repr

def LdEnv.word (e : LdEnv) (a : Nat) : Option Nat := (e.micro.find? fun x => decide (x.1 = a)).map (·.2)

def LdEnv.loaded (e : LdEnv) (a : Nat) : Bool := (e.word a).isSome

def LdEnv.cset (e : LdEnv) (k : Nat) : CSet := e.csets.getD k ⟨[], false, 0, 0⟩

/-- A failed check: its number and the word concerned. -/
abbrev LdFail := Nat × Nat

/-! ### Checks of single words -/

def wayCount (ways : Nat) : Nat := if ways = 0 then 1 else 2 ^ waysBits ways

/-- BRANCH or CALL. -/
def isFlow (w : Nat) : Bool := decide (mwOp w = 4 ∨ mwOp w = 5)

/-- A word that names a nano-word. -/
def namesNano (w : Nat) : Bool := decide (mwOp w = 1 ∨ mwOp w = 10 ∨ mwOp w = 11)

/-- The condition bits that a word uses. -/
def LdEnv.usedBits (e : LdEnv) (w : Nat) : List (Nat × Nat) :=
  if isFlow w ∨ (mwOp w = 1 ∧ mwWays w ≠ 0) then ((e.cset (mwCsel w)).bits.take (waysBits (mwWays w)))
  else if mwOp w = 3 ∧ 48 ≤ mwArg w then (e.cset (mwArg w - 48)).bits.take 1
  else []

/-- Check 0x02 of one word: SHOT, HALT, and WAITT and SYNC without a timeout, have SAFE = 1. -/
def needsSafe (w : Nat) : Bool :=
  decide (mwOp w = 13 ∨ mwOp w = 15) || (decide (mwOp w = 3 ∨ mwOp w = 9) && decide (mwTarget w = 0))

/-- Check 0x05 of one word. -/
def LdEnv.multiWayBad (e : LdEnv) (w : Nat) : Bool :=
  (isFlow w && decide (mwTarget w % wayCount (mwWays w) ≠ 0)) ||
    ((isFlow w || decide (mwOp w = 1)) && decide (mwWays w ≠ 0) &&
      decide (wayCount (mwWays w) ≤ (e.cset (mwCsel w)).dfltWay))

/-- The addresses that a word needs loaded. -/
def nextWords (a w : Nat) : List Nat :=
  if isFlow w then (List.range (wayCount (mwWays w))).map (mwTarget w + ·)
  else if mwOp w = 7 then [mwTarget w, a + 1]
  else if mwOp w = 6 ∨ mwOp w = 15 then []
  else [a + 1]

/-- Check 0x06 of one word. -/
def LdEnv.flowBad (e : LdEnv) (a w : Nat) : Bool :=
  ((nextWords a w).any fun x => !e.loaded x) || (namesNano w && decide (e.nano.length ≤ mwTarget w))

/-- Zero fields of ARG and TARGET, and the codes of WAIT, SETC and COMMIT, by operation (R142, R144 to R152). -/
def argBad (w : Nat) : Bool :=
  let op := mwOp w
  let arg := mwArg w
  let tgt := mwTarget w
  if op = 0 ∨ op = 6 ∨ op = 15 then decide (arg ≠ 0 ∨ tgt ≠ 0)
  else if op = 1 ∨ op = 4 ∨ op = 5 ∨ op = 11 then decide (arg ≠ 0)
  else if op = 2 then decide (arg / 16 = 1) || (decide (2 ≤ arg / 16) && decide (tgt ≠ 0))
  else if op = 7 then decide (16 ≤ arg)
  else if op = 8 then decide (arg / 16 = 1) && decide (tgt ≠ 0)
  else if op = 9 then decide (32 ≤ arg)
  else if op = 10 then decide (16 ≤ arg) || (arg.testBit 0 && arg.testBit 1)
  else if op = 12 then decide (4 ≤ arg) || decide (4096 ≤ tgt)
  else if op = 13 then decide (4 ≤ arg) || (arg.testBit 1 && !arg.testBit 0) || decide (tgt ≠ 0)
  else if op = 14 then decide (arg / 16 = 3) || (decide (arg / 16 ≠ 1) && decide (tgt ≠ 0))
  else false

/-- What no nano-word may hold: a must-be-zero field, both `jump` and `spec`, an undecoded `bias_ref` (R134, R135, R310). -/
def nanoBad (v : Nat) : Bool :=
  decide (bits v 55 54 ≠ 0 ∨ bits v 63 60 ≠ 0 ∨ bits v 127 126 ≠ 0 ∨ bits v 255 192 ≠ 0) || (nwJump v && nwSpec v) ||
    (if nwFast v then decide (32 ≤ nwBiasRef v) else decide (bits (nwBiasRef v) 14 5 ≠ 0))

/-- Fields of a nano-word that its operation does not take (R135, R143). -/
def nanoUseBad (w v : Nat) : Bool :=
  let op := mwOp w
  if op = 1 then nwPub v || decide (nwLanes v ≠ 0) || decide (nwSpec v ≠ decide (mwWays w = 1))
  else if op = 11 then nwJump v || nwSpec v
  else nwJump v || nwSpec v || nwPub v

/-- WAYS and CSEL where they must be zero (R133). -/
def waysBad (w : Nat) : Bool :=
  if isFlow w ∨ (mwOp w = 1 ∧ mwWays w = 1) then decide (mwWays w = 0) && decide (mwCsel w ≠ 0)
  else decide (mwWays w ≠ 0 ∨ mwCsel w ≠ 0)

/-- A used condition bit has an invalid test or flag (R154). -/
def testBad (b : Nat × Nat) : Bool := decide (b.2 = 7) || (decide (b.2 = 5) && decide (3 ≤ b.1 % 16))

/-- Check 0x07 of one word. -/
def LdEnv.formBad (e : LdEnv) (w : Nat) : Bool :=
  argBad w || waysBad w || (e.usedBits w).any testBad ||
    (namesNano w &&
      match e.nano[mwTarget w]? with
      | some v => nanoBad v || nanoUseBad w v
      | none => false)

/-- Check 0x09 of one word. -/
def LdEnv.barBad (e : LdEnv) (w : Nat) : Bool := decide (mwOp w = 9) && !e.bar.testBit (mwArg w % 32)

/-- A nano-word that no word names is refused by R134, R135 or R310; it is reported at word 0 (DEDUCED, log 9). -/
def LdEnv.spareBad (e : LdEnv) : Bool :=
  (List.range e.nano.length).any fun i =>
    nanoBad (e.nano.getD i 0) && !(e.micro.any fun x => namesNano x.2 && decide (mwTarget x.2 = i))

/-- The failed checks of the words and entries, apart from paths. -/
def LdEnv.wordFails (e : LdEnv) : List LdFail :=
  let at' := fun (c : Nat) (bad : Nat → Nat → Bool) => (e.micro.filter fun x => bad x.1 x.2).map fun x => (c, x.1)
  let entries := e.starts ++ (e.vecs.filter (·.2)).map (·.1)
  at' 2 (fun _ w => needsSafe w && !mwSafe w) ++ at' 5 (fun _ w => e.multiWayBad w) ++ at' 6 e.flowBad ++ at' 7 (fun _ w => e.formBad w) ++
    at' 9 (fun _ w => e.barBad w) ++
    entries.filterMap (fun a =>
      match e.word a with
      | none => some (6, a)
      | some w => if mwSafe w then none else some (2, a)) ++
    (if e.spareBad then [(7, 0)] else [])

/-! ### Paths -/

/-- What a path knows at a word: stack and handler; `slack`, the anchor less the latest time by which the step before has
completed; `held`, the anchor less the latest return of a descriptor check; the span, its journal entries, the depth at its safe
point and the stack positions kept; whether a shot is open; the counters known; the issued events, as ticks past the anchor. -/
structure LdSt where
  pc : Nat
  stack : List Nat
  handler : Option (Nat × Nat)
  taken : List Nat
  slack : Int
  held : Option Int
  span : Nat
  jour : Nat
  safeDepth : Nat
  saved : List Nat
  shot : Option Bool
  cnt : List (Option Nat)
  ev : List Int
  deriving DecidableEq, Repr

/-- The anchor moves on by at least `d`. -/
def LdSt.shift (x : LdSt) (d : Nat) : LdSt :=
  { x with
    slack := min 16384 (x.slack + d)
    held := x.held.map fun h => min 16384 (h + d)
    ev := (x.ev.map fun (k : Int) => k - (d : Int)).filter fun k => decide (-16384 < k) }

/-- A path after a start: P = A − 1,984 (R139, R528). -/
def LdSt.entry (pc : Nat) : LdSt :=
  { pc := pc, stack := [], handler := none, taken := [], slack := 1984, held := none, span := 0, jour := 0, safeDepth := 0, saved := [],
    shot := some false, cnt := List.replicate 16 none, ev := [] }

/-- A resume at a word that a path reached. -/
def LdSt.again (x : LdSt) (pc : Nat) : LdSt :=
  { x with pc := pc, taken := [], slack := 1984, held := none, span := 0, jour := 0, safeDepth := x.stack.length, saved := [], shot := none }

/-- `slack` after a released, a timed-out and a triggered wait (R139, R527). -/
def LdSt.timedOut (x : LdSt) (w : Nat) : List LdSt :=
  if mwTarget w = 0 then [] else
    let y := x.shift (1024 * mwTarget w)
    [{ y with slack := min (-32) (x.slack + 1024 * mwTarget w) }]

def LdSt.triggered (x : LdSt) : LdSt :=
  let y := x.shift 615
  { y with slack := min 352 (x.slack + 615) }

def LdSt.count (x : LdSt) (k : Nat) : Option Nat := x.cnt.getD k none

def LdSt.setCount (x : LdSt) (k : Nat) (v : Option Nat) : LdSt := { x with cnt := x.cnt.set k v, jour := x.jour + 1 }

/-- The events of a PLAY, MEAS or FRAME: for each the ticks past the anchor of its deadline, and its producer time (R76, R79). -/
def State.ldEvents (s : State) (n w v : Nat) : List (Int × Nat) :=
  let off : Int := nwOffset v
  if mwOp w = 10 then (if nwCells v = 0 then [] else [(off - 461, 64)])
  else
    let es := s.ard (R.markSetA_edges n (nwMarkSet v))
    let trim := s.ard (R.markCtl_mk_trim n)
    let edge := fun (o k : Nat) => ((edgeAt (nwOffset v) o k trim / 16 - 461, 64) : Int × Nat)
    (if nwCells v ≠ 0 ∧ nwJump v = false then [(off - 461, 1076)] else []) ++
    (if nwFast v then (if nwBias v ≠ 0 then [(off - 1024, 1076)] else [])
      else if nwBias v ≠ 0 ∨ (nwBiasRef v).testBit 15 then [(off - 1024, 64)] else []) ++
    (if nwMark v then
      (if es.testBit 0 then [edge (s.ard (R.markSetA_rise_off n (nwMarkSet v))) (s.ard (R.markSetA_rise_vern n (nwMarkSet v)))] else []) ++
        (if es.testBit 1 then [edge (s.ard (R.markSetB_fall_off n (nwMarkSet v))) (s.ard (R.markSetB_fall_vern n (nwMarkSet v)))] else [])
      else []) ++
    (if mwOp w = 11 ∧ nwLanes v ≠ 0 then [(off + s.ard (R.rdWinStart_win_start n (nwWindow v % 256)) + 307, 128)] else [])

/-- The last tick of an issued event past its anchor, at most (R138). -/
def State.ldLast (s : State) (n w v : Nat) : Int :=
  let off := nwOffset v
  let a := if mwOp w ≠ 10 ∧ nwMark v then max off (s.setEnd n (nwMarkSet v) off) else off
  if mwOp w = 11 ∧ nwLanes v ≠ 0 then (max a (off + s.ard (R.rdWinStart_win_start n (nwWindow v % 256)) + 31) : Nat) else a

/-- An issued event. -/
def LdSt.addEv (x : LdSt) (k : Int) : LdSt := { x with ev := (k :: x.ev).take 257 }

/-- Journal entries of a PLAY, MEAS or FRAME (R164). -/
def nanoEntries (w v : Nat) : Nat :=
  if mwOp w = 10 then (if mwArg w % 4 ≠ 0 then 1 else 0) + (if (mwArg w).testBit 2 then 1 else 0)
  else
    (if nwCells v ≠ 0 then 1 else 0) + (if nwBias v ≠ 0 ∧ nwFast v = false then 1 else 0) + (if mwOp w = 11 ∧ nwPub v then 1 else 0)

/-- The step of a PLAY, MEAS or FRAME. -/
def LdEnv.nanoStep (s : State) (e : LdEnv) (x : LdSt) (w : Nat) : List LdFail × List LdSt :=
  match e.nano[mwTarget w]? with
  | none => ([(6, x.pc)], [])
  | some v =>
    let late := (s.ldEvents e.n w v).any fun k => decide (x.slack + k.1 < (k.2 + e.margin : Nat))
    let y := { x with jour := x.jour + nanoEntries w v }
    let y := y.addEv (s.ldLast e.n w v)
    let y := if mwOp w ≠ 10 ∧ nwCells v ≠ 0 ∧ nwJump v = false then
        { y with held := some (match y.held with | some h => min h (x.slack - 640) | none => x.slack - 640) } else y
    (if late then [(1, x.pc)] else [], [{ y with pc := x.pc + 1 }])

/-- The push of a CALL (R158, R164). -/
def LdSt.push (x : LdSt) (ret : Nat) : LdSt :=
  let i := x.stack.length
  let keep := decide (i < x.safeDepth) && !x.saved.contains i
  { x with stack := ret :: x.stack, jour := x.jour + (if keep then 1 else 0), saved := if keep then i :: x.saved else x.saved }

/-- A BRANCH or CALL: every way (R79, R139, R157). -/
def LdEnv.flowStep (e : LdEnv) (x : LdSt) (w : Nat) : List LdFail × List LdSt :=
  let verdict := (e.usedBits w).any fun b => decide (b.2 < 4)
  let h := (e.cset (mwCsel w)).hops
  let y := if verdict then { x with slack := min x.slack (-(921 + 972 * h : Nat)) } else x
  if mwOp w = 5 ∧ 16 ≤ x.stack.length then ([(4, x.pc)], [])
  else
    let y := if mwOp w = 5 then y.push (x.pc + 1) else y
    ([], (List.range (wayCount (mwWays w))).map fun k => { y with pc := mwTarget w + k })

/-- A RET (R158, R161). -/
def LdSt.ret (x : LdSt) : List LdFail × List LdSt :=
  match x.handler, x.stack with
  | some (link, d), st =>
    if st.length = d then ([], [{ x with pc := link, handler := none }])
    else match st with
      | [] => ([(4, x.pc)], [])
      | r :: st => ([], [{ x with pc := r, stack := st }])
  | none, [] => ([(4, x.pc)], [])
  | none, r :: st => ([], [{ x with pc := r, stack := st }])

/-- A SHOT (R151, R528). -/
def LdSt.shotStep (x : LdSt) (w : Nat) : List LdFail × List LdSt :=
  let last := (mwArg w).testBit 0
  match x.shot with
  | none => ([], [{ x with pc := x.pc + 1 }])
  | some o => (if o = last then [] else [(8, x.pc)], [{ x with pc := x.pc + 1, shot := some (!last) }])

/-- The effect of one step whose completion `x.slack` already counts. -/
def LdEnv.effect (s : State) (e : LdEnv) (x : LdSt) (w : Nat) : List LdFail × List LdSt :=
  let op := mwOp w
  let k := mwArg w % 16
  let next := { x with pc := x.pc + 1 }
  if op = 1 ∨ op = 10 ∨ op = 11 then e.nanoStep s x w
  else if op = 2 then
    let d := if mwArg w / 16 = 0 then mwTarget w * 2 ^ k else (x.count k).getD 0 * (if mwArg w / 16 = 3 then 16 else 1)
    ([], [next.shift d])
  else if op = 3 then ([], next.triggered :: next.timedOut w)
  else if op = 9 then ([], { next with slack := 1984 } :: next.timedOut w)
  else if op = 4 ∨ op = 5 then e.flowStep x w
  else if op = 6 then x.ret
  else if op = 7 then
    match x.count k with
    | some 0 => ([], [next])
    | some 1 => ([], [next.setCount k (some 0)])
    | some (c + 1) => ([], [{ x with pc := mwTarget w }.setCount k (some c)])
    | none => ([], [{ x with pc := mwTarget w }.setCount k none, next.setCount k none])
  else if op = 8 then ([], [next.setCount k (if mwArg w / 16 = 0 then some (mwTarget w) else none)])
  else if op = 12 then ([], [{ next with jour := x.jour + 1 }.addEv 0])
  else if op = 13 then x.shotStep w
  else if op = 14 then ([], [if mwArg w / 16 < 2 then { next with jour := x.jour + 1 } else next])
  else if op = 15 then (if x.shot = some true then [(8, x.pc)] else [], [])
  else ([], [next])

/-- The state at a safe point: the step waits for descriptor checks, the span and the journal begin (R141, R159). -/
def LdSt.atSafe (x : LdSt) : LdSt :=
  { x with slack := (match x.held with | some h => min x.slack h | none => x.slack), held := none, span := 0, jour := 0,
           safeDepth := x.stack.length, saved := [] }

/-- The handlers that can be entered at a safe point (R161): each once in one visit (log 9). -/
def LdEnv.handlers (e : LdEnv) (x : LdSt) : List LdSt :=
  if x.handler.isSome then []
  else
    (List.range 3).filterMap fun i =>
      let v := e.vecs.getD i (0, false)
      if v.2 ∧ x.taken.contains i = false then
        some { x with pc := v.1, handler := some (x.pc, x.stack.length), taken := i :: x.taken }
      else none

/-- One word of a path: what fails there, and the states that can follow. A step takes at most 32 ticks after the one before, or
is released by the run-ahead limit (R79, R139). Below -2^26 every event is late, so `slack` stops there. -/
def LdEnv.step (s : State) (e : LdEnv) (x : LdSt) : List LdFail × List LdSt :=
  match e.word x.pc with
  | none => ([(6, x.pc)], [])
  | some w =>
    let safe := mwSafe w
    let x := if safe then x.atSafe else x
    let into := if safe then e.handlers x else []
    let x := { x with span := x.span + 1, slack := max (-67108864) (min 16352 (x.slack - 32)), taken := if x.handler.isSome then x.taken else [] }
    if 256 < x.span then ([(2, x.pc)], into)
    else
      let r := e.effect s x w
      let bad := (r.2.any fun y => decide (16 < y.jour))
      let full := (r.2.any fun y => decide (256 < y.ev.length))
      (r.1 ++ (if bad then [(3, x.pc)] else []) ++ (if full then [(0xA, x.pc)] else []), into ++ r.2.map fun y => { y with jour := min 17 y.jour })

/-- The resume entries at the word of one state: the word itself where SAFE = 1, the loaded word after a HALT (R528). -/
def LdEnv.entriesAt (e : LdEnv) (x : LdSt) : List LdSt :=
  match e.word x.pc with
  | none => []
  | some w => (if mwSafe w then [x.again x.pc] else []) ++ (if mwOp w = 15 ∧ e.loaded (x.pc + 1) then [x.again (x.pc + 1)] else [])

/-- Every path from a list of states, and with `on` also every path from the resume entries that it meets; none where the steps
run out. -/
def LdEnv.explore (s : State) (e : LdEnv) (on : Bool) : Nat → List LdSt → List LdSt → List LdFail → Option (List LdSt × List LdFail)
  | _, [], seen, fs => some (seen, fs)
  | 0, _ :: _, _, _ => none
  | k + 1, x :: xs, seen, fs =>
    if seen.contains x then LdEnv.explore s e on k xs seen fs
    else
      let r := e.step s x
      LdEnv.explore s e on k (r.2 ++ (if on then e.entriesAt x else []) ++ xs) (x :: seen) (r.1 ++ fs)

/-- The resume entries that no path reaches: there is no stack to take from a path (DEDUCED, log 9). -/
def LdEnv.spareEntries (e : LdEnv) (seen : List LdSt) : List LdSt :=
  let after := e.micro.filterMap fun x => if mwOp x.2 = 15 ∧ e.loaded (x.1 + 1) then some (x.1 + 1) else none
  (((e.micro.filterMap fun x => if mwSafe x.2 then some x.1 else none) ++ after).filter fun a => !(seen.any fun x => decide (x.pc = a))).map
    fun a => (LdSt.entry a).again a

/-- The first failed check in table order, at its lowest word. -/
def firstFail (fs : List LdFail) : Option LdFail :=
  fs.foldl
    (fun b f => match b with | none => some f | some g => if f.1 < g.1 ∨ (f.1 = g.1 ∧ f.2 < g.2) then some f else some g) none

/-- The failures of checks 0x01 to 0x0A; none where the proofs cannot be completed in time. Start entries take every check,
resume entries those of lead, spacing, journal, stack and issued events (R528). -/
def LdEnv.prove (s : State) (e : LdEnv) : Option (List LdFail) :=
  match e.explore s false Config.loaderSteps (e.starts.map LdSt.entry) [] [] with
  | none => none
  | some (seen, fs) =>
    match e.explore s true Config.loaderSteps (seen.flatMap e.entriesAt) [] [] with
    | none => none
    | some (seen', gs) =>
      match e.explore s true Config.loaderSteps (e.spareEntries (seen ++ seen')) [] [] with
      | none => none
      | some (_, hs) =>
        some (e.wordFails ++ fs ++ (gs.filter fun f => decide (f.1 ≤ 4 ∨ f.1 = 0xA)) ++ hs.filter fun f => decide (f.1 ≤ 3 ∨ f.1 = 0xA))

end Sys2Proof.Machine
end

