-- ==== Sys2Proof/Machine/Memory.lean ====
section
/-! DEFINITION. On-package memory and far store: the region map, errors and repair, lost stacks, descriptor reads, stream
refills, memory packets (R347 to R370, R379). -/

namespace Sys2Proof.Machine

/-- The memory block's commands are reached: it is not asleep (R27). -/
def State.memCode (s : State) (code : Nat) : State := s.wr R.memCmd_result code

/-! ### Writes that reach the descriptor table (R360) -/

/-- Cached copies of the descriptors that `len` bytes from `a` touch follow the table. -/
def State.refreshDescs (s : State) (a len : Nat) : State :=
  { s with descs := s.descs.map fun e =>
      let i := e.1 % 2 ^ 22
      if a < 32 * i + 32 ∧ 32 * i < a + len then (e.1, s.hbmNat (s.rgnStart 0 + 32 * i) 32) else e }

/-- Whole chunks reach HBM: from a host, a transaction, a load. -/
def State.writeChunks (s : State) (a : Nat) (bs : List Byte) : State := (s.putChunks a bs).refreshDescs a bs.length

/-! ### The region map (R349, R350) -/

def rgnLimit (r : Nat) : Nat := if r = 2 ∨ r = 3 then 16384 else if r = 4 then 65536 else if r = 5 then 196608 else 2 ^ 18

/-- The base and size of each region that the requested sizes give at the basic level, in the table's order. -/
def State.packedMap (s : State) : List (Nat × Nat) :=
  let size := fun r => s.rd (R.memRgnRsize_req_size r)
  let b3 := 1024 + size 2
  let b4 := b3 + size 3
  let b5 := b4 + size 4
  [(0, 128), (128, 896), (1024, size 2), (b3, size 3), (b4, size 4), (b5, min (size 5) (262144 - b5))]

/-- The requested map: base and size of each region in MiB. -/
def State.askedMap (s : State) : List (Nat × Nat) :=
  if s.rd R.memCtl_level = 1 then
    [(0, 128), (128, 896)] ++
      (List.range 4).map fun i => (s.rd (R.memRgnRbase_req_base (i + 2)), s.rd (R.memRgnRsize_req_size (i + 2)))
  else s.packedMap

/-- A region of a map is too large, ends beyond HBM or overlaps another. -/
def mapBad (s : State) (m : List (Nat × Nat)) : Bool :=
  (List.range 6).any fun r =>
    let x := m.getD r (0, 0)
    (decide (2 ≤ r) && decide (rgnLimit r < s.rd (R.memRgnRsize_req_size r))) || decide (262144 < x.1 + x.2) ||
      (List.range r).any fun q =>
        let y := m.getD q (0, 0)
        decide (0 < x.2 ∧ 0 < y.2 ∧ x.1 < y.1 + y.2 ∧ y.1 < x.1 + x.2)

/-- The map becomes active; result rings are checked against it (R201). -/
def State.setMap (s : State) (m : List (Nat × Nat)) : State :=
  let s := (List.range 6).foldl
    (fun s r =>
      let x := m.getD r (0, 0)
      (s.wr (R.memRgnBase_rgn_base r) x.1).wr (R.memRgnSize_rgn_size r) x.2) s
  s.checkRings

def State.mapApply (s : State) : State :=
  if s.allHalted = false ∨ ((List.range 64).any fun p => decide (s.capNow p ≠ cIDLE)) = true ∨
      ((List.range 64).any fun n => (s.seq n).loading.isSome) = true then s.memCode rSTATE
  else if mapBad s s.askedMap then s.memCode rRANGE
  else (s.setMap s.askedMap).memCode rOK

def execMapApply (t : Nat) (s : State) : Host.Outcome State Fault Refusal :=
  let s := s.at t
  if s.awake then .next (s.hostCmd 0x50004 fun s => s.mapApply) else .next s

/-- `host_req` (R358). -/
def State.hostReq (s : State) : State :=
  let s := s.capSettleAll
  let k := s.rd R.memHostRsv_host_rsv
  let r := s.admission [0] [(0, 50 * k)]
  if r.1 then (r.2.wr R.memHostRsv_host_act k).memCode rOK else r.2.memCode rADMIT

def execHostReq (t : Nat) (s : State) : Host.Outcome State Fault Refusal :=
  let s := s.at t
  if s.awake then .next (s.hostCmd 0x50004 fun s => s.hostReq) else .next s

/-! ### A lost stack (R355) -/

/-- The stack is rewritten with poison; what it held is gone, and every descriptor cache with it. -/
def State.loseStack (s : State) (k : Nat) : State :=
  let s := { s with
    hbm := s.hbm.filter fun e => decide (stackOf (e.1 / 32) ≠ k)
    poison := s.poison.filter fun c => decide (stackOf c ≠ k)
    descs := []
    combs := s.combs.map fun (e : Nat × CombSt) => (e.1, { e.2 with used := [] })
    memo := { s.memo with lost := s.memo.lost ||| 2 ^ k, weak := s.memo.weak.filter fun e => decide (stackOf e.1 ≠ k) } }
  ((s.wr R.memDresLo_desc_res_lo 0).wr R.memDresHi_desc_res_hi 0)

def State.stackLost (s : State) (k : Nat) : State := (((s.loseStack k).setF R.memStatus_stack_lost).memEvent).greenLoss 5

def execStackLost (t stack : Nat) (s : State) : Host.Outcome State Fault Refusal :=
  let s := s.at t
  if s.awake ∧ s.svc.hbmTrained ∧ s.isSleep = false then .next (s.stackLost stack) else .next s

/-! ### Errors found (R351 to R353, R355) -/

/-- More than 64 distinct chunks of a stack found uncorrectable within 1 s: the stack is lost. -/
def State.checkStacks (s : State) : State :=
  (List.range 4).foldl
    (fun s k =>
      if 64 < (s.memo.ues.filter fun e => decide (stackOf e.1 = k ∧ s.dial < e.2 + ticksPerSec)).length then
        (s.stackLost k).setMemo { (s.stackLost k).memo with ues := (s.stackLost k).memo.ues.filter fun e => decide (stackOf e.1 ≠ k) }
      else s) s

/-- HBM_SCRUB_PASS: the errors that have struck since the last pass, by chunk and symbols, then the scrubber's read of a chunk. -/
def State.scrubChunk (s : State) (chunk : Nat) (upsets : List (Nat × Nat)) : State :=
  (((upsets.foldl (fun s u => s.strikeChunk (u.1 % 2 ^ 33) u.2) s).meetChunk chunk).2).checkStacks

def execHbmScrubPass (t chunk : Nat) (upsets : List (Nat × Nat)) (s : State) : Host.Outcome State Fault Refusal :=
  let s := s.at t
  if (s.isAmber ∨ s.isGreen) ∧ s.svc.hbmTrained ∧ chunk < 2 ^ 33 then .next (s.scrubChunk chunk upsets) else .next s

/-! ### Soft repair (R354) -/

def spentKey (stack pch bank : Nat) : Nat := (stack * 32 + pch) * 65536 + bank

/-- The most spare rows used in any bank of a stack. -/
def State.mostSpent (s : State) (stack : Nat) : Nat :=
  ((s.memo.spent.filter fun e => decide (e.1 / (32 * 65536) = stack)).map (·.2)).foldl max 0

def State.showSpares (s : State) (stack : Nat) : State :=
  s.wr (R.memStkRep_spares_min stack) (Config.spareRows - s.mostSpent stack)

def State.softRepair (s : State) (stack pch bank row : Nat) : State :=
  let k := spentKey stack pch (bank % 65536)
  let used := SMap.get 0 s.memo.spent k
  let s :=
    if used < Config.spareRows then
      let s := { s with memo :=
        { s.memo with marked := s.memo.marked.filter (· ≠ rowKey stack pch bank row), spent := SMap.set 0 s.memo.spent k (used + 1), repairs := SMap.set 0 s.memo.repairs stack (s.dial + 1) } }
      (s.incSat (R.memStkRep_rep_count stack)).lifeAppend 2 0 (Config.repairPayload stack pch bank row % 2 ^ 224)
    else s
  let s := s.showSpares stack
  if Config.spareRows ≤ SMap.get 0 s.memo.spent k then (s.setF R.memStatus_spare_out).memEvent else s

/-- SOFT_REPAIR: a marked row is repaired; no more than one a second on a stack. -/
def execSoftRepair (t stack pch bank row : Nat) (s : State) : Host.Outcome State Fault Refusal :=
  let s := s.at t
  let last := SMap.get 0 s.memo.repairs stack
  if s.awake ∧ s.svc.hbmTrained ∧ s.memo.marked.contains (rowKey stack pch bank row) ∧ (last = 0 ∨ last - 1 + ticksPerSec ≤ s.dial) then
    .next (s.softRepair stack pch bank row)
  else .next s

/-! ### Descriptor reads and stream refills (R359 to R361, R365) -/

/-- A descriptor enters the cache; the entry used longest ago leaves when there are more than 4,096. -/
def State.cacheDesc (s : State) (n i : Nat) : State :=
  let s := { s with descs := SMap.insert (SMap.erase s.descs (n * 2 ^ 22 + i)) (n * 2 ^ 22 + i) (s.hbmNat (s.rgnStart 0 + 32 * i) 32) }
  let l := i :: (s.comb n).used.filter (· ≠ i)
  let s := s.setComb n { s.comb n with used := l.take 4096 }
  { s with descs := s.descs.filter fun e => decide (e.1 / 2 ^ 22 ≠ n) || !(l.drop 4096).contains (e.1 % 2 ^ 22) }

/-- What a Cell takes of a descriptor read that returns now: a segment under way that waited for it plays from the first tick whose
release deadline is ahead, and a pulse that waits for it arrives now (R361, R526). -/
def CellSt.descReady (x : CellSt) (i d : Nat) : CellSt :=
  let mine := fun (p : Pulse) => decide (p.ts < d + 462 ∧ (p.desc = i ∨ p.alt = some i))
  { x with
    silentTo := if (match x.play with | some (_, g) => decide (g.idx = i) | none => false) && decide (x.silentTo = 2 ^ 72) then d + 462 else x.silentTo
    waiting := x.waiting.map fun p => if mine p then { p with iss := { p.iss with arr := max p.iss.arr d } } else p }

/-- The read comes too late for the pulse's first sample: the samples whose deadlines have passed are absent (R361). -/
def State.descLate (s : State) (n : Nat) (r : DescRead) : State :=
  (((s.setF R.memStatus_dl_late).memEvent).inc R.memDlLate_dl_late_count).markShot n r.iss.shot

/-- DESC_READ_COMPLETE: the oldest read of a Comb returns. -/
def State.descDone (s : State) (n : Nat) (r : DescRead) (rs : List DescRead) : State :=
  let s := s.setComb n { s.comb n with reads := rs }
  let q := s.meetChunk ((s.rgnStart 0 + 32 * r.idx) / 32)
  let s := if q.1 then q.2 else q.2.cacheDesc n r.idx
  let s := (maskBits 8 r.cells).foldl (fun s c => s.setCell (8 * n + c) ((s.cell (8 * n + c)).descReady r.idx s.dial)) s
  match r.first with
  | some x => if x < s.dial + 462 then s.descLate n r else s
  | none => s

def execDescReadComplete (t n : Nat) (s : State) : Host.Outcome State Fault Refusal :=
  let s := s.at t
  match (s.comb n).reads with
  | [] => .next s
  | r :: rs => if s.awake ∧ s.isSleep = false then .next ((s.settle n).descDone n r rs).checkStacks else .next s

/-- A sample goes into the ring of the Cell playing `g`: its word, or one in error, which silences the play as it is read (R118,
R352). -/
def State.putSample (s : State) (n c k : Nat) (g : Seg) (w : Nat) (bad : Bool) : State :=
  let key := n * 65536 + s.envIndex n c g.d k
  { s with cache := SMap.set ⟨0, 0⟩ s.cache key ⟨w, if bad then 2 else 0⟩ }

/-- A refill from the HBM envelope library: up to 64 samples. -/
def State.refillHbm (s : State) (n c : Nat) (g : Seg) : State :=
  let x := s.cell (8 * n + c)
  let cap := 64 * s.ard (R.cellRing_ring_len n c)
  let k0 := 256 + x.fill
  if g.d.length ≤ k0 ∨ refillRoom cap ((s.dial - g.b0) / 16) < x.fill + 64 then s
  else
    let cnt := min 64 (g.d.length - k0)
    let addr := fun k => s.rgnStart 4 + 5 * (g.d.envAddr + k)
    let ks := (List.range cnt).map (k0 + ·)
    let q := s.meetSpan (addr k0) (5 * cnt)
    let bad := fun (k : Nat) => q.1.contains (addr k / 32) || q.1.contains ((addr k + 4) / 32)
    let s := ks.foldl (fun s k => s.putSample n c k g (s.hbmNat (addr k) 5) (bad k)) q.2
    (s.setCell (8 * n + c) { s.cell (8 * n + c) with fill := x.fill + cnt }).readEnv n c

/-- The reads of a refill of a Cell's play. -/
def State.refillReads (s : State) (cell b0 k : Nat) : List FarRead := s.far.filter fun r => decide (r.cell = some (cell, b0, k))

/-- The byte of far store at an address, as the reads of a refill brought it. -/
def farByteOf (rs : List FarRead) (a : Nat) : Nat :=
  match (rs.flatMap (·.got)).find? fun e => decide (e.1 = a / 32) with
  | some e => e.2.1 / 2 ^ (8 * (a % 32)) % 256
  | none => 0

def farWord (rs : List FarRead) (a : Nat) : Nat :=
  ((List.range 5).map fun i => farByteOf rs (a + i) * 2 ^ (8 * i)).foldl (· + ·) 0

/-- A refill from far store: the oldest one asked for, once every read of it is answered. -/
def State.refillFar (s : State) (n c : Nat) (g : Seg) : State :=
  let x := s.cell (8 * n + c)
  let k0 := 256 + x.fill
  let rs := s.refillReads (8 * n + c) g.b0 k0
  if x.farDead ∨ rs = [] ∨ (rs.any fun r => decide (r.code ≠ some rOK)) then s
  else
    let cnt := min 64 (g.d.length - k0)
    let s := { s with far := s.far.filter fun r => decide (r.cell ≠ some (8 * n + c, g.b0, k0)) }
    let s := (List.range cnt).foldl (fun s i => s.putSample n c (k0 + i) g (farWord rs (farByte g.d.envAddr (k0 + i))) false) s
    let s := s.setCell (8 * n + c) { s.cell (8 * n + c) with fill := x.fill + cnt }
    s.askRefills (8 * n + c) g.b0 g.d.envAddr g.d.length (64 * s.ard (R.cellRing_ring_len n c)) 1024

/-- STREAM_REFILL: a refill completes into a Cell's ring. -/
def execStreamRefill (t n c : Nat) (s : State) : Host.Outcome State Fault Refusal :=
  let s := s.at t
  match (s.cell (8 * n + c)).play with
  | none => .next s
  | some (_, g) =>
    if s.awake ∧ g.d.envSrc = 1 then .next ((s.settle n).refillHbm n c g).checkStacks
    else if s.awake ∧ g.d.envSrc = 2 then .next ((s.settle n).refillFar n c g)
    else .next s

/-! ### Far store: answers and failures (R364, R365, R379) -/

def State.dropFar (s : State) (r : FarRead) : State := { s with far := s.far.filter fun x => decide (x.port ≠ r.port ∨ x.tag ≠ r.tag) }

/-- The Cell's play that a read served gets no more refills. -/
def State.killRefill (s : State) (cell b0 : Nat) : State :=
  let x := s.cell cell
  match x.play with
  | some (_, g) => if g.b0 = b0 then s.setCell cell { x with farDead := true } else s
  | none => s

/-- Data words of chunks for a MEM_DATA packet: the data of a bad chunk is open (log 2). -/
def State.dataPkts (s : State) (tag : Nat) : List (Nat × Nat × Bool) → List Pkt
  | a :: b :: c :: rest =>
    ⟨memHdr 9 12 tag a.1 (bitIf a.2.2 0 + bitIf b.2.2 1 + bitIf c.2.2 2), chunkWords a.2.1 ++ chunkWords b.2.1 ++ chunkWords c.2.1, 0⟩ ::
      State.dataPkts s tag rest
  | [a, b] => [⟨memHdr 9 8 tag a.1 (bitIf a.2.2 0 + bitIf b.2.2 1), chunkWords a.2.1 ++ chunkWords b.2.1, 0⟩]
  | [a] => [⟨memHdr 9 4 tag a.1 (bitIf a.2.2 0), chunkWords a.2.1, 0⟩]
  | [] => []

def State.sendData (s : State) (p tag : Nat) (cs : List (Nat × Nat × Bool)) : State :=
  (s.dataPkts tag cs).foldl (fun s x => s.queueMem p x) s

/-- Chunks that cannot be read: data open, `bad` set. -/
def State.badChunks (s : State) (chunk : Nat) : Nat → List (Nat × Nat × Bool) × State
  | 0 => ([], s)
  | k + 1 =>
    let d := s.draw
    let r := State.badChunks d.2 (chunk + 1) k
    ((chunk, d.1 % 2 ^ 256, true) :: r.1, r.2)

/-- A host's read of far store goes on at `chunk`: over the STORE port that serves it, or as bad chunks with FS_ERR; at the
end the CPL. -/
def State.hostFarRead (s : State) (p tag : Nat) (bad : Bool) : Nat → Nat → Nat → State
  | 0, _, _ => s
  | _ + 1, _, 0 => s.queueCpl p tag (if bad then rECC else rOK)
  | fuel + 1, chunk, count =>
    let q := s.farPort chunk
    let k := max 1 (s.spanRun q chunk count)
    match q with
    | some q =>
      s.farIssue q (farReadPkt chunk k)
        { port := q, tag := 0, chunk := chunk, count := k, at' := s.dial, cell := none, host := some (p, tag), write := false, got := [],
          rest := count - k, bad := bad, code := none }
    | none =>
      let r := s.fsErr.badChunks chunk k
      State.hostFarRead (r.2.sendData p tag r.1) p tag true fuel (chunk + k) (count - k)

/-- A host's write of far store: chunk by chunk over the STORE ports; with `cpl` the answers are awaited. -/
def State.hostFarWrite (s : State) (p tag : Nat) (cpl bad : Bool) : List (Nat × Nat × Bool) → State
  | [] => if cpl then s.queueCpl p tag (if bad then rECC else rOK) else s
  | e :: rest =>
    match s.farPort e.1 with
    | none => State.hostFarWrite s.fsErr p tag cpl true rest
    | some q =>
      let pkt := fun k : Nat => (⟨memHdr 8 4 k e.1 (if cpl then 1 else 0), chunkWords e.2.1, 0⟩ : Pkt)
      if cpl then
        s.farIssue q pkt
          { port := q, tag := 0, chunk := e.1, count := 1, at' := s.dial, cell := none, host := some (p, tag), write := true, got := rest,
            rest := rest.length, bad := bad, code := none }
      else State.hostFarWrite (s.queueMem q (pkt ((s.freeTag q).getD 0))) p tag cpl bad rest

/-- A read or write over a STORE port has ended: with the node's result, or abandoned (R365). -/
def State.farEnd (s : State) (r : FarRead) (code : Nat) : State :=
  let s := if code = rOK then s else s.fsErr
  match r.cell, r.host with
  | some (cell, b0, _), _ =>
    if code = rOK then
      { s with far := s.far.map fun x => if x.port = r.port ∧ x.tag = r.tag then { x with code := some rOK } else x }
    else (s.dropFar r).killRefill cell b0
  | none, some (p, tag) =>
    let s := s.dropFar r
    if r.write then s.hostFarWrite p tag true (r.bad || decide (code ≠ rOK)) r.got
    else
      let missing := r.count - r.got.length
      let q := if code = rOK then ([], s) else s.badChunks (r.chunk + r.got.length) missing
      let s := q.2.sendData p tag q.1
      s.hostFarRead p tag (r.bad || (r.got.any fun e => e.2.2) || decide (code ≠ rOK)) (r.rest + 1) (r.chunk + r.count) r.rest
  | none, none => s.dropFar r

def State.farOf (s : State) (p tag : Nat) : Option FarRead := s.far.find? fun r => decide (r.port = p ∧ r.tag = tag)

/-- FAR_STORE_ABANDON: 1 ms after its request a read has no CPL. -/
def execFarStoreAbandon (t port tag : Nat) (s : State) : Host.Outcome State Fault Refusal :=
  let s := s.at t
  match s.farOf port tag with
  | none => .next s
  | some r => if s.awake ∧ r.code = none ∧ r.at' + ticksPerMs ≤ s.dial then .next (s.farEnd r rTIMEOUT) else .next s

/-! ### Memory packets received (R378, R379) -/

def pktTag (x : Pkt) : Nat := bits x.hdr 19 8
def pktChunk (x : Pkt) : Nat := bits x.hdr 57 20
def pktBad (x : Pkt) : Nat := bits x.hdr 60 58

/-- Every chunk of a range lies in HBM. -/
def inHbm (chunk count : Nat) : Bool := decide (chunk + count ≤ 2 ^ 33)

def inFar (chunk count : Nat) : Bool := decide (farBase ≤ chunk ∧ chunk + count ≤ farEnd)

/-- Chunks of HBM as a host reads them. -/
def State.readChunks (s : State) (chunk : Nat) : Nat → List (Nat × Nat × Bool) × State
  | 0 => ([], s)
  | k + 1 =>
    let q := s.meetChunk chunk
    if q.1 then
      let d := q.2.draw
      let r := State.readChunks d.2 (chunk + 1) k
      ((chunk, d.1 % 2 ^ 256, true) :: r.1, r.2)
    else
      let r := State.readChunks q.2 (chunk + 1) k
      ((chunk, s.hbmNat (32 * chunk) 32, false) :: r.1, r.2)

/-- MEM_RD from the host: its data, then its CPL. -/
def State.memRd (s : State) (p : Nat) (x : Pkt) : State :=
  let tag := pktTag x
  let chunk := pktChunk x
  let count := x.ws.getD 0 0 % 2 ^ 32
  if count = 0 then s.queueCpl p tag rRANGE
  else if inHbm chunk count then
    let r := s.readChunks chunk count
    ((r.2.sendData p tag r.1).queueCpl p tag (if r.1.any fun e => e.2.2 then rECC else rOK)).checkStacks
  else if inFar chunk count then s.hostFarRead p tag false (count + 1) chunk count
  else s.queueCpl p tag rRANGE

def ptIs (k : Nat) (x : Pkt) : Bool := decide (x.ptype = k)

def execMemRd (t port : Nat) (s : State) : Host.Outcome State Fault Refusal :=
  let s := s.at t
  match s.takePkt port (ptIs 7) with
  | none => .next s
  | some (x, s') => if s.awake ∧ s.svc.hbmTrained then .next (if s.role port = 1 then s'.memRd port x else s') else .next s

/-- The chunks that a MEM_WR or MEM_DATA packet carries. -/
def pktChunks (x : Pkt) : List (Nat × Nat × Bool) :=
  (List.range (x.plen / 4)).map fun i => (pktChunk x + i, wordsChunk (x.ws.drop (4 * i)), (pktBad x).testBit i)

/-- MEM_WR from the host. -/
def State.memWr (s : State) (p : Nat) (x : Pkt) : State :=
  let cs := pktChunks x
  let cpl := (pktBad x).testBit 0
  let answer := fun (s : State) (code : Nat) => if cpl then s.queueCpl p (pktTag x) code else s
  if inHbm (pktChunk x) cs.length then answer (cs.foldl (fun s e => s.writeChunks (32 * e.1) (leBytes 32 e.2.1)) s) rOK
  else if inFar (pktChunk x) cs.length then s.hostFarWrite p (pktTag x) cpl false cs
  else answer s rRANGE

def execMemWr (t port : Nat) (s : State) : Host.Outcome State Fault Refusal :=
  let s := s.at t
  match s.takePkt port (ptIs 8) with
  | none => .next s
  | some (x, s') => if s.awake ∧ s.svc.hbmTrained then .next (if s.role port = 1 then s'.memWr port x else s') else .next s

/-- MEM_DATA from a far-store node: it answers a read. -/
def State.memData (s : State) (p : Nat) (x : Pkt) : State :=
  match s.farOf p (pktTag x) with
  | none => s
  | some r =>
    if r.write then s
    else
      let cs := pktChunks x
      let s := { s with far := s.far.map fun y => if y.port = r.port ∧ y.tag = r.tag then { y with got := y.got ++ cs } else y }
      match r.host with
      | some (q, tag) => s.sendData q tag cs
      | none => s

def execMemData (t port : Nat) (s : State) : Host.Outcome State Fault Refusal :=
  let s := s.at t
  match s.takePkt port (ptIs 9) with
  | none => .next s
  | some (x, s') => if s.awake then .next (if s.role port = 2 then s'.memData port x else s') else .next s

/-- CPL from a far-store node: a request over the port is done. -/
def State.takeCpl (s : State) (p : Nat) (x : Pkt) : State :=
  match s.farOf p (pktTag x) with
  | none => s
  | some r => if r.code.isSome then s else s.farEnd r (bits x.hdr 27 20)

def execCpl (t port : Nat) (s : State) : Host.Outcome State Fault Refusal :=
  let s := s.at t
  match s.takePkt port (ptIs 0xA) with
  | none => .next s
  | some (x, s') => if s.awake then .next (if s.role port = 2 then s'.takeCpl port x else s') else .next s

/-- The basic level of the memory block (R366). -/
def State.deriveMem (s : State) : State :=
  if s.rd R.memCtl_level = 1 then s
  else
    (List.range 4).foldl (fun s i => s.wr (R.memRgnRbase_req_base (i + 2)) (s.packedMap.getD (i + 2) (0, 0)).1)
      (s.both R.memCtl_scrub_h 8)

end Sys2Proof.Machine
end

