-- ==== Sys2Proof/Machine/Loader.lean ====
section
/-! DEFINITION. Program loads: the LOAD packet, checks of the image, the nano partition, admission, the writing of the stores
(R171 to R174, R178, R360). -/

namespace Sys2Proof.Machine

/-! ### The LOAD packet (R172, step 1, R379) -/

/-- A pulse, flux pulse, window or issued event of the Comb still lies ahead. -/
def State.busyComb (s : State) (n : Nat) : Bool :=
  ((s.seq n).events.any fun e => decide (s.dial < e.1)) ||
    (s.dec.pubs.any fun p => decide (p.comb = n)) ||
    ((List.range 4).any fun b => (s.biasOut (4 * n + b)).flux.isSome || !(s.biasOut (4 * n + b)).fluxes.isEmpty) ||
    (List.range 8).any fun c =>
      let x := s.cell (8 * n + c)
      let l := s.lane (8 * n + c)
      x.play.isSome || !x.waiting.isEmpty || !x.acts.isEmpty || !l.wins.isEmpty || l.cur.isSome || !l.ending.isEmpty

def State.postLoad (s : State) (n code check pc : Nat) : State :=
  ((s.wr (R.seqLoad_load_result n) code).wr (R.seqLoad_load_check n) check).wr (R.seqLoad_load_pc n) pc

/-- The answer to a LOAD packet, which carries `load_result`. -/
def State.replyLoad (s : State) (reply : Option (Nat × Nat)) (code : Nat) : State :=
  match reply with
  | some (p, tag) => s.queueCpl p tag code
  | none => s

/-- `lead_margin` as a load begins (R80). -/
def State.leadMargin (s : State) : Nat :=
  if s.rd R.timeCtl_level = 1 then s.rd R.timeLead_lead_margin
  else
    let g := s.rd R.timeLead_lead_guard
    if g = 0 then 0 else if g = 1 then 64 else if g = 2 then 256 else 1024

/-- A load request: refused at once, or under way. -/
def State.askProg (s : State) (n : Nat) (r : LoadReq) : State :=
  if (s.seq n).loading.isSome then s.replyLoad r.reply rBUSY
  else if s.halted n = false ∨ s.busyComb n then (s.postLoad n rSTATE 0 0).replyLoad r.reply rSTATE
  else (s.setSeq n { s.seq n with loading := some r }).wr (R.seqLoad_load_result n) rBUSY

/-- LOAD: the oldest LOAD packet of a HOST port, with the image that its bytes spell (log 6). -/
def State.loadPkt (s : State) (p : Nat) (x : Pkt) (image : ProgImage) : State :=
  let w := x.ws.getD 0 0
  s.askProg (bits x.hdr 25 20)
    { image := image, reply := some (p, pktTag x), margin := s.leadMargin, at' := s.rgnStart 1 + 32 * (w % 2 ^ 32), len := bits w 63 32 }

def execLoad (t port : Nat) (image : ProgImage) (s : State) : Host.Outcome State Fault Refusal :=
  let s := s.at t
  match s.takePkt port (ptIs 0xB) with
  | none => .next s
  | some (x, s') => if s.awake ∧ s.svc.hbmTrained ∧ s.role port = 1 then .next (s'.loadPkt port x image) else .next s'

/-! ### The image (R171, R172, step 3) -/

/-- The words of the Micro runs by address. -/
def progWords (g : ProgImage) : List (Nat × Nat) :=
  (g.micro.getD []).flatMap fun r => (List.range r.2.length).map fun i => (r.1 + i, r.2.getD i 0 % 2 ^ 32)

/-- The words of spans by index. -/
def spanWords (l : List (Nat × List Nat)) : List (Nat × Nat) :=
  l.flatMap fun r => (List.range r.2.length).map fun i => (r.1 + i, r.2.getD i 0)

/-- A section is over its limit. -/
def progTooLong (g : ProgImage) : Bool :=
  decide (32768 < (progWords g).length) || ((progWords g).any fun x => decide (32768 ≤ x.1)) || decide (8192 < (g.nano.getD []).length) ||
    decide (65536 < (spanWords g.cache).length) || ((spanWords g.cache).any fun x => decide (65536 ≤ x.1)) ||
    decide (32768 < (spanWords g.kernels).length) || (spanWords g.kernels).any fun x => decide (32768 ≤ x.1)

/-- The result of step 3. -/
def progHead (g : ProgImage) : Nat :=
  match g.header with
  | none => rRANGE
  | some h =>
    if h.version ≠ 1 then rVERSION
    else if g.micro.isNone ∨ g.nano.isNone ∨ (progTooLong g) ∨ 16 < h.starts.length ∨ (g.nano.getD []).length ≠ h.nanoLen then rRANGE
    else rOK

/-- The start entries: the lowest loaded address where the header lists none (R528). -/
def progEntries (g : ProgImage) : List Nat :=
  match g.header.map (·.starts) with
  | some (a :: l) => a :: l
  | _ => (((progWords g).map (·.1)).min?).toList

/-- A condition set in the form of R170: four bit words and the control word. -/
def csetOfWords (ws : List Nat) : CSet :=
  let c := ws.getD 4 0
  { bits := (List.range 4).map fun i => (bits (ws.getD i 0) 19 0, bits (ws.getD i 0) 22 20)
    dfltEn := c.testBit 0
    dfltWay := bits c 7 4
    hops := bits c 13 8 }

def csetBlank : CSet := ⟨List.replicate 4 (0, 6), false, 0, 0⟩

/-- A condition set as its shadows hold it. -/
def State.shadowCset (s : State) (n k : Nat) : CSet :=
  { bits := (List.range 4).map fun i => (s.rd (R.seqCsetBit_src n k i), s.rd (R.seqCsetBit_test n k i))
    dfltEn := decide (s.rd (R.seqCsetCtl_dflt_en n k) = 1)
    dfltWay := s.rd (R.seqCsetCtl_dflt_way n k)
    hops := s.rd (R.seqCsetCtl_hops n k) }

/-- The condition sets, vectors and barriers that the load leaves in the shadows (R168). -/
def State.nextCsets (s : State) (n : Nat) (g : ProgImage) : List CSet :=
  if s.rd (R.seqCtl_level n) = 1 then (List.range 16).map fun k => s.shadowCset n k
  else (List.range 16).map fun k => match (g.conditions.getD [])[k]? with | some ws => csetOfWords ws | none => csetBlank

def State.nextVecs (s : State) (n : Nat) (g : ProgImage) : List (Nat × Bool) :=
  (List.range 3).map fun i =>
    if s.rd (R.seqCtl_level n) = 1 then (s.rd (R.seqIvec_vec n i), decide (s.rd (R.seqIvec_vec_valid n i) = 1))
    else (g.vectors.getD []).getD i (0, false)

def State.nextBar (s : State) (n : Nat) (g : ProgImage) : Nat :=
  if s.rd (R.seqCtl_level n) = 1 then s.rd (R.seqBar_bar_memb n) else g.barriers.getD 0 % 2 ^ 32

def State.loadEnv (s : State) (n : Nat) (r : LoadReq) : LdEnv :=
  { n := n, margin := r.margin, micro := (progWords r.image), nano := r.image.nano.getD [], csets := s.nextCsets n r.image,
    vecs := s.nextVecs n r.image, bar := s.nextBar n r.image, starts := (progEntries r.image) }

/-! ### The nano partition (R173) -/

/-- The partitions of the other sequencers of the Quarter: base and length. -/
def State.otherParts (s : State) (n : Nat) : List (Nat × Nat) :=
  ((List.range 16).map (n / 16 * 16 + ·)).filterMap fun m =>
    let len := s.rd (R.seqNano_nano_len m)
    if m = n ∨ len = 0 then none else some (s.rd (R.seqNano_nano_base m), len)

/-- A span overlaps none of the partitions and ends in the store. -/
def spanFree (ps : List (Nat × Nat)) (b len : Nat) : Bool :=
  decide (b + len ≤ 8192) && ps.all fun p => decide (b + len ≤ p.1 ∨ p.1 + p.2 ≤ b)

/-- Where the partition of `len` words goes. -/
def State.placeNano (s : State) (n len : Nat) : Option Nat :=
  if len ≤ s.rd (R.seqNano_nano_len n) then some (s.rd (R.seqNano_nano_base n))
  else
    let ps := s.otherParts n
    ((0 :: ps.map fun p => p.1 + p.2).filter fun b => spanFree ps b len).min?

/-- Check 0x0C: a cached envelope over the ring of a streaming Cell (R116). -/
def State.overRing (s : State) (n : Nat) (g : ProgImage) : Bool :=
  (maskBits 8 g.streams).any fun c =>
    let lo := s.ard (R.cellRing_ring_base n c)
    let hi := lo + 64 * s.ard (R.cellRing_ring_len n c)
    (spanWords g.cache).any fun x => decide (lo ≤ x.1 ∧ x.1 < hi)

/-- The result of steps 3 and 4 with `load_check` and `load_pc`. -/
def State.judgeLoad (s : State) (n : Nat) (r : LoadReq) : Nat × Nat × Nat :=
  let h := (progHead r.image)
  if h ≠ rOK then (h, 0, 0)
  else
    match (s.loadEnv n r).prove s with
    | none => (rTIMEOUT, 0, 0)
    | some fs =>
      let fs := fs ++ (if (s.placeNano n (r.image.nano.getD []).length).isNone then [(0xB, 0)] else []) ++
        (if s.overRing n r.image then [(0xC, 0)] else [])
      match firstFail fs with
      | some (c, pc) => (rRANGE, c, pc)
      | none => (rOK, 0, 0)

/-! ### Writing (R172, steps 5 and 6) -/

/-- Stream charges of a Comb's Cells, 8.5 GB/s each (R178, R179). -/
def streamKeys (n : Nat) : List Nat := (List.range 8).map fun c => 1 + 8 * n + c

def streamCharges (n mask : Nat) : List (Nat × Nat) := (maskBits 8 mask).map fun c => (1 + 8 * n + c, 850)

/-- Words written into a store. -/
def putWords (m : List (Nat × Mem1)) (l : List (Nat × Nat)) : List (Nat × Mem1) :=
  l.foldl (fun m x => SMap.insert (SMap.erase m x.1) x.1 ⟨x.2, 0⟩) m

/-- Cache and kernel memory list no blank word. -/
def putBlank (m : List (Nat × Mem1)) (l : List (Nat × Nat)) : List (Nat × Mem1) := l.foldl (fun m x => SMap.set ⟨0, 0⟩ m x.1 ⟨x.2, 0⟩) m

def State.writeStores (s : State) (n base : Nat) (g : ProgImage) : State :=
  let nano := g.nano.getD []
  let quarter := n / 16 * 8192
  let s := { s with
    micro := putWords (s.micro.filter fun e => decide (e.1 / 32768 ≠ n)) ((progWords g).map fun (x : Nat × Nat) => (n * 32768 + x.1, x.2))
    nano := putBlank s.nano ((List.range nano.length).map fun i => (quarter + (base + i) % 8192, nano.getD i 0 % 2 ^ 256))
    cache := putBlank s.cache ((spanWords g.cache).map fun (x : Nat × Nat) => (n * 65536 + x.1, x.2 % 2 ^ 40))
    kern := putBlank s.kern ((spanWords g.kernels).map fun (x : Nat × Nat) => (n * 32768 + x.1, x.2 % 2 ^ 64)) }
  (s.wr (R.seqNano_nano_base n) base).wr (R.seqNano_nano_len n) nano.length

/-- The shadows that the loader writes (R168). -/
def State.writeShadows (s : State) (n : Nat) (g : ProgImage) : State :=
  let csets := s.nextCsets n g
  let vecs := s.nextVecs n g
  let bar := s.nextBar n g
  let s := (List.range 16).foldl (fun s k => s.wr (R.seqCinit_cinit n k) ((g.counters.getD []).getD k 0)) s
  if s.rd (R.seqCtl_level n) = 1 then s
  else
    let s := (List.range 16).foldl
      (fun s k =>
        let cs := csets.getD k csetBlank
        let s := (List.range 4).foldl
          (fun s i =>
            let b := cs.bits.getD i (0, 6)
            (s.wr (R.seqCsetBit_src n k i) b.1).wr (R.seqCsetBit_test n k i) b.2) s
        ((s.wr (R.seqCsetCtl_dflt_en n k) (if cs.dfltEn then 1 else 0)).wr (R.seqCsetCtl_dflt_way n k) cs.dfltWay).wr
          (R.seqCsetCtl_hops n k) cs.hops) s
    let s := (List.range 3).foldl
      (fun s i =>
        let v := vecs.getD i (0, false)
        (s.wr (R.seqIvec_vec n i) v.1).wr (R.seqIvec_vec_valid n i) (if v.2 then 1 else 0)) s
    s.wr (R.seqBar_bar_memb n) bar

/-! ### The descriptor cache (R360) -/

/-- The descriptors named and reached, until 4,096; whether that is all of them. -/
def State.descReach (s : State) : Nat → List Nat → List Nat → List Nat × Bool
  | _, [], acc => (acc.reverse, true)
  | 0, _ :: _, acc => (acc.reverse, false)
  | k + 1, i :: q, acc =>
    if acc.contains i then State.descReach s k q acc
    else if acc.length = 4096 then (acc.reverse, false)
    else
      let a := s.rgnStart 0 + 32 * i
      let d := decodeDesc (s.hbmNat a 32)
      let more := if s.poisoned (a / 32) ∨ 1 < s.errorsOf (a / 32) then [] else (if d.link then [d.next] else []) ++ (if d.jmpOk then [d.jnext] else [])
      State.descReach s k (q ++ more) (i :: acc)

def State.setResident (s : State) (n : Nat) (r : Bool) : State :=
  if n < 32 then (if r then s.setBit R.memDresLo_desc_res_lo n else s.clrBit R.memDresLo_desc_res_lo n)
  else if r then s.setBit R.memDresHi_desc_res_hi (n - 32) else s.clrBit R.memDresHi_desc_res_hi (n - 32)

/-- The cache is filled; an unreadable descriptor is left out (R352, R360). -/
def State.fillDescs (s : State) (n : Nat) (nano : List Nat) : State :=
  let named := nano.flatMap fun v => [nwDesc v, nwAlt v]
  let r := s.descReach 32768 named []
  let s := { s with descs := s.descs.filter fun e => decide (e.1 / 2 ^ 22 ≠ n) }
  let s := s.setComb n { s.comb n with used := [] }
  let chunk := fun (i : Nat) => (s.rgnStart 0 + 32 * i) / 32
  let q := s.meetAll (r.1.map chunk)
  let whole := r.2 && q.1.isEmpty
  (r.1.foldl (fun s i => if q.1.contains (chunk i) then s else s.cacheDesc n i) q.2).setResident n whole

/-- Step 6: everything the image writes; counts of the last program return to zero. -/
def State.installProg (s : State) (n base : Nat) (g : ProgImage) : State :=
  let s := (s.writeStores n base g).writeShadows n g
  let s := (List.range 8).foldl (fun s c => s.both (R.cellMode_stream_en n c) (if g.streams.testBit c then 1 else 0)) s
  let s := ((s.wr (R.seqDefer_defer_count n) 0).wr (R.seqDefer_defer_last n) 0)
  let s := ((s.wr (R.seqEcc_micro_fix n) 0).wr (R.seqEcc_nano_fix n) 0)
  let s := ((s.wr (R.seqEcc2_cache_fix n) 0).wr (R.seqEcc2_kern_fix n) 0)
  let s := s.setSeq n { s.seq n with starts := (progEntries g), runnable := false }
  s.fillDescs n (g.nano.getD [])

/-- The image that a LOAD section of the booted image spells; one that has not the form of R171 has no Header (log 6). -/
def State.bootProg (s : State) (a len : Nat) : ProgImage :=
  (Config.progOfBytes (s.flashBytes a len)).getD
    { header := none, micro := none, nano := none, counters := none, conditions := none, vectors := none, barriers := none,
      streams := 0, cache := [], kernels := [] }

/-- The LOAD sections that are left, one at a time in ascending order of n; what is refused at once sets `bootload_err`
(R489). -/
def State.bootLoads (s : State) : Nat → State
  | 0 => s
  | k + 1 =>
    match s.sec.todo with
    | [] => s
    | (n, a, len) :: rest =>
      let s := { s with sec := { s.sec with todo := rest } }
      if n < 64 ∧ (s.seq n).loading = none ∧ s.halted n ∧ s.busyComb n = false then
        s.askProg n { image := s.bootProg a len, reply := none, margin := s.leadMargin, at' := 0, len := 0 }
      else State.bootLoads (s.wr R.secBoot_bootload_err 1) k

/-- A boot load has ended: the next one begins. -/
def State.bootLoaded (s : State) (n code : Nat) : State :=
  let s := if code = rOK then { s with sec := { s.sec with booted := s.sec.booted ++ [n] } } else s.wr R.secBoot_bootload_err 1
  s.bootLoads s.sec.todo.length

/-- The load ends with a result. -/
def State.endLoad (s : State) (n : Nat) (r : LoadReq) (x : Nat × Nat × Nat) : State :=
  let s := ((s.setSeq n { s.seq n with loading := none }).postLoad n x.1 x.2.1 x.2.2).replyLoad r.reply x.1
  if r.reply.isSome then s else s.bootLoaded n x.1

/-- Byte address of weight k of the kernel library, packed as R114 has it. -/
def State.weightByte (s : State) (k : Nat) : Nat := s.rgnStart 2 + 5 * k

/-- The load reads staging and the library: the chunks that are unreadable. -/
def State.loadReads (s : State) (r : LoadReq) : List Nat × State :=
  let a := s.meetSpan r.at' r.len
  r.image.library.foldl (fun q x => let b := q.2.meetSpan (s.weightByte x.2.1) (5 * x.2.2); (q.1 ++ b.1, b.2)) a

/-- The image with the weights that it copies from the library; past the end of the library there are none. -/
def State.withLibrary (s : State) (g : ProgImage) : ProgImage :=
  let span := fun (x : Nat × Nat × Nat) => (x.1, (List.range (min x.2.2 32769)).map fun i => s.hbmNat (s.weightByte (x.2.1 + i)) 5)
  { g with kernels := g.kernels ++ g.library.map span }

/-- A span of the image leaves the kernel library. -/
def State.pastLibrary (s : State) (g : ProgImage) : Bool := g.library.any fun x => decide (s.rgnBytes 2 < 5 * (x.2.1 + x.2.2))

/-- The checks, admission, writing and the result of a load whose image has been read. -/
def State.judgeAndWrite (s : State) (n : Nat) (r : LoadReq) : State :=
  if r.reply.isSome ∧ s.rgnStart 1 + s.rgnBytes 1 < r.at' + r.len then s.endLoad n r (rRANGE, 0, 0)
  else
    let v := s.judgeLoad n r
    if v.1 ≠ rOK then s.endLoad n r v
    else
      let a := s.capSettleAll.admission (streamKeys n) (streamCharges n r.image.streams)
      if a.1 = false then a.2.endLoad n r (rADMIT, 0, 0)
      else
        let base := (s.placeNano n (r.image.nano.getD []).length).getD 0
        ((a.2.installProg n base r.image).endLoad n r (rOK, 0, 0)).enabledLoad

/-- LOAD_COMPLETE: an unreadable chunk ends the load with ECC; a span past the library is out of range (R352, R172). -/
def State.completeLoad (s : State) (n : Nat) (r : LoadReq) : State :=
  let q := s.loadReads r
  if q.1 ≠ [] then q.2.endLoad n r (rECC, 0, 0)
  else if q.2.pastLibrary r.image then q.2.endLoad n r (rRANGE, 0, 0)
  else q.2.judgeAndWrite n { r with image := q.2.withLibrary r.image }

def execLoadComplete (t n : Nat) (s : State) : Host.Outcome State Fault Refusal :=
  let s := s.at t
  match (s.seq n).loading with
  | none => .next s
  | some r => if s.awake then .next (s.completeLoad n r).checkStacks else .next s

end Sys2Proof.Machine
end

