-- ==== Sys2Proof/Machine/Chain.lean ====
section
/-! DEFINITION. Chains and Hive time: announcements and routes, TIME packets, joining, Queens, holdover, forming, PPS (R402 to
R423, R69). -/

namespace Sys2Proof.Machine

def cFREE : Nat := 0
def cJOINING : Nat := 1
def cMEMBER : Nat := 2
def cHOLDOVER : Nat := 3
def cSOURCE : Nat := 4

def State.cstate (s : State) : Nat := s.rd R.chnStatus_cstate
def State.chainRole (s : State) : Nat := s.rd R.chnCtl_role
def State.setChain (s : State) (x : ChainSt) : State := { s with chain := x }

/-! ### Announcements (R405) -/

def announceHdr (origin hops aseq role ho inst : Nat) : Nat :=
  0xC + origin * 2 ^ 8 + hops * 2 ^ 16 + aseq * 2 ^ 22 + role * 2 ^ 38 + ho * 2 ^ 40 + inst % 2 ^ 16 * 2 ^ 41

def anOrigin (h : Nat) : Nat := bits h 15 8
def anHops (h : Nat) : Nat := bits h 21 16
def anSeq (h : Nat) : Nat := bits h 37 22
def anRole (h : Nat) : Nat := bits h 39 38
def anHo (h : Nat) : Nat := bits h 40 40
def anInst (h : Nat) : Nat := bits h 56 41

/-- A packet on every NEIGHBOUR port in ACTIVE or DEGRADED but one. -/
def State.sendAll (s : State) (x : Pkt) (but : Option Nat) : State :=
  (List.range 8).foldl (fun s p => if s.neighbourUp p ∧ some p ≠ but then s.queueOut p x else s) s

/-- This Hive's own announcement. -/
def State.announce (s : State) : State :=
  if s.inChain then
    let a := (s.chain.aseq + 1) % 65536
    let s := s.setChain { s.chain with aseq := a }
    let ho := if s.cstate = cHOLDOVER then 1 else 0
    s.sendAll ⟨announceHdr s.myId 0 a s.chainRole ho Config.instanceField, [], 0⟩ none
  else s

def execAnnounceTimer (t : Nat) (s : State) : Host.Outcome State Fault Refusal :=
  let s := s.at t
  if s.inChain ∧ s.chain.annAt ≤ s.dial then
    .next (s.announce.setChain { s.announce.chain with annAt := s.dial + 2560000 })
  else .next s

/-- A new chain state: each change is announced at once. -/
def State.setCstate (s : State) (v : Nat) : State :=
  let was := s.inChain
  let s := s.wr R.chnStatus_cstate v
  let s := if was then s else s.setChain { s.chain with annAt := s.dial + 2560000 }
  s.announce

/-! ### References and rate (R411, R414 to R416) -/

/-- No Queen is tracked. -/
def State.dropQueens (s : State) : State :=
  let x :=
    { s.chain with
      qa := QueenSt.init, qb := QueenSt.init, lockRun := 0, rhos := [], heard := [], stepAt := none, jumped := false, forming := false }
  let s := s.setChain x
  let s := ((s.wr R.chnStatus_a_ok 0).wr R.chnStatus_b_ok 0).wr R.chnStatus_locked 0
  (s.wr R.chnStatus_ref 0).wr R.chnStatus_join_wait 0

def State.setRho (s : State) (rho : Int) : State :=
  let v := unsigned 40 rho
  (s.wr R.chnRateLo_rho_lo v).wr R.chnRateHi_rho_hi (v / 2 ^ 32)

def State.rho (s : State) : Int := signed 40 (s.rd R.chnRateLo_rho_lo + 2 ^ 32 * s.rd R.chnRateHi_rho_hi)

/-- 200 ppm in units of 2^-48. -/
def rhoMax : Nat := 56294995342

/-- The limit of R414 about the frequency-matched rate; 200 ppm after REF_CLK returns (R418). -/
def State.slewLimit (s : State) : Nat :=
  if s.chain.fast then rhoMax else clampN (s.ard R.chnLoop_slew) 1 12800 * 2 ^ 48 / 64000000

/-- A value of a range about zero. -/
def State.drawAbout (s : State) (l : Nat) : Int × State :=
  let d := s.draw
  (((d.1 % (2 * l + 1) : Nat) : Int) - l, d.2)

/-- A steering adjustment: the manual gives its limits and not its amount (log 11). -/
def State.steer (s : State) : State :=
  let a := s.drawAbout rhoMax
  let b := a.2.drawAbout a.2.slewLimit
  let v := a.1 + b.1
  let v := if v > rhoMax then (rhoMax : Int) else if v < -(rhoMax : Int) then -(rhoMax : Int) else v
  let s := b.2.setRho v
  s.setChain { s.chain with rhos := (v :: s.chain.rhos).take 256 }

/-- The reference follows the valid Queens; going back to Queen A is QUEEN_REVERT's (R415). -/
def State.newRef (s : State) (r : Nat) : State :=
  let old := s.rd R.chnStatus_ref
  if r = old then s
  else
    let s := s.wr R.chnStatus_ref r
    if old ≠ 0 ∧ r ≠ 0 then s.chnFlag R.chnStatus_q_switch else s

def State.pickRef (s : State) : Nat :=
  let a := s.rd R.chnStatus_a_ok = 1
  let b := s.rd R.chnStatus_b_ok = 1
  if s.rd R.chnStatus_ref = 2 ∧ b then 2 else if a then 1 else if b then 2 else 0

/-- Entry to HOLDOVER: ρ at the mean of its last values (R417). -/
def State.holdover (s : State) : State :=
  let l := s.chain.rhos.take (2 ^ min 8 (s.ard R.chnLoop_tc))
  let s := if l = [] then s else s.setRho (l.foldl (· + ·) 0 / l.length)
  let s := (s.wr R.chnStatus_locked 0).chnFlag R.chnStatus_holdover_in
  (s.setChain { s.chain with timeAt := s.dial }).setCstate cHOLDOVER

/-- The Queens that the Hive has joined under show, with their route hops; none while it is JOINING (R411, R412). -/
def State.showQueens (s : State) : State :=
  if s.cstate = cJOINING then s
  else
  let hops := fun (q : QueenSt) => match q.src with | some d => s.rd (R.chnRoute_rhops d) | none => 0
  ((s.wr R.chnQueen_qa_id (s.chain.qa.src.getD 0)).wr R.chnQueen_qb_id (s.chain.qb.src.getD 0)).wr R.chnQueen_qa_hops (hops s.chain.qa)
    |>.wr R.chnQueen_qb_hops (hops s.chain.qb)

/-- What a change of the valid Queens does to the state of R404 (R415 to R417, R419). -/
def State.chainMove (s : State) : State :=
  let c := s.cstate
  if c = cMEMBER ∨ c = cHOLDOVER ∨ (c = cSOURCE ∧ s.chainRole = 2) then
    let r := s.pickRef
    let s := s.newRef r
    if r ≠ 0 then (if c = cMEMBER then s else s.setCstate cMEMBER)
    else if c = cMEMBER then
      if s.chainRole = 2 ∧ s.chain.jumped = false then (s.wr R.chnStatus_locked 0).setCstate cSOURCE else s.holdover
    else s
  else s

/-! ### FREE (R403, R407) -/

/-- Every route is gone. -/
def State.dropRoutes (s : State) : State :=
  let s := (List.range 256).foldl (fun s d => if s.rd (R.chnRoute_r_valid d) = 1 then (s.wr (R.chnRoute_r_valid d) 0).lostRoute d else s) s
  s.setChain { s.chain with routes := [], seen := [] }

def State.enterFree (s : State) : State := (((s.wr R.chnStatus_cstate cFREE).dropQueens).setRho 0).dropRoutes

/-- JOIN: the result code and the state (R403). -/
def State.chainJoin (s : State) (id role : Nat) : Nat × State :=
  if s.cstate ≠ cFREE then
    (if s.myId = id ∧ s.chainRole = role then rOK else rSTATE, s)
  else
    let s := ((s.wr R.chnCtl_id id).wr R.chnCtl_role role).wr R.chnCtl_id_valid 1
    let s := s.dropQueens.wr R.chnStatus_cstate cJOINING
    (rOK, s.setChain { s.chain with joinAt := s.dial })

/-- LEAVE. -/
def State.chainLeave (s : State) : Nat × State :=
  if s.cstate = cFREE then (rOK, s)
  else if (List.range 16).any fun x => decide (s.txnState x = tLOCKED ∨ s.txnState x = tCOMMITTED) then (rSTATE, s)
  else (rOK, s.enterFree)

/-! ### Routes (R406) -/

def diff16 (a b : Nat) : Int := signed 16 ((a + 65536 - b % 65536) % 65536)

/-- The route of an origin becomes this copy's; subscriptions follow a change. -/
def State.setRoute (s : State) (d p h : Nat) : State :=
  let change := decide (s.rd (R.chnRoute_r_valid d) = 0 ∨ s.rd (R.chnRoute_rport d) ≠ p)
  let s := ((s.wr (R.chnRoute_rport d) p).wr (R.chnRoute_r_valid d) 1).wr (R.chnRoute_rhops d) (anHops h + 1)
  let s := (s.wr (R.chnRoute_r_role d) (anRole h)).wr (R.chnRoute_r_ho d) (anHo h)
  (if change then s.requeryDev d else s).showQueens

/-- CHAIN: an announcement arrives on port p. -/
def State.takeChain (s : State) (p h : Nat) : State :=
  let d := anOrigin h
  if s.cstate = cFREE then s
  else if d = s.myId then
    if anInst h = Config.instanceField % 65536 then s else (s.chnFlag R.chnStatus_id_clash).enterFree
  else if 63 < anHops h + 1 then s
  else
    let old := s.chain.routes.find? fun e => decide (e.1 = d)
    let first := match old with | none => true | some e => decide (0 < diff16 (anSeq h) e.2.aseq)
    if first then
      let s := s.setChain { s.chain with routes := SMap.insert (SMap.erase s.chain.routes d) d ⟨anSeq h, s.dial⟩ }
      let s := s.setRoute d p h
      if s.inChain then s.sendAll ⟨h + 2 ^ 16, [], 0⟩ (some p) else s
    else
      match old with
      | some e =>
        let r := s.rd (R.chnRoute_rhops d)
        if e.2.aseq = anSeq h ∧ (anHops h + 1 < r ∨ (anHops h + 1 = r ∧ p < s.rd (R.chnRoute_rport d))) then s.setRoute d p h else s
      | none => s

def execChain (t port : Nat) (s : State) : Host.Outcome State Fault Refusal :=
  let s := s.at t
  match s.takePkt port fun x => decide (x.ptype = 0xC) with
  | none => .next s
  | some (x, s) => .next (s.takeChain port x.hdr)

/-- ROUTE_EXPIRY: 300 µs after the origin's latest accepted announcement. -/
def execRouteExpiry (t dev : Nat) (s : State) : Host.Outcome State Fault Refusal :=
  let s := s.at t
  match s.chain.routes.find? fun e => decide (e.1 = dev) with
  | some e =>
    if e.2.seenAt + 7680000 ≤ s.dial then
      .next (((s.setChain { s.chain with routes := SMap.erase s.chain.routes dev }).wr (R.chnRoute_r_valid dev) 0).lostRoute dev)
    else .next s
  | none => .next s

/-! ### TIME packets (R408 to R411) -/

def timeHdr (src which ho tseq thops : Nat) : Nat :=
  0x33 + src * 2 ^ 8 + which * 2 ^ 16 + ho * 2 ^ 17 + tseq * 2 ^ 18 + thops * 2 ^ 30

def tmSrc (h : Nat) : Nat := bits h 15 8
def tmWhich (h : Nat) : Nat := bits h 16 16
def tmHo (h : Nat) : Nat := bits h 17 17
def tmSeq (h : Nat) : Nat := bits h 29 18
def tmHops (h : Nat) : Nat := bits h 35 30

/-- t_Q in 1/256 tick, c and K of a packet. -/
def tmQ (ws : List Nat) : Nat := bits (ws.getD 0 0) 7 0 + 256 * (bits (ws.getD 0 0) 63 8 + bits (ws.getD 1 0) 15 0 * 2 ^ 56)
def tmCorr (ws : List Nat) : Nat := bits (ws.getD 1 0) 63 16
def tmK (ws : List Nat) : Nat := bits (ws.getD 2 0) 47 0

/-- A launch entry of the TIME block; a full queue takes none (log 11). -/
def State.pushTime (s : State) (p : Nat) (e : LqEnt) : State :=
  if 64 ≤ (s.port p).lq.length then s else s.setLq p ((s.port p).lq ++ [e])

def State.secOff (s : State) : Nat := s.rd R.chnSecLo_sec_off_lo + 2 ^ 32 * s.rd R.chnSecHi_sec_off_hi

/-- One TIME packet of this Hive's own on each NEIGHBOUR port. -/
def State.sendTime (s : State) (ho : Nat) : State :=
  let q := (s.chain.tseq + 1) % 4096
  let s := s.setChain { s.chain with tseq := q, timeAt := s.dial + 1 }
  let e : LqEnt :=
    { hdr := timeHdr s.myId (if s.chainRole = 2 then 1 else 0) ho q 0, ws := [0, 0, s.secOff], launch := s.now40, lateOk := false,
      late := false, own := true, fwd := none, at' := s.dial }
  (List.range 8).foldl (fun s p => if s.role p = 0 ∧ s.portUp p then s.pushTime p e else s) s

/-- TIME_SEND. -/
def execTimeSend (t : Nat) (s : State) : Host.Outcome State Fault Refusal :=
  let s := s.at t
  let sends := decide (s.cstate = cSOURCE) || (decide (s.cstate = cMEMBER ∧ s.chainRole = 2) && decide (s.rd R.chnStatus_locked = 1))
  if sends ∧ s.dial % 25600 = 0 ∧ s.chain.timeAt ≤ s.dial then .next (s.sendTime 0) else .next s

/-- HOLDOVER_TIME_SEND. -/
def execHoldoverTimeSend (t : Nat) (s : State) : Host.Outcome State Fault Refusal :=
  let s := s.at t
  if s.cstate = cHOLDOVER ∧ s.chain.timeAt ≤ s.dial then
    .next ((s.sendTime 1).setChain { (s.sendTime 1).chain with timeAt := s.dial + 2560000 })
  else .next s

/-- The first copy of a packet goes on (R410). Numbers of a source come round again, so its last 64 count (DESIGN CHOICE, log 11). -/
def State.forwardTime (s : State) (p : Nat) (x : Pkt) : State :=
  let h := x.hdr
  let key := fun (e : Nat × Nat × Nat) => decide (e.1 = tmSrc h ∧ e.2.1 = tmWhich h)
  let first := !s.chain.seen.contains (tmSrc h, tmWhich h, tmSeq h)
  if s.inChain = false ∨ first = false then s
  else
    let recent := (s.chain.seen.filter key).take 63
    let s := s.setChain
      { s.chain with seen := (tmSrc h, tmWhich h, tmSeq h) :: recent ++ s.chain.seen.filter fun e => !key e }
    if 63 < tmHops h + 1 then s
    else
      let c : Int := (tmCorr x.ws : Int) + s.rd (R.stpLink_delay p) - x.arr
      let e : LqEnt := { hdr := h + 2 ^ 30, ws := x.ws, launch := s.now40, lateOk := false, late := false, own := false, fwd := some c,
                         at' := s.dial }
      (List.range 8).foldl (fun s q => if s.neighbourUp q ∧ q ≠ p then s.pushTime q e else s) s

/-- Packets averaged (R411, R424). -/
def State.avgN (s : State) : Nat := 2 ^ min 8 (s.ard R.chnLoop_tc)

/-- θ̂ of a Queen in 1/256 tick, rounded down. -/
def QueenSt.mean (q : QueenSt) : Int := if q.thetas = [] then 0 else q.thetas.foldl (· + ·) 0 / q.thetas.length

/-- An accepted packet of a Queen. -/
def QueenSt.accept (q : QueenSt) (theta : Int) (n now : Nat) : QueenSt :=
  { q with thetas := (theta :: q.thetas).take n, run := q.run + 1, lastAt := now, okSince := if q.run + 1 = n then now else q.okSince }

/-- `off_a` or `off_b` and the valid bit of a Queen. -/
def State.putQueen (s : State) (b : Bool) (q : QueenSt) : State :=
  let s := s.setChain (if b then { s.chain with qb := q } else { s.chain with qa := q })
  let s := s.wr (if b then R.chnOffB_off_b else R.chnOffA_off_a) (unsigned 32 (satw 32 q.mean))
  if s.avgN ≤ q.run then s.wr (if b then R.chnStatus_b_ok else R.chnStatus_a_ok) 1 else s

/-- |θ̂| is at most `l` / 256 tick. -/
def QueenSt.within (q : QueenSt) (l : Nat) : Bool := decide ((q.thetas.foldl (· + ·) 0).natAbs ≤ l * q.thetas.length)

/-- |θ̂| is below `l` / 256 tick. -/
def QueenSt.below (q : QueenSt) (l : Nat) : Bool := decide ((q.thetas.foldl (· + ·) 0).natAbs < l * q.thetas.length)

/-- `locked` after a packet of the reference (R414), and what it brings a rejoining Queen (R419). -/
def State.judgeLock (s : State) (q : QueenSt) : State :=
  let k := if q.within 32 then s.chain.lockRun + 1 else 0
  let s := s.setChain { s.chain with lockRun := k, fast := s.chain.fast && !q.below 256 }
  let s := if 16 ≤ k then s.wr R.chnStatus_locked 1 else if q.within 64 then s else s.wr R.chnStatus_locked 0
  let mine := (decide (s.chainRole = 1) || decide (s.chainRole = 2 ∧ s.rd R.chnStatus_a_ok = 0)) &&
    (decide (s.rd R.chnStatus_ref = 2) || s.chain.jumped)
  if s.cstate = cMEMBER ∧ s.rd R.chnStatus_locked = 1 ∧ mine then
    let s := s.dropQueens
    (s.wr R.chnStatus_locked 1).setCstate cSOURCE
  else s

/-- The Hive steers on its reference: ρ, `locked`, K. -/
def State.steerOn (s : State) (b : Bool) (ws : List Nat) : State :=
  let ref := s.rd R.chnStatus_ref
  if s.cstate ≠ cMEMBER ∨ ref ≠ (if b then 2 else 1) then s
  else
    let q := if b then s.chain.qb else s.chain.qa
    let s := if s.chainRole = 1 ∧ s.chain.jumped = false ∧ ref = 2 then s
      else (s.wr R.chnSecLo_sec_off_lo (tmK ws)).wr R.chnSecHi_sec_off_hi (tmK ws / 2 ^ 32)
    s.steer.judgeLock q

/-- The Queen that a packet belongs to: known, or the first of its kind; none, with CHAIN_CONFLICT, for another (R411, R416). -/
def State.queenOf (s : State) (h : Nat) : Option Bool × State :=
  let b := decide (tmWhich h = 1)
  let jumpSrc := decide (s.chain.jumped = true)
  let q := if b then s.chain.qb else s.chain.qa
  if tmHo h = 1 then
    if jumpSrc ∧ s.chain.qa.src = some (tmSrc h) then (some false, s)
    else if jumpSrc ∧ s.chain.qb.src = some (tmSrc h) then (some true, s)
    else (none, s)
  else if s.cstate = cSOURCE ∧ s.chainRole = tmWhich h + 1 then (none, s.chnFlag R.chnStatus_chain_conflict)
  else
    match q.src with
    | some d =>
      if d = tmSrc h then (some b, s) else if 2 ≤ s.cstate then (none, s.chnFlag R.chnStatus_chain_conflict) else (none, s)
    | none =>
      let q := { q with src := some (tmSrc h) }
      let s := s.setChain (if b then { s.chain with qb := q } else { s.chain with qa := q })
      (some b, s.showQueens)

/-- TIME: a packet arrives on port p. -/
def State.takeTime (s : State) (p : Nat) (x : Pkt) : State :=
  if s.cstate = cFREE then s
  else
    let s := s.forwardTime p x
    let src := tmSrc x.hdr
    let s := if s.cstate = cJOINING ∧ (s.chain.heard.any fun e => decide (e.1 = src)) = false then
        s.setChain { s.chain with heard := (src, 1 - tmHo x.hdr) :: s.chain.heard } else s
    if s.routeTo src ≠ some p ∨ src = s.myId then s
    else
      let r := s.queenOf x.hdr
      match r.1 with
      | none => r.2
      | some b =>
        let s := r.2
        let theta : Int := (tmQ x.ws : Int) + tmCorr x.ws + s.rd (R.stpLink_delay p) - x.arr
        let q := (if b then s.chain.qb else s.chain.qa).accept theta s.avgN s.dial
        let s := (s.putQueen b q).chainMove
        let s := s.steerOn b x.ws
        if s.chainRole = 1 ∧ b = false ∧ tmHo x.hdr = 0 ∧ s.cstate = cMEMBER then s.chnFlag R.chnStatus_chain_conflict else s

def execTime (t port : Nat) (s : State) : Host.Outcome State Fault Refusal :=
  let s := s.at t
  match s.takePkt port fun x => decide (x.ptype = 3) with
  | none => .next s
  | some (x, s) => .next (s.takeTime port x)

/-- QUEEN_TIMEOUT: 0 Queen A, 1 Queen B. -/
def State.queenTimeout (s : State) (b : Bool) : State :=
  let q := if b then s.chain.qb else s.chain.qa
  let q := { q with run := 0, thetas := [] }
  let s := s.setChain (if b then { s.chain with qb := q } else { s.chain with qa := q })
  (s.wr (if b then R.chnStatus_b_ok else R.chnStatus_a_ok) 0).chainMove

def execQueenTimeout (t which : Nat) (s : State) : Host.Outcome State Fault Refusal :=
  let s := s.at t
  let b := decide (which = 1)
  let q := if b then s.chain.qb else s.chain.qa
  if 0 < q.run ∧ q.lastAt + max 2 (s.ard R.chnLoop_q_to) * 25600 ≤ s.dial then .next (s.queenTimeout b) else .next s

/-- QUEEN_REVERT. -/
def execQueenRevert (t : Nat) (s : State) : Host.Outcome State Fault Refusal :=
  let s := s.at t
  if s.rd R.chnStatus_ref = 2 ∧ s.rd R.chnStatus_a_ok = 1 ∧ s.ard R.chnCtl_revert = 1 ∧
      s.chain.qa.okSince + s.ard R.chnRevert_rev_t * 256000000 ≤ s.dial then .next (s.newRef 1)
  else .next s

/-! ### Joining and forming (R412, R413, R419) -/

/-- The conditions of R412 on sequencers, Combs, capture, UPDATE_AT and transactions. -/
def State.quietHive (s : State) : Bool :=
  s.allHalted && ((List.range 64).all fun n => !s.busyComb n) && ((List.range 64).all fun p => decide (s.capNow p = cIDLE)) &&
    (s.strobes.all fun u => !u.at40) &&
    (List.range 16).all fun x => decide (s.txnState x ≠ tPENDING ∧ s.txnState x ≠ tLOCKED ∧ s.txnState x ≠ tCOMMITTED)

/-- How long a Queen listens (R419). -/
def State.listenTime (s : State) : Nat := if s.chainRole = 1 then 256000000 else if s.chainRole = 2 then 512000000 else 0

/-- The Queen to join under: valid on its route port, Queen A where both are, with a measured delay on that port. -/
def State.joinQueen (s : State) : Option QueenSt :=
  let port := fun (q : QueenSt) (v : Nat) => if v = 1 then q.src.bind s.routeTo else none
  let measured := fun (q : QueenSt) (p : Nat) => if s.rd (R.stpLink_ld_valid p) = 1 then some q else none
  match port s.chain.qa (s.rd R.chnStatus_a_ok), port s.chain.qb (s.rd R.chnStatus_b_ok) with
  | some p, _ => measured s.chain.qa p
  | none, some p => measured s.chain.qb p
  | none, none => none

/-- `join_wait` (R412). -/
def State.joinWait (s : State) : Bool := decide (s.cstate = cJOINING) && s.joinQueen.isSome && !s.quietHive

/-- Times that count what has passed, and not the Dial, go on across a step (log 11). -/
def PortSt.shift (x : PortSt) (k : Nat) : PortSt :=
  { x with absentAt := x.absentAt + k, leftAt := x.leftAt + k, pauseAt := x.pauseAt + k, probeAt := x.probeAt + k,
           t1 := x.t1.map (· + 256 * k), grid := x.grid.map fun (g : Nat × Nat) => (g.1 + 5 * k, g.2 + 5 * k),
           lq := x.lq.map fun (e : LqEnt) => { e with at' := e.at' + k } }

def QueenSt.shift (q : QueenSt) (k : Nat) : QueenSt :=
  { q with okSince := q.okSince + k, lastAt := q.lastAt + k, thetas := q.thetas.map fun (d : Int) => d - 256 * (k : Int) }

def ChainSt.shift (x : ChainSt) (k : Nat) : ChainSt :=
  { x with annAt := x.annAt + k, timeAt := x.timeAt + k, joinAt := x.joinAt + k, qa := x.qa.shift k, qb := x.qb.shift k,
           routes := x.routes.map fun (e : Nat × RouteSt) => (e.1, { e.2 with seenAt := e.2.seenAt + k }),
           ppsLast := x.ppsLast.map (· + 256 * k) }

def State.shiftTimes (s : State) (k : Nat) : State :=
  { s with
    ports := s.ports.map fun (e : Nat × PortSt) => (e.1, e.2.shift k)
    chain := s.chain.shift k
    cells := s.cells.map fun (e : Nat × CellSt) => (e.1, { e.2 with accTick := e.2.accTick + k })
    accBase := s.accBase + k
    i3c := { s.i3c with ibiFrom := s.i3c.ibiFrom + k, ibiRetry := s.i3c.ibiRetry.map (· + k) }
    svc := { s.svc with muteAt := s.svc.muteAt + k, asleepAt := s.svc.asleepAt + k, wakeAt := s.svc.wakeAt.map (· + k) }
    bias := s.bias.map fun (e : Nat × BiasSt) => (e.1, { e.2 with holdEnd := e.2.holdEnd.map (· + k), ocAt := e.2.ocAt + k })
    combs := s.combs.map fun (e : Nat × CombSt) => (e.1,
      { e.2 with
        settleEnd := e.2.settleEnd.map (· + k), ovrRun := e.2.ovrRun.map fun (o : Nat × Bool) => (o.1 + k, o.2),
        distFrom := e.2.distFrom + k, distTo := e.2.distTo + k, nbrAt := e.2.nbrAt + k })
    wag := { s.wag with
      flight := s.wag.flight.map fun (f : Flight) => { f with time := f.time + k }
      recent := s.wag.recent.map fun (e : Nat × Nat) => (e.1 + k, e.2)
      later := s.wag.later.map fun (e : Nat × Nat) => (e.1 + k, e.2)
      chans := s.wag.chans.map fun (e : Nat × (Nat × Nat)) => (e.1, (e.2.1 + k, e.2.2 + k)) }
    far := s.far.map fun (r : FarRead) => { r with at' := r.at' + k }
    memo := { s.memo with
      ues := s.memo.ues.map fun (e : Nat × Nat) => (e.1, e.2 + k)
      fixes := s.memo.fixes.map fun (e : Nat × Nat) => (e.1, e.2 + k)
      repairs := s.memo.repairs.map fun (e : Nat × Nat) => (e.1, e.2 + k) }
    stmp := s.stmp.map fun (e : Nat × StampSt) => (e.1, { e.2 with conv := e.2.conv.map (· + 256 * k), last := e.2.last.map (· + 256 * k) })
    swm := { s.swm with asks := s.swm.asks.map fun (a : Nat × Nat × Nat) => (a.1, a.2.1, a.2.2 + k) }
    mons := s.mons.map fun (e : Nat × MonSt) => (e.1, { e.2 with cur := e.2.cur.map fun (c : MonConv) => { c with start := c.start + k } })
    thm := { s.thm with hkAt := s.thm.hkAt.map (· + k), mcalAt := s.thm.mcalAt.map (· + k), lamAt := s.thm.lamAt + k }
    cal := { s.cal with
      passAt := s.cal.passAt.map (· + k)
      since := s.cal.since.map fun (e : Nat × Nat) => (e.1, e.2 + k)
      free := s.cal.free.map fun (e : Nat × Nat) => (e.1, e.2 + k) }
    sec := { s.sec with mb := s.sec.mb.map fun (m : MbRun) => { m with since := m.since + k } }
    seqs := s.seqs.map fun (e : Nat × SeqSt) => (e.1, { e.2 with calAt := e.2.calAt + k })
    life := { s.life with seen := s.life.seen + k, dueAt := s.life.dueAt + k } }

/-- The Dial steps (R412, R413). -/
def State.stepDial (s : State) (k : Nat) : State :=
  let s := s.abortUnits
  let s := { s.account.shiftTimes k with dial := (s.dial + k) % 2 ^ 72 }
  let s := ((s.wr R.chnStepLo_step_lo k).wr R.chnStepHi_step_hi (k / 2 ^ 32)).chnFlag R.chnStatus_stepped
  s.flush

/-- Entry to MEMBER: only the chosen Queen counts as reference (R412). -/
def State.enterMember (s : State) : State :=
  let s := (s.setChain { s.chain with stepAt := none, heard := [] }).wr R.chnStatus_join_wait 0
  ((s.newRef s.pickRef).setCstate cMEMBER).showQueens

/-- u of R421: the next PPS_IN edge, predicted from the last one, falls on a second boundary after the step. -/
def State.ppsStep (s : State) : Nat :=
  if s.chainRole = 1 ∧ s.rd R.chnCtl_pps_in_en = 1 then
    match s.chain.ppsLast with
    | some y => (ticksPerSec - (y / 256 + 2 ^ 32) % ticksPerSec) % ticksPerSec
    | none => 0
  else 0

/-- The decision of R412 at the present Dial value D. -/
def State.decideJoin (s : State) : State :=
  match s.joinQueen with
  | none => s
  | some q =>
    if s.quietHive = false then s.wr R.chnStatus_join_wait 1
    else if q.mean < -65536 * 256 then (s.chnFlag R.chnStatus_join_ahead).enterFree
    else if q.mean < 256 then s.enterMember
    else (s.wr R.chnStatus_join_wait 0).setChain { s.chain with stepAt := some (beatUp (s.dial + 1024), (q.mean / 256).toNat) }

/-- JOIN_STEP: the decision, and at its beat the step. -/
def State.joinStep (s : State) : State :=
  match s.chain.stepAt with
  | some (b, k) =>
    if s.dial < b then s
    else
      let form := s.chain.forming
      let s := s.stepDial k
      if form then (s.setChain { s.chain with stepAt := none, forming := false, timeAt := s.dial }).setCstate cSOURCE
      else s.enterMember
  | none => if s.dial < s.chain.joinAt + s.listenTime then s else s.decideJoin

def execJoinStep (t : Nat) (s : State) : Host.Outcome State Fault Refusal :=
  let s := s.at t
  if s.cstate = cJOINING then .next s.joinStep else .next s

/-- FORM_LISTEN_END: nothing heard forms a chain; only holdover heard joins the lowest source (R419). -/
def State.formEnd (s : State) : State :=
  if s.chain.heard = [] then
    if s.quietHive then s.setChain { s.chain with stepAt := some (beatUp (s.dial + 1024), 2 ^ 32 + s.ppsStep), forming := true }
    else s.wr R.chnStatus_join_wait 1
  else if s.chain.heard.all fun e => decide (e.2 = 0) then
    let q := { QueenSt.init with src := (s.chain.heard.map (·.1)).min? }
    s.setChain (if s.chainRole = 1 then { s.chain with qa := q, jumped := true } else { s.chain with qb := q, jumped := true })
  else s

def execFormListenEnd (t : Nat) (s : State) : Host.Outcome State Fault Refusal :=
  let s := s.at t
  if s.cstate = cJOINING ∧ 1 ≤ s.chainRole ∧ s.chain.stepAt = none ∧ s.chain.jumped = false ∧ s.chain.joinAt + s.listenTime ≤ s.dial then
    .next s.formEnd
  else .next s

/-! ### PPS and second boundaries (R421, R422) -/

/-- PPS_IN_EDGE. -/
def State.ppsIn (s : State) : State :=
  let s := s.setChain { s.chain with ppsLast := some (256 * s.dial) }
  if s.cstate ≠ cSOURCE then s
  else
    let r := s.dial % ticksPerSec
    if 25600 < r ∧ r < ticksPerSec - 25600 then s.chnFlag R.chnStatus_pps_bad else s.steer

def execPpsInEdge (t : Nat) (s : State) : Host.Outcome State Fault Refusal :=
  let s := s.at t
  if s.awake ∧ s.chainRole = 1 ∧ s.rd R.chnCtl_pps_in_en = 1 then .next s.ppsIn else .next s

def execSecondBoundary (t : Nat) (s : State) : Host.Outcome State Fault Refusal :=
  let s := s.at t
  if s.awake ∧ s.dial % ticksPerSec = 0 then
    let s := if s.rd R.chnCtl_pps_oe = 1 then s.setSvc { s.svc with ppsOut := true } else s
    .next (s.fireD 90)
  else .next s

def execPpsOutFall (t : Nat) (s : State) : Host.Outcome State Fault Refusal :=
  let s := s.at t
  if s.svc.ppsOut ∧ 2560000 ≤ s.dial % ticksPerSec then .next (s.setSvc { s.svc with ppsOut := false }) else .next s

/-! ### REF_CLK (R69, R418) -/

/-- REF_CLK_LOSS: no edge for 200 ns, or a deviation above 2.5 %. -/
def execRefClkLoss (t absentNs ppm : Nat) (s : State) : Host.Outcome State Fault Refusal :=
  let s := s.at t
  if s.awake ∧ (200 ≤ absentNs ∨ 25000 < ppm) then
    let s := (s.wr R.timeStatus_ref_ok 0).setF R.timeStatus_ref_lost
    let s := if 200 ≤ absentNs ∧ s.rd R.timeStatus_dial_free = 0 then (s.wr R.timeStatus_dial_free 1).abortUnits else s
    .next (s.greenLoss 3)
  else .next s

/-- REF_CLK_RETURN. -/
def execRefClkReturn (t : Nat) (s : State) : Host.Outcome State Fault Refusal :=
  let s := s.at t
  if s.awake ∧ s.rd R.timeStatus_ref_ok = 0 then
    let s := s.wr R.timeStatus_ref_ok 1
    if s.rd R.timeStatus_dial_free = 0 then .next s
    else .next ((s.wr R.timeStatus_dial_free 0).setChain { s.chain with fast := true })
  else .next s

/-- The E fields of the chain at the basic level (R423). -/
def State.deriveChain (s : State) : State :=
  if s.rd R.chnCtl_level = 1 then s
  else ((((s.both R.chnLoop_tc 4).both R.chnLoop_slew 64).both R.chnLoop_q_to 10).both R.chnRevert_rev_t 100).both R.chnCtl_revert 1

end Sys2Proof.Machine
end

