-- ==== Sys2Proof/Machine/HostEvt.lean ====
section
/-! DEFINITION. The event summary, in-band interrupts and nALERT (R58 to R60). -/

namespace Sys2Proof.Machine

def State.setI3c (s : State) (x : I3cSt) : State := { s with i3c := x }

/-- The eight bits of HOST_EVT_SUMMARY. -/
def sumFld (b : Nat) : Fld :=
  if b = 0 then R.hostEvtSummary_sum_state else if b = 1 then R.hostEvtSummary_sum_access
  else if b = 2 then R.hostEvtSummary_sum_mailbox else if b = 3 then R.hostEvtSummary_sum_seq
  else if b = 4 then R.hostEvtSummary_sum_txn else if b = 5 then R.hostEvtSummary_sum_time
  else if b = 6 then R.hostEvtSummary_sum_mon else R.hostEvtSummary_sum_link

def State.summary (s : State) : Nat := (List.range 8).foldl (fun v b => v + s.rd (sumFld b) * 2 ^ b) 0

/-- nALERT follows `summary` and `alert_mask`. -/
def State.showAlert (s : State) : State :=
  s.setI3c { s.i3c with alert := decide (s.summary &&& s.rd R.hostEvtMask_alert_mask ≠ 0) }

/-- The IBI is raised, or one further IBI is noted while one is outstanding. -/
def State.raiseIbi (s : State) : State :=
  if s.i3c.ibiEn = false then s
  else if s.i3c.ibiOut then s.setI3c { s.i3c with ibiMore := true }
  else s.setI3c { s.i3c with ibiOut := true, ibiTry := false, ibiRetry := none }

/-- A summary bit is set: it raises the IBI when it becomes set. -/
def State.setSummary (s : State) (b : Nat) : State :=
  let new := decide (s.rd (sumFld b) = 0)
  let s := s.setF (sumFld b)
  (if new ∧ (s.rd R.hostEvtMask_ibi_mask).testBit b then s.raiseIbi else s).showAlert

/-- The outstanding IBI ends, acknowledged or withdrawn; one that bits set meanwhile ask for is raised. -/
def State.endIbi (s : State) : State :=
  s.setI3c { s.i3c with ibiOut := s.i3c.ibiMore, ibiMore := false, ibiTry := false, ibiRetry := none }

/-- IBI_ATTEMPT: an attempt starts, or the IBI is withdrawn where no enabled bit is set. -/
def execIbiAttempt (t : Nat) (s : State) : Host.Outcome State Fault Refusal :=
  let s := s.at t
  let x := s.i3c
  if s.awake ∧ x.ibiOut ∧ x.ibiEn ∧ x.ibiTry = false ∧ x.ibiRetry = none ∧ x.ibiFrom ≤ s.dial ∧ s.rd R.hostI3cCtl_dyn_valid = 1 then
    let v := s.summary &&& s.rd R.hostEvtMask_ibi_mask
    if v = 0 then .next s.endIbi else .next (s.setI3c { x with ibiTry := true, ibiByte := v, ibiFrom := s.dial })
  else .next s

/-- IBI_ACKNOWLEDGED: the next first attempt comes no sooner than `ibi_holdoff` from here, as the field reads now (DESIGN CHOICE,
log 58). -/
def execIbiAcknowledged (t : Nat) (s : State) : Host.Outcome State Fault Refusal :=
  let s := s.at t
  if s.i3c.ibiTry then
    let s := s.endIbi
    .next (s.setI3c { s.i3c with ibiFrom := s.dial + s.rd R.hostI3cCtl_ibi_holdoff * 25600 })
  else .next s

/-- IBI_NACKED: a retry 50 µs after the attempt began (R60: every 50 µs; DEDUCED, log 25). -/
def execIbiNacked (t : Nat) (s : State) : Host.Outcome State Fault Refusal :=
  let s := s.at t
  if s.i3c.ibiTry then .next (s.setI3c { s.i3c with ibiTry := false, ibiRetry := some (s.i3c.ibiFrom + 1280000) }) else .next s

/-- IBI_RETRY: the 50 µs are over; the next attempt may start. -/
def execIbiRetry (t : Nat) (s : State) : Host.Outcome State Fault Refusal :=
  let s := s.at t
  match s.i3c.ibiRetry with
  | some r => if r ≤ s.dial then .next (s.setI3c { s.i3c with ibiRetry := none, ibiFrom := 0 }) else .next s
  | none => .next s

end Sys2Proof.Machine
end

