-- ==== Sys2Proof/Machine/Waggle.lean ====
section
/-! DEFINITION. Waggle lines: delivery, merging, refractory periods and the consumers (R427 to R436). -/

namespace Sys2Proof.Machine

def State.setWag (s : State) (x : WagSt) : State := { s with wag := x }

/-- `refr` of a channel in ticks, rounded up (R431). -/
def State.refrTicks (s : State) (c : Nat) : Nat := ceilDiv (s.ard (R.wagRefr_refr c) * 256) 10

/-- A consumer that takes an event only outside Sleep (R433). -/
def State.unlessAsleep (s : State) (f : State → Bool × State) : Bool × State := if s.isSleep then (true, s) else f s

/-- The event reaches the consumer of channel c: whether it found it busy, and what it did (R427, R432). -/
def State.consume (s : State) (c : Nat) : Bool × State :=
  if c < 0x40 then
    s.unlessAsleep fun s => (!(decide (s.capNow c = cWAIT) && decide (s.ard (R.capTrig_en_ext c) = 1)), s.capExt c s.dial)
  else if c < 0x80 then (false, s.askLoad (c - 0x40) (s.dial + 1024) none)
  else if c < 0xC0 then
    s.unlessAsleep fun s => ((s.rd (R.seqStatus_ipend (c - 0x80))).testBit 0, s.raiseInt (c - 0x80) 0)
  else if c < 0xD0 then
    s.unlessAsleep fun s => (false, (List.range 64).foldl (fun s n => s.addTrig n (32 + (c - 0xC0)) (256 * s.dial)) s)
  else if c < 0xE0 then
    let ms := (List.range 4).map fun j => 4 * (c - 0xD0) + j
    s.unlessAsleep fun s => (ms.any fun n => decide ((s.mkr n).low ≠ 0), ms.foldl (fun s n => s.forceSet n) s)
  else if c < 0xE5 then
    let r := s.monTrigger (c - 0xE0)
    (!r.1, r.2)
  else if c < 0xED then (false, s.setSummary (c - 0xE5))
  else if c = 0xED then (false, s.wake)
  else if c < 0xFE then
    let u := c - 0xEE
    if (s.isAmber || s.isGreen) ∧ s.rd (R.stpMCmd_busy u) = 0 then (false, s.measGo u) else (true, s)
  else (false, s)

/-- An event is delivered: it counts, starts the refractory period, and acts. -/
def State.wagDeliver (s : State) (c slot : Nat) : State :=
  let s := s.setWag { s.wag with chans := SMap.insert (SMap.erase s.wag.chans c) c (s.dial, s.dial + s.refrTicks c) }
  let s := (s.inc (R.wagCount_ev_count c)).wr (R.wagStat_last_src c) (2 ^ slot)
  let r := s.consume c
  if r.1 then r.2.setF (R.wagStat_overrun c) else r.2

/-- An arrival at the present Dial value: merged, dropped or delivered (R430, R431). -/
def State.wagArrive (s : State) (c slot : Nat) : State :=
  match s.wag.chans.find? fun e => decide (e.1 = c) with
  | some (_, first, till) =>
    if s.dial ≤ first + 16 then
      (s.setF (R.wagStat_coincident c)).wr (R.wagStat_last_src c) (s.rd (R.wagStat_last_src c) ||| 2 ^ slot)
    else if s.dial < till then (s.incSat (R.wagRefr_loop_count c)).setF (R.wagStat_loop c)
    else s.wagDeliver c slot
  | none => s.wagDeliver c slot

/-- WAGGLE_DELIVERY: the event that entered channel c first reaches its consumer. -/
def execWaggleDelivery (t ch : Nat) (s : State) : Host.Outcome State Fault Refusal :=
  let s := s.at t
  match s.wag.flight.find? fun f => decide (f.ch = ch) with
  | none => .next s
  | some f =>
    if s.awake then .next ((s.setWag { s.wag with flight := s.wag.flight.erase f }).wagArrive ch f.slot) else .next s

/-- `fire`: an event of slot 15. -/
def State.wagFire (s : State) (c : Nat) : State :=
  if (s.ard (R.wagEn_en c)).testBit 15 then
    s.setWag { s.wag with flight := s.wag.flight ++ [⟨s.dial, c, 15⟩], recent := s.recall s.dial (4096 + c) }
  else s.setWag { s.wag with recent := s.recall s.dial (4096 + c) }

def execWaggleFire (t ch : Nat) (s : State) : Host.Outcome State Fault Refusal :=
  let s := s.at t
  if s.awake then .next (s.wagFire ch) else .next s

/-- The slot of channel c that takes the events of a source, among those of a mask. -/
def slotsOf (c src mask : Nat) : List Nat :=
  (List.range 16).filter fun k => mask.testBit k && decide (if k = 15 then src = 4096 + c else srcOf c k = some src)

/-- Each event of a list stays or goes, as the manual leaves open (free, log 2). -/
def State.someOf (s : State) : List Flight → List Flight × State
  | [] => ([], s)
  | f :: fs =>
    let r := State.someOf s fs
    let d := r.2.draw
    (if d.1 % 2 = 0 then r.1 else f :: r.1, d.2)

/-- A new `en` of channel c is active from beat b on. An event of before b that may still be on its way is governed by the old value or
by the new one, and which is not fixed (R429): what only the old one lets through may go, what only the new one does may come. -/
def State.newEnable (s : State) (c old new b : Nat) : State :=
  let span := if s.isSleep then 2560 else 384
  let gone := s.wag.flight.filter fun f => decide (f.ch = c ∧ f.time < b) && !new.testBit f.slot
  let came := (s.wag.recent.filter fun e => decide (e.1 < b ∧ b < e.1 + span)).flatMap fun e =>
    (slotsOf c e.2 (new - (new &&& old))).map fun k => (⟨e.1, c, k⟩ : Flight)
  let kept := s.someOf gone
  let more := kept.2.someOf came
  more.2.setWag
    { s.wag with flight := (s.wag.flight.filter fun f => !gone.contains f) ++ kept.1 ++ more.1 }

/-- REFRACTORY_END: the period of channel c is over. -/
def execRefractoryEnd (t ch : Nat) (s : State) : Host.Outcome State Fault Refusal :=
  let s := s.at t
  match s.wag.chans.find? fun e => decide (e.1 = ch) with
  | some (_, _, till) => if till ≤ s.dial then .next (s.setWag { s.wag with chans := SMap.erase s.wag.chans ch }) else .next s
  | none => .next s

/-- The basic level (R434). -/
def State.deriveWag (s : State) : State :=
  if s.rd R.wagCtl_level = 1 then s else (List.range 256).foldl (fun s c => s.both (R.wagRefr_refr c) 100) s

end Sys2Proof.Machine
end

