-- ==== Sys2Proof/Machine/Apply.lean ====
section
/-! DEFINITION. Values that reach registers: clamps, what a write of an RW field sets off, the activation of CFG fields, UPDATE
strobes and UPDATE_AT, and the application of a transaction (R4, R48 to R54, R236 to R242, R250, R253, R254). -/

namespace Sys2Proof.Machine

/-! ### Where a word stands in its block -/

def WordRef.off (w : WordRef) : Nat :=
  match w.blk with
  | .comb => w.addr % 0x4000
  | .elv => w.addr % 0x1000
  | .frontx | .elvx | .monx => w.addr % 0x4000000
  | .hive | .host | .wag | .time | .txn | .mem | .mon | .cal | .sec | .front | .stp | .cap => w.addr % 0x10000

def within (o lo hi : Nat) : Bool := decide (lo ≤ o ∧ o < hi)

/-- CELL_BANK_LO and CELL_BANK_HI stand for the selected bank entry and hold nothing themselves (R128). -/
def WordRef.bankPort (w : WordRef) : Bool := decide (w.blk = .comb ∧ (w.off = 0xA44 ∨ w.off = 0xA48))

/-- The lane whose frequency a word holds, and the word's half (R205). -/
def WordRef.laneHalf (w : WordRef) : Option (Nat × Nat) :=
  if w.blk = .comb ∧ within w.off 0xC40 0xCC0 ∧ w.off % 16 < 8 then some (8 * w.bi + (w.off - 0xC40) / 16, w.off % 16 / 4) else none

def laneMark (g : Nat) : Nat := 2 ^ 20 + g

/-! ### Clamps (R86, R87, R126, R214, R276, R436, R457, R462) -/

/-- The limits of a field's value, and the flag that a clamp sets. -/
def limitsOf (w : WordRef) (f : FieldDef) : Option (Nat × Nat × Option Fld) :=
  let o := w.off
  match w.blk with
  | .hive => if o = 0x104 ∧ f.lo = 0 then some (1638, 51200, some R.decStatus_hzn_clamp) else none
  | .frontx => if o < 0x200 ∧ o % 16 = 0 ∧ f.lo = 0 then some (10, 200, none) else none
  | .comb => if within o 0x900 0xA00 ∧ o % 32 = 24 ∧ f.lo = 16 then some (16, 256, none) else none
  | .mon =>
    if o = 0x100 ∧ f.lo = 0 then some (100, 520, none)
    else if o = 0x100 ∧ f.lo = 16 then some (60, 110, none)
    else if o = 0x100 ∧ f.lo = 24 then some (60, 95, none)
    else none
  | .wag => if within o 0x1000 0x2000 ∧ o % 16 = 4 ∧ f.lo = 0 then some (4, 1000000, none) else none
  | .host | .time | .txn | .mem | .cal | .sec | .elv | .front | .stp | .cap | .elvx | .monx => none

/-- `frac` is signed: −32 to +32 (R86). -/
def fracClamp (v : Nat) : Nat :=
  let x := signed 7 v
  if x < -32 then unsigned 7 (-32) else if 32 < x then 32 else v

/-- A value as the field takes it, and the state with the flag that a clamp sets. -/
def State.clamped (s : State) (w : WordRef) (f : FieldDef) (v : Nat) : Nat × State :=
  if w.blk = .time ∧ within w.off 0x100 0x300 ∧ f.lo = 0 then
    (fracClamp v, if fracClamp v = v then s else s.setF R.timeStatus_frac_clamp)
  else
    match limitsOf w f with
    | none => (v, s)
    | some (lo, hi, flag) =>
      (clampN v lo hi, if clampN v lo hi = v then s else match flag with | some x => s.decFlag x | none => s)

/-! ### The basic level (R4) -/

/-- `lead_margin` follows `lead_guard` (R80). -/
def State.deriveTime (s : State) : State :=
  if s.rd R.timeCtl_level = 1 then s else s.wr R.timeLead_lead_margin s.leadMargin

/-- Back at the basic level, a `frac` that differs from its calibration waits for a boundary (R87). -/
def State.askFrac (s : State) : State := (List.range 64).foldl (fun s n => s.askCal n !(s.rampsOf n).isEmpty) s

/-- The pins read back as zero at the basic level (R231). -/
def State.deriveDec (s : State) : State :=
  if s.rd R.decCtl_level = 1 then s
  else
    ((List.range 64).foldl (fun s k => (s.both (R.decPin_pin_tag k) 0).both (R.decPin_pin_en k) 0) s).resubscribe s.wantedTags

/-- The E fields that the level in the word at offset `w.off` governs follow the B fields. -/
def State.deriveAt (s : State) (w : WordRef) : State :=
  let o := w.off
  match w.blk with
  | .hive => s.deriveDec
  | .comb =>
    if o = 0x800 then (s.settle w.bi).deriveCells w.bi else if o = 0xC00 then (s.keepLanes w.bi s.dial).deriveReadout w.bi else if o = 0x400 then s.deriveBias w.bi
    else if o = 0xE00 then s.deriveMark w.bi else s
  | .front => s.deriveFront w.bi
  | .elv => s.deriveElv w.bi
  | .time => if o = 0x400 then s.deriveChain else s.deriveTime.askFrac
  | .txn => s.deriveTxn
  | .mem => s.deriveMem
  | .mon => s.deriveMon
  | .cal => s.deriveCal
  | .stp => s.deriveStamps
  | .cap => s.deriveCap
  | .wag => s.deriveWag
  | .host | .sec | .frontx | .elvx | .monx => s

/-- A field that selects a level. -/
def WordRef.isLevel (w : WordRef) (f : FieldDef) : Bool :=
  let o := w.off
  decide (f.lo = 0 ∧ f.ty = .rw) &&
    (match w.blk with
      | .hive => decide (o = 0x100)
      | .comb => decide (o = 0 ∨ o = 0x800 ∨ o = 0xC00 ∨ o = 0x400 ∨ o = 0xE00)
      | .time => decide (o = 0 ∨ o = 0x400)
      | .front | .elv | .txn | .mem | .mon | .cal | .stp | .cap | .wag => decide (o = 0)
      | .host | .sec | .frontx | .elvx | .monx => false)

/-! ### Writes of RW and reserved fields -/

/-- The seconds offset has been written on Queen A (R420, R477). -/
def WordRef.isSecOff (w : WordRef) : Bool := decide (w.blk = .time ∧ (w.off = 0x428 ∨ w.off = 0x42C))

/-- What the new value of an RW field sets off; `old` is the value before. -/
def State.afterRw (s : State) (w : WordRef) (f : FieldDef) (old : Nat) : State :=
  let o := w.off
  if w.isLevel f then (if old = 1 ∧ s.rd (w.fld f) = 0 then s.deriveAt w else s)
  else
    match w.blk with
    | .hive => if o = 8 ∧ f.lo = 0 then s.amberRf else s
    | .host => if o = 0x10 then s.showAlert else s
    | .time =>
      if o = 0x20 ∧ f.lo = 0 then s.deriveTime
      else if o = 0x400 ∧ f.lo = 4 ∧ s.rd (w.fld f) = 0 then s.setSvc { s.svc with ppsOut := false }
      else if w.isSecOff ∧ f.lo = 0 then s.setLife { s.life with secSet := true }
      else s
    | .comb =>
      if o = 0 ∧ f.lo = 16 then s.interruptWait w.bi
      else if o = 0xC1C ∧ f.lo = 0 then s.wr (w.fld f) (s.rd (w.fld f) % s.ringSize w.bi) else s
    | .mem => if within o 0x40 0xA0 ∧ o % 16 = 4 ∧ f.lo = 0 then s.deriveMem else s
    | .cap => if within o 0x1000 0x2000 ∧ o % 0x40 = 0xC then s.capAdvance ((o - 0x1000) / 0x40) old else s
    | .wag | .txn | .mon | .cal | .sec | .elv | .front | .stp | .frontx | .elvx | .monx => s

/-- A field takes writes: E fields only at the expert level (R4), reserved fields as given (R38), `sec_off` on Queen A (R420),
the mailbox while it is not busy (R66), the requests of regions 0 and 1 never (R368). -/
def State.takesWrite (s : State) (w : WordRef) (f : FieldDef) : Bool :=
  if f.ty = .rsv then true
  else if f.expert ∧ s.expert w = false then false
  else if w.isSecOff then decide (s.chainRole = 1)
  else if w.blk = .mem ∧ within w.off 0x40 0x60 then false
  else if w.blk = .host ∧ within w.off 0x100 0x2000 then decide (s.rd R.hostMbStatus_busy = 0)
  else true

/-- A value for an RW or reserved field. A reserved field holds what was last written to it; it never changes by itself, and no
test control has an effect (DESIGN CHOICE, log 58). -/
def State.putRw (s : State) (w : WordRef) (f : FieldDef) (v : Nat) : State :=
  if s.takesWrite w f then
    let old := s.rd (w.fld f)
    let c := s.clamped w f v
    (c.2.wr (w.fld f) c.1).afterRw w f old
  else s

/-- A write of a CFG field lands in the shadow (R48); the halves of a lane's frequency are marked (R205). -/
def State.putShadow (s : State) (w : WordRef) (f : FieldDef) (v : Nat) : State :=
  if s.takesWrite w f then
    let c := s.clamped w f v
    let s := c.2.wr (w.fld f) c.1
    match w.laneHalf with
    | some (g, h) => if f.lo = 0 then s.mark (laneMark g) (2 ^ h) else s
    | none => s
  else s

/-! ### Activation (R48 to R52) -/

/-- The word and field of a CFG key. -/
def cfgOf (k : Nat) : Option (WordRef × FieldDef) :=
  match lookupWord (k / 32) with
  | none => none
  | some w =>
    if w.bankPort then none else (w.fields.find? fun f => decide (f.lo = k % 32 ∧ f.ty = .cfg)).map fun f => (w, f)

/-- A field whose value becomes active: the word, the field, the value before and the new one. -/
structure NewCfg where
  w : WordRef
  f : FieldDef
  old : Nat
  v : Nat
  deriving DecidableEq, Repr

def State.newCfg (s : State) (e : Nat × Nat) : Option NewCfg :=
  (cfgOf e.1).map fun x => ⟨x.1, x.2, s.ard (x.1.fld x.2), e.2⟩

/-- What happens with the old values before the new ones stand: clip reports and marker edges up to now, the accumulator of a
Cell whose mode changes (R103, R127, R329). -/
def State.preActive (s : State) (b : Nat) (c : NewCfg) : State :=
  if c.old = c.v then s
  else
    match c.w.blk with
    | .comb =>
      let o := c.w.off
      let s := if within o 0x800 0xA50 then s.settleTo c.w.bi b else s
      let s := if within o 0xC40 0xCC0 ∨ within o 0x2000 0x4000 then s.keepLanes c.w.bi b else s
      let s := if within o 0xE00 0xE60 then s.markRunTo c.w.bi (16 * b) else s
      if within o 0x900 0xA00 ∧ o % 32 = 0 ∧ c.f.lo = 2 then s.anchorAcc c.w.bi ((o - 0x900) / 32) b else s
    | .cap => if within c.w.off 0x1000 0x2000 then s.capSettle ((c.w.off - 0x1000) / 0x40) b else s
    | _ => s

/-- The spans of speculative PLAYs that start at beat b or later take the ports of the new routing (R217). -/
def State.followRoutes (s : State) (n b : Nat) : State :=
  s.setComb n
    { s.comb n with specs := (s.comb n).specs.map fun x =>
        if b ≤ x.ts then
          { x with ports := x.ends.foldl (fun m e => match s.routePort n e.1 with | some p => m ||| 2 ^ p | none => m) 0 }
        else x }

/-- What a new active value sets off. A strobe that activates route = 3 sets ROUTE_ERR each time, where the value was 3 before too
(DESIGN CHOICE, log 61) (R49, R110, R175, R201, R223, R266, R269, R316, R329, R335, R440, R445, R457). -/
def State.postActive (s : State) (b : Nat) (c : NewCfg) : State :=
  let o := c.w.off
  let n := c.w.bi
  let changed := decide (c.old ≠ c.v)
  match c.w.blk with
  | .comb =>
    if within o 0x900 0xA00 ∧ o % 32 = 0 ∧ c.f.lo = 0 then
      let s := if c.v = 3 then s.setF (R.cellStatus_route_err n ((o - 0x900) / 32)) else s
      if changed then (s.newRoute n ((o - 0x900) / 32)).followRoutes n b |>.deriveCells n else s
    else if changed = false then s
    else if o = 0x34 then s.newBarriers n
    else if within o 0x40 0x4C ∧ c.f.lo = 15 then s.interruptWait n
    else if within o 0x1000 0x2000 then (if s.rd (R.rdCtl_level n) = 1 then s else s.deriveSet n ((o - 0x1000) / 16))
    else if within o 0x2000 0x4000 then
      (if s.rd (R.rdCtl_level n) = 1 then s else s.deriveProf n ((o - 0x2000) / 0x400) ((o - 0x2000) % 0x400 / 0x40))
    else s
  | .frontx =>
    if changed = false then s
    else if o < 0x200 ∧ o % 16 = 0 ∧ c.f.lo = 10 then s.dacMute (32 * n + o / 16)
    else if within o 0x400 0x500 ∧ o % 16 = 0 then s.bandChange (16 * n + (o - 0x400) / 16) b
    else if within o 0x500 0x600 ∧ c.f.lo = 0 then (s.changeRange (64 * n + (o - 0x500) / 4) b).monRange (64 * n + (o - 0x500) / 4)
    else s
  | .txn => if changed then s.deriveTxn else s
  | .mon => if changed ∧ o = 0x100 ∧ c.f.lo = 0 then s.showLimit else s
  | .monx =>
    if changed ∧ o = 0x120 ∧ c.f.lo = 7 ∧ c.v = 1 then s.monRun n b
    else if changed ∧ within o 0x400 0x1680 ∧ o % 0x40 = 0x10 ∧ c.f.lo = 23 then s.newZone n ((o - 0x400) / 0x40)
    else s
  | .stp =>
    if changed = false ∨ within o 0x100 0x300 = false ∨ o % 16 ≠ 0 then s
    else if c.f.lo = 0 ∧ c.v = 1 then s.stampEnabled ((o - 0x100) / 16)
    else if c.f.lo = 8 ∨ c.f.lo = 16 then s.stampRetune ((o - 0x100) / 16)
    else s
  | .wag => if changed ∧ within o 0x1000 0x2000 ∧ o % 16 = 0 then s.newEnable ((o - 0x1000) / 16) c.old c.v b else s
  | .hive | .host | .time | .mem | .cal | .sec | .elv | .front | .cap | .elvx => s

def NewCfg.at (c : NewCfg) (b : Blk) (p : Nat → Bool) : Bool := decide (c.w.blk = b) && p c.w.off && decide (c.old ≠ c.v)

/-- `hold` of a marker takes its new value with its own effect (R329). -/
def NewCfg.isHold (c : NewCfg) : Bool := decide (c.w.blk = .comb ∧ c.w.off = 0xE00 ∧ c.f.lo = 1)

/-- An E field that the device derives at present: what was captured of it at the expert level does not become active (R4). What
belongs to the level of a sequencer is the program's. -/
def State.derives (s : State) (c : NewCfg) : Bool := c.f.expert && !s.expert c.w && decide (c.w.lvl ≠ .seq)

/-- New active values stand together from beat b on. -/
def State.activate (s : State) (b : Nat) (vs : List (Nat × Nat)) : State :=
  let cs := (vs.filterMap fun e => s.newCfg e).filter fun c => !s.derives c
  let roles := (List.range 8).map fun p => s.role p
  let named := s.wantedTags
  let s := cs.foldl (fun s c => s.preActive b c) s
  let s := cs.foldl (fun s c => if c.isHold then s else s.awr (c.w.fld c.f) c.v) s
  let s := cs.foldl (fun s c => if c.isHold ∧ c.old ≠ c.v then s.newHold c.w.bi c.v b else s) s
  let s := cs.foldl (fun s c => s.postActive b c) s
  let rings := (cs.filter fun c => c.at .comb fun o => decide (o = 0xC10 ∨ o = 0xC14)).map fun c => c.w.bi
  let same := (cs.filter fun c => decide (c.w.blk = .comb ∧ (c.w.off = 0xC10 ∨ c.w.off = 0xC14))).map fun c => c.w.bi
  let s := same.eraseDups.foldl (fun s n => s.latchRing n) s
  let s := rings.eraseDups.foldl (fun s n => s.newRing n) s
  let s := if same = [] then s else s.checkRings
  let s :=
    if cs.any fun c => (c.at .comb fun o => within o 0x200 0x400) || (c.at .hive fun o => within o 0x200 0x300) then s.resubscribe named else s
  let ports := (cs.filter fun c => c.at .elv fun o => decide (o = 0)).map fun c => c.w.bi
  let s := ports.eraseDups.foldl (fun s p => s.portChange p (roles.getD p 0)) s
  if cs.any fun c => c.at .cap fun o => within o 0x1000 0x2000 then s.deriveCap else s

/-! ### Targets of one beat (R52, R238) -/

def bankTarget (k : Nat) : Nat := 2 ^ 60 + k
def descTarget (i : Nat) : Nat := 2 ^ 61 + i
def biasTarget (o : Nat) : Nat := 2 ^ 62 + o
def calTarget (x : Nat) : Nat := 2 ^ 63 + x

/-- A commit that wins against request `no` has written the target at beat b. -/
def State.taken (s : State) (b no target : Nat) : Bool :=
  decide (s.lastApply.1 = b) && s.lastApply.2.any fun e => decide (e.1 = target ∧ no < e.2)

/-- Request `no` writes a target at beat b. -/
def State.take (s : State) (b no target : Nat) : State :=
  { s with lastApply := if s.lastApply.1 = b then (b, s.lastApply.2 ++ [(target, no)]) else (b, [(target, no)]) }

/-- Some commit has written the target at beat b. -/
def State.committed (s : State) (b target : Nat) : Bool :=
  decide (s.lastApply.1 = b) && s.lastApply.2.any fun e => decide (e.1 = target)

/-! ### UPDATE (R50 to R54) -/

/-- Every shadow of the domains in a mask that an activation takes; of a lane's frequency, where both halves are marked. -/
def State.shadowsOf (s : State) (mask : Nat) : List (Nat × Nat) :=
  ((s.regs ++ s.act).map (·.1)).eraseDups.filterMap fun k =>
    match cfgOf k with
    | none => none
    | some (w, f) =>
      let whole := match w.laneHalf with | some (g, _) => decide (SMap.get 0 s.marks (laneMark g) = 3) | none => true
      if mask.testBit (s.domainOf w) && whole then some (k, s.rd (w.fld f)) else none

def State.combDomain (s : State) (n : Nat) : Nat := s.rd (R.seqCtl_domain n)

/-- The Comb of a mark's key. -/
def markComb (k : Nat) : Nat := if k < 2 ^ 20 then k / 2048 else (k - 2 ^ 20) / 8

/-- Both halves are marked, in a domain of the mask. -/
def State.wholeMarks (s : State) (mask : Nat) : List Nat :=
  (s.marks.filter fun e => decide (e.2 = 3) && mask.testBit (s.combDomain (markComb e.1))).map (·.1)

/-- The shadows of one strobe are captured; the marks of what it takes clear. -/
def State.capture (s : State) (x : Strobe) : Strobe × State :=
  let whole := s.wholeMarks x.mask
  let y := { x with
    shadows := some (s.shadowsOf x.mask)
    banks := some ((whole.filter fun k => decide (k < 2 ^ 20)).map fun k => (k, SMap.get 0 s.bank k)) }
  (y, { s with marks := s.marks.filter fun e => !whole.contains e.1 })

/-- Strobes in the order in which they capture: an UPDATE_AT, which a cancel may still stop, after the others. -/
def captureOrder (l : List Strobe) : List Strobe := (l.filter fun x => !x.at40) ++ l.filter fun x => x.at40

def State.captureDue (s : State) (p : Strobe → Bool) : State :=
  let r := (captureOrder s.strobes).foldl
    (fun (a : List Strobe × State) x =>
      if x.shadows = none ∧ p x then
        let c := a.2.capture x
        (a.1 ++ [c.1], c.2)
      else (a.1 ++ [x], a.2)) ([], s)
  { r.2 with strobes := r.1 }

/-- SHADOW_CAPTURE: B − 512 is reached. -/
def execShadowCapture (t : Nat) (s : State) : Host.Outcome State Fault Refusal :=
  let s := s.at t
  if s.awake then .next (s.captureDue fun x => decide (x.beat ≤ s.dial + 512)) else .next s

def State.strobe (s : State) (mask : Nat) (at40 : Bool) (beat : Nat) : State :=
  { s with strobes := s.strobes ++ [⟨beat, mask, at40, none, none⟩] }

/-- A write of HIVE_UPDATE. -/
def State.updateStrobe (s : State) (mask : Nat) : State := if mask = 0 then s else s.strobe (mask % 2 ^ 32) false (beatUp (s.dial + 1024))

def execUpdateStrobe (t mask : Nat) (s : State) : Host.Outcome State Fault Refusal :=
  let s := s.at t
  if s.awake then .next (s.updateStrobe mask) else .next s

/-- `arm` of HIVE_UPD_AT_CTL (R53, R54). -/
def State.updateAtArm (s : State) : State :=
  if s.rd R.hiveUpdAtCtl_pending = 1 then s.wr R.hiveUpdAtCtl_result rBUSY
  else
    let mask := s.rd R.hiveUpdAtMask_at_mask
    let t := expand40 (s.rd R.hiveUpdAtLo_at_time_lo + 2 ^ 32 * s.rd R.hiveUpdAtHi_at_time_hi) s.dial
    if t ≤ s.dial + 1024 then ((s.updateStrobe mask).setF R.hiveUpdAtCtl_upd_late).wr R.hiveUpdAtCtl_result rOK
    else ((s.strobe mask true (beatUp t)).wr R.hiveUpdAtCtl_pending 1).wr R.hiveUpdAtCtl_result rOK

def execUpdateAtArm (t : Nat) (s : State) : Host.Outcome State Fault Refusal :=
  let s := s.at t
  if s.awake then .next s.updateAtArm else .next s

/-- The marks of the lanes whose frequency is among new active values. -/
def laneMarksOf (l : List (Nat × Nat)) : List Nat :=
  l.filterMap fun (e : Nat × Nat) =>
    match cfgOf e.1 with
    | some (w, _) => w.laneHalf.map fun (h : Nat × Nat) => laneMark h.1
    | none => none

/-- The marks that a capture cleared stand again. -/
def State.restoreMarks (s : State) (x : Strobe) : State :=
  (laneMarksOf (x.shadows.getD []) ++ (x.banks.getD []).map (·.1)).foldl (fun s k => (s.mark k 1).mark k 2) s

/-- `cancel` of HIVE_UPD_AT_CTL. -/
def State.updateAtCancel (s : State) : State :=
  match s.strobes.find? fun x => x.at40 && decide (s.dial < x.beat) with
  | none => s.wr R.hiveUpdAtCtl_result rSTATE
  | some x =>
    let s := s.restoreMarks x
    ({ s with strobes := s.strobes.filter fun x => !x.at40 }.wr R.hiveUpdAtCtl_pending 0).wr R.hiveUpdAtCtl_result rOK

def execUpdateAtCancel (t : Nat) (s : State) : Host.Outcome State Fault Refusal :=
  let s := s.at t
  if s.awake then .next s.updateAtCancel else .next s

/-- The Bias groups that an UPDATE of their `ld_dom` loads (R309). -/
def State.gangLoads (s : State) (mask beat : Nat) : State :=
  (List.range 64).foldl
    (fun s n => if s.rd (R.biasCtl_ld_gang n) = 1 ∧ mask.testBit (s.rd (R.biasCtl_ld_dom n)) then s.loadGroup n beat else s) s

/-- The result rings of the Combs that a strobe activates refer to their region's start (R350). -/
def State.latchRings (s : State) (mask : Nat) : State :=
  if (List.range 64).any fun n => decide ((s.comb n).resStart ≠ s.rgnStart 3) && mask.testBit (s.combDomain n) then
    ((List.range 64).foldl (fun s n => if mask.testBit (s.combDomain n) then s.latchRing n else s) s).checkRings
  else s

/-- One strobe applies at its beat; a commit of the same beat wins (R52). -/
def State.applyStrobe (s : State) (x : Strobe) : State :=
  let s := s.latchRings x.mask
  let s := s.activate x.beat ((x.shadows.getD []).filter fun e => !s.committed x.beat e.1)
  let s := (x.banks.getD []).foldl (fun s e => if s.committed x.beat (bankTarget e.1) then s else s.applyBank e.1 e.2 x.beat) s
  let s := s.gangLoads x.mask x.beat
  (if x.at40 then s.wr R.hiveUpdAtCtl_pending 0 else s).fireD 95

def insertStrobe (a : Strobe) : List Strobe → List Strobe
  | [] => [a]
  | b :: bs => if a.beat < b.beat then a :: b :: bs else b :: insertStrobe a bs

/-- UPDATE_APPLY: every strobe whose beat has come, in the order of the beats. -/
def execUpdateApply (t : Nat) (s : State) : Host.Outcome State Fault Refusal :=
  let s := s.at t
  if s.awake = false then .next s
  else
    let s := s.captureDue fun x => decide (x.beat ≤ s.dial)
    let due := (s.strobes.filter fun x => decide (x.beat ≤ s.dial)).foldl (fun acc x => insertStrobe x acc) []
    let s := { s with strobes := s.strobes.filter fun x => ¬ x.beat ≤ s.dial }
    .next (due.foldl (fun s x => s.applyStrobe x) s)

/-! ### Transactions (R236, R242, R250, R253, R254) -/

/-- One word of a REG or RUN entry: its RW and reserved fields at once; its CFG fields into the shadow, to become active with
the rest. -/
def State.entryWord (s : State) (b no : Nat) (a data : Nat) : State × List (Nat × Nat) :=
  match lookupWord a with
  | none => (s, [])
  | some w =>
    w.fields.foldl
      (fun (x : State × List (Nat × Nat)) f =>
        let k := (w.fld f).key
        let v := f.part data
        if w.bankPort ∨ x.1.taken b no k then x
        else if f.ty = .rw ∨ f.ty = .rsv then ((x.1.putRw w f v).take b no k, x.2)
        else if f.ty = .cfg ∧ x.1.takesWrite w f then
          let s := (x.1.putShadow w f v).take b no k
          (s, x.2 ++ [(k, s.rd (w.fld f))])
        else x) (s, [])

/-- A word of the bank port stands for a half of the entry that CELL_BANK_SEL selects (R128): the entry's target. -/
def State.entryBankPort (s : State) (b no : Nat) (a data : Nat) : State × List (Nat × Nat) :=
  match lookupWord a with
  | none => (s, [])
  | some w =>
    let k := bankTarget (s.bankKey w.bi)
    if w.bankPort = false ∨ s.taken b no k then (s, [])
    else ((if w.off = 0xA44 then s.bankLo w.bi data else s.bankHi w.bi data).take b no k, [(k, 0)])

/-- A BANK entry carries both halves (R128, R236). -/
def State.entryBank (s : State) (b no : Nat) (e : Entry) : State × List (Nat × Nat) :=
  let k := (e.target / 256 % 8 + 8 * (e.target / 2048)) * 256 + e.target % 256
  if s.taken b no (bankTarget k) then (s, [])
  else
    let v := e.data.getD 0 0 + e.data.getD 1 0 % 2 ^ 16 * 2 ^ 32
    (({ s with bank := SMap.set 0 s.bank k v }.mark k 3).take b no (bankTarget k), [(bankTarget k, 0)])

/-- Halves of lane frequencies among new active values: they wait until both halves are marked (R205). -/
def State.laneReady (s : State) (e : Nat × Nat) : Bool :=
  match cfgOf e.1 with
  | some (w, _) => (match w.laneHalf with | some (g, _) => decide (SMap.get 0 s.marks (laneMark g) = 3) | none => true)
  | none => false

/-- The newest of the values that are to become active win. -/
def laterWins (old new : List (Nat × Nat)) : List (Nat × Nat) := (old.filter fun o => !(new.any fun n => decide (n.1 = o.1))) ++ new

/-- What REG, RUN and BANK entries write, in staging order, and what is to become active of it: later entries win (R238). -/
def State.regEntries (s : State) (b no : Nat) (es : List Entry) : State × List (Nat × Nat) :=
  es.foldl
    (fun (x : State × List (Nat × Nat)) e =>
      if e.kind = 2 then
        let r := x.1.entryBank b no e
        (r.1, laterWins x.2 r.2)
      else if 2 < e.kind then x
      else
        (List.range e.data.length).foldl
          (fun (x : State × List (Nat × Nat)) i =>
            let a := e.target + 4 * i
            let p := x.1.entryBankPort b no a (e.data.getD i 0)
            let r := p.1.entryWord b no a (e.data.getD i 0)
            (r.1, laterWins x.2 (p.2 ++ r.2))) x) (s, [])

/-- A bank entry written by its halves becomes active at beat b where both halves are marked. -/
def State.applyWhole (s : State) (b : Nat) (e : Nat × Nat) : State :=
  let k := e.1 - bankTarget 0
  if bankTarget 0 ≤ e.1 ∧ e.1 < descTarget 0 ∧ SMap.get 0 s.marks k = 3 then s.applyBank k (SMap.get 0 s.bank k) b else s

/-- Both halves of a lane's frequency, from the shadow. -/
def State.lanePair (s : State) (m : Nat) : List (Nat × Nat) :=
  let g := m - laneMark 0
  [R.rdLaneFLo_f_lo (g / 8) (g % 8), R.rdLaneFHi_f_hi (g / 8) (g % 8)].map fun f => (f.key, s.rd f)

/-- A DESC, BIAS or CAL entry. -/
def State.otherEntry (s : State) (b no : Nat) (e : Entry) : State :=
  if e.kind = 3 then
    if s.taken b no (descTarget e.target) then s
    else (s.writeChunks (s.rgnStart 0 + 32 * e.target) (e.data.flatMap fun w => leBytes 4 w)).take b no (descTarget e.target)
  else if e.kind = 4 then
    if s.taken b no (biasTarget e.target) then s
    else (s.biasEntry e.target (e.data.getD 0 0 % 2 ^ 20) b).take b no (biasTarget e.target)
  else if e.kind = 5 then
    if s.taken b no (calTarget e.target) then s
    else (s.calApply e.target (calNum e.target (e.data.getD 0 0))).take b no (calTarget e.target)
  else s

/-- Entries apply at beat b; a lane's frequency applies with both its halves, the one written earlier from its shadow (R205). -/
def State.applyEntries (s : State) (b no : Nat) (es : List Entry) : State :=
  let r := s.regEntries b no es
  let vs := r.2.filter fun e => r.1.laneReady e
  let lanes := (laneMarksOf vs).eraseDups
  let s := r.1.activate b (laterWins vs (lanes.flatMap fun m => r.1.lanePair m))
  let s := { s with marks := s.marks.filter fun e => !lanes.contains e.1 }
  let s := r.2.foldl (fun s e => s.applyWhole b e) s
  es.foldl (fun s e => s.otherEntry b no e) s

/-- Combs of a SHOT-mode swarm commit with a shot still open at B, overlapping ones too, take the change in mid-shot (R250). -/
def State.shotSplit (s : State) (x b : Nat) : State :=
  (List.range 64).foldl
    (fun s n =>
      if (s.txn x).scope.testBit n then
        (s.seq n).shots.foldl
          (fun s y =>
            if y.s < b ∧ (match s.shotE n y with | some e => decide (b < e) | none => true) = true then
              (s.markShot n (some y.num)).swarmFlag R.txnFlags_shot_split
            else s) s
      else s) s

/-- An image-bound transaction takes effect (R253, R254, R490). -/
def State.imageInForce (s : State) (x b : Nat) : State :=
  match s.sec.bound.find? fun e => decide (e.1 = x) with
  | none => s
  | some (_, g) =>
    let v := s.txn x
    let s := { s with sec := { s.sec with img := g, bound := s.sec.bound.filter fun e => decide (e.1 ≠ x), eqTab := v.eq.getD s.sec.eqTab } }
    let s := (List.range 8).foldl (fun s p => if s.rd (R.elvCtl_level p) = 1 then s else s.showEq p) s
    let s := (List.range 64).foldl
      (fun s n => if v.scope.testBit n then s.setSeq n { s.seq n with settleTo := max (s.seq n).settleTo (b + 16384) } else s) s
    (s.wr R.txnImg_img_run g.slot).enabledLoad

/-- A transaction applies at its beat (R242). In SHOT mode its settling is 0, also where a CAL entry changes `frac` (R82; DESIGN
CHOICE, log 60). -/
def State.applyTxn (s : State) (x b : Nat) : State :=
  let v := s.txn x
  let bound := s.rd (R.txnState_image x) = 1
  let swarm := s.txnState x = tCOMMITTED
  let s := if swarm ∧ v.shot then s.shotSplit x b else s
  let s := s.applyEntries b v.no v.ents
  let s := if v.shot then
      (List.range 64).foldl
        (fun s n => if v.scope.testBit n then s.setSeq n { s.seq n with settleTo := max (s.seq n).settleTo b } else s) s
    else s
  let s := if bound then s.imageInForce x b else s
  let s := if swarm then s.decideRec v.coord v.swarm rOK else s
  ((s.freeTxn x rOK).txnOutcome v.ents).fireD 95

/-- TXN_APPLY: B of transaction x is reached. -/
def execTxnApply (t x : Nat) (s : State) : Host.Outcome State Fault Refusal :=
  let s := s.at t
  if s.txnState x = tPENDING ∨ s.txnState x = tCOMMITTED then
    match s.txnBeat x with
    | some b => if b ≤ s.dial ∧ s.awake then .next (s.applyTxn x b) else .next s
    | none => .next s
  else .next s

end Sys2Proof.Machine
end

