-- ==== Sys2Proof/Machine/Image.lean ====
section
/-! DEFINITION. Triorner images in the flash: header, sections, digest, the checks of a slot (R482 to R487). -/

namespace Sys2Proof.Machine

def slotBase (slot : Nat) : Nat := 0x2000000 + 0x1000000 * slot

/-! ### The header (R483) -/

def State.imgMagic (s : State) (b : Nat) : Nat := s.flashNat b 4
def State.imgFormat (s : State) (b : Nat) : Nat := s.flashNat (b + 4) 2
def State.imgKey (s : State) (b : Nat) : Nat := s.flashNat (b + 6) 1
def State.imgSvn (s : State) (b : Nat) : Nat := s.flashNat (b + 7) 1
def State.imgSeq (s : State) (b : Nat) : Nat := s.flashNat (b + 8) 4
def State.imgFlags (s : State) (b : Nat) : Nat := s.flashNat (b + 12) 4
def State.imgLen (s : State) (b : Nat) : Nat := s.flashNat (b + 16) 4
def State.imgCheck (s : State) (b : Nat) : Nat := s.flashNat (b + 20) 4
def State.imgPubkey (s : State) (b : Nat) : List Byte := s.flashBytes (b + 64) 1312
def State.imgSig (s : State) (b : Nat) : List Byte := s.flashBytes (b + 1376) 2420
def imgBody (b : Nat) : Nat := b + 3840

def zeros (k : Nat) : List Byte := List.replicate k 0#8

def State.zeroFlash (s : State) (a len : Nat) : Bool := (s.flashBytes a len).all fun x => decide (x = 0#8)

/-- Bytes `b` to `b + len − 1` with `check` taken as zero. -/
def State.unchecked (s : State) (b len : Nat) : List Byte := s.flashBytes b 20 ++ zeros 4 ++ s.flashBytes (b + 24) (len - 24)

/-- D of R485. -/
def State.imgDigest (s : State) (b : Nat) : List Byte := sha3 (s.unchecked b 1376 ++ s.flashBytes (imgBody b) (s.imgLen b))

/-! ### Sections (R484) -/

/-- A section: type, address of its data, length. -/
structure Section where
  kind : Nat
  addr : Nat
  len : Nat
  deriving DecidableEq, Repr

/-- The sections from address `a` up to `stop`; none where one is unknown or runs past the end. -/
def State.sectionsFrom (s : State) (stop : Nat) : Nat → Nat → Option (List Section)
  | 0, a => if a = stop then some [] else none
  | fuel + 1, a =>
    if a = stop then some []
    else
      let kind := s.flashNat a 4
      let len := s.flashNat (a + 4) 4
      let next := a + 8 + ceilDiv len 4 * 4
      if kind = 0 ∨ 5 < kind ∨ stop < next then none
      else (State.sectionsFrom s stop fuel next).map fun l => ⟨kind, a + 8, len⟩ :: l

def State.sections (s : State) (b : Nat) : Option (List Section) :=
  let len := s.imgLen b
  s.sectionsFrom (imgBody b + len) (len / 8 + 1) (imgBody b)

def ofKind (k : Nat) (l : List Section) : List Section := l.filter fun x => decide (x.kind = k)

/-- The entries of a CONFIG section; none where one runs past its end. -/
def State.configFrom (s : State) (stop : Nat) : Nat → Nat → Option (List Entry)
  | 0, a => if a = stop then some [] else none
  | fuel + 1, a =>
    if a = stop then some []
    else
      let kind := s.flashNat a 1
      let run := s.flashNat (a + 1) 1
      let k := if kind ≤ 2 then entryLen kind run else 0
      let next := a + 8 + 4 * k
      if stop < next ∨ 2 < kind ∨ entryOk kind (s.flashNat (a + 4) 4) run = false then none
      else
        (State.configFrom s stop fuel next).map fun l =>
          ⟨kind, s.flashNat (a + 4) 4, (List.range k).map fun i => s.flashNat (a + 8 + 4 * i) 4⟩ :: l

/-- The entries of every CONFIG section, in image order. -/
def State.configOf (s : State) : List Section → Option (List Entry)
  | [] => some []
  | x :: xs =>
    match s.configFrom (x.addr + x.len) (x.len / 8 + 1) x.addr, State.configOf s xs with
    | some l, some m => some (l ++ m)
    | _, _ => none

/-- The table of the EQ sections: port × 32 + lane, with byte 2 and 256 × byte 3. -/
def State.eqOf (s : State) (l : List Section) : List (Nat × Nat) :=
  l.flatMap fun x =>
    (List.range (x.len / 4)).map fun i =>
      let a := x.addr + 4 * i
      (s.flashNat a 1 * 32 + s.flashNat (a + 1) 1, s.flashNat (a + 2) 2)

/-- A well-formed image: its sections and its CONFIG entries. -/
def State.imgParts (s : State) (b : Nat) : Option (List Section × List Entry) :=
  match s.sections b with
  | none => none
  | some l =>
    match s.configOf (ofKind 3 l) with
    | none => none
    | some es => if (ofKind 1 l).length = 1 ∧ es.length ≤ 4096 then some (l, es) else none

/-! ### The checks of a slot (R486) -/

/-- The hash that is fused for a key slot. -/
def State.keyHash (s : State) (k : Nat) : Nat := if k = 0 then Config.vendorHash else SMap.get 0 s.sec.hashes k

/-- A header field is wrong: code 0x2. -/
def State.imgShape (s : State) (b : Nat) : Bool :=
  decide (s.imgMagic b = 0x54524931 ∧ s.imgFormat b = 1 ∧ s.imgFlags b < 4 ∧ s.imgLen b % 4 = 0 ∧ s.imgLen b ≤ 16773376) &&
    s.zeroFlash (b + 24) 40 && s.zeroFlash (b + 3796) 44

/-- Codes 0x0 to 0x6 of a slot. -/
def State.slotCheck (s : State) (slot : Nat) : Nat :=
  let b := slotBase slot
  let k := s.imgKey b
  if (s.flashBytes b 64).all fun x => decide (x = flashBlank) then 1
  else if s.imgShape b = false then 2
  else if crc32c (s.unchecked b (3840 + s.imgLen b)) ≠ s.imgCheck b then 3
  else if 2 < k ∨ leNat (sha3 (s.imgPubkey b)) ≠ s.keyHash k ∨ s.sec.prog.testBit k = false ∨ s.sec.rev.testBit k then 4
  else if s.imgSvn b < s.sec.minVer then 5
  else if Config.verify (s.imgPubkey b) (s.imgDigest b) (s.imgSig b) = false then 6
  else 0

/-- The code of the slot that is chosen: check 0x7 is the last. -/
def State.chosenCheck (s : State) (slot : Nat) : Nat :=
  if s.slotCheck slot ≠ 0 then s.slotCheck slot else if (s.imgParts (slotBase slot)).isNone then 7 else 0

/-- The slots in the order in which the ROM tries them: the higher `seq` first, A on a tie (R487). -/
def State.slotOrder (s : State) : List Nat :=
  ((if s.imgSeq (slotBase 0) < s.imgSeq (slotBase 1) then [1, 0] else [0, 1]).filter fun k => decide (s.slotCheck k = 0))

/-- The slot that boots. -/
def State.bootSlot (s : State) : Option Nat := s.slotOrder.find? fun k => (s.imgParts (slotBase k)).isSome

/-- The error code that is recorded for a slot: check 0x7 only where the slot was chosen. -/
def State.slotErr (s : State) (slot : Nat) : Nat :=
  let c := s.slotCheck slot
  if c ≠ 0 then c
  else if s.bootSlot = some slot then 0
  else if s.slotOrder.head? = some slot ∨ s.bootSlot = none then 7
  else 0

/-- The image of a slot as it is in force (R499). -/
def State.imgRef (s : State) (slot : Nat) : ImgRef :=
  let b := slotBase slot
  { slot := slot, key := s.imgKey b, svn := s.imgSvn b, seq := s.imgSeq b, digest := leNat (s.imgDigest b) }

end Sys2Proof.Machine
end

