-- ==== Sys2Proof/Machine/SeqCtl.lean ====
section
/-! DEFINITION. Sequencer control: start, resume, abort, quiet, releases, the answer to a fault, the scrubber (R131, R137,
R141, R160 to R166). -/

namespace Sys2Proof.Machine

def State.seqResult (s : State) (n code : Nat) : State := s.wr (R.seqCmd_result n) code

/-! ### start, resume, abort, shot_abort, iclr (R139, R160, R161, R166, R528) -/

/-- The time asked for by `start`. -/
def State.startAsked (s : State) (n : Nat) : Nat :=
  if s.rd (R.seqStart_at_en n) = 1 then expand40 (s.rd (R.seqStartAt_start_at_lo n) + s.rd (R.seqStart_start_at_hi n) * 2 ^ 32) s.dial
  else s.dial

/-- The sequencer begins at its PC with an anchor. -/
def State.goAt (s : State) (n a : Nat) : State :=
  let q := s.seq n
  let s := s.setSeq n
    { q with anchor := a, wait := .none, abort := none, sp := q.sp + 1, journal := [], saved := [], runnable := true,
             safe := { pc := s.rd (R.seqPc_pc n), anchor := a, depth := q.depth, handler := q.handler } }
  s.runStep n

def State.start (s : State) (n : Nat) : State :=
  let q := s.seq n
  let pc := s.rd (R.seqStart_start_pc n)
  if q.loading.isSome then s.seqResult n rBUSY
  else if s.halted n = false then s.seqResult n rSTATE
  else if q.starts.contains pc = false then s.seqResult n rRANGE
  else
    let s := s.setSeq n { q with stack := [], depth := 0, handler := none }
    let s := ((s.wr (R.seqPc_pc n) pc).wr (R.seqFault_fault_code n) 0).seqResult n rOK
    s.goAt n (max (s.startAsked n) (s.dial + 2048))

def execSeqStart (t n : Nat) (s : State) : Host.Outcome State Fault Refusal :=
  let s := s.at t
  if s.awake then .next (s.hostCmd (0x100004 + n * 0x4000) fun s => s.start n) else .next s

def State.resume (s : State) (n : Nat) : State :=
  let q := s.seq n
  if q.loading.isSome then s.seqResult n rBUSY
  else if s.halted n = false ∨ s.rd (R.seqStatus_halt_why n) = 0 ∨ q.runnable = false then s.seqResult n rSTATE
  else if s.rd (R.seqStatus_halt_why n) = 1 ∧ (s.microWord n (s.rd (R.seqPc_pc n))).isNone then s.seqResult n rRANGE
  else (s.seqResult n rOK).goAt n (max q.anchor (s.dial + 2048))

def execSeqResume (t n : Nat) (s : State) : Host.Outcome State Fault Refusal :=
  let s := s.at t
  if s.awake then .next (s.hostCmd (0x100004 + n * 0x4000) fun s => s.resume n) else .next s

def State.abortCmd (s : State) (n : Nat) : State :=
  if s.halted n then s.seqResult n rSTATE else (s.seqResult n rOK).raiseAbort n 2

def execSeqAbort (t n : Nat) (s : State) : Host.Outcome State Fault Refusal :=
  let s := s.at t
  if s.awake then .next (s.hostCmd (0x100004 + n * 0x4000) fun s => s.abortCmd n) else .next s

def State.shotAbort (s : State) (n : Nat) : State := (s.seqResult n rOK).raiseInt n 0

def execSeqShotAbort (t n : Nat) (s : State) : Host.Outcome State Fault Refusal :=
  let s := s.at t
  if s.awake then .next (s.hostCmd (0x100004 + n * 0x4000) fun s => s.shotAbort n) else .next s

/-- `iclr`, an E field: ignored at the basic level. -/
def State.iclr (s : State) (n : Nat) : State :=
  if s.rd (R.seqCtl_level n) = 1 then (s.wr (R.seqStatus_ipend n) 0).seqResult n rOK else s

def execSeqIclr (t n : Nat) (s : State) : Host.Outcome State Fault Refusal :=
  let s := s.at t
  if s.awake then .next (s.hostCmd (0x100004 + n * 0x4000) fun s => s.iclr n) else .next s

/-! ### quiet (R166, R197, R330) -/

/-- What of a Cell stays when everything is to end at tick b. -/
def CellSt.quiet (x : CellSt) (b : Nat) : CellSt :=
  let stop := fun (p : Pulse) => { p with stop := some (match p.stop with | some k => min k b | none => b) }
  { x with
    play := x.play.map fun e => (stop e.1, e.2)
    waiting := (x.waiting.filter fun p => decide (p.ts < b)).map stop
    acts := x.acts.filter fun a => decide (a.tick < b)
    jumps := x.jumps.filter fun j => decide (j.iss = none ∨ j.tj < b) }

/-- A flux pulse that is to end at beat b. -/
def Flux.endAt (f : Flux) (b : Nat) : Flux := if b < f.b0 + 16 * f.len then { f with len := (b - f.b0) / 16, hold := false } else f

def BiasSt.quiet (x : BiasSt) (b : Nat) : BiasSt :=
  { x with
    flux := x.flux.map fun f => f.endAt b
    fluxes := (x.fluxes.filter fun f => decide (f.b0 < b)).map fun f => f.endAt b }

def State.quiet (s : State) (n : Nat) : State :=
  if s.halted n = false then s.seqResult n rSTATE
  else
    let b := beatUp (s.dial + 1024)
    let s := s.settle n
    let s := (List.range 8).foldl
      (fun s c =>
        let g := 8 * n + c
        let s := (s.setCell g ((s.cell g).quiet b)).cutSpecs n c b
        s.setLane g { s.lane g with wins := (s.lane g).wins.filter fun w => decide (tFirst w.mFirst < b) }) s
    let cut := fun (s : State) => (List.range 8).flatMap fun c =>
      let x := s.lane (8 * n + c)
      ((x.wins.filter fun w => decide (lastBefore b < w.mFirst + w.count - 1)).map (·.iss.shot)) ++
        ((x.cur.toList ++ x.ending).filter fun o => decide (lastBefore b < o.last)).map (·.w.iss.shot)
    let s := (cut s).foldl (fun s k => s.markShot n k) s
    let s := s.setComb n { s.comb n with specs := (s.comb n).specs.filter fun x => decide (x.ts < b) }
    let s := s.cutComb n (lastBefore b) b fun _ => true
    let s := (List.range 4).foldl (fun s k => s.setBias (4 * n + k) ((s.biasOut (4 * n + k)).quiet b)) s
    let s := s.setLoads n ((s.grpLoads n).filter fun l => decide (l.iss = none ∨ l.beat < b))
    let s := { s with dec := { s.dec with pubs := s.dec.pubs.filter fun p => decide (p.comb ≠ n ∨ p.due < b) } }
    let s := s.markCancel n fun e => e.iss.isSome && decide (16 * b ≤ e.at16)
    let s := s.setSeq n { s.seq n with events := (s.seq n).events.filter fun e => decide (e.1 < b) }
    (s.tellShots n).seqResult n rOK

def execSeqQuiet (t n : Nat) (s : State) : Host.Outcome State Fault Refusal :=
  let s := s.at t
  if s.awake then .next (s.hostCmd (0x100004 + n * 0x4000) fun s => s.quiet n) else .next s

/-! ### Releases -/

/-- RUN_AHEAD_RELEASE: the Dial has come within 16,384 ticks of the anchor (R137). -/
def execRunAheadRelease (t n : Nat) (s : State) : Host.Outcome State Fault Refusal :=
  let s := s.at t
  match (s.seq n).wait with
  | .runAhead => if s.anchor n ≤ s.dial + 16384 then .next (s.endWait n) else .next s
  | _ => .next s

/-- DESC_CHECK_RETURN: the oldest check under way returns; a bad descriptor is a fault (R107, R141, R163). -/
def execDescCheckReturn (t n : Nat) (s : State) : Host.Outcome State Fault Refusal :=
  let s := s.at t
  match (s.seq n).checks with
  | [] => .next s
  | c :: cs =>
    let s := s.setSeq n { s.seq n with checks := cs }
    if c.bad then .next (s.raiseFault n 3 c.pc c.shot)
    else if cs = [] ∧ (s.seq n).wait = .checks then .next (s.endWait n)
    else .next s

/-! ### The answer to a fault (R165) -/

/-- One journal entry is undone. Frames, bank selections and poff are `rollCell`'s. -/
def State.undo (s : State) (n : Nat) : JEntry → State
  | .count k old => s.wr (R.seqCnt_count n k) old
  | .frames _ => s
  | .banks _ => s
  | .stages l => l.foldl (fun s e => s.setStages e.1 e.2) s
  | .slots l => l.foldl (fun s e => s.setSlot e.1 ⟨e.2.1, e.2.2.1, e.2.2.2.1, e.2.2.2.2⟩) s
  | .commit x => if s.txnState x = tPENDING then (s.setTxn x { s.txn x with beat := none, scope := 0, shot := false, issuer := none, decided := false }).setTxnState x tOPEN else s
  | .stack i old => s.setSeq n { s.seq n with stack := (s.seq n).stack.set i old }

/-- The frame of Cell g at the safe point, where the journal holds it: the oldest entry. -/
def oldFrame (js : List JEntry) (g : Nat) : Option Nat :=
  (js.filterMap fun e => match e with | .frames l => (l.find? fun x => decide (x.1 = g)).map (·.2) | _ => none).getLast?

def oldBank (js : List JEntry) (g : Nat) : Option (Nat × Nat) :=
  (js.filterMap fun e => match e with | .banks l => (l.find? fun x => decide (x.1 = g)).map (·.2) | _ => none).getLast?

/-- An action of the rollback: it applies from the first tick whose release deadline is still ahead. -/
def rollAct (d : Nat) : FrameAct :=
  { tick := d + 462, set := false, add := false, sel := false, nco := false, v := 0, k := 0, poff := none,
    iss := { pc := 0, sp := 0, ord := 0, arr := d, shot := none } }

/-- Frame, bank selection and poff of Cell c go back to the last safe point (R165). What the Cell still takes of this span
until tick d + 462 is past recall and is rolled back too; actions from before the safe point stand. -/
def State.rollCell (s : State) (n c : Nat) : State :=
  let g := 8 * n + c
  let d := s.dial
  let x := s.cell g
  let q := s.seq n
  let mine := fun (i : Issue) => decide (i.sp = q.sp)
  let soon := x.acts.filter fun a => decide (firstTick a.tick a.iss ≤ d + 461)
  let others := soon.filter fun a => !mine a.iss
  let frame := others.foldl
    (fun v a => (let v := if a.set then a.v else v; if a.add then (v + a.v) % 2 ^ 20 else v))
    ((oldFrame q.journal g).getD (s.rd (R.cellFrame_frame n c)))
  let bank := others.foldl (fun b a => if a.sel then (a.k, b.2) else b)
    ((oldBank q.journal g).getD (s.rd (R.cellStatus_bank_sel n c), x.poff))
  let a1 := (oldFrame q.journal g).isSome || soon.any fun a => mine a.iss && (a.set || a.add)
  let a2 := (oldBank q.journal g).isSome || (soon.any fun a => mine a.iss && a.sel) ||
    x.waiting.any fun p => mine p.iss && decide (firstTick p.ts p.iss ≤ d + 461)
  let acts := if a1 then insertAct { rollAct d with set := true, v := frame } x.acts else x.acts
  let acts := if a2 then insertAct { rollAct d with sel := true, k := bank.1, poff := some bank.2 } acts else acts
  s.setCell g { x with acts := acts }

/-- Of a Cell's items those that steps after the safe point issued end at the first tick whose release deadline is still
ahead, or are cancelled before it. -/
def CellSt.cancel (x : CellSt) (sp d : Nat) : CellSt :=
  let mine := fun (i : Issue) => decide (i.sp = sp)
  let stop := fun (p : Pulse) => if mine p.iss then { p with stop := some (match p.stop with | some k => min k (d + 462) | none => d + 462) } else p
  { x with
    play := x.play.map fun e => (stop e.1, e.2)
    waiting := (x.waiting.filter fun p => !(mine p.iss && decide (d + 461 < firstTick p.ts p.iss))).map stop
    acts := x.acts.filter fun a => !(mine a.iss && decide (d + 461 < firstTick a.tick a.iss))
    jumps := x.jumps.filter fun j => !(match j.iss with | some i => mine i && decide (d + 461 < j.tj) | none => false) }

def BiasSt.cancel (x : BiasSt) (sp d : Nat) : BiasSt :=
  let b := beatUp (d + 1025)
  let stop := fun (f : Flux) => if f.iss.sp = sp then f.endAt b else f
  { x with
    flux := x.flux.map stop
    fluxes := (x.fluxes.filter fun f => decide (¬ (f.iss.sp = sp ∧ d + 1024 < f.b0))).map stop }

/-- Speculative spans of steps after the safe point. -/
def cancelSpecs (sp d : Nat) (l : List Spec) : List Spec :=
  let upTo := fun (e : Nat × Option Nat) => (e.1, some (match e.2 with | some k => min k (d + 462) | none => d + 462))
  (l.filter fun x => decide (¬ (x.iss.sp = sp ∧ d + 461 < x.ts))).map fun x =>
    if x.iss.sp = sp then { x with ends := x.ends.map upTo } else x

/-- Everything of Comb n that steps after the safe point issued is cancelled or ended (R165). -/
def State.cancelSpan (s : State) (n : Nat) : State :=
  let sp := (s.seq n).sp
  let d := s.dial
  let mine := fun (i : Issue) => decide (i.sp = sp)
  let s := (List.range 8).foldl
    (fun s c =>
      let g := 8 * n + c
      let s := s.setCell g ((s.cell g).cancel sp d)
      s.setLane g { s.lane g with wins := (s.lane g).wins.filter fun w => !(mine w.iss && decide (d < tFirst w.mFirst)) }) s
  let s := s.setComb n { s.comb n with specs := cancelSpecs sp d (s.comb n).specs }
  let s := s.cutComb n ((d - 307) / 32) (d + 1) mine
  let s := (List.range 4).foldl (fun s k => s.setBias (4 * n + k) ((s.biasOut (4 * n + k)).cancel sp d)) s
  let s := s.setLoads n ((s.grpLoads n).filter fun l =>
    !(match l.iss with | some i => mine i && decide (d + 1024 < l.beat) | none => false))
  let s := { s with dec := { s.dec with pubs := s.dec.pubs.filter fun p => !(decide (p.comb = n) && mine p.iss && (p.lane || decide (d < p.due))) } }
  let s := s.markCancel n fun e => match e.iss with | some i => mine i | none => false
  s.setSeq n { s.seq n with events := (s.seq n).events.filter fun e => decide (¬ (e.2 = sp ∧ d < e.1)) }

/-- The sequencer answers a fault; its halt is a "Sequencer halt" of R426 too (DEDUCED, log 20). -/
def State.answerFault (s : State) (n : Nat) (f : FaultRep) : State :=
  let s := (s.wr (R.seqFault_fault_code n) f.code).wr (R.seqFault_fault_pc n) f.pc
  if s.halted n then s.markShot n f.shot
  else
    let s := s.settle n
    let s := s.cancelSpan n
    let s := (List.range 8).foldl (fun s c => s.rollCell n c) s
    let s := (s.seq n).journal.foldl (fun s e => s.undo n e) s
    let k := (s.openShot n).map (·.num)
    let s := (if k = f.shot then s.markShot n k else (s.markShot n f.shot).markShot n k).closeShot n
    let s := s.tellShots n
    let q := s.seq n
    let s := s.setSeq n
      { q with journal := [], saved := [], wait := .none, abort := none, checks := [], anchor := q.safe.anchor,
               depth := q.safe.depth, handler := q.safe.handler }
    let s := (s.wr (R.seqPc_pc n) q.safe.pc).wr (R.seqPc_safe_pc n) q.safe.pc
    ((s.wr (R.seqStatus_run n) 0).wr (R.seqStatus_halt_why n) 4).fireS n 2

/-- SEQUENCER_FAULT: the oldest fault not yet answered. -/
def execSequencerFault (t n : Nat) (s : State) : Host.Outcome State Fault Refusal :=
  let s := s.at t
  match (s.seq n).faults with
  | [] => .next s
  | f :: fs => .next ((s.setSeq n { s.seq n with faults := fs }).answerFault n f)

/-! ### The scrubber (R131) -/

/-- An upset strikes a stored word: a second one on a marked word leaves a double-bit error. -/
def strike (w : Mem1) (k : Nat) : Mem1 := { w with mark := if k = 1 ∧ w.mark = 0 then 1 else max w.mark 2 }

/-- An upset of codeword q of a nano-word. -/
def strikeNano (w : Mem1) (q k : Nat) : Mem1 :=
  { w with mark := w.mark - markOf w.mark q * 4 ^ q + (strike ⟨0, markOf w.mark q⟩ k).mark * 4 ^ q }

/-- Upsets of the stores that Comb n reads. A nano address has the codeword above its thirteen bits. -/
def State.upset (s : State) (n : Nat) (u : Nat × Nat × Nat) : State :=
  let a := u.2.1
  if u.1 = 0 then
    match s.microWord n (a % 32768) with
    | some w => { s with micro := setStore s.micro (n * 32768 + a % 32768) (strike w u.2.2) }
    | none => s
  else if u.1 = 1 then
    let k := n / 16 * 8192 + a % 8192
    { s with nano := setStore s.nano k (strikeNano (SMap.get ⟨0, 0⟩ s.nano k) (a / 8192 % 4) u.2.2) }
  else if u.1 = 2 then
    let k := n * 65536 + a % 65536
    { s with cache := setStore s.cache k (strike (SMap.get ⟨0, 0⟩ s.cache k) u.2.2) }
  else
    let k := n * 32768 + a % 32768
    { s with kern := setStore s.kern k (strike (SMap.get ⟨0, 0⟩ s.kern k) u.2.2) }

def scrubMark (k : Nat) : Nat := if k = 1 then 0 else if k = 2 then 3 else k

def scrubWord (w : Mem1) : Mem1 := { w with mark := mapMarks scrubMark w.mark }

/-- How many codewords of a key range have a mark. -/
def marksIn (m : List (Nat × Mem1)) (lo hi k : Nat) : Nat :=
  ((m.filter fun e => decide (lo ≤ e.1 ∧ e.1 < hi)).map fun e => markCount e.2.mark k).foldl (· + ·) 0

def scrubIn (m : List (Nat × Mem1)) (lo hi : Nat) : List (Nat × Mem1) :=
  m.map fun e => if lo ≤ e.1 ∧ e.1 < hi then (e.1, scrubWord e.2) else e

/-- The pass over sequencer n's micro store and nano partition. -/
def State.scrub (s : State) (n : Nat) : State :=
  let lo := n * 32768
  let hi := lo + 32768
  let nlo := n / 16 * 8192 + s.rd (R.seqNano_nano_base n)
  let nhi := nlo + s.rd (R.seqNano_nano_len n)
  let bad := marksIn s.micro lo hi 2 + marksIn s.nano nlo nhi 2
  let s := (s.addFixes (R.seqEcc_micro_fix n) (marksIn s.micro lo hi 1)).addFixes (R.seqEcc_nano_fix n) (marksIn s.nano nlo nhi 1)
  let s := { s with micro := scrubIn s.micro lo hi, nano := scrubIn s.nano nlo nhi }
  if bad = 0 then s else s.fireS n 8

/-- MICRO_SCRUB: the upsets since the last pass, then the pass. -/
def execMicroScrub (t n : Nat) (upsets : List (Nat × Nat × Nat)) (s : State) : Host.Outcome State Fault Refusal :=
  let s := s.at t
  if s.awake then .next ((upsets.foldl (fun s u => s.upset n u) (s.settle n)).scrub n) else .next s

end Sys2Proof.Machine
end

