-- ==== Sys2Proof/Machine/Boot.lean ====
section
/-! DEFINITION. Power, nRESET, the boot sequence, Green, Sleep and waking (R15, R16, R19, R20, R61, R67, R70, R486 to R491, R494,
R495, R500, R501, R511). -/

namespace Sys2Proof.Machine

/-! ### Dark (R16, R61, R511) -/

/-- Byte i of the mailbox arguments (R62). -/
def State.mbArg (s : State) (i : Nat) : Nat := s.rd (R.hostMbArg_arg (i / 4)) / 256 ^ (i % 4) % 256

/-- The opcode of FUSE (R63). -/
def opFUSE : Nat := 7

/-- Bytes 2 to 33 of a FUSE are zero, as an operation without a hash asks (R496); else RANGE (log 12). -/
def State.noHash (s : State) : Bool := (List.range 32).all fun i => decide (s.mbArg (2 + i) = 0)

/-- A window operation on the flash that Dark cuts off: what the bytes of its sector or page then hold, the manual does not say
(log 2). -/
def State.cutFlash (s : State) : State :=
  match s.sec.fl with
  | some (0, a) => s.draw.2.putFlash (0x2000000 + a) (leBytes 0x10000 s.draw.1)
  | some (1, a) => s.draw.2.putFlash (0x2000000 + a) (leBytes 0x100 s.draw.1)
  | _ => s

/-- A fuse operation that Dark cuts off (R496): the minimum version stops between the old value and the new one, and a key slot may
be left damaged. How far it comes is open (log 2). -/
def State.cutFuse (s : State) : State :=
  let v := s.mbArg 1
  let z := s.draw.1
  if (match s.sec.mb with | some r => decide (r.op = opFUSE ∧ r.out = none) | none => false) = false then s
  else if s.mbArg 0 = 1 ∧ v ≤ 64 ∧ v ≤ s.sec.img.svn ∧ s.noHash then
    { s.draw.2 with sec := { s.sec with minVer := s.sec.minVer + z % (v - s.sec.minVer + 1) } }
  else if s.mbArg 0 = 2 ∧ (v = 1 ∨ v = 2) ∧ z % 2 = 1 then { s.draw.2 with sec := { s.sec with rev := s.sec.rev ||| 2 ^ v } }
  else s.draw.2

/-- Everything returns to its state after reset but the flash, the fuses, the key copies, the spare rows used, the level of
MUTE_N and the queue. -/
def State.enterDark (s : State) : State :=
  let s := s.cutFlash.cutFuse
  { State.reset with
    pending := s.pending
    free := s.free
    dial := s.dial
    flash := s.flash
    svc := { SvcSt.init with muteHigh := s.svc.muteHigh, lastCause := s.rd R.hiveState_cause }
    memo := { MemSt.init with spent := s.memo.spent }
    sec := { SecSt.init with hashes := s.sec.hashes, minVer := s.sec.minVer, prog := s.sec.prog, rev := s.sec.rev, keys := s.sec.keys } }

/-- POWER_APPLIED. -/
def execPowerApplied (t : Nat) (s : State) : Host.Outcome State Fault Refusal := .next ((s.at t).enterDark)

/-- NRESET_LOW: a pulse shorter than 100 ns is filtered out. -/
def execNresetLow (t widthNs : Nat) (s : State) : Host.Outcome State Fault Refusal :=
  let s := s.at t
  if 100 ≤ widthNs then .next s.enterDark else .next s

/-- VDD_AUX_COLLAPSE: below 1.60 V for 1 µs. -/
def execVddAuxCollapse (t milliVolt ns : Nat) (s : State) : Host.Outcome State Fault Refusal :=
  let s := s.at t
  if milliVolt < 1600 ∧ 1000 ≤ ns then .next s.enterDark else .next s

/-! ### The counter log and the command key at boot (R494, R495) -/

def ctrSlots : Nat := 16384
def ctrAddr (k : Nat) : Nat := 16 * k

/-- A record of the counter log is valid. -/
def State.ctrValid (s : State) (k : Nat) : Bool :=
  decide (s.flashNat (ctrAddr k + 8) 4 = 0x43545231 ∧ s.flashNat (ctrAddr k + 12) 4 = crc32c (s.flashBytes (ctrAddr k) 12))

def State.ctrBlank (s : State) (k : Nat) : Bool := (s.flashBytes (ctrAddr k) 16).all fun x => decide (x = flashBlank)

/-- The record slots that hold some byte. -/
def State.ctrUsed (s : State) : List Nat := ((s.flash.filter fun e => decide (e.1 < 0x40000)).map fun e => e.1 / 16).eraseDups

/-- The newest valid record: its counter and its slot. -/
def State.ctrNewest (s : State) : Option (Nat × Nat) :=
  newest ((s.ctrUsed.filter s.ctrValid).map fun k => (s.flashNat (ctrAddr k) 8, k))

/-- The last accepted counter after a boot. -/
def State.ctrBoot (s : State) : Nat :=
  match s.ctrNewest with
  | none => 0
  | some (c, k) => if s.ctrBlank ((k + 1) % ctrSlots) then c else c + 2 ^ 32

def State.setLast (s : State) (c : Nat) : State :=
  (s.wr R.hostMbLastLo_last_lo (c % 2 ^ 32)).wr R.hostMbLastHi_last_hi (c / 2 ^ 32)

/-- The key copy in force: the valid one with the higher sequence number. -/
def State.keyCopy (s : State) : Option (Nat × Nat) :=
  s.sec.keys.foldl
    (fun (a : Option (Nat × Nat)) e => match a with | some x => if x.1 < e.2.1 then some e.2 else a | none => some e.2) none

def State.loadKey (s : State) : State :=
  match s.keyCopy with
  | some (q, k) => { s with sec := { s.sec with key := k } }.wr R.secKey_key_seq q
  | none => { s with sec := { s.sec with key := 0 } }.wr R.secKey_key_seq 0

def State.showFuses (s : State) : State :=
  ((s.wr R.secFuse_min_ver s.sec.minVer).wr R.secFuse_key_prog s.sec.prog).wr R.secFuse_key_rev s.sec.rev

/-! ### Applying an image (R484, R489) -/

/-- Step 1: both slots are checked. -/
def State.recordSlots (s : State) : State :=
  let a := s.slotErr 0
  let b := s.slotErr 1
  let s := (s.wr R.secBoot_slot_a_err a).wr R.secBoot_slot_b_err b
  let s := (s.wr R.secSeqA_seq_a (s.imgSeq (slotBase 0))).wr R.secSeqB_seq_b (s.imgSeq (slotBase 1))
  if 1 < a ∨ 1 < b then s.wr R.secBoot_boot_warn 1 else s

/-- The SYSTEM section: REF_CLK, REF_V, device ID, role and join. -/
def State.applySystem (s : State) (x : Section) : State :=
  let id := s.flashNat (x.addr + 1) 1
  let role := s.flashNat (x.addr + 2) 1 % 4
  let s := s.wr R.timeCtl_ref_sel (if s.flashNat x.addr 1 = 0 then 0 else 1)
  let s := { s with sec := { s.sec with refV := s.flashNat (x.addr + 4) 4 } }
  let s := if id = 255 then s.wr R.chnCtl_role role else ((s.wr R.chnCtl_id id).wr R.chnCtl_id_valid 1).wr R.chnCtl_role role
  if s.flashNat (x.addr + 3) 1 = 1 ∧ id ≠ 255 then (s.chainJoin id role).2 else s

/-- CONFIG goes to active values and shadows alike; a half of a frequency needs no other here (R489). -/
def State.applyConfig (s : State) (es : List Entry) : State :=
  let s := s.applyEntries s.dial 0 es
  let s := s.marks.foldl
    (fun s m =>
      if m.1 < 2 ^ 20 then s.applyBank m.1 (SMap.get 0 s.bank m.1) s.dial
      else
        let g := m.1 - 2 ^ 20
        let s := s.awr (R.rdLaneFLo_f_lo (g / 8) (g % 8)) (s.rd (R.rdLaneFLo_f_lo (g / 8) (g % 8)))
        s.awr (R.rdLaneFHi_f_hi (g / 8) (g % 8)) (s.rd (R.rdLaneFHi_f_hi (g / 8) (g % 8)))) s
  { s with marks := [], lastApply := (0, []) }

/-- Step 3 with the image of a slot. -/
def State.applyImage (s : State) (slot : Nat) : State :=
  let b := slotBase slot
  match s.imgParts b with
  | none => s
  | some (l, es) =>
    let s := (ofKind 1 l).foldl (fun s x => s.applySystem x) s
    let s := { s with sec := { s.sec with eqTab := s.eqOf (ofKind 2 l), img := s.imgRef slot, autostart := (s.imgFlags b).testBit 1 } }
    let s := (List.range 8).foldl (fun s p => s.deriveElv p) s
    let s := s.applyConfig es
    let s := if mapBad s s.askedMap then s else s.setMap s.askedMap
    let s := (s.wr R.secBoot_boot_slot slot).wr R.txnImg_img_run slot
    s.wr R.secBoot_oe (if (s.imgFlags b).testBit 0 then 1 else 0)

/-- The outputs as Amber holds them after a boot (R266, R314, R492). -/
def State.holdOutputs (s : State) : State :=
  let s := if s.rd R.hiveSvcCtl_amber_rf = 1 then s else s.muteAll 1
  let s := if s.svc.muteHigh then s else (s.muteAll 3).zeroAll 3 true
  let s := if s.rd R.secBoot_oe = 1 then s else (s.muteAll 4).zeroAll 4 true
  s.hiveMuted

/-- Amber is entered, at a Dial value within 30 ms. MCAL and the boot pass begin; in the Recovery form MCAL alone (R488). -/
def State.enterAmber (s : State) (t : Nat) (recovery : Bool) : State :=
  let t := min t 768000000
  let s := { s with dial := (t - t % s.gran) % 2 ^ 72 }
  let s := (s.lifeBoot).toSvc .amber
  let s := s.holdOutputs
  let s := s.enabledLoad
  if recovery then s.mcalStart
  else
    let s := s.startPass true
    if s.thm.mcalAt.isSome then s else s.mcalStart

/-- The boot up to Amber. -/
def State.boot (s : State) (t bootSel : Nat) : State :=
  let s := { s with dial := 0 }
  let s := (s.wr R.secBoot_boot_sel bootSel).wr R.timeStatus_ref_ok 1
  let s := ((s.showFuses).setLast s.ctrBoot).loadKey
  if bootSel = 2 then ((s.wr R.secBoot_recovery 1).calLoad).enterAmber t true
  else
    let s := s.recordSlots
    let s := s.calLoad
    match s.bootSlot with
    | none => (s.wr R.secBoot_no_image 1).enterAmber t true
    | some slot =>
      let s := s.applyImage slot
      let s := if bootSel % 2 = 1 then s.wr R.hiveSvcCtl_green_hold 1 else s
      s.enterAmber t false

/-- NRESET_HIGH: VDD_AUX must stand within its limits (R504, R511). `t` is the Dial value at which Amber is reached. -/
def execNresetHigh (t bootSel auxMilliVolt : Nat) (s : State) : Host.Outcome State Fault Refusal :=
  let s := s.at t
  if s.awake = false ∧ 1746 ≤ auxMilliVolt ∧ auxMilliVolt ≤ 1854 then .next (s.boot t (bootSel % 4)) else .next s

/-! ### From Amber to Green (R16, R70, R98, R443, R489) -/

/-- The converter clock PLLs lock at Dial value `a`. -/
def State.lockPll (s : State) (a : Nat) : State :=
  let s := { s with accBase := a, svc := { s.svc with fine := true } }
  let s := s.wr R.timeStatus_pll_lock 1
  let s := if s.thm.hkAt = none then s.setThm { s.thm with hkAt := some (a + 512000000) } else s
  s.bootCheck

/-- When the PLLs may lock: in Amber, and 5 ms into a wake (R501). -/
def State.mayLock (s : State) : Bool :=
  decide (s.rd R.timeStatus_pll_lock = 0) &&
    (s.isAmber || (match s.svc.wakeAt with | some w => s.isSleep && decide (w + 128000000 ≤ s.dial) | none => false))

/-- PLL_LOCK. -/
def execPllLock (t : Nat) (s : State) : Host.Outcome State Fault Refusal :=
  let s := s.at t
  if s.mayLock then .next (s.lockPll s.dial) else .next s

/-- A MEMORY section: data at an offset of a region. Data that does not lie within its region is not written. -/
def State.writeMemory (s : State) (x : Section) : State :=
  let r := s.flashNat x.addr 1
  let off := s.flashNat (x.addr + 4) 8
  let len := x.len - 12
  if r < 6 ∧ off + len ≤ s.rgnBytes r then s.writeChunks (s.rgnStart r + off) (s.flashBytes (x.addr + 12) len) else s

def insertTodo (a : Nat × Nat × Nat) : List (Nat × Nat × Nat) → List (Nat × Nat × Nat)
  | [] => [a]
  | b :: bs => if a.1 < b.1 then a :: b :: bs else b :: insertTodo a bs

/-- The LOAD sections in ascending order of the sequencer. -/
def State.loadTodo (s : State) (l : List Section) : List (Nat × Nat × Nat) :=
  (ofKind 5 l).foldl (fun acc x => insertTodo (s.flashNat x.addr 1, x.addr + 4, x.len - 4) acc) []

/-- Step 5 of R489. -/
def State.bootSections (s : State) : State :=
  if s.rd R.secBoot_recovery = 1 ∨ s.rd R.secBoot_no_image = 1 then s
  else
    match s.sections (slotBase (s.rd R.secBoot_boot_slot)) with
    | none => s
    | some l =>
      let s := (ofKind 4 l).foldl (fun s x => s.writeMemory x) s
      let todo := s.loadTodo l
      ({ s with sec := { s.sec with todo := todo } }).bootLoads todo.length

/-- HBM_TRAINING_DONE: the boot record, then what the image puts into memory and stores. -/
def execHbmTrainingDone (t : Nat) (s : State) : Host.Outcome State Fault Refusal :=
  let s := s.at t
  if s.awake ∧ s.isSleep = false ∧ s.svc.hbmTrained = false ∧ s.svc.causes.contains 5 = false then
    let s := s.setSvc { s.svc with hbmTrained := true }
    let s := (List.range 4).foldl (fun s k => s.showSpares k) s.bootRecord
    .next s.bootSections.bootCheck
  else .next s

/-- Every sequencer that step 5 of R489 loaded receives `start` with `at_en` = 0. -/
def State.autostart (s : State) : State :=
  if s.sec.autostart then s.sec.booted.foldl (fun s n => (s.wr (R.seqStart_at_en n) 0).start n) s else s

/-- Green is entered. -/
def State.toGreen (s : State) : State :=
  let first := s.svc.greenSeen = false
  let s := (s.toSvc .green).unmuteAll 1
  let s := s.setSvc { s.svc with greenSeen := true }
  if first then s.autostart else s

/-- ENTER_GREEN: every condition of R16 holds. -/
def execEnterGreen (t : Nat) (s : State) : Host.Outcome State Fault Refusal :=
  let s := s.at t
  if s.isAmber ∧ s.svc.entry = false ∧ s.fit ∧ s.rd R.hiveSvcCtl_green_hold = 0 then .next s.toGreen else .next s

/-! ### Sleep and waking (R20, R500, R501) -/

/-- Sleep entry begins as SLEEP posts. -/
def State.beginSleep (s : State) : State :=
  let s := s.account
  let s := (s.setSvc { s.svc with entry := true, wakeAt := none }).markAllOpen.cutOpen
  let s := (List.range 64).foldl (fun s n => s.raiseAbort n 3) s
  let s := (List.range 256).foldl
    (fun s o =>
      let s := s.fluxTo o s.dial
      s.setBias o { s.biasOut o with flux := none, fluxes := [] }) s
  ((s.markLowAll 2).capService).abortUnits.portsDown

/-- SLEEP_ENTRY_COMPLETE. A wake event that came during entry begins its wake now. -/
def execSleepEntryComplete (t : Nat) (s : State) : Host.Outcome State Fault Refusal :=
  let s := s.at t
  if s.svc.entry ∧ s.awake then
    let s := s.capService.abortUnits.toSvc .sleep
    let s := s.wr R.timeStatus_pll_lock 0
    .next (s.setSvc { s.svc with entry := false, asleepAt := s.dial, fine := false, wakeAt := s.svc.wakeAt.map fun _ => s.dial })
  else .next s

/-- The end of the wake: Green, or Amber with a Green-loss cause, where outputs stand as after leaving Green (R16, R18) and `cause`
shows the first cause present (DESIGN CHOICE, log 59). -/
def State.endWake (s : State) (w : Nat) : State :=
  let s := if s.rd R.timeStatus_pll_lock = 0 then s.lockPll (w + 128000000) else s
  let s := (s.setSvc { s.svc with wakeAt := none }).markFreeAll 2
  let s := s.setChain { s.chain with fast := true }
  match s.svc.causes with
  | [] => s.toSvc .green
  | c :: _ => ((((s.muteAll 2).zeroAll 1 false).markLowAll 1).wr R.hiveState_cause c).toSvc .amber

/-- WAKE_COMPLETE: 9.00 ms have passed since the wake event, or since the entry completed. -/
def execWakeComplete (t : Nat) (s : State) : Host.Outcome State Fault Refusal :=
  let s := s.at t
  match s.svc.wakeAt with
  | none => .next s
  | some w => if s.isSleep ∧ w + 230400000 ≤ s.dial then .next (s.endWake w) else .next s

end Sys2Proof.Machine
end

