-- ==== Sys2Proof/Machine/Security.lean ====
section
/-! DEFINITION. The critical-command mailbox, its commands, the command key, the fuses, attestation and the flash window (R56, R62
to R66, R253, R403, R471, R490, R492 to R500). -/

namespace Sys2Proof.Machine

def State.setSec (s : State) (x : SecSt) : State := { s with sec := x }

/-! ### What the mailbox holds (R62 to R64) -/

def State.mbArgs (s : State) (len : Nat) : List Byte := (List.range len).map fun i => BitVec.ofNat 8 (s.mbArg i)
def State.mbCtr (s : State) : Nat := s.rd R.hostMbCtrLo_ctr_lo + 2 ^ 32 * s.rd R.hostMbCtrHi_ctr_hi
def State.mbOp (s : State) : Nat := s.rd R.hostMbOp_opcode
def State.mbLen (s : State) : Nat := s.rd R.hostMbOp_arg_len
def State.mbLast (s : State) : Nat := s.rd R.hostMbLastLo_last_lo + 2 ^ 32 * s.rd R.hostMbLastHi_last_hi
def State.mbTag (s : State) : List Byte := (List.range 4).flatMap fun i => leBytes 4 (s.rd (R.hostMbTag_tag i))
def State.keyBytes (s : State) : List Byte := leBytes 32 s.sec.key

/-- The tag that the command should carry. -/
def State.tagOf (s : State) : List Byte :=
  kmac256 s.keyBytes (leBytes 8 s.mbCtr ++ leBytes 2 s.mbOp ++ leBytes 1 s.mbLen ++ s.mbArgs s.mbLen) 16 "OLR-5120 CMD"

/-! ### The checks (R65, R493) -/

def opIMAGE : Nat := 1
def opKEY : Nat := 2
def opCAL : Nat := 3
def opCHAIN : Nat := 4
def opOE : Nat := 5
def opSLEEP : Nat := 6
def opATTEST : Nat := 0x100

/-- Step 2: the opcode is known, the length fits, and the arguments that are judged here are in range (log 12). -/
def State.mbShape (s : State) : Bool :=
  let op := s.mbOp
  let n := s.mbLen
  if op = opIMAGE then decide (n = 2)
  else if op = opKEY then decide (n = 32)
  else if op = opCAL then decide (n = 0)
  else if op = opCHAIN then
    decide (n = 4 ∧ s.mbArg 0 < 2 ∧ s.mbArg 1 < 255 ∧ s.mbArg 2 < 3 ∧ s.mbArg 3 = 0)
  else if op = opOE then decide (n = 1 ∧ s.mbArg 0 < 2)
  else if op = opSLEEP then decide (n = 0)
  else if op = opFUSE then decide (n = 34 ∧ 1 ≤ s.mbArg 0 ∧ s.mbArg 0 ≤ 3)
  else decide (op = opATTEST ∧ n = 32)

/-- The Recovery form, with a boot that found no image. -/
def State.recovery (s : State) : Bool := decide (s.rd R.secBoot_recovery = 1 ∨ s.rd R.secBoot_no_image = 1)

def State.swarmHeld (s : State) : Bool :=
  (List.range 16).any fun x => decide (s.txnState x = tLOCKED ∨ s.txnState x = tCOMMITTED)

/-- Step 5: the command is permitted in the present state. -/
def State.mbPermitted (s : State) : Bool :=
  let op := s.mbOp
  let up := s.isAmber || s.isGreen
  if op = opSLEEP then (s.isGreen || (s.isAmber && s.svc.greenSeen)) && !s.swarmHeld
  else if op = opKEY ∨ op = opFUSE then up
  else if op = opATTEST then s.awake
  else up && !s.recovery

/-- Step 5: the fuse that the command would blow is blown already (R496). -/
def State.mbLocked (s : State) : Bool :=
  let k := s.mbArg 1
  decide (s.mbOp = opFUSE) &&
    (if s.mbArg 0 = 1 then decide (k < s.sec.minVer)
     else if s.mbArg 0 = 2 then decide (1 ≤ k ∧ k ≤ 2) && (s.sec.prog.testBit k || s.sec.rev.testBit k)
     else decide (k ≤ 2) && s.sec.rev.testBit k)

/-- The slot of the counter log that the next record takes: after the newest one, past what a cut-off write left. -/
def State.ctrFree (s : State) : Nat → Nat → Nat
  | 0, k => k % ctrSlots
  | fuel + 1, k => if k % 4096 = 0 ∨ s.ctrBlank (k % ctrSlots) then k % ctrSlots else State.ctrFree s fuel (k + 1)

def State.ctrNext (s : State) : Nat := match s.ctrNewest with | some (_, k) => s.ctrFree 4096 (k + 1) | none => 0

/-- A sector of the counter log that is not blank is erased before it is written. -/
def State.ctrReady (s : State) (k : Nat) : State :=
  if k % 4096 = 0 ∧ s.ctrBlank k = false then s.eraseFlash (ctrAddr k) 0x10000 else s

/-- Step 6: one record of the counter log. The record that fills a sector has the next sector erased (R494, log 12). -/
def State.ctrAppend (s : State) (c : Nat) : State :=
  let k := s.ctrNext
  let body := leBytes 8 c ++ leBytes 4 0x43545231
  let s := ((s.ctrReady k).putFlash (ctrAddr k) (body ++ leBytes 4 (crc32c body))).setLast c
  if k % 4096 = 4095 then s.eraseFlash (ctrAddr ((k + 1) % ctrSlots)) 0x10000 else s

/-- A write that does not complete leaves bytes that the manual does not give (log 2). -/
def State.ctrCut (s : State) : State :=
  let k := s.ctrNext
  let d := (s.ctrReady k).draw
  d.2.putFlash (ctrAddr k) (leBytes 16 d.1)

/-! ### MAILBOX_GO (R65) -/

def State.mbRun (s : State) (out : Option (Nat × List Byte)) : State :=
  (s.setSec { s.sec with mb := some ⟨s.mbOp, s.dial, out⟩ }).wr R.hostMbStatus_busy 1

def State.mbRefuse (s : State) (code : Nat) : State := s.mbRun (some (code, []))

/-- A refusal that counts as an authentication reject. -/
def State.mbReject (s : State) (code : Nat) : State := (s.setLife { s.life with rej := s.life.rej + 1 }).mbRefuse code

def State.mailboxGo (s : State) (flashOk : Bool) : State :=
  if s.rd R.hostMbStatus_busy = 1 then s.accFault R.hostAccStatus_mb_busy_wr 0x1010C
  else if s.mbShape = false then s.mbRefuse rRANGE
  else if s.mbOp = opATTEST then (if s.mbPermitted then s.mbRun none else s.mbRefuse rSTATE)
  else if s.mbTag ≠ s.tagOf then s.mbReject rAUTH
  else if s.mbCtr ≤ s.mbLast then s.mbReject rCOUNTER
  else if s.mbPermitted = false then s.mbRefuse rSTATE
  else if s.mbLocked then s.mbReject rLOCKED
  else if flashOk then (s.ctrAppend s.mbCtr).mbRun none
  else s.ctrCut.mbRefuse rTIMEOUT

/-- MAILBOX_GO. -/
def execMailboxGo (t : Nat) (flashOk : Bool) (s : State) : Host.Outcome State Fault Refusal :=
  let s := s.at t
  if s.awake then .next (s.mailboxGo flashOk) else .next s

/-! ### Posting (R62, R66) -/

/-- The response bytes stand in the response words; words past the response hold no value that the manual gives (log 2). -/
def State.putResp (s : State) (bs : List Byte) : State :=
  let n := (bs.length + 3) / 4
  let f := s.free
  let s := (List.range n).foldl (fun s i => s.wr (R.hostMbResp_resp i) (leNat ((bs.drop (4 * i)).take 4))) s
  let s := (List.range (1024 - n)).foldl (fun s i => s.wr (R.hostMbResp_resp (n + i)) (Config.freeValue (f + i))) s
  { s with free := f + 1024 }

/-- A result is posted: `busy` clears and D(86) sets `sum_mailbox`. -/
def State.mbPost (s : State) (code : Nat) (resp : List Byte) : State :=
  let s := (s.setSec { s.sec with mb := none }).putResp resp
  (((s.wr R.hostMbStatus_busy 0).wr R.hostMbStatus_result code).wr R.hostMbStatus_resp_len resp.length).fireD 86

/-- The time limit of step 7, in ticks; SLEEP posts at once. -/
def mbLimit (op : Nat) : Nat :=
  if op = opIMAGE then 5120000000 else if op = opKEY then 25600000000 else if op = opCAL then 51200000000
  else if op = opCHAIN ∨ op = opOE then 25600000 else if op = opFUSE then 2560000000 else 1280000000

/-- MAILBOX_COMPLETE: the result is posted, or TIMEOUT once the limit has passed without one. -/
def execMailboxComplete (t : Nat) (s : State) : Host.Outcome State Fault Refusal :=
  let s := s.at t
  match s.sec.mb with
  | none => .next s
  | some r =>
    match r.out with
    | some (code, resp) => .next (s.mbPost code resp)
    | none => if r.since + mbLimit r.op < s.dial then .next (s.mbPost rTIMEOUT []) else .next s

/-! ### Step 7 (R65) -/

/-- Step 7 of command `op` is under way and within its limit. -/
def State.mbAt (s : State) (op : Nat) : Bool :=
  match s.sec.mb with
  | some r => decide (r.op = op ∧ r.out = none ∧ s.dial ≤ r.since + mbLimit op)
  | none => false

def State.mbDone (s : State) (code : Nat) (resp : List Byte) : State :=
  s.setSec { s.sec with mb := s.sec.mb.map fun r => { r with out := some (code, resp) } }

def State.mbDo (_s : State) (r : Nat × State) : State := r.2.mbDone r.1 []

/-- What IMAGE_SWITCH answers for the code of its slot (R497). -/
def switchCode (c : Nat) : Nat := if c = 1 ∨ c = 2 ∨ c = 7 then rRANGE else if c = 5 then rVERSION else rAUTH

/-- The SYSTEM section names the REF_CLK and REF_V in force. -/
def State.systemFits (s : State) (x : Section) : Bool :=
  decide ((if s.flashNat x.addr 1 = 0 then 0 else 1) = s.rd R.timeCtl_ref_sel ∧ s.flashNat (x.addr + 4) 4 = s.sec.refV)

/-- IMAGE_SWITCH of a slot into transaction x; an argument out of range is found here, as the command's own result (R5, R65:
step 2 judges the opcode and the length alone). -/
def State.imageSwitch (s : State) (slot x : Nat) : Nat × State :=
  if 1 < slot ∨ 15 < x then (rRANGE, s)
  else if s.txnState x ≠ tOPEN ∨ (s.txn x).ents ≠ [] ∨ s.rd (R.txnState_image x) = 1 then (rSTATE, s)
  else if s.chosenCheck slot ≠ 0 then (switchCode (s.chosenCheck slot), s)
  else
    match s.imgParts (slotBase slot) with
    | none => (rRANGE, s)
    | some (l, es) =>
      if (ofKind 1 l).all s.systemFits = false then (rSTATE, s)
      else
        let s := es.foldl (fun s e => s.addEntry x e) s
        let s := s.setTxn x { s.txn x with eq := some (s.eqOf (ofKind 2 l)), slot := slot }
        let s := s.setSec { s.sec with bound := (s.sec.bound.filter fun e => decide (e.1 ≠ x)) ++ [(x, s.imgRef slot)] }
        (rOK, s.wr (R.txnState_image x) 1)

def execImageSwitch (t : Nat) (s : State) : Host.Outcome State Fault Refusal :=
  let s := s.at t
  if s.mbAt opIMAGE then .next (s.mbDo (s.imageSwitch (s.mbArg 0) (s.mbArg 1))) else .next s

/-- The new key: N ⊕ W, unwrapped. -/
def State.unwrap (s : State) : Nat :=
  leNat (s.mbArgs 32) ^^^ leNat (kmac256 s.keyBytes (leBytes 8 s.mbCtr) 32 "OLR-5120 WRAP")

/-- The copy that a new key takes: one that is not valid, else that with the lower sequence number (R495). -/
def State.keyPlace (s : State) : Nat :=
  let at' := fun (c : Nat) => (s.sec.keys.find? fun e => decide (e.1 = c)).map fun e => e.2.1
  match at' 0, at' 1 with
  | none, _ => 0
  | _, none => 1
  | some a, some b => if b < a then 1 else 0

/-- KEY_CHANGE: the new key is stored and verifies from the next command. -/
def State.keyChange (s : State) : Nat × State :=
  let k := s.unwrap
  if k = 0 then (rRANGE, s)
  else
    let q := match s.keyCopy with | some (q, _) => q + 1 | none => 1
    let c := s.keyPlace
    let s := s.setSec { s.sec with keys := (s.sec.keys.filter fun e => decide (e.1 ≠ c)) ++ [(c, (q, k))] }
    (rOK, s.loadKey)

def execKeyChange (t : Nat) (s : State) : Host.Outcome State Fault Refusal :=
  let s := s.at t
  if s.mbAt opKEY then .next (s.mbDo s.keyChange) else .next s

/-- CAL_STORE. -/
def execCalStore (t : Nat) (s : State) : Host.Outcome State Fault Refusal :=
  let s := s.at t
  if s.mbAt opCAL then .next (s.mbDo (rOK, s.calStore)) else .next s

/-- CHAIN_JOIN: CHAIN_MEMBER with `op` 0x01. -/
def execChainJoin (t : Nat) (s : State) : Host.Outcome State Fault Refusal :=
  let s := s.at t
  if s.mbAt opCHAIN ∧ s.mbArg 0 = 1 then .next (s.mbDo (s.chainJoin (s.mbArg 1) (s.mbArg 2))) else .next s

/-- CHAIN_LEAVE: CHAIN_MEMBER with `op` 0x00. -/
def execChainLeave (t : Nat) (s : State) : Host.Outcome State Fault Refusal :=
  let s := s.at t
  if s.mbAt opCHAIN ∧ s.mbArg 0 = 0 then .next (s.mbDo s.chainLeave) else .next s

/-- OUTPUT_ENABLE: on is an enabled load even where the enable was on (R490, R492). -/
def State.outputEnable (s : State) : State :=
  if s.mbArg 0 = 1 then (s.setOe true).enabledLoad else s.setOe false

def execOutputEnable (t : Nat) (s : State) : Host.Outcome State Fault Refusal :=
  let s := s.at t
  if s.mbAt opOE then .next (s.mbDo (rOK, s.outputEnable)) else .next s

/-- SLEEP: it posts OK and entry begins at that moment. -/
def execSleep (t : Nat) (s : State) : Host.Outcome State Fault Refusal :=
  let s := s.at t
  if s.mbAt opSLEEP then
    let s := s.mbPost rOK []
    .next (if s.svc.entry then s else s.beginSleep)
  else .next s

/-! ### Fuses (R496) -/

/-- MIN_VERSION. Where no image is in force its `svn` is taken as 0 (log 12). -/
def State.fuseMinVersion (s : State) (v : Nat) : Nat × State :=
  if 64 < v ∨ s.sec.img.svn < v ∨ s.noHash = false then (rRANGE, s)
  else (rOK, (s.setSec { s.sec with minVer := max s.sec.minVer v }).showFuses)

def execFuseMinVersion (t : Nat) (s : State) : Host.Outcome State Fault Refusal :=
  let s := s.at t
  if s.mbAt opFUSE ∧ s.mbArg 0 = 1 then .next (s.mbDo (s.fuseMinVersion (s.mbArg 1))) else .next s

/-- OWNER_KEY. -/
def State.fuseOwnerKey (s : State) (k hash : Nat) : Nat × State :=
  if k ≠ 1 ∧ k ≠ 2 then (rRANGE, s)
  else
    (rOK, (s.setSec { s.sec with hashes := SMap.set 0 s.sec.hashes k hash, prog := s.sec.prog ||| 2 ^ k }).showFuses)

def execFuseOwnerKey (t : Nat) (s : State) : Host.Outcome State Fault Refusal :=
  let s := s.at t
  if s.mbAt opFUSE ∧ s.mbArg 0 = 2 then .next (s.mbDo (s.fuseOwnerKey (s.mbArg 1) (leNat ((s.mbArgs 34).drop 2)))) else .next s

/-- Another programmed slot would stay unrevoked. -/
def State.keyLeft (s : State) (k : Nat) : Bool :=
  (List.range 3).any fun j => decide (j ≠ k) && s.sec.prog.testBit j && !s.sec.rev.testBit j

/-- REVOKE. -/
def State.fuseRevoke (s : State) (k : Nat) : Nat × State :=
  if 2 < k ∨ (s.sec.img.slot ≠ 255 ∧ s.sec.img.key = k) ∨ s.keyLeft k = false ∨ s.noHash = false then (rRANGE, s)
  else (rOK, (s.setSec { s.sec with rev := s.sec.rev ||| 2 ^ k }).showFuses)

def execFuseRevoke (t : Nat) (s : State) : Host.Outcome State Fault Refusal :=
  let s := s.at t
  if s.mbAt opFUSE ∧ s.mbArg 0 = 3 then .next (s.mbDo (s.fuseRevoke (s.mbArg 1))) else .next s

/-! ### Attestation (R499) -/

/-- Exactly `n` bytes. -/
def fitBytes (n : Nat) (l : List Byte) : List Byte := (l ++ zeros n).take n

/-- Bytes 0 to 1,455 of the report. -/
def State.attestBody (s : State) (nonce : List Byte) : List Byte :=
  leBytes 4 0x41545331 ++ leBytes 1 1 ++ leBytes 1 (s.rd R.hiveId_stepping) ++ leBytes 2 (s.rd R.hiveId_part) ++
    leBytes 1 s.sec.img.slot ++ leBytes 1 s.sec.img.key ++ leBytes 1 s.sec.minVer ++ leBytes 1 (s.rd R.calStatus_copy) ++
    leBytes 8 Config.instanceField ++ leBytes 4 s.sec.img.seq ++ leBytes 32 s.sec.img.digest ++ leBytes 32 s.cal.digest ++
    leBytes 8 s.mbLast ++ leBytes 4 (min 0xFFFFFFFF s.life.rej) ++ leBytes 4 (min 0xFFFFFFFF s.life.cycles) ++
    leBytes 8 s.dial ++ nonce ++ fitBytes 1312 Config.identity

def State.attestReport (s : State) : List Byte :=
  let b := s.attestBody (s.mbArgs 32)
  b ++ fitBytes 2420 (Config.sign (sha3 b))

def execAttest (t : Nat) (s : State) : Host.Outcome State Fault Refusal :=
  let s := s.at t
  if s.mbAt opATTEST then .next (s.mbDone rOK s.attestReport) else .next s

/-! ### The flash window (R498, R503) -/

def State.flAddr (s : State) : Nat := s.rd R.secFlAddr_fl_addr

/-- A device-owned write of the flash, or an IMAGE_SWITCH that checks the slot of the address, is under way. -/
def State.flTaken (s : State) : Bool :=
  s.sec.fl.isSome || s.mbAt opKEY || s.mbAt opCAL || (s.mbAt opIMAGE && decide (s.mbArg 0 = s.flAddr / 0x1000000))

/-- Why an operation is refused; `unit` is what its address must be a multiple of. -/
def State.flRefusal (s : State) (unit : Nat) : Option Nat :=
  if s.flAddr % unit ≠ 0 then some rRANGE else if s.isSleep then some rSTATE else if s.flTaken then some rBUSY else none

/-- An operation begins: 0 erase, 1 prog, 2 read. -/
def State.flBegin (s : State) (op : Nat) : State :=
  (s.setSec { s.sec with fl := some (op, s.flAddr) }).wr R.secFlCmd_fl_busy 1

def State.flErase (s : State) : State :=
  match s.flRefusal 0x10000 with
  | some c => s.wr R.secFlCmd_result c
  | none => (s.eraseFlash (0x2000000 + s.flAddr) 0x10000).flBegin 0

def State.flBytes (s : State) : List Byte := (List.range 64).flatMap fun i => leBytes 4 (s.rd (R.secFlBuf_fl_data i))

def State.flProg (s : State) : State :=
  match s.flRefusal 0x100 with
  | some c => s.wr R.secFlCmd_result c
  | none => (s.putFlash (0x2000000 + s.flAddr) s.flBytes).flBegin 1

def State.flRead (s : State) : State :=
  match s.flRefusal 0x100 with
  | some c => s.wr R.secFlCmd_result c
  | none =>
    let a := 0x2000000 + s.flAddr
    ((List.range 64).foldl (fun s i => s.wr (R.secFlBuf_fl_data i) (s.flashNat (a + 4 * i) 4)) s).flBegin 2

def execFlashErase (t : Nat) (s : State) : Host.Outcome State Fault Refusal :=
  let s := s.at t
  if s.awake then .next s.flErase else .next s

def execFlashProg (t : Nat) (s : State) : Host.Outcome State Fault Refusal :=
  let s := s.at t
  if s.awake then .next s.flProg else .next s

def execFlashRead (t : Nat) (s : State) : Host.Outcome State Fault Refusal :=
  let s := s.at t
  if s.awake then .next s.flRead else .next s

/-- FLASH_OP_COMPLETE. -/
def execFlashOpComplete (t : Nat) (s : State) : Host.Outcome State Fault Refusal :=
  let s := s.at t
  if s.sec.fl.isSome then
    .next (((s.setSec { s.sec with fl := none }).wr R.secFlCmd_fl_busy 0).wr R.secFlCmd_result rOK)
  else .next s

end Sys2Proof.Machine
end

