-- ==== Sys2Proof/Machine/HostBus.lean ====
section
/-! DEFINITION. Accesses of the host: words, bit aliases, indirect windows, clear-on-read, and the I3C transfers and command
codes that carry them (R25 to R47, R56, R72, R234, R346, R481, R523). -/

namespace Sys2Proof.Machine

/-! ### Where an access goes (R27, R28, R34) -/

/-- The blocks that answer in Sleep. -/
def Blk.inSleep : Blk → Bool
  | .hive | .host | .wag | .time | .mon | .front | .sec | .frontx | .monx => true
  | .txn | .mem | .cal | .comb | .elv | .stp | .cap | .elvx => false

/-- What an address leads to. -/
inductive Reach where
  | word (w : WordRef)
  | locked (v : Nat)
  | asleep
  | unmapped
  deriving DecidableEq, Repr

def State.lockOf (s : State) (a : Nat) : Option Nat := (s.locks.find? fun e => decide (e.1 = a)).map (·.2)

def State.reach (s : State) (a : Nat) : Reach :=
  match blockOf a with
  | none => .unmapped
  | some (b, _, _) =>
    if s.isSleep ∧ b.inSleep = false then .asleep
    else
      match lookupWord a with
      | some w => .word w
      | none => match s.lockOf a with | some v => .locked v | none => .unmapped

/-! ### The indirect windows (R44 to R47): 0 to 3 FRONT, 4 to 7 MEM, 8 to 15 ELVENT, 16 to 20 MON -/

def winBase (k : Nat) : Nat :=
  if k < 4 then 0x30FF00 + k * 0x10000
  else if k < 8 then 0x5FF00 + (k - 4) * 0x10
  else if k < 16 then 0x200F00 + (k - 8) * 0x1000
  else 0x6FF00 + (k - 16) * 0x10

/-- The window one of whose words stands at an address, and which word. -/
def winOf (a : Nat) : Option (Nat × Nat) :=
  ((List.range 21).find? fun k => decide (winBase k ≤ a ∧ a < winBase k + 12)).map fun k => (k, (a - winBase k) / 4)

def xaddrF (k : Nat) : Fld := ⟨winBase k * 32, 24, 0⟩
def xdataF (k : Nat) : Fld := ⟨(winBase k + 4) * 32, 32, 0⟩
def xstepF (k : Nat) : Fld := ⟨(winBase k + 8) * 32, 8, 1⟩
def xreadyF (k : Nat) : Fld := ⟨(winBase k + 8) * 32 + 8, 1, 0⟩
def xincWrF (k : Nat) : Fld := ⟨(winBase k + 8) * 32 + 9, 1, 1⟩
def xincRdF (k : Nat) : Fld := ⟨(winBase k + 8) * 32 + 10, 1, 1⟩
def xresultF (k : Nat) : Fld := ⟨(winBase k + 8) * 32 + 16, 8, 0⟩
def xpendingF (k : Nat) : Fld := ⟨(winBase k + 8) * 32 + 24, 4, 0⟩

/-- The word behind an index of a window's space. -/
def winWord (k idx : Nat) : Option WordRef := lookupWord (0x100000000 + k * 0x4000000 + 4 * idx)

def State.win (s : State) (k : Nat) : WinSt := SMap.get WinSt.init s.wins k
def State.setWin (s : State) (k : Nat) (x : WinSt) : State := { s with wins := SMap.set WinSt.init s.wins k x }

/-- A prefetch starts; one under way is abandoned. -/
def State.winFetch (s : State) (k : Nat) : State := (s.wr (xreadyF k) 0).setWin k { s.win k with fetch := true }

/-- A non-OK `xresult`, which sets XERR. -/
def State.winFail (s : State) (k code from' : Nat) : State :=
  (s.wr (xresultF k) code).accFault R.hostAccStatus_xerr from'

/-- A counted access moves `xaddr` on. -/
def State.winCount (s : State) (k : Nat) (inc : Fld) : State :=
  if s.rd inc = 1 then (s.wr (xaddrF k) (s.rd (xaddrF k) + s.rd (xstepF k))).winFetch k else s

/-- A read of `xdata`; `from'` is the address of the access. -/
def State.xdataRead (s : State) (k from' : Nat) : Nat × State :=
  if s.rd (xreadyF k) = 0 then (0, s.winFail k rBUSY from')
  else if (winWord k (s.rd (xaddrF k))).isNone then (0, (s.winFail k rRANGE from').winCount k (xincRdF k))
  else (s.rd (xdataF k), s.winCount k (xincRdF k))

/-- A write of `xdata`: posted, or discarded. An uncounted one stands in `xdata` for the reads that follow. -/
def State.xdataWrite (s : State) (k data from' : Nat) : State :=
  let x := s.win k
  let idx := s.rd (xaddrF k)
  if 8 ≤ x.posted.length then s.winFail k rBUSY from'
  else if (winWord k idx).isNone then (s.winFail k rRANGE from').winCount k (xincWrF k)
  else
    let s := (s.setWin k { x with posted := x.posted ++ [(idx, data)] }).wr (xpendingF k) (x.posted.length + 1)
    if s.rd (xincWrF k) = 1 then s.winCount k (xincWrF k) else s.wr (xdataF k) data

/-! ### Reading a word (R39 to R41, R72, R234, R346, R481) -/

def WordRef.has (w : WordRef) (b : Blk) (p : Nat → Bool) : Bool := decide (w.blk = b) && p w.off

/-- The first words of tag slot and cache pairs. -/
def WordRef.cacheFirst (w : WordRef) : Bool := w.has .hive fun o => within o 0x4000 0x6000 && decide (o % 8 = 0)
def WordRef.slotFirst (w : WordRef) : Bool := w.has .hive fun o => within o 0x8000 0x10000 && decide (o % 8 = 0)

/-- The value of a stored word at an address. -/
def State.storedAt (s : State) (a : Nat) : Nat := match lookupWord a with | some w => s.wordVal w | none => 0

/-- What the start of a read brings up to date, and what it captures. -/
def State.beforeRead (s : State) (w : WordRef) : State :=
  let o := w.off
  match w.blk with
  | .time => if o = 0x10 then { s with capt := { s.capt with dial := s.dial } } else s
  | .hive =>
    if w.cacheFirst then { s with capt := { s.capt with cacheHi := s.storedAt (w.addr + 4) } }
    else if w.slotFirst then { s with capt := { s.capt with slotHi := s.storedAt (w.addr + 4) } }
    else s
  | .stp =>
    if within o 0x100 0x300 ∧ o % 16 = 8 then
      { s with capt := { s.capt with stampHi := SMap.set 0 s.capt.stampHi ((o - 0x100) / 16) (s.storedAt (w.addr + 4)) } }
    else if within o 0x800 0xA00 ∧ o % 32 = 0x14 then
      let u := (o - 0x800) / 32
      ({ s with capt := { s.capt with resHi := SMap.set 0 s.capt.resHi u (s.storedAt (w.addr + 4)) } }).setUnit u { s.unit u with unread := false }
    else if within o 0x800 0xA00 ∧ o % 32 = 4 then s.cdSettle
    else s
  | .cal => if o = 0x300 then s.captureCalendar else if o = 0x208 ∨ o = 0x20C then s.account else s
  | .comb => if within o 0 0x200 ∨ within o 0x800 0xA50 then s.settleNow w.bi else if within o 0x400 0x430 then s.biasNow w.bi else if o = 0xE08 then s.markRun w.bi else s
  | .front => if o = 4 then s.judgeNbr w.bi else s
  | .cap | .mem => s.capSettleAll
  | .host | .wag | .txn | .mon | .sec | .elv | .frontx | .elvx | .monx => s

/-- Some channel of the Waggle lines holds a flag. -/
def State.anyWag (s : State) (f : Nat → Fld) : Bool := (List.range 256).any fun c => decide (s.rd (f c) = 1)

def bit01 (b : Bool) : Nat := if b then 1 else 0

/-- `join_wait` at the moment of the read (R412, R419). -/
def State.joinWaits (s : State) : Bool :=
  s.joinWait || (decide (s.cstate = cJOINING ∧ s.rd R.chnStatus_join_wait = 1) && !s.quietHive)

/-- The value that a field reads as. -/
def State.liveFld (s : State) (w : WordRef) (f : FieldDef) : Nat :=
  let o := w.off
  let v := s.rd (w.fld f)
  match w.blk with
  | .time =>
    if o = 0x10 then s.capt.dial % 2 ^ 32
    else if o = 0x14 then s.capt.dial / 2 ^ 32 % 2 ^ 32
    else if o = 0x18 ∧ f.lo = 0 then s.capt.dial / 2 ^ 64 % 256
    else if o = 0x404 ∧ f.lo = 8 then bit01 s.joinWaits
    else v
  | .hive =>
    if within o 0x4000 0x6000 ∧ o % 8 = 4 then s.capt.cacheHi
    else if within o 0x8000 0x10000 ∧ o % 8 = 4 then s.capt.slotHi
    else v
  | .stp =>
    if within o 0x100 0x300 ∧ o % 16 = 12 then f.part (SMap.get 0 s.capt.stampHi ((o - 0x100) / 16))
    else if o = 8 ∧ f.lo = 9 then bit01 s.cdBusy
    else if within o 0x800 0xA00 ∧ o % 32 = 0x18 then f.part (SMap.get 0 s.capt.resHi ((o - 0x800) / 32))
    else v
  | .wag =>
    if o = 4 ∧ f.lo = 0 then bit01 (s.anyWag R.wagStat_overrun)
    else if o = 4 ∧ f.lo = 1 then bit01 (s.anyWag R.wagStat_coincident)
    else if o = 4 ∧ f.lo = 2 then bit01 (s.anyWag R.wagStat_loop)
    else v
  | .comb =>
    if o = 0xA44 ∧ f.lo = 0 then SMap.get 0 s.bank (s.bankKey w.bi) % 2 ^ 32
    else if o = 0xA48 ∧ f.lo = 0 then SMap.get 0 s.bank (s.bankKey w.bi) / 2 ^ 32
    else if within o 0x900 0xA00 ∧ o % 32 = 20 ∧ f.lo = 9 then bit01 (s.claimBit w.bi ((o - 0x900) / 32))
    else if within o 0xC40 0xCC0 ∧ o % 16 = 12 ∧ f.lo = 0 then bit01 (s.laneOpen w.bi ((o - 0xC40) / 16))
    else v
  | .host | .txn | .mem | .mon | .cal | .sec | .elv | .front | .cap | .frontx | .elvx | .monx => v

/-- A word as a read returns it: shadows of CFG fields, zero for command bits. -/
def State.liveWord (s : State) (w : WordRef) : Nat :=
  w.fields.foldl (fun v f => v + (if f.ty = .w1 then 0 else s.liveFld w f) * 2 ^ f.lo) 0

/-- The RC bits of a mask clear, but those set again after the snapshot, and `ref_lost` while REF_CLK is still lost. -/
def State.clearRc (s : State) (w : WordRef) (mask again : Nat) : State :=
  let s := w.fields.foldl
    (fun s f =>
      if f.ty = .rc then
        let v := s.rd (w.fld f)
        let m := f.part mask
        s.wr (w.fld f) (v - (v &&& m) + (v &&& m &&& f.part again))
      else s) s
  if w.addr = 0x1000C then s.showAlert
  else if w.addr = 0x30004 ∧ s.svc.causes.contains 3 then s.setF R.timeStatus_ref_lost
  else s

/-- A read of the word at `a` that may clear the RC bits of `mask`; `from'` is the address of the access. It is `done` once
the word's last byte has gone out. -/
def State.readWord (s : State) (a mask : Nat) (done : Bool) (again from' : Nat) : Nat × State :=
  match s.reach a with
  | .unmapped => (0, s.accFault R.hostAccStatus_acc_unmapped from')
  | .asleep => (0, s.accFault R.hostAccStatus_acc_asleep from')
  | .locked v => (v, s)
  | .word w =>
    match winOf a with
    | some (k, 1) => if done then s.xdataRead k from' else (s.rd (xdataF k) * s.rd (xreadyF k), s)
    | _ =>
      let s := s.beforeRead w
      (s.liveWord w, if done then s.clearRc w mask again else s)

def isAlias (a : Nat) : Bool := decide (0x20000000 ≤ a ∧ a < 0x40000000)
def aliasWord (a : Nat) : Nat := (a - 0x20000000) / 128 * 4
def aliasBit (a : Nat) : Nat := (a - 0x20000000) / 4 % 32

/-- Bit b of the word read. -/
def readBit (b : Nat) (r : Nat × State) : Nat × State := (r.1 / 2 ^ b % 2, r.2)

/-- A read of the word or alias at an address of the 32-bit space; an unaligned address is refused (R33). -/
def State.readAt (s : State) (a : Nat) (done : Bool) (again : Nat) : Nat × State :=
  if a % 4 ≠ 0 then (0, s.accFault R.hostAccStatus_acc_align a)
  else if isAlias a then readBit (aliasBit a) (s.readWord (aliasWord a) (2 ^ aliasBit a) done (again * 2 ^ aliasBit a) a)
  else s.readWord (a % 2 ^ 32) (2 ^ 32 - 1) done again a

/-! ### Writing a word (R3, R35, R38, R42, R43, R66, R523) -/

/-- A write of the mailbox whose `busy` is 1. -/
def State.mbBusyWrite (s : State) (w : WordRef) : Bool :=
  (w.has .host fun o => within o 0x100 0x2000) && decide (s.rd R.hostMbStatus_busy = 1)

/-- The command of bit `lo` of a word. What the outside decides (whether the flash takes a record, whether a slip aligns a
lane) is open here (log 2). -/
def State.command (s : State) (w : WordRef) (lo : Nat) : State :=
  let o := w.off
  let n := w.bi
  match w.blk with
  | .hive =>
    if o = 0x10 then s.updateStrobe (2 ^ lo)
    else if o = 0x20 then (if lo = 0 then s.updateAtArm else s.updateAtCancel)
    else s.slotClear
  | .host => s.draw.2.mailboxGo (decide (s.draw.1 % 2 = 0))
  | .mem => if lo = 0 then s.mapApply else s.hostReq
  | .elv =>
    if lo = 0 then s.retrain n
    else if lo = 1 then s.draw.2.laneSlip n (decide (s.draw.1 % 2 = 0))
    else if lo = 2 then s.negGo n
    else if lo = 3 then s.lqPush n
    else s.rxPop n
  | .mon => s.mcal
  | .comb =>
    if o = 4 then
      (if lo = 0 then s.start n else if lo = 1 then s.resume n else if lo = 2 then s.abortCmd n
        else if lo = 3 then s.shotAbort n else if lo = 4 then s.quiet n else s.iclr n)
    else if o = 0x404 then (if lo = 0 then s.biasLoadCmd n else s.tripClr n)
    else if o = 0xE04 then s.markForce n
    else if within o 0x900 0xA00 then s.cellJump n ((o - 0x900) / 32)
    else (s.settleNow n).clipClr n ((o - 0xA00) / 16)
  | .txn =>
    if o = 0x200 then s.swarmGo
    else if lo = 0 then s.txnOpen else if lo = 1 then s.txnStage else if lo = 2 then s.txnCommit else s.txnAbort
  | .cap => if lo = 0 then s.capArm else if lo = 1 then s.capStop else s.capForce
  | .stp => if o = 8 then s.cdRun else if lo = 0 then s.measGo ((o - 0x800) / 32) else s.stopUnit ((o - 0x800) / 32)
  | .wag => s.wagFire ((o - 0x1000) / 16)
  | .monx => s.accClear n
  | .cal => if o = 0 then s.calRun else s.lifeRd
  | .sec => if lo = 0 then s.flErase else if lo = 1 then s.flProg else s.flRead
  | .time | .front | .frontx | .elvx => s

/-- A value for one field, by its type. The words of the bank port stand for another place. -/
def State.putField (s : State) (w : WordRef) (f : FieldDef) (v : Nat) : State :=
  if w.bankPort ∧ f.lo = 0 then (if w.off = 0xA44 then s.bankLo w.bi v else s.bankHi w.bi v)
  else
    match f.ty with
    | .rw =>
      let s := s.putRw w f v
      if (w.has .comb fun o => within o 0x410 0x420) ∧ f.lo = 0 then s.biasStageWrite w.bi ((w.off - 0x410) / 4) v
      else
        match winOf w.addr with
        | some (k, 0) => if f.lo = 0 then s.winFetch k else s
        | _ => s
    | .rsv => s.putRw w f v
    | .cfg => s.putShadow w f v
    | .ro | .rc | .w1 => s

/-- The `result` field of a register that holds several command bits. -/
def resultFld (w : WordRef) : Fld := ⟨w.addr * 32 + 8, 8, 0⟩

/-- The command bits act after the fields: one alone, several of HIVE_UPDATE, else none (R523). -/
def State.commands (s : State) (w : WordRef) (data : Nat) : State :=
  if w.addr = 0x10 then s.updateStrobe data
  else
    match w.fields.filter fun f => decide (f.ty = .w1) && decide (f.part data ≠ 0) with
    | [] => s
    | [f] => if f.expert ∧ s.expert w = false then s else s.command w f.lo
    | _ :: _ :: _ => s.wr (resultFld w) rRANGE

/-- A complete word for a register. -/
def State.putWord (s : State) (w : WordRef) (data : Nat) : State :=
  match winOf w.addr with
  | some (k, 1) => s.xdataWrite k data w.addr
  | _ => (w.fields.foldl (fun s f => s.putField w f (f.part data)) s).commands w data

/-- A bit of a register through its alias. -/
def State.putBit (s : State) (w : WordRef) (b : Nat) (v from' : Nat) : State :=
  match w.fields.find? fun f => decide (f.lo ≤ b ∧ b < f.lo + f.width) with
  | none => s
  | some f =>
    if f.ty = .w1 then
      if v = 0 ∨ (f.expert ∧ s.expert w = false) then s else if w.addr = 0x10 then s.updateStrobe (2 ^ b) else s.command w f.lo
    else
      let old := s.liveFld w f
      let k := b - f.lo
      let new := if v = 1 then old ||| 2 ^ k else if old.testBit k then old - 2 ^ k else old
      match winOf w.addr with
      | some (x, 1) => s.xdataWrite x new from'
      | _ => s.putField w f new

/-- A write that reaches a word; `from'` is the address of the access. -/
def State.writeTo (s : State) (a from' : Nat) (put : State → WordRef → State) : State :=
  match s.reach a with
  | .unmapped => s.accFault R.hostAccStatus_acc_unmapped from'
  | .asleep => s.accFault R.hostAccStatus_acc_asleep from'
  | .locked _ => s.accFault R.hostAccStatus_wlock from'
  | .word w => if s.mbBusyWrite w then s.accFault R.hostAccStatus_mb_busy_wr from' else put s w

/-- A complete word at an address of the 32-bit space; an unaligned address is refused (R33). -/
def State.writeAt (s : State) (a data : Nat) : State :=
  if a % 4 ≠ 0 then s.accFault R.hostAccStatus_acc_align a
  else if isAlias a then s.writeTo (aliasWord a) a fun s w => s.putBit w (aliasBit a) (data % 2) a
  else s.writeTo (a % 2 ^ 32) a fun s w => s.putWord w (data % 2 ^ 32)

/-! ### Rows of single accesses -/

def State.answerBytes (s : State) (bs : List Byte) : State := s.setI3c { s.i3c with nack := false, resp := bs }

/-- A word goes out on the bus. -/
def State.answerWord (r : Nat × State) : State := r.2.answerBytes (leBytes 4 r.1)

/-- REGISTER_WRITE. -/
def execRegisterWrite (t addr data : Nat) (s : State) : Host.Outcome State Fault Refusal :=
  let s := s.at t
  if s.awake then .next (s.writeAt addr data) else .next s

/-- What the target drives for a read at `a`: the word, or one 0x00 byte where the address is not aligned (R33). -/
def State.answerRead (a : Nat) (r : Nat × State) : State := if a % 4 = 0 then State.answerWord r else r.2.answerBytes [0#8]

/-- CLEAR_ON_READ. -/
def execClearOnRead (t addr : Nat) (done : Bool) (again : Nat) (s : State) : Host.Outcome State Fault Refusal :=
  let s := s.at t
  if s.awake then .next (State.answerRead addr (s.readAt addr done again)) else .next s

/-- BIT_ALIAS_WRITE. -/
def execBitAliasWrite (t addr data : Nat) (s : State) : Host.Outcome State Fault Refusal :=
  let s := s.at t
  if s.awake ∧ isAlias addr then .next (s.writeAt addr data) else .next s

/-- LOCK_WRITE: the tables give no LOCK register an address, so the command names a word of a block that no table defines
(log 15). Anywhere else it is the write that its address makes it. -/
def State.lockWrite (s : State) (a v from' data : Nat) : State :=
  if from' % 4 ≠ 0 ∨ (blockOf a).isNone ∨ s.reach a ≠ .unmapped then s.writeAt from' data
  else { s with locks := s.locks ++ [(a, v % 2 ^ 32)] }

def execLockWrite (t addr data : Nat) (s : State) : Host.Outcome State Fault Refusal :=
  let s := s.at t
  if s.awake = false then .next s
  else if isAlias addr then .next (s.lockWrite (aliasWord addr) (data % 2 * 2 ^ aliasBit addr) addr data)
  else .next (s.lockWrite addr data addr data)

/-- DIAL_READ. -/
def execDialRead (t : Nat) (s : State) : Host.Outcome State Fault Refusal :=
  let s := s.at t
  if s.awake then .next (State.answerWord (s.readAt 0x30010 true 0)) else .next s

/-- SLOT_PAIR_READ: a read of the first word of a pair. -/
def execSlotPairRead (t addr : Nat) (s : State) : Host.Outcome State Fault Refusal :=
  let s := s.at t
  if s.awake ∧ ((within addr 0x4000 0x6000 || within addr 0x8000 0x10000) && decide (addr % 8 = 0)) then
    .next (State.answerWord (s.readAt addr true 0))
  else .next s

/-- STAMP_LAST_READ. -/
def execStampLastRead (t input : Nat) (s : State) : Host.Outcome State Fault Refusal :=
  let s := s.at t
  if s.awake then .next (State.answerWord (s.readAt (0x400108 + 16 * input) true 0)) else .next s

/-- MEASUREMENT_RESULT_READ. -/
def execMeasurementResultRead (t unit : Nat) (s : State) : Host.Outcome State Fault Refusal :=
  let s := s.at t
  if s.awake then .next (State.answerWord (s.readAt (0x400814 + 32 * unit) true 0)) else .next s

/-! ### Rows of the windows -/

/-- XADDR_WRITE; the reserved bits of the word keep their values. -/
def execXaddrWrite (t window xaddr : Nat) (s : State) : Host.Outcome State Fault Refusal :=
  let s := s.at t
  if s.awake then
    .next (s.writeAt (winBase window) (xaddr % 2 ^ 24 + s.rd ⟨winBase window * 32 + 24, 8, 0⟩ * 2 ^ 24))
  else .next s

/-- A window's space can be reached (R45). -/
def State.winUp (s : State) (k : Nat) : Bool := s.awake && (!s.isSleep || decide (k < 4 ∨ 16 ≤ k))

/-- PREFETCH_COMPLETE: it waits for a posted write of the same index (R46). -/
def execPrefetchComplete (t window : Nat) (s : State) : Host.Outcome State Fault Refusal :=
  let s := s.at t
  let x := s.win window
  let idx := s.rd (xaddrF window)
  if s.winUp window ∧ x.fetch ∧ (x.posted.all fun (p : Nat × Nat) => decide (p.1 ≠ idx)) then
    let v := match winWord window idx with | some w => s.liveWord w | none => 0
    .next (((s.setWin window { x with fetch := false }).wr (xdataF window) v).wr (xreadyF window) 1)
  else .next s

/-- XDATA_READ. -/
def execXdataRead (t window : Nat) (s : State) : Host.Outcome State Fault Refusal :=
  let s := s.at t
  if s.awake then .next (State.answerWord (s.readAt (winBase window + 4) true 0)) else .next s

/-- XDATA_WRITE. -/
def execXdataWrite (t window data : Nat) (s : State) : Host.Outcome State Fault Refusal :=
  let s := s.at t
  if s.awake then .next (s.writeAt (winBase window + 4) data) else .next s

def State.putPosted (s : State) (data : Nat) (w : Option WordRef) : State :=
  match w with
  | some w => s.putWord w data
  | none => s

/-- POSTED_WRITE_COMPLETE: the oldest posted write reaches its register. -/
def State.postedDone (s : State) (k : Nat) : State :=
  match (s.win k).posted with
  | [] => s
  | e :: rest => ((s.setWin k { s.win k with posted := rest }).wr (xpendingF k) rest.length).putPosted e.2 (winWord k e.1)

def execPostedWriteComplete (t window : Nat) (s : State) : Host.Outcome State Fault Refusal :=
  let s := s.at t
  if s.winUp window then .next (s.postedDone window) else .next s

/-! ### Transfers (R29 to R33) -/

/-- The target takes a private transfer in mode `hdr`: it has a dynamic address. -/
def State.busUp (s : State) (hdr : Nat) : Bool := s.awake && decide (s.i3c.hdr = hdr ∧ s.rd R.hostI3cCtl_dyn_valid = 1)

def State.setPtr (s : State) (a : Nat) : State := s.setI3c { s.i3c with ptr := a % 2 ^ 32 }

/-- Data words from address `a` on; the pointer ends after the last complete one. -/
def State.writeBurst (s : State) : Nat → List Byte → State
  | a, b0 :: b1 :: b2 :: b3 :: bs => (s.writeAt a (leNat [b0, b1, b2, b3])).writeBurst ((a + 4) % 2 ^ 32) bs
  | a, [] => s.setPtr a
  | a, _ :: _ => (s.setPtr a).accFault R.hostAccStatus_acc_partial a

/-- `count` bytes from address `a` on. A word that is not read to its end clears nothing. A transfer goes on past the lengths of
SETMWL and SETMRL (DESIGN CHOICE, log 58). -/
def State.readBurst (s : State) : Nat → Nat → Nat → List Byte → List Byte × State
  | 0, a, _, acc => (acc, s.setPtr a)
  | fuel + 1, a, count, acc =>
    if count = 0 then (acc, s.setPtr a)
    else if count < 4 then
      let r := s.readAt a false 0
      (acc ++ (leBytes 4 r.1).take count, (r.2.setPtr a).accFault R.hostAccStatus_acc_partial a)
    else
      let r := s.readAt a true 0
      r.2.readBurst fuel ((a + 4) % 2 ^ 32) (count - 4) (acc ++ leBytes 4 r.1)

/-- The address phase: its address, or the state after a transfer that it ends. -/
def State.addrPhase (s : State) (bs : List Byte) : Nat ⊕ State :=
  if bs.length < 4 then .inr (if bs = [] then s else s.accFault R.hostAccStatus_acc_partial s.i3c.ptr)
  else
    let a := leNat (bs.take 4)
    if a % 4 = 0 then .inl a else .inr (s.accFault R.hostAccStatus_acc_align a)

def State.writeTransfer (s : State) (bytes : List Byte) : State :=
  match s.addrPhase bytes with
  | .inl a => s.writeBurst a (bytes.drop 4)
  | .inr s => s

def State.ack (s : State) : State := s.setI3c { s.i3c with nack := false }
def State.nackIt (s : State) : State := s.setI3c { s.i3c with nack := true }

def State.readFrom (s : State) (a count : Nat) : State :=
  let r := s.readBurst (count / 4 + 1) a count []
  r.2.answerBytes r.1

/-- SDR_PRIVATE_WRITE. -/
def execSdrPrivateWrite (t : Nat) (bytes : List Byte) (s : State) : Host.Outcome State Fault Refusal :=
  let s := s.at t
  if s.busUp 0 then .next (s.ack.writeTransfer bytes) else if s.awake then .next s.nackIt else .next s

/-- SDR_PRIVATE_READ: with an address phase, or from the pointer. -/
def State.sdrRead (s : State) (addr : List Byte) (count : Nat) : State :=
  if addr = [] then s.readFrom s.i3c.ptr count
  else
    match s.addrPhase (addr.take 4) with
    | .inl a => s.readFrom a count
    | .inr s => if addr.length < 4 then s.readFrom s.i3c.ptr count else s.answerBytes [0#8]

def execSdrPrivateRead (t : Nat) (addr : List Byte) (count : Nat) (s : State) : Host.Outcome State Fault Refusal :=
  let s := s.at t
  if s.busUp 0 then .next (s.ack.sdrRead addr count) else if s.awake then .next s.nackIt else .next s

/-- A command of HDR-DDR whose code is `own`; any other code is ignored up to the HDR exit pattern. -/
def State.ddr (s : State) (code own : Nat) (f : State → State) : State :=
  if s.busUp 1 = false then s else if code = own then f s.ack else s.setI3c { s.i3c with hdr := 2 }

/-- DDR_SET_POINTER: command code 0x21. -/
def execDdrSetPointer (t : Nat) (words : DdrWords) (s : State) : Host.Outcome State Fault Refusal :=
  .next ((s.at t).ddr words.code 0x21 fun s => s.writeTransfer (words.bytes.take 4))

/-- DDR_WRITE: command code 0x20. -/
def execDdrWrite (t : Nat) (words : DdrWords) (s : State) : Host.Outcome State Fault Refusal :=
  .next ((s.at t).ddr words.code 0x20 fun s => s.writeTransfer words.bytes)

/-- DDR_READ: command code 0xA0. -/
def execDdrRead (t : Nat) (ask : DdrAsk) (s : State) : Host.Outcome State Fault Refusal :=
  .next ((s.at t).ddr ask.code 0xA0 fun s => s.readFrom s.i3c.ptr ask.count)

/-! ### Common command codes (R25, R26) -/

/-- A command code is on the bus: not in an HDR mode. -/
def State.ccc (s : State) : Bool := s.awake && decide (s.i3c.hdr = 0)

/-- A direct code reaches a target that has a dynamic address. -/
def State.directCcc (s : State) (f : State → State) : State :=
  if s.ccc = false then s else if s.rd R.hostI3cCtl_dyn_valid = 1 then f s.ack else s.nackIt

def State.setDynAddr (s : State) (a : Nat) : State := (s.wr R.hostI3cCtl_dyn_valid 1).wr R.hostI3cCtl_dyn_addr a

/-- The 48-bit provisional ID. -/
def State.pid (s : State) : Nat :=
  Config.makerId % 2 ^ 15 * 2 ^ 33 + s.rd R.hiveId_part * 2 ^ 16 + s.rd R.hiveId_stepping % 16 * 2 ^ 12 + Config.instanceField % 2 ^ 12

/-- Bytes of a number, the highest first (log 16). -/
def msbBytes (k v : Nat) : List Byte := (leBytes k v).reverse

/-- CCC_ENTDAA: a target without a dynamic address sends its ID, BCR and DCR and takes the address. -/
def execCccEntdaa (t addr : Nat) (s : State) : Host.Outcome State Fault Refusal :=
  let s := s.at t
  if s.ccc ∧ s.rd R.hostI3cCtl_dyn_valid = 0 then
    .next ((s.answerBytes (msbBytes 6 s.pid ++ [6#8, 0#8])).setDynAddr addr)
  else .next s

/-- CCC_SETDASA: to the static address, while no dynamic address is held. -/
def execCccSetdasa (t addr : Nat) (s : State) : Host.Outcome State Fault Refusal :=
  let s := s.at t
  if s.ccc ∧ s.rd R.hostI3cCtl_dyn_valid = 0 then .next (s.ack.setDynAddr addr) else .next s

def execCccSetnewda (t addr : Nat) (s : State) : Host.Outcome State Fault Refusal :=
  .next ((s.at t).directCcc fun s => s.setDynAddr addr)

def State.dropDynAddr (s : State) : State := (s.wr R.hostI3cCtl_dyn_valid 0).wr R.hostI3cCtl_dyn_addr 0

def execCccRstdaa (t : Nat) (s : State) : Host.Outcome State Fault Refusal :=
  let s := s.at t
  if s.ccc then .next s.ack.dropDynAddr else .next s

/-- CCC_ENEC: bit 0 of the event byte enables in-band interrupts. -/
def execCccEnec (t events : Nat) (s : State) : Host.Outcome State Fault Refusal :=
  let s := s.at t
  if s.ccc then .next (if events % 2 = 1 then s.ack.setI3c { s.ack.i3c with ibiEn := true } else s.ack) else .next s

/-- CCC_DISEC: it ends the retries (R60), and with them the IBI that is outstanding and the further one asked for (DESIGN CHOICE,
log 58). -/
def execCccDisec (t events : Nat) (s : State) : Host.Outcome State Fault Refusal :=
  let s := s.at t
  if s.ccc then
    .next (if events % 2 = 1 then
        s.ack.setI3c { s.ack.i3c with ibiEn := false, ibiOut := false, ibiMore := false, ibiTry := false, ibiRetry := none }
      else s.ack)
  else .next s

def execCccSetmwl (t len : Nat) (s : State) : Host.Outcome State Fault Refusal :=
  let s := s.at t
  if s.ccc then .next (s.ack.setI3c { s.ack.i3c with mwl := len % 65536 }) else .next s

def execCccSetmrl (t len : Nat) (s : State) : Host.Outcome State Fault Refusal :=
  let s := s.at t
  if s.ccc then .next (s.ack.setI3c { s.ack.i3c with mrl := len % 65536 }) else .next s

def execCccGetmwl (t : Nat) (s : State) : Host.Outcome State Fault Refusal :=
  .next ((s.at t).directCcc fun s => s.answerBytes (msbBytes 2 s.i3c.mwl))

/-- CCC_GETMRL: the length, and the maximum IBI payload of 1 byte. -/
def execCccGetmrl (t : Nat) (s : State) : Host.Outcome State Fault Refusal :=
  .next ((s.at t).directCcc fun s => s.answerBytes (msbBytes 2 s.i3c.mrl ++ [1#8]))

def execCccGetpid (t : Nat) (s : State) : Host.Outcome State Fault Refusal :=
  .next ((s.at t).directCcc fun s => s.answerBytes (msbBytes 6 s.pid))

def execCccGetbcr (t : Nat) (s : State) : Host.Outcome State Fault Refusal :=
  .next ((s.at t).directCcc fun s => s.answerBytes [6#8])

def execCccGetdcr (t : Nat) (s : State) : Host.Outcome State Fault Refusal :=
  .next ((s.at t).directCcc fun s => s.answerBytes [0#8])

/-- CCC_GETSTATUS: the manual gives no bits of the two status bytes (log 2). -/
def execCccGetstatus (t : Nat) (s : State) : Host.Outcome State Fault Refusal :=
  .next ((s.at t).directCcc fun s => s.draw.2.answerBytes (leBytes 2 s.draw.1))

/-- CCC_GETMXDS: maxWr and maxRd; a defining byte is not acknowledged. -/
def execCccGetmxds (t : Nat) (defByte : Bool) (s : State) : Host.Outcome State Fault Refusal :=
  .next ((s.at t).directCcc fun s => if defByte then s.nackIt else s.answerBytes [0#8, 0#8])

/-- The host interface reset: dynamic address, pointer and I3C state. -/
def State.hostReset (s : State) : State := s.dropDynAddr.setI3c { I3cSt.init with alert := s.i3c.alert }

/-- CCC_RSTACT: actions 0x00 and 0x01; the reset pattern carries the action out. -/
def execCccRstact (t action : Nat) (pattern : Bool) (s : State) : Host.Outcome State Fault Refusal :=
  let s := s.at t
  if s.ccc = false then .next s
  else if 1 < action then .next s.nackIt
  else if action = 1 ∧ pattern then .next s.hostReset
  else .next (s.ack.setI3c { s.ack.i3c with rstAct := action })

/-- CCC_ENTHDR0: HDR-DDR; a mode that is not supported is ignored up to the HDR exit pattern (R25). -/
def execCccEnthdr0 (entry : HdrEntry) (s : State) : Host.Outcome State Fault Refusal :=
  let s := s.at entry.dial
  if s.ccc then .next (s.ack.setI3c { s.ack.i3c with hdr := if entry.mode = 0 then 1 else 2 }) else .next s

def execHdrExit (t : Nat) (s : State) : Host.Outcome State Fault Refusal :=
  let s := s.at t
  if s.awake then .next (s.setI3c { s.i3c with hdr := 0 }) else .next s

end Sys2Proof.Machine
end

