-- ==== Sys2Proof/Machine/Dispatch.lean ====
section
/-! DEFINITION. One arm for each command: the meaning that exec calls. -/

namespace Sys2Proof.Machine

def exec (i : Instr) (s : State) : Host.Outcome State Fault Refusal :=
  match i with
  | .powerApplied t => Sys2Proof.Machine.execPowerApplied t s
  | .nresetLow t widthNs => Sys2Proof.Machine.execNresetLow t widthNs s
  | .vddAuxCollapse t milliVolt ns => Sys2Proof.Machine.execVddAuxCollapse t milliVolt ns s
  | .nresetHigh t bootSel auxMilliVolt => Sys2Proof.Machine.execNresetHigh t bootSel auxMilliVolt s
  | .pllLock t => Sys2Proof.Machine.execPllLock t s
  | .hbmTrainingDone t => Sys2Proof.Machine.execHbmTrainingDone t s
  | .converterCalDone t results => Sys2Proof.Machine.execConverterCalDone t results s
  | .enterGreen t => Sys2Proof.Machine.execEnterGreen t s
  | .leaveGreen t cause => Sys2Proof.Machine.execLeaveGreen t cause s
  | .greenLossCleared t cause => Sys2Proof.Machine.execGreenLossCleared t cause s
  | .muteNLow t => Sys2Proof.Machine.execMuteNLow t s
  | .muteNHigh t => Sys2Proof.Machine.execMuteNHigh t s
  | .refClkLoss t absentNs ppm => Sys2Proof.Machine.execRefClkLoss t absentNs ppm s
  | .refClkReturn t => Sys2Proof.Machine.execRefClkReturn t s
  | .wakePin t => Sys2Proof.Machine.execWakePin t s
  | .sleepEntryComplete t => Sys2Proof.Machine.execSleepEntryComplete t s
  | .wakeComplete t => Sys2Proof.Machine.execWakeComplete t s
  | .cccEntdaa t addr => Sys2Proof.Machine.execCccEntdaa t addr s
  | .cccSetdasa t addr => Sys2Proof.Machine.execCccSetdasa t addr s
  | .cccSetnewda t addr => Sys2Proof.Machine.execCccSetnewda t addr s
  | .cccRstdaa t => Sys2Proof.Machine.execCccRstdaa t s
  | .cccEnec t events => Sys2Proof.Machine.execCccEnec t events s
  | .cccDisec t events => Sys2Proof.Machine.execCccDisec t events s
  | .cccSetmwl t len => Sys2Proof.Machine.execCccSetmwl t len s
  | .cccSetmrl t len => Sys2Proof.Machine.execCccSetmrl t len s
  | .cccGetmwl t => Sys2Proof.Machine.execCccGetmwl t s
  | .cccGetmrl t => Sys2Proof.Machine.execCccGetmrl t s
  | .cccGetpid t => Sys2Proof.Machine.execCccGetpid t s
  | .cccGetbcr t => Sys2Proof.Machine.execCccGetbcr t s
  | .cccGetdcr t => Sys2Proof.Machine.execCccGetdcr t s
  | .cccGetstatus t => Sys2Proof.Machine.execCccGetstatus t s
  | .cccGetmxds t defByte => Sys2Proof.Machine.execCccGetmxds t defByte s
  | .cccRstact t action pattern => Sys2Proof.Machine.execCccRstact t action pattern s
  | .cccEnthdr0 entry => Sys2Proof.Machine.execCccEnthdr0 entry s
  | .hdrExit t => Sys2Proof.Machine.execHdrExit t s
  | .sdrPrivateWrite t bytes => Sys2Proof.Machine.execSdrPrivateWrite t bytes s
  | .sdrPrivateRead t addr count => Sys2Proof.Machine.execSdrPrivateRead t addr count s
  | .ddrSetPointer t words => Sys2Proof.Machine.execDdrSetPointer t words s
  | .ddrWrite t words => Sys2Proof.Machine.execDdrWrite t words s
  | .ddrRead t ask => Sys2Proof.Machine.execDdrRead t ask s
  | .registerWrite t addr data => Sys2Proof.Machine.execRegisterWrite t addr data s
  | .clearOnRead t addr fin again => Sys2Proof.Machine.execClearOnRead t addr fin again s
  | .bitAliasWrite t addr data => Sys2Proof.Machine.execBitAliasWrite t addr data s
  | .lockWrite t addr data => Sys2Proof.Machine.execLockWrite t addr data s
  | .dialRead t => Sys2Proof.Machine.execDialRead t s
  | .slotPairRead t addr => Sys2Proof.Machine.execSlotPairRead t addr s
  | .stampLastRead t input => Sys2Proof.Machine.execStampLastRead t input s
  | .measurementResultRead t unit => Sys2Proof.Machine.execMeasurementResultRead t unit s
  | .calendarRead t => Sys2Proof.Machine.execCalendarRead t s
  | .xaddrWrite t window xaddr => Sys2Proof.Machine.execXaddrWrite t window xaddr s
  | .prefetchComplete t window => Sys2Proof.Machine.execPrefetchComplete t window s
  | .xdataRead t window => Sys2Proof.Machine.execXdataRead t window s
  | .xdataWrite t window data => Sys2Proof.Machine.execXdataWrite t window data s
  | .postedWriteComplete t window => Sys2Proof.Machine.execPostedWriteComplete t window s
  | .updateStrobe t mask => Sys2Proof.Machine.execUpdateStrobe t mask s
  | .updateAtArm t => Sys2Proof.Machine.execUpdateAtArm t s
  | .updateAtCancel t => Sys2Proof.Machine.execUpdateAtCancel t s
  | .shadowCapture t => Sys2Proof.Machine.execShadowCapture t s
  | .updateApply t => Sys2Proof.Machine.execUpdateApply t s
  | .ibiAttempt t => Sys2Proof.Machine.execIbiAttempt t s
  | .ibiAcknowledged t => Sys2Proof.Machine.execIbiAcknowledged t s
  | .ibiNacked t => Sys2Proof.Machine.execIbiNacked t s
  | .ibiRetry t => Sys2Proof.Machine.execIbiRetry t s
  | .mailboxGo t flashOk => Sys2Proof.Machine.execMailboxGo t flashOk s
  | .mailboxComplete t => Sys2Proof.Machine.execMailboxComplete t s
  | .imageSwitch t => Sys2Proof.Machine.execImageSwitch t s
  | .keyChange t => Sys2Proof.Machine.execKeyChange t s
  | .calStore t => Sys2Proof.Machine.execCalStore t s
  | .chainJoin t => Sys2Proof.Machine.execChainJoin t s
  | .chainLeave t => Sys2Proof.Machine.execChainLeave t s
  | .outputEnable t => Sys2Proof.Machine.execOutputEnable t s
  | .sleep t => Sys2Proof.Machine.execSleep t s
  | .fuseMinVersion t => Sys2Proof.Machine.execFuseMinVersion t s
  | .fuseOwnerKey t => Sys2Proof.Machine.execFuseOwnerKey t s
  | .fuseRevoke t => Sys2Proof.Machine.execFuseRevoke t s
  | .attest t => Sys2Proof.Machine.execAttest t s
  | .flashErase t => Sys2Proof.Machine.execFlashErase t s
  | .flashProg t => Sys2Proof.Machine.execFlashProg t s
  | .flashRead t => Sys2Proof.Machine.execFlashRead t s
  | .flashOpComplete t => Sys2Proof.Machine.execFlashOpComplete t s
  | .seqStart t n => Sys2Proof.Machine.execSeqStart t n s
  | .seqResume t n => Sys2Proof.Machine.execSeqResume t n s
  | .seqAbort t n => Sys2Proof.Machine.execSeqAbort t n s
  | .seqShotAbort t n => Sys2Proof.Machine.execSeqShotAbort t n s
  | .seqQuiet t n => Sys2Proof.Machine.execSeqQuiet t n s
  | .seqIclr t n => Sys2Proof.Machine.execSeqIclr t n s
  | .nop t n => Sys2Proof.Machine.execNop t n s
  | .play t n => Sys2Proof.Machine.execPlay t n s
  | .wait t n => Sys2Proof.Machine.execWait t n s
  | .waitt t n => Sys2Proof.Machine.execWaitt t n s
  | .branch t n => Sys2Proof.Machine.execBranch t n s
  | .call t n => Sys2Proof.Machine.execCall t n s
  | .ret t n => Sys2Proof.Machine.execRet t n s
  | .loop t n => Sys2Proof.Machine.execLoop t n s
  | .setcLoad t n => Sys2Proof.Machine.execSetcLoad t n s
  | .setcInit t n => Sys2Proof.Machine.execSetcInit t n s
  | .setcAdd t n => Sys2Proof.Machine.execSetcAdd t n s
  | .setcSub t n => Sys2Proof.Machine.execSetcSub t n s
  | .sync t n => Sys2Proof.Machine.execSync t n s
  | .frame t n => Sys2Proof.Machine.execFrame t n s
  | .meas t n => Sys2Proof.Machine.execMeas t n s
  | .publish t n => Sys2Proof.Machine.execPublish t n s
  | .shotBegin t n => Sys2Proof.Machine.execShotBegin t n s
  | .shotEnd t n => Sys2Proof.Machine.execShotEnd t n s
  | .commitShot t n => Sys2Proof.Machine.execCommitShot t n s
  | .commitAt t n => Sys2Proof.Machine.execCommitAt t n s
  | .commitAbort t n => Sys2Proof.Machine.execCommitAbort t n s
  | .halt t n => Sys2Proof.Machine.execHalt t n s
  | .runAheadRelease t n => Sys2Proof.Machine.execRunAheadRelease t n s
  | .descCheckReturn t n => Sys2Proof.Machine.execDescCheckReturn t n s
  | .waittTriggered t n => Sys2Proof.Machine.execWaittTriggered t n s
  | .waittTimeout t n => Sys2Proof.Machine.execWaittTimeout t n s
  | .syncRelease t barrier => Sys2Proof.Machine.execSyncRelease t barrier s
  | .syncTimeout t n => Sys2Proof.Machine.execSyncTimeout t n s
  | .verdictHorizonExpiry t n => Sys2Proof.Machine.execVerdictHorizonExpiry t n s
  | .sequencerFault t n => Sys2Proof.Machine.execSequencerFault t n s
  | .microScrub t n upsets => Sys2Proof.Machine.execMicroScrub t n upsets s
  | .load t port image => Sys2Proof.Machine.execLoad t port image s
  | .loadComplete t n => Sys2Proof.Machine.execLoadComplete t n s
  | .pulseStart t n c => Sys2Proof.Machine.execPulseStart t n c s
  | .frameAction t n c => Sys2Proof.Machine.execFrameAction t n c s
  | .segmentBoundary t n c => Sys2Proof.Machine.execSegmentBoundary t n c s
  | .cellJump t n c => Sys2Proof.Machine.execCellJump t n c s
  | .bankHiWrite t n value => Sys2Proof.Machine.execBankHiWrite t n value s
  | .envelopeUnderrun t n c => Sys2Proof.Machine.execEnvelopeUnderrun t n c s
  | .clipClr t n p => Sys2Proof.Machine.execClipClr t n p s
  | .specCutoff t n => Sys2Proof.Machine.execSpecCutoff t n s
  | .windowOpen t n c => Sys2Proof.Machine.execWindowOpen t n c s
  | .windowClose t n c samples => Sys2Proof.Machine.execWindowClose t n c samples s
  | .tagSlotArrival t slot => Sys2Proof.Machine.execTagSlotArrival t slot s
  | .resultRecordWrite t n => Sys2Proof.Machine.execResultRecordWrite t n s
  | .shotTrailer t n => Sys2Proof.Machine.execShotTrailer t n s
  | .slotClear t => Sys2Proof.Machine.execSlotClear t s
  | .verdictWord t port => Sys2Proof.Machine.execVerdictWord t port s
  | .queryWord t port => Sys2Proof.Machine.execQueryWord t port s
  | .cancelWord t port => Sys2Proof.Machine.execCancelWord t port s
  | .txnOpen t => Sys2Proof.Machine.execTxnOpen t s
  | .txnStage t => Sys2Proof.Machine.execTxnStage t s
  | .txnCommit t => Sys2Proof.Machine.execTxnCommit t s
  | .txnAbort t => Sys2Proof.Machine.execTxnAbort t s
  | .txnDecisionPoint t x => Sys2Proof.Machine.execTxnDecisionPoint t x s
  | .txnApply t x => Sys2Proof.Machine.execTxnApply t x s
  | .swarmGo t => Sys2Proof.Machine.execSwarmGo t s
  | .prepare t port => Sys2Proof.Machine.execPrepare t port s
  | .vote t port => Sys2Proof.Machine.execVote t port s
  | .swarmCommit t port => Sys2Proof.Machine.execSwarmCommit t port s
  | .ack t port => Sys2Proof.Machine.execAck t port s
  | .swarmAbort t port => Sys2Proof.Machine.execSwarmAbort t port s
  | .swarmGuardExpiry t => Sys2Proof.Machine.execSwarmGuardExpiry t s
  | .statusQ t port => Sys2Proof.Machine.execStatusQ t port s
  | .statusA t port => Sys2Proof.Machine.execStatusA t port s
  | .statusNoAnswer t => Sys2Proof.Machine.execStatusNoAnswer t s
  | .boundaryActionsApply t n => Sys2Proof.Machine.execBoundaryActionsApply t n s
  | .haltedCalStep t n => Sys2Proof.Machine.execHaltedCalStep t n s
  | .overRange t port => Sys2Proof.Machine.execOverRange t port s
  | .overRangeValidReturn t port => Sys2Proof.Machine.execOverRangeValidReturn t port s
  | .bandSettleEnd t port => Sys2Proof.Machine.execBandSettleEnd t port s
  | .capArm t => Sys2Proof.Machine.execCapArm t s
  | .capStop t => Sys2Proof.Machine.execCapStop t s
  | .capForce t => Sys2Proof.Machine.execCapForce t s
  | .captureTrigger t port samples => Sys2Proof.Machine.execCaptureTrigger t port samples s
  | .captureTimeout t port => Sys2Proof.Machine.execCaptureTimeout t port s
  | .captureAuto t port => Sys2Proof.Machine.execCaptureAuto t port s
  | .captureRecordCommit t port samples => Sys2Proof.Machine.execCaptureRecordCommit t port samples s
  | .captureFallBehind t port => Sys2Proof.Machine.execCaptureFallBehind t port s
  | .biasStageWrite t n b code => Sys2Proof.Machine.execBiasStageWrite t n b code s
  | .biasLoadCmd t n => Sys2Proof.Machine.execBiasLoadCmd t n s
  | .biasLoad t n => Sys2Proof.Machine.execBiasLoad t n s
  | .tripClr t n => Sys2Proof.Machine.execTripClr t n s
  | .fluxStart t n b => Sys2Proof.Machine.execFluxStart t n b s
  | .fluxEnd t n b => Sys2Proof.Machine.execFluxEnd t n b s
  | .rangeHoldEnd t n b => Sys2Proof.Machine.execRangeHoldEnd t n b s
  | .biasLimitClamp t n b current => Sys2Proof.Machine.execBiasLimitClamp t n b current s
  | .supervisionTrip t n b cause => Sys2Proof.Machine.execSupervisionTrip t n b cause s
  | .biasSupplyTrip t q => Sys2Proof.Machine.execBiasSupplyTrip t q s
  | .biasSupplyRestored t q => Sys2Proof.Machine.execBiasSupplyRestored t q s
  | .markerEdge t n => Sys2Proof.Machine.execMarkerEdge t n s
  | .markForce t n => Sys2Proof.Machine.execMarkForce t n s
  | .stampEdge t input mv code => Sys2Proof.Machine.execStampEdge t input mv code s
  | .cdRun t => Sys2Proof.Machine.execCdRun t s
  | .cdRunComplete t counts => Sys2Proof.Machine.execCdRunComplete t counts s
  | .measurementGo t unit => Sys2Proof.Machine.execMeasurementGo t unit s
  | .measurementStop t unit => Sys2Proof.Machine.execMeasurementStop t unit s
  | .intervalResult t unit => Sys2Proof.Machine.execIntervalResult t unit s
  | .intervalTimeout t unit => Sys2Proof.Machine.execIntervalTimeout t unit s
  | .frequencyGateEnd t unit => Sys2Proof.Machine.execFrequencyGateEnd t unit s
  | .probeExchange t port => Sys2Proof.Machine.execProbeExchange t port s
  | .probe t port => Sys2Proof.Machine.execProbe t port s
  | .mapApply t => Sys2Proof.Machine.execMapApply t s
  | .hostReq t => Sys2Proof.Machine.execHostReq t s
  | .hbmScrubPass t chunk upsets => Sys2Proof.Machine.execHbmScrubPass t chunk upsets s
  | .softRepair t stack pch bank row => Sys2Proof.Machine.execSoftRepair t stack pch bank row s
  | .stackLost t stack => Sys2Proof.Machine.execStackLost t stack s
  | .descReadComplete t n => Sys2Proof.Machine.execDescReadComplete t n s
  | .streamRefill t n c => Sys2Proof.Machine.execStreamRefill t n c s
  | .farStoreAbandon t port tag => Sys2Proof.Machine.execFarStoreAbandon t port tag s
  | .frameSend t port => Sys2Proof.Machine.execFrameSend t port s
  | .frameReceive t port bits frac => Sys2Proof.Machine.execFrameReceive t port bits frac s
  | .lqPush t port => Sys2Proof.Machine.execLqPush t port s
  | .rxPop t port => Sys2Proof.Machine.execRxPop t port s
  | .user t port => Sys2Proof.Machine.execUser t port s
  | .memRd t port => Sys2Proof.Machine.execMemRd t port s
  | .memWr t port => Sys2Proof.Machine.execMemWr t port s
  | .memData t port => Sys2Proof.Machine.execMemData t port s
  | .cpl t port => Sys2Proof.Machine.execCpl t port s
  | .linkRemap t port => Sys2Proof.Machine.execLinkRemap t port s
  | .linkResume t port => Sys2Proof.Machine.execLinkResume t port s
  | .laneLoss t port lane los => Sys2Proof.Machine.execLaneLoss t port lane los s
  | .losClear t port lane => Sys2Proof.Machine.execLosClear t port lane s
  | .forwardedClockSteady t port => Sys2Proof.Machine.execForwardedClockSteady t port s
  | .lanesLocked t port slow lat => Sys2Proof.Machine.execLanesLocked t port slow lat s
  | .slipSearchDone t port slips => Sys2Proof.Machine.execSlipSearchDone t port slips s
  | .deskewDone t port words => Sys2Proof.Machine.execDeskewDone t port words s
  | .trainingActive t port => Sys2Proof.Machine.execTrainingActive t port s
  | .trainTo t port => Sys2Proof.Machine.execTrainTo t port s
  | .pauseTo t port => Sys2Proof.Machine.execPauseTo t port s
  | .retrain t port => Sys2Proof.Machine.execRetrain t port s
  | .laneSlip t port aligned => Sys2Proof.Machine.execLaneSlip t port aligned s
  | .negGo t port => Sys2Proof.Machine.execNegGo t port s
  | .announceTimer t => Sys2Proof.Machine.execAnnounceTimer t s
  | .chain t port => Sys2Proof.Machine.execChain t port s
  | .routeExpiry t dev => Sys2Proof.Machine.execRouteExpiry t dev s
  | .timeSend t => Sys2Proof.Machine.execTimeSend t s
  | .time t port => Sys2Proof.Machine.execTime t port s
  | .queenTimeout t which => Sys2Proof.Machine.execQueenTimeout t which s
  | .holdoverTimeSend t => Sys2Proof.Machine.execHoldoverTimeSend t s
  | .queenRevert t => Sys2Proof.Machine.execQueenRevert t s
  | .joinStep t => Sys2Proof.Machine.execJoinStep t s
  | .formListenEnd t => Sys2Proof.Machine.execFormListenEnd t s
  | .ppsInEdge t => Sys2Proof.Machine.execPpsInEdge t s
  | .secondBoundary t => Sys2Proof.Machine.execSecondBoundary t s
  | .ppsOutFall t => Sys2Proof.Machine.execPpsOutFall t s
  | .waggleDelivery t ch => Sys2Proof.Machine.execWaggleDelivery t ch s
  | .waggleFire t ch => Sys2Proof.Machine.execWaggleFire t ch s
  | .refractoryEnd t ch => Sys2Proof.Machine.execRefractoryEnd t ch s
  | .monConversionDone t m outs => Sys2Proof.Machine.execMonConversionDone t m outs s
  | .housekeepingDue t temps => Sys2Proof.Machine.execHousekeepingDue t temps s
  | .mcal t => Sys2Proof.Machine.execMcal t s
  | .mcalDone t paths => Sys2Proof.Machine.execMcalDone t paths s
  | .accClr t m => Sys2Proof.Machine.execAccClr t m s
  | .calRun t => Sys2Proof.Machine.execCalRun t s
  | .calPassTrigger t => Sys2Proof.Machine.execCalPassTrigger t s
  | .calMeasurementDone t item a b => Sys2Proof.Machine.execCalMeasurementDone t item a b s
  | .calAbandon t item => Sys2Proof.Machine.execCalAbandon t item s
  | .calStale t item => Sys2Proof.Machine.execCalStale t item s
  | .lifePeriodic t => Sys2Proof.Machine.execLifePeriodic t s
  | .lifeRd t => Sys2Proof.Machine.execLifeRd t s
  | .lifeRdDone t => Sys2Proof.Machine.execLifeRdDone t s

end Sys2Proof.Machine
end

