-- ==== Sys2Proof/WellFormed.lean ====
section
/-! DEFINITION. Well-formed commands: an operand lies in the range that the manual gives the field, pin or word it stands for.
`exec` has a meaning for every command; the statements that need a range name it. -/

namespace Sys2Proof

/-- A core value of an ADC: a signed 14-bit value (R268). -/
def coreValue (x : Int) : Bool := decide (-8192 ≤ x ∧ x ≤ 8191)

def word32 (x : Nat) : Bool := decide (x < 2 ^ 32)

/-- Values of an image lie in the widths of the words they stand for (R132, R134, R170, R171). -/
def ProgImage.wf (p : ProgImage) : Bool :=
  (match p.header with | some h => decide (h.nanoLen ≤ 8192) && h.starts.all (fun a => decide (a < 32768)) | none => true) &&
    (match p.micro with | some l => l.all (fun e => decide (e.1 < 32768) && e.2.all word32) | none => true) &&
    (match p.nano with | some l => l.all (fun v => decide (v < 2 ^ 192)) | none => true) &&
    (match p.counters with | some l => l.all (fun v => decide (v < 2 ^ 24)) | none => true) &&
    (match p.conditions with | some l => l.all (fun c => c.all word32) | none => true) &&
    (match p.vectors with | some l => l.all (fun v => decide (v.1 < 32768)) | none => true) &&
    (match p.barriers with | some b => word32 b | none => true) && decide (p.streams < 256) &&
    p.cache.all (fun e => e.2.all fun v => decide (v < 2 ^ 40)) && p.kernels.all (fun e => e.2.all fun v => decide (v < 2 ^ 40))

/-- The Dial value of a command. -/
def Instr.dialAt : Instr → Nat
  | .powerApplied t => t
  | .nresetLow t _ => t
  | .vddAuxCollapse t _ _ => t
  | .nresetHigh t _ _ => t
  | .pllLock t => t
  | .hbmTrainingDone t => t
  | .converterCalDone t _ => t
  | .enterGreen t => t
  | .leaveGreen t _ => t
  | .greenLossCleared t _ => t
  | .muteNLow t => t
  | .muteNHigh t => t
  | .refClkLoss t _ _ => t
  | .refClkReturn t => t
  | .wakePin t => t
  | .sleepEntryComplete t => t
  | .wakeComplete t => t
  | .cccEntdaa t _ => t
  | .cccSetdasa t _ => t
  | .cccSetnewda t _ => t
  | .cccRstdaa t => t
  | .cccEnec t _ => t
  | .cccDisec t _ => t
  | .cccSetmwl t _ => t
  | .cccSetmrl t _ => t
  | .cccGetmwl t => t
  | .cccGetmrl t => t
  | .cccGetpid t => t
  | .cccGetbcr t => t
  | .cccGetdcr t => t
  | .cccGetstatus t => t
  | .cccGetmxds t _ => t
  | .cccRstact t _ _ => t
  | .cccEnthdr0 t => t.dial
  | .hdrExit t => t
  | .sdrPrivateWrite t _ => t
  | .sdrPrivateRead t _ _ => t
  | .ddrSetPointer t _ => t
  | .ddrWrite t _ => t
  | .ddrRead t _ => t
  | .registerWrite t _ _ => t
  | .clearOnRead t _ _ _ => t
  | .bitAliasWrite t _ _ => t
  | .lockWrite t _ _ => t
  | .dialRead t => t
  | .slotPairRead t _ => t
  | .stampLastRead t _ => t
  | .measurementResultRead t _ => t
  | .calendarRead t => t
  | .xaddrWrite t _ _ => t
  | .prefetchComplete t _ => t
  | .xdataRead t _ => t
  | .xdataWrite t _ _ => t
  | .postedWriteComplete t _ => t
  | .updateStrobe t _ => t
  | .updateAtArm t => t
  | .updateAtCancel t => t
  | .shadowCapture t => t
  | .updateApply t => t
  | .ibiAttempt t => t
  | .ibiAcknowledged t => t
  | .ibiNacked t => t
  | .ibiRetry t => t
  | .mailboxGo t _ => t
  | .mailboxComplete t => t
  | .imageSwitch t => t
  | .keyChange t => t
  | .calStore t => t
  | .chainJoin t => t
  | .chainLeave t => t
  | .outputEnable t => t
  | .sleep t => t
  | .fuseMinVersion t => t
  | .fuseOwnerKey t => t
  | .fuseRevoke t => t
  | .attest t => t
  | .flashErase t => t
  | .flashProg t => t
  | .flashRead t => t
  | .flashOpComplete t => t
  | .seqStart t _ => t
  | .seqResume t _ => t
  | .seqAbort t _ => t
  | .seqShotAbort t _ => t
  | .seqQuiet t _ => t
  | .seqIclr t _ => t
  | .nop t _ => t
  | .play t _ => t
  | .wait t _ => t
  | .waitt t _ => t
  | .branch t _ => t
  | .call t _ => t
  | .ret t _ => t
  | .loop t _ => t
  | .setcLoad t _ => t
  | .setcInit t _ => t
  | .setcAdd t _ => t
  | .setcSub t _ => t
  | .sync t _ => t
  | .frame t _ => t
  | .meas t _ => t
  | .publish t _ => t
  | .shotBegin t _ => t
  | .shotEnd t _ => t
  | .commitShot t _ => t
  | .commitAt t _ => t
  | .commitAbort t _ => t
  | .halt t _ => t
  | .runAheadRelease t _ => t
  | .descCheckReturn t _ => t
  | .waittTriggered t _ => t
  | .waittTimeout t _ => t
  | .syncRelease t _ => t
  | .syncTimeout t _ => t
  | .verdictHorizonExpiry t _ => t
  | .sequencerFault t _ => t
  | .microScrub t _ _ => t
  | .load t _ _ => t
  | .loadComplete t _ => t
  | .pulseStart t _ _ => t
  | .frameAction t _ _ => t
  | .segmentBoundary t _ _ => t
  | .cellJump t _ _ => t
  | .bankHiWrite t _ _ => t
  | .envelopeUnderrun t _ _ => t
  | .clipClr t _ _ => t
  | .specCutoff t _ => t
  | .windowOpen t _ _ => t
  | .windowClose t _ _ _ => t
  | .tagSlotArrival t _ => t
  | .resultRecordWrite t _ => t
  | .shotTrailer t _ => t
  | .slotClear t => t
  | .verdictWord t _ => t
  | .queryWord t _ => t
  | .cancelWord t _ => t
  | .txnOpen t => t
  | .txnStage t => t
  | .txnCommit t => t
  | .txnAbort t => t
  | .txnDecisionPoint t _ => t
  | .txnApply t _ => t
  | .swarmGo t => t
  | .prepare t _ => t
  | .vote t _ => t
  | .swarmCommit t _ => t
  | .ack t _ => t
  | .swarmAbort t _ => t
  | .swarmGuardExpiry t => t
  | .statusQ t _ => t
  | .statusA t _ => t
  | .statusNoAnswer t => t
  | .boundaryActionsApply t _ => t
  | .haltedCalStep t _ => t
  | .overRange t _ => t
  | .overRangeValidReturn t _ => t
  | .bandSettleEnd t _ => t
  | .capArm t => t
  | .capStop t => t
  | .capForce t => t
  | .captureTrigger t _ _ => t
  | .captureTimeout t _ => t
  | .captureAuto t _ => t
  | .captureRecordCommit t _ _ => t
  | .captureFallBehind t _ => t
  | .biasStageWrite t _ _ _ => t
  | .biasLoadCmd t _ => t
  | .biasLoad t _ => t
  | .tripClr t _ => t
  | .fluxStart t _ _ => t
  | .fluxEnd t _ _ => t
  | .rangeHoldEnd t _ _ => t
  | .biasLimitClamp t _ _ _ => t
  | .supervisionTrip t _ _ _ => t
  | .biasSupplyTrip t _ => t
  | .biasSupplyRestored t _ => t
  | .markerEdge t _ => t
  | .markForce t _ => t
  | .stampEdge t _ _ _ => t
  | .cdRun t => t
  | .cdRunComplete t _ => t
  | .measurementGo t _ => t
  | .measurementStop t _ => t
  | .intervalResult t _ => t
  | .intervalTimeout t _ => t
  | .frequencyGateEnd t _ => t
  | .probeExchange t _ => t
  | .probe t _ => t
  | .mapApply t => t
  | .hostReq t => t
  | .hbmScrubPass t _ _ => t
  | .softRepair t _ _ _ _ => t
  | .stackLost t _ => t
  | .descReadComplete t _ => t
  | .streamRefill t _ _ => t
  | .farStoreAbandon t _ _ => t
  | .frameSend t _ => t
  | .frameReceive t _ _ _ => t
  | .lqPush t _ => t
  | .rxPop t _ => t
  | .user t _ => t
  | .memRd t _ => t
  | .memWr t _ => t
  | .memData t _ => t
  | .cpl t _ => t
  | .linkRemap t _ => t
  | .linkResume t _ => t
  | .laneLoss t _ _ _ => t
  | .losClear t _ _ => t
  | .forwardedClockSteady t _ => t
  | .lanesLocked t _ _ _ => t
  | .slipSearchDone t _ _ => t
  | .deskewDone t _ _ => t
  | .trainingActive t _ => t
  | .trainTo t _ => t
  | .pauseTo t _ => t
  | .retrain t _ => t
  | .laneSlip t _ _ => t
  | .negGo t _ => t
  | .announceTimer t => t
  | .chain t _ => t
  | .routeExpiry t _ => t
  | .timeSend t => t
  | .time t _ => t
  | .queenTimeout t _ => t
  | .holdoverTimeSend t => t
  | .queenRevert t => t
  | .joinStep t => t
  | .formListenEnd t => t
  | .ppsInEdge t => t
  | .secondBoundary t => t
  | .ppsOutFall t => t
  | .waggleDelivery t _ => t
  | .waggleFire t _ => t
  | .refractoryEnd t _ => t
  | .monConversionDone t _ _ => t
  | .housekeepingDue t _ => t
  | .mcal t => t
  | .mcalDone t _ => t
  | .accClr t _ => t
  | .calRun t => t
  | .calPassTrigger t => t
  | .calMeasurementDone t _ _ _ => t
  | .calAbandon t _ => t
  | .calStale t _ => t
  | .lifePeriodic t => t
  | .lifeRd t => t
  | .lifeRdDone t => t

/-- The operands beside the Dial value are in range. -/
def Instr.operandsOk : Instr → Bool
  | .powerApplied _ => true
  | .nresetLow _ _ => true
  | .vddAuxCollapse _ _ _ => true
  | .nresetHigh _ bootSel _ => decide (bootSel < 4)
  | .pllLock _ => true
  | .hbmTrainingDone _ => true
  | .converterCalDone _ results => results.all fun r => decide (r.1 < 545)
  | .enterGreen _ => true
  | .leaveGreen _ cause => decide (1 ≤ cause ∧ cause ≤ 5)
  | .greenLossCleared _ cause => decide (1 ≤ cause ∧ cause ≤ 5)
  | .muteNLow _ => true
  | .muteNHigh _ => true
  | .refClkLoss _ _ _ => true
  | .refClkReturn _ => true
  | .wakePin _ => true
  | .sleepEntryComplete _ => true
  | .wakeComplete _ => true
  | .cccEntdaa _ addr => decide (addr < 128)
  | .cccSetdasa _ addr => decide (addr < 128)
  | .cccSetnewda _ addr => decide (addr < 128)
  | .cccRstdaa _ => true
  | .cccEnec _ events => decide (events < 256)
  | .cccDisec _ events => decide (events < 256)
  | .cccSetmwl _ len => decide (len < 2 ^ 16)
  | .cccSetmrl _ len => decide (len < 2 ^ 16)
  | .cccGetmwl _ => true
  | .cccGetmrl _ => true
  | .cccGetpid _ => true
  | .cccGetbcr _ => true
  | .cccGetdcr _ => true
  | .cccGetstatus _ => true
  | .cccGetmxds _ _ => true
  | .cccRstact _ action _ => decide (action < 256)
  | .cccEnthdr0 entry => decide (entry.mode < 8)
  | .hdrExit _ => true
  | .sdrPrivateWrite _ _ => true
  | .sdrPrivateRead _ addr _ => decide (addr.length ≤ 4)
  | .ddrSetPointer _ words => decide (words.code < 256 ∧ words.code ≠ 0x20 ∧ words.code ≠ 0xA0)
  | .ddrWrite _ words => decide (words.code < 256 ∧ words.code ≠ 0x21 ∧ words.code ≠ 0xA0)
  | .ddrRead _ ask => decide (ask.code < 256 ∧ ask.code ≠ 0x20 ∧ ask.code ≠ 0x21)
  | .registerWrite _ addr data => decide (addr < 2 ^ 32 ∧ data < 2 ^ 32)
  | .clearOnRead _ addr _ again => decide (addr < 2 ^ 32 ∧ again < 2 ^ 32)
  | .bitAliasWrite _ addr data => decide (addr < 2 ^ 32 ∧ data < 2 ^ 32)
  | .lockWrite _ addr data => decide (addr < 2 ^ 32 ∧ data < 2 ^ 32)
  | .dialRead _ => true
  | .slotPairRead _ addr => decide (addr < 2 ^ 32)
  | .stampLastRead _ _ => true
  | .measurementResultRead _ _ => true
  | .calendarRead _ => true
  | .xaddrWrite _ _ xaddr => decide (xaddr < 2 ^ 24)
  | .prefetchComplete _ _ => true
  | .xdataRead _ _ => true
  | .xdataWrite _ _ data => decide (data < 2 ^ 32)
  | .postedWriteComplete _ _ => true
  | .updateStrobe _ mask => decide (mask < 2 ^ 32)
  | .updateAtArm _ => true
  | .updateAtCancel _ => true
  | .shadowCapture _ => true
  | .updateApply _ => true
  | .ibiAttempt _ => true
  | .ibiAcknowledged _ => true
  | .ibiNacked _ => true
  | .ibiRetry _ => true
  | .mailboxGo _ _ => true
  | .mailboxComplete _ => true
  | .imageSwitch _ => true
  | .keyChange _ => true
  | .calStore _ => true
  | .chainJoin _ => true
  | .chainLeave _ => true
  | .outputEnable _ => true
  | .sleep _ => true
  | .fuseMinVersion _ => true
  | .fuseOwnerKey _ => true
  | .fuseRevoke _ => true
  | .attest _ => true
  | .flashErase _ => true
  | .flashProg _ => true
  | .flashRead _ => true
  | .flashOpComplete _ => true
  | .seqStart _ _ => true
  | .seqResume _ _ => true
  | .seqAbort _ _ => true
  | .seqShotAbort _ _ => true
  | .seqQuiet _ _ => true
  | .seqIclr _ _ => true
  | .nop _ _ => true
  | .play _ _ => true
  | .wait _ _ => true
  | .waitt _ _ => true
  | .branch _ _ => true
  | .call _ _ => true
  | .ret _ _ => true
  | .loop _ _ => true
  | .setcLoad _ _ => true
  | .setcInit _ _ => true
  | .setcAdd _ _ => true
  | .setcSub _ _ => true
  | .sync _ _ => true
  | .frame _ _ => true
  | .meas _ _ => true
  | .publish _ _ => true
  | .shotBegin _ _ => true
  | .shotEnd _ _ => true
  | .commitShot _ _ => true
  | .commitAt _ _ => true
  | .commitAbort _ _ => true
  | .halt _ _ => true
  | .runAheadRelease _ _ => true
  | .descCheckReturn _ _ => true
  | .waittTriggered _ _ => true
  | .waittTimeout _ _ => true
  | .syncRelease _ _ => true
  | .syncTimeout _ _ => true
  | .verdictHorizonExpiry _ _ => true
  | .sequencerFault _ _ => true
  | .microScrub _ _ upsets => upsets.all fun u => decide (u.1 < 4 ∧ 1 ≤ u.2.2 ∧ u.2.2 ≤ 2)
  | .load _ _ image => image.wf
  | .loadComplete _ _ => true
  | .pulseStart _ _ _ => true
  | .frameAction _ _ _ => true
  | .segmentBoundary _ _ _ => true
  | .cellJump _ _ _ => true
  | .bankHiWrite _ _ value => decide (value < 2 ^ 32)
  | .envelopeUnderrun _ _ _ => true
  | .clipClr _ _ _ => true
  | .specCutoff _ _ => true
  | .windowOpen _ _ _ => true
  | .windowClose _ _ _ samples => samples.all coreValue
  | .tagSlotArrival _ _ => true
  | .resultRecordWrite _ _ => true
  | .shotTrailer _ _ => true
  | .slotClear _ => true
  | .verdictWord _ _ => true
  | .queryWord _ _ => true
  | .cancelWord _ _ => true
  | .txnOpen _ => true
  | .txnStage _ => true
  | .txnCommit _ => true
  | .txnAbort _ => true
  | .txnDecisionPoint _ _ => true
  | .txnApply _ _ => true
  | .swarmGo _ => true
  | .prepare _ _ => true
  | .vote _ _ => true
  | .swarmCommit _ _ => true
  | .ack _ _ => true
  | .swarmAbort _ _ => true
  | .swarmGuardExpiry _ => true
  | .statusQ _ _ => true
  | .statusA _ _ => true
  | .statusNoAnswer _ => true
  | .boundaryActionsApply _ _ => true
  | .haltedCalStep _ _ => true
  | .overRange _ _ => true
  | .overRangeValidReturn _ _ => true
  | .bandSettleEnd _ _ => true
  | .capArm _ => true
  | .capStop _ => true
  | .capForce _ => true
  | .captureTrigger _ _ samples => decide (samples.length ≤ 16) && samples.all coreValue
  | .captureTimeout _ _ => true
  | .captureAuto _ _ => true
  | .captureRecordCommit _ _ samples => samples.all coreValue
  | .captureFallBehind _ _ => true
  | .biasStageWrite _ _ _ code => decide (code < 2 ^ 32)
  | .biasLoadCmd _ _ => true
  | .biasLoad _ _ => true
  | .tripClr _ _ => true
  | .fluxStart _ _ _ => true
  | .fluxEnd _ _ _ => true
  | .rangeHoldEnd _ _ _ => true
  | .biasLimitClamp _ _ _ _ => true
  | .supervisionTrip _ _ _ _ => true
  | .biasSupplyTrip _ _ => true
  | .biasSupplyRestored _ _ => true
  | .markerEdge _ _ => true
  | .markForce _ _ => true
  | .stampEdge _ _ _ code => decide (code < 256)
  | .cdRun _ => true
  | .cdRunComplete _ counts => decide (counts.length = 16)
  | .measurementGo _ _ => true
  | .measurementStop _ _ => true
  | .intervalResult _ _ => true
  | .intervalTimeout _ _ => true
  | .frequencyGateEnd _ _ => true
  | .probeExchange _ _ => true
  | .probe _ _ => true
  | .mapApply _ => true
  | .hostReq _ => true
  | .hbmScrubPass _ chunk upsets => decide (chunk < 2 ^ 33) && upsets.all fun u => decide (u.1 < 2 ^ 33)
  | .softRepair _ _ _ _ _ => true
  | .stackLost _ _ => true
  | .descReadComplete _ _ => true
  | .streamRefill _ _ _ => true
  | .farStoreAbandon _ _ tag => decide (tag < 2 ^ 16)
  | .frameSend _ _ => true
  | .frameReceive _ _ _ frac => decide (frac < 256)
  | .lqPush _ _ => true
  | .rxPop _ _ => true
  | .user _ _ => true
  | .memRd _ _ => true
  | .memWr _ _ => true
  | .memData _ _ => true
  | .cpl _ _ => true
  | .linkRemap _ _ => true
  | .linkResume _ _ => true
  | .laneLoss _ _ _ _ => true
  | .losClear _ _ _ => true
  | .forwardedClockSteady _ _ => true
  | .lanesLocked _ _ _ _ => true
  | .slipSearchDone _ _ _ => true
  | .deskewDone _ _ _ => true
  | .trainingActive _ _ => true
  | .trainTo _ _ => true
  | .pauseTo _ _ => true
  | .retrain _ _ => true
  | .laneSlip _ _ _ => true
  | .negGo _ _ => true
  | .announceTimer _ => true
  | .chain _ _ => true
  | .routeExpiry _ _ => true
  | .timeSend _ => true
  | .time _ _ => true
  | .queenTimeout _ _ => true
  | .holdoverTimeSend _ => true
  | .queenRevert _ => true
  | .joinStep _ => true
  | .formListenEnd _ => true
  | .ppsInEdge _ => true
  | .secondBoundary _ => true
  | .ppsOutFall _ => true
  | .waggleDelivery _ _ => true
  | .waggleFire _ _ => true
  | .refractoryEnd _ _ => true
  | .monConversionDone _ _ _ => true
  | .housekeepingDue _ _ => true
  | .mcal _ => true
  | .mcalDone _ _ => true
  | .accClr _ _ => true
  | .calRun _ => true
  | .calPassTrigger _ => true
  | .calMeasurementDone _ item _ _ => decide (item < 545)
  | .calAbandon _ item => decide (item < 545)
  | .calStale _ item => decide (item < 545)
  | .lifePeriodic _ => true
  | .lifeRd _ => true
  | .lifeRdDone _ => true

/-- The Dial has 72 bits (R70). -/
def Instr.wf (c : Instr) : Bool := decide (c.dialAt < 2 ^ 72) && c.operandsOk

end Sys2Proof
end

