-- ==== Sys2Proof/Safety.lean ====
section
/-! DEFINITION. What claims are stated in: the answers of a command, the model's invariants, and Dark. -/

namespace Sys2Proof

/-- The commands that Dark itself takes: power, nRESET, VDD_AUX and MUTE_N. -/
def Instr.isPower : Instr → Bool
  | .powerApplied _ => true
  | .nresetLow _ _ => true
  | .vddAuxCollapse _ _ _ => true
  | .nresetHigh _ _ _ => true
  | .muteNLow _ => true
  | .muteNHigh _ => true
  | _ => false

end Sys2Proof

namespace Sys2Proof.Machine

/-- The command answers a next state with the property `P`. -/
def Answers (c : Instr) (s : State) (P : State → Prop) : Prop := ∃ u, exec c s = .next u ∧ P u

/-- HBM and flash are in their canonical form. -/
def State.memOk (s : State) : Bool := Memory.wf hbmBlank s.hbm && Memory.wf flashBlank s.flash

/-- The invariant of the model: canonical memories, and a Dial of 72 bits (R70). -/
def State.Inv (s : State) : Prop := s.memOk = true ∧ s.dial < 2 ^ 72

/-- What a command keeps: the queue, and the invariant. -/
def Keeps (s u : State) : Prop := u.pending = s.pending ∧ (s.Inv → u.Inv)

/-- Every register field but those listed reads in `u` as in `s`, and every active value is the same. -/
def State.RegsBut (u s : State) (fs : List Fld) : Prop :=
  (∀ f : Fld, f.key ∉ fs.map Fld.key → u.rd f = s.rd f) ∧ u.act = s.act

/-- Registers but those listed, active values, and every byte of HBM and flash are in `u` as in `s`. -/
def State.SameBut (u s : State) (fs : List Fld) : Prop := u.RegsBut s fs ∧ u.hbm = s.hbm ∧ u.flash = s.flash

/-- Sequencer n starts or goes on with the step at its `pc` (R136 to R138, R159): the word, and the state in which its effect
acts. -/
def State.ready (s : State) (n : Nat) : Option (Nat × State) :=
  if s.awake && s.mayStep n && decide (s.anchor n ≤ s.dial + 16384) then
    match s.fetchMicro n with
    | (none, _) => none
    | (some w, v) =>
      if v.midStep n || !mwSafe w then some (w, v)
      else if (v.seq n).checks = [] ∧ ((v.recordSafe n).takeSafe n).isNone then some (w, v.recordSafe n)
      else none
  else none

end Sys2Proof.Machine
end

