-- ==== Sys2Proof/Certificates/Slice0/Obligations.lean ====
section
/-! DEFINITION. The statements for the provers. -/

open Sys2Proof Sys2Proof.Machine

/-- One step runs the command at the front of the queue on the state with the rest of the queue. Formalises 00_scope.md; INDEX.md. -/
def Obligations.StepRunsTheFrontCommand : Prop :=
  ∀ (c : Instr) (l : List Instr) (s : State), step { s with pending := c :: l } = exec c { s with pending := l }

/-- With no command waiting a step lets the Dial count once and changes no register (model's choice, log 1). Formalises 03_timebase_and_scheduling.md: The Dial. -/
def Obligations.EmptyQueueAdvancesTheDial : Prop :=
  (∀ (s : State), s.pending = [] → s.svc.svc ≠ .dark → s.dial % s.gran = 0 → ∃ u, step s = .next u ∧ u.dial = (s.dial + s.gran) % 2 ^ 72 ∧ u.regs = s.regs ∧ u.act = s.act ∧ u.hbm = s.hbm ∧ u.flash = s.flash) ∧
  (∀ (s : State), s.pending = [] → s.svc.svc = .dark → step s = .next s)

/-- The state after reset is Dark, with an empty queue, and meets the model's invariant. Formalises 01_architecture.md: Service states; 03_timebase_and_scheduling.md: The Dial; 14_memory.md; 20_boot_and_security.md: Flash layout. -/
def Obligations.ResetMeetsInvariant : Prop :=
  State.reset.Inv ∧ State.reset.pending = [] ∧ State.reset.svc.svc = .dark ∧ ∀ f : Fld, State.reset.rd f = f.reset

/-- Every step keeps the canonical memories and the 72-bit Dial. Formalises 03_timebase_and_scheduling.md: The Dial; 14_memory.md; 20_boot_and_security.md: Flash layout. -/
def Obligations.EveryStepKeepsInvariant : Prop :=
  ∀ (s u : State), s.Inv → step s = .next u → u.Inv

/-- Every command on every state answers a next state, and no command touches the queue behind it. Formalises 00_scope.md; 01_architecture.md. -/
def Obligations.EveryCommandCompletesAndLeavesTheQueue : Prop :=
  ∀ (c : Instr) (s : State), Answers c s fun u => u.pending = s.pending

/-- In Dark no command but power, nRESET, VDD_AUX and MUTE_N events changes anything. Formalises 01_architecture.md: Service states; 21_power_and_package.md: Supply faults while running. -/
def Obligations.DarkIsDeafToCommands : Prop :=
  ∀ (c : Instr) (s : State), s.enterDark = s → c.isPower = false → exec c s = .next s

/-- Power, nRESET low and a VDD_AUX collapse lead to Dark: registers at reset, flash and fuses kept but where a write is cut off. Formalises 01_architecture.md: Service states; 21_power_and_package.md: Supply faults while running; 20_boot_and_security.md: Flash window. -/
def Obligations.PowerLossClearsEverything : Prop :=
  (∀ (t : Nat) (s : State), Answers (.powerApplied t) s fun u => u = (s.at t).enterDark ∧ u.svc.svc = .dark ∧ (∀ f : Fld, u.rd f = f.reset) ∧ u.hbm = [] ∧ u.sec.keys = s.sec.keys) ∧
  (∀ (t w : Nat) (s : State), 100 ≤ w → Answers (.nresetLow t w) s fun u => u = (s.at t).enterDark ∧ u.svc.svc = .dark ∧ (∀ f : Fld, u.rd f = f.reset) ∧ u.hbm = [] ∧ u.sec.keys = s.sec.keys) ∧
  (∀ (t w : Nat) (s : State), w < 100 → Answers (.nresetLow t w) s fun u => u = s.at t) ∧
  (∀ (t mv ns : Nat) (s : State), mv < 1600 → 1000 ≤ ns → Answers (.vddAuxCollapse t mv ns) s fun u => u = (s.at t).enterDark ∧ u.svc.svc = .dark ∧ (∀ f : Fld, u.rd f = f.reset) ∧ u.hbm = [] ∧ u.sec.keys = s.sec.keys) ∧
  (∀ (t mv ns : Nat) (s : State), (1600 ≤ mv ∨ ns < 1000) → Answers (.vddAuxCollapse t mv ns) s fun u => u = s.at t) ∧
  (∀ (t : Nat) (s : State), s.sec.fl = none → s.sec.mb = none → Answers (.powerApplied t) s fun u => u.flash = s.flash ∧ u.sec.hashes = s.sec.hashes ∧ u.sec.keys = s.sec.keys ∧ u.sec.minVer = s.sec.minVer ∧ u.sec.rev = s.sec.rev) ∧
  (∀ (t w : Nat) (s : State), s.sec.fl = none → s.sec.mb = none → 100 ≤ w → Answers (.nresetLow t w) s fun u => u.flash = s.flash ∧ u.sec.hashes = s.sec.hashes ∧ u.sec.keys = s.sec.keys ∧ u.sec.minVer = s.sec.minVer ∧ u.sec.rev = s.sec.rev) ∧
  (∀ (t mv ns : Nat) (s : State), s.sec.fl = none → s.sec.mb = none → mv < 1600 → 1000 ≤ ns → Answers (.vddAuxCollapse t mv ns) s fun u => u.flash = s.flash ∧ u.sec.hashes = s.sec.hashes ∧ u.sec.keys = s.sec.keys ∧ u.sec.minVer = s.sec.minVer ∧ u.sec.rev = s.sec.rev) ∧
  (∀ (t w x : Nat) (s : State), s.sec.fl = some (0, x) → 100 ≤ w → Answers (.nresetLow t w) s fun u => ∀ a : Nat, a < 0x2000000 + x ∨ 0x2010000 + x ≤ a → u.flashByte a = s.flashByte a)

/-- A rising nRESET in Dark boots into Amber; Recovery is chosen by BOOT_SEL = 2 and needs no image. Formalises 20_boot_and_security.md: The boot sequence; 20_boot_and_security.md: Choosing a slot; 21_power_and_package.md: Sequencing. -/
def Obligations.NresetHighBoots : Prop :=
  (∀ (t b mv : Nat) (s : State), s.svc.svc = .dark → 1746 ≤ mv → mv ≤ 1854 → b % 4 = 2 → Answers (.nresetHigh t b mv) s fun u => u = (((((({ s with dial := 0 }.wr R.secBoot_boot_sel 2).wr R.timeStatus_ref_ok 1).showFuses).setLast s.ctrBoot).loadKey.wr R.secBoot_recovery 1).calLoad).enterAmber t true) ∧
  (∀ (t b mv : Nat) (s : State), s.svc.svc = .dark → 1746 ≤ mv → mv ≤ 1854 → b % 4 ≠ 2 → Answers (.nresetHigh t b mv) s fun u => u = s.boot t (b % 4)) ∧
  (∀ (t b mv : Nat) (s : State), (s.svc.svc ≠ .dark ∨ mv < 1746 ∨ 1854 < mv) → Answers (.nresetHigh t b mv) s fun u => u = s.at t)

/-- PLL_LOCK, HBM_TRAINING_DONE and CONVERTER_CAL_DONE set what Green waits for. Formalises 01_architecture.md: Service states; 20_boot_and_security.md: The boot sequence; 03_timebase_and_scheduling.md: Reference and derived clocks. -/
def Obligations.ClocksAndTrainingComplete : Prop :=
  (∀ (t : Nat) (s : State), s.svc.svc = .amber → s.rd R.timeStatus_pll_lock = 0 → Answers (.pllLock t) s fun u => u = (s.at t).lockPll (s.at t).dial) ∧
  (∀ (t : Nat) (s : State), (s.svc.svc = .amber ∨ s.svc.svc = .green) → s.svc.hbmTrained = false → 5 ∉ s.svc.causes → Answers (.hbmTrainingDone t) s fun u => u = ((List.range 4).foldl (fun v k => v.showSpares k) ((s.at t).setSvc { s.svc with hbmTrained := true }).bootRecord).bootSections.bootCheck) ∧
  (∀ (t : Nat) (s : State), s.svc.svc = .amber → s.svc.convCal = false → s.rd R.timeStatus_pll_lock = 1 → s.rd R.secBoot_recovery = 0 → s.rd R.secBoot_no_image = 0 → 2 ∉ s.svc.causes → 3 ∉ s.svc.causes → s.cal.boot = false → Answers (.converterCalDone t []) s fun u => u = ((s.at t).setSvc { s.svc with convCal := true }).bootCheck) ∧
  (∀ (t : Nat) (s : State), s.svc.svc = .amber → s.svc.entry = false → s.fit = true → s.rd R.hiveSvcCtl_green_hold = 0 → s.svc.greenSeen = true → Answers (.enterGreen t) s fun u => u = (s.at t).toGreen ∧ u.svc.svc = .green ∧ u.svc.greenSeen = true)

/-- LEAVE_GREEN leads to Amber and records the cause; GREEN_LOSS_CLEARED takes the cause off the list. Formalises 01_architecture.md: Service states; 18_monitor_and_thermal.md: Temperatures. -/
def Obligations.GreenIsLostAndCleared : Prop :=
  (∀ (t c : Nat) (s : State), s.svc.svc = .green → (c = 1 ∨ c = 3 ∨ c = 4 ∨ c = 5) → Answers (.leaveGreen t c) s fun u => u = ((s.at t).noteCause c).leaveGreen c ∧ u.svc.svc = .amber ∧ u.rd R.hiveState_state = 1 ∧ u.rd R.hiveState_cause = c ∧ c ∈ u.svc.causes) ∧
  (∀ (t : Nat) (s : State), s.svc.svc = .green → Answers (.leaveGreen t 2) s fun u => u = (((s.at t).wr R.timeStatus_pll_lock 0).noteCause 2).leaveGreen 2 ∧ u.svc.svc = .amber ∧ u.rd R.hiveState_state = 1 ∧ u.rd R.hiveState_cause = 2 ∧ 2 ∈ u.svc.causes) ∧
  (∀ (t c : Nat) (s : State), s.svc.svc = .amber → 1 ≤ c → c ≤ 5 → c ≠ 2 → Answers (.leaveGreen t c) s fun u => u = ((s.at t).noteCause c).fireD 84 ∧ u.svc.svc = .amber ∧ c ∈ u.svc.causes) ∧
  (∀ (t c : Nat) (s : State), s.svc.svc ≠ .dark → c ∈ s.svc.causes → (c = 2 ∨ c = 3) → Answers (.greenLossCleared t c) s fun u => u = ((s.at t).setSvc { s.svc with causes := s.svc.causes.filter (· ≠ c) }).bootCheck ∧ c ∉ u.svc.causes ∧ u.svc.svc = s.svc.svc) ∧
  (∀ (t : Nat) (s : State), s.svc.svc ≠ .dark → 1 ∈ s.svc.causes → Answers (.greenLossCleared t 1) s fun u => u = (((s.at t).setSvc { s.svc with causes := s.svc.causes.filter (· ≠ 1) }).wr R.thmStatus_shut 0).bootCheck ∧ 1 ∉ u.svc.causes ∧ u.rd R.thmStatus_shut = 0) ∧
  (∀ (t : Nat) (s : State), s.svc.svc ≠ .dark → 4 ∈ s.svc.causes → Answers (.greenLossCleared t 4) s fun u => u = (((s.at t).setSvc { s.svc with causes := s.svc.causes.filter (· ≠ 4) }).wr R.monStatus_rail_bad 0).bootCheck ∧ 4 ∉ u.svc.causes ∧ u.rd R.monStatus_rail_bad = 0) ∧
  (∀ (t : Nat) (s : State), s.svc.svc ≠ .dark → 5 ∈ s.svc.causes → Answers (.greenLossCleared t 5) s fun u => u = ((s.at t).setSvc { s.svc with causes := s.svc.causes.filter (· ≠ 5), hbmTrained := true }).bootCheck ∧ 5 ∉ u.svc.causes ∧ u.svc.hbmTrained = true) ∧
  (∀ (t : Nat) (s : State), s.svc.svc = .sleep → Answers (.leaveGreen t 1) s fun u => u = ((s.at t).noteCause 1).leaveGreen 1 ∧ u.svc.svc = .amber ∧ u.rd R.hiveState_cause = 1) ∧
  (∀ (t c : Nat) (s : State), s.svc.svc = .sleep → (c = 3 ∨ c = 4 ∨ c = 5) → Answers (.leaveGreen t c) s fun u => u = ((s.at t).noteCause c).fireD 84 ∧ u.svc.svc = .sleep ∧ c ∈ u.svc.causes) ∧
  (∀ (t c : Nat) (s : State), (c = 0 ∨ 5 < c) → Answers (.leaveGreen t c) s fun u => u = s.at t) ∧
  (∀ (t c : Nat) (s : State), c ∉ s.svc.causes → Answers (.greenLossCleared t c) s fun u => u = s.at t)

/-- MUTE_N, REF_CLK, WAKE, the end of Sleep entry and the end of the wake. Formalises 20_boot_and_security.md: Sleep; 10_rf_ports.md: The mute state; 02_host_and_registers.md: Host pins; 03_timebase_and_scheduling.md: Reference and derived clocks. -/
def Obligations.PinsAndSleep : Prop :=
  (∀ (t : Nat) (s : State), s.svc.svc ≠ .dark → s.svc.muteHigh = true → Answers (.muteNLow t) s fun u => u = (s.at t).muteLow ∧ u.rd R.hiveState_muted = 1) ∧
  (∀ (t : Nat) (s : State), s.svc.svc = .dark → s.svc.muteHigh = true → Answers (.muteNLow t) s fun u => u.svc.muteHigh = false ∧ u.regs = s.regs) ∧
  (∀ (t : Nat) (s : State), s.svc.svc ≠ .dark → s.svc.muteHigh = false → Answers (.muteNHigh t) s fun u => u = ((((s.at t).markOverlap.setSvc { (s.at t).markOverlap.svc with muteHigh := true }).askResume).readyAll 3).hiveMuted) ∧
  (∀ (t a p : Nat) (s : State), s.svc.svc ≠ .dark → ((a < 200 ∧ 25000 < p) ∨ (200 ≤ a ∧ s.rd R.timeStatus_dial_free = 1)) → Answers (.refClkLoss t a p) s fun u => u = ((((s.at t).wr R.timeStatus_ref_ok 0).setF R.timeStatus_ref_lost).greenLoss 3)) ∧
  (∀ (t a p : Nat) (s : State), s.svc.svc ≠ .dark → 200 ≤ a → s.rd R.timeStatus_dial_free = 0 → Answers (.refClkLoss t a p) s fun u => u = ((((((s.at t).wr R.timeStatus_ref_ok 0).setF R.timeStatus_ref_lost).wr R.timeStatus_dial_free 1).abortUnits).greenLoss 3)) ∧
  (∀ (t : Nat) (s : State), s.svc.svc ≠ .dark → s.rd R.timeStatus_ref_ok = 0 → Answers (.refClkReturn t) s fun u => u.rd R.timeStatus_ref_ok = 1 ∧ u.rd R.timeStatus_dial_free = 0 ∧ u.hbm = s.hbm ∧ u.flash = s.flash ∧ u.RegsBut s [R.timeStatus_ref_ok, R.timeStatus_dial_free]) ∧
  (∀ (t : Nat) (s : State), s.svc.svc = .sleep → s.svc.wakeAt = none → Answers (.wakePin t) s fun u => u.svc.wakeAt = some (s.at t).dial ∧ u.regs = s.regs) ∧
  (∀ (t : Nat) (s : State), s.svc.svc ≠ .dark → s.svc.entry = true → Answers (.sleepEntryComplete t) s fun u => u = (let v := ((s.at t).capService.abortUnits.toSvc .sleep).wr R.timeStatus_pll_lock 0; v.setSvc { v.svc with entry := false, asleepAt := v.dial, fine := false, wakeAt := v.svc.wakeAt.map fun _ => v.dial }) ∧ u.svc.svc = .sleep ∧ u.svc.entry = false ∧ u.rd R.timeStatus_pll_lock = 0) ∧
  (∀ (t w : Nat) (s : State), s.svc.svc = .sleep → s.svc.wakeAt = some w → w + 230400000 ≤ (s.at t).dial → Answers (.wakeComplete t) s fun u => u = (s.at t).endWake w)

/-- LIFE_PERIODIC, LIFE_RD, LIFE_RD_DONE and CALENDAR_READ. Formalises 19_calibration_and_life.md: The life log; 19_calibration_and_life.md: The perpetual calendar. -/
def Obligations.LifeLogAndCalendar : Prop :=
  (∀ (t : Nat) (s : State), s.svc.svc ≠ .dark → s.life.dueAt ≤ (s.at t).dial → Answers (.lifePeriodic t) s fun u => u = (let v := (s.at t).account; let w := v.lifeAppend 1 v.life.page (v.lifePage v.life.page); w.setLife { w.life with page := (w.life.page + 1) % 49, dueAt := w.life.dueAt + 600 * ticksPerSec }) ∧ u.life.page = (s.life.page + 1) % 49 ∧ u.life.dueAt = s.life.dueAt + 600 * ticksPerSec) ∧
  (∀ (t : Nat) (s : State), (s.svc.svc = .amber ∨ s.svc.svc = .green) → s.rd R.lifeCtl_life_back < 262144 → s.life.reading ≠ none → Answers (.lifeRd t) s fun u => u = (s.at t).wr R.lifeCtl_result 1) ∧
  (∀ (t : Nat) (s : State), (s.svc.svc = .amber ∨ s.svc.svc = .green) → s.rd R.lifeCtl_life_back < 262144 → s.life.reading = none → Answers (.lifeRd t) s fun u => u = (((s.at t).setLife { s.life with reading := some (s.rd R.lifeCtl_life_back) }).wr R.lifeCtl_life_ready 0).wr R.lifeCtl_result 0) ∧
  (∀ (t k : Nat) (s : State), s.life.reading = some k → Answers (.lifeRdDone t) s fun u => u.rd R.lifeCtl_life_ready = 1 ∧ u.life.reading = none ∧ u.flash = s.flash ∧ (∀ w : Fin 16, u.rd (R.lifeRec_rec w) = s.flashNat (lifeAddr ((s.life.slot.getD 0 + 262144 - k) % 262144) + 4 * w) 4) ∧ u.RegsBut s (R.lifeCtl_life_ready :: R.lifeCtl_life_ok :: (List.range 16).map R.lifeRec_rec)) ∧
  (∀ (t : Nat) (s : State), (s.svc.svc = .amber ∨ s.svc.svc = .green) → Answers (.calendarRead t) s fun u => u = (s.at t).captureCalendar ∧ u.rd R.cldTime_hour = (s.at t).label % 86400 / 3600 ∧ u.rd R.cldTime_minute = (s.at t).label % 3600 / 60 ∧ u.rd R.cldTime_second = (s.at t).label % 60)

/-- An unmapped word reads 0, a write to it changes nothing else, and either access sets ACC_UNMAPPED. Formalises R34. -/
def Obligations.UnmappedWordsReadZero : Prop :=
  (∀ (t a again : Nat) (fin : Bool) (s : State), s.svc.svc ≠ .dark → a % 4 = 0 → isAlias a = false → s.reach (a % 2 ^ 32) = .unmapped → Answers (.clearOnRead t a fin again) s fun u => u.i3c.resp = [0#8, 0#8, 0#8, 0#8] ∧ u.rd R.hostAccStatus_acc_unmapped = 1 ∧ u.act = s.act ∧ u.hbm = s.hbm ∧ u.flash = s.flash ∧ (∀ f : Fld, f.key ≠ R.hostAccStatus_acc_unmapped.key → f.key ≠ R.hostAccAddr_addr.key → u.rd f = s.rd f)) ∧
  (∀ (t a data : Nat) (s : State), s.svc.svc ≠ .dark → a % 4 = 0 → isAlias a = false → s.reach (a % 2 ^ 32) = .unmapped → Answers (.registerWrite t a data) s fun u => u.rd R.hostAccStatus_acc_unmapped = 1 ∧ u.act = s.act ∧ u.hbm = s.hbm ∧ u.flash = s.flash ∧ (∀ f : Fld, f.key ≠ R.hostAccStatus_acc_unmapped.key → f.key ≠ R.hostAccAddr_addr.key → u.rd f = s.rd f))

/-- A transfer whose start address is not a multiple of 4 sets ACC_ALIGN, writes nothing, reads one zero byte. Formalises R33. -/
def Obligations.MisalignedTransfersAreRefused : Prop :=
  (∀ (t : Nat) (bs : List Byte) (s : State), s.busUp 0 = true → 4 ≤ bs.length → leNat (bs.take 4) % 4 ≠ 0 → Answers (.sdrPrivateWrite t bs) s fun u => u.rd R.hostAccStatus_acc_align = 1 ∧ u.i3c.ptr = s.i3c.ptr ∧ u.i3c.nack = false ∧ u.hbm = s.hbm ∧ u.flash = s.flash ∧ (∀ f : Fld, f.key ≠ R.hostAccStatus_acc_align.key → f.key ≠ R.hostAccAddr_addr.key → u.rd f = s.rd f)) ∧
  (∀ (t k : Nat) (bs : List Byte) (s : State), s.busUp 0 = true → 4 ≤ bs.length → leNat (bs.take 4) % 4 ≠ 0 → Answers (.sdrPrivateRead t bs k) s fun u => u.i3c.resp = [0#8] ∧ u.rd R.hostAccStatus_acc_align = 1 ∧ u.i3c.ptr = s.i3c.ptr ∧ u.i3c.nack = false ∧ u.hbm = s.hbm ∧ u.flash = s.flash ∧ (∀ f : Fld, f.key ≠ R.hostAccStatus_acc_align.key → f.key ≠ R.hostAccAddr_addr.key → u.rd f = s.rd f)) ∧
  (∀ (t : Nat) (bs : List Byte) (s : State), s.busUp 1 = true → 4 ≤ bs.length → leNat (bs.take 4) % 4 ≠ 0 → Answers (.ddrWrite t ⟨0x20, bs⟩) s fun u => u.rd R.hostAccStatus_acc_align = 1 ∧ u.i3c.ptr = s.i3c.ptr ∧ u.i3c.nack = false ∧ u.hbm = s.hbm ∧ u.flash = s.flash ∧ (∀ f : Fld, f.key ≠ R.hostAccStatus_acc_align.key → f.key ≠ R.hostAccAddr_addr.key → u.rd f = s.rd f)) ∧
  (∀ (t : Nat) (bs : List Byte) (s : State), s.busUp 1 = true → bs.length = 4 → leNat bs % 4 ≠ 0 → Answers (.ddrSetPointer t ⟨0x21, bs⟩) s fun u => u.rd R.hostAccStatus_acc_align = 1 ∧ u.i3c.ptr = s.i3c.ptr ∧ u.i3c.nack = false ∧ u.hbm = s.hbm ∧ u.flash = s.flash ∧ (∀ f : Fld, f.key ≠ R.hostAccStatus_acc_align.key → f.key ≠ R.hostAccAddr_addr.key → u.rd f = s.rd f)) ∧
  (∀ (t a data : Nat) (s : State), s.svc.svc ≠ .dark → a % 4 ≠ 0 → Answers (.registerWrite t a data) s fun u => u.rd R.hostAccStatus_acc_align = 1 ∧ u.i3c.ptr = s.i3c.ptr ∧ u.hbm = s.hbm ∧ u.flash = s.flash ∧ (∀ f : Fld, f.key ≠ R.hostAccStatus_acc_align.key → f.key ≠ R.hostAccAddr_addr.key → u.rd f = s.rd f)) ∧
  (∀ (t a again : Nat) (fin : Bool) (s : State), s.svc.svc ≠ .dark → a % 4 ≠ 0 → Answers (.clearOnRead t a fin again) s fun u => u.i3c.resp = [0#8] ∧ u.rd R.hostAccStatus_acc_align = 1 ∧ u.i3c.ptr = s.i3c.ptr ∧ u.hbm = s.hbm ∧ u.flash = s.flash ∧ (∀ f : Fld, f.key ≠ R.hostAccStatus_acc_align.key → f.key ≠ R.hostAccAddr_addr.key → u.rd f = s.rd f))

/-- Aligned transfers of bytes: pointer sets, burst writes and burst reads. Formalises 02_host_and_registers.md: Register transfers. -/
def Obligations.TransfersMoveThePointer : Prop :=
  (∀ (t : Nat) (bs : List Byte) (s : State), s.busUp 0 = true → bs.length = 4 → leNat bs % 4 = 0 → Answers (.sdrPrivateWrite t bs) s fun u => u.i3c.ptr = leNat bs ∧ u.regs = s.regs) ∧
  (∀ (t : Nat) (bs : List Byte) (s : State), s.busUp 1 = true → bs.length = 4 → leNat bs % 4 = 0 → Answers (.ddrSetPointer t ⟨0x21, bs⟩) s fun u => u.i3c.ptr = leNat bs ∧ u.regs = s.regs) ∧
  (∀ (t : Nat) (bs d : List Byte) (s : State), s.busUp 0 = true → bs.length = 4 → d.length = 4 → leNat bs % 4 = 0 → Answers (.sdrPrivateWrite t (bs ++ d)) s fun u => u = (((s.at t).ack).writeAt (leNat bs) (leNat d)).setPtr ((leNat bs + 4) % 2 ^ 32)) ∧
  (∀ (t : Nat) (bs d : List Byte) (s : State), s.busUp 1 = true → bs.length = 4 → d.length = 4 → leNat bs % 4 = 0 → Answers (.ddrWrite t ⟨0x20, bs ++ d⟩) s fun u => u = (((s.at t).ack).writeAt (leNat bs) (leNat d)).setPtr ((leNat bs + 4) % 2 ^ 32)) ∧
  (∀ (t k : Nat) (bs : List Byte) (s : State), s.busUp 0 = true → bs.length = 4 → leNat bs % 4 = 0 → Answers (.sdrPrivateRead t bs k) s fun u => u = ((s.at t).ack).readFrom (leNat bs) k) ∧
  (∀ (t k : Nat) (s : State), s.busUp 0 = true → Answers (.sdrPrivateRead t [] k) s fun u => u = ((s.at t).ack).readFrom s.i3c.ptr k) ∧
  (∀ (t k : Nat) (s : State), s.busUp 1 = true → Answers (.ddrRead t ⟨0xA0, k⟩) s fun u => u = ((s.at t).ack).readFrom s.i3c.ptr k) ∧
  (∀ (t c : Nat) (bs : List Byte) (s : State), s.busUp 1 = true → c ≠ 0x20 → Answers (.ddrWrite t ⟨c, bs⟩) s fun u => u.i3c.hdr = 2 ∧ u.regs = s.regs ∧ u.i3c.ptr = s.i3c.ptr) ∧
  (∀ (t c : Nat) (bs : List Byte) (s : State), s.busUp 1 = true → c ≠ 0x21 → Answers (.ddrSetPointer t ⟨c, bs⟩) s fun u => u.i3c.hdr = 2 ∧ u.regs = s.regs ∧ u.i3c.ptr = s.i3c.ptr) ∧
  (∀ (t c k : Nat) (s : State), s.busUp 1 = true → c ≠ 0xA0 → Answers (.ddrRead t ⟨c, k⟩) s fun u => u.i3c.hdr = 2 ∧ u.regs = s.regs ∧ u.i3c.ptr = s.i3c.ptr)

/-- Register writes, clear-on-read reads, bit-alias writes and LOCK writes reach the word at their address. Formalises 02_host_and_registers.md: Register transfers; 02_host_and_registers.md: Bit aliases; 02_host_and_registers.md: Write-once registers and state refusals; 02_host_and_registers.md: Clear-on-read. -/
def Obligations.WordAccessesReachTheirWord : Prop :=
  (∀ (t a data : Nat) (w : WordRef) (s : State), s.svc.svc ≠ .dark → a % 4 = 0 → isAlias a = false → s.reach (a % 2 ^ 32) = .word w → s.mbBusyWrite w = false → Answers (.registerWrite t a data) s fun u => u = (s.at t).putWord w (data % 2 ^ 32)) ∧
  (∀ (t a data : Nat) (s : State), s.svc.svc ≠ .dark → a % 4 = 0 → isAlias a = false → s.reach (a % 2 ^ 32) = .asleep → Answers (.registerWrite t a data) s fun u => u.rd R.hostAccStatus_acc_asleep = 1 ∧ (∀ f : Fld, f.key ≠ R.hostAccStatus_acc_asleep.key → f.key ≠ R.hostAccAddr_addr.key → u.rd f = s.rd f)) ∧
  (∀ (t a data v : Nat) (s : State), s.svc.svc ≠ .dark → a % 4 = 0 → isAlias a = false → s.reach (a % 2 ^ 32) = .locked v → Answers (.registerWrite t a data) s fun u => u.rd R.hostAccStatus_wlock = 1 ∧ (∀ f : Fld, f.key ≠ R.hostAccStatus_wlock.key → f.key ≠ R.hostAccAddr_addr.key → u.rd f = s.rd f)) ∧
  (∀ (t a data : Nat) (w : WordRef) (s : State), s.svc.svc ≠ .dark → a % 4 = 0 → isAlias a = true → s.reach (aliasWord a) = .word w → s.mbBusyWrite w = false → Answers (.bitAliasWrite t a data) s fun u => u = (s.at t).putBit w (aliasBit a) (data % 2) a) ∧
  (∀ (t a again : Nat) (fin : Bool) (s : State), s.svc.svc ≠ .dark → Answers (.clearOnRead t a fin again) s fun u => u = State.answerRead a ((s.at t).readAt a fin again)) ∧
  (∀ (t a data : Nat) (s : State), s.svc.svc ≠ .dark → isAlias a = false → (blockOf a).isSome = true → lookupWord a = none → a % 4 = 0 → s.lockOf a = none → Answers (.lockWrite t a data) s fun u => u.lockOf a = some (data % 2 ^ 32) ∧ u.regs = s.regs)

/-- The reads that capture a pair: the Dial, a tag slot, the last Stamp edge, a measurement result. Formalises 02_host_and_registers.md: Register transfers; 03_timebase_and_scheduling.md: Registers; 08_decisions_and_feedback.md: Registers; 13_markers_and_stamps.md: Registers. -/
def Obligations.WordsReadAsPairs : Prop :=
  (∀ (t : Nat) (s : State), (s.svc.svc = .amber ∨ s.svc.svc = .green) → Answers (.dialRead t) s fun u => u.i3c.resp = leBytes 4 ((s.at t).dial % 2 ^ 32) ∧ u.capt.dial = (s.at t).dial ∧ u.regs = s.regs) ∧
  (∀ (t a : Nat) (s : State), s.svc.svc ≠ .dark → a % 8 = 0 → ((0x4000 ≤ a ∧ a < 0x6000) ∨ (0x8000 ≤ a ∧ a < 0x10000)) → Answers (.slotPairRead t a) s fun u => u = State.answerWord ((s.at t).readAt a true 0)) ∧
  (∀ (t : Nat) (i : Fin 32) (s : State), s.svc.svc ≠ .dark → Answers (.stampLastRead t i) s fun u => u = State.answerWord ((s.at t).readAt (0x400108 + 16 * i) true 0)) ∧
  (∀ (t : Nat) (i : Fin 16) (s : State), s.svc.svc ≠ .dark → Answers (.measurementResultRead t i) s fun u => u = State.answerWord ((s.at t).readAt (0x400814 + 32 * i) true 0))

/-- The indirect windows: pointer writes, prefetch, data reads and writes, posted writes. Formalises 02_host_and_registers.md: Indirect windows. -/
def Obligations.WindowsCarryIndirectAccesses : Prop :=
  (∀ (t x : Nat) (k : Fin 21) (s : State), s.svc.svc ≠ .dark → Answers (.xaddrWrite t k x) s fun u => u = (s.at t).writeAt (winBase k) (x % 2 ^ 24 + s.rd ⟨winBase k * 32 + 24, 8, 0⟩ * 2 ^ 24)) ∧
  (∀ (t d : Nat) (k : Fin 21) (s : State), s.svc.svc ≠ .dark → Answers (.xdataWrite t k d) s fun u => u = (s.at t).writeAt (winBase k + 4) d) ∧
  (∀ (t : Nat) (k : Fin 21) (s : State), s.svc.svc ≠ .dark → Answers (.xdataRead t k) s fun u => u = State.answerWord ((s.at t).readAt (winBase k + 4) true 0)) ∧
  (∀ (t : Nat) (k : Fin 21) (s : State), s.winUp k = true → (s.win k).fetch = true → (s.win k).posted = [] → Answers (.prefetchComplete t k) s fun u => u.rd (xreadyF k) = 1 ∧ (u.win k).fetch = false ∧ u.hbm = s.hbm ∧ u.flash = s.flash ∧ u.RegsBut s [xreadyF k, xdataF k]) ∧
  (∀ (t i d : Nat) (k : Fin 21) (l : List (Nat × Nat)) (s : State), s.winUp k = true → (s.win k).posted = (i, d) :: l → winWord k i = none → Answers (.postedWriteComplete t k) s fun u => (u.win k).posted = l ∧ u.rd (xpendingF k) = l.length % 16 ∧ u.SameBut s [xpendingF k]) ∧
  (∀ (t i d : Nat) (k : Fin 21) (l : List (Nat × Nat)) (w : WordRef) (s : State), s.winUp k = true → (s.win k).posted = (i, d) :: l → winWord k i = some w → Answers (.postedWriteComplete t k) s fun u => u = ((((s.at t).setWin k { s.win k with posted := l }).wr (xpendingF k) l.length).putWord w d))

/-- ENTDAA, SETDASA, SETNEWDA and RSTDAA set and drop the dynamic address. Formalises 02_host_and_registers.md: The I3C attachment. -/
def Obligations.AddressesOfTheTarget : Prop :=
  (∀ (t a : Nat) (s : State), s.ccc = true → s.rd R.hostI3cCtl_dyn_valid = 0 → Answers (.cccEntdaa t a) s fun u => u.rd R.hostI3cCtl_dyn_valid = 1 ∧ u.rd R.hostI3cCtl_dyn_addr = a % 128 ∧ u.i3c.resp = msbBytes 6 s.pid ++ [6#8, 0#8] ∧ u.SameBut s [R.hostI3cCtl_dyn_valid, R.hostI3cCtl_dyn_addr]) ∧
  (∀ (t a : Nat) (s : State), s.ccc = true → s.rd R.hostI3cCtl_dyn_valid = 0 → Answers (.cccSetdasa t a) s fun u => u.rd R.hostI3cCtl_dyn_valid = 1 ∧ u.rd R.hostI3cCtl_dyn_addr = a % 128 ∧ u.i3c.nack = false ∧ u.SameBut s [R.hostI3cCtl_dyn_valid, R.hostI3cCtl_dyn_addr]) ∧
  (∀ (t a : Nat) (s : State), s.ccc = true → s.rd R.hostI3cCtl_dyn_valid = 1 → Answers (.cccSetnewda t a) s fun u => u.rd R.hostI3cCtl_dyn_valid = 1 ∧ u.rd R.hostI3cCtl_dyn_addr = a % 128 ∧ u.i3c.nack = false ∧ u.SameBut s [R.hostI3cCtl_dyn_valid, R.hostI3cCtl_dyn_addr]) ∧
  (∀ (t : Nat) (s : State), s.ccc = true → Answers (.cccRstdaa t) s fun u => u.rd R.hostI3cCtl_dyn_valid = 0 ∧ u.rd R.hostI3cCtl_dyn_addr = 0 ∧ u.SameBut s [R.hostI3cCtl_dyn_valid, R.hostI3cCtl_dyn_addr]) ∧
  (∀ (t a : Nat) (s : State), s.ccc = true → s.rd R.hostI3cCtl_dyn_valid ≠ 1 → Answers (.cccSetnewda t a) s fun u => u.i3c.nack = true ∧ u.regs = s.regs)

/-- Event, length, reset-action and HDR codes, and what the GET codes return. Formalises 02_host_and_registers.md: The I3C attachment. -/
def Obligations.CommonCommandCodesAnswer : Prop :=
  (∀ (t e : Nat) (s : State), s.ccc = true → e % 2 = 1 → Answers (.cccEnec t e) s fun u => u.i3c.ibiEn = true ∧ u.regs = s.regs ∧ u.hbm = s.hbm ∧ u.flash = s.flash) ∧
  (∀ (t e : Nat) (s : State), s.ccc = true → e % 2 = 1 → Answers (.cccDisec t e) s fun u => u.i3c.ibiEn = false ∧ u.i3c.ibiTry = false ∧ u.i3c.ibiRetry = none ∧ u.i3c.ibiOut = false ∧ u.i3c.ibiMore = false ∧ u.regs = s.regs ∧ u.hbm = s.hbm ∧ u.flash = s.flash) ∧
  (∀ (t n : Nat) (s : State), s.ccc = true → Answers (.cccSetmwl t n) s fun u => u.i3c.mwl = n % 65536 ∧ u.regs = s.regs ∧ u.hbm = s.hbm ∧ u.flash = s.flash) ∧
  (∀ (t n : Nat) (s : State), s.ccc = true → Answers (.cccSetmrl t n) s fun u => u.i3c.mrl = n % 65536 ∧ u.regs = s.regs ∧ u.hbm = s.hbm ∧ u.flash = s.flash) ∧
  (∀ (t : Nat) (s : State), s.ccc = true → s.rd R.hostI3cCtl_dyn_valid = 1 → Answers (.cccGetmwl t) s fun u => u.i3c.resp = msbBytes 2 s.i3c.mwl ∧ u.i3c.nack = false ∧ u.regs = s.regs ∧ u.hbm = s.hbm ∧ u.flash = s.flash) ∧
  (∀ (t : Nat) (s : State), s.ccc = true → s.rd R.hostI3cCtl_dyn_valid = 1 → Answers (.cccGetmrl t) s fun u => u.i3c.resp = msbBytes 2 s.i3c.mrl ++ [1#8] ∧ u.i3c.nack = false ∧ u.regs = s.regs ∧ u.hbm = s.hbm ∧ u.flash = s.flash) ∧
  (∀ (t : Nat) (s : State), s.ccc = true → s.rd R.hostI3cCtl_dyn_valid = 1 → Answers (.cccGetpid t) s fun u => u.i3c.resp = msbBytes 6 s.pid ∧ u.i3c.nack = false ∧ u.regs = s.regs ∧ u.hbm = s.hbm ∧ u.flash = s.flash) ∧
  (∀ (t : Nat) (s : State), s.ccc = true → s.rd R.hostI3cCtl_dyn_valid = 1 → Answers (.cccGetbcr t) s fun u => u.i3c.resp = [6#8] ∧ u.i3c.nack = false ∧ u.regs = s.regs ∧ u.hbm = s.hbm ∧ u.flash = s.flash) ∧
  (∀ (t : Nat) (s : State), s.ccc = true → s.rd R.hostI3cCtl_dyn_valid = 1 → Answers (.cccGetdcr t) s fun u => u.i3c.resp = [0#8] ∧ u.i3c.nack = false ∧ u.regs = s.regs ∧ u.hbm = s.hbm ∧ u.flash = s.flash) ∧
  (∀ (t : Nat) (s : State), s.ccc = true → s.rd R.hostI3cCtl_dyn_valid = 1 → Answers (.cccGetstatus t) s fun u => u.i3c.resp = leBytes 2 (Config.freeValue s.free) ∧ u.free = s.free + 1 ∧ u.regs = s.regs ∧ u.hbm = s.hbm ∧ u.flash = s.flash) ∧
  (∀ (t : Nat) (s : State), s.ccc = true → s.rd R.hostI3cCtl_dyn_valid = 1 → Answers (.cccGetmxds t false) s fun u => u.i3c.resp = [0#8, 0#8] ∧ u.i3c.nack = false ∧ u.regs = s.regs ∧ u.hbm = s.hbm ∧ u.flash = s.flash) ∧
  (∀ (t : Nat) (s : State), s.ccc = true → s.rd R.hostI3cCtl_dyn_valid = 1 → Answers (.cccGetmxds t true) s fun u => u.i3c.nack = true ∧ u.regs = s.regs ∧ u.hbm = s.hbm ∧ u.flash = s.flash) ∧
  (∀ (t k : Nat) (s : State), s.ccc = true → k ≤ 1 → Answers (.cccRstact t k false) s fun u => u.i3c.rstAct = k ∧ u.i3c.nack = false ∧ u.regs = s.regs ∧ u.hbm = s.hbm ∧ u.flash = s.flash) ∧
  (∀ (t k : Nat) (b : Bool) (s : State), s.ccc = true → 1 < k → Answers (.cccRstact t k b) s fun u => u.i3c.nack = true ∧ u.regs = s.regs ∧ u.hbm = s.hbm ∧ u.flash = s.flash) ∧
  (∀ (t : Nat) (s : State), s.ccc = true → Answers (.cccRstact t 1 true) s fun u => u.rd R.hostI3cCtl_dyn_valid = 0 ∧ u.i3c = { I3cSt.init with alert := s.i3c.alert } ∧ u.hbm = s.hbm ∧ u.flash = s.flash ∧ u.rd R.hostI3cCtl_dyn_addr = 0 ∧ u.RegsBut s [R.hostI3cCtl_dyn_valid, R.hostI3cCtl_dyn_addr]) ∧
  (∀ (t : Nat) (s : State), s.ccc = true → Answers (.cccEnthdr0 ⟨t, 0⟩) s fun u => u.i3c.hdr = 1 ∧ u.regs = s.regs ∧ u.hbm = s.hbm ∧ u.flash = s.flash) ∧
  (∀ (t m : Nat) (s : State), s.ccc = true → m ≠ 0 → Answers (.cccEnthdr0 ⟨t, m⟩) s fun u => u.i3c.hdr = 2 ∧ u.regs = s.regs ∧ u.hbm = s.hbm ∧ u.flash = s.flash) ∧
  (∀ (t : Nat) (s : State), s.svc.svc ≠ .dark → Answers (.hdrExit t) s fun u => u.i3c.hdr = 0 ∧ u.regs = s.regs ∧ u.hbm = s.hbm ∧ u.flash = s.flash)

/-- An in-band interrupt goes out with the masked summary, is acknowledged or retried 50 µs after its attempt. Formalises 02_host_and_registers.md: Events, in-band interrupts and nALERT. -/
def Obligations.InBandInterrupts : Prop :=
  (∀ (t : Nat) (s : State), s.svc.svc ≠ .dark → s.i3c.ibiOut = true → s.i3c.ibiEn = true → s.i3c.ibiTry = false → s.i3c.ibiRetry = none → s.i3c.ibiFrom ≤ (s.at t).dial → s.rd R.hostI3cCtl_dyn_valid = 1 → s.summary &&& s.rd R.hostEvtMask_ibi_mask ≠ 0 → Answers (.ibiAttempt t) s fun u => u.i3c.ibiTry = true ∧ u.i3c.ibiByte = s.summary &&& s.rd R.hostEvtMask_ibi_mask ∧ u.i3c.ibiFrom = (s.at t).dial ∧ u.regs = s.regs ∧ u.hbm = s.hbm ∧ u.flash = s.flash) ∧
  (∀ (t : Nat) (s : State), s.i3c.ibiTry = true → Answers (.ibiAcknowledged t) s fun u => u.i3c.ibiTry = false ∧ u.i3c.ibiOut = s.i3c.ibiMore ∧ u.i3c.ibiFrom = (s.at t).dial + s.rd R.hostI3cCtl_ibi_holdoff * 25600 ∧ u.regs = s.regs ∧ u.hbm = s.hbm ∧ u.flash = s.flash) ∧
  (∀ (t : Nat) (s : State), s.i3c.ibiTry = true → Answers (.ibiNacked t) s fun u => u.i3c.ibiTry = false ∧ u.i3c.ibiRetry = some (s.i3c.ibiFrom + 1280000) ∧ u.regs = s.regs ∧ u.hbm = s.hbm ∧ u.flash = s.flash) ∧
  (∀ (t r : Nat) (s : State), s.i3c.ibiRetry = some r → r ≤ (s.at t).dial → Answers (.ibiRetry t) s fun u => u.i3c.ibiRetry = none ∧ u.regs = s.regs ∧ u.hbm = s.hbm ∧ u.flash = s.flash)

/-- UPDATE strobes: at once, at a time, cancelled, captured and applied. Formalises 02_host_and_registers.md: Shadowed configuration and UPDATE. -/
def Obligations.UpdateStrobesQueueAndCancel : Prop :=
  (∀ (t m : Nat) (s : State), s.svc.svc ≠ .dark → m ≠ 0 → Answers (.updateStrobe t m) s fun u => u.strobes = s.strobes ++ [⟨beatUp ((s.at t).dial + 1024), m % 2 ^ 32, false, none, none⟩] ∧ u.regs = s.regs ∧ u.hbm = s.hbm ∧ u.flash = s.flash) ∧
  (∀ (t : Nat) (s : State), s.svc.svc ≠ .dark → s.rd R.hiveUpdAtCtl_pending = 1 → Answers (.updateAtArm t) s fun u => u = (s.at t).wr R.hiveUpdAtCtl_result 1) ∧
  (∀ (t : Nat) (s : State), s.svc.svc ≠ .dark → s.rd R.hiveUpdAtCtl_pending = 0 → (s.at t).dial + 1024 < expand40 (s.rd R.hiveUpdAtLo_at_time_lo + 2 ^ 32 * s.rd R.hiveUpdAtHi_at_time_hi) (s.at t).dial → Answers (.updateAtArm t) s fun u => u.rd R.hiveUpdAtCtl_result = 0 ∧ u.rd R.hiveUpdAtCtl_pending = 1 ∧ u.strobes = s.strobes ++ [⟨beatUp (expand40 (s.rd R.hiveUpdAtLo_at_time_lo + 2 ^ 32 * s.rd R.hiveUpdAtHi_at_time_hi) (s.at t).dial), s.rd R.hiveUpdAtMask_at_mask, true, none, none⟩] ∧ u.SameBut s [R.hiveUpdAtCtl_result, R.hiveUpdAtCtl_pending]) ∧
  (∀ (t : Nat) (s : State), s.svc.svc ≠ .dark → s.rd R.hiveUpdAtCtl_pending = 0 → expand40 (s.rd R.hiveUpdAtLo_at_time_lo + 2 ^ 32 * s.rd R.hiveUpdAtHi_at_time_hi) (s.at t).dial ≤ (s.at t).dial + 1024 → Answers (.updateAtArm t) s fun u => u = (((s.at t).updateStrobe (s.rd R.hiveUpdAtMask_at_mask)).setF R.hiveUpdAtCtl_upd_late).wr R.hiveUpdAtCtl_result 0) ∧
  (∀ (t : Nat) (s : State), s.svc.svc ≠ .dark → s.strobes = [] → Answers (.updateAtCancel t) s fun u => u = (s.at t).wr R.hiveUpdAtCtl_result 2) ∧
  (∀ (t b m : Nat) (s : State), s.svc.svc ≠ .dark → s.strobes = [⟨b, m, true, none, none⟩] → (s.at t).dial < b → Answers (.updateAtCancel t) s fun u => u.rd R.hiveUpdAtCtl_result = 0 ∧ u.rd R.hiveUpdAtCtl_pending = 0 ∧ u.strobes = [] ∧ u.SameBut s [R.hiveUpdAtCtl_result, R.hiveUpdAtCtl_pending]) ∧
  (∀ (t : Nat) (s : State), s.svc.svc ≠ .dark → Answers (.shadowCapture t) s fun u => u = (s.at t).captureDue fun x => decide (x.beat ≤ (s.at t).dial + 512)) ∧
  (∀ (t : Nat) (s : State), s.svc.svc ≠ .dark → s.strobes = [] → Answers (.updateApply t) s fun u => u.strobes = [] ∧ u.regs = s.regs ∧ u.hbm = s.hbm ∧ u.flash = s.flash) ∧
  (∀ (t : Nat) (x : Strobe) (c : List (Nat × Nat)) (b : List (Nat × Nat)) (s : State), s.svc.svc ≠ .dark → s.strobes = [x] → x.shadows = some c → x.banks = some b → x.beat ≤ (s.at t).dial → Answers (.updateApply t) s fun u => u = ({ s.at t with strobes := [] }).applyStrobe x)

/-- The mailbox refuses go while busy and a bad shape, tag or counter, runs the accepted command and posts its result. Formalises 02_host_and_registers.md: Critical-command mailbox; 20_boot_and_security.md: Mailbox commands. -/
def Obligations.MailboxVerdicts : Prop :=
  (∀ (t : Nat) (b : Bool) (s : State), s.svc.svc ≠ .dark → s.rd R.hostMbStatus_busy = 1 → Answers (.mailboxGo t b) s fun u => u = (s.at t).accFault R.hostAccStatus_mb_busy_wr 0x1010C ∧ u.rd R.hostAccStatus_mb_busy_wr = 1 ∧ u.sec = s.sec ∧ u.life = s.life) ∧
  (∀ (t : Nat) (b : Bool) (s : State), s.svc.svc ≠ .dark → s.rd R.hostMbStatus_busy ≠ 1 → s.mbShape = false → Answers (.mailboxGo t b) s fun u => u.rd R.hostMbStatus_busy = 1 ∧ u.sec.mb = some ⟨s.mbOp, (s.at t).dial, some (5, [])⟩ ∧ u.life = s.life ∧ u.SameBut s [R.hostMbStatus_busy]) ∧
  (∀ (t : Nat) (b : Bool) (s : State), s.svc.svc ≠ .dark → s.rd R.hostMbStatus_busy ≠ 1 → s.mbShape = true → s.mbOp ≠ opATTEST → s.mbTag ≠ s.tagOf → Answers (.mailboxGo t b) s fun u => u.rd R.hostMbStatus_busy = 1 ∧ u.sec.mb = some ⟨s.mbOp, (s.at t).dial, some (3, [])⟩ ∧ u.life.rej = s.life.rej + 1 ∧ u.SameBut s [R.hostMbStatus_busy]) ∧
  (∀ (t : Nat) (b : Bool) (s : State), s.svc.svc ≠ .dark → s.rd R.hostMbStatus_busy ≠ 1 → s.mbShape = true → s.mbOp ≠ opATTEST → s.mbTag = s.tagOf → s.mbCtr ≤ s.mbLast → Answers (.mailboxGo t b) s fun u => u.rd R.hostMbStatus_busy = 1 ∧ u.sec.mb = some ⟨s.mbOp, (s.at t).dial, some (4, [])⟩ ∧ u.life.rej = s.life.rej + 1 ∧ u.SameBut s [R.hostMbStatus_busy]) ∧
  (∀ (t code : Nat) (resp : List Byte) (r : MbRun) (s : State), s.sec.mb = some r → r.out = some (code, resp) → Answers (.mailboxComplete t) s fun u => u = (s.at t).mbPost code resp ∧ u.rd R.hostMbStatus_busy = 0 ∧ u.rd R.hostMbStatus_result = code % 16 ∧ u.sec.mb = none) ∧
  (∀ (t : Nat) (r : MbRun) (s : State), s.sec.mb = some r → r.out = none → r.since + mbLimit r.op < (s.at t).dial → Answers (.mailboxComplete t) s fun u => u = (s.at t).mbPost 9 [] ∧ u.rd R.hostMbStatus_busy = 0 ∧ u.rd R.hostMbStatus_result = 9 ∧ u.sec.mb = none) ∧
  (∀ (t : Nat) (s : State), s.svc.svc ≠ .dark → s.rd R.hostMbStatus_busy ≠ 1 → s.mbShape = true → s.mbOp ≠ opATTEST → s.mbTag = s.tagOf → s.mbLast < s.mbCtr → s.mbPermitted = true → s.mbLocked = false → Answers (.mailboxGo t true) s fun u => u = ((s.at t).ctrAppend s.mbCtr).mbRun none ∧ u.rd R.hostMbStatus_busy = 1 ∧ u.sec.mb = some ⟨s.mbOp, (s.at t).dial, none⟩) ∧
  (∀ (t : Nat) (b : Bool) (s : State), s.svc.svc ≠ .dark → s.rd R.hostMbStatus_busy ≠ 1 → s.mbShape = true → s.mbOp = opATTEST → Answers (.mailboxGo t b) s fun u => u = (s.at t).mbRun none) ∧
  (∀ (t : Nat) (b : Bool) (s : State), s.svc.svc ≠ .dark → s.rd R.hostMbStatus_busy ≠ 1 → s.mbShape = true → s.mbOp ≠ opATTEST → s.mbTag = s.tagOf → s.mbLast < s.mbCtr → s.mbPermitted = false → Answers (.mailboxGo t b) s fun u => u.rd R.hostMbStatus_busy = 1 ∧ u.sec.mb = some ⟨s.mbOp, (s.at t).dial, some (2, [])⟩ ∧ u.life = s.life ∧ u.SameBut s [R.hostMbStatus_busy]) ∧
  (∀ (t : Nat) (b : Bool) (s : State), s.svc.svc ≠ .dark → s.rd R.hostMbStatus_busy ≠ 1 → s.mbShape = true → s.mbOp ≠ opATTEST → s.mbTag = s.tagOf → s.mbLast < s.mbCtr → s.mbPermitted = true → s.mbLocked = true → Answers (.mailboxGo t b) s fun u => u.rd R.hostMbStatus_busy = 1 ∧ u.sec.mb = some ⟨s.mbOp, (s.at t).dial, some (rLOCKED, [])⟩ ∧ u.life.rej = s.life.rej + 1 ∧ u.SameBut s [R.hostMbStatus_busy]) ∧
  (∀ (t : Nat) (s : State), s.svc.svc ≠ .dark → s.rd R.hostMbStatus_busy ≠ 1 → s.mbShape = true → s.mbOp ≠ opATTEST → s.mbTag = s.tagOf → s.mbLast < s.mbCtr → s.mbPermitted = true → s.mbLocked = false → Answers (.mailboxGo t false) s fun u => u = (s.at t).ctrCut.mbRefuse 9 ∧ u.rd R.hostMbStatus_busy = 1)

/-- Each mailbox command that is running within its time limit has its effect and its answer. Formalises 20_boot_and_security.md: Mailbox commands; 20_boot_and_security.md: Attestation; 20_boot_and_security.md: Sleep; 09_transactions.md: Image switch-over; 16_chain_time.md: Device IDs and membership. -/
def Obligations.MailboxCommandsRun : Prop :=
  (∀ (t : Nat) (r : MbRun) (s : State), s.sec.mb = some r → r.out = none → (s.at t).dial ≤ r.since + mbLimit r.op → r.op = opIMAGE → Answers (.imageSwitch t) s fun u => u = ((s.at t).imageSwitch (s.mbArg 0) (s.mbArg 1)).2.mbDone ((s.at t).imageSwitch (s.mbArg 0) (s.mbArg 1)).1 []) ∧
  (∀ (t : Nat) (r : MbRun) (s : State), s.sec.mb = some r → r.out = none → (s.at t).dial ≤ r.since + mbLimit r.op → r.op = opKEY → Answers (.keyChange t) s fun u => u = (s.at t).keyChange.2.mbDone (s.at t).keyChange.1 []) ∧
  (∀ (t : Nat) (r : MbRun) (s : State), s.sec.mb = some r → r.out = none → (s.at t).dial ≤ r.since + mbLimit r.op → r.op = opCAL → Answers (.calStore t) s fun u => u = (s.at t).calStore.mbDone 0 []) ∧
  (∀ (t : Nat) (r : MbRun) (s : State), s.sec.mb = some r → r.out = none → (s.at t).dial ≤ r.since + mbLimit r.op → r.op = opCHAIN → s.mbArg 0 = 1 → Answers (.chainJoin t) s fun u => u = ((s.at t).chainJoin (s.mbArg 1) (s.mbArg 2)).2.mbDone ((s.at t).chainJoin (s.mbArg 1) (s.mbArg 2)).1 []) ∧
  (∀ (t : Nat) (r : MbRun) (s : State), s.sec.mb = some r → r.out = none → (s.at t).dial ≤ r.since + mbLimit r.op → r.op = opCHAIN → s.mbArg 0 = 0 → Answers (.chainLeave t) s fun u => u = (s.at t).chainLeave.2.mbDone (s.at t).chainLeave.1 []) ∧
  (∀ (t : Nat) (r : MbRun) (s : State), s.sec.mb = some r → r.out = none → (s.at t).dial ≤ r.since + mbLimit r.op → r.op = opOE → s.mbArg 0 = 0 → Answers (.outputEnable t) s fun u => u = ((s.at t).setOe false).mbDone 0 [] ∧ u.rd R.secBoot_oe = 0 ∧ u.rd R.hiveState_muted = 1) ∧
  (∀ (t : Nat) (r : MbRun) (s : State), s.sec.mb = some r → r.out = none → (s.at t).dial ≤ r.since + mbLimit r.op → r.op = opOE → s.mbArg 0 = 1 → Answers (.outputEnable t) s fun u => u = (((s.at t).setOe true).enabledLoad).mbDone 0 []) ∧
  (∀ (t : Nat) (r : MbRun) (s : State), s.sec.mb = some r → r.out = none → (s.at t).dial ≤ r.since + mbLimit r.op → r.op = opSLEEP → s.svc.entry = false → Answers (.sleep t) s fun u => u = ((s.at t).mbPost 0 []).beginSleep) ∧
  (∀ (t : Nat) (r : MbRun) (s : State), s.sec.mb = some r → r.out = none → (s.at t).dial ≤ r.since + mbLimit r.op → r.op = opFUSE → s.mbArg 0 = 1 → s.noHash = true → s.mbArg 1 ≤ 64 → s.mbArg 1 ≤ s.sec.img.svn → Answers (.fuseMinVersion t) s fun u => u = (((s.at t).setSec { s.sec with minVer := max s.sec.minVer (s.mbArg 1) }).showFuses).mbDone 0 [] ∧ u.sec.minVer = max s.sec.minVer (s.mbArg 1) ∧ u.sec.mb = some { r with out := some (0, []) }) ∧
  (∀ (t : Nat) (r : MbRun) (s : State), s.sec.mb = some r → r.out = none → (s.at t).dial ≤ r.since + mbLimit r.op → r.op = opFUSE → s.mbArg 0 = 2 → (s.mbArg 1 = 1 ∨ s.mbArg 1 = 2) → Answers (.fuseOwnerKey t) s fun u => u = (((s.at t).setSec { s.sec with hashes := SMap.set 0 s.sec.hashes (s.mbArg 1) (leNat ((s.mbArgs 34).drop 2)), prog := s.sec.prog ||| 2 ^ s.mbArg 1 }).showFuses).mbDone 0 [] ∧ u.sec.prog = s.sec.prog ||| 2 ^ s.mbArg 1 ∧ u.sec.mb = some { r with out := some (0, []) }) ∧
  (∀ (t : Nat) (r : MbRun) (s : State), s.sec.mb = some r → r.out = none → (s.at t).dial ≤ r.since + mbLimit r.op → r.op = opFUSE → s.mbArg 0 = 3 → Answers (.fuseRevoke t) s fun u => u = ((s.at t).fuseRevoke (s.mbArg 1)).2.mbDone ((s.at t).fuseRevoke (s.mbArg 1)).1 []) ∧
  (∀ (t : Nat) (r : MbRun) (s : State), s.sec.mb = some r → r.out = none → (s.at t).dial ≤ r.since + mbLimit r.op → r.op = opATTEST → Answers (.attest t) s fun u => u.sec.mb = some { r with out := some (0, (s.at t).attestReport) } ∧ u.regs = s.regs ∧ u.hbm = s.hbm ∧ u.flash = s.flash)

/-- FLASH_ERASE blanks one sector, FLASH_PROG writes 256 bytes, FLASH_READ fills the buffer, and each then runs. Formalises 20_boot_and_security.md: Flash layout; 20_boot_and_security.md: Registers. -/
def Obligations.FlashWindowOperations : Prop :=
  (∀ (t : Nat) (s : State), ((s.svc.svc = .amber ∨ s.svc.svc = .green)) → s.flAddr % 0x10000 = 0 → (s.at t).flTaken = false → Answers (.flashErase t) s fun u => (∀ a : Nat, u.flashByte a = if 0x2000000 + s.flAddr ≤ a ∧ a < 0x2000000 + s.flAddr + 0x10000 then flashBlank else s.flashByte a) ∧ u.rd R.secFlCmd_fl_busy = 1 ∧ u.RegsBut s [R.secFlCmd_fl_busy] ∧ u.hbm = s.hbm) ∧
  (∀ (t : Nat) (s : State), ((s.svc.svc = .amber ∨ s.svc.svc = .green)) → s.flAddr % 0x100 = 0 → (s.at t).flTaken = false → Answers (.flashProg t) s fun u => u.flash = (s.putFlash (0x2000000 + s.flAddr) s.flBytes).flash ∧ u.rd R.secFlCmd_fl_busy = 1 ∧ u.RegsBut s [R.secFlCmd_fl_busy] ∧ u.hbm = s.hbm) ∧
  (∀ (t : Nat) (s : State), ((s.svc.svc = .amber ∨ s.svc.svc = .green)) → s.flAddr % 0x100 = 0 → (s.at t).flTaken = false → Answers (.flashRead t) s fun u => u.flash = s.flash ∧ u.rd R.secFlCmd_fl_busy = 1 ∧ u.rd (R.secFlBuf_fl_data 63) = s.flashNat (0x2000000 + s.flAddr + 252) 4 ∧ u.RegsBut s (R.secFlCmd_fl_busy :: (List.range 64).map R.secFlBuf_fl_data) ∧ u.hbm = s.hbm) ∧
  (∀ (t : Nat) (s : State), s.svc.svc ≠ .dark → s.flAddr % 0x10000 ≠ 0 → Answers (.flashErase t) s fun u => u = (s.at t).wr R.secFlCmd_result 5) ∧
  (∀ (t : Nat) (s : State), s.svc.svc ≠ .dark → s.flAddr % 0x100 ≠ 0 → Answers (.flashProg t) s fun u => u = (s.at t).wr R.secFlCmd_result 5) ∧
  (∀ (t : Nat) (x : Nat × Nat) (s : State), s.sec.fl = some x → Answers (.flashOpComplete t) s fun u => u.rd R.secFlCmd_fl_busy = 0 ∧ u.rd R.secFlCmd_result = 0 ∧ u.sec.fl = none ∧ u.flash = s.flash ∧ u.SameBut s [R.secFlCmd_fl_busy, R.secFlCmd_result])

/-- start, resume, abort, shot abort, quiet and iclr: what is refused, and what runs. Formalises 05_sequencer_engine.md: Starting, resuming and quietening; 05_sequencer_engine.md: Registers. -/
def Obligations.SequencerCommandsAnswer : Prop :=
  (∀ (t : Nat) (n : Fin 64) (s : State), ((s.svc.svc = .amber ∨ s.svc.svc = .green)) → (s.seq n).loading = none → s.halted n = true → s.rd (R.seqStart_start_pc n) ∈ (s.seq n).starts → s.rd (R.seqStart_start_pc n) < 2 ^ 15 → Answers (.seqStart t n) s fun u => u.rd (R.seqCmd_result n) = 0 ∧ u.rd (R.seqPc_pc n) = s.rd (R.seqStart_start_pc n) ∧ u.anchor n = max ((s.at t).startAsked n) ((s.at t).dial + 2048) ∧ u.rd (R.seqStatus_run n) = 1 ∧ u.SameBut s [R.seqCmd_result n, R.seqPc_pc n, R.seqFault_fault_code n, R.seqStatus_run n]) ∧
  (∀ (t : Nat) (n : Fin 64) (s : State), ((s.svc.svc = .amber ∨ s.svc.svc = .green)) → (s.seq n).loading ≠ none → Answers (.seqStart t n) s fun u => u = (s.at t).seqResult n 1) ∧
  (∀ (t : Nat) (n : Fin 64) (s : State), ((s.svc.svc = .amber ∨ s.svc.svc = .green)) → (s.seq n).loading = none → s.halted n = false → Answers (.seqStart t n) s fun u => u = (s.at t).seqResult n 2) ∧
  (∀ (t : Nat) (n : Fin 64) (s : State), ((s.svc.svc = .amber ∨ s.svc.svc = .green)) → (s.seq n).loading = none → s.halted n = true → s.rd (R.seqStart_start_pc n) ∉ (s.seq n).starts → Answers (.seqStart t n) s fun u => u = (s.at t).seqResult n 5) ∧
  (∀ (t : Nat) (n : Fin 64) (s : State), ((s.svc.svc = .amber ∨ s.svc.svc = .green)) → (s.seq n).loading = none → s.rd (R.seqStatus_halt_why n) = 0 → Answers (.seqResume t n) s fun u => u = (s.at t).seqResult n 2) ∧
  (∀ (t : Nat) (n : Fin 64) (s : State), ((s.svc.svc = .amber ∨ s.svc.svc = .green)) → (s.seq n).loading = none → s.halted n = true → s.rd (R.seqStatus_halt_why n) = 1 → (s.seq n).runnable = true → (s.seq n).handler = none → (s.microWord n (s.rd (R.seqPc_pc n))).isSome = true → Answers (.seqResume t n) s fun u => u.rd (R.seqCmd_result n) = 0 ∧ u.rd (R.seqPc_pc n) = s.rd (R.seqPc_pc n) ∧ u.anchor n = max (s.anchor n) ((s.at t).dial + 2048) ∧ u.rd (R.seqStatus_run n) = 1 ∧ u.SameBut s [R.seqCmd_result n, R.seqStatus_run n]) ∧
  (∀ (t : Nat) (n : Fin 64) (s : State), ((s.svc.svc = .amber ∨ s.svc.svc = .green)) → s.halted n = true → Answers (.seqAbort t n) s fun u => u = (s.at t).seqResult n 2) ∧
  (∀ (t : Nat) (n : Fin 64) (s : State), ((s.svc.svc = .amber ∨ s.svc.svc = .green)) → s.halted n = false → s.waitsSafe n = false → Answers (.seqAbort t n) s fun u => u.rd (R.seqCmd_result n) = 0 ∧ (u.seq n).abort = some 2 ∧ u.SameBut s [R.seqCmd_result n]) ∧
  (∀ (t : Nat) (n : Fin 64) (s : State), ((s.svc.svc = .amber ∨ s.svc.svc = .green)) → s.waitsSafe n = false → Answers (.seqShotAbort t n) s fun u => u.rd (R.seqCmd_result n) = 0 ∧ u.rd (R.seqStatus_ipend n) = (s.rd (R.seqStatus_ipend n) ||| 1) % 8 ∧ u.SameBut s [R.seqCmd_result n, R.seqStatus_ipend n]) ∧
  (∀ (t : Nat) (n : Fin 64) (s : State), ((s.svc.svc = .amber ∨ s.svc.svc = .green)) → s.halted n = false → Answers (.seqQuiet t n) s fun u => u = (s.at t).seqResult n 2) ∧
  (∀ (t : Nat) (n : Fin 64) (s : State), ((s.svc.svc = .amber ∨ s.svc.svc = .green)) → s.halted n = true → Answers (.seqQuiet t n) s fun u => u = (s.at t).quiet n ∧ u.rd (R.seqCmd_result n) = 0) ∧
  (∀ (t : Nat) (n : Fin 64) (s : State), ((s.svc.svc = .amber ∨ s.svc.svc = .green)) → s.rd (R.seqCtl_level n) = 1 → Answers (.seqIclr t n) s fun u => u.rd (R.seqStatus_ipend n) = 0 ∧ u.rd (R.seqCmd_result n) = 0 ∧ u.SameBut s [R.seqCmd_result n, R.seqStatus_ipend n])

/-- SETC loads, initialises, adds to and subtracts from counter ARG[3:0], modulo 2^24. Formalises R146. -/
def Obligations.SetcActsOnItsCounter : Prop :=
  (∀ (t w : Nat) (n : Fin 64) (s v : State), (s.at t).ready n = some (w, v) → isSetc 0 w = true → Answers (.setcLoad t n) s fun u => u.count n (mwArg w % 16) = mwTarget w ∧ u.rd (R.seqPc_pc n) = (v.rd (R.seqPc_pc n) + 1) % 2 ^ 15) ∧
  (∀ (t w : Nat) (n : Fin 64) (s v : State), (s.at t).ready n = some (w, v) → isSetc 1 w = true → Answers (.setcInit t n) s fun u => u.count n (mwArg w % 16) = v.ard (R.seqCinit_cinit n (mwArg w % 16)) % 2 ^ 24 ∧ u.rd (R.seqPc_pc n) = (v.rd (R.seqPc_pc n) + 1) % 2 ^ 15) ∧
  (∀ (t w : Nat) (n : Fin 64) (s v : State), (s.at t).ready n = some (w, v) → isSetc 2 w = true → Answers (.setcAdd t n) s fun u => u.count n (mwArg w % 16) = (v.count n (mwArg w % 16) + mwTarget w) % 2 ^ 24 ∧ u.rd (R.seqPc_pc n) = (v.rd (R.seqPc_pc n) + 1) % 2 ^ 15) ∧
  (∀ (t w : Nat) (n : Fin 64) (s v : State), (s.at t).ready n = some (w, v) → isSetc 3 w = true → Answers (.setcSub t n) s fun u => (u.count n (mwArg w % 16) : Int) = ((v.count n (mwArg w % 16) : Int) - mwTarget w) % 2 ^ 24 ∧ u.rd (R.seqPc_pc n) = (v.rd (R.seqPc_pc n) + 1) % 2 ^ 15)

/-- NOP, WAIT, LOOP and HALT: pc, anchor, counter and run state. Formalises 05_sequencer_engine.md: Steps and the anchor; 05_sequencer_engine.md: Operations. -/
def Obligations.PlainStepsAdvance : Prop :=
  (∀ (t w : Nat) (n : Fin 64) (s v : State), (s.at t).ready n = some (w, v) → isOp 0 w = true → Answers (.nop t n) s fun u => u.rd (R.seqPc_pc n) = (v.rd (R.seqPc_pc n) + 1) % 2 ^ 15 ∧ u.anchor n = v.anchor n ∧ u.hbm = v.hbm ∧ u.flash = v.flash ∧ u.cells = v.cells) ∧
  (∀ (t w : Nat) (n : Fin 64) (s v : State), (s.at t).ready n = some (w, v) → isOp 2 w = true → Answers (.wait t n) s fun u => u.rd (R.seqPc_pc n) = (v.rd (R.seqPc_pc n) + 1) % 2 ^ 15 ∧ u.anchor n = v.anchor n + v.waitTicks n w) ∧
  (∀ (t w : Nat) (n : Fin 64) (s v : State), (s.at t).ready n = some (w, v) → isOp 7 w = true → v.count n (mwArg w % 16) = 0 → Answers (.loop t n) s fun u => u.rd (R.seqPc_pc n) = (v.rd (R.seqPc_pc n) + 1) % 2 ^ 15 ∧ u.count n (mwArg w % 16) = 0) ∧
  (∀ (t w : Nat) (n : Fin 64) (s v : State), (s.at t).ready n = some (w, v) → isOp 7 w = true → v.count n (mwArg w % 16) = 1 → Answers (.loop t n) s fun u => u.rd (R.seqPc_pc n) = (v.rd (R.seqPc_pc n) + 1) % 2 ^ 15 ∧ u.count n (mwArg w % 16) = 0) ∧
  (∀ (t w : Nat) (n : Fin 64) (s v : State), (s.at t).ready n = some (w, v) → isOp 7 w = true → 1 < v.count n (mwArg w % 16) → v.count n (mwArg w % 16) < 2 ^ 24 → Answers (.loop t n) s fun u => u.rd (R.seqPc_pc n) = mwTarget w ∧ u.count n (mwArg w % 16) = v.count n (mwArg w % 16) - 1) ∧
  (∀ (t w : Nat) (n : Fin 64) (s v : State), (s.at t).ready n = some (w, v) → isOp 15 w = true → Answers (.halt t n) s fun u => u.rd (R.seqPc_pc n) = (v.rd (R.seqPc_pc n) + 1) % 2 ^ 15 ∧ u.rd (R.seqStatus_run n) = 0 ∧ u.rd (R.seqStatus_halt_why n) = 1 ∧ u.SameBut v [R.seqPc_pc n, R.seqStatus_run n, R.seqStatus_halt_why n])

/-- NOP, WAIT, SETC and LOOP change only the counter they name, pc, run state and their sequencer's own record. Formalises 05_sequencer_engine.md: Operations. -/
def Obligations.FramesOfPlainSteps : Prop :=
  (∀ (t w : Nat) (n : Fin 64) (s v : State), (s.at t).ready n = some (w, v) → isOp 0 w = true → Answers (.nop t n) s fun u => (∀ f : Fld, f.key ≠ (R.seqPc_pc n).key → f.key ≠ (R.seqStatus_run n).key → u.rd f = v.rd f) ∧ u.act = v.act ∧ u.hbm = v.hbm ∧ u.flash = v.flash ∧ u.cells = v.cells ∧ u.lanes = v.lanes ∧ u.bias = v.bias ∧ u.ports = v.ports ∧ ∀ m : Nat, m ≠ n → u.seq m = v.seq m) ∧
  (∀ (t w : Nat) (n : Fin 64) (s v : State), (s.at t).ready n = some (w, v) → isOp 2 w = true → Answers (.wait t n) s fun u => (∀ f : Fld, f.key ≠ (R.seqPc_pc n).key → f.key ≠ (R.seqStatus_run n).key → u.rd f = v.rd f) ∧ u.act = v.act ∧ u.hbm = v.hbm ∧ u.flash = v.flash ∧ u.cells = v.cells ∧ u.lanes = v.lanes ∧ u.bias = v.bias ∧ u.ports = v.ports ∧ ∀ m : Nat, m ≠ n → u.seq m = v.seq m) ∧
  (∀ (t w : Nat) (n : Fin 64) (s v : State), (s.at t).ready n = some (w, v) → isSetc 0 w = true → Answers (.setcLoad t n) s fun u => (∀ f : Fld, f.key ≠ (R.seqPc_pc n).key → f.key ≠ (R.seqStatus_run n).key → f.key ≠ (R.seqCnt_count n (mwArg w % 16)).key → u.rd f = v.rd f) ∧ u.act = v.act ∧ u.hbm = v.hbm ∧ u.flash = v.flash ∧ u.cells = v.cells ∧ u.lanes = v.lanes ∧ u.bias = v.bias ∧ u.ports = v.ports ∧ ∀ m : Nat, m ≠ n → u.seq m = v.seq m) ∧
  (∀ (t w : Nat) (n : Fin 64) (s v : State), (s.at t).ready n = some (w, v) → isSetc 1 w = true → Answers (.setcInit t n) s fun u => (∀ f : Fld, f.key ≠ (R.seqPc_pc n).key → f.key ≠ (R.seqStatus_run n).key → f.key ≠ (R.seqCnt_count n (mwArg w % 16)).key → u.rd f = v.rd f) ∧ u.act = v.act ∧ u.hbm = v.hbm ∧ u.flash = v.flash ∧ u.cells = v.cells ∧ u.lanes = v.lanes ∧ u.bias = v.bias ∧ u.ports = v.ports ∧ ∀ m : Nat, m ≠ n → u.seq m = v.seq m) ∧
  (∀ (t w : Nat) (n : Fin 64) (s v : State), (s.at t).ready n = some (w, v) → isSetc 2 w = true → Answers (.setcAdd t n) s fun u => (∀ f : Fld, f.key ≠ (R.seqPc_pc n).key → f.key ≠ (R.seqStatus_run n).key → f.key ≠ (R.seqCnt_count n (mwArg w % 16)).key → u.rd f = v.rd f) ∧ u.act = v.act ∧ u.hbm = v.hbm ∧ u.flash = v.flash ∧ u.cells = v.cells ∧ u.lanes = v.lanes ∧ u.bias = v.bias ∧ u.ports = v.ports ∧ ∀ m : Nat, m ≠ n → u.seq m = v.seq m) ∧
  (∀ (t w : Nat) (n : Fin 64) (s v : State), (s.at t).ready n = some (w, v) → isSetc 3 w = true → Answers (.setcSub t n) s fun u => (∀ f : Fld, f.key ≠ (R.seqPc_pc n).key → f.key ≠ (R.seqStatus_run n).key → f.key ≠ (R.seqCnt_count n (mwArg w % 16)).key → u.rd f = v.rd f) ∧ u.act = v.act ∧ u.hbm = v.hbm ∧ u.flash = v.flash ∧ u.cells = v.cells ∧ u.lanes = v.lanes ∧ u.bias = v.bias ∧ u.ports = v.ports ∧ ∀ m : Nat, m ≠ n → u.seq m = v.seq m) ∧
  (∀ (t w : Nat) (n : Fin 64) (s v : State), (s.at t).ready n = some (w, v) → isOp 7 w = true → Answers (.loop t n) s fun u => (∀ f : Fld, f.key ≠ (R.seqPc_pc n).key → f.key ≠ (R.seqStatus_run n).key → f.key ≠ (R.seqCnt_count n (mwArg w % 16)).key → u.rd f = v.rd f) ∧ u.act = v.act ∧ u.hbm = v.hbm ∧ u.flash = v.flash ∧ u.cells = v.cells ∧ u.lanes = v.lanes ∧ u.bias = v.bias ∧ u.ports = v.ports ∧ ∀ m : Nat, m ≠ n → u.seq m = v.seq m)

/-- PLAY, MEAS and FRAME act on their nano-word, PUBLISH queues its verdict for the anchor. Formalises 05_sequencer_engine.md: Operations; 05_sequencer_engine.md: The nano-word; 07_readout.md: Windows; 08_decisions_and_feedback.md: Tag slots. -/
def Obligations.PulseAndActionSteps : Prop :=
  (∀ (t w : Nat) (n : Fin 64) (s v : State), (s.at t).ready n = some (w, v) → isOp 1 w = true → Answers (.play t n) s fun u => u = v.playStep n w false) ∧
  (∀ (t w : Nat) (n : Fin 64) (s v : State), (s.at t).ready n = some (w, v) → isOp 11 w = true → Answers (.meas t n) s fun u => u = v.playStep n w true) ∧
  (∀ (t w : Nat) (n : Fin 64) (s v : State), (s.at t).ready n = some (w, v) → isOp 10 w = true → Answers (.frame t n) s fun u => u = v.frameStep n w) ∧
  (∀ (t w : Nat) (n : Fin 64) (s v : State), (s.at t).ready n = some (w, v) → isOp 12 w = true → Answers (.publish t n) s fun u => u.dec.pubs = v.dec.pubs ++ [⟨mwTarget w % 4096, mwArg w % 4, v.anchor n % 2 ^ 40, v.anchor n, n, false, v.issue n⟩] ∧ u.rd (R.seqPc_pc n) = (v.rd (R.seqPc_pc n) + 1) % 2 ^ 15 ∧ u.SameBut v [R.seqPc_pc n, R.seqStatus_run n])

/-- BRANCH and CALL, RET, WAITT and SYNC, and the horizon of a missing verdict. Formalises 05_sequencer_engine.md: Conditions and multi-way branches; 05_sequencer_engine.md: The call stack; 05_sequencer_engine.md: Operations. -/
def Obligations.ControlFlowSteps : Prop :=
  (∀ (t w : Nat) (n : Fin 64) (s v : State), (s.at t).ready n = some (w, v) → isOp 4 w = true → Answers (.branch t n) s fun u => u = v.branchStep n w false) ∧
  (∀ (t w : Nat) (n : Fin 64) (s v : State), (s.at t).ready n = some (w, v) → isOp 5 w = true → Answers (.call t n) s fun u => u = v.branchStep n w true) ∧
  (∀ (t w : Nat) (n : Fin 64) (s v : State), (s.at t).ready n = some (w, v) → isOp 6 w = true → (v.seq n).handler = none → Answers (.ret t n) s fun u => u.rd (R.seqPc_pc n) = (v.seq n).stack.getD ((v.seq n).depth - 1) 0 % 2 ^ 15 ∧ (u.seq n).depth = (v.seq n).depth - 1 ∧ u.SameBut v [R.seqPc_pc n, R.seqStatus_run n]) ∧
  (∀ (t w link d : Nat) (n : Fin 64) (s v : State), (s.at t).ready n = some (w, v) → isOp 6 w = true → (v.seq n).handler = some (link, d) → (v.seq n).depth = d → Answers (.ret t n) s fun u => u.rd (R.seqPc_pc n) = link % 2 ^ 15 ∧ (u.seq n).handler = none ∧ u.SameBut v [R.seqPc_pc n, R.seqStatus_run n]) ∧
  (∀ (t w : Nat) (n : Fin 64) (s v : State), (s.at t).ready n = some (w, v) → isOp 3 w = true → (v.seq n).handler = none → Answers (.waitt t n) s fun u => (u.seq n).wait = .waitt (mwArg w) (v.anchor n) (waitLimit (v.anchor n) w) (if 48 ≤ mwArg w then (v.readCset n (mwArg w - 48)).bits.getD 0 (0, 6) else (0, 6)) ∧ u.rd (R.seqStatus_run n) = 2 ∧ u.SameBut v [R.seqStatus_run n]) ∧
  (∀ (t w : Nat) (n : Fin 64) (s v : State), (s.at t).ready n = some (w, v) → isOp 9 w = true → (v.seq n).handler = none → Answers (.sync t n) s fun u => (u.seq n).wait = .sync (mwArg w % 32) (v.anchor n) (waitLimit (v.anchor n) w) ∧ u.rd (R.seqStatus_run n) = 2 ∧ u.SameBut v [R.seqStatus_run n]) ∧
  (∀ (t a hzn ways target : Nat) (cs : CSet) (b : Bool) (n : Fin 64) (s : State), (s.seq n).wait = .verdict a hzn cs ways target b none → a + hzn ≤ (s.at t).dial → (s.seq n).faults = [] → s.halted n = false → Answers (.verdictHorizonExpiry t n) s fun u => u = (s.at t).missed n a cs target b)

/-- SHOT begin, SHOT end and the three forms of COMMIT. Formalises 05_sequencer_engine.md: Operations; 03_timebase_and_scheduling.md: Shots and their boundaries; 09_transactions.md: Committing on one Hive. -/
def Obligations.ShotAndCommitSteps : Prop :=
  (∀ (t w : Nat) (n : Fin 64) (s v : State), (s.at t).ready n = some (w, v) → isShot false w = true → v.rd (R.seqStatus_in_shot n) = 1 → Answers (.shotBegin t n) s fun u => u.rd (R.seqStatus_shot_unpaired n) = 1 ∧ u.rd (R.seqPc_pc n) = (v.rd (R.seqPc_pc n) + 1) % 2 ^ 15 ∧ u.SameBut v [R.seqPc_pc n, R.seqStatus_run n, R.seqStatus_shot_unpaired n]) ∧
  (∀ (t w : Nat) (n : Fin 64) (s v : State), (s.at t).ready n = some (w, v) → isShot false w = true → v.rd (R.seqStatus_in_shot n) ≠ 1 → Answers (.shotBegin t n) s fun u => u = v.shotBegin n) ∧
  (∀ (t w : Nat) (n : Fin 64) (s v : State), (s.at t).ready n = some (w, v) → isShot true w = true → v.rd (R.seqStatus_in_shot n) = 0 → Answers (.shotEnd t n) s fun u => u.rd (R.seqStatus_shot_unpaired n) = 1 ∧ u.rd (R.seqPc_pc n) = (v.rd (R.seqPc_pc n) + 1) % 2 ^ 15 ∧ u.SameBut v [R.seqPc_pc n, R.seqStatus_run n, R.seqStatus_shot_unpaired n]) ∧
  (∀ (t w : Nat) (n : Fin 64) (s v : State), (s.at t).ready n = some (w, v) → isShot true w = true → v.rd (R.seqStatus_in_shot n) ≠ 0 → Answers (.shotEnd t n) s fun u => u = v.shotEnd n w) ∧
  (∀ (t w : Nat) (n : Fin 64) (s v : State), (s.at t).ready n = some (w, v) → isCommit 0 w = true → Answers (.commitShot t n) s fun u => u = v.commitStep n w 2 0) ∧
  (∀ (t w : Nat) (n : Fin 64) (s v : State), (s.at t).ready n = some (w, v) → isCommit 1 w = true → Answers (.commitAt t n) s fun u => u = v.commitStep n w 1 (v.anchor n + mwTarget w)) ∧
  (∀ (t w : Nat) (n : Fin 64) (s v : State), (s.at t).ready n = some (w, v) → isCommit 2 w = true → v.txnState (mwArg w % 16) = tFREE → Answers (.commitAbort t n) s fun u => u.rd (R.seqStatus_txn_result n) = 2 ∧ (u.seq n).commitBad = true ∧ u.rd (R.seqPc_pc n) = (v.rd (R.seqPc_pc n) + 1) % 2 ^ 15 ∧ u.SameBut v [R.seqPc_pc n, R.seqStatus_run n, R.seqStatus_txn_result n]) ∧
  (∀ (t w : Nat) (n : Fin 64) (s v : State), (s.at t).ready n = some (w, v) → isCommit 2 w = true → v.txnState (mwArg w % 16) = tOPEN → Answers (.commitAbort t n) s fun u => u = (((v.freeTxn (mwArg w % 16) 11).txnOutcome (v.txn (mwArg w % 16)).ents).commitCode n 0).goNext n ∧ u.rd (R.seqStatus_txn_result n) = 0 ∧ (u.seq n).commitBad = false ∧ u.rd (R.seqPc_pc n) = (v.rd (R.seqPc_pc n) + 1) % 2 ^ 15)

/-- The ends of waits: run-ahead, descriptor checks, triggers and barriers, with their timeouts. Formalises 05_sequencer_engine.md: Steps and the anchor; 05_sequencer_engine.md: Operations; 06_sequencer_programs.md: Waiting for a trigger. -/
def Obligations.WaitsEnd : Prop :=
  (∀ (t : Nat) (n : Fin 64) (s : State), (s.seq n).wait = .runAhead → s.anchor n ≤ (s.at t).dial + 16384 → (s.seq n).handler = none → Answers (.runAheadRelease t n) s fun u => (u.seq n).wait = .none ∧ u.rd (R.seqStatus_run n) = 1 ∧ u.rd (R.seqPc_pc n) = s.rd (R.seqPc_pc n) ∧ u.SameBut s [R.seqStatus_run n]) ∧
  (∀ (t : Nat) (n : Fin 64) (c : DescChk) (s : State), (s.seq n).checks = [c] → c.bad = false → (s.seq n).wait = .checks → (s.seq n).handler = none → Answers (.descCheckReturn t n) s fun u => (u.seq n).wait = .none ∧ (u.seq n).checks = [] ∧ u.rd (R.seqStatus_run n) = 1 ∧ u.SameBut s [R.seqStatus_run n]) ∧
  (∀ (t : Nat) (n : Fin 64) (c : DescChk) (l : List DescChk) (s : State), (s.seq n).checks = c :: l → c.bad = true → Answers (.descCheckReturn t n) s fun u => (u.seq n).faults = (s.seq n).faults ++ [⟨3, c.pc, c.shot⟩] ∧ (u.seq n).checks = l ∧ u.SameBut s []) ∧
  (∀ (t src a0 y : Nat) (x : Nat × Nat) (dl : Option Nat) (n : Fin 64) (s : State), (s.seq n).wait = .waitt src a0 dl x → s.trigger n src a0 dl = some y → s.waiting n = true → Answers (.waittTriggered t n) s fun u => u.anchor n = trigAnchor y ∧ (u.seq n).timedOut = false ∧ u.rd (R.seqPc_pc n) = (s.rd (R.seqPc_pc n) + 1) % 2 ^ 15 ∧ u.SameBut s [R.seqPc_pc n, R.seqStatus_run n]) ∧
  (∀ (t src a0 d : Nat) (x : Nat × Nat) (n : Fin 64) (s : State), (s.seq n).wait = .waitt src a0 (some d) x → d ≤ (s.at t).dial → s.trigger n src a0 (some d) = none → s.waiting n = true → Answers (.waittTimeout t n) s fun u => u.anchor n = d ∧ (u.seq n).timedOut = true ∧ u.rd (R.seqStatus_timeout n) = 1 ∧ u.rd (R.seqPc_pc n) = (s.rd (R.seqPc_pc n) + 1) % 2 ^ 15 ∧ u.SameBut s [R.seqPc_pc n, R.seqStatus_run n, R.seqStatus_timeout n]) ∧
  (∀ (t : Nat) (b : Fin 32) (n : Fin 64) (s : State), s.members b = [n.val] → s.waitsAt b n = true → Answers (.syncRelease t b) s fun u => u.anchor n = max (s.anchor n) ((s.at t).dial + 2048) ∧ (u.seq n).timedOut = false ∧ u.rd (R.seqPc_pc n) = (s.rd (R.seqPc_pc n) + 1) % 2 ^ 15 ∧ u.SameBut s [R.seqPc_pc n, R.seqStatus_run n, R.seqStatus_sync_slip n]) ∧
  (∀ (t b a0 d : Nat) (n : Fin 64) (s : State), (s.seq n).wait = .sync b a0 (some d) → d ≤ (s.at t).dial → s.waiting n = true → Answers (.syncTimeout t n) s fun u => u.anchor n = d ∧ (u.seq n).timedOut = true ∧ u.rd (R.seqStatus_timeout n) = 1 ∧ u.rd (R.seqPc_pc n) = (s.rd (R.seqPc_pc n) + 1) % 2 ^ 15 ∧ u.SameBut s [R.seqPc_pc n, R.seqStatus_run n, R.seqStatus_timeout n])

/-- The answer to a fault, the patrol scrub of the stores, and a program load. Formalises 05_sequencer_engine.md: Faults and the journal; 05_sequencer_engine.md: Stores; 05_sequencer_engine.md: Load checks; 06_sequencer_programs.md: The program image and the load. -/
def Obligations.FaultsScrubAndLoads : Prop :=
  (∀ (t : Nat) (n : Fin 64) (f : FaultRep) (l : List FaultRep) (s : State), (s.seq n).faults = f :: l → s.halted n = true → f.shot = none → Answers (.sequencerFault t n) s fun u => u.rd (R.seqFault_fault_code n) = f.code % 16 ∧ u.rd (R.seqFault_fault_pc n) = f.pc % 2 ^ 15 ∧ (u.seq n).faults = l ∧ u.rd (R.seqStatus_run n) = s.rd (R.seqStatus_run n) ∧ u.SameBut s [R.seqFault_fault_code n, R.seqFault_fault_pc n]) ∧
  (∀ (t : Nat) (n : Fin 64) (f : FaultRep) (l : List FaultRep) (s : State), (s.seq n).faults = f :: l → s.halted n = false → Answers (.sequencerFault t n) s fun u => u = ((s.at t).setSeq n { s.seq n with faults := l }).answerFault n f) ∧
  (∀ (t : Nat) (n : Fin 64) (l : List (Nat × Nat × Nat)) (s : State), s.svc.svc ≠ .dark → Answers (.microScrub t n l) s fun u => u = (l.foldl (fun v x => v.upset n x) ((s.at t).settle n)).scrub n) ∧
  (∀ (t : Nat) (p : Fin 8) (im : ProgImage) (x : Pkt) (s v : State), (s.at t).takePkt p (ptIs 0xB) = some (x, v) → s.svc.svc ≠ .dark → s.svc.hbmTrained = true → s.role p = 1 → Answers (.load t p im) s fun u => u = v.loadPkt p x im) ∧
  (∀ (t : Nat) (n : Fin 64) (r : LoadReq) (s : State), s.svc.svc ≠ .dark → (s.seq n).loading = some r → Answers (.loadComplete t n) s fun u => u = ((s.at t).completeLoad n r).checkStacks)

/-- Pulse starts, frame actions, segment boundaries, jumps, bank writes, underruns and clip counters. Formalises 04_cells.md: Pulses, segments and descriptors; 04_cells.md: Jumps; 04_cells.md: Registers; 04_cells.md: The crossbar and the port sum. -/
def Obligations.CellsPlayAndJump : Prop :=
  (∀ (t x : Nat) (n : Fin 64) (c : Fin 8) (s : State), s.svc.svc ≠ .dark → (s.at t).nextStart n c = some x → Answers (.pulseStart t n c) s fun u => u = (s.at t).startAt n c x) ∧
  (∀ (t : Nat) (n : Fin 64) (c : Fin 8) (s : State), s.svc.svc ≠ .dark → Answers (.frameAction t n c) s fun u => u = (s.at t).applyActs n c (s.at t).dial) ∧
  (∀ (t : Nat) (n : Fin 64) (c : Fin 8) (p : Pulse) (g : Seg) (s : State), s.svc.svc ≠ .dark → (s.cell (8 * n + c)).play = some (p, g) → p.stop = none → g.b0 + 16 * g.d.length ≤ (s.at t).dial → Answers (.segmentBoundary t n c) s fun u => u = (s.at t).boundary n c p g (g.b0 + 16 * g.d.length)) ∧
  (∀ (t x : Nat) (n : Fin 64) (c : Fin 8) (p : Pulse) (g : Seg) (s : State), s.svc.svc ≠ .dark → (s.cell (8 * n + c)).play = some (p, g) → p.stop = some x → x ≤ (s.at t).dial → x ≤ g.b0 + 16 * g.d.length → Answers (.segmentBoundary t n c) s fun u => u = ((s.at t).settleTo n x).endPulse n c x) ∧
  (∀ (t : Nat) (n : Fin 64) (c : Fin 8) (s : State), ((s.svc.svc = .amber ∨ s.svc.svc = .green)) → (s.cell (8 * n + c)).play = none → Answers (.cellJump t n c) s fun u => u = (s.at t).wr (R.cellCmd_result n c) 2) ∧
  (∀ (t : Nat) (n : Fin 64) (c : Fin 8) (s : State), ((s.svc.svc = .amber ∨ s.svc.svc = .green)) → (s.cell (8 * n + c)).play.isSome = true → Answers (.cellJump t n c) s fun u => u = ((s.at t).askJump n c (s.at t).dial none).wr (R.cellCmd_result n c) 0 ∧ u.rd (R.cellCmd_result n c) = 0) ∧
  (∀ (t v : Nat) (n : Fin 64) (s : State), ((s.svc.svc = .amber ∨ s.svc.svc = .green)) → Answers (.bankHiWrite t n v) s fun u => SMap.get 0 u.bank (s.bankKey n) = SMap.get 0 s.bank (s.bankKey n) % 2 ^ 32 + v % 2 ^ 16 * 2 ^ 32 ∧ (SMap.get 0 u.marks (s.bankKey n)).testBit 1 = true ∧ u.hbm = s.hbm ∧ u.flash = s.flash ∧ u.RegsBut s [R.cellBankSel_entry n]) ∧
  (∀ (t : Nat) (n : Fin 64) (c : Fin 8) (p : Pulse) (g : Seg) (s : State), s.svc.svc ≠ .dark → (s.cell (8 * n + c)).play = some (p, g) → p.stop = none → g.d.envSrc = 2 → g.deadAt = none → (∀ e ∈ s.cache, e.1 / 65536 ≠ n ∨ e.2.mark = 0) → 256 + (s.cell (8 * n + c)).fill < needBy g ((s.at t).dial + 461) → p.iss.shot = none → Answers (.envelopeUnderrun t n c) s fun u => u.rd (R.cellStatus_underrun n c) = 1 ∧ (u.cell (8 * n + c)).play.map (fun e => e.2.deadAt) = some (some (deadTick g (256 + (s.cell (8 * n + c)).fill)))) ∧
  (∀ (t : Nat) (n : Fin 64) (p : Fin 2) (s : State), ((s.svc.svc = .amber ∨ s.svc.svc = .green)) → Answers (.clipClr t n p) s fun u => u = ((s.at t).settleNow n).wr (R.cellPortStatus_clip_count n p) 0 ∧ u.rd (R.cellPortStatus_clip_count n p) = 0) ∧
  (∀ (t : Nat) (n : Fin 64) (c : Fin 8) (s : State), s.svc.svc ≠ .dark → Answers (.envelopeUnderrun t n c) s fun u => u = ((s.at t).settle n).readEnv n c) ∧
  (∀ (t : Nat) (n : Fin 64) (c : Fin 8) (s : State), s.svc.svc = .sleep → Answers (.cellJump t n c) s fun u => u.rd R.hostAccStatus_acc_asleep = 1 ∧ u.cells = s.cells)

/-- Measurement windows open and close, records drain to the ring, trailers follow, speculations default. Formalises 07_readout.md: Windows; 07_readout.md: The result ring; 08_decisions_and_feedback.md: Speculative selection. -/
def Obligations.WindowsRecordsAndTrailers : Prop :=
  (∀ (t : Nat) (n : Fin 64) (c : Fin 8) (w : Win) (s : State), nextWin (s.lane (8 * n + c)).wins = some w → s.converting = true → tFirst w.mFirst ≤ (s.at t).dial → Answers (.windowOpen t n c) s fun u => u = (s.at t).windowOpen n c w) ∧
  (∀ (t : Nat) (n : Fin 64) (c : Fin 8) (o : OpenWin) (x : List Int) (s : State), (s.lane (8 * n + c)).ending = [] → (s.lane (8 * n + c)).cur = some o → 32 * o.last + 307 ≤ (s.at t).dial → s.svc.svc ≠ .dark → Answers (.windowClose t n c x) s fun u => u = ((s.at t).setLane (8 * n + c) { s.lane (8 * n + c) with cur := none }).windowResult n c o x) ∧
  (∀ (t : Nat) (n : Fin 64) (c : Fin 8) (o : OpenWin) (l : List OpenWin) (x : List Int) (s : State), (s.lane (8 * n + c)).ending = o :: l → 32 * o.last + 307 ≤ (s.at t).dial → s.svc.svc ≠ .dark → Answers (.windowClose t n c x) s fun u => u = ((s.at t).setLane (8 * n + c) { s.lane (8 * n + c) with ending := l }).windowResult n c o x) ∧
  (∀ (t : Nat) (n : Fin 64) (r : RecQ) (l : List RecQ) (s : State), s.svc.svc ≠ .dark → (s.comb n).recs = r :: l → (s.at t).earlierRec n r.tLast r.lane = false → Answers (.resultRecordWrite t n) s fun u => u = (s.at t).drainRec n r l) ∧
  (∀ (t e : Nat) (n : Fin 64) (x : Shot) (s : State), s.svc.svc ≠ .dark → ((s.at t).settleNow n).shotDone n = some (x, e) → s.svc.muteHigh = true → Answers (.shotTrailer t n) s fun u => u = (((s.at t).settleNow n).tellShots n).shotTrailer n x e) ∧
  (∀ (t : Nat) (n : Fin 64) (s : State), s.svc.svc ≠ .dark → Answers (.specCutoff t n) s fun u => u = ((s.comb n).specs.filter fun x => decide (x.way = none ∧ x.ts ≤ (s.at t).dial + 562)).foldl (fun v x => v.specDefault n x) (s.at t)) ∧
  (∀ (t : Nat) (n : Fin 64) (c : Fin 8) (w : Win) (s : State), (s.lane (8 * n + c)).wins = [w] → (s.lane (8 * n + c)).cur = none → s.converting = true → tFirst w.mFirst ≤ (s.at t).dial → firstTaken w.mFirst w.iss.arr = w.mFirst → w.cut = none → Answers (.windowOpen t n c) s fun u => (u.lane (8 * n + c)).wins = [] ∧ (u.lane (8 * n + c)).cur.map (fun o => (o.w, o.first, o.last)) = some (w, w.mFirst, w.mFirst + w.count - 1) ∧ u.SameBut s []) ∧
  (∀ (t : Nat) (n : Fin 64) (c : Fin 8) (o : OpenWin) (x : List Int) (s : State), (s.lane (8 * n + c)).ending = [] → (s.lane (8 * n + c)).cur = some o → 32 * o.last + 307 ≤ (s.at t).dial → o.force3 = true → s.svc.svc ≠ .dark → Answers (.windowClose t n c x) s fun u => (u.lane (8 * n + c)).cur = none ∧ u.rd (R.rdLaneStatus_last_v n c) = 3) ∧
  (∀ (t : Nat) (n : Fin 64) (r : RecQ) (l : List RecQ) (s : State), s.svc.svc ≠ .dark → (s.comb n).recs = r :: l → (s.at t).earlierRec n r.tLast r.lane = false → s.rd (R.rdStatus_ring_bad n) = 0 → (s.rd (R.rdResWr_res_wr n) + 1) % s.ringSize n ≠ s.rd (R.rdResRd_res_rd n) → Answers (.resultRecordWrite t n) s fun u => (u.comb n).recs = l ∧ u.rd (R.rdResWr_res_wr n) = (s.rd (R.rdResWr_res_wr n) + 1) % s.ringSize n % 2 ^ 28 ∧ u.flash = s.flash) ∧
  (∀ (t : Nat) (n : Fin 64) (x : Spec) (s : State), s.svc.svc ≠ .dark → (s.comb n).specs = [x] → x.way = none → x.ts ≤ (s.at t).dial + 562 → Answers (.specCutoff t n) s fun u => (u.comb n).specs = [{ x with way := some (if x.cset.dfltEn then x.cset.dfltWay % 2 else 0) }] ∧ u.rd (R.seqStatus_verdict_missing n) = 1) ∧
  (∀ (t : Nat) (n : Fin 64) (s : State), s.svc.svc ≠ .dark → (∀ x ∈ (s.comb n).specs, x.way ≠ none ∨ (s.at t).dial + 562 < x.ts) → Answers (.specCutoff t n) s fun u => u = s.at t)

/-- slot_clear sets valid = 0 in every local slot, or returns STATE with no effect while a sequencer runs. Formalises R212. -/
def Obligations.SlotClearNeedsEverySequencerHalted : Prop :=
  (∀ (t : Nat) (s : State), s.svc.svc ≠ .dark → s.allHalted = true → Answers (.slotClear t) s fun u => u.rd R.decCtl_result = 0 ∧ (∀ k : Fin 4096, u.rd (R.decSlotLo_valid k) = 0) ∧ u.dec = s.dec ∧ (∀ e : Fin 1024, u.rd (R.decRcLo_rc_used e) = s.rd (R.decRcLo_rc_used e) ∧ u.rd (R.decRcLo_rc_tag e) = s.rd (R.decRcLo_rc_tag e)) ∧ u.RegsBut s (R.decCtl_result :: (List.range 4096).map R.decSlotLo_valid)) ∧
  (∀ (t : Nat) (s : State), s.svc.svc ≠ .dark → s.allHalted = false → Answers (.slotClear t) s fun u => u.rd R.decCtl_result = 2 ∧ u.dec = s.dec ∧ ∀ f : Fld, f.key ≠ R.decCtl_result.key → u.rd f = s.rd f)

/-- Published slots arrive at their time; verdict, query and cancel words from a port are taken. Formalises 08_decisions_and_feedback.md: Tag slots; 08_decisions_and_feedback.md: Verdicts between Hives. -/
def Obligations.TagWordsAndSlots : Prop :=
  (∀ (t : Nat) (k : Fin 4096) (p : Pub) (s : State), s.svc.svc ≠ .dark → s.dec.pubs = [p] → p.slot = k → p.due ≤ (s.at t).dial → Answers (.tagSlotArrival t k) s fun u => u = ({ s.at t with dec := { s.dec with pubs := [] } }).publish p) ∧
  (∀ (t x : Nat) (p : Fin 8) (s v : State), (s.at t).takeWord p 1 = some (x, v) → Answers (.verdictWord t p) s fun u => u = v.takeVerdict p (wordTag x) (wordVerdict x) (wordTime x)) ∧
  (∀ (t x : Nat) (p : Fin 8) (s v : State), (s.at t).takeWord p 2 = some (x, v) → Answers (.queryWord t p) s fun u => u = v.takeQuery p (wordTag x)) ∧
  (∀ (t x : Nat) (p : Fin 8) (s v : State), (s.at t).takeWord p 3 = some (x, v) → Answers (.cancelWord t p) s fun u => u = v.takeCancel p (wordTag x))

/-- TXN_OPEN, STAGE, COMMIT and ABORT on the selected transaction, its decision point and its beat. Formalises 09_transactions.md: Staging; 09_transactions.md: Committing on one Hive. -/
def Obligations.TransactionsStageAndDecide : Prop :=
  (∀ (t : Nat) (s : State), ((s.svc.svc = .amber ∨ s.svc.svc = .green)) → s.txnState (s.rd R.txnSel_txn) = tFREE → Answers (.txnOpen t) s fun u => u.txnState (s.rd R.txnSel_txn) = tOPEN ∧ u.rd R.txnCmd_result = 0 ∧ u.txn (s.rd R.txnSel_txn) = TxnSt.init ∧ u.SameBut s [R.txnState_state (s.rd R.txnSel_txn), R.txnCmd_result]) ∧
  (∀ (t : Nat) (s : State), ((s.svc.svc = .amber ∨ s.svc.svc = .green)) → s.txnState (s.rd R.txnSel_txn) ≠ tFREE → Answers (.txnOpen t) s fun u => u = (s.at t).wr R.txnCmd_result 2) ∧
  (∀ (t : Nat) (s : State), ((s.svc.svc = .amber ∨ s.svc.svc = .green)) → s.txnState (s.rd R.txnSel_txn) ≠ tOPEN → Answers (.txnStage t) s fun u => u = (s.at t).wr R.txnCmd_result 2) ∧
  (∀ (t : Nat) (s : State), ((s.svc.svc = .amber ∨ s.svc.svc = .green)) → s.txnState (s.rd R.txnSel_txn) = tOPEN → s.rd (R.txnState_image (s.rd R.txnSel_txn)) = 0 → (4096 ≤ (s.txn (s.rd R.txnSel_txn)).ents.length ∨ entryOk (s.rd R.txnStageKind_kind) (s.rd R.txnStageAddr_target) (s.rd R.txnStageKind_run_len) = false) → Answers (.txnStage t) s fun u => u = (s.at t).wr R.txnCmd_result 5) ∧
  (∀ (t : Nat) (s : State), ((s.svc.svc = .amber ∨ s.svc.svc = .green)) → s.txnState (s.rd R.txnSel_txn) = tOPEN → s.rd (R.txnState_image (s.rd R.txnSel_txn)) = 0 → (s.txn (s.rd R.txnSel_txn)).ents = [] → s.rd R.txnStageKind_kind = 4 → s.rd R.txnStageAddr_target < 256 → Answers (.txnStage t) s fun u => u.rd R.txnCmd_result = 0 ∧ ((u.txn (s.rd R.txnSel_txn)).ents.map fun e => (e.kind, e.target)) = [(4, s.rd R.txnStageAddr_target)] ∧ u.rd (R.txnState_entries (s.rd R.txnSel_txn)) = 1 ∧ u.RegsBut s [R.txnState_entries (s.rd R.txnSel_txn), R.txnCmd_result] ∧ u.flash = s.flash) ∧
  (∀ (t : Nat) (s : State), ((s.svc.svc = .amber ∨ s.svc.svc = .green)) → s.txnState (s.rd R.txnSel_txn) ≠ tOPEN → s.rd R.txnCmd_cmode ≠ 3 → Answers (.txnCommit t) s fun u => u = (s.at t).wr R.txnCmd_result 2) ∧
  (∀ (t : Nat) (s : State), ((s.svc.svc = .amber ∨ s.svc.svc = .green)) → s.txnState (s.rd R.txnSel_txn) = tOPEN → s.rd R.txnCmd_cmode = 0 → s.stageBad (s.rd R.txnSel_txn) = false → Answers (.txnCommit t) s fun u => u.rd R.txnCmd_result = 0 ∧ u.txnState (s.rd R.txnSel_txn) = tPENDING ∧ (u.txn (s.rd R.txnSel_txn)).beat = some (beatUp ((s.at t).dial + 1024)) ∧ u.SameBut s [R.txnState_state (s.rd R.txnSel_txn), R.txnCmd_result]) ∧
  (∀ (t : Nat) (s : State), ((s.svc.svc = .amber ∨ s.svc.svc = .green)) → s.txnState (s.rd R.txnSel_txn) = tFREE → Answers (.txnAbort t) s fun u => u = (s.at t).wr R.txnCmd_result 2) ∧
  (∀ (t : Nat) (s : State), ((s.svc.svc = .amber ∨ s.svc.svc = .green)) → s.txnState (s.rd R.txnSel_txn) = tOPEN → (s.txn (s.rd R.txnSel_txn)).ents = [] → Answers (.txnAbort t) s fun u => u = (((s.at t).freeTxn (s.rd R.txnSel_txn) 11).txnOutcome []).wr R.txnCmd_result 0 ∧ u.txnState (s.rd R.txnSel_txn) = tFREE ∧ u.rd (R.txnState_outcome (s.rd R.txnSel_txn)) = 11) ∧
  (∀ (t b : Nat) (x : Fin 16) (s : State), (s.at t).txnBeat x = some b → b ≤ (s.at t).dial + 1024 → s.txnState x = tPENDING → Answers (.txnDecisionPoint t x) s fun u => (u.txn x).decided = true ∧ (u.txn x).beat = some b ∧ u.regs = s.regs) ∧
  (∀ (t b : Nat) (x : Fin 16) (s : State), s.svc.svc ≠ .dark → (s.at t).txnBeat x = some b → b ≤ (s.at t).dial → s.txnState x = tPENDING → Answers (.txnApply t x) s fun u => u = (s.at t).applyTxn x b)

/-- The swarm coordinator and the seven kinds of swarm message. Formalises 09_transactions.md: Swarm commits. -/
def Obligations.SwarmMessagesTravel : Prop :=
  (∀ (t : Nat) (s : State), ((s.svc.svc = .amber ∨ s.svc.svc = .green)) → s.swm.running = true → Answers (.swarmGo t) s fun u => u = (s.at t).wr R.swmCtl_result 1) ∧
  (∀ (t : Nat) (s : State), ((s.svc.svc = .amber ∨ s.svc.svc = .green)) → s.swm.running = false → s.swarmParts = [] → Answers (.swarmGo t) s fun u => u = (s.at t).wr R.swmCtl_result 5) ∧
  (∀ (t : Nat) (s : State), s.swm.running = true → s.swm.t ≤ (s.at t).dial + s.swm.guard → Answers (.swarmGuardExpiry t) s fun u => u = (s.at t).swarmAbort) ∧
  (∀ (t : Nat) (p : Fin 8) (m : SwarmMsg) (s v : State), (s.at t).takeSwarm p 1 = some (m, v) → v.inChain = true → m.dest = v.myId → Answers (.prepare t p) s fun u => u = (v.prepare m.txn m.coord m.swarm m.t m.shot).2.sendTo { m with kind := 2, sender := v.myId, dest := m.coord, code := (v.prepare m.txn m.coord m.swarm m.t m.shot).1 }) ∧
  (∀ (t : Nat) (p : Fin 8) (m : SwarmMsg) (s v : State), (s.at t).takeSwarm p 2 = some (m, v) → v.inChain = true → m.dest = v.myId → v.swm.running = false → Answers (.vote t p) s fun u => u = v) ∧
  (∀ (t : Nat) (p : Fin 8) (m : SwarmMsg) (s v : State), (s.at t).takeSwarm p 3 = some (m, v) → v.inChain = true → v.flooded m = false → Answers (.swarmCommit t p) s fun u => u = (if ((v.floodOut m (some p.val)).takeCommit m.coord m.swarm).1 then ((v.floodOut m (some p.val)).takeCommit m.coord m.swarm).2.sendTo { m with kind := 4, sender := (v.floodOut m (some p.val)).myId, dest := m.coord } else ((v.floodOut m (some p.val)).takeCommit m.coord m.swarm).2)) ∧
  (∀ (t : Nat) (p : Fin 8) (m : SwarmMsg) (s v : State), (s.at t).takeSwarm p 4 = some (m, v) → v.inChain = true → m.dest = v.myId → v.swm.running = false → Answers (.ack t p) s fun u => u = v) ∧
  (∀ (t : Nat) (p : Fin 8) (m : SwarmMsg) (s v : State), (s.at t).takeSwarm p 5 = some (m, v) → v.inChain = true → v.flooded m = false → Answers (.swarmAbort t p) s fun u => u = (v.floodOut m (some p.val)).takeAbort m.coord m.swarm) ∧
  (∀ (t : Nat) (p : Fin 8) (m : SwarmMsg) (s v : State), (s.at t).takeSwarm p 6 = some (m, v) → v.inChain = true → v.flooded m = false → (v.floodOut m (some p.val)).findRec m.coord m.swarm = none → Answers (.statusQ t p) s fun u => u = v.floodOut m (some p.val)) ∧
  (∀ (t : Nat) (p : Fin 8) (m : SwarmMsg) (s v : State), (s.at t).takeSwarm p 7 = some (m, v) → v.inChain = true → m.dest = v.myId → v.swm.asks = [] → Answers (.statusA t p) s fun u => u = v) ∧
  (∀ (t : Nat) (p : Fin 8) (m : SwarmMsg) (s v : State), (s.at t).takeSwarm p 1 = some (m, v) → v.inChain = true → m.dest ≠ v.myId → Answers (.prepare t p) s fun u => u = v.sendTo m) ∧
  (∀ (t : Nat) (p : Fin 8) (m : SwarmMsg) (s v : State), (s.at t).takeSwarm p 2 = some (m, v) → v.inChain = true → m.dest ≠ v.myId → Answers (.vote t p) s fun u => u = v.sendTo m) ∧
  (∀ (t : Nat) (p : Fin 8) (m : SwarmMsg) (s v : State), (s.at t).takeSwarm p 4 = some (m, v) → v.inChain = true → m.dest ≠ v.myId → Answers (.ack t p) s fun u => u = v.sendTo m) ∧
  (∀ (t : Nat) (p : Fin 8) (m : SwarmMsg) (s v : State), (s.at t).takeSwarm p 7 = some (m, v) → v.inChain = true → m.dest ≠ v.myId → Answers (.statusA t p) s fun u => u = v.sendTo m) ∧
  (∀ (t a b d : Nat) (s : State), s.swm.asks = [(a, b, d)] → d + msTicks ≤ (s.at t).dial → Answers (.statusNoAnswer t) s fun u => u = (if s.rd R.swmOrph0_orph_swarm = b ∧ s.rd R.swmOrph0_orph_coord = a then ((s.at t).setSwm { s.swm with asks := [] }).wr R.swmOrph1_orph_peer 0 else (s.at t).setSwm { s.swm with asks := [] }) ∧ u.swm.asks = []) ∧
  (∀ (t : Nat) (p : Fin 8) (m : SwarmMsg) (s v : State), (s.at t).takeSwarm p 2 = some (m, v) → v.inChain = true → m.dest = v.myId → v.swm.running = true → m.coord = v.myId → m.swarm = v.rd R.swmCtl_swarm_no → v.rd R.swmStatus_phase = 1 → m.sender ∈ v.swm.parts → m.code = 0 → Answers (.vote t p) s fun u => u = v.countYes m.sender) ∧
  (∀ (t : Nat) (p : Fin 8) (m : SwarmMsg) (s v : State), (s.at t).takeSwarm p 4 = some (m, v) → v.inChain = true → m.dest = v.myId → v.swm.running = true → m.coord = v.myId → m.swarm = v.rd R.swmCtl_swarm_no → v.rd R.swmStatus_phase = 2 → m.sender ∈ v.swm.parts → v.dial + v.swm.guard ≤ v.swm.t → Answers (.ack t p) s fun u => u = v.countAck m.sender) ∧
  (∀ (t : Nat) (p : Fin 8) (m : SwarmMsg) (s v : State), (s.at t).takeSwarm p 7 = some (m, v) → v.inChain = true → m.dest = v.myId → v.swm.asks = [(m.coord, m.swarm, 0)] → Answers (.statusA t p) s fun u => u.swm.asks = [] ∧ u.SameBut v [R.swmOrph0_orph_swarm, R.swmOrph0_orph_coord, R.swmOrph0_orph_outcome, R.swmOrph1_orph_peer]) ∧
  (∀ (t d : Nat) (s : State), ((s.svc.svc = .amber ∨ s.svc.svc = .green)) → s.swm.running = false → s.swarmParts = [d] → ((4 * s.swarmL1 + 1792 + s.swarmG : Nat) : Int) ≤ diff40 (s.rd R.swmTLo_t_lo + 2 ^ 32 * s.rd R.swmTHi_t_hi) (s.at t).dial → 2 * s.swarmL1 + 1024 ≤ s.swarmG → s.rd R.swmCtl_self = 0 → Answers (.swarmGo t) s fun u => u.swm.running = true ∧ u.swm.parts = [d] ∧ u.swm.guard = s.swarmG ∧ u.swm.t = expand40 (s.rd R.swmTLo_t_lo + 2 ^ 32 * s.rd R.swmTHi_t_hi) (s.at t).dial ∧ u.rd R.swmCtl_result = 0 ∧ u.rd R.swmStatus_phase = 1 ∧ u.rd R.swmCtl_swarm_no = (s.rd R.swmCtl_swarm_no + 1) % 2 ^ 16) ∧
  (∀ (t : Nat) (p : Fin 8) (m : SwarmMsg) (r : SwarmRec) (o : Nat) (s v : State), (s.at t).takeSwarm p 6 = some (m, v) → v.inChain = true → v.flooded m = false → (v.floodOut m (some p.val)).findRec m.coord m.swarm = some r → r.outcome = some o → Answers (.statusQ t p) s fun u => u = (v.floodOut m (some p.val)).answerStatus m.coord m.swarm m.sender o) ∧
  (∀ (t : Nat) (p : Fin 8) (m : SwarmMsg) (r : SwarmRec) (s v : State), (s.at t).takeSwarm p 6 = some (m, v) → v.inChain = true → v.flooded m = false → (v.floodOut m (some p.val)).findRec m.coord m.swarm = some r → r.outcome = none → Answers (.statusQ t p) s fun u => u = (v.floodOut m (some p.val)).setRec m.coord m.swarm fun x => { x with askers := x.askers ++ [m.sender] })

/-- Over-range runs and their end, band settling, and the actions of a shot boundary. Formalises 10_rf_ports.md: Over-range; 10_rf_ports.md: The ADC path; 19_calibration_and_life.md: Applying changes; 03_timebase_and_scheduling.md: Shots and their boundaries. -/
def Obligations.PortsOverRangeAndSettle : Prop :=
  (∀ (t : Nat) (p : Fin 64) (s : State), s.converting = true → Answers (.overRange t p) s fun u => u = (s.at t).overRange p ((s.at t).dial - (s.at t).dial % 2) ∧ (u.comb p).ovrRun.map (·.1) = some ((s.at t).dial - (s.at t).dial % 2) ∧ (u.rd (R.frontInState_in_valid (p / 16))).testBit (p % 16) = false) ∧
  (∀ (t : Nat) (p : Fin 64) (s : State), s.converting = true → (s.comb p).settleEnd = none → Answers (.overRange t p) s fun u => (u.rd (R.frontOvr_ovr (p / 16))).testBit (p % 16) = true) ∧
  (∀ (t e : Nat) (p : Fin 64) (s : State), s.converting = true → (s.comb p).settleEnd = some e → (s.at t).dial < e → (s.comb p).ovrRun = none → t % 2 = 0 → Answers (.overRange t p) s fun u => u.rd (R.adcOvrCnt_ovr_count (p / 16) (p % 16)) = s.rd (R.adcOvrCnt_ovr_count (p / 16) (p % 16)) ∧ u.rd (R.frontOvr_ovr (p / 16)) = s.rd (R.frontOvr_ovr (p / 16))) ∧
  (∀ (t : Nat) (p : Fin 64) (s : State), s.converting = true → (s.comb p).settleEnd = none → (s.comb p).ovrRun = none → Answers (.overRange t p) s fun u => u.rd (R.adcOvrCnt_ovr_count (p / 16) (p % 16)) = min 65535 (s.rd (R.adcOvrCnt_ovr_count (p / 16) (p % 16)) + 1)) ∧
  (∀ (t : Nat) (o : Nat × Bool) (p : Fin 64) (s : State), (s.comb p).ovrRun = some o → o.1 + 104 ≤ (s.at t).dial → Answers (.overRangeValidReturn t p) s fun u => u = ((s.at t).setComb p { s.comb p with ovrRun := none }).showValid p ∧ (u.comb p).ovrRun = none) ∧
  (∀ (t : Nat) (o : Nat × Bool) (p : Fin 64) (s : State), (s.comb p).ovrRun = some o → o.1 + 104 ≤ (s.at t).dial → (s.comb p).settleEnd = none → Answers (.overRangeValidReturn t p) s fun u => (u.rd (R.frontInState_in_valid (p / 16))).testBit (p % 16) = true ∧ u.SameBut s [R.frontInState_in_valid (p / 16)]) ∧
  (∀ (t e : Nat) (p : Fin 64) (s : State), (s.comb p).settleEnd = some e → e ≤ (s.at t).dial → Answers (.bandSettleEnd t p) s fun u => u = (((s.at t).setComb p { s.comb p with settleEnd := none }).clrBit (R.frontInState_settling (p / 16)) (p % 16)).showValid p ∧ (u.comb p).settleEnd = none ∧ (u.rd (R.frontInState_settling (p / 16))).testBit (p % 16) = false ∧ u.SameBut s [R.frontInState_settling (p / 16), R.frontInState_in_valid (p / 16)]) ∧
  (∀ (t b : Nat) (p : Fin 64) (s : State), s.svc.svc ≠ .dark → (s.at t).bndBeat p = some b → Answers (.boundaryActionsApply t p) s fun u => u = (s.at t).applyBoundary p b) ∧
  (∀ (t b : Nat) (p : Fin 64) (s : State), s.svc.svc ≠ .dark → (s.at t).bndBeat p = some b → (s.seq p).resume = none → (s.at t).calPending p = false → Answers (.boundaryActionsApply t p) s fun u => (u.seq p).bndAt = none ∧ u.regs = s.regs) ∧
  (∀ (t b : Nat) (p : Fin 64) (s : State), s.svc.svc ≠ .dark → (s.at t).bndBeat p = some b → (s.seq p).resume.isSome = true → Answers (.boundaryActionsApply t p) s fun u => (u.seq p).resume = none ∧ (u.seq p).bndAt = none) ∧
  (∀ (t b : Nat) (p : Fin 64) (s : State), s.svc.svc ≠ .dark → (s.at t).bndBeat p = some b → (s.at t).betweenShots p = true → (s.at t).calPending p = true → (s.seq p).calAt + 25600 ≤ (s.at t).dial → Answers (.haltedCalStep t p) s fun u => u = (s.at t).takeStep p (beatUp (s.at t).dial) ∧ (u.seq p).calAt = (s.at t).dial)

/-- Arming, stopping and forcing capture; triggers, timeouts, records and falling behind. Formalises 11_acquisition.md: Arming and records; 11_acquisition.md: Trigger conditions. -/
def Obligations.CaptureRuns : Prop :=
  (∀ (t : Nat) (s : State), s.svc.svc = .amber → Answers (.capArm t) s fun u => u.rd R.capCmd_result = 2) ∧
  (∀ (t : Nat) (s : State), ((s.svc.svc = .amber ∨ s.svc.svc = .green)) → (s.capMask.filter fun p => decide (s.capState p ≠ cIDLE)) = [] → Answers (.capStop t) s fun u => u = (s.at t).wr R.capCmd_result 2) ∧
  (∀ (t : Nat) (s : State), s.svc.svc = .green → Answers (.capArm t) s fun u => u = (s.at t).capArm) ∧
  (∀ (t : Nat) (s : State), ((s.svc.svc = .amber ∨ s.svc.svc = .green)) → Answers (.capForce t) s fun u => u = (s.at t).capForce) ∧
  (∀ (t : Nat) (s : State), ((s.svc.svc = .amber ∨ s.svc.svc = .green)) → Answers (.capStop t) s fun u => u = (s.at t).capStop) ∧
  (∀ (t : Nat) (p : Fin 64) (l : List Int) (s : State), s.svc.svc = .green → Answers (.captureTrigger t p l) s fun u => u = (s.at t).capSample p l) ∧
  (∀ (t : Nat) (p : Fin 64) (s : State), s.svc.svc = .green → Answers (.captureFallBehind t p) s fun u => u = (s.at t).capBehind p) ∧
  (∀ (t : Nat) (p : Fin 64) (l : List Int) (s : State), s.svc.svc ≠ .dark → Answers (.captureRecordCommit t p l) s fun u => u = (s.at t).capCommit p l) ∧
  (∀ (t m : Nat) (p : Fin 64) (s v : State), v = (s.at t).capSettle p ((s.at t).dial + 1) → v.svc.svc = .green → v.capState p ≠ cIDLE → v.ard (R.capTrig_en_timeout p) = 1 → (v.comb p).settleEnd = none → m = (v.cap p).toFrom + max 1 (v.ard (R.capTimeout_to_len p)) → v.dial / 32 = m → Answers (.captureTimeout t p) s fun u => u = (v.setCap p { v.cap p with toFrom := m }).capFire p 16 (32 * m) (32 * m)) ∧
  (∀ (t k : Nat) (p : Fin 64) (s v : State), v = (s.at t).capSettle p ((s.at t).dial + 1) → v.svc.svc = .green → v.capState p = cWAIT → k = v.ard (R.capAuto_auto_to p) → k ≠ 0 → (v.comb p).settleEnd = none → (v.cap p).autoFrom + 25600 * k ≤ v.dial → Answers (.captureAuto t p) s fun u => u = v.capFire p 0 (keptUp (2 ^ ((v.cap p).dec + 1)) v.dial) (keptUp (2 ^ ((v.cap p).dec + 1)) v.dial))

/-- Staged codes, LOAD commands and LOADs at their beat, and clearing of trips. Formalises 12_bias_outputs.md: Staging and LOAD; 12_bias_outputs.md: Supervision. -/
def Obligations.BiasCodesStageAndLoad : Prop :=
  (∀ (t v : Nat) (n : Fin 64) (b : Fin 4) (s : State), ((s.svc.svc = .amber ∨ s.svc.svc = .green)) → Answers (.biasStageWrite t n b v) s fun u => u = (s.at t).stage (4 * n + b) v ((s.at t).dial + 1024) ∧ (⟨v % 2 ^ 20, (s.at t).dial + 1024, (s.at t).dial⟩ : Staging) ∈ (u.biasOut (4 * n + b)).stages) ∧
  (∀ (t : Nat) (n : Fin 64) (s : State), ((s.svc.svc = .amber ∨ s.svc.svc = .green)) → Answers (.biasLoadCmd t n) s fun u => u = ((s.at t).askLoad n ((s.at t).dial + 1024) none).wr (R.biasCmd_result n) 0 ∧ u.rd (R.biasCmd_result n) = 0) ∧
  (∀ (t : Nat) (n : Fin 64) (s : State), ((s.svc.svc = .amber ∨ s.svc.svc = .green)) → s.rd (R.biasStatus_tripped n) = 0 → Answers (.tripClr t n) s fun u => u = (s.at t).wr (R.biasCmd_result n) 2) ∧
  (∀ (t : Nat) (n : Fin 64) (s : State), ((s.svc.svc = .amber ∨ s.svc.svc = .green)) → s.rd (R.biasStatus_tripped n) ≠ 0 → Answers (.tripClr t n) s fun u => u.rd (R.biasCmd_result n) = 0) ∧
  (∀ (t : Nat) (n : Fin 64) (l : GroupLoad) (s : State), s.grpLoads n = [l] → l.beat ≤ (s.at t).dial → l.arr + 1024 ≤ l.beat → l.iss = none → Answers (.biasLoad t n) s fun u => u = ((s.at t).setLoads n []).loadGroup n l.beat) ∧
  (∀ (t : Nat) (n : Fin 64) (b : Fin 4) (s : State), ((s.svc.svc = .amber ∨ s.svc.svc = .green)) → s.rd (R.biasStatus_tripped n) = 2 ^ b.val → (s.biasOut (4 * n + b)).cond = 0 → Answers (.tripClr t n) s fun u => u = (((((s.at t).clrBit (R.biasStatus_tripped n) b).clrBit (tripFld (4 * n + b)) (biasLocal (4 * n + b) % 32)).readyOut 2 (4 * n + b))).wr (R.biasCmd_result n) 0)

/-- Fast-flux pulses start and end, range holds end, and supervision and supply trips. Formalises 12_bias_outputs.md: Fast flux; 12_bias_outputs.md: Changing range; 12_bias_outputs.md: Supervision. -/
def Obligations.BiasOutputsHoldAndTrip : Prop :=
  (∀ (t : Nat) (n : Fin 64) (b : Fin 4) (f : Flux) (s : State), (s.biasOut (4 * n + b)).fluxes = [f] → f.b0 ≤ (s.at t).dial → Answers (.fluxStart t n b) s fun u => u = ((s.at t).setBias (4 * n + b) { s.biasOut (4 * n + b) with fluxes := [] }).startFlux (4 * n + b) f) ∧
  (∀ (t : Nat) (n : Fin 64) (b : Fin 4) (f : Flux) (s : State), (s.biasOut (4 * n + b)).flux = some f → f.fin ≤ (s.at t).dial → f.hold = false → Answers (.fluxEnd t n b) s fun u => u = (s.at t).fluxTo (4 * n + b) (s.at t).dial ∧ (u.biasOut (4 * n + b)).flux = none ∧ u.codeAct (4 * n + b) = s.codeAct (4 * n + b)) ∧
  (∀ (t e : Nat) (n : Fin 64) (b : Fin 4) (s : State), (s.biasOut (4 * n + b)).holdEnd = some e → e ≤ (s.at t).dial → Answers (.rangeHoldEnd t n b) s fun u => u = (((s.at t).fluxTo (4 * n + b) (s.at t).dial).setBias (4 * n + b) { ((s.at t).fluxTo (4 * n + b) (s.at t).dial).biasOut (4 * n + b) with holdEnd := none }).clrBit (R.biasStatus_holding n) b ∧ (u.biasOut (4 * n + b)).holdEnd = none) ∧
  (∀ (t g : Nat) (mv : Int) (n : Fin 64) (b : Fin 4) (s : State), s.svc.svc ≠ .dark → s.supervised (4 * n + b) 0 = true → 2850 ≤ mv.natAbs → g + qualTicks (s.ard (R.biasCfg_open_q (biasDie (4 * n + b)) (biasLocal (4 * n + b)))) ≤ (s.at t).dial → Answers (.supervisionTrip t n b (.openLoad g mv)) s fun u => u = ((s.at t).setBias (4 * n + b) { s.biasOut (4 * n + b) with cond := (s.biasOut (4 * n + b)).cond ||| 4 }).tripFor (openFld (4 * n + b)) (4 * n + b)) ∧
  (∀ (t : Nat) (n : Fin 64) (b : Fin 4) (s : State), s.svc.svc ≠ .dark → s.supervised (4 * n + b) 1 = true → (s.biasOut (4 * n + b)).cond.testBit 0 = true → (s.biasOut (4 * n + b)).ocAt + qualTicks (s.ard (R.biasCfg_lim_q (biasDie (4 * n + b)) (biasLocal (4 * n + b)))) ≤ (s.at t).dial → Answers (.supervisionTrip t n b .overCurrent) s fun u => u = (s.at t).tripFor (limFld (4 * n + b)) (4 * n + b)) ∧
  (∀ (t g : Nat) (mv : Int) (n : Fin 64) (b : Fin 4) (s : State), s.svc.svc ≠ .dark → s.supervised (4 * n + b) 0 = true → mv.natAbs < 2850 → Answers (.supervisionTrip t n b (.openLoad g mv)) s fun u => (u.biasOut (4 * n + b)).cond = (s.biasOut (4 * n + b)).cond &&& 3 ∧ u.regs = s.regs) ∧
  (∀ (t g : Nat) (mv : Int) (n : Fin 64) (b : Fin 4) (s : State), s.svc.svc ≠ .dark → s.supervised (4 * n + b) 0 = true → 2850 ≤ mv.natAbs → (s.at t).dial < g + qualTicks (s.ard (R.biasCfg_open_q (biasDie (4 * n + b)) (biasLocal (4 * n + b)))) → Answers (.supervisionTrip t n b (.openLoad g mv)) s fun u => (u.biasOut (4 * n + b)).cond = (s.biasOut (4 * n + b)).cond ||| 4 ∧ u.regs = s.regs) ∧
  (∀ (t : Nat) (n : Fin 64) (b : Fin 4) (i : Int) (s : State), s.svc.svc ≠ .dark → s.supervised (4 * n + b) 1 = true → 2 ^ 19 * s.fullScale (4 * n + b) * limPercent (s.ard (R.biasCfg_lim_lvl (biasDie (4 * n + b)) (biasLocal (4 * n + b)))) < i.natAbs * 100 → Answers (.biasLimitClamp t n b i) s fun u => u = ((s.at t).setBias (4 * n + b) { s.biasOut (4 * n + b) with cond := (s.biasOut (4 * n + b)).cond ||| 1, ocAt := if (s.biasOut (4 * n + b)).cond.testBit 0 then (s.biasOut (4 * n + b)).ocAt else (s.at t).dial }).setBit (limFld (4 * n + b)) (biasLocal (4 * n + b) % 32) ∧ (u.biasOut (4 * n + b)).cond = (s.biasOut (4 * n + b)).cond ||| 1) ∧
  (∀ (t : Nat) (n : Fin 64) (b : Fin 4) (i : Int) (s : State), s.svc.svc ≠ .dark → s.supervised (4 * n + b) 1 = true → i.natAbs * 100 ≤ 2 ^ 19 * s.fullScale (4 * n + b) * limPercent (s.ard (R.biasCfg_lim_lvl (biasDie (4 * n + b)) (biasLocal (4 * n + b)))) → Answers (.biasLimitClamp t n b i) s fun u => (u.biasOut (4 * n + b)).cond = (s.biasOut (4 * n + b)).cond &&& 6 ∧ u.regs = s.regs) ∧
  (∀ (t : Nat) (q : Fin 4) (s : State), s.svc.svc ≠ .dark → Answers (.biasSupplyTrip t q) s fun u => u = (List.range 64).foldl (fun v k => (v.setBias (64 * q + k) { v.biasOut (64 * q + k) with cond := (v.biasOut (64 * q + k)).cond ||| 2 }).trip (64 * q + k)) (s.at t)) ∧
  (∀ (t : Nat) (q : Fin 4) (s : State), Answers (.biasSupplyRestored t q) s fun u => (∀ k : Fin 64, (u.biasOut (64 * q + k)).cond = (s.biasOut (64 * q + k)).cond &&& 5) ∧ u.regs = s.regs)

/-- Marker edges and forces, Stamp edges, and code-density runs. Formalises 13_markers_and_stamps.md: Marker edges; 13_markers_and_stamps.md: Stamp inputs; 13_markers_and_stamps.md: The vernier converter and its calibration. -/
def Obligations.MarkersStampsAndCodeDensity : Prop :=
  (∀ (t : Nat) (n : Fin 64) (s : State), s.svc.svc ≠ .dark → Answers (.markerEdge t n) s fun u => u = (s.at t).markRun n) ∧
  (∀ (t : Nat) (n : Fin 64) (s : State), ((s.svc.svc = .amber ∨ s.svc.svc = .green)) → (s.mkr n).low ≠ 0 → Answers (.markForce t n) s fun u => u = (s.at t).wr (R.markCmd_result n) 2) ∧
  (∀ (t : Nat) (n : Fin 64) (s : State), ((s.svc.svc = .amber ∨ s.svc.svc = .green)) → (s.mkr n).low = 0 → Answers (.markForce t n) s fun u => u = ((s.at t).forceSet n).wr (R.markCmd_result n) 0 ∧ u.rd (R.markCmd_result n) = 0) ∧
  (∀ (t code : Nat) (mv : Int) (i : Fin 50) (s : State), i.val < 32 → s.takesEdges i = true → ((s.at t).stampFollow i mv).takesEdges i = true → (((s.at t).stampFollow i mv).stamp i).high ≠ (s.stamp i).high → Answers (.stampEdge t i mv code) s fun u => u = ((s.at t).stampFollow i mv).takeEdge i (256 * (s.at t).dial + (s.at t).stampFrac i code) (((s.at t).stampFollow i mv).stamp i).high) ∧
  (∀ (t code : Nat) (mv : Int) (i : Fin 50) (s : State), i.val < 32 → (s.takesEdges i = false ∨ (((s.at t).stampFollow i mv).stamp i).high = (s.stamp i).high) → Answers (.stampEdge t i mv code) s fun u => u = (s.at t).stampFollow i mv ∧ u.regs = s.regs) ∧
  (∀ (t : Nat) (s : State), ((s.svc.svc = .amber ∨ s.svc.svc = .green)) → (s.at t).cdBusy = true → Answers (.cdRun t) s fun u => u = (s.at t).wr R.stpCd_result 1) ∧
  (∀ (t : Nat) (s : State), ((s.svc.svc = .amber ∨ s.svc.svc = .green)) → (s.at t).cdBusy = false → Answers (.cdRun t) s fun u => u.cd = some ⟨s.rd R.stpCd_cd_in, none, 0⟩ ∧ u.rd R.stpCd_cd_busy = 1) ∧
  (∀ (t : Nat) (l : List Nat) (c : CdSt) (s : State), s.cd = some c → c.half = none → Answers (.cdRunComplete t l) s fun u => u.cd = some { c with half := some (lutOf l (Config.freeValue s.free)) } ∧ u.free = s.free + 1 ∧ u.regs = s.regs) ∧
  (∀ (t : Nat) (l a : List Nat) (c : CdSt) (s : State), s.cd = some c → c.half = some a → lutsAgree a (lutOf l (Config.freeValue s.free)) = true → Answers (.cdRunComplete t l) s fun u => u = { ((((s.at t).draw.2).setLut c.input (meanLut a (lutOf l (Config.freeValue s.free)))).wr R.stpCd_cd_busy 0).wr R.stpCd_result 0 with cd := none } ∧ u.cd = none ∧ u.rd R.stpCd_cd_busy = 0 ∧ u.rd R.stpCd_result = 0) ∧
  (∀ (t code : Nat) (mv : Int) (i : Fin 50) (s : State), 32 ≤ i.val → s.takesEdges i = true → 0 < mv → Answers (.stampEdge t i mv code) s fun u => u = (s.at t).takeEdge i (256 * (s.at t).dial + code % 256) true) ∧
  (∀ (t code : Nat) (mv : Int) (i : Fin 50) (s : State), 32 ≤ i.val → (s.takesEdges i = false ∨ mv ≤ 0) → Answers (.stampEdge t i mv code) s fun u => u = s.at t) ∧
  (∀ (t : Nat) (l a : List Nat) (c : CdSt) (s : State), s.cd = some c → c.half = some a → lutsAgree a (lutOf l (Config.freeValue s.free)) = false → c.bad < 3 → Answers (.cdRunComplete t l) s fun u => u.cd = some { c with half := none, bad := c.bad + 1 } ∧ u.regs = s.regs) ∧
  (∀ (t : Nat) (l a : List Nat) (c : CdSt) (s : State), s.cd = some c → c.half = some a → lutsAgree a (lutOf l (Config.freeValue s.free)) = false → 3 ≤ c.bad → Answers (.cdRunComplete t l) s fun u => u.cd = none ∧ u.rd R.stpCd_cd_busy = 0 ∧ u.rd R.stpCd_result < rPARTIAL)

/-- Measurement go and stop, interval results and timeouts, frequency gates. Formalises 13_markers_and_stamps.md: Measurement units. -/
def Obligations.MeasurementUnitsPost : Prop :=
  (∀ (t : Nat) (k : Fin 16) (s : State), ((s.svc.svc = .amber ∨ s.svc.svc = .green)) → s.rd (R.stpMCmd_busy k) = 1 → Answers (.measurementGo t k) s fun u => u = (s.at t).wr (R.stpMCmd_result k) 1) ∧
  (∀ (t : Nat) (k : Fin 16) (s : State), ((s.svc.svc = .amber ∨ s.svc.svc = .green)) → s.rd (R.stpMCmd_busy k) = 0 → 50 ≤ s.rd (R.stpMCfg_start_src k) → Answers (.measurementGo t k) s fun u => u = (s.at t).wr (R.stpMCmd_result k) 5) ∧
  (∀ (t : Nat) (k : Fin 16) (s : State), ((s.svc.svc = .amber ∨ s.svc.svc = .green)) → s.rd (R.stpMCmd_busy k) = 0 → s.rd (R.stpMCfg_start_src k) < 50 → s.rd (R.stpMCfg_stop_src k) < 50 → s.rd (R.stpMCfg_mode k) = 0 → Answers (.measurementGo t k) s fun u => u.rd (R.stpMCmd_busy k) = 1 ∧ (u.unit k).src1 = s.rd (R.stpMCfg_start_src k) ∧ (u.unit k).src2 = s.rd (R.stpMCfg_stop_src k) ∧ (u.unit k).start = none ∧ (u.unit k).goAt = 256 * (s.at t).dial ∧ u.rd (R.stpMCmd_result k) = 0 ∧ u.SameBut s [R.stpMCmd_busy k, R.stpMCmd_result k]) ∧
  (∀ (t : Nat) (k : Fin 16) (s : State), ((s.svc.svc = .amber ∨ s.svc.svc = .green)) → s.rd (R.stpMCmd_busy k) = 1 → Answers (.measurementStop t k) s fun u => u.rd (R.stpMCmd_result k) = 11 ∧ u.rd (R.stpMCmd_busy k) = 0 ∧ u.SameBut s [R.stpMCmd_busy k, R.stpMCmd_result k]) ∧
  (∀ (t a b : Nat) (k : Fin 16) (s : State), (s.unit k).start = some a → (s.unit k).stop = some b → (s.unit k).mode = 0 → (s.unit k).rep = false → s.rd (R.stpMCmd_busy k) = 1 → a ≤ b → Answers (.intervalResult t k) s fun u => u.rd (R.stpMCmd_result k) = 0 ∧ u.rd (R.stpMCmd_busy k) = 0 ∧ u.rd (R.stpMResLo_res_lo k) + 2 ^ 32 * u.rd (R.stpMResHi_res_hi k) = (b - a) % 2 ^ 48 ∧ u.SameBut s [R.stpMCmd_busy k, R.stpMCmd_result k, R.stpMCmd_lost k, R.stpMResLo_res_lo k, R.stpMResHi_res_hi k]) ∧
  (∀ (t a : Nat) (k : Fin 16) (s : State), (s.unit k).start = some a → (s.unit k).stop = none → (s.unit k).mode = 0 → (s.unit k).rep = false → s.rd (R.stpMCmd_busy k) = 1 → a + 256 * (s.unit k).tmo < 256 * (s.at t).dial → Answers (.intervalTimeout t k) s fun u => u.rd (R.stpMCmd_result k) = 9 ∧ u.rd (R.stpMCmd_busy k) = 0 ∧ u.rd (R.stpMResLo_res_lo k) + 2 ^ 32 * u.rd (R.stpMResHi_res_hi k) = 2 ^ 48 - 1 ∧ u.SameBut s [R.stpMCmd_busy k, R.stpMCmd_result k, R.stpMCmd_lost k, R.stpMResLo_res_lo k, R.stpMResHi_res_hi k]) ∧
  (∀ (t : Nat) (k : Fin 16) (s : State), (s.unit k).mode = 1 → s.rd (R.stpMCmd_busy k) = 1 → ((s.unit k).start.getD (s.unit k).goAt) + 256 * (s.unit k).gate * msTicks < 256 * (s.at t).dial → (s.unit k).cnt < 2 → Answers (.frequencyGateEnd t k) s fun u => u.rd (R.stpMCmd_result k) = 9 ∧ u.rd (R.stpMCmd_busy k) = 0 ∧ u.rd (R.stpMN_n_used k) = (s.unit k).cnt ∧ u.SameBut s [R.stpMCmd_busy k, R.stpMCmd_result k, R.stpMN_n_used k]) ∧
  (∀ (t : Nat) (k : Fin 16) (s : State), (s.unit k).mode = 1 → s.rd (R.stpMCmd_busy k) = 1 → ((s.unit k).start.getD (s.unit k).goAt) + 256 * (s.unit k).gate * msTicks < 256 * (s.at t).dial → 2 ≤ (s.unit k).cnt → Answers (.frequencyGateEnd t k) s fun u => u.rd (R.stpMCmd_result k) = 0 ∧ u.rd (R.stpMCmd_busy k) = 0 ∧ u.rd (R.stpMResLo_res_lo k) + 2 ^ 32 * u.rd (R.stpMResHi_res_hi k) = unsigned 48 (freqDev (s.unit k))) ∧
  (∀ (t : Nat) (k : Fin 16) (s : State), ((s.svc.svc = .amber ∨ s.svc.svc = .green)) → s.rd (R.stpMCmd_busy k) = 0 → Answers (.measurementStop t k) s fun u => u = (s.at t).wr (R.stpMCmd_result k) 2)

/-- Map changes, host reservations, scrub and repair, a lost stack, descriptor and stream reads, far-store timeouts. Formalises 14_memory.md: Regions; 14_memory.md: Reservations and admission; 14_memory.md: Error protection; 14_memory.md: Descriptor reads; 14_memory.md: Far store; 04_cells.md: The envelope cache and streams. -/
def Obligations.MemoryRequestsAndLosses : Prop :=
  (∀ (t : Nat) (s : State), ((s.svc.svc = .amber ∨ s.svc.svc = .green)) → s.allHalted = false → Answers (.mapApply t) s fun u => u = (s.at t).wr R.memCmd_result 2) ∧
  (∀ (t k : Nat) (s v : State), ((s.svc.svc = .amber ∨ s.svc.svc = .green)) → v = (s.at t).capSettleAll → k = v.rd R.memHostRsv_host_rsv → Answers (.hostReq t) s fun u => u = (if (v.admission [0] [(0, 50 * k)]).1 then ((v.admission [0] [(0, 50 * k)]).2.wr R.memHostRsv_host_act k).memCode 0 else (v.admission [0] [(0, 50 * k)]).2.memCode 7)) ∧
  (∀ (t : Nat) (k : Nat) (s : State), ((s.svc.svc = .amber ∨ s.svc.svc = .green)) → s.svc.hbmTrained = true → k < 2 ^ 33 → s.poisoned k = false → s.errorsOf k = 0 → Answers (.hbmScrubPass t k []) s fun u => u = (s.at t).checkStacks) ∧
  (∀ (t : Nat) (k : Nat) (s : State), ((s.svc.svc = .amber ∨ s.svc.svc = .green)) → s.svc.hbmTrained = true → k < 2 ^ 33 → s.poisoned k = true → Answers (.hbmScrubPass t k []) s fun u => u = (s.at t).poisonHit.checkStacks ∧ u.rd R.memStatus_poison_hit = 1) ∧
  (∀ (t ba row : Nat) (k : Fin 4) (pc : Fin 32) (s : State), s.svc.svc ≠ .dark → s.svc.hbmTrained = true → rowKey k pc ba row ∈ s.memo.marked → SMap.get 0 s.memo.repairs k = 0 → Answers (.softRepair t k pc ba row) s fun u => u = (s.at t).softRepair k pc ba row) ∧
  (∀ (t : Nat) (k : Fin 4) (s : State), ((s.svc.svc = .amber ∨ s.svc.svc = .green)) → s.svc.hbmTrained = true → Answers (.stackLost t k) s fun u => u = (((s.at t).loseStack k).setF R.memStatus_stack_lost).memEvent.greenLoss 5) ∧
  (∀ (t : Nat) (n : Fin 64) (r : DescRead) (l : List DescRead) (s : State), ((s.svc.svc = .amber ∨ s.svc.svc = .green)) → (s.comb n).reads = r :: l → Answers (.descReadComplete t n) s fun u => u = (((s.at t).settle n).descDone n r l).checkStacks) ∧
  (∀ (t : Nat) (n : Fin 64) (c : Fin 8) (p : Pulse) (g : Seg) (s : State), s.svc.svc ≠ .dark → (s.cell (8 * n + c)).play = some (p, g) → g.d.envSrc = 1 → Answers (.streamRefill t n c) s fun u => u = (((s.at t).settle n).refillHbm n c g).checkStacks) ∧
  (∀ (t : Nat) (n : Fin 64) (c : Fin 8) (p : Pulse) (g : Seg) (s : State), s.svc.svc ≠ .dark → (s.cell (8 * n + c)).play = some (p, g) → g.d.envSrc = 2 → Answers (.streamRefill t n c) s fun u => u = ((s.at t).settle n).refillFar n c g) ∧
  (∀ (t tag : Nat) (p : Fin 8) (r : FarRead) (s : State), s.svc.svc ≠ .dark → s.farOf p tag = some r → r.code = none → r.at' + 25600000 ≤ (s.at t).dial → Answers (.farStoreAbandon t p tag) s fun u => u = (s.at t).farEnd r 9) ∧
  (∀ (t : Nat) (s : State), ((s.svc.svc = .amber ∨ s.svc.svc = .green)) → s.allHalted = true → (∀ p : Fin 64, (s.at t).capNow p = cIDLE ∧ (s.seq p).loading = none) → mapBad (s.at t) (s.at t).askedMap = false → Answers (.mapApply t) s fun u => u = ((s.at t).setMap (s.at t).askedMap).wr R.memCmd_result 0) ∧
  (∀ (t : Nat) (k : Nat) (s : State), ((s.svc.svc = .amber ∨ s.svc.svc = .green)) → s.svc.hbmTrained = true → k < 2 ^ 33 → s.poisoned k = false → s.errorsOf k = 0 → Answers (.hbmScrubPass t k [(k, 1)]) s fun u => u = (((s.at t).strikeChunk k 1).corrected k).checkStacks) ∧
  (∀ (t : Nat) (k : Nat) (s : State), ((s.svc.svc = .amber ∨ s.svc.svc = .green)) → s.svc.hbmTrained = true → k < 2 ^ 33 → s.poisoned k = false → s.errorsOf k = 0 → Answers (.hbmScrubPass t k [(k, 2)]) s fun u => u = (((s.at t).strikeChunk k 2).uncorrectable k).checkStacks)

/-- A write of bytes into HBM changes exactly those bytes, and a read gives them back. Formalises 14_memory.md: Stacks and addresses. -/
def Obligations.HbmBytesChangeWhereWritten : Prop :=
  (∀ (s : State) (a : Nat) (l : List Byte), ∀ k : Nat, (s.putHbm a l).hbmByte k = if a ≤ k ∧ k < a + l.length then l.getD (k - a) 0#8 else s.hbmByte k) ∧
  (∀ (s : State) (a : Nat) (l : List Byte), ∀ k : Nat, (s.putFlash a l).flashByte k = if a ≤ k ∧ k < a + l.length then l.getD (k - a) 0#8 else s.flashByte k)

/-- MEM_RD and MEM_WR from a host, MEM_DATA and CPL from a far-store node. Formalises 14_memory.md: Far store; 15_elvent_link.md: Frames. -/
def Obligations.MemoryPacketsAreServed : Prop :=
  (∀ (t : Nat) (p : Fin 8) (x : Pkt) (s v : State), (s.at t).takePkt p (ptIs 7) = some (x, v) → s.svc.svc ≠ .dark → s.svc.hbmTrained = true → s.role p = 1 → Answers (.memRd t p) s fun u => u = v.memRd p x) ∧
  (∀ (t : Nat) (p : Fin 8) (x : Pkt) (s v : State), (s.at t).takePkt p (ptIs 8) = some (x, v) → s.svc.svc ≠ .dark → s.svc.hbmTrained = true → s.role p = 1 → Answers (.memWr t p) s fun u => u = v.memWr p x) ∧
  (∀ (t : Nat) (p : Fin 8) (x : Pkt) (s v : State), (s.at t).takePkt p (ptIs 9) = some (x, v) → s.svc.svc ≠ .dark → s.role p = 2 → Answers (.memData t p) s fun u => u = v.memData p x) ∧
  (∀ (t : Nat) (p : Fin 8) (x : Pkt) (s v : State), (s.at t).takePkt p (ptIs 0xA) = some (x, v) → s.svc.svc ≠ .dark → s.role p = 2 → Answers (.cpl t p) s fun u => u = v.takeCpl p x) ∧
  (∀ (t : Nat) (p : Fin 8) (x : Pkt) (s v : State), (s.at t).takePkt p (ptIs 7) = some (x, v) → s.svc.svc ≠ .dark → s.svc.hbmTrained = true → s.role p = 1 → x.ws.getD 0 0 % 2 ^ 32 = 0 → Answers (.memRd t p) s fun u => u = v.queueCpl p (pktTag x) 5)

/-- Frames sent and received, the launch queue, and probes. Formalises 15_elvent_link.md: Frames; 15_elvent_link.md: Launch queues; 13_markers_and_stamps.md: Link delay. -/
def Obligations.LinkFramesAndQueues : Prop :=
  (∀ (t : Nat) (g : Nat × Nat) (p : Fin 8) (s : State), s.svc.svc ≠ .dark → (s.at t).slotHere p = some g → Answers (.frameSend t p) s fun u => u = ((s.at t).setPort p { s.port p with grid := some g }).frameSend p (s.at t).dial) ∧
  (∀ (t b f : Nat) (p : Fin 8) (s : State), s.portHeld p = false → Answers (.frameReceive t p b f) s fun u => u = (s.at t).frameReceive p b (256 * (s.at t).dial + f % 256)) ∧
  (∀ (t : Nat) (p : Fin 8) (s : State), ((s.svc.svc = .amber ∨ s.svc.svc = .green)) → 64 ≤ (s.port p).lq.length → Answers (.lqPush t p) s fun u => u = (s.at t).wr (R.elvCmd_result p) 1) ∧
  (∀ (t : Nat) (p : Fin 8) (s : State), ((s.svc.svc = .amber ∨ s.svc.svc = .green)) → (s.port p).lq.length < 64 → (s.rd (R.elvLqCfg_lq_len p) = 0 ∨ 8 < s.rd (R.elvLqCfg_lq_len p)) → Answers (.lqPush t p) s fun u => u = (s.at t).wr (R.elvCmd_result p) 5) ∧
  (∀ (t : Nat) (p : Fin 8) (s : State), ((s.svc.svc = .amber ∨ s.svc.svc = .green)) → (s.port p).lq = [] → 1 ≤ s.rd (R.elvLqCfg_lq_len p) → s.rd (R.elvLqCfg_lq_len p) ≤ 8 → Answers (.lqPush t p) s fun u => ((u.port p).lq.map fun x => x.ws.length) = [s.rd (R.elvLqCfg_lq_len p)] ∧ u.SameBut s [R.elvCmd_result p, R.elvStatus_lq_count p]) ∧
  (∀ (t : Nat) (p : Fin 8) (s : State), (s.at t).probeDue p = true → Answers (.probeExchange t p) s fun u => (u.port p).probeq = (s.port p).probeq ++ [⟨0x14, [0], 0⟩] ∧ (u.port p).probeAt = (s.at t).dial + 25600000 ∧ u.regs = s.regs) ∧
  (∀ (t : Nat) (p : Fin 8) (x : Pkt) (s v : State), (s.at t).takePkt p (fun x => decide (x.ptype = 4)) = some (x, v) → v.neighbourUp p = true → Answers (.probe t p) s fun u => u = v.probePkt p x)

/-- The training states of a port, its timeouts, and retrain, lane slips and negotiation by hand. Formalises 15_elvent_link.md: Training; 15_elvent_link.md: Registers. -/
def Obligations.LinkTraining : Prop :=
  (∀ (t : Nat) (p : Fin 8) (s : State), s.elvState p = eABSENT → s.portHeld p = false → (s.port p).everLeft = false → Answers (.forwardedClockSteady t p) s fun u => u = ((s.at t).setPort p { s.port p with leftAt := (s.at t).dial }).toClock p ∧ u.elvState p = eCLOCK) ∧
  (∀ (t : Nat) (p : Fin 8) (l : List (List Int × List Int)) (b : Bool) (s : State), s.elvState p = eCLOCK → s.portHeld p = false → Answers (.lanesLocked t p b l) s fun u => u = (let a := (s.at t).measurePairs (545 + p) 0 l; let v := a.setPort p { a.port p with v1 := (a.port p).v1 || b, alignN := 0 }; (v.wr (R.elvAlign_align_ok p) 0).setElv p eSLIP) ∧ u.elvState p = eSLIP ∧ u.rd (R.elvAlign_align_ok p) = 0) ∧
  (∀ (t : Nat) (p : Fin 8) (l : List Nat) (s : State), s.elvState p = eSLIP → s.ard (R.elvCtl_manual p) = 0 → Answers (.slipSearchDone t p l) s fun u => u = (s.at t).slipDone p l) ∧
  (∀ (t : Nat) (p : Fin 8) (l : List Nat) (s : State), s.elvState p = eDESKEW → s.ard (R.elvCtl_manual p) = 0 → Answers (.deskewDone t p l) s fun u => u = (s.at t).deskewDone p l) ∧
  (∀ (t w : Nat) (p : Fin 8) (s : State), (s.port p).negIn = some w → s.elvState p = eNEG → (s.port p).negOut = true → negReady w = true → Answers (.trainingActive t p) s fun u => u = (s.at t).goActive p w) ∧
  (∀ (t : Nat) (p : Fin 8) (s : State), eCLOCK ≤ s.elvState p → s.elvState p ≤ eNEG → s.ard (R.elvCtl_manual p) = 0 → (s.port p).leftAt + 8 * 25600000 ≤ (s.at t).dial → Answers (.trainTo t p) s fun u => u = (s.at t).trainFail p (R.elvFlags_train_to p)) ∧
  (∀ (t : Nat) (p : Fin 8) (s : State), ((s.svc.svc = .amber ∨ s.svc.svc = .green)) → s.elvState p = eABSENT → Answers (.retrain t p) s fun u => u = (s.at t).elvCode p 2) ∧
  (∀ (t : Nat) (p : Fin 8) (s : State), ((s.svc.svc = .amber ∨ s.svc.svc = .green)) → s.elvState p ≠ eABSENT → Answers (.retrain t p) s fun u => u = ((s.at t).backToClock p).elvCode p 0) ∧
  (∀ (t : Nat) (p : Fin 8) (b : Bool) (s : State), ((s.svc.svc = .amber ∨ s.svc.svc = .green)) → s.rd (R.elvCtl_level p) = 1 → s.ard (R.elvCtl_manual p) = 0 → Answers (.laneSlip t p b) s fun u => u = (s.at t).elvCode p 2) ∧
  (∀ (t : Nat) (p : Fin 8) (b : Bool) (s : State), ((s.svc.svc = .amber ∨ s.svc.svc = .green)) → s.rd (R.elvCtl_level p) = 1 → s.ard (R.elvCtl_manual p) ≠ 0 → s.elvState p = eSLIP → s.rd (R.elvCmd_slip_lane p) ≤ 17 → Answers (.laneSlip t p b) s fun u => u.rd (R.elvRxEq_slips p (s.rd (R.elvCmd_slip_lane p))) = (s.rd (R.elvRxEq_slips p (s.rd (R.elvCmd_slip_lane p))) + 1) % 64 ∧ u.rd (R.elvCmd_result p) = 0 ∧ u.SameBut s [R.elvCmd_result p, R.elvAlign_align_ok p, R.elvRxEq_slips p (s.rd (R.elvCmd_slip_lane p))]) ∧
  (∀ (t : Nat) (p : Fin 8) (s : State), ((s.svc.svc = .amber ∨ s.svc.svc = .green)) → s.rd (R.elvCtl_level p) = 1 → s.ard (R.elvCtl_manual p) = 0 → Answers (.negGo t p) s fun u => u = (s.at t).elvCode p 2) ∧
  (∀ (t : Nat) (p : Fin 8) (s : State), ((s.svc.svc = .amber ∨ s.svc.svc = .green)) → s.rd (R.elvCtl_level p) = 1 → s.ard (R.elvCtl_manual p) ≠ 0 → s.elvState p = eDESKEW → Answers (.negGo t p) s fun u => u = (((s.at t).setPort p { s.port p with leftAt := (s.at t).dial }).toNeg p (s.rd (R.elvAlign_align_ok p))).elvCode p 0)

/-- Lane losses, the return of a signal, remap and resume packets, and the pause that lasts too long. Formalises 15_elvent_link.md: Losing a lane; 15_elvent_link.md: Detectors. -/
def Obligations.LanesLostAndRemapped : Prop :=
  (∀ (t : Nat) (p : Fin 8) (l : Fin 19) (b : Bool) (s : State), s.portHeld p = false → Answers (.laneLoss t p l b) s fun u => u = (s.at t).laneLoss p l b) ∧
  (∀ (t : Nat) (p : Fin 8) (l : Fin 19) (s : State), (s.port p).noSig.testBit l = true → Answers (.losClear t p l) s fun u => (u.port p).noSig = (s.port p).noSig - 2 ^ l.val ∧ u.regs = s.regs) ∧
  (∀ (t : Nat) (p : Fin 8) (x : Pkt) (s v : State), (s.at t).takePkt p (linkIs 0) = some (x, v) → v.portUp p = true → Answers (.linkRemap t p) s fun u => u = v.takeRemap p x.hdr) ∧
  (∀ (t : Nat) (p : Fin 8) (x : Pkt) (s v : State), (s.at t).takePkt p (linkIs 1) = some (x, v) → v.portUp p = true → (v.port p).txAlign = true → Answers (.linkResume t p) s fun u => u = v.endPause p) ∧
  (∀ (t : Nat) (p : Fin 8) (s : State), s.elvPaused p = true → (s.port p).pauseAt + 2560000 ≤ (s.at t).dial → Answers (.pauseTo t p) s fun u => u = (((s.at t).setF (R.elvFlags_pause_to p)).linkEvent p).backToClock p)

/-- Announcements, routes, TIME packets, Queens, joining and forming a chain. Formalises 16_chain_time.md: TIME packets; 16_chain_time.md: Routes; 16_chain_time.md: Joining; 16_chain_time.md: Queens A and B; 16_chain_time.md: Holdover, REF_CLK loss and Sleep; 16_chain_time.md: Forming a chain. -/
def Obligations.ChainKeepsTime : Prop :=
  (∀ (t : Nat) (s : State), (s.at t).inChain = true → s.chain.annAt ≤ (s.at t).dial → Answers (.announceTimer t) s fun u => u = (s.at t).announce.setChain { (s.at t).announce.chain with annAt := (s.at t).dial + 2560000 }) ∧
  (∀ (t : Nat) (p : Fin 8) (x : Pkt) (s v : State), (s.at t).takePkt p (fun x => decide (x.ptype = 0xC)) = some (x, v) → Answers (.chain t p) s fun u => u = v.takeChain p x.hdr) ∧
  (∀ (t : Nat) (p : Fin 8) (x : Pkt) (s v : State), (s.at t).takePkt p (fun x => decide (x.ptype = 3)) = some (x, v) → Answers (.time t p) s fun u => u = v.takeTime p x) ∧
  (∀ (t : Nat) (d : Fin 256) (r : Nat × RouteSt) (s : State), s.chain.routes = [r] → r.1 = d → r.2.seenAt + 7680000 ≤ (s.at t).dial → Answers (.routeExpiry t d) s fun u => u = (((s.at t).setChain { s.chain with routes := [] }).wr (R.chnRoute_r_valid d) 0).lostRoute d) ∧
  (∀ (t : Nat) (s : State), s.cstate = cSOURCE → (s.at t).dial % 25600 = 0 → s.chain.timeAt ≤ (s.at t).dial → Answers (.timeSend t) s fun u => u = (s.at t).sendTime 0) ∧
  (∀ (t : Nat) (s : State), s.cstate = cHOLDOVER → s.chain.timeAt ≤ (s.at t).dial → Answers (.holdoverTimeSend t) s fun u => u = ((s.at t).sendTime 1).setChain { ((s.at t).sendTime 1).chain with timeAt := (s.at t).dial + 2560000 }) ∧
  (∀ (t : Nat) (s : State), 0 < s.chain.qa.run → s.chain.qa.lastAt + max 2 (s.ard R.chnLoop_q_to) * 25600 ≤ (s.at t).dial → Answers (.queenTimeout t 0) s fun u => u = (s.at t).queenTimeout false) ∧
  (∀ (t : Nat) (s : State), 0 < s.chain.qb.run → s.chain.qb.lastAt + max 2 (s.ard R.chnLoop_q_to) * 25600 ≤ (s.at t).dial → Answers (.queenTimeout t 1) s fun u => u = (s.at t).queenTimeout true) ∧
  (∀ (t : Nat) (s : State), s.rd R.chnStatus_ref = 2 → s.rd R.chnStatus_a_ok = 1 → s.ard R.chnCtl_revert = 1 → s.chain.qa.okSince + s.ard R.chnRevert_rev_t * 256000000 ≤ (s.at t).dial → Answers (.queenRevert t) s fun u => u = ((s.at t).wr R.chnStatus_ref 1).chnFlag R.chnStatus_q_switch ∧ u.rd R.chnStatus_ref = 1 ∧ u.rd R.chnStatus_q_switch = 1) ∧
  (∀ (t : Nat) (s : State), s.cstate = cJOINING → Answers (.joinStep t) s fun u => u = (s.at t).joinStep) ∧
  (∀ (t : Nat) (s : State), s.cstate = cJOINING → 1 ≤ s.chainRole → s.chain.stepAt = none → s.chain.jumped = false → s.chain.joinAt + (s.at t).listenTime ≤ (s.at t).dial → Answers (.formListenEnd t) s fun u => u = (s.at t).formEnd)

/-- PPS edges in and out at the second boundary. Formalises 16_chain_time.md: PPS and chain seconds. -/
def Obligations.SecondsAndPps : Prop :=
  (∀ (t : Nat) (s : State), s.svc.svc ≠ .dark → s.chainRole = 1 → s.rd R.chnCtl_pps_in_en = 1 → s.cstate ≠ cSOURCE → Answers (.ppsInEdge t) s fun u => u.chain.ppsLast = some (256 * (s.at t).dial) ∧ u.regs = s.regs) ∧
  (∀ (t : Nat) (s : State), s.svc.svc ≠ .dark → (s.at t).dial % 25600000000 = 0 → Answers (.secondBoundary t) s fun u => u.svc.ppsOut = (s.svc.ppsOut || decide (s.rd R.chnCtl_pps_oe = 1)) ∧ u.regs = s.regs) ∧
  (∀ (t : Nat) (s : State), s.svc.ppsOut = true → 2560000 ≤ (s.at t).dial % 25600000000 → Answers (.ppsOutFall t) s fun u => u.svc.ppsOut = false ∧ u.regs = s.regs)

/-- Waggle events: delivery, fire, and the end of the refractory time. Formalises 17_waggle_lines.md: Carrying an event; 17_waggle_lines.md: Channels and their wiring. -/
def Obligations.WaggleLinesCarryEvents : Prop :=
  (∀ (t : Nat) (c : Fin 256) (f : Flight) (s : State), s.svc.svc ≠ .dark → (s.at t).wag.flight = [f] → f.ch = c → Answers (.waggleDelivery t c) s fun u => u = ((s.at t).setWag { (s.at t).wag with flight := [] }).wagArrive c f.slot) ∧
  (∀ (t : Nat) (c : Fin 256) (s : State), s.svc.svc ≠ .dark → (s.ard (R.wagEn_en c)).testBit 15 = true → Answers (.waggleFire t c) s fun u => u.wag.flight = (s.at t).wag.flight ++ [⟨(s.at t).dial, c, 15⟩] ∧ u.wag.recent = (s.at t).recall (s.at t).dial (4096 + c) ∧ u.regs = s.regs) ∧
  (∀ (t : Nat) (c : Fin 256) (s : State), s.svc.svc ≠ .dark → (s.ard (R.wagEn_en c)).testBit 15 = false → Answers (.waggleFire t c) s fun u => u.wag.flight = (s.at t).wag.flight ∧ u.regs = s.regs ∧ u.act = s.act) ∧
  (∀ (t a b : Nat) (c : Fin 256) (s : State), s.wag.chans = [(c.val, a, b)] → b ≤ (s.at t).dial → Answers (.refractoryEnd t c) s fun u => u.wag.chans = [] ∧ u.regs = s.regs)

/-- Monitor conversions, housekeeping rounds, MCAL and the clearing of accumulators. Formalises 18_monitor_and_thermal.md: Conversions; 18_monitor_and_thermal.md: Sequences; 18_monitor_and_thermal.md: MCAL self-calibration; 18_monitor_and_thermal.md: Temperatures. -/
def Obligations.MonitorConvertsAndCalibrates : Prop :=
  (∀ (t : Nat) (m : Fin 5) (l : List Int) (c : MonConv) (s : State), s.svc.svc ≠ .dark → (s.mon m).cur = some c → c.finish ≤ (s.at t).dial → Answers (.monConversionDone t m l) s fun u => u = (((s.at t).draw.2.monWrite m c (convResult c l (Config.freeValue s.free)).1 (convResult c l (Config.freeValue s.free)).2).monAdvance m c).monNext m c.finish) ∧
  (∀ (t a : Nat) (s : State), s.svc.svc ≠ .dark → s.thm.hkAt = some a → a ≤ (s.at t).dial → Answers (.housekeepingDue t []) s fun u => u = (List.range 5).foldl (fun v m => (if (v.mon m).hk.isSome then v else v.setMon m { v.mon m with hk := some (if m = 4 then 0 else 64) }).monKick m a) ((s.at t).setThm { s.thm with hkAt := some (a + 512000000) })) ∧
  (∀ (t : Nat) (s : State), s.svc.svc = .sleep → Answers (.mcal t) s fun u => u = (s.at t).wr R.monCtl_result 2) ∧
  (∀ (t : Nat) (s : State), ((s.svc.svc = .amber ∨ s.svc.svc = .green)) → s.thm.mcalAt ≠ none → Answers (.mcal t) s fun u => u = (s.at t).wr R.monCtl_result 1) ∧
  (∀ (t : Nat) (s : State), ((s.svc.svc = .amber ∨ s.svc.svc = .green)) → s.thm.mcalAt = none → Answers (.mcal t) s fun u => u = ((s.at t).mcalStart).wr R.monCtl_result 0 ∧ u.thm.mcalAt = some (s.at t).dial) ∧
  (∀ (t a : Nat) (l : List McalPath) (s : State), s.svc.svc ≠ .dark → s.thm.mcalAt = some a → a + 4608000000 + (s.at t).mcalExtra l ≤ (s.at t).dial → Answers (.mcalDone t l) s fun u => u = ((s.at t).mcalTake l).mcalEnd) ∧
  (∀ (t : Nat) (m : Fin 5) (s : State), s.svc.svc ≠ .dark → Answers (.accClr t m) s fun u => u = (s.at t).accClear m ∧ (u.mon m).sums = [])

/-- Calibration runs on demand and on triggers, measurements, abandoned and stale items. Formalises 19_calibration_and_life.md: Runs. -/
def Obligations.CalibrationPasses : Prop :=
  (∀ (t : Nat) (s : State), ((s.svc.svc = .amber ∨ s.svc.svc = .green)) → s.passBusy = true → Answers (.calRun t) s fun u => u = (s.at t).wr R.calCtl_result 1) ∧
  (∀ (t : Nat) (s : State), ((s.svc.svc = .amber ∨ s.svc.svc = .green)) → s.passBusy = false → Answers (.calRun t) s fun u => u = ((s.at t).startPass false).wr R.calCtl_result 0) ∧
  (∀ (t : Nat) (s : State), ((s.svc.svc = .amber ∨ s.svc.svc = .green)) → (s.at t).passBusy = false → (s.at t).passDue = true → Answers (.calPassTrigger t) s fun u => u = (s.at t).startPass false) ∧
  (∀ (t i : Nat) (a b : List Int) (s : State), s.svc.svc ≠ .dark → i ∈ s.cal.left → i < 544 → (s.at t).itemIdle i = true → (s.at t).pairDue i ≤ (s.at t).dial → Answers (.calMeasurementDone t i a b) s fun u => u = (s.at t).takePair i a b) ∧
  (∀ (t i : Nat) (s : State), i ∈ s.cal.left → (s.at t).itemIdle i = false → Answers (.calAbandon t i) s fun u => u.cal.since = SMap.insert (dropKey i s.cal.since) i (s.at t).dial ∧ u.regs = s.regs) ∧
  (∀ (t i : Nat) (s : State), s.svc.svc ≠ .dark → i ∈ s.cal.left → (s.at t).itemIdle i = false → s.cal.passAt.getD 0 + max 1 (s.ard R.calCfg_cal_wait) * ticksPerSec ≤ (s.at t).dial → Answers (.calStale t i) s fun u => u = (((s.at t).setF R.calStatus_cal_stale).fireD 94).itemDone i)

/-- A 40-bit time field is due when its signed difference from the Dial modulo 2^40 is not positive. Formalises R73; R74. -/
def Obligations.TimeFieldsFallDueBySignedDifference : Prop :=
  (∀ (f d : Nat), due40 f d = true ↔ (((f : Int) - d % 2 ^ 40) % 2 ^ 40 = 0 ∨ 2 ^ 39 ≤ ((f : Int) - d % 2 ^ 40) % 2 ^ 40)) ∧
  (∀ (f d : Nat), 2 ^ 39 ≤ d → (expand40 f d : Int) % 2 ^ 40 = (f : Int) % 2 ^ 40 ∧ -2 ^ 39 ≤ (expand40 f d : Int) - d ∧ (expand40 f d : Int) - d < 2 ^ 39)

/-- A USER packet enters the receive mailbox of 16 or is discarded with RX_DROP; rx_pop removes the oldest. Formalises R396. -/
def Obligations.ReceiveMailboxHoldsSixteen : Prop :=
  (∀ (t : Nat) (p : Fin 8) (x : Pkt) (s v : State), (s.at t).takePkt p (fun x => decide (x.ptype = 2)) = some (x, v) → s.svc.svc ≠ .dark → (v.port p).mbox.length < 16 → Answers (.user t p) s fun u => u = ((v.setPort p { v.port p with mbox := (v.port p).mbox ++ [x] }).showMbox p).fireD (48 + p) ∧ (u.port p).mbox = (v.port p).mbox ++ [x]) ∧
  (∀ (t : Nat) (p : Fin 8) (x : Pkt) (s v : State), (s.at t).takePkt p (fun x => decide (x.ptype = 2)) = some (x, v) → s.svc.svc ≠ .dark → 16 ≤ (v.port p).mbox.length → Answers (.user t p) s fun u => u = v.wr (R.elvFlags_rx_drop p) 1 ∧ u.ports = v.ports) ∧
  (∀ (t : Nat) (p : Fin 8) (x : Pkt) (l : List Pkt) (s : State), ((s.svc.svc = .amber ∨ s.svc.svc = .green)) → (s.port p).mbox = x :: l → Answers (.rxPop t p) s fun u => u = ((((s.at t).setPort p { s.port p with mbox := l }).showMbox p)).wr (R.elvCmd_result p) 0 ∧ (u.port p).mbox = l) ∧
  (∀ (t : Nat) (p : Fin 8) (s : State), ((s.svc.svc = .amber ∨ s.svc.svc = .green)) → (s.port p).mbox = [] → Answers (.rxPop t p) s fun u => u = (s.at t).wr (R.elvCmd_result p) 2)

/-- At the basic level chain time, the Waggle channels and calibration scheduling derive their E fields; at the expert level they keep them. Formalises R423; R434; R479. -/
def Obligations.BasicLevelsDeriveTheirFields : Prop :=
  (∀ (s : State), s.rd R.chnCtl_level = 0 → s.deriveChain.ard R.chnLoop_tc = 4 ∧ s.deriveChain.ard R.chnLoop_slew = 64 ∧ s.deriveChain.ard R.chnLoop_q_to = 10 ∧ s.deriveChain.ard R.chnRevert_rev_t = 100 ∧ s.deriveChain.ard R.chnCtl_revert = 1) ∧
  (∀ (s : State), s.rd R.wagCtl_level = 0 → ∀ c : Fin 256, s.deriveWag.ard (R.wagRefr_refr c) = 100 ∧ s.deriveWag.ard (R.wagEn_en c) = s.ard (R.wagEn_en c)) ∧
  (∀ (s : State), s.rd R.calCtl_level = 0 → s.deriveCal.ard R.calCtl_bg_en = 0x3F ∧ s.deriveCal.ard R.calCfg_dt = 2 * 16 ∧ s.deriveCal.ard R.calCfg_cal_per = 24 ∧ s.deriveCal.ard R.calCfg_cal_wait = 10) ∧
  (∀ (s : State), s.rd R.chnCtl_level = 1 → s.deriveChain = s) ∧
  (∀ (s : State), s.rd R.wagCtl_level = 1 → s.deriveWag = s) ∧
  (∀ (s : State), s.rd R.calCtl_level = 1 → s.deriveCal = s)
end

