-- ==== Sys2Proof/Laws/Map.lean ====
section
/-! SUPPORT. Maps by number and the memories: a read after a write, and the canonical form kept by every memory operation. -/

namespace Sys2Proof.Machine

theorem SMap.get_erase_self {α : Type} (d : α) (m : List (Nat × α)) (k : Nat) : SMap.get d (SMap.erase m k) k = d := by
  induction m with
  | nil => rfl
  | cons e m ih =>
    by_cases h : e.1 = k
    · simp [SMap.erase, h, ih]
    · simp [SMap.erase, SMap.get, h, ih]

theorem SMap.get_erase_ne {α : Type} (d : α) (m : List (Nat × α)) {j k : Nat} (h : j ≠ k) :
    SMap.get d (SMap.erase m k) j = SMap.get d m j := by
  induction m with
  | nil => rfl
  | cons e m ih =>
    by_cases hk : e.1 = k
    · have : e.1 ≠ j := by omega
      simp [SMap.erase, SMap.get, hk, ih]
      intro hh; omega
    · simp [SMap.erase, SMap.get, hk, ih]

theorem SMap.get_insert_self {α : Type} (d : α) (m : List (Nat × α)) (k : Nat) (v : α) (h : ∀ e ∈ m, e.1 ≠ k) :
    SMap.get d (SMap.insert m k v) k = v := by
  induction m with
  | nil => simp [SMap.insert, SMap.get]
  | cons e m ih =>
    have he := h e (by simp)
    have ht : ∀ a ∈ m, a.1 ≠ k := fun a ha => h a (by simp [ha])
    simp only [SMap.insert]
    split
    · simp [SMap.get]
    · simp [SMap.get, he, ih ht]

theorem SMap.get_insert_ne {α : Type} (d : α) (m : List (Nat × α)) {j k : Nat} (v : α) (h : j ≠ k) :
    SMap.get d (SMap.insert m k v) j = SMap.get d m j := by
  induction m with
  | nil => simp [SMap.insert, SMap.get, Ne.symm h]
  | cons e m ih =>
    simp only [SMap.insert]
    split
    · simp [SMap.get, Ne.symm h]
    · simp [SMap.get, ih]

theorem SMap.mem_erase {α : Type} {m : List (Nat × α)} {k : Nat} {e : Nat × α} (h : e ∈ SMap.erase m k) : e ∈ m ∧ e.1 ≠ k := by
  induction m with
  | nil => simp [SMap.erase] at h
  | cons a m ih =>
    by_cases hk : a.1 = k
    · simp [SMap.erase, hk] at h
      exact ⟨by simp [(ih h).1], (ih h).2⟩
    · simp [SMap.erase, hk] at h
      rcases h with rfl | h
      · exact ⟨by simp, hk⟩
      · exact ⟨by simp [(ih h).1], (ih h).2⟩

theorem SMap.mem_insert {α : Type} {m : List (Nat × α)} {k : Nat} {v : α} {e : Nat × α} (h : e ∈ SMap.insert m k v) :
    e = (k, v) ∨ e ∈ m := by
  induction m with
  | nil => simpa [SMap.insert] using h
  | cons a m ih =>
    simp only [SMap.insert] at h
    split at h
    · simpa using h
    · rcases List.mem_cons.1 h with rfl | h
      · simp
      · rcases ih h with rfl | h <;> simp [*]

/-- A read after a write of the same place gives the value written. -/
theorem SMap.get_set_self {α : Type} [DecidableEq α] (d : α) (m : List (Nat × α)) (k : Nat) (v : α) :
    SMap.get d (SMap.set d m k v) k = v := by
  unfold SMap.set
  split
  · rename_i h; rw [SMap.get_erase_self, h]
  · exact SMap.get_insert_self d _ k v fun e he => (SMap.mem_erase he).2

/-- A write leaves every other place alone. -/
theorem SMap.get_set_ne {α : Type} [DecidableEq α] (d : α) (m : List (Nat × α)) {j k : Nat} (v : α) (h : j ≠ k) :
    SMap.get d (SMap.set d m k v) j = SMap.get d m j := by
  unfold SMap.set
  split
  · exact SMap.get_erase_ne d m h
  · rw [SMap.get_insert_ne d _ v h, SMap.get_erase_ne d m h]

@[simp] theorem State.rd_wr_self (s : State) (f : Fld) (v : Nat) : (s.wr f v).rd f = v % 2 ^ f.width :=
  SMap.get_set_self f.reset s.regs f.key _

theorem SMap.get_default {α : Type} {m : List (Nat × α)} {k : Nat} (d e : α) (h : ∃ v, (k, v) ∈ m) : SMap.get d m k = SMap.get e m k := by
  induction m with
  | nil => obtain ⟨v, h⟩ := h; simp at h
  | cons a m ih =>
    by_cases hk : a.1 = k
    · simp [SMap.get, hk]
    · obtain ⟨v, h⟩ := h
      have : (k, v) ∈ m := by
        rcases List.mem_cons.1 h with rfl | h
        · exact absurd rfl hk
        · exact h
      simp [SMap.get, hk, ih ⟨v, this⟩]

/-- A write of one field leaves the value of every field of another address or place. -/
theorem State.rd_wr_ne (s : State) {f g : Fld} (v : Nat) (h : g.key ≠ f.key) : (s.wr f v).rd g = s.rd g := by
  unfold State.rd State.wr
  have key : ∀ m : List (Nat × Nat), SMap.get g.reset (SMap.set f.reset m f.key (v % 2 ^ f.width)) g.key = SMap.get g.reset m g.key := by
    intro m
    unfold SMap.set
    split
    · exact SMap.get_erase_ne _ m h
    · rw [SMap.get_insert_ne _ _ _ h, SMap.get_erase_ne _ m h]
  exact key s.regs

theorem Memory.rising_iff (m : List Host.Cell) : Memory.rising m = true ↔ m.Pairwise fun a b => a.1 < b.1 := by
  induction m with
  | nil => simp [Memory.rising]
  | cons a m ih =>
    cases m with
    | nil => simp [Memory.rising]
    | cons b m =>
      rw [List.pairwise_cons, ← ih]
      simp only [Memory.rising, Bool.and_eq_true, decide_eq_true_eq]
      constructor
      · rintro ⟨h, k⟩
        refine ⟨?_, k⟩
        have := (List.pairwise_cons.1 (ih.1 k)).1
        intro c hc
        rcases List.mem_cons.1 hc with rfl | hc
        · exact h
        · exact Nat.lt_trans h (this c hc)
      · rintro ⟨h, k⟩
        exact ⟨h b (by simp), k⟩

theorem Memory.wf_iff (blank : Byte) (m : List Host.Cell) :
    Memory.wf blank m = true ↔ (m.Pairwise fun a b => a.1 < b.1) ∧ ∀ e ∈ m, e.2 ≠ blank := by
  simp [Memory.wf, Memory.rising_iff]

theorem SMap.erase_sublist {α : Type} (m : List (Nat × α)) (k : Nat) : (SMap.erase m k).Sublist m := by
  induction m with
  | nil => exact List.Sublist.refl _
  | cons a m ih =>
    simp only [SMap.erase]
    split
    · exact ih.trans (List.sublist_cons_self a m)
    · exact ih.cons_cons a

theorem Memory.wf_sublist {blank : Byte} {m n : List Host.Cell} (h : n.Sublist m) (w : Memory.wf blank m = true) :
    Memory.wf blank n = true := by
  rw [Memory.wf_iff] at w ⊢
  exact ⟨w.1.sublist h, fun e he => w.2 e (h.subset he)⟩

theorem SMap.insert_pairwise {α : Type} {m : List (Nat × α)} {k : Nat} {v : α} (h : m.Pairwise fun a b => a.1 < b.1)
    (n : ∀ e ∈ m, e.1 ≠ k) : (SMap.insert m k v).Pairwise fun a b => a.1 < b.1 := by
  induction m with
  | nil => simp [SMap.insert]
  | cons a m ih =>
    obtain ⟨h1, h2⟩ := List.pairwise_cons.1 h
    simp only [SMap.insert]
    split
    · rename_i hk
      refine List.pairwise_cons.2 ⟨fun e he => ?_, h⟩
      rcases List.mem_cons.1 he with rfl | he
      · exact hk
      · exact Nat.lt_trans hk (h1 e he)
    · rename_i hk
      have ha := n a (by simp)
      refine List.pairwise_cons.2 ⟨fun e he => ?_, ih h2 fun e he => n e (by simp [he])⟩
      rcases SMap.mem_insert he with rfl | he
      · show a.1 < k; have : ¬ k < a.1 := hk; omega
      · exact h1 e he

/-- A write keeps the canonical form. -/
theorem Memory.wf_set {blank : Byte} {m : List Host.Cell} (k : Nat) (v : Byte) (w : Memory.wf blank m = true) :
    Memory.wf blank (SMap.set blank m k v) = true := by
  have e : Memory.wf blank (SMap.erase m k) = true := Memory.wf_sublist (SMap.erase_sublist m k) w
  unfold SMap.set
  split
  · exact e
  · rename_i hv
    rw [Memory.wf_iff] at e ⊢
    refine ⟨SMap.insert_pairwise e.1 fun a ha => (SMap.mem_erase ha).2, fun a ha => ?_⟩
    rcases SMap.mem_insert ha with rfl | ha
    · exact hv
    · exact e.2 a ha

/-- Taking entries out keeps the canonical form. -/
theorem Memory.wf_filter {blank : Byte} {m : List Host.Cell} (p : Host.Cell → Bool) (w : Memory.wf blank m = true) :
    Memory.wf blank (m.filter p) = true := Memory.wf_sublist List.filter_sublist w

@[simp] theorem State.hbmByte_setHbmByte_self (s : State) (a : Nat) (v : Byte) : (s.setHbmByte a v).hbmByte a = v :=
  SMap.get_set_self hbmBlank s.hbm a v

theorem State.hbmByte_setHbmByte_ne (s : State) {a b : Nat} (v : Byte) (h : b ≠ a) : (s.setHbmByte a v).hbmByte b = s.hbmByte b :=
  SMap.get_set_ne hbmBlank s.hbm v h

end Sys2Proof.Machine
end

