-- ==== Sys2Proof/Laws/Keeps.lean ====
section
/-! SUPPORT. The relation `Keeps`: how it passes through folds, definitions by `let`, and answers of commands. -/

namespace Sys2Proof.Machine

theorem Keeps.refl (s : State) : Keeps s s := ⟨rfl, id⟩

theorem Keeps.trans {a b c : State} (h : Keeps a b) (k : Keeps b c) : Keeps a c := ⟨k.1.trans h.1, fun i => k.2 (h.2 i)⟩

/-- A command that answers a next state keeps what `Keeps` names. -/
def KeepsOut (s0 : State) (o : Host.Outcome State Fault Refusal) : Prop := ∀ u, o = .next u → Keeps s0 u

theorem KeepsOut.next {s0 u : State} (h : Keeps s0 u) : KeepsOut s0 (.next u) := by
  intro v e
  cases e
  exact h

theorem KeepsOut.dlet {s0 : State} {α : Type} {e : α} {f : α → Host.Outcome State Fault Refusal} (k : ∀ x, KeepsOut s0 (f x)) :
    KeepsOut s0 (let x := e; f x) := k e

theorem KeepsOut.slet {s0 e : State} {f : State → Host.Outcome State Fault Refusal} (h : Keeps s0 e)
    (k : ∀ x, Keeps s0 x → KeepsOut s0 (f x)) : KeepsOut s0 (let x := e; f x) := k e h

theorem KeepsOut.plet {s0 : State} {β : Type} {e : β × State} {f : β × State → Host.Outcome State Fault Refusal}
    (h : Keeps s0 e.2) (k : ∀ x : β × State, Keeps s0 x.2 → KeepsOut s0 (f x)) : KeepsOut s0 (let x := e; f x) := k e h

theorem Keeps.dlet {s0 : State} {α : Type} {e : α} {f : α → State} (k : ∀ x, Keeps s0 (f x)) : Keeps s0 (let x := e; f x) := k e

theorem Keeps.slet {s0 e : State} {f : State → State} (h : Keeps s0 e) (k : ∀ x, Keeps s0 x → Keeps s0 (f x)) :
    Keeps s0 (let x := e; f x) := k e h

theorem Keeps.plet {s0 : State} {β : Type} {e : β × State} {f : β × State → State} (h : Keeps s0 e.2)
    (k : ∀ x : β × State, Keeps s0 x.2 → Keeps s0 (f x)) : Keeps s0 (let x := e; f x) := k e h

theorem Keeps.qlet {s0 : State} {β : Type} {e : State × β} {f : State × β → State} (h : Keeps s0 e.1)
    (k : ∀ x : State × β, Keeps s0 x.1 → Keeps s0 (f x)) : Keeps s0 (let x := e; f x) := k e h

theorem Keeps.pslet {s0 e : State} {β : Type} {f : State → β × State} (h : Keeps s0 e) (k : ∀ x, Keeps s0 x → Keeps s0 (f x).2) :
    Keeps s0 (let x := e; f x).2 := k e h

theorem Keeps.pplet {s0 : State} {γ β : Type} {e : γ × State} {f : γ × State → β × State} (h : Keeps s0 e.2)
    (k : ∀ x : γ × State, Keeps s0 x.2 → Keeps s0 (f x).2) : Keeps s0 (let x := e; f x).2 := k e h

theorem Keeps.pdlet {s0 : State} {α β : Type} {e : α} {f : α → β × State} (k : ∀ x, Keeps s0 (f x).2) :
    Keeps s0 (let x := e; f x).2 := k e

theorem Keeps.qdlet {s0 : State} {α β : Type} {e : α} {f : α → State × β} (k : ∀ x, Keeps s0 (f x).1) :
    Keeps s0 (let x := e; f x).1 := k e

theorem Keeps.qslet {s0 e : State} {β : Type} {f : State → State × β} (h : Keeps s0 e) (k : ∀ x, Keeps s0 x → Keeps s0 (f x).1) :
    Keeps s0 (let x := e; f x).1 := k e h

theorem Keeps.mk2 {s0 s : State} {β : Type} {b : β} (h : Keeps s0 s) : Keeps s0 ((b, s) : β × State).2 := h

theorem Keeps.mk1 {s0 s : State} {β : Type} {b : β} (h : Keeps s0 s) : Keeps s0 ((s, b) : State × β).1 := h

theorem Keeps.ofPair {s0 u : State} {β : Type} {x : β × State} {b : β} (e : x = (b, u)) (h : Keeps s0 x.2) : Keeps s0 u := by
  rw [e] at h
  exact h

theorem Keeps.ofQair {s0 u : State} {β : Type} {x : State × β} {b : β} (e : x = (u, b)) (h : Keeps s0 x.1) : Keeps s0 u := by
  rw [e] at h
  exact h

theorem Keeps.foldl {s0 s : State} {α : Type} {l : List α} {f : State → α → State} (h : Keeps s0 s)
    (k : ∀ s a, Keeps s0 s → Keeps s0 (f s a)) : Keeps s0 (l.foldl f s) := by
  induction l generalizing s with
  | nil => exact h
  | cons a l ih => exact ih (k s a h)

theorem Keeps.pfoldl {s0 : State} {α β : Type} {l : List α} {f : β × State → α → β × State} {x : β × State} (h : Keeps s0 x.2)
    (k : ∀ (x : β × State) a, Keeps s0 x.2 → Keeps s0 (f x a).2) : Keeps s0 (l.foldl f x).2 := by
  induction l generalizing x with
  | nil => exact h
  | cons a l ih => exact ih (k x a h)

theorem Keeps.qfoldl {s0 : State} {α β : Type} {l : List α} {f : State × β → α → State × β} {x : State × β} (h : Keeps s0 x.1)
    (k : ∀ (x : State × β) a, Keeps s0 x.1 → Keeps s0 (f x a).1) : Keeps s0 (l.foldl f x).1 := by
  induction l generalizing x with
  | nil => exact h
  | cons a l ih => exact ih (k x a h)

/-- An update of fields that `Keeps` does not speak of. -/
theorem Keeps.upd {s0 s u : State} (h : Keeps s0 s) (hp : u.pending = s.pending) (hm : u.hbm = s.hbm) (hf : u.flash = s.flash)
    (hd : u.dial = s.dial) : Keeps s0 u := by
  refine ⟨hp.trans h.1, fun i => ?_⟩
  have j := h.2 i
  unfold State.Inv State.memOk at j ⊢
  rw [hm, hf, hd]
  exact j

/-- An update of fields that `Keeps` does not speak of, as it is written out. -/
theorem Keeps.mk {s0 s : State} {x_free x_regs x_act x_svc x_i3c x_strobes x_wins x_capt x_locks x_accBase x_seqs x_cells x_lanes
    x_combs x_bank x_bankAct x_marks x_micro x_nano x_cache x_kern x_descs x_dec x_bias x_loads x_wag x_poison x_mkrs x_stmp x_cd
    x_meas x_ports x_txns x_swm x_chain x_far x_memo x_life x_caps x_mons x_thm x_cal x_sec x_reqNo x_lastApply} (h : Keeps s0 s) :
    Keeps s0 (State.mk s.pending x_free s.dial x_regs x_act x_svc x_i3c x_strobes x_wins x_capt x_locks x_accBase x_seqs x_cells
    x_lanes x_combs x_bank x_bankAct x_marks x_micro x_nano x_cache x_kern x_descs x_dec x_bias x_loads x_wag s.hbm x_poison s.flash
    x_mkrs x_stmp x_cd x_meas x_ports x_txns x_swm x_chain x_far x_memo x_life x_caps x_mons x_thm x_cal x_sec x_reqNo x_lastApply) :=
    h.upd rfl rfl rfl rfl

/-- A change of a memory or of the Dial that keeps what the invariant says of it. -/
theorem Keeps.mem {s0 s u : State} (h : Keeps s0 s) (hp : u.pending = s.pending)
    (hm : Memory.wf hbmBlank s.hbm = true → Memory.wf hbmBlank u.hbm = true)
    (hf : Memory.wf flashBlank s.flash = true → Memory.wf flashBlank u.flash = true)
    (hd : s.dial < 2 ^ 72 → u.dial < 2 ^ 72) : Keeps s0 u := by
  refine ⟨hp.trans h.1, fun i => ?_⟩
  obtain ⟨m, d⟩ := h.2 i
  unfold State.memOk at m
  rw [Bool.and_eq_true] at m
  exact ⟨by unfold State.memOk; rw [hm m.1, hf m.2]; rfl, hd d⟩

theorem Keeps.dialMod {s0 s : State} (n : Nat) (h : Keeps s0 s) : Keeps s0 { s with dial := n % 2 ^ 72 } :=
  h.mem rfl id id fun _ => Nat.mod_lt _ (by decide)

end Sys2Proof.Machine
end

