-- ==== Sys2Proof/Laws/KeepsOps.lean ====
section
/-! SUPPORT. What the definitions of Machine/Ops.lean keep: one lemma each. -/

namespace Sys2Proof.Machine

set_option maxRecDepth 10000

theorem State.wr_keeps {s0 : State} (s : State) (f : Fld) (v : Nat) (h : Keeps s0 s) : Keeps s0 (State.wr s f v) := by
  unfold State.wr
  with_reducible apply Keeps.mk
  with_reducible assumption

theorem State.awr_keeps {s0 : State} (s : State) (f : Fld) (v : Nat) (h : Keeps s0 s) : Keeps s0 (State.awr s f v) := by
  unfold State.awr
  with_reducible apply Keeps.mk
  with_reducible assumption

theorem State.setF_keeps {s0 : State} (s : State) (f : Fld) (h : Keeps s0 s) : Keeps s0 (State.setF s f) := by
  unfold State.setF
  apply State.wr_keeps
  with_reducible assumption

theorem State.inc_keeps {s0 : State} (s : State) (f : Fld) (h : Keeps s0 s) : Keeps s0 (State.inc s f) := by
  unfold State.inc
  apply State.wr_keeps
  with_reducible assumption

theorem State.incSat_keeps {s0 : State} (s : State) (f : Fld) (h : Keeps s0 s) : Keeps s0 (State.incSat s f) := by
  unfold State.incSat
  split
  · apply State.wr_keeps
    with_reducible assumption
  · with_reducible assumption

theorem State.both_keeps {s0 : State} (s : State) (f : Fld) (v : Nat) (h : Keeps s0 s) : Keeps s0 (State.both s f v) := by
  unfold State.both
  apply State.awr_keeps
  apply State.wr_keeps
  with_reducible assumption

theorem State.setBit_keeps {s0 : State} (s : State) (f : Fld) (i : Nat) (h : Keeps s0 s) : Keeps s0 (State.setBit s f i) := by
  unfold State.setBit
  apply State.wr_keeps
  with_reducible assumption

theorem State.clrBit_keeps {s0 : State} (s : State) (f : Fld) (i : Nat) (h : Keeps s0 s) : Keeps s0 (State.clrBit s f i) := by
  unfold State.clrBit
  split
  · apply State.wr_keeps
    with_reducible assumption
  · with_reducible assumption

theorem State.draw_keeps {s0 : State} (s : State) (h : Keeps s0 s) : Keeps s0 (State.draw s).2 := by
  unfold State.draw
  apply Keeps.mk2
  with_reducible apply Keeps.mk
  with_reducible assumption

theorem State.occur_keeps {s0 : State} (s : State) (time : Nat) (src : Nat) (h : Keeps s0 s) : Keeps s0 (State.occur s time src) := by
  unfold State.occur
  with_reducible apply Keeps.mk
  with_reducible assumption

theorem State.fire_keeps {s0 : State} (s : State) (src : Nat) (h : Keeps s0 s) : Keeps s0 (State.fire s src) := by
  unfold State.fire
  apply State.occur_keeps
  with_reducible assumption

theorem State.fireAt_keeps {s0 : State} (s : State) (time : Nat) (src : Nat) (h : Keeps s0 s) : Keeps s0 (State.fireAt s time src) := by
  unfold State.fireAt
  split
  · apply State.occur_keeps
    with_reducible assumption
  · with_reducible apply Keeps.mk
    with_reducible assumption

theorem State.fireD_keeps {s0 : State} (s : State) (d : Nat) (h : Keeps s0 s) : Keeps s0 (State.fireD s d) := by
  unfold State.fireD
  apply State.fire_keeps
  with_reducible assumption

theorem State.fireS_keeps {s0 : State} (s : State) (n : Nat) (k : Nat) (h : Keeps s0 s) : Keeps s0 (State.fireS s n k) := by
  unfold State.fireS
  apply State.fireD_keeps
  apply State.fire_keeps
  with_reducible assumption

theorem State.fireSAt_keeps {s0 : State} (s : State) (time : Nat) (n : Nat) (k : Nat) (h : Keeps s0 s) : Keeps s0 (State.fireSAt s time n k) := by
  unfold State.fireSAt
  apply State.fireAt_keeps
  apply State.fireAt_keeps
  with_reducible assumption

theorem State.unfireS_keeps {s0 : State} (s : State) (time : Nat) (n : Nat) (k : Nat) (h : Keeps s0 s) : Keeps s0 (State.unfireS s time n k) := by
  unfold State.unfireS
  with_reducible apply Keeps.mk
  with_reducible assumption

theorem State.flush_keeps {s0 : State} (s : State) (h : Keeps s0 s) : Keeps s0 (State.flush s) := by
  unfold State.flush
  split
  · with_reducible assumption
  · refine Keeps.foldl ?_ fun x3 a3 h3 => ?_
    · with_reducible apply Keeps.mk
      with_reducible assumption
    · apply State.occur_keeps
      with_reducible assumption

theorem State.at_keeps {s0 : State} (s : State) (t : Nat) (h : Keeps s0 s) : Keeps s0 (State.at s t) := by
  unfold State.at
  split
  · assumption
  apply State.flush_keeps
  exact h.dialMod _


end Sys2Proof.Machine
end

