-- ==== Sys2Proof/Laws/KeepsMem.lean ====
section
/-! SUPPORT. What the definitions of Machine/Mem.lean keep: one lemma each. -/

namespace Sys2Proof.Machine

set_option maxRecDepth 10000

theorem State.setHbmByte_keeps {s0 : State} (s : State) (a : Nat) (v : Byte) (h : Keeps s0 s) : Keeps s0 (State.setHbmByte s a v) := by
  exact h.mem rfl (Memory.wf_set a v) id id


theorem State.putHbm_keeps {s0 : State} (s : State) (a : Nat) (a_____internal__hyg_0 : List Byte) (h : Keeps s0 s) : Keeps s0 (State.putHbm s a a_____internal__hyg_0) := by
  unfold State.putHbm
  split
  · with_reducible assumption
  · apply State.putHbm_keeps
    apply State.setHbmByte_keeps
    with_reducible assumption

theorem State.listChunk_keeps {s0 : State} (s : State) (chunk : Nat) (listed : Bool) (h : Keeps s0 s) : Keeps s0 (State.listChunk s chunk listed) := by
  unfold State.listChunk
  extract_lets +onlyGivenNames x1
  clear_value x1
  with_reducible apply Keeps.mk
  with_reducible assumption

theorem State.setMemo_keeps {s0 : State} (s : State) (x : MemSt) (h : Keeps s0 s) : Keeps s0 (State.setMemo s x) := by
  unfold State.setMemo
  with_reducible apply Keeps.mk
  with_reducible assumption

theorem State.healChunk_keeps {s0 : State} (s : State) (chunk : Nat) (h : Keeps s0 s) : Keeps s0 (State.healChunk s chunk) := by
  unfold State.healChunk
  apply State.setMemo_keeps
  with_reducible assumption

theorem State.cleanChunk_keeps {s0 : State} (s : State) (chunk : Nat) (h : Keeps s0 s) : Keeps s0 (State.cleanChunk s chunk) := by
  unfold State.cleanChunk
  apply State.listChunk_keeps
  apply State.healChunk_keeps
  with_reducible assumption

theorem State.poisonChunk_keeps {s0 : State} (s : State) (chunk : Nat) (h : Keeps s0 s) : Keeps s0 (State.poisonChunk s chunk) := by
  unfold State.poisonChunk
  apply State.listChunk_keeps
  apply State.healChunk_keeps
  with_reducible assumption

theorem State.putChunks_keeps {s0 : State} (s : State) (a : Nat) (bs : List Byte) (h : Keeps s0 s) : Keeps s0 (State.putChunks s a bs) := by
  unfold State.putChunks
  refine Keeps.foldl ?_ fun x1 a1 h1 => ?_
  · apply State.putHbm_keeps
    with_reducible assumption
  · apply State.cleanChunk_keeps
    with_reducible assumption

theorem State.memEvent_keeps {s0 : State} (s : State) (h : Keeps s0 s) : Keeps s0 (State.memEvent s) := by
  unfold State.memEvent
  apply State.fireD_keeps
  with_reducible assumption

theorem State.setCharges_keeps {s0 : State} (s : State) (l : List (Nat × Nat)) (h : Keeps s0 s) : Keeps s0 (State.setCharges s l) := by
  unfold State.setCharges
  apply State.wr_keeps
  with_reducible apply Keeps.mk
  with_reducible assumption

theorem State.release_keeps {s0 : State} (s : State) (ks : List Nat) (h : Keeps s0 s) : Keeps s0 (State.release s ks) := by
  unfold State.release
  apply State.setCharges_keeps
  with_reducible assumption

theorem State.admission_keeps {s0 : State} (s : State) (old : List Nat) (new : List (Nat × Nat)) (h : Keeps s0 s) : Keeps s0 (State.admission s old new).2 := by
  unfold State.admission
  extract_lets +onlyGivenNames x1
  clear_value x1
  split
  · apply Keeps.mk2
    apply State.setCharges_keeps
    with_reducible assumption
  · apply Keeps.mk2
    apply State.memEvent_keeps
    apply State.setF_keeps
    with_reducible assumption

theorem State.poisonHit_keeps {s0 : State} (s : State) (h : Keeps s0 s) : Keeps s0 (State.poisonHit s) := by
  unfold State.poisonHit
  apply State.memEvent_keeps
  apply State.setF_keeps
  with_reducible assumption

theorem State.lifeAdd_keeps {s0 : State} (s : State) (page : Nat) (i : Nat) (by' : Nat) (h : Keeps s0 s) : Keeps s0 (State.lifeAdd s page i by') := by
  unfold State.lifeAdd
  extract_lets +onlyGivenNames x1
  clear_value x1
  with_reducible apply Keeps.mk
  with_reducible assumption

theorem State.markRow_keeps {s0 : State} (s : State) (k : Nat) (h : Keeps s0 s) : Keeps s0 (State.markRow s k) := by
  unfold State.markRow
  apply State.setMemo_keeps
  with_reducible assumption

theorem State.corrected_keeps {s0 : State} (s : State) (chunk : Nat) (h : Keeps s0 s) : Keeps s0 (State.corrected s chunk) := by
  unfold State.corrected
  extract_lets +onlyGivenNames x1
  clear_value x1
  extract_lets +onlyGivenNames x2
  clear_value x2
  extract_lets +onlyGivenNames x3
  have h3 : Keeps s0 x3 := ?_
  · clear_value x3
    extract_lets +onlyGivenNames x4
    clear_value x4
    extract_lets +onlyGivenNames x5
    have h5 : Keeps s0 x5 := ?_
    · clear_value x5
      split
      · apply State.markRow_keeps
        with_reducible assumption
      · with_reducible assumption
    · subst x5
      apply State.setMemo_keeps
      with_reducible assumption
  · subst x3
    apply State.healChunk_keeps
    apply State.lifeAdd_keeps
    apply State.incSat_keeps
    with_reducible assumption

theorem State.uncorrectable_keeps {s0 : State} (s : State) (chunk : Nat) (h : Keeps s0 s) : Keeps s0 (State.uncorrectable s chunk) := by
  unfold State.uncorrectable
  extract_lets +onlyGivenNames x1
  have h1 : Keeps s0 x1 := ?_
  · clear_value x1
    extract_lets +onlyGivenNames x2
    have h2 : Keeps s0 x2 := ?_
    · clear_value x2
      extract_lets +onlyGivenNames x3
      clear_value x3
      apply State.setMemo_keeps
      with_reducible assumption
    · subst x2
      apply State.markRow_keeps
      apply State.lifeAdd_keeps
      with_reducible assumption
  · subst x1
    apply State.memEvent_keeps
    apply State.setF_keeps
    apply State.incSat_keeps
    apply State.poisonChunk_keeps
    with_reducible assumption

theorem State.meetChunk_keeps {s0 : State} (s : State) (chunk : Nat) (h : Keeps s0 s) : Keeps s0 (State.meetChunk s chunk).2 := by
  unfold State.meetChunk
  split
  · apply Keeps.mk2
    apply State.poisonHit_keeps
    with_reducible assumption
  · split
    · apply Keeps.mk2
      with_reducible assumption
    · split
      · apply Keeps.mk2
        apply State.corrected_keeps
        with_reducible assumption
      · apply Keeps.mk2
        apply State.uncorrectable_keeps
        with_reducible assumption

theorem State.meetAll_keeps {s0 : State} (s : State) (chunks : List Nat) (h : Keeps s0 s) : Keeps s0 (State.meetAll s chunks).2 := by
  unfold State.meetAll
  refine Keeps.pfoldl ?_ fun x1 a1 h1 => ?_
  · apply Keeps.mk2
    with_reducible assumption
  · extract_lets +onlyGivenNames x4
    have h4 : Keeps s0 x4.2 := ?_
    · clear_value x4
      apply Keeps.mk2
      with_reducible assumption
    · subst x4
      apply State.meetChunk_keeps
      with_reducible assumption

theorem State.meetSpan_keeps {s0 : State} (s : State) (a : Nat) (len : Nat) (h : Keeps s0 s) : Keeps s0 (State.meetSpan s a len).2 := by
  unfold State.meetSpan
  apply State.meetAll_keeps
  with_reducible assumption

theorem State.strikeChunk_keeps {s0 : State} (s : State) (chunk : Nat) (k : Nat) (h : Keeps s0 s) : Keeps s0 (State.strikeChunk s chunk k) := by
  unfold State.strikeChunk
  split
  · with_reducible assumption
  · apply State.setMemo_keeps
    with_reducible assumption

theorem State.setFlashByte_keeps {s0 : State} (s : State) (a : Nat) (v : Byte) (h : Keeps s0 s) : Keeps s0 (State.setFlashByte s a v) := by
  exact h.mem rfl id (Memory.wf_set a v) id


theorem State.putFlash_keeps {s0 : State} (s : State) (a : Nat) (a_____internal__hyg_0 : List Byte) (h : Keeps s0 s) : Keeps s0 (State.putFlash s a a_____internal__hyg_0) := by
  unfold State.putFlash
  split
  · with_reducible assumption
  · apply State.putFlash_keeps
    apply State.setFlashByte_keeps
    with_reducible assumption

theorem State.eraseFlash_keeps {s0 : State} (s : State) (a : Nat) (len : Nat) (h : Keeps s0 s) : Keeps s0 (State.eraseFlash s a len) := by
  exact h.mem rfl id (Memory.wf_filter _) id


end Sys2Proof.Machine
end

