-- ==== Sys2Proof/Laws/KeepsCommon.lean ====
section
/-! SUPPORT. What the definitions of Machine/Common.lean keep: one lemma each. -/

namespace Sys2Proof.Machine

set_option maxRecDepth 10000

theorem State.setSeq_keeps {s0 : State} (s : State) (n : Nat) (q : SeqSt) (h : Keeps s0 s) : Keeps s0 (State.setSeq s n q) := by
  unfold State.setSeq
  with_reducible apply Keeps.mk
  with_reducible assumption

theorem State.setCell_keeps {s0 : State} (s : State) (g : Nat) (x : CellSt) (h : Keeps s0 s) : Keeps s0 (State.setCell s g x) := by
  unfold State.setCell
  with_reducible apply Keeps.mk
  with_reducible assumption

theorem State.setLane_keeps {s0 : State} (s : State) (g : Nat) (x : LaneSt) (h : Keeps s0 s) : Keeps s0 (State.setLane s g x) := by
  unfold State.setLane
  with_reducible apply Keeps.mk
  with_reducible assumption

theorem State.setComb_keeps {s0 : State} (s : State) (n : Nat) (x : CombSt) (h : Keeps s0 s) : Keeps s0 (State.setComb s n x) := by
  unfold State.setComb
  with_reducible apply Keeps.mk
  with_reducible assumption

theorem State.markShot_keeps {s0 : State} (s : State) (n : Nat) (k : Option Nat) (h : Keeps s0 s) : Keeps s0 (State.markShot s n k) := by
  unfold State.markShot
  split
  · with_reducible assumption
  · split
    · extract_lets +onlyGivenNames x4
      clear_value x4
      extract_lets +onlyGivenNames x5
      have h5 : Keeps s0 x5 := ?_
      · clear_value x5
        extract_lets +onlyGivenNames x6
        have h6 : Keeps s0 x6 := ?_
        · clear_value x6
          apply State.fireS_keeps
          with_reducible assumption
        · subst x6
          split
          · apply State.wr_keeps
            with_reducible assumption
          · with_reducible assumption
      · subst x5
        apply State.setSeq_keeps
        with_reducible assumption
    · with_reducible assumption

theorem State.markOpen_keeps {s0 : State} (s : State) (n : Nat) (h : Keeps s0 s) : Keeps s0 (State.markOpen s n) := by
  unfold State.markOpen
  apply State.markShot_keeps
  with_reducible assumption

theorem State.noteEnd_keeps {s0 : State} (s : State) (n : Nat) (k : Option Nat) (t : Nat) (h : Keeps s0 s) : Keeps s0 (State.noteEnd s n k t) := by
  unfold State.noteEnd
  split
  · with_reducible assumption
  · apply State.setSeq_keeps
    with_reducible assumption

theorem State.accFault_keeps {s0 : State} (s : State) (f : Fld) (addr : Nat) (h : Keeps s0 s) : Keeps s0 (State.accFault s f addr) := by
  unfold State.accFault
  extract_lets +onlyGivenNames x1
  extract_lets +onlyGivenNames x2
  have h2 : Keeps s0 x2 := ?_
  · clear_value x2
    apply State.fireD_keeps
    apply State.setF_keeps
    with_reducible assumption
  · subst x2
    split
    · apply State.wr_keeps
      with_reducible assumption
    · with_reducible assumption

theorem State.hostCmd_keeps {s0 : State} (s : State) (a : Nat) (f : State → State) (h : Keeps s0 s)
    (k : ∀ s, Keeps s0 s → Keeps s0 (f s)) : Keeps s0 (State.hostCmd s a f) := by
  unfold State.hostCmd
  split
  · exact State.accFault_keeps _ _ _ h
  · exact k _ h


theorem State.decFlag_keeps {s0 : State} (s : State) (f : Fld) (h : Keeps s0 s) : Keeps s0 (State.decFlag s f) := by
  unfold State.decFlag
  apply State.fireD_keeps
  apply State.setF_keeps
  with_reducible assumption

theorem State.swarmFlag_keeps {s0 : State} (s : State) (f : Fld) (h : Keeps s0 s) : Keeps s0 (State.swarmFlag s f) := by
  unfold State.swarmFlag
  apply State.fireD_keeps
  apply State.setF_keeps
  with_reducible assumption

theorem State.chnFlag_keeps {s0 : State} (s : State) (f : Fld) (h : Keeps s0 s) : Keeps s0 (State.chnFlag s f) := by
  unfold State.chnFlag
  apply State.fireD_keeps
  apply State.setF_keeps
  with_reducible assumption

theorem State.combFlag_keeps {s0 : State} (s : State) (f : Fld) (n : Nat) (k : Nat) (h : Keeps s0 s) : Keeps s0 (State.combFlag s f n k) := by
  unfold State.combFlag
  apply State.fireS_keeps
  apply State.setF_keeps
  with_reducible assumption

theorem State.muteState_keeps {s0 : State} (s : State) (k : Nat) (h : Keeps s0 s) : Keeps s0 (State.muteState s k) := by
  unfold State.muteState
  split
  · apply State.clrBit_keeps
    with_reducible assumption
  · apply State.setBit_keeps
    with_reducible assumption

theorem State.mute_keeps {s0 : State} (s : State) (k : Nat) (cause : Nat) (h : Keeps s0 s) : Keeps s0 (State.mute s k cause) := by
  unfold State.mute
  apply State.muteState_keeps
  apply State.setBit_keeps
  with_reducible assumption

theorem State.unmute_keeps {s0 : State} (s : State) (k : Nat) (cause : Nat) (h : Keeps s0 s) : Keeps s0 (State.unmute s k cause) := by
  unfold State.unmute
  apply State.muteState_keeps
  apply State.clrBit_keeps
  with_reducible assumption

theorem State.muteAll_keeps {s0 : State} (s : State) (cause : Nat) (h : Keeps s0 s) : Keeps s0 (State.muteAll s cause) := by
  unfold State.muteAll
  refine Keeps.foldl ?_ fun x1 a1 h1 => ?_
  · with_reducible assumption
  · apply State.mute_keeps
    with_reducible assumption

theorem State.unmuteAll_keeps {s0 : State} (s : State) (cause : Nat) (h : Keeps s0 s) : Keeps s0 (State.unmuteAll s cause) := by
  unfold State.unmuteAll
  refine Keeps.foldl ?_ fun x1 a1 h1 => ?_
  · with_reducible assumption
  · apply State.unmute_keeps
    with_reducible assumption

theorem State.hiveMuted_keeps {s0 : State} (s : State) (h : Keeps s0 s) : Keeps s0 (State.hiveMuted s) := by
  unfold State.hiveMuted
  apply State.wr_keeps
  with_reducible assumption

end Sys2Proof.Machine
end

