-- ==== Sys2Proof/Laws/KeepsSeqCore.lean ====
section
/-! SUPPORT. What the definitions of Machine/SeqCore.lean keep: one lemma each. -/

namespace Sys2Proof.Machine

set_option maxRecDepth 10000

theorem State.tellShot_keeps {s0 : State} (s : State) (n : Nat) (x : Shot) (h : Keeps s0 s) : Keeps s0 (State.tellShot s n x) := by
  unfold State.tellShot
  extract_lets +onlyGivenNames x1
  clear_value x1
  split
  · split
    · with_reducible assumption
    · apply State.fireSAt_keeps
      apply State.setSeq_keeps
      with_reducible assumption
  · split
    · with_reducible assumption
    · extract_lets +onlyGivenNames x10
      clear_value x10
      extract_lets +onlyGivenNames x11
      have h11 : Keeps s0 x11 := ?_
      · clear_value x11
        split
        · with_reducible assumption
        · apply State.fireSAt_keeps
          with_reducible assumption
      · subst x11
        apply State.setSeq_keeps
        apply State.unfireS_keeps
        with_reducible assumption

theorem State.tellShots_keeps {s0 : State} (s : State) (n : Nat) (h : Keeps s0 s) : Keeps s0 (State.tellShots s n) := by
  unfold State.tellShots
  refine Keeps.foldl ?_ fun x1 a1 h1 => ?_
  · with_reducible assumption
  · apply State.tellShot_keeps
    with_reducible assumption

theorem State.closeShot_keeps {s0 : State} (s : State) (n : Nat) (h : Keeps s0 s) : Keeps s0 (State.closeShot s n) := by
  unfold State.closeShot
  split
  · split
    · apply State.wr_keeps
      with_reducible assumption
    · apply State.tellShots_keeps
      apply State.wr_keeps
      apply State.setSeq_keeps
      with_reducible assumption
  · with_reducible assumption

theorem State.runStep_keeps {s0 : State} (s : State) (n : Nat) (h : Keeps s0 s) : Keeps s0 (State.runStep s n) := by
  unfold State.runStep
  apply State.wr_keeps
  with_reducible assumption

theorem State.setWait_keeps {s0 : State} (s : State) (n : Nat) (w : Wait) (h : Keeps s0 s) : Keeps s0 (State.setWait s n w) := by
  unfold State.setWait
  apply State.wr_keeps
  apply State.setSeq_keeps
  with_reducible assumption

theorem State.endWait_keeps {s0 : State} (s : State) (n : Nat) (h : Keeps s0 s) : Keeps s0 (State.endWait s n) := by
  unfold State.endWait
  apply State.runStep_keeps
  apply State.setSeq_keeps
  with_reducible assumption

theorem State.takeAbortInt_keeps {s0 : State} (s : State) (n : Nat) (why : Nat) (h : Keeps s0 s) : Keeps s0 (State.takeAbortInt s n why) := by
  unfold State.takeAbortInt
  extract_lets +onlyGivenNames x1
  have h1 : Keeps s0 x1 := ?_
  · clear_value x1
    extract_lets +onlyGivenNames x2
    clear_value x2
    extract_lets +onlyGivenNames x3
    have h3 : Keeps s0 x3 := ?_
    · clear_value x3
      apply State.fireS_keeps
      apply State.wr_keeps
      apply State.wr_keeps
      with_reducible assumption
    · subst x3
      apply State.setSeq_keeps
      with_reducible assumption
  · subst x1
    apply State.closeShot_keeps
    with_reducible assumption

theorem State.enterHandler_keeps {s0 : State} (s : State) (n : Nat) (i : Nat) (h : Keeps s0 s) : Keeps s0 (State.enterHandler s n i) := by
  unfold State.enterHandler
  extract_lets +onlyGivenNames x1
  clear_value x1
  extract_lets +onlyGivenNames x2
  have h2 : Keeps s0 x2 := ?_
  · clear_value x2
    extract_lets +onlyGivenNames x3
    have h3 : Keeps s0 x3 := ?_
    · clear_value x3
      apply State.wr_keeps
      apply State.wr_keeps
      with_reducible assumption
    · subst x3
      apply State.setSeq_keeps
      with_reducible assumption
  · subst x2
    apply State.clrBit_keeps
    with_reducible assumption

theorem State.takeSafe_keeps {s0 s u : State} {n : Nat} (h : Keeps s0 s) (e : s.takeSafe n = some u) : Keeps s0 u := by
  unfold State.takeSafe at e
  split at e
  · cases e
    exact State.takeAbortInt_keeps _ _ _ h
  · obtain ⟨i, _, rfl⟩ := Option.map_eq_some_iff.1 e
    exact State.enterHandler_keeps _ _ _ h


theorem State.interruptWait_keeps {s0 : State} (s : State) (n : Nat) (h : Keeps s0 s) : Keeps s0 (State.interruptWait s n) := by
  unfold State.interruptWait
  split
  · cases e : s.takeSafe n with
    | none => exact h
    | some u => exact State.takeSafe_keeps h e
  · exact h


theorem State.raiseAbort_keeps {s0 : State} (s : State) (n : Nat) (why : Nat) (h : Keeps s0 s) : Keeps s0 (State.raiseAbort s n why) := by
  unfold State.raiseAbort
  split
  · with_reducible assumption
  · apply State.interruptWait_keeps
    apply State.setSeq_keeps
    with_reducible assumption

theorem State.raiseInt_keeps {s0 : State} (s : State) (n : Nat) (i : Nat) (h : Keeps s0 s) : Keeps s0 (State.raiseInt s n i) := by
  unfold State.raiseInt
  apply State.interruptWait_keeps
  apply State.setBit_keeps
  with_reducible assumption

theorem State.raiseFault_keeps {s0 : State} (s : State) (n : Nat) (code : Nat) (pc : Nat) (shot : Option Nat) (h : Keeps s0 s) : Keeps s0 (State.raiseFault s n code pc shot) := by
  unfold State.raiseFault
  apply State.fireS_keeps
  apply State.setSeq_keeps
  with_reducible assumption

theorem State.journalize_keeps {s0 : State} (s : State) (n : Nat) (e : JEntry) (h : Keeps s0 s) : Keeps s0 (State.journalize s n e) := by
  unfold State.journalize
  apply State.setSeq_keeps
  with_reducible assumption

end Sys2Proof.Machine
end

