-- ==== Sys2Proof/Laws/KeepsFar.lean ====
section
/-! SUPPORT. What the definitions of Machine/Far.lean keep: one lemma each. -/

namespace Sys2Proof.Machine

set_option maxRecDepth 10000

theorem State.setPort_keeps {s0 : State} (s : State) (p : Nat) (x : PortSt) (h : Keeps s0 s) : Keeps s0 (State.setPort s p x) := by
  unfold State.setPort
  with_reducible apply Keeps.mk
  with_reducible assumption

theorem State.queueMem_keeps {s0 : State} (s : State) (p : Nat) (x : Pkt) (h : Keeps s0 s) : Keeps s0 (State.queueMem s p x) := by
  unfold State.queueMem
  apply State.setPort_keeps
  with_reducible assumption

theorem State.queueCpl_keeps {s0 : State} (s : State) (p : Nat) (tag : Nat) (code : Nat) (h : Keeps s0 s) : Keeps s0 (State.queueCpl s p tag code) := by
  unfold State.queueCpl
  apply State.setPort_keeps
  with_reducible assumption

theorem State.farIssue_keeps {s0 : State} (s : State) (p : Nat) (pkt : Nat → Pkt) (r : FarRead) (h : Keeps s0 s) : Keeps s0 (State.farIssue s p pkt r) := by
  unfold State.farIssue
  split
  · with_reducible assumption
  · apply State.queueMem_keeps
    with_reducible apply Keeps.mk
    with_reducible assumption

theorem State.fsErr_keeps {s0 : State} (s : State) (h : Keeps s0 s) : Keeps s0 (State.fsErr s) := by
  unfold State.fsErr
  apply State.fireD_keeps
  apply State.setF_keeps
  with_reducible assumption

theorem State.farAsk_keeps {s0 : State} (s : State) (cell : Nat × Nat × Nat) (a_____internal__hyg_0 : Nat) (a_____internal__hyg_03 : Nat) (a_____internal__hyg_04 : Nat) (h : Keeps s0 s) : Keeps s0 (State.farAsk s cell a_____internal__hyg_0 a_____internal__hyg_03 a_____internal__hyg_04).2 := by
  unfold State.farAsk
  split
  · apply Keeps.mk2
    with_reducible assumption
  · apply Keeps.mk2
    with_reducible assumption
  · split
    · apply Keeps.mk2
      with_reducible assumption
    · extract_lets +onlyGivenNames x9
      clear_value x9
      extract_lets +onlyGivenNames x10
      have h10 : Keeps s0 x10 := ?_
      · clear_value x10
        apply State.farAsk_keeps
        with_reducible assumption
      · subst x10
        apply State.farIssue_keeps
        with_reducible assumption

theorem State.askRefills_keeps {s0 : State} (s : State) (g : Nat) (b0 : Nat) (envAddr : Nat) (len : Nat) (cap : Nat) (a_____internal__hyg_0 : Nat) (h : Keeps s0 s) : Keeps s0 (State.askRefills s g b0 envAddr len cap a_____internal__hyg_0) := by
  unfold State.askRefills
  split
  · with_reducible assumption
  · extract_lets +onlyGivenNames x3
    clear_value x3
    extract_lets +onlyGivenNames x4
    clear_value x4
    split
    · with_reducible assumption
    · extract_lets +onlyGivenNames x7
      clear_value x7
      extract_lets +onlyGivenNames x8
      clear_value x8
      extract_lets +onlyGivenNames x9
      clear_value x9
      extract_lets +onlyGivenNames x10
      clear_value x10
      extract_lets +onlyGivenNames x11
      clear_value x11
      extract_lets +onlyGivenNames x12
      have h12 : Keeps s0 x12.2 := ?_
      · clear_value x12
        extract_lets +onlyGivenNames x13
        have h13 : Keeps s0 x13 := ?_
        · clear_value x13
          split
          · apply State.fsErr_keeps
            apply State.setCell_keeps
            with_reducible assumption
          · apply State.askRefills_keeps
            apply State.setCell_keeps
            with_reducible assumption
        · subst x13
          with_reducible assumption
      · subst x12
        apply State.farAsk_keeps
        with_reducible assumption

end Sys2Proof.Machine
end

