-- ==== Sys2Proof/Laws/KeepsCells.lean ====
section
/-! SUPPORT. What the definitions of Machine/Cells.lean keep: one lemma each. -/

namespace Sys2Proof.Machine

set_option maxRecDepth 10000

theorem State.askDesc_keeps {s0 : State} (s : State) (n : Nat) (i : Nat) (cells : Nat) (first : Option Nat) (iss : Issue) (h : Keeps s0 s) : Keeps s0 (State.askDesc s n i cells first iss) := by
  unfold State.askDesc
  split
  · with_reducible assumption
  · split
    · apply State.setComb_keeps
      with_reducible assumption
    · apply State.setComb_keeps
      with_reducible assumption

theorem State.readFor_keeps {s0 : State} (s : State) (n : Nat) (i : Nat) (c : Nat) (b : Nat) (h : Keeps s0 s) : Keeps s0 (State.readFor s n i c b) := by
  unfold State.readFor
  split
  · apply State.setComb_keeps
    with_reducible assumption
  · with_reducible assumption

theorem State.useDesc_keeps {s0 : State} (s : State) (n : Nat) (i : Nat) (h : Keeps s0 s) : Keeps s0 (State.useDesc s n i) := by
  unfold State.useDesc
  split
  · apply State.setComb_keeps
    with_reducible assumption
  · with_reducible assumption

theorem State.anchorAcc_keeps {s0 : State} (s : State) (n : Nat) (c : Nat) (t : Nat) (h : Keeps s0 s) : Keeps s0 (State.anchorAcc s n c t) := by
  unfold State.anchorAcc
  apply State.setCell_keeps
  with_reducible assumption

theorem State.selectBank_keeps {s0 : State} (s : State) (n : Nat) (c : Nat) (k : Nat) (t : Nat) (h : Keeps s0 s) : Keeps s0 (State.selectBank s n c k t) := by
  unfold State.selectBank
  apply State.wr_keeps
  apply State.anchorAcc_keeps
  with_reducible assumption

theorem State.reportClip_keeps {s0 : State} (s : State) (n : Nat) (p : Nat) (t : Nat) (h : Keeps s0 s) : Keeps s0 (State.reportClip s n p t) := by
  unfold State.reportClip
  apply State.fireSAt_keeps
  apply State.incSat_keeps
  apply State.setF_keeps
  with_reducible assumption

theorem State.clipSpan_keeps {s0 : State} (s : State) (n : Nat) (t : Nat) (a_____internal__hyg_0 : Nat) (h : Keeps s0 s) : Keeps s0 (State.clipSpan s n t a_____internal__hyg_0) := by
  unfold State.clipSpan
  split
  · with_reducible assumption
  · extract_lets +onlyGivenNames x3
    have h3 : Keeps s0 x3 := ?_
    · clear_value x3
      extract_lets +onlyGivenNames x4
      have h4 : Keeps s0 x4 := ?_
      · clear_value x4
        apply State.clipSpan_keeps
        with_reducible assumption
      · subst x4
        split
        · apply State.reportClip_keeps
          with_reducible assumption
        · with_reducible assumption
    · subst x3
      split
      · apply State.reportClip_keeps
        with_reducible assumption
      · with_reducible assumption

theorem State.readEnv_keeps {s0 : State} (s : State) (n : Nat) (c : Nat) (h : Keeps s0 s) : Keeps s0 (State.readEnv s n c) := by
  unfold State.readEnv
  split
  · with_reducible assumption
  · split
    · with_reducible assumption
    · extract_lets +onlyGivenNames x5
      clear_value x5
      extract_lets +onlyGivenNames x6
      clear_value x6
      extract_lets +onlyGivenNames x7
      clear_value x7
      extract_lets +onlyGivenNames x8
      clear_value x8
      extract_lets +onlyGivenNames x9
      clear_value x9
      extract_lets +onlyGivenNames x10
      clear_value x10
      extract_lets +onlyGivenNames x11
      have h11 : Keeps s0 x11 := ?_
      · clear_value x11
        extract_lets +onlyGivenNames x12
        clear_value x12
        extract_lets +onlyGivenNames x13
        clear_value x13
        extract_lets +onlyGivenNames x14
        clear_value x14
        extract_lets +onlyGivenNames x15
        have h15 : Keeps s0 x15 := ?_
        · clear_value x15
          split
          · apply State.markShot_keeps
            apply State.combFlag_keeps
            with_reducible assumption
          · split
            · apply State.markShot_keeps
              apply State.combFlag_keeps
              with_reducible assumption
            · with_reducible assumption
        · subst x15
          apply State.setCell_keeps
          with_reducible assumption
      · subst x11
        apply State.wr_keeps
        with_reducible assumption

theorem State.settleTo_keeps {s0 : State} (s : State) (n : Nat) (x : Nat) (h : Keeps s0 s) : Keeps s0 (State.settleTo s n x) := by
  unfold State.settleTo
  extract_lets +onlyGivenNames x1
  have h1 : Keeps s0 x1 := ?_
  · clear_value x1
    extract_lets +onlyGivenNames x2
    clear_value x2
    extract_lets +onlyGivenNames x3
    have h3 : Keeps s0 x3 := ?_
    · clear_value x3
      apply State.setComb_keeps
      with_reducible assumption
    · subst x3
      split
      · apply State.clipSpan_keeps
        with_reducible assumption
      · with_reducible assumption
  · subst x1
    refine Keeps.foldl ?_ fun x10 a10 h10 => ?_
    · with_reducible assumption
    · apply State.readEnv_keeps
      with_reducible assumption

theorem State.settle_keeps {s0 : State} (s : State) (n : Nat) (h : Keeps s0 s) : Keeps s0 (State.settle s n) := by
  unfold State.settle
  apply State.settleTo_keeps
  with_reducible assumption

theorem State.settleNow_keeps {s0 : State} (s : State) (n : Nat) (h : Keeps s0 s) : Keeps s0 (State.settleNow s n) := by
  unfold State.settleNow
  apply State.settleTo_keeps
  with_reducible assumption

theorem State.cutSpecs_keeps {s0 : State} (s : State) (n : Nat) (c : Nat) (t : Nat) (h : Keeps s0 s) : Keeps s0 (State.cutSpecs s n c t) := by
  unfold State.cutSpecs
  apply State.setComb_keeps
  with_reducible assumption

theorem State.grantClaim_keeps {s0 : State} (s : State) (n : Nat) (p : Nat) (h : Keeps s0 s) : Keeps s0 (State.grantClaim s n p) := by
  unfold State.grantClaim
  split
  · with_reducible assumption
  · split
    · with_reducible assumption
    · apply State.setCell_keeps
      with_reducible assumption

theorem State.claims_keeps {s0 : State} (s : State) (n : Nat) (h : Keeps s0 s) : Keeps s0 (State.claims s n) := by
  unfold State.claims
  apply State.grantClaim_keeps
  apply State.grantClaim_keeps
  with_reducible assumption

theorem State.tieClaim_keeps {s0 : State} (s : State) (n : Nat) (c : Nat) (b : Nat) (h : Keeps s0 s) : Keeps s0 (State.tieClaim s n c b) := by
  unfold State.tieClaim
  split
  · with_reducible assumption
  · split
    · with_reducible assumption
    · extract_lets +onlyGivenNames x5
      clear_value x5
      extract_lets +onlyGivenNames x6
      have h6 : Keeps s0 x6 := ?_
      · clear_value x6
        apply State.setCell_keeps
        with_reducible assumption
      · subst x6
        apply State.setCell_keeps
        with_reducible assumption

theorem State.newRoute_keeps {s0 : State} (s : State) (n : Nat) (c : Nat) (h : Keeps s0 s) : Keeps s0 (State.newRoute s n c) := by
  unfold State.newRoute
  apply State.claims_keeps
  apply State.setCell_keeps
  with_reducible assumption

theorem State.endPulse_keeps {s0 : State} (s : State) (n : Nat) (c : Nat) (t : Nat) (h : Keeps s0 s) : Keeps s0 (State.endPulse s n c t) := by
  unfold State.endPulse
  extract_lets +onlyGivenNames x1
  clear_value x1
  split
  · with_reducible assumption
  · extract_lets +onlyGivenNames x4
    have h4 : Keeps s0 x4 := ?_
    · clear_value x4
      extract_lets +onlyGivenNames x5
      clear_value x5
      extract_lets +onlyGivenNames x6
      have h6 : Keeps s0 x6 := ?_
      · clear_value x6
        extract_lets +onlyGivenNames x7
        have h7 : Keeps s0 x7 := ?_
        · clear_value x7
          split
          · with_reducible assumption
          · apply State.combFlag_keeps
            with_reducible assumption
        · subst x7
          apply State.claims_keeps
          apply State.tellShots_keeps
          apply State.wr_keeps
          with_reducible assumption
      · subst x6
        apply State.setCell_keeps
        with_reducible assumption
    · subst x4
      apply State.noteEnd_keeps
      with_reducible assumption

theorem State.beginPlay_keeps {s0 : State} (s : State) (n : Nat) (c : Nat) (p : Pulse) (g : Seg) (h : Keeps s0 s) : Keeps s0 (State.beginPlay s n c p g) := by
  unfold State.beginPlay
  extract_lets +onlyGivenNames x1
  clear_value x1
  extract_lets +onlyGivenNames x2
  have h2 : Keeps s0 x2 := ?_
  · clear_value x2
    extract_lets +onlyGivenNames x3
    have h3 : Keeps s0 x3 := ?_
    · clear_value x3
      extract_lets +onlyGivenNames x4
      have h4 : Keeps s0 x4 := ?_
      · clear_value x4
        extract_lets +onlyGivenNames x5
        have h5 : Keeps s0 x5 := ?_
        · clear_value x5
          apply State.claims_keeps
          with_reducible assumption
        · subst x5
          split
          · apply State.tieClaim_keeps
            with_reducible assumption
          · with_reducible assumption
      · subst x4
        split
        · apply State.askRefills_keeps
          with_reducible assumption
        · with_reducible assumption
    · subst x3
      apply State.readEnv_keeps
      with_reducible assumption
  · subst x2
    apply State.setCell_keeps
    with_reducible assumption

theorem State.beginSeg_keeps {s0 : State} (s : State) (n : Nat) (c : Nat) (p : Pulse) (i : Nat) (b : Nat) (hist : List (Int × Int)) (h : Keeps s0 s) : Keeps s0 (State.beginSeg s n c p i b hist) := by
  unfold State.beginSeg
  split
  · extract_lets +onlyGivenNames x2
    have h2 : Keeps s0 x2 := ?_
    · clear_value x2
      extract_lets +onlyGivenNames x3
      have h3 : Keeps s0 x3 := ?_
      · clear_value x3
        apply State.markShot_keeps
        apply State.raiseFault_keeps
        with_reducible assumption
      · subst x3
        apply State.setF_keeps
        with_reducible assumption
    · subst x2
      apply State.endPulse_keeps
      with_reducible assumption
  · extract_lets +onlyGivenNames x11
    clear_value x11
    extract_lets +onlyGivenNames x12
    clear_value x12
    extract_lets +onlyGivenNames x13
    have h13 : Keeps s0 x13 := ?_
    · clear_value x13
      extract_lets +onlyGivenNames x14
      have h14 : Keeps s0 x14 := ?_
      · clear_value x14
        extract_lets +onlyGivenNames x15
        have h15 : Keeps s0 x15 := ?_
        · clear_value x15
          extract_lets +onlyGivenNames x16
          have h16 : Keeps s0 x16 := ?_
          · clear_value x16
            apply State.beginPlay_keeps
            with_reducible assumption
          · subst x16
            split
            · apply State.askDesc_keeps
              with_reducible assumption
            · with_reducible assumption
        · subst x15
          split
          · apply State.askDesc_keeps
            with_reducible assumption
          · with_reducible assumption
      · subst x14
        apply State.readFor_keeps
        apply State.useDesc_keeps
        with_reducible assumption
    · subst x13
      split
      · apply State.setCell_keeps
        with_reducible assumption
      · with_reducible assumption

theorem State.applyAct_keeps {s0 : State} (s : State) (n : Nat) (c : Nat) (a : FrameAct) (h : Keeps s0 s) : Keeps s0 (State.applyAct s n c a) := by
  unfold State.applyAct
  extract_lets +onlyGivenNames x1
  clear_value x1
  extract_lets +onlyGivenNames x2
  clear_value x2
  extract_lets +onlyGivenNames x3
  have h3 : Keeps s0 x3 := ?_
  · clear_value x3
    extract_lets +onlyGivenNames x4
    have h4 : Keeps s0 x4 := ?_
    · clear_value x4
      extract_lets +onlyGivenNames x5
      have h5 : Keeps s0 x5 := ?_
      · clear_value x5
        extract_lets +onlyGivenNames x6
        have h6 : Keeps s0 x6 := ?_
        · clear_value x6
          extract_lets +onlyGivenNames x7
          have h7 : Keeps s0 x7 := ?_
          · clear_value x7
            extract_lets +onlyGivenNames x8
            have h8 : Keeps s0 x8 := ?_
            · clear_value x8
              extract_lets +onlyGivenNames x9
              clear_value x9
              extract_lets +onlyGivenNames x10
              have h10 : Keeps s0 x10 := ?_
              · clear_value x10
                extract_lets +onlyGivenNames x11
                clear_value x11
                extract_lets +onlyGivenNames x12
                have h12 : Keeps s0 x12 := ?_
                · clear_value x12
                  split
                  · apply State.markShot_keeps
                    apply State.setF_keeps
                    with_reducible assumption
                  · with_reducible assumption
                · subst x12
                  split
                  · apply State.setCell_keeps
                    with_reducible assumption
                  · with_reducible assumption
              · subst x10
                split
                · apply State.setCell_keeps
                  with_reducible assumption
                · with_reducible assumption
            · subst x8
              split
              · apply State.selectBank_keeps
                with_reducible assumption
              · with_reducible assumption
          · subst x7
            split
            · apply State.wr_keeps
              with_reducible assumption
            · with_reducible assumption
        · subst x6
          split
          · apply State.wr_keeps
            with_reducible assumption
          · with_reducible assumption
      · subst x5
        split
        · apply State.journalize_keeps
          with_reducible assumption
        · with_reducible assumption
    · subst x4
      split
      · split
        · apply State.journalize_keeps
          with_reducible assumption
        · split
          · apply State.journalize_keeps
            with_reducible assumption
          · with_reducible assumption
      · with_reducible assumption
  · subst x3
    apply State.settleTo_keeps
    with_reducible assumption

theorem State.applyActs_keeps {s0 : State} (s : State) (n : Nat) (c : Nat) (x : Nat) (h : Keeps s0 s) : Keeps s0 (State.applyActs s n c x) := by
  unfold State.applyActs
  extract_lets +onlyGivenNames x1
  clear_value x1
  extract_lets +onlyGivenNames x2
  clear_value x2
  extract_lets +onlyGivenNames x3
  have h3 : Keeps s0 x3 := ?_
  · clear_value x3
    refine Keeps.foldl ?_ fun x4 a4 h4 => ?_
    · with_reducible assumption
    · apply State.applyAct_keeps
      with_reducible assumption
  · subst x3
    apply State.setCell_keeps
    with_reducible assumption

theorem State.pulseLate_keeps {s0 : State} (s : State) (n : Nat) (c : Nat) (x : Nat) (p : Pulse) (h : Keeps s0 s) : Keeps s0 (State.pulseLate s n c x p) := by
  unfold State.pulseLate
  split
  · apply State.markShot_keeps
    apply State.setF_keeps
    with_reducible assumption
  · with_reducible assumption

theorem State.startPulse_keeps {s0 : State} (s : State) (n : Nat) (c : Nat) (p : Pulse) (d : Nat) (x : Nat) (h : Keeps s0 s) : Keeps s0 (State.startPulse s n c p d x) := by
  unfold State.startPulse
  split
  · with_reducible assumption
  · extract_lets +onlyGivenNames x3
    clear_value x3
    extract_lets +onlyGivenNames x4
    have h4 : Keeps s0 x4 := ?_
    · clear_value x4
      extract_lets +onlyGivenNames x5
      clear_value x5
      extract_lets +onlyGivenNames x6
      have h6 : Keeps s0 x6 := ?_
      · clear_value x6
        extract_lets +onlyGivenNames x7
        have h7 : Keeps s0 x7 := ?_
        · clear_value x7
          extract_lets +onlyGivenNames x8
          have h8 : Keeps s0 x8 := ?_
          · clear_value x8
            extract_lets +onlyGivenNames x9
            clear_value x9
            extract_lets +onlyGivenNames x10
            have h10 : Keeps s0 x10 := ?_
            · clear_value x10
              extract_lets +onlyGivenNames x11
              have h11 : Keeps s0 x11 := ?_
              · clear_value x11
                extract_lets +onlyGivenNames x12
                have h12 : Keeps s0 x12 := ?_
                · clear_value x12
                  apply State.tellShots_keeps
                  apply State.beginSeg_keeps
                  with_reducible assumption
                · subst x12
                  apply State.wr_keeps
                  with_reducible assumption
              · subst x11
                apply State.pulseLate_keeps
                with_reducible assumption
            · subst x10
              apply State.setCell_keeps
              with_reducible assumption
          · subst x8
            apply State.selectBank_keeps
            with_reducible assumption
        · subst x7
          split
          · apply State.setF_keeps
            with_reducible assumption
          · with_reducible assumption
      · subst x6
        apply State.endPulse_keeps
        with_reducible assumption
    · subst x4
      split
      · apply State.journalize_keeps
        with_reducible assumption
      · with_reducible assumption

theorem State.askJump_keeps {s0 : State} (s : State) (n : Nat) (c : Nat) (tj : Nat) (iss : Option Issue) (h : Keeps s0 s) : Keeps s0 (State.askJump s n c tj iss) := by
  unfold State.askJump
  extract_lets +onlyGivenNames x1
  clear_value x1
  extract_lets +onlyGivenNames x2
  have h2 : Keeps s0 x2 := ?_
  · clear_value x2
    apply State.setCell_keeps
    with_reducible assumption
  · subst x2
    split
    · with_reducible assumption
    · apply State.setF_keeps
      with_reducible assumption

theorem State.boundary_keeps {s0 : State} (s : State) (n : Nat) (c : Nat) (p : Pulse) (g : Seg) (b : Nat) (h : Keeps s0 s) : Keeps s0 (State.boundary s n c p g b) := by
  unfold State.boundary
  extract_lets +onlyGivenNames x1
  have h1 : Keeps s0 x1 := ?_
  · clear_value x1
    extract_lets +onlyGivenNames x2
    clear_value x2
    extract_lets +onlyGivenNames x3
    clear_value x3
    extract_lets +onlyGivenNames x4
    clear_value x4
    split
    · extract_lets +onlyGivenNames x6
      clear_value x6
      extract_lets +onlyGivenNames x7
      have h7 : Keeps s0 x7 := ?_
      · clear_value x7
        split
        · apply State.beginSeg_keeps
          with_reducible assumption
        · extract_lets +onlyGivenNames x11
          clear_value x11
          extract_lets +onlyGivenNames x12
          have h12 : Keeps s0 x12 := ?_
          · clear_value x12
            apply State.tellShots_keeps
            apply State.beginSeg_keeps
            with_reducible assumption
          · subst x12
            apply State.setCell_keeps
            with_reducible assumption
      · subst x7
        split
        · apply State.combFlag_keeps
          with_reducible assumption
        · with_reducible assumption
    · extract_lets +onlyGivenNames x22
      have h22 : Keeps s0 x22 := ?_
      · clear_value x22
        split
        · apply State.beginPlay_keeps
          with_reducible assumption
        · split
          · apply State.beginPlay_keeps
            with_reducible assumption
          · split
            · apply State.beginSeg_keeps
              with_reducible assumption
            · apply State.endPulse_keeps
              with_reducible assumption
      · subst x22
        apply State.setCell_keeps
        with_reducible assumption
  · subst x1
    apply State.settleTo_keeps
    with_reducible assumption

theorem State.boundaryBy_keeps {s0 : State} (s : State) (n : Nat) (c : Nat) (x : Nat) (h : Keeps s0 s) : Keeps s0 (State.boundaryBy s n c x) := by
  unfold State.boundaryBy
  split
  · with_reducible assumption
  · extract_lets +onlyGivenNames x3
    clear_value x3
    split
    · split
      · split
        · apply State.endPulse_keeps
          apply State.settleTo_keeps
          with_reducible assumption
        · with_reducible assumption
      · split
        · apply State.boundary_keeps
          with_reducible assumption
        · with_reducible assumption
    · split
      · apply State.boundary_keeps
        with_reducible assumption
      · with_reducible assumption

theorem State.playTo_keeps {s0 : State} (s : State) (n : Nat) (c : Nat) (x : Nat) (a_____internal__hyg_0 : Nat) (h : Keeps s0 s) : Keeps s0 (State.playTo s n c x a_____internal__hyg_0) := by
  unfold State.playTo
  split
  · with_reducible assumption
  · split
    · apply State.playTo_keeps
      apply State.boundaryBy_keeps
      with_reducible assumption
    · with_reducible assumption

theorem execSegmentBoundary_keeps {s0 : State} (t : Nat) (n : Nat) (c : Nat) (s : State) (h : Keeps s0 s) : KeepsOut s0 (execSegmentBoundary t n c s) := by
  unfold execSegmentBoundary
  extract_lets +onlyGivenNames x1
  have h1 : Keeps s0 x1 := ?_
  · clear_value x1
    split
    · apply KeepsOut.next
      apply State.boundaryBy_keeps
      with_reducible assumption
    · apply KeepsOut.next
      with_reducible assumption
  · subst x1
    apply State.at_keeps
    with_reducible assumption

theorem execFrameAction_keeps {s0 : State} (t : Nat) (n : Nat) (c : Nat) (s : State) (h : Keeps s0 s) : KeepsOut s0 (execFrameAction t n c s) := by
  unfold execFrameAction
  extract_lets +onlyGivenNames x1
  have h1 : Keeps s0 x1 := ?_
  · clear_value x1
    split
    · apply KeepsOut.next
      apply State.applyActs_keeps
      with_reducible assumption
    · apply KeepsOut.next
      with_reducible assumption
  · subst x1
    apply State.at_keeps
    with_reducible assumption

theorem State.cellJump_keeps {s0 : State} (s : State) (n : Nat) (c : Nat) (h : Keeps s0 s) : Keeps s0 (State.cellJump s n c) := by
  unfold State.cellJump
  split
  · apply State.wr_keeps
    apply State.askJump_keeps
    with_reducible assumption
  · apply State.wr_keeps
    with_reducible assumption

theorem execCellJump_keeps {s0 : State} (t : Nat) (n : Nat) (c : Nat) (s : State) (h : Keeps s0 s) : KeepsOut s0 (execCellJump t n c s) := by
  unfold execCellJump
  extract_lets +onlyGivenNames x1
  have h1 : Keeps s0 x1 := ?_
  · clear_value x1
    split
    · apply KeepsOut.next
      apply State.hostCmd_keeps
      · with_reducible assumption
      · intro y6_0 y6_1
        apply State.cellJump_keeps
        with_reducible assumption
    · apply KeepsOut.next
      with_reducible assumption
  · subst x1
    apply State.at_keeps
    with_reducible assumption

theorem execEnvelopeUnderrun_keeps {s0 : State} (t : Nat) (n : Nat) (c : Nat) (s : State) (h : Keeps s0 s) : KeepsOut s0 (execEnvelopeUnderrun t n c s) := by
  unfold execEnvelopeUnderrun
  extract_lets +onlyGivenNames x1
  have h1 : Keeps s0 x1 := ?_
  · clear_value x1
    split
    · apply KeepsOut.next
      apply State.readEnv_keeps
      apply State.settle_keeps
      with_reducible assumption
    · apply KeepsOut.next
      with_reducible assumption
  · subst x1
    apply State.at_keeps
    with_reducible assumption

theorem State.clipClr_keeps {s0 : State} (s : State) (n : Nat) (p : Nat) (h : Keeps s0 s) : Keeps s0 (State.clipClr s n p) := by
  unfold State.clipClr
  apply State.wr_keeps
  with_reducible assumption

theorem execClipClr_keeps {s0 : State} (t : Nat) (n : Nat) (p : Nat) (s : State) (h : Keeps s0 s) : KeepsOut s0 (execClipClr t n p s) := by
  unfold execClipClr
  extract_lets +onlyGivenNames x1
  have h1 : Keeps s0 x1 := ?_
  · clear_value x1
    split
    · apply KeepsOut.next
      apply State.hostCmd_keeps
      · with_reducible assumption
      · intro y6_0 y6_1
        apply State.clipClr_keeps
        apply State.settleNow_keeps
        with_reducible assumption
    · apply KeepsOut.next
      with_reducible assumption
  · subst x1
    apply State.at_keeps
    with_reducible assumption

theorem State.mark_keeps {s0 : State} (s : State) (k : Nat) (bit : Nat) (h : Keeps s0 s) : Keeps s0 (State.mark s k bit) := by
  unfold State.mark
  with_reducible apply Keeps.mk
  with_reducible assumption

theorem State.bankLo_keeps {s0 : State} (s : State) (n : Nat) (v : Nat) (h : Keeps s0 s) : Keeps s0 (State.bankLo s n v) := by
  unfold State.bankLo
  extract_lets +onlyGivenNames x1
  clear_value x1
  apply State.mark_keeps
  with_reducible apply Keeps.mk
  with_reducible assumption

theorem State.bankHi_keeps {s0 : State} (s : State) (n : Nat) (v : Nat) (h : Keeps s0 s) : Keeps s0 (State.bankHi s n v) := by
  have h2 : Keeps s0 (({ s with bank := SMap.set 0 s.bank (s.bankKey n) (SMap.get 0 s.bank (s.bankKey n) % 2 ^ 32 + v % 2 ^ 16 * 2 ^ 32) }).mark (s.bankKey n) 2) :=
    State.mark_keeps _ _ _ (Keeps.mk h)
  show Keeps s0 (ite _ _ _)
  split
  · exact State.wr_keeps _ _ _ h2
  · exact h2


theorem execBankHiWrite_keeps {s0 : State} (t : Nat) (n : Nat) (value : Nat) (s : State) (h : Keeps s0 s) : KeepsOut s0 (execBankHiWrite t n value s) := by
  unfold execBankHiWrite
  extract_lets +onlyGivenNames x1
  have h1 : Keeps s0 x1 := ?_
  · clear_value x1
    split
    · apply KeepsOut.next
      apply State.hostCmd_keeps
      · with_reducible assumption
      · intro y6_0 y6_1
        apply State.bankHi_keeps
        with_reducible assumption
    · apply KeepsOut.next
      with_reducible assumption
  · subst x1
    apply State.at_keeps
    with_reducible assumption

theorem State.applyBank_keeps {s0 : State} (s : State) (k : Nat) (v : Nat) (b : Nat) (h : Keeps s0 s) : Keeps s0 (State.applyBank s k v b) := by
  unfold State.applyBank
  extract_lets +onlyGivenNames x1
  clear_value x1
  extract_lets +onlyGivenNames x2
  clear_value x2
  extract_lets +onlyGivenNames x3
  have h3 : Keeps s0 x3 := ?_
  · clear_value x3
    extract_lets +onlyGivenNames x4
    have h4 : Keeps s0 x4 := ?_
    · clear_value x4
      with_reducible apply Keeps.mk
      with_reducible assumption
    · subst x4
      split
      · apply State.anchorAcc_keeps
        with_reducible assumption
      · with_reducible assumption
  · subst x3
    apply State.settleTo_keeps
    with_reducible assumption

theorem State.deriveCells_keeps {s0 : State} (s : State) (n : Nat) (h : Keeps s0 s) : Keeps s0 (State.deriveCells s n) := by
  unfold State.deriveCells
  split
  · with_reducible assumption
  · extract_lets +onlyGivenNames x3
    have h3 : Keeps s0 x3 := ?_
    · clear_value x3
      extract_lets +onlyGivenNames x4
      have h4 : Keeps s0 x4 := ?_
      · clear_value x4
        apply State.wr_keeps
        with_reducible assumption
      · subst x4
        apply State.both_keeps
        apply State.both_keeps
        with_reducible assumption
    · subst x3
      refine Keeps.foldl ?_ fun x10 a10 h10 => ?_
      · with_reducible assumption
      · apply State.both_keeps
        apply State.both_keeps
        apply State.both_keeps
        apply State.both_keeps
        with_reducible assumption

end Sys2Proof.Machine
end

