-- ==== Sys2Proof/Laws/KeepsRfPorts.lean ====
section
/-! SUPPORT. What the definitions of Machine/RfPorts.lean keep: one lemma each. -/

namespace Sys2Proof.Machine

set_option maxRecDepth 10000

theorem State.dacMute_keeps {s0 : State} (s : State) (k : Nat) (h : Keeps s0 s) : Keeps s0 (State.dacMute s k) := by
  unfold State.dacMute
  split
  · apply State.mute_keeps
    with_reducible assumption
  · apply State.unmute_keeps
    with_reducible assumption

theorem State.deriveFront_keeps {s0 : State} (s : State) (q : Nat) (h : Keeps s0 s) : Keeps s0 (State.deriveFront s q) := by
  unfold State.deriveFront
  split
  · with_reducible assumption
  · refine Keeps.foldl ?_ fun x3 a3 h3 => ?_
    · with_reducible assumption
    · apply State.both_keeps
      apply State.both_keeps
      apply State.both_keeps
      with_reducible assumption

theorem State.addOvr_keeps {s0 : State} (s : State) (n : Nat) (a : Nat) (b : Nat) (h : Keeps s0 s) : Keeps s0 (State.addOvr s n a b) := by
  unfold State.addOvr
  apply State.setComb_keeps
  with_reducible assumption

theorem State.showValid_keeps {s0 : State} (s : State) (n : Nat) (h : Keeps s0 s) : Keeps s0 (State.showValid s n) := by
  unfold State.showValid
  split
  · apply State.clrBit_keeps
    with_reducible assumption
  · apply State.setBit_keeps
    with_reducible assumption

theorem State.judgeNbr_keeps {s0 : State} (s : State) (q : Nat) (h : Keeps s0 s) : Keeps s0 (State.judgeNbr s q) := by
  unfold State.judgeNbr
  extract_lets +onlyGivenNames x1
  clear_value x1
  extract_lets +onlyGivenNames x2
  have h2 : Keeps s0 x2 := ?_
  · clear_value x2
    refine Keeps.foldl ?_ fun x3 a3 h3 => ?_
    · with_reducible assumption
    · apply State.setComb_keeps
      with_reducible assumption
  · subst x2
    refine Keeps.foldl ?_ fun x7 a7 h7 => ?_
    · with_reducible assumption
    · apply State.setBit_keeps
      with_reducible assumption

theorem State.reportRun_keeps {s0 : State} (s : State) (n : Nat) (x : Nat) (h : Keeps s0 s) : Keeps s0 (State.reportRun s n x) := by
  unfold State.reportRun
  apply State.fireSAt_keeps
  apply State.incSat_keeps
  apply State.setBit_keeps
  with_reducible assumption

theorem State.overRange_keeps {s0 : State} (s : State) (n : Nat) (x : Nat) (h : Keeps s0 s) : Keeps s0 (State.overRange s n x) := by
  unfold State.overRange
  extract_lets +onlyGivenNames x1
  clear_value x1
  extract_lets +onlyGivenNames x2
  have h2 : Keeps s0 x2 := ?_
  · clear_value x2
    extract_lets +onlyGivenNames x3
    clear_value x3
    extract_lets +onlyGivenNames x4
    clear_value x4
    extract_lets +onlyGivenNames x5
    have h5 : Keeps s0 x5 := ?_
    · clear_value x5
      extract_lets +onlyGivenNames x6
      have h6 : Keeps s0 x6 := ?_
      · clear_value x6
        apply State.showValid_keeps
        refine Keeps.foldl ?_ fun x8 a8 h8 => ?_
        · with_reducible assumption
        · split
          · with_reducible assumption
          · apply State.setBit_keeps
            with_reducible assumption
      · subst x6
        split
        · with_reducible assumption
        · split
          · apply State.setBit_keeps
            with_reducible assumption
          · apply State.reportRun_keeps
            with_reducible assumption
    · subst x5
      apply State.setComb_keeps
      with_reducible assumption
  · subst x2
    apply State.judgeNbr_keeps
    with_reducible assumption

theorem execOverRange_keeps {s0 : State} (t : Nat) (port : Nat) (s : State) (h : Keeps s0 s) : KeepsOut s0 (execOverRange t port s) := by
  unfold execOverRange
  extract_lets +onlyGivenNames x1
  have h1 : Keeps s0 x1 := ?_
  · clear_value x1
    split
    · apply KeepsOut.next
      apply State.overRange_keeps
      with_reducible assumption
    · apply KeepsOut.next
      with_reducible assumption
  · subst x1
    apply State.at_keeps
    with_reducible assumption

theorem execOverRangeValidReturn_keeps {s0 : State} (t : Nat) (port : Nat) (s : State) (h : Keeps s0 s) : KeepsOut s0 (execOverRangeValidReturn t port s) := by
  unfold execOverRangeValidReturn
  extract_lets +onlyGivenNames x1
  have h1 : Keeps s0 x1 := ?_
  · clear_value x1
    split
    · apply KeepsOut.next
      with_reducible assumption
    · split
      · apply KeepsOut.next
        apply State.showValid_keeps
        apply State.setComb_keeps
        with_reducible assumption
      · apply KeepsOut.next
        with_reducible assumption
  · subst x1
    apply State.at_keeps
    with_reducible assumption

theorem State.bandChange_keeps {s0 : State} (s : State) (n : Nat) (b : Nat) (h : Keeps s0 s) : Keeps s0 (State.bandChange s n b) := by
  unfold State.bandChange
  extract_lets +onlyGivenNames x1
  have h1 : Keeps s0 x1 := ?_
  · clear_value x1
    extract_lets +onlyGivenNames x2
    clear_value x2
    extract_lets +onlyGivenNames x3
    have h3 : Keeps s0 x3 := ?_
    · clear_value x3
      extract_lets +onlyGivenNames x4
      clear_value x4
      extract_lets +onlyGivenNames x5
      have h5 : Keeps s0 x5 := ?_
      · clear_value x5
        apply State.showValid_keeps
        apply State.setBit_keeps
        with_reducible assumption
      · subst x5
        with_reducible apply Keeps.mk
        with_reducible assumption
    · subst x3
      apply State.setComb_keeps
      with_reducible assumption
  · subst x1
    apply State.addOvr_keeps
    with_reducible assumption

theorem execBandSettleEnd_keeps {s0 : State} (t : Nat) (port : Nat) (s : State) (h : Keeps s0 s) : KeepsOut s0 (execBandSettleEnd t port s) := by
  unfold execBandSettleEnd
  extract_lets +onlyGivenNames x1
  have h1 : Keeps s0 x1 := ?_
  · clear_value x1
    split
    · apply KeepsOut.next
      with_reducible assumption
    · split
      · apply KeepsOut.next
        apply State.showValid_keeps
        apply State.clrBit_keeps
        apply State.setComb_keeps
        with_reducible assumption
      · apply KeepsOut.next
        with_reducible assumption
  · subst x1
    apply State.at_keeps
    with_reducible assumption

end Sys2Proof.Machine
end

