-- ==== Sys2Proof/Laws/KeepsCapture.lean ====
section
/-! SUPPORT. What the definitions of Machine/Capture.lean keep: one lemma each. -/

namespace Sys2Proof.Machine

set_option maxRecDepth 10000

theorem State.setCap_keeps {s0 : State} (s : State) (p : Nat) (x : CapSt) (h : Keeps s0 s) : Keeps s0 (State.setCap s p x) := by
  unfold State.setCap
  with_reducible apply Keeps.mk
  with_reducible assumption

theorem State.setCapState_keeps {s0 : State} (s : State) (p : Nat) (v : Nat) (h : Keeps s0 s) : Keeps s0 (State.setCapState s p v) := by
  unfold State.setCapState
  extract_lets +onlyGivenNames x1
  have h1 : Keeps s0 x1 := ?_
  · clear_value x1
    extract_lets +onlyGivenNames x2
    clear_value x2
    split
    · apply State.clrBit_keeps
      with_reducible assumption
    · apply State.setBit_keeps
      with_reducible assumption
  · subst x1
    apply State.wr_keeps
    with_reducible assumption

theorem State.capForget_keeps {s0 : State} (s : State) (p : Nat) (h : Keeps s0 s) : Keeps s0 (State.capForget s p) := by
  unfold State.capForget
  extract_lets +onlyGivenNames x1
  clear_value x1
  extract_lets +onlyGivenNames x2
  clear_value x2
  apply State.setCap_keeps
  with_reducible assumption

theorem State.capIdle_keeps {s0 : State} (s : State) (p : Nat) (why : Nat) (h : Keeps s0 s) : Keeps s0 (State.capIdle s p why) := by
  unfold State.capIdle
  apply State.release_keeps
  apply State.wr_keeps
  apply State.setCapState_keeps
  with_reducible assumption

theorem State.capEnd_keeps {s0 : State} (s : State) (p : Nat) (r : CapRec) (why : Option Nat) (h : Keeps s0 s) : Keeps s0 (State.capEnd s p r why) := by
  unfold State.capEnd
  extract_lets +onlyGivenNames x1
  clear_value x1
  extract_lets +onlyGivenNames x2
  clear_value x2
  extract_lets +onlyGivenNames x3
  have h3 : Keeps s0 x3 := ?_
  · clear_value x3
    split
    · split
      · apply State.wr_keeps
        apply State.setCapState_keeps
        with_reducible assumption
      · apply State.capIdle_keeps
        with_reducible assumption
    · apply State.capIdle_keeps
      with_reducible assumption
    · split
      · apply State.setCapState_keeps
        with_reducible assumption
      · apply State.capIdle_keeps
        with_reducible assumption
  · subst x3
    apply State.setCap_keeps
    with_reducible assumption

theorem State.capSettle_keeps {s0 : State} (s : State) (p : Nat) (x : Nat) (h : Keeps s0 s) : Keeps s0 (State.capSettle s p x) := by
  unfold State.capSettle
  split
  · split
    · apply State.capEnd_keeps
      with_reducible assumption
    · with_reducible assumption
  · with_reducible assumption

theorem State.capSettleAll_keeps {s0 : State} (s : State) (h : Keeps s0 s) : Keeps s0 (State.capSettleAll s) := by
  unfold State.capSettleAll
  refine Keeps.foldl ?_ fun x1 a1 h1 => ?_
  · with_reducible assumption
  · apply State.capSettle_keeps
    with_reducible assumption

theorem State.capAdvance_keeps {s0 : State} (s : State) (p : Nat) (old : Nat) (h : Keeps s0 s) : Keeps s0 (State.capAdvance s p old) := by
  unfold State.capAdvance
  extract_lets +onlyGivenNames x1
  clear_value x1
  extract_lets +onlyGivenNames x2
  clear_value x2
  extract_lets +onlyGivenNames x3
  have h3 : Keeps s0 x3 := ?_
  · clear_value x3
    apply State.wr_keeps
    split
    · with_reducible assumption
    · apply State.capForget_keeps
      with_reducible assumption
  · subst x3
    apply State.capSettle_keeps
    apply State.wr_keeps
    with_reducible assumption

theorem State.trigSkip_keeps {s0 : State} (s : State) (p : Nat) (k : Nat) (h : Keeps s0 s) : Keeps s0 (State.trigSkip s p k) := by
  unfold State.trigSkip
  apply State.wr_keeps
  with_reducible assumption

theorem State.capLose_keeps {s0 : State} (s : State) (p : Nat) (T : Nat) (h : Keeps s0 s) : Keeps s0 (State.capLose s p T) := by
  unfold State.capLose
  extract_lets +onlyGivenNames x1
  clear_value x1
  split
  · with_reducible assumption
  · apply State.combFlag_keeps
    apply State.wr_keeps
    apply State.setCap_keeps
    with_reducible assumption

theorem State.capTake_keeps {s0 : State} (s : State) (p : Nat) (mask : Nat) (T : Nat) (tTrig : Nat) (h : Keeps s0 s) : Keeps s0 (State.capTake s p mask T tTrig) := by
  unfold State.capTake
  extract_lets +onlyGivenNames x1
  clear_value x1
  extract_lets +onlyGivenNames x2
  clear_value x2
  extract_lets +onlyGivenNames x3
  clear_value x3
  split
  · apply State.capLose_keeps
    with_reducible assumption
  · extract_lets +onlyGivenNames x7
    clear_value x7
    extract_lets +onlyGivenNames x8
    clear_value x8
    extract_lets +onlyGivenNames x9
    clear_value x9
    extract_lets +onlyGivenNames x10
    have h10 : Keeps s0 x10 := ?_
    · clear_value x10
      split
      · apply State.setF_keeps
        with_reducible assumption
      · with_reducible assumption
    · subst x10
      apply State.setCapState_keeps
      apply State.setCap_keeps
      with_reducible assumption

theorem State.capFire_keeps {s0 : State} (s : State) (p : Nat) (mask : Nat) (T : Nat) (tTrig : Nat) (h : Keeps s0 s) : Keeps s0 (State.capFire s p mask T tTrig) := by
  unfold State.capFire
  extract_lets +onlyGivenNames x1
  have h1 : Keeps s0 x1 := ?_
  · clear_value x1
    extract_lets +onlyGivenNames x2
    clear_value x2
    split
    · apply State.capTake_keeps
      with_reducible assumption
    · split
      · with_reducible assumption
      · split
        · extract_lets +onlyGivenNames x9
          clear_value x9
          extract_lets +onlyGivenNames x10
          clear_value x10
          extract_lets +onlyGivenNames x11
          clear_value x11
          apply State.setCap_keeps
          with_reducible assumption
        · apply State.trigSkip_keeps
          with_reducible assumption
  · subst x1
    apply State.capSettle_keeps
    with_reducible assumption

theorem State.putWord20_keeps {s0 : State} (s : State) (base : Nat) (size : Nat) (at' : Nat) (v : Nat) (h : Keeps s0 s) : Keeps s0 (State.putWord20 s base size at' v) := by
  unfold State.putWord20
  extract_lets +onlyGivenNames x1
  clear_value x1
  extract_lets +onlyGivenNames x2
  clear_value x2
  extract_lets +onlyGivenNames x3
  clear_value x3
  extract_lets +onlyGivenNames x4
  have h4 : Keeps s0 x4 := ?_
  · clear_value x4
    apply State.cleanChunk_keeps
    apply State.cleanChunk_keeps
    with_reducible assumption
  · subst x4
    apply State.setHbmByte_keeps
    apply State.setHbmByte_keeps
    apply State.setHbmByte_keeps
    with_reducible assumption

theorem State.putSamples_keeps {s0 : State} (s : State) (p : Nat) (t0 : Nat) (ws : List Int) (h : Keeps s0 s) : Keeps s0 (State.putSamples s p t0 ws) := by
  unfold State.putSamples
  refine Keeps.foldl ?_ fun x1 a1 h1 => ?_
  · with_reducible assumption
  · split
    · apply State.putWord20_keeps
      with_reducible assumption
    · with_reducible assumption

theorem State.capSample_keeps {s0 : State} (s : State) (p : Nat) (xs : List Int) (h : Keeps s0 s) : Keeps s0 (State.capSample s p xs) := by
  unfold State.capSample
  extract_lets +onlyGivenNames x1
  have h1 : Keeps s0 x1 := ?_
  · clear_value x1
    extract_lets +onlyGivenNames x2
    clear_value x2
    extract_lets +onlyGivenNames x3
    clear_value x3
    extract_lets +onlyGivenNames x4
    clear_value x4
    split
    · with_reducible assumption
    · split
      · apply State.setCap_keeps
        apply State.putSamples_keeps
        with_reducible assumption
      · extract_lets +onlyGivenNames x11
        have h11 : Keeps s0 x11 := ?_
        · clear_value x11
          extract_lets +onlyGivenNames x12
          clear_value x12
          extract_lets +onlyGivenNames x13
          clear_value x13
          extract_lets +onlyGivenNames x14
          clear_value x14
          extract_lets +onlyGivenNames x15
          clear_value x15
          extract_lets +onlyGivenNames x16
          clear_value x16
          extract_lets +onlyGivenNames x17
          have h17 : Keeps s0 x17 := ?_
          · clear_value x17
            refine Keeps.foldl ?_ fun x18 a18 h18 => ?_
            · with_reducible assumption
            · apply State.capFire_keeps
              with_reducible assumption
          · subst x17
            apply State.setCap_keeps
            with_reducible assumption
        · subst x11
          apply State.putSamples_keeps
          with_reducible assumption
  · subst x1
    apply State.capSettle_keeps
    with_reducible assumption

theorem execCaptureTrigger_keeps {s0 : State} (t : Nat) (port : Nat) (samples : List Int) (s : State) (h : Keeps s0 s) : KeepsOut s0 (execCaptureTrigger t port samples s) := by
  unfold execCaptureTrigger
  extract_lets +onlyGivenNames x1
  have h1 : Keeps s0 x1 := ?_
  · clear_value x1
    split
    · apply KeepsOut.next
      apply State.capSample_keeps
      with_reducible assumption
    · apply KeepsOut.next
      with_reducible assumption
  · subst x1
    apply State.at_keeps
    with_reducible assumption

theorem execCaptureTimeout_keeps {s0 : State} (t : Nat) (port : Nat) (s : State) (h : Keeps s0 s) : KeepsOut s0 (execCaptureTimeout t port s) := by
  unfold execCaptureTimeout
  extract_lets +onlyGivenNames x1
  have h1 : Keeps s0 x1 := ?_
  · clear_value x1
    extract_lets +onlyGivenNames x2
    have h2 : Keeps s0 x2 := ?_
    · clear_value x2
      extract_lets +onlyGivenNames x3
      clear_value x3
      extract_lets +onlyGivenNames x4
      clear_value x4
      split
      · apply KeepsOut.next
        apply State.capFire_keeps
        apply State.setCap_keeps
        with_reducible assumption
      · apply KeepsOut.next
        with_reducible assumption
    · subst x2
      apply State.capSettle_keeps
      with_reducible assumption
  · subst x1
    apply State.at_keeps
    with_reducible assumption

theorem execCaptureAuto_keeps {s0 : State} (t : Nat) (port : Nat) (s : State) (h : Keeps s0 s) : KeepsOut s0 (execCaptureAuto t port s) := by
  unfold execCaptureAuto
  extract_lets +onlyGivenNames x1
  have h1 : Keeps s0 x1 := ?_
  · clear_value x1
    extract_lets +onlyGivenNames x2
    have h2 : Keeps s0 x2 := ?_
    · clear_value x2
      extract_lets +onlyGivenNames x3
      clear_value x3
      extract_lets +onlyGivenNames x4
      clear_value x4
      split
      · extract_lets +onlyGivenNames x6
        clear_value x6
        apply KeepsOut.next
        apply State.capFire_keeps
        with_reducible assumption
      · apply KeepsOut.next
        with_reducible assumption
    · subst x2
      apply State.capSettle_keeps
      with_reducible assumption
  · subst x1
    apply State.at_keeps
    with_reducible assumption

theorem State.capExt_keeps {s0 : State} (s : State) (p : Nat) (time : Nat) (h : Keeps s0 s) : Keeps s0 (State.capExt s p time) := by
  unfold State.capExt
  extract_lets +onlyGivenNames x1
  have h1 : Keeps s0 x1 := ?_
  · clear_value x1
    extract_lets +onlyGivenNames x2
    clear_value x2
    extract_lets +onlyGivenNames x3
    clear_value x3
    split
    · split
      · apply State.capFire_keeps
        with_reducible assumption
      · with_reducible assumption
    · apply State.trigSkip_keeps
      with_reducible assumption
  · subst x1
    apply State.capSettle_keeps
    with_reducible assumption

theorem State.capCode_keeps {s0 : State} (s : State) (code : Nat) (h : Keeps s0 s) : Keeps s0 (State.capCode s code) := by
  unfold State.capCode
  apply State.wr_keeps
  with_reducible assumption

theorem State.capArmOne_keeps {s0 : State} (s : State) (p : Nat) (h : Keeps s0 s) : Keeps s0 (State.capArmOne s p) := by
  unfold State.capArmOne
  extract_lets +onlyGivenNames x1
  clear_value x1
  extract_lets +onlyGivenNames x2
  clear_value x2
  extract_lets +onlyGivenNames x3
  clear_value x3
  extract_lets +onlyGivenNames x4
  have h4 : Keeps s0 x4 := ?_
  · clear_value x4
    extract_lets +onlyGivenNames x5
    have h5 : Keeps s0 x5 := ?_
    · clear_value x5
      apply State.setCapState_keeps
      apply State.wr_keeps
      apply State.wr_keeps
      with_reducible assumption
    · subst x5
      apply State.wr_keeps
      apply State.wr_keeps
      with_reducible assumption
  · subst x4
    apply State.setCap_keeps
    with_reducible assumption

theorem State.capArm_keeps {s0 : State} (s : State) (h : Keeps s0 s) : Keeps s0 (State.capArm s) := by
  unfold State.capArm
  extract_lets +onlyGivenNames x1
  clear_value x1
  extract_lets +onlyGivenNames x2
  have h2 : Keeps s0 x2 := ?_
  · clear_value x2
    split
    · apply State.capCode_keeps
      with_reducible assumption
    · split
      · apply State.capCode_keeps
        with_reducible assumption
      · extract_lets +onlyGivenNames x9
        have h9 : Keeps s0 x9.2 := ?_
        · clear_value x9
          split
          · apply State.capCode_keeps
            refine Keeps.foldl ?_ fun x12 a12 h12 => ?_
            · with_reducible assumption
            · apply State.capArmOne_keeps
              with_reducible assumption
          · apply State.capCode_keeps
            with_reducible assumption
        · subst x9
          apply State.admission_keeps
          with_reducible assumption
  · subst x2
    apply State.capSettleAll_keeps
    with_reducible assumption

theorem execCapArm_keeps {s0 : State} (t : Nat) (s : State) (h : Keeps s0 s) : KeepsOut s0 (execCapArm t s) := by
  unfold execCapArm
  extract_lets +onlyGivenNames x1
  have h1 : Keeps s0 x1 := ?_
  · clear_value x1
    split
    · apply KeepsOut.next
      apply State.hostCmd_keeps
      · with_reducible assumption
      · intro y6_0 y6_1
        apply State.capArm_keeps
        with_reducible assumption
    · apply KeepsOut.next
      with_reducible assumption
  · subst x1
    apply State.at_keeps
    with_reducible assumption

theorem State.capStopOne_keeps {s0 : State} (s : State) (p : Nat) (why : Nat) (h : Keeps s0 s) : Keeps s0 (State.capStopOne s p why) := by
  unfold State.capStopOne
  extract_lets +onlyGivenNames x1
  have h1 : Keeps s0 x1 := ?_
  · clear_value x1
    split
    · with_reducible assumption
    · split
      · apply State.capIdle_keeps
        with_reducible assumption
      · extract_lets +onlyGivenNames x7
        clear_value x7
        apply State.capEnd_keeps
        with_reducible assumption
  · subst x1
    apply State.capSettle_keeps
    with_reducible assumption

theorem State.capStop_keeps {s0 : State} (s : State) (h : Keeps s0 s) : Keeps s0 (State.capStop s) := by
  unfold State.capStop
  extract_lets +onlyGivenNames x1
  have h1 : Keeps s0 x1 := ?_
  · clear_value x1
    extract_lets +onlyGivenNames x2
    clear_value x2
    split
    · apply State.capCode_keeps
      with_reducible assumption
    · apply State.capCode_keeps
      refine Keeps.foldl ?_ fun x7 a7 h7 => ?_
      · with_reducible assumption
      · apply State.capStopOne_keeps
        with_reducible assumption
  · subst x1
    apply State.capSettleAll_keeps
    with_reducible assumption

theorem execCapStop_keeps {s0 : State} (t : Nat) (s : State) (h : Keeps s0 s) : KeepsOut s0 (execCapStop t s) := by
  unfold execCapStop
  extract_lets +onlyGivenNames x1
  have h1 : Keeps s0 x1 := ?_
  · clear_value x1
    split
    · apply KeepsOut.next
      apply State.hostCmd_keeps
      · with_reducible assumption
      · intro y6_0 y6_1
        apply State.capStop_keeps
        with_reducible assumption
    · apply KeepsOut.next
      with_reducible assumption
  · subst x1
    apply State.at_keeps
    with_reducible assumption

theorem State.capService_keeps {s0 : State} (s : State) (h : Keeps s0 s) : Keeps s0 (State.capService s) := by
  unfold State.capService
  refine Keeps.foldl ?_ fun x1 a1 h1 => ?_
  · with_reducible assumption
  · apply State.capStopOne_keeps
    with_reducible assumption

theorem State.capForce_keeps {s0 : State} (s : State) (h : Keeps s0 s) : Keeps s0 (State.capForce s) := by
  unfold State.capForce
  extract_lets +onlyGivenNames x1
  have h1 : Keeps s0 x1 := ?_
  · clear_value x1
    extract_lets +onlyGivenNames x2
    clear_value x2
    split
    · apply State.capCode_keeps
      with_reducible assumption
    · apply State.capCode_keeps
      refine Keeps.foldl ?_ fun x7 a7 h7 => ?_
      · with_reducible assumption
      · apply State.capFire_keeps
        with_reducible assumption
  · subst x1
    apply State.capSettleAll_keeps
    with_reducible assumption

theorem execCapForce_keeps {s0 : State} (t : Nat) (s : State) (h : Keeps s0 s) : KeepsOut s0 (execCapForce t s) := by
  unfold execCapForce
  extract_lets +onlyGivenNames x1
  have h1 : Keeps s0 x1 := ?_
  · clear_value x1
    split
    · apply KeepsOut.next
      apply State.hostCmd_keeps
      · with_reducible assumption
      · intro y6_0 y6_1
        apply State.capForce_keeps
        with_reducible assumption
    · apply KeepsOut.next
      with_reducible assumption
  · subst x1
    apply State.at_keeps
    with_reducible assumption

theorem State.putRing_keeps {s0 : State} (s : State) (base : Nat) (size : Nat) (pos : Nat) (bs : List Byte) (h : Keeps s0 s) : Keeps s0 (State.putRing s base size pos bs) := by
  unfold State.putRing
  extract_lets +onlyGivenNames x1
  clear_value x1
  apply State.putChunks_keeps
  apply State.putChunks_keeps
  with_reducible assumption

theorem State.capCommit_keeps {s0 : State} (s : State) (p : Nat) (samples : List Int) (h : Keeps s0 s) : Keeps s0 (State.capCommit s p samples) := by
  unfold State.capCommit
  extract_lets +onlyGivenNames x1
  have h1 : Keeps s0 x1 := ?_
  · clear_value x1
    extract_lets +onlyGivenNames x2
    clear_value x2
    split
    · with_reducible assumption
    · split
      · with_reducible assumption
      · extract_lets +onlyGivenNames x7
        clear_value x7
        extract_lets +onlyGivenNames x8
        have h8 : Keeps s0 x8 := ?_
        · clear_value x8
          split
          · with_reducible assumption
          · extract_lets +onlyGivenNames x11
            have h11 : Keeps s0 x11 := ?_
            · clear_value x11
              apply State.fireS_keeps
              apply State.wr_keeps
              with_reducible assumption
            · subst x11
              apply State.putRing_keeps
              with_reducible assumption
        · subst x8
          apply State.setCap_keeps
          with_reducible assumption
  · subst x1
    apply State.capSettle_keeps
    with_reducible assumption

theorem execCaptureRecordCommit_keeps {s0 : State} (t : Nat) (port : Nat) (samples : List Int) (s : State) (h : Keeps s0 s) : KeepsOut s0 (execCaptureRecordCommit t port samples s) := by
  unfold execCaptureRecordCommit
  extract_lets +onlyGivenNames x1
  have h1 : Keeps s0 x1 := ?_
  · clear_value x1
    split
    · apply KeepsOut.next
      apply State.capCommit_keeps
      with_reducible assumption
    · apply KeepsOut.next
      with_reducible assumption
  · subst x1
    apply State.at_keeps
    with_reducible assumption

theorem State.capBehind_keeps {s0 : State} (s : State) (p : Nat) (h : Keeps s0 s) : Keeps s0 (State.capBehind s p) := by
  unfold State.capBehind
  extract_lets +onlyGivenNames x1
  have h1 : Keeps s0 x1 := ?_
  · clear_value x1
    extract_lets +onlyGivenNames x2
    clear_value x2
    split
    · with_reducible assumption
    · split
      · apply State.setCap_keeps
        with_reducible assumption
      · extract_lets +onlyGivenNames x8
        clear_value x8
        split
        · apply State.capEnd_keeps
          with_reducible assumption
        · apply State.setF_keeps
          apply State.setCap_keeps
          with_reducible assumption
  · subst x1
    apply State.capSettle_keeps
    with_reducible assumption

theorem execCaptureFallBehind_keeps {s0 : State} (t : Nat) (port : Nat) (s : State) (h : Keeps s0 s) : KeepsOut s0 (execCaptureFallBehind t port s) := by
  unfold execCaptureFallBehind
  extract_lets +onlyGivenNames x1
  have h1 : Keeps s0 x1 := ?_
  · clear_value x1
    split
    · apply KeepsOut.next
      apply State.capBehind_keeps
      with_reducible assumption
    · apply KeepsOut.next
      with_reducible assumption
  · subst x1
    apply State.at_keeps
    with_reducible assumption

theorem State.deriveCap_keeps {s0 : State} (s : State) (h : Keeps s0 s) : Keeps s0 (State.deriveCap s) := by
  unfold State.deriveCap
  split
  · with_reducible assumption
  · refine Keeps.foldl ?_ fun x3 a3 h3 => ?_
    · apply State.both_keeps
      with_reducible assumption
    · extract_lets +onlyGivenNames x6
      clear_value x6
      extract_lets +onlyGivenNames x7
      have h7 : Keeps s0 x7 := ?_
      · clear_value x7
        extract_lets +onlyGivenNames x8
        have h8 : Keeps s0 x8 := ?_
        · clear_value x8
          apply State.both_keeps
          apply State.both_keeps
          with_reducible assumption
        · subst x8
          apply State.both_keeps
          apply State.both_keeps
          apply State.both_keeps
          with_reducible assumption
      · subst x7
        apply State.both_keeps
        apply State.both_keeps
        with_reducible assumption

end Sys2Proof.Machine
end

