-- ==== Sys2Proof/Laws/KeepsReadout.lean ====
section
/-! SUPPORT. What the definitions of Machine/Readout.lean keep: one lemma each. -/

namespace Sys2Proof.Machine

set_option maxRecDepth 10000

theorem State.editShot_keeps {s0 : State} (s : State) (n : Nat) (k : Option Nat) (f : Shot → Shot) (h : Keeps s0 s) : Keeps s0 (State.editShot s n k f) := by
  unfold State.editShot
  split
  · with_reducible assumption
  · apply State.setSeq_keeps
    with_reducible assumption

theorem State.loseRec_keeps {s0 : State} (s : State) (n : Nat) (r : RecQ) (h : Keeps s0 s) : Keeps s0 (State.loseRec s n r) := by
  unfold State.loseRec
  extract_lets +onlyGivenNames x1
  have h1 : Keeps s0 x1 := ?_
  · clear_value x1
    split
    · extract_lets +onlyGivenNames x3
      have h3 : Keeps s0 x3 := ?_
      · clear_value x3
        split
        · apply State.fireS_keeps
          with_reducible assumption
        · apply State.fireS_keeps
          apply State.inc_keeps
          with_reducible assumption
      · subst x3
        split
        · apply State.wr_keeps
          with_reducible assumption
        · with_reducible assumption
    · apply State.markShot_keeps
      apply State.editShot_keeps
      with_reducible assumption
  · subst x1
    apply State.combFlag_keeps
    apply State.inc_keeps
    with_reducible assumption

theorem State.queueRec_keeps {s0 : State} (s : State) (n : Nat) (r : RecQ) (h : Keeps s0 s) : Keeps s0 (State.queueRec s n r) := by
  unfold State.queueRec
  split
  · apply State.loseRec_keeps
    with_reducible assumption
  · apply State.setComb_keeps
    with_reducible assumption

theorem State.voidWin_keeps {s0 : State} (s : State) (n : Nat) (c : Nat) (w : Win) (h : Keeps s0 s) : Keeps s0 (State.voidWin s n c w) := by
  unfold State.voidWin
  extract_lets +onlyGivenNames x1
  clear_value x1
  extract_lets +onlyGivenNames x2
  have h2 : Keeps s0 x2 := ?_
  · clear_value x2
    split
    · apply State.queueRec_keeps
      with_reducible assumption
    · with_reducible assumption
  · subst x2
    apply State.noteEnd_keeps
    with_reducible assumption

theorem State.overtake_keeps {s0 : State} (s : State) (n : Nat) (c : Nat) (m : Nat) (w : Win) (h : Keeps s0 s) : Keeps s0 (State.overtake s n c m w) := by
  unfold State.overtake
  extract_lets +onlyGivenNames x1
  clear_value x1
  split
  · with_reducible assumption
  · split
    · apply State.voidWin_keeps
      apply State.setLane_keeps
      with_reducible assumption
    · split
      · apply State.setLane_keeps
        with_reducible assumption
      · extract_lets +onlyGivenNames x11
        clear_value x11
        extract_lets +onlyGivenNames x12
        have h12 : Keeps s0 x12 := ?_
        · clear_value x12
          apply State.markShot_keeps
          apply State.combFlag_keeps
          with_reducible assumption
        · subst x12
          apply State.setLane_keeps
          with_reducible assumption

theorem State.windowOpen_keeps {s0 : State} (s : State) (n : Nat) (c : Nat) (w : Win) (h : Keeps s0 s) : Keeps s0 (State.windowOpen s n c w) := by
  unfold State.windowOpen
  extract_lets +onlyGivenNames x1
  clear_value x1
  extract_lets +onlyGivenNames x2
  clear_value x2
  extract_lets +onlyGivenNames x3
  clear_value x3
  extract_lets +onlyGivenNames x4
  have h4 : Keeps s0 x4 := ?_
  · clear_value x4
    extract_lets +onlyGivenNames x5
    have h5 : Keeps s0 x5 := ?_
    · clear_value x5
      extract_lets +onlyGivenNames x6
      clear_value x6
      extract_lets +onlyGivenNames x7
      clear_value x7
      extract_lets +onlyGivenNames x8
      have h8 : Keeps s0 x8 := ?_
      · clear_value x8
        extract_lets +onlyGivenNames x9
        clear_value x9
        extract_lets +onlyGivenNames x10
        clear_value x10
        extract_lets +onlyGivenNames x11
        have h11 : Keeps s0 x11 := ?_
        · clear_value x11
          apply State.setLane_keeps
          with_reducible assumption
        · subst x11
          split
          · apply State.setF_keeps
            with_reducible assumption
          · with_reducible assumption
      · subst x8
        apply State.overtake_keeps
        with_reducible assumption
    · subst x5
      refine Keeps.foldl ?_ fun x20 a20 h20 => ?_
      · with_reducible assumption
      · apply State.voidWin_keeps
        with_reducible assumption
  · subst x4
    apply State.setLane_keeps
    with_reducible assumption

theorem State.openBefore_keeps {s0 : State} (s : State) (n : Nat) (c : Nat) (b : Nat) (a_____internal__hyg_0 : Nat) (h : Keeps s0 s) : Keeps s0 (State.openBefore s n c b a_____internal__hyg_0) := by
  unfold State.openBefore
  split
  · with_reducible assumption
  · split
    · with_reducible assumption
    · split
      · apply State.openBefore_keeps
        apply State.windowOpen_keeps
        with_reducible assumption
      · with_reducible assumption

theorem State.keepLanes_keeps {s0 : State} (s : State) (n : Nat) (b : Nat) (h : Keeps s0 s) : Keeps s0 (State.keepLanes s n b) := by
  unfold State.keepLanes
  split
  · with_reducible assumption
  · extract_lets +onlyGivenNames x3
    have h3 : Keeps s0 x3 := ?_
    · clear_value x3
      apply State.setComb_keeps
      with_reducible assumption
    · subst x3
      refine Keeps.foldl ?_ fun x6 a6 h6 => ?_
      · with_reducible assumption
      · apply State.openBefore_keeps
        with_reducible assumption

theorem execWindowOpen_keeps {s0 : State} (t : Nat) (n : Nat) (c : Nat) (s : State) (h : Keeps s0 s) : KeepsOut s0 (execWindowOpen t n c s) := by
  unfold execWindowOpen
  extract_lets +onlyGivenNames x1
  have h1 : Keeps s0 x1 := ?_
  · clear_value x1
    split
    · apply KeepsOut.next
      with_reducible assumption
    · split
      · apply KeepsOut.next
        apply State.windowOpen_keeps
        with_reducible assumption
      · apply KeepsOut.next
        with_reducible assumption
  · subst x1
    apply State.at_keeps
    with_reducible assumption

theorem State.setIf_keeps {s0 : State} (s : State) (b : Bool) (f : Fld) (h : Keeps s0 s) : Keeps s0 (State.setIf s b f) := by
  unfold State.setIf
  split
  · apply State.setF_keeps
    with_reducible assumption
  · with_reducible assumption

theorem State.windowResult_keeps {s0 : State} (s : State) (n : Nat) (c : Nat) (o : OpenWin) (xs : List Int) (h : Keeps s0 s) : Keeps s0 (State.windowResult s n c o xs) := by
  unfold State.windowResult
  extract_lets +onlyGivenNames x1
  clear_value x1
  extract_lets +onlyGivenNames x2
  clear_value x2
  extract_lets +onlyGivenNames x3
  have h3 : Keeps s0 x3 := ?_
  · clear_value x3
    extract_lets +onlyGivenNames x4
    clear_value x4
    extract_lets +onlyGivenNames x5
    have h5 : Keeps s0 x5 := ?_
    · clear_value x5
      extract_lets +onlyGivenNames x6
      have h6 : Keeps s0 x6 := ?_
      · clear_value x6
        extract_lets +onlyGivenNames x7
        have h7 : Keeps s0 x7 := ?_
        · clear_value x7
          extract_lets +onlyGivenNames x8
          have h8 : Keeps s0 x8 := ?_
          · clear_value x8
            extract_lets +onlyGivenNames x9
            clear_value x9
            extract_lets +onlyGivenNames x10
            have h10 : Keeps s0 x10 := ?_
            · clear_value x10
              split
              · apply State.queueRec_keeps
                with_reducible assumption
              · with_reducible assumption
            · subst x10
              split
              · split
                · with_reducible assumption
                · with_reducible apply Keeps.mk
                  with_reducible assumption
              · with_reducible assumption
          · subst x8
            apply State.wr_keeps
            with_reducible assumption
        · subst x7
          split
          · apply State.markShot_keeps
            apply State.combFlag_keeps
            with_reducible assumption
          · with_reducible assumption
      · subst x6
        apply State.setIf_keeps
        apply State.setIf_keeps
        apply State.setIf_keeps
        with_reducible assumption
    · subst x5
      apply State.wr_keeps
      with_reducible assumption
  · subst x3
    apply State.noteEnd_keeps
    with_reducible assumption

theorem execWindowClose_keeps {s0 : State} (t : Nat) (n : Nat) (c : Nat) (samples : List Int) (s : State) (h : Keeps s0 s) : KeepsOut s0 (execWindowClose t n c samples s) := by
  unfold execWindowClose
  extract_lets +onlyGivenNames x1
  have h1 : Keeps s0 x1 := ?_
  · clear_value x1
    extract_lets +onlyGivenNames x2
    clear_value x2
    split
    · split
      · apply KeepsOut.next
        apply State.windowResult_keeps
        apply State.setLane_keeps
        with_reducible assumption
      · apply KeepsOut.next
        with_reducible assumption
    · split
      · apply KeepsOut.next
        with_reducible assumption
      · split
        · apply KeepsOut.next
          apply State.windowResult_keeps
          apply State.setLane_keeps
          with_reducible assumption
        · apply KeepsOut.next
          with_reducible assumption
  · subst x1
    apply State.at_keeps
    with_reducible assumption

theorem State.cutLane_keeps {s0 : State} (s : State) (m : Nat) (upto : Nat) (pick : Issue → Bool) (g : Nat) (h : Keeps s0 s) : Keeps s0 (State.cutLane s m upto pick g) := by
  unfold State.cutLane
  extract_lets +onlyGivenNames x1
  clear_value x1
  extract_lets +onlyGivenNames x2
  clear_value x2
  apply State.setLane_keeps
  with_reducible assumption

theorem State.cutComb_keeps {s0 : State} (s : State) (n : Nat) (m : Nat) (upto : Nat) (pick : Issue → Bool) (h : Keeps s0 s) : Keeps s0 (State.cutComb s n m upto pick) := by
  unfold State.cutComb
  refine Keeps.foldl ?_ fun x1 a1 h1 => ?_
  · with_reducible assumption
  · apply State.cutLane_keeps
    with_reducible assumption

theorem State.cutOpen_keeps {s0 : State} (s : State) (h : Keeps s0 s) : Keeps s0 (State.cutOpen s) := by
  unfold State.cutOpen
  refine Keeps.foldl ?_ fun x1 a1 h1 => ?_
  · with_reducible assumption
  · apply State.cutComb_keeps
    with_reducible assumption

theorem State.checkRings_keeps {s0 : State} (s : State) (h : Keeps s0 s) : Keeps s0 (State.checkRings s) := by
  unfold State.checkRings
  refine Keeps.foldl ?_ fun x1 a1 h1 => ?_
  · with_reducible assumption
  · apply State.wr_keeps
    with_reducible assumption

theorem State.latchRing_keeps {s0 : State} (s : State) (n : Nat) (h : Keeps s0 s) : Keeps s0 (State.latchRing s n) := by
  unfold State.latchRing
  split
  · with_reducible assumption
  · apply State.setComb_keeps
    with_reducible assumption

theorem State.newRing_keeps {s0 : State} (s : State) (n : Nat) (h : Keeps s0 s) : Keeps s0 (State.newRing s n) := by
  unfold State.newRing
  apply State.setComb_keeps
  apply State.wr_keeps
  apply State.wr_keeps
  with_reducible assumption

theorem State.writeRec_keeps {s0 : State} (s : State) (n : Nat) (r : RecQ) (h : Keeps s0 s) : Keeps s0 (State.writeRec s n r) := by
  unfold State.writeRec
  extract_lets +onlyGivenNames x1
  clear_value x1
  extract_lets +onlyGivenNames x2
  clear_value x2
  extract_lets +onlyGivenNames x3
  clear_value x3
  extract_lets +onlyGivenNames x4
  clear_value x4
  extract_lets +onlyGivenNames x5
  have h5 : Keeps s0 x5 := ?_
  · clear_value x5
    extract_lets +onlyGivenNames x6
    have h6 : Keeps s0 x6 := ?_
    · clear_value x6
      split
      · with_reducible assumption
      · apply State.editShot_keeps
        with_reducible assumption
    · subst x6
      apply State.wr_keeps
      with_reducible assumption
  · subst x5
    apply State.setComb_keeps
    apply State.putChunks_keeps
    with_reducible assumption

theorem State.drainRec_keeps {s0 : State} (s : State) (n : Nat) (r : RecQ) (rs : List RecQ) (h : Keeps s0 s) : Keeps s0 (State.drainRec s n r rs) := by
  unfold State.drainRec
  extract_lets +onlyGivenNames x1
  clear_value x1
  extract_lets +onlyGivenNames x2
  have h2 : Keeps s0 x2 := ?_
  · clear_value x2
    split
    · apply State.loseRec_keeps
      with_reducible assumption
    · apply State.writeRec_keeps
      with_reducible assumption
  · subst x2
    apply State.setComb_keeps
    with_reducible assumption

theorem execResultRecordWrite_keeps {s0 : State} (t : Nat) (n : Nat) (s : State) (h : Keeps s0 s) : KeepsOut s0 (execResultRecordWrite t n s) := by
  unfold execResultRecordWrite
  extract_lets +onlyGivenNames x1
  have h1 : Keeps s0 x1 := ?_
  · clear_value x1
    split
    · apply KeepsOut.next
      with_reducible assumption
    · split
      · apply KeepsOut.next
        apply State.drainRec_keeps
        with_reducible assumption
      · apply KeepsOut.next
        with_reducible assumption
  · subst x1
    apply State.at_keeps
    with_reducible assumption

theorem State.shotTrailer_keeps {s0 : State} (s : State) (n : Nat) (x : Shot) (e : Nat) (h : Keeps s0 s) : Keeps s0 (State.shotTrailer s n x e) := by
  unfold State.shotTrailer
  extract_lets +onlyGivenNames x1
  clear_value x1
  extract_lets +onlyGivenNames x2
  have h2 : Keeps s0 x2 := ?_
  · clear_value x2
    extract_lets +onlyGivenNames x3
    have h3 : Keeps s0 x3 := ?_
    · clear_value x3
      apply State.queueRec_keeps
      with_reducible assumption
    · subst x3
      split
      · apply State.inc_keeps
        with_reducible assumption
      · with_reducible assumption
  · subst x2
    apply State.setSeq_keeps
    with_reducible assumption

theorem execShotTrailer_keeps {s0 : State} (t : Nat) (n : Nat) (s : State) (h : Keeps s0 s) : KeepsOut s0 (execShotTrailer t n s) := by
  unfold execShotTrailer
  extract_lets +onlyGivenNames x1
  have h1 : Keeps s0 x1 := ?_
  · clear_value x1
    split
    · apply KeepsOut.next
      with_reducible assumption
    · extract_lets +onlyGivenNames x5
      clear_value x5
      extract_lets +onlyGivenNames x6
      have h6 : Keeps s0 x6 := ?_
      · clear_value x6
        split
        · apply KeepsOut.next
          apply State.shotTrailer_keeps
          apply State.tellShots_keeps
          with_reducible assumption
        · apply KeepsOut.next
          with_reducible assumption
      · subst x6
        split
        · apply State.markShot_keeps
          with_reducible assumption
        · with_reducible assumption
  · subst x1
    apply State.settleNow_keeps
    apply State.at_keeps
    with_reducible assumption

theorem State.deriveSet_keeps {s0 : State} (s : State) (n : Nat) (x : Nat) (h : Keeps s0 s) : Keeps s0 (State.deriveSet s n x) := by
  unfold State.deriveSet
  extract_lets +onlyGivenNames x1
  clear_value x1
  apply State.both_keeps
  apply State.both_keeps
  with_reducible assumption

theorem State.deriveProf_keeps {s0 : State} (s : State) (n : Nat) (c : Nat) (f : Nat) (h : Keeps s0 s) : Keeps s0 (State.deriveProf s n c f) := by
  unfold State.deriveProf
  extract_lets +onlyGivenNames x1
  clear_value x1
  extract_lets +onlyGivenNames x2
  clear_value x2
  extract_lets +onlyGivenNames x3
  clear_value x3
  extract_lets +onlyGivenNames x4
  clear_value x4
  extract_lets +onlyGivenNames x5
  clear_value x5
  extract_lets +onlyGivenNames x6
  clear_value x6
  extract_lets +onlyGivenNames x7
  clear_value x7
  extract_lets +onlyGivenNames x8
  clear_value x8
  extract_lets +onlyGivenNames x9
  clear_value x9
  extract_lets +onlyGivenNames x10
  clear_value x10
  extract_lets +onlyGivenNames x11
  clear_value x11
  extract_lets +onlyGivenNames x12
  clear_value x12
  extract_lets +onlyGivenNames x13
  clear_value x13
  extract_lets +onlyGivenNames x14
  have h14 : Keeps s0 x14 := ?_
  · clear_value x14
    extract_lets +onlyGivenNames x15
    have h15 : Keeps s0 x15 := ?_
    · clear_value x15
      extract_lets +onlyGivenNames x16
      have h16 : Keeps s0 x16 := ?_
      · clear_value x16
        extract_lets +onlyGivenNames x17
        have h17 : Keeps s0 x17 := ?_
        · clear_value x17
          apply State.both_keeps
          with_reducible assumption
        · subst x17
          apply State.both_keeps
          apply State.both_keeps
          with_reducible assumption
      · subst x16
        apply State.both_keeps
        apply State.both_keeps
        with_reducible assumption
    · subst x15
      apply State.both_keeps
      apply State.both_keeps
      with_reducible assumption
  · subst x14
    apply State.both_keeps
    apply State.both_keeps
    with_reducible assumption

theorem State.deriveReadout_keeps {s0 : State} (s : State) (n : Nat) (h : Keeps s0 s) : Keeps s0 (State.deriveReadout s n) := by
  unfold State.deriveReadout
  split
  · with_reducible assumption
  · extract_lets +onlyGivenNames x3
    have h3 : Keeps s0 x3 := ?_
    · clear_value x3
      refine Keeps.foldl ?_ fun x4 a4 h4 => ?_
      · with_reducible assumption
      · apply State.deriveProf_keeps
        with_reducible assumption
    · subst x3
      refine Keeps.foldl ?_ fun x8 a8 h8 => ?_
      · with_reducible assumption
      · apply State.deriveSet_keeps
        with_reducible assumption

end Sys2Proof.Machine
end

