-- ==== Sys2Proof/Laws/KeepsBias.lean ====
section
/-! SUPPORT. What the definitions of Machine/Bias.lean keep: one lemma each. -/

namespace Sys2Proof.Machine

set_option maxRecDepth 10000

theorem State.setBias_keeps {s0 : State} (s : State) (o : Nat) (x : BiasSt) (h : Keeps s0 s) : Keeps s0 (State.setBias s o x) := by
  unfold State.setBias
  with_reducible apply Keeps.mk
  with_reducible assumption

theorem State.setLoads_keeps {s0 : State} (s : State) (n : Nat) (l : List GroupLoad) (h : Keeps s0 s) : Keeps s0 (State.setLoads s n l) := by
  unfold State.setLoads
  with_reducible apply Keeps.mk
  with_reducible assumption

theorem State.setCode_keeps {s0 : State} (s : State) (o : Nat) (v : Nat) (h : Keeps s0 s) : Keeps s0 (State.setCode s o v) := by
  unfold State.setCode
  apply State.wr_keeps
  with_reducible assumption

theorem State.showStage_keeps {s0 : State} (s : State) (o : Nat) (h : Keeps s0 s) : Keeps s0 (State.showStage s o) := by
  unfold State.showStage
  split
  · apply State.wr_keeps
    apply State.setBit_keeps
    with_reducible assumption
  · apply State.clrBit_keeps
    with_reducible assumption

theorem State.setStages_keeps {s0 : State} (s : State) (o : Nat) (l : List Staging) (h : Keeps s0 s) : Keeps s0 (State.setStages s o l) := by
  unfold State.setStages
  apply State.showStage_keeps
  apply State.setBias_keeps
  with_reducible assumption

theorem State.stage_keeps {s0 : State} (s : State) (o : Nat) (code : Nat) (tick : Nat) (h : Keeps s0 s) : Keeps s0 (State.stage s o code tick) := by
  unfold State.stage
  apply State.setStages_keeps
  with_reducible assumption

theorem State.fluxRead_keeps {s0 : State} (s : State) (o : Nat) (h : Keeps s0 s) : Keeps s0 (State.fluxRead s o) := by
  unfold State.fluxRead
  extract_lets +onlyGivenNames x1
  clear_value x1
  split
  · with_reducible assumption
  · extract_lets +onlyGivenNames x4
    clear_value x4
    split
    · with_reducible assumption
    · extract_lets +onlyGivenNames x7
      clear_value x7
      extract_lets +onlyGivenNames x8
      clear_value x8
      extract_lets +onlyGivenNames x9
      clear_value x9
      extract_lets +onlyGivenNames x10
      have h10 : Keeps s0 x10 := ?_
      · clear_value x10
        extract_lets +onlyGivenNames x11
        clear_value x11
        extract_lets +onlyGivenNames x12
        have h12 : Keeps s0 x12 := ?_
        · clear_value x12
          split
          · apply State.markShot_keeps
            apply State.setF_keeps
            with_reducible assumption
          · with_reducible assumption
        · subst x12
          apply State.setBias_keeps
          with_reducible assumption
      · subst x10
        apply State.wr_keeps
        with_reducible assumption

theorem State.fluxOut_keeps {s0 : State} (s : State) (o : Nat) (t : Nat) (h : Keeps s0 s) : Keeps s0 (State.fluxOut s o t) := by
  unfold State.fluxOut
  extract_lets +onlyGivenNames x1
  clear_value x1
  split
  · with_reducible assumption
  · extract_lets +onlyGivenNames x4
    clear_value x4
    split
    · with_reducible assumption
    · extract_lets +onlyGivenNames x7
      clear_value x7
      extract_lets +onlyGivenNames x8
      have h8 : Keeps s0 x8 := ?_
      · clear_value x8
        split
        · apply State.setF_keeps
          with_reducible assumption
        · with_reducible assumption
      · subst x8
        apply State.setBias_keeps
        with_reducible assumption

theorem State.endFlux_keeps {s0 : State} (s : State) (o : Nat) (h : Keeps s0 s) : Keeps s0 (State.endFlux s o) := by
  unfold State.endFlux
  extract_lets +onlyGivenNames x1
  clear_value x1
  split
  · with_reducible assumption
  · extract_lets +onlyGivenNames x4
    clear_value x4
    extract_lets +onlyGivenNames x5
    have h5 : Keeps s0 x5 := ?_
    · clear_value x5
      apply State.noteEnd_keeps
      apply State.setBias_keeps
      with_reducible assumption
    · subst x5
      split
      · apply State.setCode_keeps
        with_reducible assumption
      · with_reducible assumption

theorem State.fluxTo_keeps {s0 : State} (s : State) (o : Nat) (t : Nat) (h : Keeps s0 s) : Keeps s0 (State.fluxTo s o t) := by
  unfold State.fluxTo
  extract_lets +onlyGivenNames x1
  have h1 : Keeps s0 x1 := ?_
  · clear_value x1
    split
    · with_reducible assumption
    · split
      · apply State.endFlux_keeps
        with_reducible assumption
      · with_reducible assumption
  · subst x1
    apply State.fluxOut_keeps
    apply State.fluxRead_keeps
    with_reducible assumption

theorem State.fluxStopped_keeps {s0 : State} (s : State) (o : Nat) (hold : Bool) (h : Keeps s0 s) : Keeps s0 (State.fluxStopped s o hold) := by
  unfold State.fluxStopped
  split
  · with_reducible assumption
  · extract_lets +onlyGivenNames x3
    have h3 : Keeps s0 x3 := ?_
    · clear_value x3
      apply State.markShot_keeps
      with_reducible assumption
    · subst x3
      split
      · apply State.setF_keeps
        with_reducible assumption
      · with_reducible assumption

theorem State.startFlux_keeps {s0 : State} (s : State) (o : Nat) (f : Flux) (h : Keeps s0 s) : Keeps s0 (State.startFlux s o f) := by
  unfold State.startFlux
  extract_lets +onlyGivenNames x1
  clear_value x1
  extract_lets +onlyGivenNames x2
  have h2 : Keeps s0 x2 := ?_
  · clear_value x2
    extract_lets +onlyGivenNames x3
    have h3 : Keeps s0 x3 := ?_
    · clear_value x3
      extract_lets +onlyGivenNames x4
      clear_value x4
      extract_lets +onlyGivenNames x5
      have h5 : Keeps s0 x5 := ?_
      · clear_value x5
        extract_lets +onlyGivenNames x6
        clear_value x6
        split
        · apply State.fluxStopped_keeps
          with_reducible assumption
        · split
          · apply State.fluxStopped_keeps
            with_reducible assumption
          · with_reducible assumption
      · subst x5
        apply State.fluxRead_keeps
        apply State.setBias_keeps
        with_reducible assumption
    · subst x3
      split
      · apply State.noteEnd_keeps
        apply State.setF_keeps
        with_reducible assumption
      · with_reducible assumption
  · subst x2
    apply State.fluxTo_keeps
    with_reducible assumption

theorem execFluxStart_keeps {s0 : State} (t : Nat) (n : Nat) (b : Nat) (s : State) (h : Keeps s0 s) : KeepsOut s0 (execFluxStart t n b s) := by
  unfold execFluxStart
  extract_lets +onlyGivenNames x1
  have h1 : Keeps s0 x1 := ?_
  · clear_value x1
    extract_lets +onlyGivenNames x2
    clear_value x2
    extract_lets +onlyGivenNames x3
    clear_value x3
    extract_lets +onlyGivenNames x4
    clear_value x4
    split
    · apply KeepsOut.next
      with_reducible assumption
    · extract_lets +onlyGivenNames x8
      have h8 : Keeps s0 x8 := ?_
      · clear_value x8
        extract_lets +onlyGivenNames x9
        have h9 : Keeps s0 x9 := ?_
        · clear_value x9
          apply KeepsOut.next
          apply State.startFlux_keeps
          with_reducible assumption
        · subst x9
          split
          · apply State.setF_keeps
            with_reducible assumption
          · with_reducible assumption
      · subst x8
        apply State.setBias_keeps
        with_reducible assumption
  · subst x1
    apply State.at_keeps
    with_reducible assumption

theorem execFluxEnd_keeps {s0 : State} (t : Nat) (n : Nat) (b : Nat) (s : State) (h : Keeps s0 s) : KeepsOut s0 (execFluxEnd t n b s) := by
  unfold execFluxEnd
  extract_lets +onlyGivenNames x1
  have h1 : Keeps s0 x1 := ?_
  · clear_value x1
    extract_lets +onlyGivenNames x2
    clear_value x2
    split
    · apply KeepsOut.next
      with_reducible assumption
    · split
      · apply KeepsOut.next
        apply State.fluxTo_keeps
        with_reducible assumption
      · apply KeepsOut.next
        with_reducible assumption
  · subst x1
    apply State.at_keeps
    with_reducible assumption

theorem State.loadOut_keeps {s0 : State} (s : State) (o : Nat) (beat : Nat) (h : Keeps s0 s) : Keeps s0 (State.loadOut s o beat) := by
  unfold State.loadOut
  extract_lets +onlyGivenNames x1
  have h1 : Keeps s0 x1 := ?_
  · clear_value x1
    extract_lets +onlyGivenNames x2
    clear_value x2
    extract_lets +onlyGivenNames x3
    clear_value x3
    split
    · apply State.setF_keeps
      with_reducible assumption
    · split
      · apply State.setBias_keeps
        with_reducible assumption
      · split
        · with_reducible assumption
        · extract_lets +onlyGivenNames x12
          clear_value x12
          extract_lets +onlyGivenNames x13
          have h13 : Keeps s0 x13 := ?_
          · clear_value x13
            split
            · with_reducible assumption
            · apply State.setStages_keeps
              apply State.setCode_keeps
              with_reducible assumption
          · subst x13
            apply State.setBias_keeps
            with_reducible assumption
  · subst x1
    apply State.fluxTo_keeps
    with_reducible assumption

theorem State.unload_keeps {s0 : State} (s : State) (o : Nat) (beat : Nat) (h : Keeps s0 s) : Keeps s0 (State.unload s o beat) := by
  unfold State.unload
  split
  · with_reducible assumption
  · split
    · apply State.setBias_keeps
      apply State.setStages_keeps
      apply State.setCode_keeps
      with_reducible assumption
    · with_reducible assumption

theorem State.loadGroup_keeps {s0 : State} (s : State) (n : Nat) (beat : Nat) (h : Keeps s0 s) : Keeps s0 (State.loadGroup s n beat) := by
  unfold State.loadGroup
  refine Keeps.foldl ?_ fun x1 a1 h1 => ?_
  · with_reducible assumption
  · apply State.loadOut_keeps
    with_reducible assumption

theorem State.askLoad_keeps {s0 : State} (s : State) (n : Nat) (tick : Nat) (iss : Option Issue) (h : Keeps s0 s) : Keeps s0 (State.askLoad s n tick iss) := by
  unfold State.askLoad
  apply State.setLoads_keeps
  with_reducible assumption

theorem execBiasLoad_keeps {s0 : State} (t : Nat) (n : Nat) (s : State) (h : Keeps s0 s) : KeepsOut s0 (execBiasLoad t n s) := by
  unfold execBiasLoad
  extract_lets +onlyGivenNames x1
  have h1 : Keeps s0 x1 := ?_
  · clear_value x1
    extract_lets +onlyGivenNames x2
    clear_value x2
    extract_lets +onlyGivenNames x3
    have h3 : Keeps s0 x3 := ?_
    · clear_value x3
      extract_lets +onlyGivenNames x4
      have h4 : Keeps s0 x4 := ?_
      · clear_value x4
        extract_lets +onlyGivenNames x5
        clear_value x5
        apply KeepsOut.next
        refine Keeps.foldl ?_ fun x7 a7 h7 => ?_
        · with_reducible assumption
        · apply State.loadGroup_keeps
          with_reducible assumption
      · subst x4
        refine Keeps.foldl ?_ fun x11 a11 h11 => ?_
        · with_reducible assumption
        · apply State.noteEnd_keeps
          with_reducible assumption
    · subst x3
      apply State.setLoads_keeps
      with_reducible assumption
  · subst x1
    apply State.at_keeps
    with_reducible assumption

theorem State.biasLoadCmd_keeps {s0 : State} (s : State) (n : Nat) (h : Keeps s0 s) : Keeps s0 (State.biasLoadCmd s n) := by
  unfold State.biasLoadCmd
  apply State.wr_keeps
  apply State.askLoad_keeps
  with_reducible assumption

theorem execBiasLoadCmd_keeps {s0 : State} (t : Nat) (n : Nat) (s : State) (h : Keeps s0 s) : KeepsOut s0 (execBiasLoadCmd t n s) := by
  unfold execBiasLoadCmd
  extract_lets +onlyGivenNames x1
  have h1 : Keeps s0 x1 := ?_
  · clear_value x1
    split
    · apply KeepsOut.next
      apply State.hostCmd_keeps
      · with_reducible assumption
      · intro y6_0 y6_1
        apply State.biasLoadCmd_keeps
        with_reducible assumption
    · apply KeepsOut.next
      with_reducible assumption
  · subst x1
    apply State.at_keeps
    with_reducible assumption

theorem State.biasStageWrite_keeps {s0 : State} (s : State) (n : Nat) (b : Nat) (code : Nat) (h : Keeps s0 s) : Keeps s0 (State.biasStageWrite s n b code) := by
  unfold State.biasStageWrite
  apply State.stage_keeps
  with_reducible assumption

theorem execBiasStageWrite_keeps {s0 : State} (t : Nat) (n : Nat) (b : Nat) (code : Nat) (s : State) (h : Keeps s0 s) : KeepsOut s0 (execBiasStageWrite t n b code s) := by
  unfold execBiasStageWrite
  extract_lets +onlyGivenNames x1
  have h1 : Keeps s0 x1 := ?_
  · clear_value x1
    split
    · apply KeepsOut.next
      apply State.hostCmd_keeps
      · with_reducible assumption
      · intro y6_0 y6_1
        apply State.biasStageWrite_keeps
        with_reducible assumption
    · apply KeepsOut.next
      with_reducible assumption
  · subst x1
    apply State.at_keeps
    with_reducible assumption

theorem State.biasEntry_keeps {s0 : State} (s : State) (o : Nat) (code : Nat) (b : Nat) (h : Keeps s0 s) : Keeps s0 (State.biasEntry s o code b) := by
  unfold State.biasEntry
  extract_lets +onlyGivenNames x1
  have h1 : Keeps s0 x1 := ?_
  · clear_value x1
    extract_lets +onlyGivenNames x2
    clear_value x2
    extract_lets +onlyGivenNames x3
    clear_value x3
    split
    · with_reducible assumption
    · split
      · apply State.setBias_keeps
        with_reducible assumption
      · extract_lets +onlyGivenNames x9
        have h9 : Keeps s0 x9 := ?_
        · clear_value x9
          apply State.setStages_keeps
          apply State.setCode_keeps
          with_reducible assumption
        · subst x9
          apply State.setBias_keeps
          with_reducible assumption
  · subst x1
    apply State.fluxTo_keeps
    with_reducible assumption

theorem State.biasNow_keeps {s0 : State} (s : State) (n : Nat) (h : Keeps s0 s) : Keeps s0 (State.biasNow s n) := by
  unfold State.biasNow
  refine Keeps.foldl ?_ fun x1 a1 h1 => ?_
  · with_reducible assumption
  · extract_lets +onlyGivenNames x3
    clear_value x3
    extract_lets +onlyGivenNames x4
    have h4 : Keeps s0 x4 := ?_
    · clear_value x4
      split
      · with_reducible assumption
      · apply State.clrBit_keeps
        with_reducible assumption
    · subst x4
      apply State.showStage_keeps
      apply State.fluxTo_keeps
      with_reducible assumption

theorem State.zeroOut_keeps {s0 : State} (s : State) (cause : Nat) (keep : Bool) (o : Nat) (h : Keeps s0 s) : Keeps s0 (State.zeroOut s cause keep o) := by
  unfold State.zeroOut
  extract_lets +onlyGivenNames x1
  have h1 : Keeps s0 x1 := ?_
  · clear_value x1
    extract_lets +onlyGivenNames x2
    clear_value x2
    extract_lets +onlyGivenNames x3
    have h3 : Keeps s0 x3 := ?_
    · clear_value x3
      split
      · with_reducible assumption
      · apply State.setStages_keeps
        apply State.setCode_keeps
        with_reducible assumption
    · subst x3
      apply State.setBias_keeps
      with_reducible assumption
  · subst x1
    apply State.fluxStopped_keeps
    apply State.unload_keeps
    apply State.fluxTo_keeps
    with_reducible assumption

theorem State.zeroAll_keeps {s0 : State} (s : State) (cause : Nat) (keep : Bool) (h : Keeps s0 s) : Keeps s0 (State.zeroAll s cause keep) := by
  unfold State.zeroAll
  refine Keeps.foldl ?_ fun x1 a1 h1 => ?_
  · with_reducible assumption
  · apply State.zeroOut_keeps
    with_reducible assumption

theorem State.readyOut_keeps {s0 : State} (s : State) (cause : Nat) (o : Nat) (h : Keeps s0 s) : Keeps s0 (State.readyOut s cause o) := by
  unfold State.readyOut
  extract_lets +onlyGivenNames x1
  clear_value x1
  split
  · apply State.setBias_keeps
    with_reducible assumption
  · with_reducible assumption

theorem State.readyAll_keeps {s0 : State} (s : State) (cause : Nat) (h : Keeps s0 s) : Keeps s0 (State.readyAll s cause) := by
  unfold State.readyAll
  refine Keeps.foldl ?_ fun x1 a1 h1 => ?_
  · with_reducible assumption
  · apply State.readyOut_keeps
    with_reducible assumption

theorem State.changeRange_keeps {s0 : State} (s : State) (o : Nat) (b : Nat) (h : Keeps s0 s) : Keeps s0 (State.changeRange s o b) := by
  unfold State.changeRange
  extract_lets +onlyGivenNames x1
  have h1 : Keeps s0 x1 := ?_
  · clear_value x1
    extract_lets +onlyGivenNames x2
    have h2 : Keeps s0 x2 := ?_
    · clear_value x2
      extract_lets +onlyGivenNames x3
      have h3 : Keeps s0 x3 := ?_
      · clear_value x3
        apply State.setBit_keeps
        apply State.setBias_keeps
        with_reducible assumption
      · subst x3
        apply State.fluxStopped_keeps
        apply State.setCode_keeps
        with_reducible assumption
    · subst x2
      split
      · split
        · apply State.setF_keeps
          apply State.unload_keeps
          with_reducible assumption
        · with_reducible assumption
      · split
        · apply State.setF_keeps
          apply State.unload_keeps
          with_reducible assumption
        · with_reducible assumption
  · subst x1
    apply State.fluxTo_keeps
    with_reducible assumption

theorem execRangeHoldEnd_keeps {s0 : State} (t : Nat) (n : Nat) (b : Nat) (s : State) (h : Keeps s0 s) : KeepsOut s0 (execRangeHoldEnd t n b s) := by
  unfold execRangeHoldEnd
  extract_lets +onlyGivenNames x1
  have h1 : Keeps s0 x1 := ?_
  · clear_value x1
    extract_lets +onlyGivenNames x2
    clear_value x2
    split
    · apply KeepsOut.next
      with_reducible assumption
    · split
      · extract_lets +onlyGivenNames x7
        have h7 : Keeps s0 x7 := ?_
        · clear_value x7
          apply KeepsOut.next
          apply State.clrBit_keeps
          apply State.setBias_keeps
          with_reducible assumption
        · subst x7
          apply State.fluxTo_keeps
          with_reducible assumption
      · apply KeepsOut.next
        with_reducible assumption
  · subst x1
    apply State.at_keeps
    with_reducible assumption

theorem State.trip_keeps {s0 : State} (s : State) (o : Nat) (h : Keeps s0 s) : Keeps s0 (State.trip s o) := by
  unfold State.trip
  extract_lets +onlyGivenNames x1
  clear_value x1
  extract_lets +onlyGivenNames x2
  have h2 : Keeps s0 x2 := ?_
  · clear_value x2
    extract_lets +onlyGivenNames x3
    have h3 : Keeps s0 x3 := ?_
    · clear_value x3
      extract_lets +onlyGivenNames x4
      have h4 : Keeps s0 x4 := ?_
      · clear_value x4
        apply State.markOpen_keeps
        with_reducible assumption
      · subst x4
        apply State.fireS_keeps
        apply State.zeroOut_keeps
        with_reducible assumption
    · subst x3
      apply State.setBit_keeps
      with_reducible assumption
  · subst x2
    apply State.setBit_keeps
    with_reducible assumption

theorem State.tripFor_keeps {s0 : State} (s : State) (f : Fld) (o : Nat) (h : Keeps s0 s) : Keeps s0 (State.tripFor s f o) := by
  unfold State.tripFor
  apply State.trip_keeps
  apply State.setBit_keeps
  with_reducible assumption

theorem State.openLoad_keeps {s0 : State} (s : State) (o : Nat) (begun : Nat) (mv : Int) (h : Keeps s0 s) : Keeps s0 (State.openLoad s o begun mv) := by
  unfold State.openLoad
  extract_lets +onlyGivenNames x1
  clear_value x1
  split
  · apply State.setBias_keeps
    with_reducible assumption
  · extract_lets +onlyGivenNames x5
    have h5 : Keeps s0 x5 := ?_
    · clear_value x5
      split
      · apply State.tripFor_keeps
        with_reducible assumption
      · with_reducible assumption
    · subst x5
      apply State.setBias_keeps
      with_reducible assumption

theorem State.overCurrent_keeps {s0 : State} (s : State) (o : Nat) (h : Keeps s0 s) : Keeps s0 (State.overCurrent s o) := by
  unfold State.overCurrent
  extract_lets +onlyGivenNames x1
  clear_value x1
  split
  · apply State.tripFor_keeps
    with_reducible assumption
  · with_reducible assumption

theorem execSupervisionTrip_keeps {s0 : State} (t : Nat) (n : Nat) (b : Nat) (cause : SupCause) (s : State) (h : Keeps s0 s) : KeepsOut s0 (execSupervisionTrip t n b cause s) := by
  unfold execSupervisionTrip
  extract_lets +onlyGivenNames x1
  have h1 : Keeps s0 x1 := ?_
  · clear_value x1
    extract_lets +onlyGivenNames x2
    clear_value x2
    split
    · split
      · apply KeepsOut.next
        apply State.openLoad_keeps
        with_reducible assumption
      · apply KeepsOut.next
        with_reducible assumption
    · split
      · apply KeepsOut.next
        apply State.overCurrent_keeps
        with_reducible assumption
      · apply KeepsOut.next
        with_reducible assumption
  · subst x1
    apply State.at_keeps
    with_reducible assumption

theorem execBiasLimitClamp_keeps {s0 : State} (t : Nat) (n : Nat) (b : Nat) (current : Int) (s : State) (h : Keeps s0 s) : KeepsOut s0 (execBiasLimitClamp t n b current s) := by
  unfold execBiasLimitClamp
  extract_lets +onlyGivenNames x1
  have h1 : Keeps s0 x1 := ?_
  · clear_value x1
    extract_lets +onlyGivenNames x2
    clear_value x2
    extract_lets +onlyGivenNames x3
    clear_value x3
    split
    · split
      · extract_lets +onlyGivenNames x6
        clear_value x6
        apply KeepsOut.next
        apply State.setBit_keeps
        apply State.setBias_keeps
        with_reducible assumption
      · apply KeepsOut.next
        apply State.setBias_keeps
        with_reducible assumption
    · apply KeepsOut.next
      with_reducible assumption
  · subst x1
    apply State.at_keeps
    with_reducible assumption

theorem State.tripClr_keeps {s0 : State} (s : State) (n : Nat) (h : Keeps s0 s) : Keeps s0 (State.tripClr s n) := by
  unfold State.tripClr
  split
  · apply State.wr_keeps
    with_reducible assumption
  · extract_lets +onlyGivenNames x4
    have h4 : Keeps s0 x4 := ?_
    · clear_value x4
      apply State.wr_keeps
      with_reducible assumption
    · subst x4
      refine Keeps.foldl ?_ fun x7 a7 h7 => ?_
      · with_reducible assumption
      · extract_lets +onlyGivenNames x9
        split
        · apply State.readyOut_keeps
          apply State.clrBit_keeps
          apply State.clrBit_keeps
          with_reducible assumption
        · with_reducible assumption

theorem execTripClr_keeps {s0 : State} (t : Nat) (n : Nat) (s : State) (h : Keeps s0 s) : KeepsOut s0 (execTripClr t n s) := by
  unfold execTripClr
  extract_lets +onlyGivenNames x1
  have h1 : Keeps s0 x1 := ?_
  · clear_value x1
    split
    · apply KeepsOut.next
      apply State.hostCmd_keeps
      · with_reducible assumption
      · intro y6_0 y6_1
        apply State.tripClr_keeps
        with_reducible assumption
    · apply KeepsOut.next
      with_reducible assumption
  · subst x1
    apply State.at_keeps
    with_reducible assumption

theorem execBiasSupplyTrip_keeps {s0 : State} (t : Nat) (q : Nat) (s : State) (h : Keeps s0 s) : KeepsOut s0 (execBiasSupplyTrip t q s) := by
  unfold execBiasSupplyTrip
  extract_lets +onlyGivenNames x1
  have h1 : Keeps s0 x1 := ?_
  · clear_value x1
    split
    · apply KeepsOut.next
      refine Keeps.foldl ?_ fun x4 a4 h4 => ?_
      · with_reducible assumption
      · extract_lets +onlyGivenNames x6
        clear_value x6
        apply State.trip_keeps
        apply State.setBias_keeps
        with_reducible assumption
    · apply KeepsOut.next
      with_reducible assumption
  · subst x1
    apply State.at_keeps
    with_reducible assumption

theorem execBiasSupplyRestored_keeps {s0 : State} (t : Nat) (q : Nat) (s : State) (h : Keeps s0 s) : KeepsOut s0 (execBiasSupplyRestored t q s) := by
  unfold execBiasSupplyRestored
  extract_lets +onlyGivenNames x1
  have h1 : Keeps s0 x1 := ?_
  · clear_value x1
    apply KeepsOut.next
    refine Keeps.foldl ?_ fun x3 a3 h3 => ?_
    · with_reducible assumption
    · apply State.setBias_keeps
      with_reducible assumption
  · subst x1
    apply State.at_keeps
    with_reducible assumption

theorem State.deriveBias_keeps {s0 : State} (s : State) (n : Nat) (h : Keeps s0 s) : Keeps s0 (State.deriveBias s n) := by
  unfold State.deriveBias
  split
  · with_reducible assumption
  · extract_lets +onlyGivenNames x3
    have h3 : Keeps s0 x3 := ?_
    · clear_value x3
      refine Keeps.foldl ?_ fun x4 a4 h4 => ?_
      · with_reducible assumption
      · extract_lets +onlyGivenNames x6
        clear_value x6
        apply State.both_keeps
        apply State.both_keeps
        apply State.both_keeps
        with_reducible assumption
    · subst x3
      apply State.wr_keeps
      with_reducible assumption

end Sys2Proof.Machine
end

