-- ==== Sys2Proof/Laws/KeepsMarker.lean ====
section
/-! SUPPORT. What the definitions of Machine/Marker.lean keep: one lemma each. -/

namespace Sys2Proof.Machine

set_option maxRecDepth 10000

theorem State.setMkr_keeps {s0 : State} (s : State) (n : Nat) (x : MarkSt) (h : Keeps s0 s) : Keeps s0 (State.setMkr s n x) := by
  unfold State.setMkr
  with_reducible apply Keeps.mk
  with_reducible assumption

theorem State.setLevel_keeps {s0 : State} (s : State) (n : Nat) (l : Bool) (h : Keeps s0 s) : Keeps s0 (State.setLevel s n l) := by
  unfold State.setLevel
  apply State.wr_keeps
  with_reducible assumption

theorem State.driveUpTo_keeps {s0 : State} (s : State) (n : Nat) (frm : Nat) (x : Nat) (cs : List (Nat × Bool)) (h : Keeps s0 s) : Keeps s0 (State.driveUpTo s n frm x cs) := by
  unfold State.driveUpTo
  refine Keeps.foldl ?_ fun x1 a1 h1 => ?_
  · with_reducible assumption
  · extract_lets +onlyGivenNames x3
    have h3 : Keeps s0 x3 := ?_
    · clear_value x3
      split
      · apply State.fireSAt_keeps
        with_reducible assumption
      · with_reducible assumption
    · subst x3
      apply State.setLevel_keeps
      with_reducible assumption

theorem State.noteEdges_keeps {s0 : State} (s : State) (n : Nat) (es : List MarkEdge) (h : Keeps s0 s) : Keeps s0 (State.noteEdges s n es) := by
  unfold State.noteEdges
  refine Keeps.foldl ?_ fun x1 a1 h1 => ?_
  · with_reducible assumption
  · apply State.noteEnd_keeps
    with_reducible assumption

theorem State.markRunTo_keeps {s0 : State} (s : State) (n : Nat) (to' : Nat) (h : Keeps s0 s) : Keeps s0 (State.markRunTo s n to') := by
  unfold State.markRunTo
  extract_lets +onlyGivenNames x1
  clear_value x1
  extract_lets +onlyGivenNames x2
  clear_value x2
  split
  · with_reducible assumption
  · split
    · extract_lets +onlyGivenNames x6
      clear_value x6
      apply State.noteEdges_keeps
      apply State.setMkr_keeps
      with_reducible assumption
    · extract_lets +onlyGivenNames x10
      have h10 : Keeps s0 x10 := ?_
      · clear_value x10
        extract_lets +onlyGivenNames x11
        clear_value x11
        apply State.noteEdges_keeps
        apply State.setMkr_keeps
        with_reducible assumption
      · subst x10
        refine Keeps.foldl ?_ fun x15 a15 h15 => ?_
        · with_reducible assumption
        · extract_lets +onlyGivenNames x17
          clear_value x17
          extract_lets +onlyGivenNames x18
          clear_value x18
          extract_lets +onlyGivenNames x19
          clear_value x19
          extract_lets +onlyGivenNames x20
          have h20 : Keeps s0 x20 := ?_
          · clear_value x20
            split
            · apply State.setF_keeps
              with_reducible assumption
            · with_reducible assumption
          · subst x20
            apply State.driveUpTo_keeps
            with_reducible assumption

theorem State.markRun_keeps {s0 : State} (s : State) (n : Nat) (h : Keeps s0 s) : Keeps s0 (State.markRun s n) := by
  unfold State.markRun
  apply State.markRunTo_keeps
  with_reducible assumption

theorem execMarkerEdge_keeps {s0 : State} (t : Nat) (n : Nat) (s : State) (h : Keeps s0 s) : KeepsOut s0 (execMarkerEdge t n s) := by
  unfold execMarkerEdge
  extract_lets +onlyGivenNames x1
  have h1 : Keeps s0 x1 := ?_
  · clear_value x1
    split
    · apply KeepsOut.next
      apply State.markRun_keeps
      with_reducible assumption
    · apply KeepsOut.next
      with_reducible assumption
  · subst x1
    apply State.at_keeps
    with_reducible assumption

theorem State.addEdge_keeps {s0 : State} (s : State) (n : Nat) (e : MarkEdge) (h : Keeps s0 s) : Keeps s0 (State.addEdge s n e) := by
  unfold State.addEdge
  extract_lets +onlyGivenNames x1
  clear_value x1
  split
  · with_reducible assumption
  · split
    · apply State.setF_keeps
      with_reducible assumption
    · apply State.setMkr_keeps
      with_reducible assumption

theorem State.placeSet_keeps {s0 : State} (s : State) (n : Nat) (set : Nat) (ts : Nat) (iss : Option Issue) (h : Keeps s0 s) : Keeps s0 (State.placeSet s n set ts iss) := by
  unfold State.placeSet
  extract_lets +onlyGivenNames x1
  clear_value x1
  extract_lets +onlyGivenNames x2
  clear_value x2
  extract_lets +onlyGivenNames x3
  have h3 : Keeps s0 x3 := ?_
  · clear_value x3
    split
    · apply State.addEdge_keeps
      with_reducible assumption
    · with_reducible assumption
  · subst x3
    split
    · apply State.addEdge_keeps
      with_reducible assumption
    · with_reducible assumption

theorem State.forceSet_keeps {s0 : State} (s : State) (n : Nat) (h : Keeps s0 s) : Keeps s0 (State.forceSet s n) := by
  unfold State.forceSet
  apply State.placeSet_keeps
  with_reducible assumption

theorem State.markForce_keeps {s0 : State} (s : State) (n : Nat) (h : Keeps s0 s) : Keeps s0 (State.markForce s n) := by
  unfold State.markForce
  split
  · apply State.wr_keeps
    with_reducible assumption
  · apply State.wr_keeps
    apply State.forceSet_keeps
    with_reducible assumption

theorem execMarkForce_keeps {s0 : State} (t : Nat) (n : Nat) (s : State) (h : Keeps s0 s) : KeepsOut s0 (execMarkForce t n s) := by
  unfold execMarkForce
  extract_lets +onlyGivenNames x1
  have h1 : Keeps s0 x1 := ?_
  · clear_value x1
    split
    · apply KeepsOut.next
      apply State.hostCmd_keeps
      · with_reducible assumption
      · intro y6_0 y6_1
        apply State.markForce_keeps
        with_reducible assumption
    · apply KeepsOut.next
      with_reducible assumption
  · subst x1
    apply State.at_keeps
    with_reducible assumption

theorem State.markLow_keeps {s0 : State} (s : State) (cause : Nat) (n : Nat) (h : Keeps s0 s) : Keeps s0 (State.markLow s cause n) := by
  unfold State.markLow
  apply State.setLevel_keeps
  apply State.setMkr_keeps
  with_reducible assumption

theorem State.markLowAll_keeps {s0 : State} (s : State) (cause : Nat) (h : Keeps s0 s) : Keeps s0 (State.markLowAll s cause) := by
  unfold State.markLowAll
  refine Keeps.foldl ?_ fun x1 a1 h1 => ?_
  · with_reducible assumption
  · apply State.markLow_keeps
    with_reducible assumption

theorem State.takeLevel_keeps {s0 : State} (s : State) (n : Nat) (b : Nat) (l : Bool) (h : Keeps s0 s) : Keeps s0 (State.takeLevel s n b l) := by
  unfold State.takeLevel
  extract_lets +onlyGivenNames x1
  clear_value x1
  extract_lets +onlyGivenNames x2
  have h2 : Keeps s0 x2 := ?_
  · clear_value x2
    split
    · apply State.fireSAt_keeps
      with_reducible assumption
    · with_reducible assumption
  · subst x2
    apply State.setLevel_keeps
    with_reducible assumption

theorem State.markFree_keeps {s0 : State} (s : State) (cause : Nat) (n : Nat) (h : Keeps s0 s) : Keeps s0 (State.markFree s cause n) := by
  unfold State.markFree
  extract_lets +onlyGivenNames x1
  clear_value x1
  split
  · extract_lets +onlyGivenNames x3
    have h3 : Keeps s0 x3 := ?_
    · clear_value x3
      split
      · apply State.takeLevel_keeps
        with_reducible assumption
      · with_reducible assumption
    · subst x3
      apply State.setMkr_keeps
      with_reducible assumption
  · with_reducible assumption

theorem State.markFreeAll_keeps {s0 : State} (s : State) (cause : Nat) (h : Keeps s0 s) : Keeps s0 (State.markFreeAll s cause) := by
  unfold State.markFreeAll
  refine Keeps.foldl ?_ fun x1 a1 h1 => ?_
  · with_reducible assumption
  · apply State.markFree_keeps
    with_reducible assumption

theorem State.markCancel_keeps {s0 : State} (s : State) (n : Nat) (gone : MarkEdge → Bool) (h : Keeps s0 s) : Keeps s0 (State.markCancel s n gone) := by
  unfold State.markCancel
  extract_lets +onlyGivenNames x1
  have h1 : Keeps s0 x1 := ?_
  · clear_value x1
    extract_lets +onlyGivenNames x2
    clear_value x2
    extract_lets +onlyGivenNames x3
    clear_value x3
    split
    · extract_lets +onlyGivenNames x5
      clear_value x5
      apply State.setMkr_keeps
      with_reducible assumption
    · apply State.setMkr_keeps
      with_reducible assumption
  · subst x1
    apply State.markRun_keeps
    with_reducible assumption

theorem State.newHold_keeps {s0 : State} (s : State) (n : Nat) (v : Nat) (b : Nat) (h : Keeps s0 s) : Keeps s0 (State.newHold s n v b) := by
  unfold State.newHold
  extract_lets +onlyGivenNames x1
  have h1 : Keeps s0 x1 := ?_
  · clear_value x1
    extract_lets +onlyGivenNames x2
    have h2 : Keeps s0 x2 := ?_
    · clear_value x2
      extract_lets +onlyGivenNames x3
      clear_value x3
      split
      · with_reducible assumption
      · apply State.takeLevel_keeps
        with_reducible assumption
    · subst x2
      apply State.awr_keeps
      with_reducible assumption
  · subst x1
    apply State.markRunTo_keeps
    with_reducible assumption

end Sys2Proof.Machine
end

