-- ==== Sys2Proof/Laws/KeepsLife.lean ====
section
/-! SUPPORT. What the definitions of Machine/Life.lean keep: one lemma each. -/

namespace Sys2Proof.Machine

set_option maxRecDepth 10000

theorem State.setLife_keeps {s0 : State} (s : State) (x : LifeSt) (h : Keeps s0 s) : Keeps s0 (State.setLife s x) := by
  unfold State.setLife
  with_reducible apply Keeps.mk
  with_reducible assumption

theorem State.account_keeps {s0 : State} (s : State) (h : Keeps s0 s) : Keeps s0 (State.account s) := by
  unfold State.account
  extract_lets +onlyGivenNames x1
  clear_value x1
  extract_lets +onlyGivenNames x2
  clear_value x2
  extract_lets +onlyGivenNames x3
  clear_value x3
  apply State.wr_keeps
  apply State.wr_keeps
  apply State.setLife_keeps
  with_reducible assumption

theorem State.captureCalendar_keeps {s0 : State} (s : State) (h : Keeps s0 s) : Keeps s0 (State.captureCalendar s) := by
  unfold State.captureCalendar
  extract_lets +onlyGivenNames x1
  clear_value x1
  extract_lets +onlyGivenNames x2
  clear_value x2
  extract_lets +onlyGivenNames x3
  clear_value x3
  extract_lets +onlyGivenNames x4
  have h4 : Keeps s0 x4 := ?_
  · clear_value x4
    extract_lets +onlyGivenNames x5
    have h5 : Keeps s0 x5 := ?_
    · clear_value x5
      extract_lets +onlyGivenNames x6
      have h6 : Keeps s0 x6 := ?_
      · clear_value x6
        apply State.wr_keeps
        apply State.wr_keeps
        apply State.wr_keeps
        with_reducible assumption
      · subst x6
        apply State.wr_keeps
        with_reducible assumption
    · subst x5
      apply State.wr_keeps
      apply State.wr_keeps
      apply State.wr_keeps
      with_reducible assumption
  · subst x4
    apply State.wr_keeps
    apply State.wr_keeps
    apply State.wr_keeps
    with_reducible assumption

theorem execCalendarRead_keeps {s0 : State} (t : Nat) (s : State) (h : Keeps s0 s) : KeepsOut s0 (execCalendarRead t s) := by
  unfold execCalendarRead
  extract_lets +onlyGivenNames x1
  have h1 : Keeps s0 x1 := ?_
  · clear_value x1
    split
    · apply KeepsOut.next
      apply State.hostCmd_keeps
      · with_reducible assumption
      · intro y6_0 y6_1
        apply State.captureCalendar_keeps
        with_reducible assumption
    · apply KeepsOut.next
      with_reducible assumption
  · subst x1
    apply State.at_keeps
    with_reducible assumption

theorem State.lifeAppend_keeps {s0 : State} (s : State) (kind : Nat) (page : Nat) (payload : Nat) (h : Keeps s0 s) : Keeps s0 (State.lifeAppend s kind page payload) := by
  unfold State.lifeAppend
  extract_lets +onlyGivenNames x1
  have h1 : Keeps s0 x1 := ?_
  · clear_value x1
    extract_lets +onlyGivenNames x2
    clear_value x2
    extract_lets +onlyGivenNames x3
    clear_value x3
    extract_lets +onlyGivenNames x4
    have h4 : Keeps s0 x4 := ?_
    · clear_value x4
      extract_lets +onlyGivenNames x5
      clear_value x5
      extract_lets +onlyGivenNames x6
      have h6 : Keeps s0 x6 := ?_
      · clear_value x6
        apply State.wr_keeps
        apply State.setLife_keeps
        with_reducible assumption
      · subst x6
        apply State.putFlash_keeps
        with_reducible assumption
    · subst x4
      split
      · apply State.eraseFlash_keeps
        with_reducible assumption
      · with_reducible assumption
  · subst x1
    apply State.account_keeps
    with_reducible assumption

theorem execLifePeriodic_keeps {s0 : State} (t : Nat) (s : State) (h : Keeps s0 s) : KeepsOut s0 (execLifePeriodic t s) := by
  unfold execLifePeriodic
  extract_lets +onlyGivenNames x1
  have h1 : Keeps s0 x1 := ?_
  · clear_value x1
    split
    · extract_lets +onlyGivenNames x3
      have h3 : Keeps s0 x3 := ?_
      · clear_value x3
        extract_lets +onlyGivenNames x4
        have h4 : Keeps s0 x4 := ?_
        · clear_value x4
          apply KeepsOut.next
          apply State.setLife_keeps
          with_reducible assumption
        · subst x4
          apply State.lifeAppend_keeps
          with_reducible assumption
      · subst x3
        apply State.account_keeps
        with_reducible assumption
    · apply KeepsOut.next
      with_reducible assumption
  · subst x1
    apply State.at_keeps
    with_reducible assumption

theorem State.lifeRd_keeps {s0 : State} (s : State) (h : Keeps s0 s) : Keeps s0 (State.lifeRd s) := by
  unfold State.lifeRd
  split
  · apply State.wr_keeps
    with_reducible assumption
  · split
    · apply State.wr_keeps
      with_reducible assumption
    · apply State.wr_keeps
      apply State.wr_keeps
      apply State.setLife_keeps
      with_reducible assumption

theorem execLifeRd_keeps {s0 : State} (t : Nat) (s : State) (h : Keeps s0 s) : KeepsOut s0 (execLifeRd t s) := by
  unfold execLifeRd
  extract_lets +onlyGivenNames x1
  have h1 : Keeps s0 x1 := ?_
  · clear_value x1
    split
    · apply KeepsOut.next
      apply State.hostCmd_keeps
      · with_reducible assumption
      · intro y6_0 y6_1
        apply State.lifeRd_keeps
        with_reducible assumption
    · apply KeepsOut.next
      with_reducible assumption
  · subst x1
    apply State.at_keeps
    with_reducible assumption

theorem execLifeRdDone_keeps {s0 : State} (t : Nat) (s : State) (h : Keeps s0 s) : KeepsOut s0 (execLifeRdDone t s) := by
  unfold execLifeRdDone
  extract_lets +onlyGivenNames x1
  have h1 : Keeps s0 x1 := ?_
  · clear_value x1
    split
    · apply KeepsOut.next
      with_reducible assumption
    · extract_lets +onlyGivenNames x5
      clear_value x5
      extract_lets +onlyGivenNames x6
      have h6 : Keeps s0 x6 := ?_
      · clear_value x6
        apply KeepsOut.next
        apply State.wr_keeps
        apply State.wr_keeps
        apply State.setLife_keeps
        with_reducible assumption
      · subst x6
        refine Keeps.foldl ?_ fun x12 a12 h12 => ?_
        · with_reducible assumption
        · apply State.wr_keeps
          with_reducible assumption
  · subst x1
    apply State.at_keeps
    with_reducible assumption

theorem State.restorePage_keeps {s0 : State} (s : State) (rs : List (Nat × Nat)) (page : Nat) (h : Keeps s0 s) : Keeps s0 (State.restorePage s rs page) := by
  unfold State.restorePage
  extract_lets +onlyGivenNames x1
  clear_value x1
  split
  · with_reducible assumption
  · extract_lets +onlyGivenNames x4
    clear_value x4
    refine Keeps.foldl ?_ fun x5 a5 h5 => ?_
    · with_reducible assumption
    · extract_lets +onlyGivenNames x7
      clear_value x7
      split
      · apply State.setLife_keeps
        with_reducible assumption
      · split
        · apply State.setLife_keeps
          with_reducible assumption
        · apply State.setLife_keeps
          with_reducible assumption

theorem State.lifeBoot_keeps {s0 : State} (s : State) (h : Keeps s0 s) : Keeps s0 (State.lifeBoot s) := by
  unfold State.lifeBoot
  extract_lets +onlyGivenNames x1
  clear_value x1
  split
  · apply State.setLife_keeps
    with_reducible assumption
  · extract_lets +onlyGivenNames x5
    clear_value x5
    extract_lets +onlyGivenNames x6
    clear_value x6
    extract_lets +onlyGivenNames x7
    clear_value x7
    extract_lets +onlyGivenNames x8
    have h8 : Keeps s0 x8 := ?_
    · clear_value x8
      apply State.wr_keeps
      refine Keeps.foldl ?_ fun x10 a10 h10 => ?_
      · with_reducible assumption
      · apply State.restorePage_keeps
        with_reducible assumption
    · subst x8
      apply State.setLife_keeps
      with_reducible assumption

theorem State.bootRecord_keeps {s0 : State} (s : State) (h : Keeps s0 s) : Keeps s0 (State.bootRecord s) := by
  unfold State.bootRecord
  extract_lets +onlyGivenNames x1
  have h1 : Keeps s0 x1 := ?_
  · clear_value x1
    extract_lets +onlyGivenNames x2
    clear_value x2
    extract_lets +onlyGivenNames x3
    have h3 : Keeps s0 x3 := ?_
    · clear_value x3
      apply State.lifeAppend_keeps
      with_reducible assumption
    · subst x3
      apply State.setLife_keeps
      with_reducible assumption
  · subst x1
    apply State.lifeAdd_keeps
    with_reducible assumption

end Sys2Proof.Machine
end

