-- ==== Sys2Proof/Laws/KeepsCalTable.lean ====
section
/-! SUPPORT. What the definitions of Machine/CalTable.lean keep: one lemma each. -/

namespace Sys2Proof.Machine

set_option maxRecDepth 10000

theorem State.setCal_keeps {s0 : State} (s : State) (x : CalSt) (h : Keeps s0 s) : Keeps s0 (State.setCal s x) := by
  unfold State.setCal
  with_reducible apply Keeps.mk
  with_reducible assumption

theorem State.deriveMark_keeps {s0 : State} (s : State) (n : Nat) (h : Keeps s0 s) : Keeps s0 (State.deriveMark s n) := by
  unfold State.deriveMark
  split
  · with_reducible assumption
  · extract_lets +onlyGivenNames x3
    clear_value x3
    extract_lets +onlyGivenNames x4
    clear_value x4
    apply State.both_keeps
    with_reducible assumption

theorem State.setFrac_keeps {s0 : State} (s : State) (k : Nat) (h : Keeps s0 s) : Keeps s0 (State.setFrac s k) := by
  unfold State.setFrac
  split
  · with_reducible assumption
  · apply State.both_keeps
    with_reducible assumption

theorem State.calDerive_keeps {s0 : State} (s : State) (x : Nat) (h : Keeps s0 s) : Keeps s0 (State.calDerive s x) := by
  unfold State.calDerive
  split
  · split
    · apply State.setFrac_keeps
      with_reducible assumption
    · with_reducible assumption
  · split
    · with_reducible assumption
    · split
      · split
        · with_reducible assumption
        · apply State.both_keeps
          with_reducible assumption
      · split
        · extract_lets +onlyGivenNames x14
          clear_value x14
          extract_lets +onlyGivenNames x15
          clear_value x15
          split
          · with_reducible assumption
          · split
            · apply State.both_keeps
              with_reducible assumption
            · apply State.both_keeps
              with_reducible assumption
        · split
          · apply State.deriveMark_keeps
            with_reducible assumption
          · with_reducible assumption

theorem State.calSet_keeps {s0 : State} (s : State) (x : Nat) (v : Int) (h : Keeps s0 s) : Keeps s0 (State.calSet s x v) := by
  unfold State.calSet
  apply State.calDerive_keeps
  apply State.wr_keeps
  with_reducible assumption

theorem State.calApply_keeps {s0 : State} (s : State) (x : Nat) (v : Int) (h : Keeps s0 s) : Keeps s0 (State.calApply s x v) := by
  unfold State.calApply
  extract_lets +onlyGivenNames x1
  clear_value x1
  extract_lets +onlyGivenNames x2
  have h2 : Keeps s0 x2 := ?_
  · clear_value x2
    apply State.calSet_keeps
    apply State.wr_keeps
    with_reducible assumption
  · subst x2
    apply State.setCal_keeps
    with_reducible assumption

theorem State.rampStep_keeps {s0 : State} (s : State) (e : Nat × Ramp) (h : Keeps s0 s) : Keeps s0 (State.rampStep s e) := by
  unfold State.rampStep
  extract_lets +onlyGivenNames x1
  clear_value x1
  extract_lets +onlyGivenNames x2
  clear_value x2
  extract_lets +onlyGivenNames x3
  clear_value x3
  extract_lets +onlyGivenNames x4
  have h4 : Keeps s0 x4 := ?_
  · clear_value x4
    apply State.calSet_keeps
    with_reducible assumption
  · subst x4
    apply State.setCal_keeps
    with_reducible assumption

theorem State.askCal_keeps {s0 : State} (s : State) (n : Nat) (pend : Bool) (h : Keeps s0 s) : Keeps s0 (State.askCal s n pend) := by
  unfold State.askCal
  split
  · apply State.setSeq_keeps
    with_reducible assumption
  · with_reducible assumption

theorem State.calMeasured_keeps {s0 : State} (s : State) (x : Nat) (v : Int) (h : Keeps s0 s) : Keeps s0 (State.calMeasured s x v) := by
  unfold State.calMeasured
  extract_lets +onlyGivenNames x1
  clear_value x1
  split
  · apply State.calApply_keeps
    with_reducible assumption
  · split
    · apply State.calApply_keeps
      with_reducible assumption
    · extract_lets +onlyGivenNames x8
      have h8 : Keeps s0 x8 := ?_
      · clear_value x8
        extract_lets +onlyGivenNames x9
        clear_value x9
        extract_lets +onlyGivenNames x10
        clear_value x10
        extract_lets +onlyGivenNames x11
        clear_value x11
        extract_lets +onlyGivenNames x12
        clear_value x12
        split
        · apply State.setCal_keeps
          with_reducible assumption
        · extract_lets +onlyGivenNames x16
          clear_value x16
          extract_lets +onlyGivenNames x17
          have h17 : Keeps s0 x17 := ?_
          · clear_value x17
            extract_lets +onlyGivenNames x18
            have h18 : Keeps s0 x18 := ?_
            · clear_value x18
              split
              · apply State.fireD_keeps
                apply State.setF_keeps
                with_reducible assumption
              · with_reducible assumption
            · subst x18
              apply State.askCal_keeps
              with_reducible assumption
          · subst x17
            apply State.setCal_keeps
            with_reducible assumption
      · subst x8
        apply State.wr_keeps
        with_reducible assumption

theorem State.calSteps_keeps {s0 : State} (s : State) (n : Nat) (h : Keeps s0 s) : Keeps s0 (State.calSteps s n) := by
  unfold State.calSteps
  extract_lets +onlyGivenNames x1
  have h1 : Keeps s0 x1 := ?_
  · clear_value x1
    refine Keeps.foldl ?_ fun x2 a2 h2 => ?_
    · with_reducible assumption
    · apply State.setFrac_keeps
      with_reducible assumption
  · subst x1
    refine Keeps.foldl ?_ fun x6 a6 h6 => ?_
    · with_reducible assumption
    · apply State.rampStep_keeps
      with_reducible assumption

theorem State.acceptPair_keeps {s0 : State} (s : State) (item : Nat) (a : List Int) (b : List Int) (h : Keeps s0 s) : Keeps s0 (State.acceptPair s item a b) := by
  unfold State.acceptPair
  split
  · extract_lets +onlyGivenNames x2
    clear_value x2
    refine Keeps.foldl ?_ fun x3 a3 h3 => ?_
    · with_reducible assumption
    · apply State.calApply_keeps
      with_reducible assumption
  · refine Keeps.foldl ?_ fun x7 a7 h7 => ?_
    · with_reducible assumption
    · apply State.calMeasured_keeps
      with_reducible assumption

theorem State.calDisagree_keeps {s0 : State} (s : State) (idx : Nat) (h : Keeps s0 s) : Keeps s0 (State.calDisagree s idx) := by
  unfold State.calDisagree
  extract_lets +onlyGivenNames x1
  have h1 : Keeps s0 x1 := ?_
  · clear_value x1
    apply State.fireD_keeps
    apply State.lifeAdd_keeps
    apply State.wr_keeps
    with_reducible assumption
  · subst x1
    apply State.incSat_keeps
    apply State.setF_keeps
    with_reducible assumption

theorem State.measurePairs_keeps {s0 : State} (s : State) (item : Nat) (a_____internal__hyg_0 : Nat) (a_____internal__hyg_03 : List (List Int × List Int)) (h : Keeps s0 s) : Keeps s0 (State.measurePairs s item a_____internal__hyg_0 a_____internal__hyg_03) := by
  unfold State.measurePairs
  split
  · with_reducible assumption
  · split
    · apply State.acceptPair_keeps
      with_reducible assumption
    · split
      · apply State.measurePairs_keeps
        with_reducible assumption
      · apply State.calDisagree_keeps
        with_reducible assumption

theorem State.endPass_keeps {s0 : State} (s : State) (h : Keeps s0 s) : Keeps s0 (State.endPass s) := by
  unfold State.endPass
  extract_lets +onlyGivenNames x1
  have h1 : Keeps s0 x1 := ?_
  · clear_value x1
    apply State.fireD_keeps
    apply State.setCal_keeps
    with_reducible assumption
  · subst x1
    apply State.lifeAdd_keeps
    apply State.incSat_keeps
    apply State.wr_keeps
    with_reducible assumption

theorem State.itemDone_keeps {s0 : State} (s : State) (item : Nat) (h : Keeps s0 s) : Keeps s0 (State.itemDone s item) := by
  unfold State.itemDone
  split
  · extract_lets +onlyGivenNames x2
    clear_value x2
    extract_lets +onlyGivenNames x3
    have h3 : Keeps s0 x3 := ?_
    · clear_value x3
      split
      · apply State.endPass_keeps
        with_reducible assumption
      · with_reducible assumption
    · subst x3
      apply State.setCal_keeps
      with_reducible assumption
  · with_reducible assumption

end Sys2Proof.Machine
end

