-- ==== Sys2Proof/Laws/KeepsStamp.lean ====
section
/-! SUPPORT. What the definitions of Machine/Stamp.lean keep: one lemma each. -/

namespace Sys2Proof.Machine

set_option maxRecDepth 10000

theorem State.setStamp_keeps {s0 : State} (s : State) (i : Nat) (x : StampSt) (h : Keeps s0 s) : Keeps s0 (State.setStamp s i x) := by
  unfold State.setStamp
  with_reducible apply Keeps.mk
  with_reducible assumption

theorem State.setUnit_keeps {s0 : State} (s : State) (u : Nat) (x : MeasSt) (h : Keeps s0 s) : Keeps s0 (State.setUnit s u x) := by
  unfold State.setUnit
  with_reducible apply Keeps.mk
  with_reducible assumption

theorem State.postMeas_keeps {s0 : State} (s : State) (u : Nat) (code : Nat) (value : Option Nat) (h : Keeps s0 s) : Keeps s0 (State.postMeas s u code value) := by
  unfold State.postMeas
  extract_lets +onlyGivenNames x1
  clear_value x1
  extract_lets +onlyGivenNames x2
  have h2 : Keeps s0 x2 := ?_
  · clear_value x2
    extract_lets +onlyGivenNames x3
    have h3 : Keeps s0 x3 := ?_
    · clear_value x3
      split
      · with_reducible assumption
      · extract_lets +onlyGivenNames x6
        have h6 : Keeps s0 x6 := ?_
        · clear_value x6
          extract_lets +onlyGivenNames x7
          have h7 : Keeps s0 x7 := ?_
          · clear_value x7
            apply State.setUnit_keeps
            with_reducible assumption
          · subst x7
            apply State.wr_keeps
            apply State.wr_keeps
            with_reducible assumption
        · subst x6
          split
          · apply State.setF_keeps
            with_reducible assumption
          · with_reducible assumption
    · subst x3
      apply State.fireD_keeps
      with_reducible assumption
  · subst x2
    apply State.wr_keeps
    with_reducible assumption

theorem State.idleUnit_keeps {s0 : State} (s : State) (u : Nat) (h : Keeps s0 s) : Keeps s0 (State.idleUnit s u) := by
  unfold State.idleUnit
  apply State.setUnit_keeps
  apply State.wr_keeps
  with_reducible assumption

theorem State.abortUnit_keeps {s0 : State} (s : State) (u : Nat) (h : Keeps s0 s) : Keeps s0 (State.abortUnit s u) := by
  unfold State.abortUnit
  split
  · apply State.idleUnit_keeps
    apply State.wr_keeps
    with_reducible assumption
  · with_reducible assumption

theorem State.stopUnit_keeps {s0 : State} (s : State) (u : Nat) (h : Keeps s0 s) : Keeps s0 (State.stopUnit s u) := by
  unfold State.stopUnit
  split
  · apply State.abortUnit_keeps
    with_reducible assumption
  · apply State.wr_keeps
    with_reducible assumption

theorem State.abortUnits_keeps {s0 : State} (s : State) (h : Keeps s0 s) : Keeps s0 (State.abortUnits s) := by
  unfold State.abortUnits
  refine Keeps.foldl ?_ fun x1 a1 h1 => ?_
  · with_reducible assumption
  · apply State.abortUnit_keeps
    with_reducible assumption

theorem State.cdTakes_keeps {s0 : State} (s : State) (i : Nat) (h : Keeps s0 s) : Keeps s0 (State.cdTakes s i) := by
  unfold State.cdTakes
  refine Keeps.foldl ?_ fun x1 a1 h1 => ?_
  · with_reducible assumption
  · split
    · apply State.abortUnit_keeps
      with_reducible assumption
    · with_reducible assumption

theorem State.unitsSee_keeps {s0 : State} (s : State) (src : Nat) (y : Option Nat) (h : Keeps s0 s) : Keeps s0 (State.unitsSee s src y) := by
  unfold State.unitsSee
  refine Keeps.foldl ?_ fun x1 a1 h1 => ?_
  · with_reducible assumption
  · split
    · with_reducible assumption
    · extract_lets +onlyGivenNames x5
      clear_value x5
      split
      · apply State.setUnit_keeps
        with_reducible assumption
      · split
        · apply State.setUnit_keeps
          with_reducible assumption
        · with_reducible assumption

theorem State.measGo_keeps {s0 : State} (s : State) (u : Nat) (h : Keeps s0 s) : Keeps s0 (State.measGo s u) := by
  unfold State.measGo
  extract_lets +onlyGivenNames x1
  clear_value x1
  extract_lets +onlyGivenNames x2
  clear_value x2
  extract_lets +onlyGivenNames x3
  clear_value x3
  extract_lets +onlyGivenNames x4
  clear_value x4
  extract_lets +onlyGivenNames x5
  clear_value x5
  split
  · apply State.wr_keeps
    with_reducible assumption
  · split
    · apply State.wr_keeps
      with_reducible assumption
    · apply State.setUnit_keeps
      apply State.wr_keeps
      apply State.wr_keeps
      with_reducible assumption

theorem execMeasurementGo_keeps {s0 : State} (t : Nat) (u : Nat) (s : State) (h : Keeps s0 s) : KeepsOut s0 (execMeasurementGo t u s) := by
  unfold execMeasurementGo
  extract_lets +onlyGivenNames x1
  have h1 : Keeps s0 x1 := ?_
  · clear_value x1
    split
    · apply KeepsOut.next
      apply State.hostCmd_keeps
      · with_reducible assumption
      · intro y6_0 y6_1
        apply State.measGo_keeps
        with_reducible assumption
    · apply KeepsOut.next
      with_reducible assumption
  · subst x1
    apply State.at_keeps
    with_reducible assumption

theorem execMeasurementStop_keeps {s0 : State} (t : Nat) (u : Nat) (s : State) (h : Keeps s0 s) : KeepsOut s0 (execMeasurementStop t u s) := by
  unfold execMeasurementStop
  extract_lets +onlyGivenNames x1
  have h1 : Keeps s0 x1 := ?_
  · clear_value x1
    split
    · apply KeepsOut.next
      apply State.hostCmd_keeps
      · with_reducible assumption
      · intro y6_0 y6_1
        apply State.stopUnit_keeps
        with_reducible assumption
    · apply KeepsOut.next
      with_reducible assumption
  · subst x1
    apply State.at_keeps
    with_reducible assumption

theorem State.rearm_keeps {s0 : State} (s : State) (u : Nat) (from' : Nat) (h : Keeps s0 s) : Keeps s0 (State.rearm s u from') := by
  unfold State.rearm
  extract_lets +onlyGivenNames x1
  clear_value x1
  split
  · extract_lets +onlyGivenNames x3
    clear_value x3
    split
    · apply State.setUnit_keeps
      with_reducible assumption
    · apply State.setUnit_keeps
      with_reducible assumption
  · apply State.idleUnit_keeps
    with_reducible assumption

theorem execIntervalResult_keeps {s0 : State} (t : Nat) (u : Nat) (s : State) (h : Keeps s0 s) : KeepsOut s0 (execIntervalResult t u s) := by
  unfold execIntervalResult
  extract_lets +onlyGivenNames x1
  have h1 : Keeps s0 x1 := ?_
  · clear_value x1
    extract_lets +onlyGivenNames x2
    clear_value x2
    split
    · split
      · apply KeepsOut.next
        apply State.rearm_keeps
        apply State.postMeas_keeps
        with_reducible assumption
      · apply KeepsOut.next
        with_reducible assumption
    · apply KeepsOut.next
      with_reducible assumption
  · subst x1
    apply State.at_keeps
    with_reducible assumption

theorem execIntervalTimeout_keeps {s0 : State} (t : Nat) (u : Nat) (s : State) (h : Keeps s0 s) : KeepsOut s0 (execIntervalTimeout t u s) := by
  unfold execIntervalTimeout
  extract_lets +onlyGivenNames x1
  have h1 : Keeps s0 x1 := ?_
  · clear_value x1
    extract_lets +onlyGivenNames x2
    clear_value x2
    split
    · split
      · apply KeepsOut.next
        apply State.rearm_keeps
        apply State.postMeas_keeps
        with_reducible assumption
      · apply KeepsOut.next
        with_reducible assumption
    · apply KeepsOut.next
      with_reducible assumption
  · subst x1
    apply State.at_keeps
    with_reducible assumption

theorem execFrequencyGateEnd_keeps {s0 : State} (t : Nat) (u : Nat) (s : State) (h : Keeps s0 s) : KeepsOut s0 (execFrequencyGateEnd t u s) := by
  unfold execFrequencyGateEnd
  extract_lets +onlyGivenNames x1
  have h1 : Keeps s0 x1 := ?_
  · clear_value x1
    extract_lets +onlyGivenNames x2
    clear_value x2
    split
    · extract_lets +onlyGivenNames x4
      have h4 : Keeps s0 x4 := ?_
      · clear_value x4
        apply KeepsOut.next
        apply State.idleUnit_keeps
        split
        · apply State.postMeas_keeps
          with_reducible assumption
        · apply State.postMeas_keeps
          with_reducible assumption
      · subst x4
        apply State.wr_keeps
        with_reducible assumption
    · apply KeepsOut.next
      with_reducible assumption
  · subst x1
    apply State.at_keeps
    with_reducible assumption

theorem State.deliver_keeps {s0 : State} (s : State) (i : Nat) (y : Nat) (h : Keeps s0 s) : Keeps s0 (State.deliver s i y) := by
  unfold State.deliver
  extract_lets +onlyGivenNames x1
  clear_value x1
  extract_lets +onlyGivenNames x2
  have h2 : Keeps s0 x2 := ?_
  · clear_value x2
    extract_lets +onlyGivenNames x3
    have h3 : Keeps s0 x3 := ?_
    · clear_value x3
      split
      · extract_lets +onlyGivenNames x5
        have h5 : Keeps s0 x5 := ?_
        · clear_value x5
          apply State.fireD_keeps
          apply State.wr_keeps
          with_reducible assumption
        · subst x5
          apply State.wr_keeps
          apply State.wr_keeps
          with_reducible assumption
      · with_reducible assumption
    · subst x3
      apply State.unitsSee_keeps
      with_reducible assumption
  · subst x2
    apply State.setStamp_keeps
    with_reducible assumption

theorem State.takeEdge_keeps {s0 : State} (s : State) (i : Nat) (y : Nat) (rising : Bool) (h : Keeps s0 s) : Keeps s0 (State.takeEdge s i y rising) := by
  unfold State.takeEdge
  extract_lets +onlyGivenNames x1
  clear_value x1
  extract_lets +onlyGivenNames x2
  clear_value x2
  split
  · split
    · apply State.incSat_keeps
      with_reducible assumption
    · split
      · with_reducible assumption
      · split
        · with_reducible assumption
        · extract_lets +onlyGivenNames x11
          have h11 : Keeps s0 x11 := ?_
          · clear_value x11
            split
            · apply State.deliver_keeps
              apply State.setStamp_keeps
              with_reducible assumption
            · extract_lets +onlyGivenNames x16
              have h16 : Keeps s0 x16 := ?_
              · clear_value x16
                apply State.unitsSee_keeps
                with_reducible assumption
              · subst x16
                split
                · apply State.setBit_keeps
                  apply State.incSat_keeps
                  with_reducible assumption
                · with_reducible assumption
          · subst x11
            apply State.setStamp_keeps
            with_reducible assumption
  · split
    · apply State.incSat_keeps
      with_reducible assumption
    · split
      · with_reducible assumption
      · split
        · with_reducible assumption
        · extract_lets +onlyGivenNames x33
          have h33 : Keeps s0 x33 := ?_
          · clear_value x33
            split
            · apply State.deliver_keeps
              apply State.setStamp_keeps
              with_reducible assumption
            · extract_lets +onlyGivenNames x38
              have h38 : Keeps s0 x38 := ?_
              · clear_value x38
                apply State.unitsSee_keeps
                with_reducible assumption
              · subst x38
                split
                · apply State.setBit_keeps
                  apply State.incSat_keeps
                  with_reducible assumption
                · with_reducible assumption
          · subst x33
            apply State.setStamp_keeps
            with_reducible assumption

theorem State.stampFollow_keeps {s0 : State} (s : State) (i : Nat) (mv : Int) (h : Keeps s0 s) : Keeps s0 (State.stampFollow s i mv) := by
  unfold State.stampFollow
  split
  · apply State.setStamp_keeps
    with_reducible assumption
  · with_reducible assumption

theorem execStampEdge_keeps {s0 : State} (t : Nat) (input : Nat) (mv : Int) (code : Nat) (s : State) (h : Keeps s0 s) : KeepsOut s0 (execStampEdge t input mv code s) := by
  unfold execStampEdge
  extract_lets +onlyGivenNames x1
  have h1 : Keeps s0 x1 := ?_
  · clear_value x1
    extract_lets +onlyGivenNames x2
    clear_value x2
    split
    · split
      · apply KeepsOut.next
        apply State.takeEdge_keeps
        with_reducible assumption
      · apply KeepsOut.next
        with_reducible assumption
    · extract_lets +onlyGivenNames x10
      have h10 : Keeps s0 x10 := ?_
      · clear_value x10
        extract_lets +onlyGivenNames x11
        clear_value x11
        split
        · apply KeepsOut.next
          apply State.takeEdge_keeps
          with_reducible assumption
        · apply KeepsOut.next
          with_reducible assumption
      · subst x10
        apply State.stampFollow_keeps
        with_reducible assumption
  · subst x1
    apply State.at_keeps
    with_reducible assumption

theorem State.stampRetune_keeps {s0 : State} (s : State) (i : Nat) (h : Keeps s0 s) : Keeps s0 (State.stampRetune s i) := by
  unfold State.stampRetune
  split
  · apply State.stampFollow_keeps
    with_reducible assumption
  · with_reducible assumption

theorem State.stampEnabled_keeps {s0 : State} (s : State) (i : Nat) (h : Keeps s0 s) : Keeps s0 (State.stampEnabled s i) := by
  unfold State.stampEnabled
  apply State.setStamp_keeps
  with_reducible assumption

theorem State.setLut_keeps {s0 : State} (s : State) (i : Nat) (l : List Nat) (h : Keeps s0 s) : Keeps s0 (State.setLut s i l) := by
  unfold State.setLut
  refine Keeps.foldl ?_ fun x1 a1 h1 => ?_
  · with_reducible assumption
  · apply State.calApply_keeps
    with_reducible assumption

theorem State.deriveStamps_keeps {s0 : State} (s : State) (h : Keeps s0 s) : Keeps s0 (State.deriveStamps s) := by
  unfold State.deriveStamps
  split
  · with_reducible assumption
  · refine Keeps.foldl ?_ fun x3 a3 h3 => ?_
    · with_reducible assumption
    · extract_lets +onlyGivenNames x5
      have h5 : Keeps s0 x5 := ?_
      · clear_value x5
        refine Keeps.foldl ?_ fun x6 a6 h6 => ?_
        · with_reducible assumption
        · apply State.both_keeps
          with_reducible assumption
      · subst x5
        apply State.stampRetune_keeps
        apply State.both_keeps
        apply State.both_keeps
        with_reducible assumption

end Sys2Proof.Machine
end

