-- ==== Sys2Proof/Laws/KeepsLinks.lean ====
section
/-! SUPPORT. What the definitions of Machine/Links.lean keep: one lemma each. -/

namespace Sys2Proof.Machine

set_option maxRecDepth 10000

theorem State.linkEvent_keeps {s0 : State} (s : State) (p : Nat) (h : Keeps s0 s) : Keeps s0 (State.linkEvent s p) := by
  unfold State.linkEvent
  apply State.fireD_keeps
  with_reducible assumption

theorem State.queueOut_keeps {s0 : State} (s : State) (p : Nat) (x : Pkt) (h : Keeps s0 s) : Keeps s0 (State.queueOut s p x) := by
  unfold State.queueOut
  apply State.setPort_keeps
  with_reducible assumption

theorem State.sendSwarm_keeps {s0 : State} (s : State) (p : Nat) (m : SwarmMsg) (h : Keeps s0 s) : Keeps s0 (State.sendSwarm s p m) := by
  unfold State.sendSwarm
  split
  · apply State.queueOut_keeps
    with_reducible assumption
  · with_reducible assumption

theorem State.sendTo_keeps {s0 : State} (s : State) (m : SwarmMsg) (h : Keeps s0 s) : Keeps s0 (State.sendTo s m) := by
  unfold State.sendTo
  split
  · with_reducible assumption
  · apply State.sendSwarm_keeps
    with_reducible assumption

theorem State.floodOut_keeps {s0 : State} (s : State) (m : SwarmMsg) (but : Option Nat) (h : Keeps s0 s) : Keeps s0 (State.floodOut s m but) := by
  unfold State.floodOut
  extract_lets +onlyGivenNames x1
  clear_value x1
  extract_lets +onlyGivenNames x2
  have h2 : Keeps s0 x2 := ?_
  · clear_value x2
    refine Keeps.foldl ?_ fun x3 a3 h3 => ?_
    · with_reducible assumption
    · split
      · with_reducible assumption
      · apply State.sendSwarm_keeps
        with_reducible assumption
  · subst x2
    with_reducible apply Keeps.mk
    with_reducible assumption

theorem State.takePkt_keeps {s0 s u : State} {p : Nat} {ok : Pkt → Bool} {x : Pkt} (h : Keeps s0 s)
    (e : s.takePkt p ok = some (x, u)) : Keeps s0 u := by
  unfold State.takePkt at e
  split at e
  · cases e
  · cases e
    exact State.setPort_keeps _ _ _ h


theorem State.takeSwarm_keeps {s0 s u : State} {p k : Nat} {x : SwarmMsg} (h : Keeps s0 s)
    (e : s.takeSwarm p k = some (x, u)) : Keeps s0 u := by
  unfold State.takeSwarm at e
  split at e
  · cases e
  · rename_i f
    cases e
    exact State.takePkt_keeps h f


end Sys2Proof.Machine
end

