-- ==== Sys2Proof/Laws/KeepsTxn.lean ====
section
/-! SUPPORT. What the definitions of Machine/Txn.lean keep: one lemma each. -/

namespace Sys2Proof.Machine

set_option maxRecDepth 10000

theorem State.setTxn_keeps {s0 : State} (s : State) (x : Nat) (v : TxnSt) (h : Keeps s0 s) : Keeps s0 (State.setTxn s x v) := by
  unfold State.setTxn
  with_reducible apply Keeps.mk
  with_reducible assumption

theorem State.setTxnState_keeps {s0 : State} (s : State) (x : Nat) (v : Nat) (h : Keeps s0 s) : Keeps s0 (State.setTxnState s x v) := by
  unfold State.setTxnState
  apply State.wr_keeps
  with_reducible assumption

theorem State.freeTxn_keeps {s0 : State} (s : State) (x : Nat) (code : Nat) (h : Keeps s0 s) : Keeps s0 (State.freeTxn s x code) := by
  unfold State.freeTxn
  apply State.setTxn_keeps
  apply State.wr_keeps
  apply State.wr_keeps
  apply State.wr_keeps
  apply State.setTxnState_keeps
  with_reducible assumption

theorem State.addEntry_keeps {s0 : State} (s : State) (x : Nat) (e : Entry) (h : Keeps s0 s) : Keeps s0 (State.addEntry s x e) := by
  unfold State.addEntry
  extract_lets +onlyGivenNames x1
  clear_value x1
  extract_lets +onlyGivenNames x2
  have h2 : Keeps s0 x2 := ?_
  · clear_value x2
    apply State.wr_keeps
    apply State.setTxn_keeps
    with_reducible assumption
  · subst x2
    apply State.cleanChunk_keeps
    with_reducible assumption

theorem State.txnOpen_keeps {s0 : State} (s : State) (h : Keeps s0 s) : Keeps s0 (State.txnOpen s) := by
  unfold State.txnOpen
  extract_lets +onlyGivenNames x1
  clear_value x1
  split
  · apply State.wr_keeps
    apply State.setTxnState_keeps
    apply State.setTxn_keeps
    with_reducible assumption
  · apply State.wr_keeps
    with_reducible assumption

theorem State.txnStage_keeps {s0 : State} (s : State) (h : Keeps s0 s) : Keeps s0 (State.txnStage s) := by
  unfold State.txnStage
  extract_lets +onlyGivenNames x1
  clear_value x1
  extract_lets +onlyGivenNames x2
  clear_value x2
  extract_lets +onlyGivenNames x3
  clear_value x3
  extract_lets +onlyGivenNames x4
  clear_value x4
  split
  · apply State.wr_keeps
    with_reducible assumption
  · split
    · apply State.wr_keeps
      with_reducible assumption
    · apply State.wr_keeps
      apply State.addEntry_keeps
      with_reducible assumption

theorem execTxnOpen_keeps {s0 : State} (t : Nat) (s : State) (h : Keeps s0 s) : KeepsOut s0 (execTxnOpen t s) := by
  unfold execTxnOpen
  extract_lets +onlyGivenNames x1
  have h1 : Keeps s0 x1 := ?_
  · clear_value x1
    split
    · apply KeepsOut.next
      apply State.hostCmd_keeps
      · with_reducible assumption
      · intro y6_0 y6_1
        apply State.txnOpen_keeps
        with_reducible assumption
    · apply KeepsOut.next
      with_reducible assumption
  · subst x1
    apply State.at_keeps
    with_reducible assumption

theorem execTxnStage_keeps {s0 : State} (t : Nat) (s : State) (h : Keeps s0 s) : KeepsOut s0 (execTxnStage t s) := by
  unfold execTxnStage
  extract_lets +onlyGivenNames x1
  have h1 : Keeps s0 x1 := ?_
  · clear_value x1
    split
    · apply KeepsOut.next
      apply State.hostCmd_keeps
      · with_reducible assumption
      · intro y6_0 y6_1
        apply State.txnStage_keeps
        with_reducible assumption
    · apply KeepsOut.next
      with_reducible assumption
  · subst x1
    apply State.at_keeps
    with_reducible assumption

theorem State.txnOutcome_keeps {s0 : State} (s : State) (es : List Entry) (h : Keeps s0 s) : Keeps s0 (State.txnOutcome s es) := by
  unfold State.txnOutcome
  apply State.fireD_keeps
  refine Keeps.foldl ?_ fun x2 a2 h2 => ?_
  · with_reducible assumption
  · split
    · apply State.raiseInt_keeps
      with_reducible assumption
    · with_reducible assumption

theorem State.readStage_keeps {s0 : State} (s : State) (x : Nat) (h : Keeps s0 s) : Keeps s0 (State.readStage s x).2 := by
  unfold State.readStage
  apply State.meetAll_keeps
  with_reducible assumption

theorem State.fixTxns_keeps {s0 : State} (s : State) (n : Nat) (h : Keeps s0 s) : Keeps s0 (State.fixTxns s n) := by
  unfold State.fixTxns
  refine Keeps.foldl ?_ fun x1 a1 h1 => ?_
  · with_reducible assumption
  · extract_lets +onlyGivenNames x3
    clear_value x3
    split
    · apply State.setTxn_keeps
      with_reducible assumption
    · with_reducible assumption

theorem State.requestCommit_keeps {s0 : State} (s : State) (x : Nat) (mode : Nat) (t : Nat) (only : Option Nat) (iss : Option (Nat × Issue)) (h : Keeps s0 s) : Keeps s0 (State.requestCommit s x mode t only iss).2 := by
  unfold State.requestCommit
  split
  · apply Keeps.mk2
    with_reducible assumption
  · split
    · apply Keeps.mk2
      with_reducible assumption
    · split
      · apply Keeps.mk2
        apply State.freeTxn_keeps
        apply State.readStage_keeps
        with_reducible assumption
      · extract_lets +onlyGivenNames x12
        have h12 : Keeps s0 x12 := ?_
        · extract_lets +onlyGivenNames x13
          clear_value x13
          extract_lets +onlyGivenNames x14
          clear_value x14
          extract_lets +onlyGivenNames x15
          clear_value x15
          extract_lets +onlyGivenNames x16
          have h16 : Keeps s0 x16 := ?_
          · split
            · extract_lets +onlyGivenNames x18
              clear_value x18
              extract_lets +onlyGivenNames x19
              have h19 : Keeps s0 x19 := ?_
              · clear_value x19
                apply Keeps.mk2
                apply State.setTxnState_keeps
                apply State.setTxn_keeps
                with_reducible assumption
              · subst x19
                split
                · apply State.wr_keeps
                  apply State.wr_keeps
                  with_reducible assumption
                · with_reducible assumption
            · split
              · split
                · apply Keeps.mk2
                  apply State.setF_keeps
                  apply State.setTxnState_keeps
                  apply State.setTxn_keeps
                  with_reducible assumption
                · apply Keeps.mk2
                  apply State.setTxnState_keeps
                  apply State.setTxn_keeps
                  with_reducible assumption
              · apply Keeps.mk2
                apply State.setTxnState_keeps
                apply State.setTxn_keeps
                with_reducible assumption
          · subst x16
            with_reducible apply Keeps.mk
            with_reducible assumption
        · subst x12
          apply State.readStage_keeps
          with_reducible assumption

theorem State.txnCommit_keeps {s0 : State} (s : State) (h : Keeps s0 s) : Keeps s0 (State.txnCommit s) := by
  unfold State.txnCommit
  extract_lets +onlyGivenNames x1
  have h1 : Keeps s0 x1.2 := ?_
  · clear_value x1
    apply State.wr_keeps
    with_reducible assumption
  · subst x1
    apply State.requestCommit_keeps
    with_reducible assumption

theorem execTxnCommit_keeps {s0 : State} (t : Nat) (s : State) (h : Keeps s0 s) : KeepsOut s0 (execTxnCommit t s) := by
  unfold execTxnCommit
  extract_lets +onlyGivenNames x1
  have h1 : Keeps s0 x1 := ?_
  · clear_value x1
    split
    · apply KeepsOut.next
      apply State.hostCmd_keeps
      · with_reducible assumption
      · intro y6_0 y6_1
        apply State.txnCommit_keeps
        with_reducible assumption
    · apply KeepsOut.next
      with_reducible assumption
  · subst x1
    apply State.at_keeps
    with_reducible assumption

theorem State.abortTxn_keeps {s0 : State} (s : State) (x : Nat) (h : Keeps s0 s) : Keeps s0 (State.abortTxn s x).2 := by
  unfold State.abortTxn
  split
  · extract_lets +onlyGivenNames x2
    clear_value x2
    apply Keeps.mk2
    apply State.txnOutcome_keeps
    apply State.freeTxn_keeps
    with_reducible assumption
  · apply Keeps.mk2
    with_reducible assumption

theorem State.txnAbort_keeps {s0 : State} (s : State) (h : Keeps s0 s) : Keeps s0 (State.txnAbort s) := by
  unfold State.txnAbort
  extract_lets +onlyGivenNames x1
  have h1 : Keeps s0 x1.2 := ?_
  · clear_value x1
    apply State.wr_keeps
    with_reducible assumption
  · subst x1
    apply State.abortTxn_keeps
    with_reducible assumption

theorem execTxnAbort_keeps {s0 : State} (t : Nat) (s : State) (h : Keeps s0 s) : KeepsOut s0 (execTxnAbort t s) := by
  unfold execTxnAbort
  extract_lets +onlyGivenNames x1
  have h1 : Keeps s0 x1 := ?_
  · clear_value x1
    split
    · apply KeepsOut.next
      apply State.hostCmd_keeps
      · with_reducible assumption
      · intro y6_0 y6_1
        apply State.txnAbort_keeps
        with_reducible assumption
    · apply KeepsOut.next
      with_reducible assumption
  · subst x1
    apply State.at_keeps
    with_reducible assumption

theorem State.addRec_keeps {s0 : State} (s : State) (r : SwarmRec) (h : Keeps s0 s) : Keeps s0 (State.addRec s r) := by
  unfold State.addRec
  with_reducible apply Keeps.mk
  with_reducible assumption

theorem State.setRec_keeps {s0 : State} (s : State) (coord : Nat) (swarm : Nat) (f : SwarmRec → SwarmRec) (h : Keeps s0 s) : Keeps s0 (State.setRec s coord swarm f) := by
  unfold State.setRec
  with_reducible apply Keeps.mk
  with_reducible assumption

theorem State.showOrphan_keeps {s0 : State} (s : State) (r : SwarmRec) (h : Keeps s0 s) : Keeps s0 (State.showOrphan s r) := by
  unfold State.showOrphan
  split
  · with_reducible assumption
  · apply State.wr_keeps
    apply State.wr_keeps
    apply State.wr_keeps
    apply State.wr_keeps
    with_reducible assumption

theorem State.answerStatus_keeps {s0 : State} (s : State) (coord : Nat) (swarm : Nat) (dest : Nat) (code : Nat) (h : Keeps s0 s) : Keeps s0 (State.answerStatus s coord swarm dest code) := by
  unfold State.answerStatus
  apply State.sendTo_keeps
  with_reducible assumption

theorem State.decideRec_keeps {s0 : State} (s : State) (coord : Nat) (swarm : Nat) (code : Nat) (h : Keeps s0 s) : Keeps s0 (State.decideRec s coord swarm code) := by
  unfold State.decideRec
  split
  · with_reducible assumption
  · extract_lets +onlyGivenNames x3
    have h3 : Keeps s0 x3 := ?_
    · clear_value x3
      extract_lets +onlyGivenNames x4
      have h4 : Keeps s0 x4 := ?_
      · clear_value x4
        split
        · apply State.showOrphan_keeps
          with_reducible assumption
        · with_reducible assumption
      · subst x4
        refine Keeps.foldl ?_ fun x9 a9 h9 => ?_
        · with_reducible assumption
        · apply State.answerStatus_keeps
          with_reducible assumption
    · subst x3
      apply State.setRec_keeps
      with_reducible assumption

theorem State.prepare_keeps {s0 : State} (s : State) (x : Nat) (coord : Nat) (swarm : Nat) (t40 : Nat) (shot : Bool) (h : Keeps s0 s) : Keeps s0 (State.prepare s x coord swarm t40 shot).2 := by
  unfold State.prepare
  extract_lets +onlyGivenNames x1
  clear_value x1
  extract_lets +onlyGivenNames x2
  clear_value x2
  extract_lets +onlyGivenNames x3
  have h3 : Keeps s0 x3 := ?_
  · clear_value x3
    extract_lets +onlyGivenNames x4
    clear_value x4
    split
    · apply Keeps.mk2
      apply State.addRec_keeps
      with_reducible assumption
    · extract_lets +onlyGivenNames x9
      clear_value x9
      extract_lets +onlyGivenNames x10
      have h10 : Keeps s0 x10 := ?_
      · clear_value x10
        extract_lets +onlyGivenNames x11
        have h11 : Keeps s0 x11 := ?_
        · clear_value x11
          apply Keeps.mk2
          apply State.addRec_keeps
          apply State.setTxnState_keeps
          with_reducible assumption
        · subst x11
          with_reducible apply Keeps.mk
          with_reducible assumption
      · subst x10
        apply State.setTxn_keeps
        with_reducible assumption
  · subst x3
    split
    · apply State.readStage_keeps
      with_reducible assumption
    · with_reducible assumption

theorem State.takeCommit_keeps {s0 : State} (s : State) (coord : Nat) (swarm : Nat) (h : Keeps s0 s) : Keeps s0 (State.takeCommit s coord swarm).2 := by
  unfold State.takeCommit
  split
  · apply Keeps.mk2
    with_reducible assumption
  · split
    · extract_lets +onlyGivenNames x5
      clear_value x5
      apply Keeps.mk2
      apply State.setTxnState_keeps
      apply State.setTxn_keeps
      with_reducible assumption
    · apply Keeps.mk2
      with_reducible assumption

theorem State.takeAbort_keeps {s0 : State} (s : State) (coord : Nat) (swarm : Nat) (h : Keeps s0 s) : Keeps s0 (State.takeAbort s coord swarm) := by
  have late : ∀ s, Keeps s0 s → Keeps s0 ((s.swarmFlag R.txnFlags_abort_late).swarmFlag R.txnFlags_orphan) :=
    fun s h => State.swarmFlag_keeps _ _ (State.swarmFlag_keeps _ _ h)
  unfold State.takeAbort
  dsimp only
  split
  · split
    · exact late _ h
    · exact State.txnOutcome_keeps _ _ (State.decideRec_keeps _ _ _ _ (State.freeTxn_keeps _ _ _ h))
  · split
    · split
      · exact late _ h
      · exact h
    · exact h


theorem execTxnDecisionPoint_keeps {s0 : State} (t : Nat) (x : Nat) (s : State) (h : Keeps s0 s) : KeepsOut s0 (execTxnDecisionPoint t x s) := by
  unfold execTxnDecisionPoint
  extract_lets +onlyGivenNames x1
  have h1 : Keeps s0 x1 := ?_
  · clear_value x1
    extract_lets +onlyGivenNames x2
    clear_value x2
    split
    · apply KeepsOut.next
      with_reducible assumption
    · split
      · apply KeepsOut.next
        with_reducible assumption
      · split
        · apply KeepsOut.next
          apply State.setTxn_keeps
          with_reducible assumption
        · split
          · extract_lets +onlyGivenNames x14
            have h14 : Keeps s0 x14 := ?_
            · clear_value x14
              apply KeepsOut.next
              apply State.txnOutcome_keeps
              apply State.swarmFlag_keeps
              apply State.decideRec_keeps
              with_reducible assumption
            · subst x14
              apply State.setRec_keeps
              apply State.freeTxn_keeps
              with_reducible assumption
          · apply KeepsOut.next
            with_reducible assumption
  · subst x1
    apply State.at_keeps
    with_reducible assumption

theorem State.setSwm_keeps {s0 : State} (s : State) (x : SwarmSt) (h : Keeps s0 s) : Keeps s0 (State.setSwm s x) := by
  unfold State.setSwm
  with_reducible apply Keeps.mk
  with_reducible assumption

theorem State.swarmAbort_keeps {s0 : State} (s : State) (h : Keeps s0 s) : Keeps s0 (State.swarmAbort s) := by
  unfold State.swarmAbort
  extract_lets +onlyGivenNames x1
  have h1 : Keeps s0 x1 := ?_
  · clear_value x1
    extract_lets +onlyGivenNames x2
    have h2 : Keeps s0 x2 := ?_
    · clear_value x2
      extract_lets +onlyGivenNames x3
      clear_value x3
      extract_lets +onlyGivenNames x4
      have h4 : Keeps s0 x4 := ?_
      · clear_value x4
        split
        · apply State.takeAbort_keeps
          with_reducible assumption
        · apply State.decideRec_keeps
          with_reducible assumption
      · subst x4
        apply State.setSwm_keeps
        with_reducible assumption
    · subst x2
      apply State.wr_keeps
      apply State.wr_keeps
      with_reducible assumption
  · subst x1
    apply State.floodOut_keeps
    with_reducible assumption

theorem State.countAck_keeps {s0 : State} (s : State) (d : Nat) (h : Keeps s0 s) : Keeps s0 (State.countAck s d) := by
  unfold State.countAck
  extract_lets +onlyGivenNames x1
  clear_value x1
  split
  · with_reducible assumption
  · extract_lets +onlyGivenNames x4
    have h4 : Keeps s0 x4 := ?_
    · clear_value x4
      split
      · extract_lets +onlyGivenNames x6
        clear_value x6
        extract_lets +onlyGivenNames x7
        have h7 : Keeps s0 x7 := ?_
        · clear_value x7
          split
          · with_reducible assumption
          · apply State.decideRec_keeps
            with_reducible assumption
        · subst x7
          apply State.setSwm_keeps
          apply State.wr_keeps
          apply State.wr_keeps
          with_reducible assumption
      · with_reducible assumption
    · subst x4
      apply State.wr_keeps
      apply State.setSwm_keeps
      with_reducible assumption

theorem State.countYes_keeps {s0 : State} (s : State) (d : Nat) (h : Keeps s0 s) : Keeps s0 (State.countYes s d) := by
  unfold State.countYes
  extract_lets +onlyGivenNames x1
  clear_value x1
  split
  · with_reducible assumption
  · extract_lets +onlyGivenNames x4
    have h4 : Keeps s0 x4 := ?_
    · clear_value x4
      split
      · extract_lets +onlyGivenNames x6
        have h6 : Keeps s0 x6 := ?_
        · clear_value x6
          split
          · extract_lets +onlyGivenNames x8
            have h8 : Keeps s0 x8.2 := ?_
            · clear_value x8
              split
              · apply State.countAck_keeps
                with_reducible assumption
              · with_reducible assumption
            · subst x8
              apply State.takeCommit_keeps
              with_reducible assumption
          · with_reducible assumption
        · subst x6
          apply State.wr_keeps
          apply State.floodOut_keeps
          with_reducible assumption
      · with_reducible assumption
    · subst x4
      apply State.wr_keeps
      apply State.setSwm_keeps
      with_reducible assumption

theorem State.swarmGo_keeps {s0 : State} (s : State) (h : Keeps s0 s) : Keeps s0 (State.swarmGo s) := by
  unfold State.swarmGo
  extract_lets +onlyGivenNames x1
  clear_value x1
  extract_lets +onlyGivenNames x2
  clear_value x2
  extract_lets +onlyGivenNames x3
  clear_value x3
  extract_lets +onlyGivenNames x4
  clear_value x4
  extract_lets +onlyGivenNames x5
  clear_value x5
  extract_lets +onlyGivenNames x6
  clear_value x6
  split
  · apply State.wr_keeps
    with_reducible assumption
  · split
    · apply State.wr_keeps
      with_reducible assumption
    · split
      · apply State.wr_keeps
        with_reducible assumption
      · split
        · apply State.wr_keeps
          with_reducible assumption
        · split
          · apply State.wr_keeps
            with_reducible assumption
          · extract_lets +onlyGivenNames x22
            have h22 : Keeps s0 x22 := ?_
            · clear_value x22
              extract_lets +onlyGivenNames x23
              have h23 : Keeps s0 x23 := ?_
              · clear_value x23
                extract_lets +onlyGivenNames x24
                clear_value x24
                extract_lets +onlyGivenNames x25
                have h25 : Keeps s0 x25 := ?_
                · clear_value x25
                  extract_lets +onlyGivenNames x26
                  have h26 : Keeps s0 x26 := ?_
                  · clear_value x26
                    split
                    · extract_lets +onlyGivenNames x28
                      have h28 : Keeps s0 x28.2 := ?_
                      · clear_value x28
                        split
                        · apply State.countYes_keeps
                          with_reducible assumption
                        · apply State.swarmAbort_keeps
                          with_reducible assumption
                      · subst x28
                        apply State.prepare_keeps
                        with_reducible assumption
                    · apply State.addRec_keeps
                      with_reducible assumption
                  · subst x26
                    refine Keeps.foldl ?_ fun x38 a38 h38 => ?_
                    · with_reducible assumption
                    · apply State.sendTo_keeps
                      with_reducible assumption
                · subst x25
                  apply State.setSwm_keeps
                  with_reducible assumption
              · subst x23
                apply State.wr_keeps
                apply State.wr_keeps
                apply State.wr_keeps
                with_reducible assumption
            · subst x22
              apply State.wr_keeps
              apply State.wr_keeps
              with_reducible assumption

theorem execSwarmGo_keeps {s0 : State} (t : Nat) (s : State) (h : Keeps s0 s) : KeepsOut s0 (execSwarmGo t s) := by
  unfold execSwarmGo
  extract_lets +onlyGivenNames x1
  have h1 : Keeps s0 x1 := ?_
  · clear_value x1
    split
    · apply KeepsOut.next
      apply State.hostCmd_keeps
      · with_reducible assumption
      · intro y6_0 y6_1
        apply State.swarmGo_keeps
        with_reducible assumption
    · apply KeepsOut.next
      with_reducible assumption
  · subst x1
    apply State.at_keeps
    with_reducible assumption

theorem execSwarmGuardExpiry_keeps {s0 : State} (t : Nat) (s : State) (h : Keeps s0 s) : KeepsOut s0 (execSwarmGuardExpiry t s) := by
  unfold execSwarmGuardExpiry
  extract_lets +onlyGivenNames x1
  have h1 : Keeps s0 x1 := ?_
  · clear_value x1
    split
    · apply KeepsOut.next
      apply State.swarmAbort_keeps
      with_reducible assumption
    · apply KeepsOut.next
      with_reducible assumption
  · subst x1
    apply State.at_keeps
    with_reducible assumption

theorem State.passOn_keeps {s0 : State} (s : State) (m : SwarmMsg) (h : Keeps s0 s) : Keeps s0 (State.passOn s m) := by
  unfold State.passOn
  split
  · with_reducible assumption
  · apply State.sendTo_keeps
    with_reducible assumption

theorem execPrepare_keeps {s0 : State} (t : Nat) (port : Nat) (s : State) (h : Keeps s0 s) : KeepsOut s0 (execPrepare t port s) := by
  unfold execPrepare
  extract_lets +onlyGivenNames x1
  have h1 : Keeps s0 x1 := ?_
  · clear_value x1
    split
    · apply KeepsOut.next
      with_reducible assumption
    · split
      · apply KeepsOut.next
        refine State.takeSwarm_keeps ?_ ‹_›
        with_reducible assumption
      · split
        · apply KeepsOut.next
          apply State.sendTo_keeps
          refine State.takeSwarm_keeps ?_ ‹_›
          with_reducible assumption
        · extract_lets +onlyGivenNames x14
          have h14 : Keeps s0 x14.2 := ?_
          · clear_value x14
            apply KeepsOut.next
            apply State.sendTo_keeps
            with_reducible assumption
          · subst x14
            apply State.prepare_keeps
            refine State.takeSwarm_keeps ?_ ‹_›
            with_reducible assumption
  · subst x1
    apply State.at_keeps
    with_reducible assumption

theorem execVote_keeps {s0 : State} (t : Nat) (port : Nat) (s : State) (h : Keeps s0 s) : KeepsOut s0 (execVote t port s) := by
  unfold execVote
  extract_lets +onlyGivenNames x1
  have h1 : Keeps s0 x1 := ?_
  · clear_value x1
    split
    · apply KeepsOut.next
      with_reducible assumption
    · split
      · apply KeepsOut.next
        refine State.takeSwarm_keeps ?_ ‹_›
        with_reducible assumption
      · split
        · apply KeepsOut.next
          apply State.sendTo_keeps
          refine State.takeSwarm_keeps ?_ ‹_›
          with_reducible assumption
        · split
          · apply KeepsOut.next
            split
            · apply State.countYes_keeps
              refine State.takeSwarm_keeps ?_ ‹_›
              with_reducible assumption
            · apply State.swarmAbort_keeps
              refine State.takeSwarm_keeps ?_ ‹_›
              with_reducible assumption
          · apply KeepsOut.next
            refine State.takeSwarm_keeps ?_ ‹_›
            with_reducible assumption
  · subst x1
    apply State.at_keeps
    with_reducible assumption

theorem execSwarmCommit_keeps {s0 : State} (t : Nat) (port : Nat) (s : State) (h : Keeps s0 s) : KeepsOut s0 (execSwarmCommit t port s) := by
  unfold execSwarmCommit
  extract_lets +onlyGivenNames x1
  have h1 : Keeps s0 x1 := ?_
  · clear_value x1
    split
    · apply KeepsOut.next
      with_reducible assumption
    · split
      · apply KeepsOut.next
        refine State.takeSwarm_keeps ?_ ‹_›
        with_reducible assumption
      · extract_lets +onlyGivenNames x9
        have h9 : Keeps s0 x9 := ?_
        · clear_value x9
          extract_lets +onlyGivenNames x10
          have h10 : Keeps s0 x10.2 := ?_
          · clear_value x10
            apply KeepsOut.next
            split
            · apply State.sendTo_keeps
              with_reducible assumption
            · with_reducible assumption
          · subst x10
            apply State.takeCommit_keeps
            with_reducible assumption
        · subst x9
          apply State.floodOut_keeps
          refine State.takeSwarm_keeps ?_ ‹_›
          with_reducible assumption
  · subst x1
    apply State.at_keeps
    with_reducible assumption

theorem execAck_keeps {s0 : State} (t : Nat) (port : Nat) (s : State) (h : Keeps s0 s) : KeepsOut s0 (execAck t port s) := by
  unfold execAck
  extract_lets +onlyGivenNames x1
  have h1 : Keeps s0 x1 := ?_
  · clear_value x1
    split
    · apply KeepsOut.next
      with_reducible assumption
    · split
      · apply KeepsOut.next
        refine State.takeSwarm_keeps ?_ ‹_›
        with_reducible assumption
      · split
        · apply KeepsOut.next
          apply State.sendTo_keeps
          refine State.takeSwarm_keeps ?_ ‹_›
          with_reducible assumption
        · split
          · apply KeepsOut.next
            apply State.countAck_keeps
            refine State.takeSwarm_keeps ?_ ‹_›
            with_reducible assumption
          · apply KeepsOut.next
            refine State.takeSwarm_keeps ?_ ‹_›
            with_reducible assumption
  · subst x1
    apply State.at_keeps
    with_reducible assumption

theorem execSwarmAbort_keeps {s0 : State} (t : Nat) (port : Nat) (s : State) (h : Keeps s0 s) : KeepsOut s0 (execSwarmAbort t port s) := by
  unfold execSwarmAbort
  extract_lets +onlyGivenNames x1
  have h1 : Keeps s0 x1 := ?_
  · clear_value x1
    split
    · apply KeepsOut.next
      with_reducible assumption
    · split
      · apply KeepsOut.next
        refine State.takeSwarm_keeps ?_ ‹_›
        with_reducible assumption
      · apply KeepsOut.next
        apply State.takeAbort_keeps
        apply State.floodOut_keeps
        refine State.takeSwarm_keeps ?_ ‹_›
        with_reducible assumption
  · subst x1
    apply State.at_keeps
    with_reducible assumption

theorem execStatusQ_keeps {s0 : State} (t : Nat) (port : Nat) (s : State) (h : Keeps s0 s) : KeepsOut s0 (execStatusQ t port s) := by
  unfold execStatusQ
  extract_lets +onlyGivenNames x1
  have h1 : Keeps s0 x1 := ?_
  · clear_value x1
    split
    · apply KeepsOut.next
      with_reducible assumption
    · split
      · apply KeepsOut.next
        refine State.takeSwarm_keeps ?_ ‹_›
        with_reducible assumption
      · extract_lets +onlyGivenNames x9
        have h9 : Keeps s0 x9 := ?_
        · clear_value x9
          split
          · apply KeepsOut.next
            with_reducible assumption
          · apply KeepsOut.next
            apply State.setRec_keeps
            with_reducible assumption
          · apply KeepsOut.next
            apply State.answerStatus_keeps
            with_reducible assumption
        · subst x9
          apply State.floodOut_keeps
          refine State.takeSwarm_keeps ?_ ‹_›
          with_reducible assumption
  · subst x1
    apply State.at_keeps
    with_reducible assumption

theorem execStatusA_keeps {s0 : State} (t : Nat) (port : Nat) (s : State) (h : Keeps s0 s) : KeepsOut s0 (execStatusA t port s) := by
  unfold execStatusA
  extract_lets +onlyGivenNames x1
  have h1 : Keeps s0 x1 := ?_
  · clear_value x1
    split
    · apply KeepsOut.next
      with_reducible assumption
    · split
      · apply KeepsOut.next
        refine State.takeSwarm_keeps ?_ ‹_›
        with_reducible assumption
      · split
        · apply KeepsOut.next
          apply State.sendTo_keeps
          refine State.takeSwarm_keeps ?_ ‹_›
          with_reducible assumption
        · split
          · extract_lets +onlyGivenNames x15
            clear_value x15
            extract_lets +onlyGivenNames x16
            have h16 : Keeps s0 x16 := ?_
            · clear_value x16
              extract_lets +onlyGivenNames x17
              have h17 : Keeps s0 x17 := ?_
              · clear_value x17
                split
                · apply KeepsOut.next
                  split
                  · apply State.showOrphan_keeps
                    with_reducible assumption
                  · with_reducible assumption
                · apply KeepsOut.next
                  with_reducible assumption
              · subst x17
                apply State.setRec_keeps
                with_reducible assumption
            · subst x16
              apply State.setSwm_keeps
              refine State.takeSwarm_keeps ?_ ‹_›
              with_reducible assumption
          · apply KeepsOut.next
            refine State.takeSwarm_keeps ?_ ‹_›
            with_reducible assumption
  · subst x1
    apply State.at_keeps
    with_reducible assumption

theorem execStatusNoAnswer_keeps {s0 : State} (t : Nat) (s : State) (h : Keeps s0 s) : KeepsOut s0 (execStatusNoAnswer t s) := by
  unfold execStatusNoAnswer
  extract_lets +onlyGivenNames x1
  have h1 : Keeps s0 x1 := ?_
  · clear_value x1
    extract_lets +onlyGivenNames x2
    clear_value x2
    split
    · apply KeepsOut.next
      with_reducible assumption
    · extract_lets +onlyGivenNames x6
      clear_value x6
      extract_lets +onlyGivenNames x7
      have h7 : Keeps s0 x7 := ?_
      · clear_value x7
        split
        · apply KeepsOut.next
          apply State.wr_keeps
          with_reducible assumption
        · apply KeepsOut.next
          with_reducible assumption
      · subst x7
        apply State.setSwm_keeps
        with_reducible assumption
  · subst x1
    apply State.at_keeps
    with_reducible assumption

theorem State.askOrphans_keeps {s0 : State} (s : State) (h : Keeps s0 s) : Keeps s0 (State.askOrphans s) := by
  unfold State.askOrphans
  refine Keeps.foldl ?_ fun x1 a1 h1 => ?_
  · with_reducible assumption
  · split
    · extract_lets +onlyGivenNames x4
      clear_value x4
      extract_lets +onlyGivenNames x5
      have h5 : Keeps s0 x5 := ?_
      · clear_value x5
        extract_lets +onlyGivenNames x6
        have h6 : Keeps s0 x6 := ?_
        · clear_value x6
          extract_lets +onlyGivenNames x7
          have h7 : Keeps s0 x7 := ?_
          · clear_value x7
            extract_lets +onlyGivenNames x8
            have h8 : Keeps s0 x8 := ?_
            · clear_value x8
              apply State.setSwm_keeps
              with_reducible assumption
            · subst x8
              apply State.floodOut_keeps
              with_reducible assumption
          · subst x7
            apply State.showOrphan_keeps
            with_reducible assumption
        · subst x6
          split
          · apply State.swarmFlag_keeps
            with_reducible assumption
          · with_reducible assumption
      · subst x5
        apply State.setRec_keeps
        with_reducible assumption
    · with_reducible assumption

theorem State.isolate_keeps {s0 : State} (s : State) (h : Keeps s0 s) : Keeps s0 (State.isolate s) := by
  unfold State.isolate
  split
  · with_reducible assumption
  · extract_lets +onlyGivenNames x3
    clear_value x3
    with_reducible apply Keeps.mk
    with_reducible assumption

theorem State.lostRoute_keeps {s0 : State} (s : State) (d : Nat) (h : Keeps s0 s) : Keeps s0 (State.lostRoute s d) := by
  unfold State.lostRoute
  split
  · apply State.swarmFlag_keeps
    with_reducible assumption
  · with_reducible assumption

theorem State.deriveTxn_keeps {s0 : State} (s : State) (h : Keeps s0 s) : Keeps s0 (State.deriveTxn s) := by
  unfold State.deriveTxn
  split
  · with_reducible assumption
  · apply State.wr_keeps
    with_reducible assumption

end Sys2Proof.Machine
end

