-- ==== Sys2Proof/Laws/KeepsService.lean ====
section
/-! SUPPORT. What the definitions of Machine/Service.lean keep: one lemma each. -/

namespace Sys2Proof.Machine

set_option maxRecDepth 10000

theorem State.setSvc_keeps {s0 : State} (s : State) (x : SvcSt) (h : Keeps s0 s) : Keeps s0 (State.setSvc s x) := by
  unfold State.setSvc
  with_reducible apply Keeps.mk
  with_reducible assumption

theorem State.toSvc_keeps {s0 : State} (s : State) (v : Svc) (h : Keeps s0 s) : Keeps s0 (State.toSvc s v) := by
  unfold State.toSvc
  extract_lets +onlyGivenNames x1
  have h1 : Keeps s0 x1 := ?_
  · clear_value x1
    apply State.fireD_keeps
    apply State.wr_keeps
    apply State.setSvc_keeps
    with_reducible assumption
  · subst x1
    apply State.account_keeps
    with_reducible assumption

theorem State.enabledLoad_keeps {s0 : State} (s : State) (h : Keeps s0 s) : Keeps s0 (State.enabledLoad s) := by
  unfold State.enabledLoad
  split
  · with_reducible assumption
  · extract_lets +onlyGivenNames x3
    clear_value x3
    extract_lets +onlyGivenNames x4
    have h4 : Keeps s0 x4 := ?_
    · clear_value x4
      split
      · apply State.markFreeAll_keeps
        apply State.readyAll_keeps
        apply State.unmuteAll_keeps
        with_reducible assumption
      · with_reducible assumption
    · subst x4
      split
      · with_reducible assumption
      · apply State.markFreeAll_keeps
        apply State.readyAll_keeps
        apply State.unmuteAll_keeps
        apply State.setSvc_keeps
        with_reducible assumption

theorem State.markAllOpen_keeps {s0 : State} (s : State) (h : Keeps s0 s) : Keeps s0 (State.markAllOpen s) := by
  unfold State.markAllOpen
  refine Keeps.foldl ?_ fun x1 a1 h1 => ?_
  · with_reducible assumption
  · apply State.markOpen_keeps
    with_reducible assumption

theorem State.stopGreen_keeps {s0 : State} (s : State) (h : Keeps s0 s) : Keeps s0 (State.stopGreen s) := by
  unfold State.stopGreen
  extract_lets +onlyGivenNames x1
  have h1 : Keeps s0 x1 := ?_
  · clear_value x1
    extract_lets +onlyGivenNames x2
    have h2 : Keeps s0 x2 := ?_
    · clear_value x2
      extract_lets +onlyGivenNames x3
      have h3 : Keeps s0 x3 := ?_
      · clear_value x3
        extract_lets +onlyGivenNames x4
        have h4 : Keeps s0 x4 := ?_
        · clear_value x4
          apply State.capService_keeps
          with_reducible assumption
        · subst x4
          refine Keeps.foldl ?_ fun x7 a7 h7 => ?_
          · with_reducible assumption
          · apply State.raiseAbort_keeps
            with_reducible assumption
      · subst x3
        apply State.markLowAll_keeps
        apply State.zeroAll_keeps
        apply State.muteAll_keeps
        with_reducible assumption
    · subst x2
      apply State.cutOpen_keeps
      with_reducible assumption
  · subst x1
    apply State.markAllOpen_keeps
    with_reducible assumption

theorem State.leaveGreen_keeps {s0 : State} (s : State) (cause : Nat) (h : Keeps s0 s) : Keeps s0 (State.leaveGreen s cause) := by
  unfold State.leaveGreen
  extract_lets +onlyGivenNames x1
  have h1 : Keeps s0 x1 := ?_
  · clear_value x1
    extract_lets +onlyGivenNames x2
    have h2 : Keeps s0 x2 := ?_
    · clear_value x2
      apply State.toSvc_keeps
      apply State.lifeAdd_keeps
      apply State.wr_keeps
      with_reducible assumption
    · subst x2
      split
      · apply State.markFreeAll_keeps
        with_reducible assumption
      · with_reducible assumption
  · subst x1
    apply State.stopGreen_keeps
    with_reducible assumption

theorem State.noteCause_keeps {s0 : State} (s : State) (cause : Nat) (h : Keeps s0 s) : Keeps s0 (State.noteCause s cause) := by
  unfold State.noteCause
  extract_lets +onlyGivenNames x1
  clear_value x1
  extract_lets +onlyGivenNames x2
  have h2 : Keeps s0 x2 := ?_
  · clear_value x2
    split
    · apply State.wr_keeps
      with_reducible assumption
    · split
      · apply State.wr_keeps
        with_reducible assumption
      · split
        · apply State.setSvc_keeps
          with_reducible assumption
        · apply State.setSvc_keeps
          with_reducible assumption
  · subst x2
    split
    · with_reducible assumption
    · apply State.setSvc_keeps
      with_reducible assumption

theorem State.greenLoss_keeps {s0 : State} (s : State) (cause : Nat) (h : Keeps s0 s) : Keeps s0 (State.greenLoss s cause) := by
  unfold State.greenLoss
  extract_lets +onlyGivenNames x1
  have h1 : Keeps s0 x1 := ?_
  · clear_value x1
    split
    · apply State.leaveGreen_keeps
      with_reducible assumption
    · apply State.fireD_keeps
      with_reducible assumption
  · subst x1
    apply State.noteCause_keeps
    with_reducible assumption

theorem execLeaveGreen_keeps {s0 : State} (t : Nat) (cause : Nat) (s : State) (h : Keeps s0 s) : KeepsOut s0 (execLeaveGreen t cause s) := by
  unfold execLeaveGreen
  extract_lets +onlyGivenNames x1
  have h1 : Keeps s0 x1 := ?_
  · clear_value x1
    split
    · extract_lets +onlyGivenNames x3
      have h3 : Keeps s0 x3 := ?_
      · clear_value x3
        apply KeepsOut.next
        apply State.greenLoss_keeps
        with_reducible assumption
      · subst x3
        split
        · apply State.wr_keeps
          with_reducible assumption
        · with_reducible assumption
    · apply KeepsOut.next
      with_reducible assumption
  · subst x1
    apply State.at_keeps
    with_reducible assumption

theorem State.bootCheck_keeps {s0 : State} (s : State) (h : Keeps s0 s) : Keeps s0 (State.bootCheck s) := by
  unfold State.bootCheck
  split
  · apply State.setLife_keeps
    apply State.account_keeps
    with_reducible assumption
  · with_reducible assumption

theorem State.clearCause_keeps {s0 : State} (s : State) (cause : Nat) (h : Keeps s0 s) : Keeps s0 (State.clearCause s cause) := by
  unfold State.clearCause
  extract_lets +onlyGivenNames x1
  clear_value x1
  extract_lets +onlyGivenNames x2
  have h2 : Keeps s0 x2 := ?_
  · clear_value x2
    extract_lets +onlyGivenNames x3
    clear_value x3
    extract_lets +onlyGivenNames x4
    have h4 : Keeps s0 x4 := ?_
    · clear_value x4
      apply State.bootCheck_keeps
      with_reducible assumption
    · subst x4
      split
      · apply State.wr_keeps
        with_reducible assumption
      · split
        · apply State.wr_keeps
          with_reducible assumption
        · split
          · apply State.setSvc_keeps
            with_reducible assumption
          · with_reducible assumption
  · subst x2
    apply State.setSvc_keeps
    with_reducible assumption

theorem execGreenLossCleared_keeps {s0 : State} (t : Nat) (cause : Nat) (s : State) (h : Keeps s0 s) : KeepsOut s0 (execGreenLossCleared t cause s) := by
  unfold execGreenLossCleared
  extract_lets +onlyGivenNames x1
  have h1 : Keeps s0 x1 := ?_
  · clear_value x1
    split
    · apply KeepsOut.next
      apply State.clearCause_keeps
      with_reducible assumption
    · apply KeepsOut.next
      with_reducible assumption
  · subst x1
    apply State.at_keeps
    with_reducible assumption

theorem State.markOverlap_keeps {s0 : State} (s : State) (h : Keeps s0 s) : Keeps s0 (State.markOverlap s) := by
  unfold State.markOverlap
  refine Keeps.foldl ?_ fun x1 a1 h1 => ?_
  · with_reducible assumption
  · refine Keeps.foldl ?_ fun x3 a3 h3 => ?_
    · with_reducible assumption
    · split
      · split
        · apply State.markShot_keeps
          with_reducible assumption
        · with_reducible assumption
      · split
        · apply State.markShot_keeps
          with_reducible assumption
        · with_reducible assumption

theorem State.muteLow_keeps {s0 : State} (s : State) (h : Keeps s0 s) : Keeps s0 (State.muteLow s) := by
  unfold State.muteLow
  extract_lets +onlyGivenNames x1
  clear_value x1
  extract_lets +onlyGivenNames x2
  have h2 : Keeps s0 x2 := ?_
  · clear_value x2
    apply State.hiveMuted_keeps
    apply State.zeroAll_keeps
    apply State.muteAll_keeps
    apply State.cutOpen_keeps
    apply State.markOverlap_keeps
    with_reducible assumption
  · subst x2
    apply State.setSvc_keeps
    with_reducible assumption

theorem execMuteNLow_keeps {s0 : State} (t : Nat) (s : State) (h : Keeps s0 s) : KeepsOut s0 (execMuteNLow t s) := by
  unfold execMuteNLow
  extract_lets +onlyGivenNames x1
  have h1 : Keeps s0 x1 := ?_
  · clear_value x1
    split
    · apply KeepsOut.next
      with_reducible assumption
    · split
      · apply KeepsOut.next
        apply State.muteLow_keeps
        with_reducible assumption
      · apply KeepsOut.next
        apply State.setSvc_keeps
        with_reducible assumption
  · subst x1
    apply State.at_keeps
    with_reducible assumption

theorem State.askResume_keeps {s0 : State} (s : State) (h : Keeps s0 s) : Keeps s0 (State.askResume s) := by
  unfold State.askResume
  refine Keeps.foldl ?_ fun x1 a1 h1 => ?_
  · with_reducible assumption
  · apply State.setSeq_keeps
    with_reducible assumption

theorem State.muteHigh_keeps {s0 : State} (s : State) (h : Keeps s0 s) : Keeps s0 (State.muteHigh s) := by
  unfold State.muteHigh
  extract_lets +onlyGivenNames x1
  have h1 : Keeps s0 x1 := ?_
  · clear_value x1
    apply State.hiveMuted_keeps
    apply State.readyAll_keeps
    apply State.askResume_keeps
    apply State.setSvc_keeps
    with_reducible assumption
  · subst x1
    apply State.markOverlap_keeps
    with_reducible assumption

theorem execMuteNHigh_keeps {s0 : State} (t : Nat) (s : State) (h : Keeps s0 s) : KeepsOut s0 (execMuteNHigh t s) := by
  unfold execMuteNHigh
  extract_lets +onlyGivenNames x1
  have h1 : Keeps s0 x1 := ?_
  · clear_value x1
    split
    · apply KeepsOut.next
      with_reducible assumption
    · split
      · apply KeepsOut.next
        apply State.muteHigh_keeps
        with_reducible assumption
      · apply KeepsOut.next
        apply State.setSvc_keeps
        with_reducible assumption
  · subst x1
    apply State.at_keeps
    with_reducible assumption

theorem State.setOe_keeps {s0 : State} (s : State) (on : Bool) (h : Keeps s0 s) : Keeps s0 (State.setOe s on) := by
  unfold State.setOe
  extract_lets +onlyGivenNames x1
  clear_value x1
  extract_lets +onlyGivenNames x2
  have h2 : Keeps s0 x2 := ?_
  · clear_value x2
    extract_lets +onlyGivenNames x3
    have h3 : Keeps s0 x3 := ?_
    · clear_value x3
      apply State.hiveMuted_keeps
      with_reducible assumption
    · subst x3
      split
      · apply State.readyAll_keeps
        apply State.askResume_keeps
        with_reducible assumption
      · split
        · apply State.zeroAll_keeps
          apply State.muteAll_keeps
          with_reducible assumption
        · with_reducible assumption
  · subst x2
    apply State.wr_keeps
    with_reducible assumption

theorem State.amberRf_keeps {s0 : State} (s : State) (h : Keeps s0 s) : Keeps s0 (State.amberRf s) := by
  unfold State.amberRf
  split
  · apply State.unmuteAll_keeps
    with_reducible assumption
  · split
    · apply State.muteAll_keeps
      with_reducible assumption
    · with_reducible assumption

theorem State.wake_keeps {s0 : State} (s : State) (h : Keeps s0 s) : Keeps s0 (State.wake s) := by
  unfold State.wake
  split
  · apply State.setSvc_keeps
    with_reducible assumption
  · with_reducible assumption

theorem execWakePin_keeps {s0 : State} (t : Nat) (s : State) (h : Keeps s0 s) : KeepsOut s0 (execWakePin t s) := by
  unfold execWakePin
  apply KeepsOut.next
  apply State.wake_keeps
  apply State.at_keeps
  with_reducible assumption

end Sys2Proof.Machine
end

