-- ==== Sys2Proof/Laws/KeepsMonitor.lean ====
section
/-! SUPPORT. What the definitions of Machine/Monitor.lean keep: one lemma each. -/

namespace Sys2Proof.Machine

set_option maxRecDepth 10000

theorem State.setMon_keeps {s0 : State} (s : State) (m : Nat) (x : MonSt) (h : Keeps s0 s) : Keeps s0 (State.setMon s m x) := by
  unfold State.setMon
  with_reducible apply Keeps.mk
  with_reducible assumption

theorem State.setThm_keeps {s0 : State} (s : State) (x : ThmSt) (h : Keeps s0 s) : Keeps s0 (State.setThm s x) := by
  unfold State.setThm
  with_reducible apply Keeps.mk
  with_reducible assumption

theorem State.monEvent_keeps {s0 : State} (s : State) (m : Nat) (e : Nat) (h : Keeps s0 s) : Keeps s0 (State.monEvent s m e) := by
  unfold State.monEvent
  apply State.fireD_keeps
  apply State.fireD_keeps
  with_reducible assumption

theorem State.monStart_keeps {s0 : State} (s : State) (m : Nat) (src : Nat) (slot : Nat) (input : Nat) (preset : Nat) (at' : Nat) (h : Keeps s0 s) : Keeps s0 (State.monStart s m src slot input preset at') := by
  unfold State.monStart
  extract_lets +onlyGivenNames x1
  clear_value x1
  extract_lets +onlyGivenNames x2
  clear_value x2
  apply State.setMon_keeps
  with_reducible assumption

theorem State.monNext_keeps {s0 : State} (s : State) (m : Nat) (at' : Nat) (h : Keeps s0 s) : Keeps s0 (State.monNext s m at') := by
  unfold State.monNext
  extract_lets +onlyGivenNames x1
  clear_value x1
  extract_lets +onlyGivenNames x2
  clear_value x2
  split
  · apply State.monStart_keeps
    with_reducible assumption
  · apply State.monStart_keeps
    with_reducible assumption
  · split
    · extract_lets +onlyGivenNames x9
      clear_value x9
      apply State.monStart_keeps
      apply State.wr_keeps
      with_reducible assumption
    · with_reducible assumption

theorem State.monKick_keeps {s0 : State} (s : State) (m : Nat) (at' : Nat) (h : Keeps s0 s) : Keeps s0 (State.monKick s m at') := by
  unfold State.monKick
  split
  · with_reducible assumption
  · apply State.monNext_keeps
    with_reducible assumption

theorem State.monRun_keeps {s0 : State} (s : State) (m : Nat) (b : Nat) (h : Keeps s0 s) : Keeps s0 (State.monRun s m b) := by
  unfold State.monRun
  extract_lets +onlyGivenNames x1
  have h1 : Keeps s0 x1 := ?_
  · clear_value x1
    extract_lets +onlyGivenNames x2
    clear_value x2
    extract_lets +onlyGivenNames x3
    have h3 : Keeps s0 x3 := ?_
    · clear_value x3
      apply State.monKick_keeps
      with_reducible assumption
    · subst x3
      split
      · split
        · apply State.setMon_keeps
          with_reducible assumption
        · with_reducible assumption
      · with_reducible assumption
  · subst x1
    apply State.wr_keeps
    with_reducible assumption

theorem State.monTrigger_keeps {s0 : State} (s : State) (m : Nat) (h : Keeps s0 s) : Keeps s0 (State.monTrigger s m).2 := by
  unfold State.monTrigger
  split
  · apply Keeps.mk2
    with_reducible assumption
  · apply Keeps.mk2
    apply State.monKick_keeps
    apply State.wr_keeps
    apply State.setMon_keeps
    with_reducible assumption

theorem execHousekeepingDue_keeps {s0 : State} (t : Nat) (temps : List (Int × Nat)) (s : State) (h : Keeps s0 s) : KeepsOut s0 (execHousekeepingDue t temps s) := by
  unfold execHousekeepingDue
  extract_lets +onlyGivenNames x1
  have h1 : Keeps s0 x1 := ?_
  · clear_value x1
    split
    · apply KeepsOut.next
      with_reducible assumption
    · split
      · apply KeepsOut.next
        with_reducible assumption
      · extract_lets +onlyGivenNames x8
        clear_value x8
        extract_lets +onlyGivenNames x9
        have h9 : Keeps s0 x9 := ?_
        · clear_value x9
          extract_lets +onlyGivenNames x10
          have h10 : Keeps s0 x10 := ?_
          · clear_value x10
            apply KeepsOut.next
            refine Keeps.foldl ?_ fun x12 a12 h12 => ?_
            · with_reducible assumption
            · extract_lets +onlyGivenNames x14
              clear_value x14
              extract_lets +onlyGivenNames x15
              have h15 : Keeps s0 x15 := ?_
              · clear_value x15
                apply State.monKick_keeps
                with_reducible assumption
              · subst x15
                split
                · with_reducible assumption
                · apply State.setMon_keeps
                  with_reducible assumption
          · subst x10
            refine Keeps.foldl ?_ fun x22 a22 h22 => ?_
            · with_reducible assumption
            · split
              · apply State.wr_keeps
                apply State.wr_keeps
                with_reducible assumption
              · with_reducible assumption
        · subst x9
          apply State.setThm_keeps
          with_reducible assumption
  · subst x1
    apply State.at_keeps
    with_reducible assumption

theorem State.detect_keeps {s0 : State} (s : State) (m : Nat) (i : Nat) (r : Int) (h : Keeps s0 s) : Keeps s0 (State.detect s m i r) := by
  unfold State.detect
  extract_lets +onlyGivenNames x1
  have h1 : Keeps s0 x1 := ?_
  · clear_value x1
    extract_lets +onlyGivenNames x2
    have h2 : Keeps s0 x2 := ?_
    · clear_value x2
      extract_lets +onlyGivenNames x3
      have h3 : Keeps s0 x3 := ?_
      · clear_value x3
        extract_lets +onlyGivenNames x4
        clear_value x4
        extract_lets +onlyGivenNames x5
        clear_value x5
        extract_lets +onlyGivenNames x6
        have h6 : Keeps s0 x6 := ?_
        · clear_value x6
          extract_lets +onlyGivenNames x7
          have h7 : Keeps s0 x7 := ?_
          · clear_value x7
            extract_lets +onlyGivenNames x8
            clear_value x8
            apply State.wr_keeps
            with_reducible assumption
          · subst x7
            apply State.wr_keeps
            with_reducible assumption
        · subst x6
          apply State.setMon_keeps
          with_reducible assumption
      · subst x3
        apply State.incSat_keeps
        with_reducible assumption
    · subst x2
      apply State.wr_keeps
      with_reducible assumption
  · subst x1
    apply State.wr_keeps
    with_reducible assumption

theorem State.threshold_keeps {s0 : State} (s : State) (m : Nat) (i : Nat) (r : Int) (h : Keeps s0 s) : Keeps s0 (State.threshold s m i r) := by
  unfold State.threshold
  split
  · apply State.detect_keeps
    with_reducible assumption
  · extract_lets +onlyGivenNames x4
    clear_value x4
    extract_lets +onlyGivenNames x5
    have h5 : Keeps s0 x5 := ?_
    · clear_value x5
      split
      · apply State.monEvent_keeps
        with_reducible assumption
      · with_reducible assumption
    · subst x5
      apply State.wr_keeps
      with_reducible assumption

theorem State.newZone_keeps {s0 : State} (s : State) (m : Nat) (i : Nat) (h : Keeps s0 s) : Keeps s0 (State.newZone s m i) := by
  unfold State.newZone
  apply State.wr_keeps
  with_reducible assumption

theorem State.accClear_keeps {s0 : State} (s : State) (m : Nat) (h : Keeps s0 s) : Keeps s0 (State.accClear s m) := by
  unfold State.accClear
  extract_lets +onlyGivenNames x1
  have h1 : Keeps s0 x1 := ?_
  · clear_value x1
    apply State.setMon_keeps
    with_reducible assumption
  · subst x1
    refine Keeps.foldl ?_ fun x4 a4 h4 => ?_
    · with_reducible assumption
    · extract_lets +onlyGivenNames x6
      have h6 : Keeps s0 x6 := ?_
      · clear_value x6
        apply State.wr_keeps
        apply State.wr_keeps
        apply State.wr_keeps
        with_reducible assumption
      · subst x6
        apply State.wr_keeps
        apply State.wr_keeps
        with_reducible assumption

theorem execAccClr_keeps {s0 : State} (t : Nat) (m : Nat) (s : State) (h : Keeps s0 s) : KeepsOut s0 (execAccClr t m s) := by
  unfold execAccClr
  extract_lets +onlyGivenNames x1
  have h1 : Keeps s0 x1 := ?_
  · clear_value x1
    split
    · apply KeepsOut.next
      apply State.accClear_keeps
      with_reducible assumption
    · apply KeepsOut.next
      with_reducible assumption
  · subst x1
    apply State.at_keeps
    with_reducible assumption

theorem State.railVerdict_keeps {s0 : State} (s : State) (m : Nat) (r : Nat) (good : Bool) (h : Keeps s0 s) : Keeps s0 (State.railVerdict s m r good) := by
  unfold State.railVerdict
  extract_lets +onlyGivenNames x1
  clear_value x1
  extract_lets +onlyGivenNames x2
  clear_value x2
  extract_lets +onlyGivenNames x3
  clear_value x3
  extract_lets +onlyGivenNames x4
  have h4 : Keeps s0 x4 := ?_
  · clear_value x4
    split
    · apply State.monEvent_keeps
      apply State.greenLoss_keeps
      apply State.setThm_keeps
      with_reducible assumption
    · split
      · apply State.monEvent_keeps
        apply State.clearCause_keeps
        with_reducible assumption
      · with_reducible assumption
  · subst x4
    apply State.setThm_keeps
    with_reducible assumption

theorem State.showLimit_keeps {s0 : State} (s : State) (h : Keeps s0 s) : Keeps s0 (State.showLimit s) := by
  unfold State.showLimit
  apply State.wr_keeps
  with_reducible assumption

theorem State.setLambda_keeps {s0 : State} (s : State) (v : Nat) (h : Keeps s0 s) : Keeps s0 (State.setLambda s v) := by
  unfold State.setLambda
  extract_lets +onlyGivenNames x1
  have h1 : Keeps s0 x1 := ?_
  · clear_value x1
    extract_lets +onlyGivenNames x2
    clear_value x2
    extract_lets +onlyGivenNames x3
    have h3 : Keeps s0 x3 := ?_
    · clear_value x3
      refine Keeps.foldl ?_ fun x4 a4 h4 => ?_
      · with_reducible assumption
      · apply State.raiseInt_keeps
        with_reducible assumption
    · subst x3
      apply State.fireD_keeps
      apply State.setThm_keeps
      with_reducible assumption
  · subst x1
    apply State.wr_keeps
    apply State.wr_keeps
    with_reducible assumption

theorem State.govern_keeps {s0 : State} (s : State) (h : Keeps s0 s) : Keeps s0 (State.govern s) := by
  unfold State.govern
  extract_lets +onlyGivenNames x1
  clear_value x1
  extract_lets +onlyGivenNames x2
  clear_value x2
  extract_lets +onlyGivenNames x3
  clear_value x3
  extract_lets +onlyGivenNames x4
  clear_value x4
  extract_lets +onlyGivenNames x5
  clear_value x5
  extract_lets +onlyGivenNames x6
  clear_value x6
  extract_lets +onlyGivenNames x7
  have h7 : Keeps s0 x7 := ?_
  · clear_value x7
    extract_lets +onlyGivenNames x8
    have h8 : Keeps s0 x8 := ?_
    · clear_value x8
      extract_lets +onlyGivenNames x9
      have h9 : Keeps s0 x9 := ?_
      · clear_value x9
        apply State.wr_keeps
        apply State.showLimit_keeps
        with_reducible assumption
      · subst x9
        split
        · apply State.setLambda_keeps
          with_reducible assumption
        · split
          · apply State.setLambda_keeps
            with_reducible assumption
          · with_reducible assumption
    · subst x8
      apply State.wr_keeps
      with_reducible assumption
  · subst x7
    apply State.setThm_keeps
    with_reducible assumption

theorem State.countRound_keeps {s0 : State} (s : State) (h : Keeps s0 s) : Keeps s0 (State.countRound s) := by
  unfold State.countRound
  extract_lets +onlyGivenNames x1
  clear_value x1
  extract_lets +onlyGivenNames x2
  have h2 : Keeps s0 x2 := ?_
  · clear_value x2
    extract_lets +onlyGivenNames x3
    have h3 : Keeps s0 x3 := ?_
    · clear_value x3
      extract_lets +onlyGivenNames x4
      have h4 : Keeps s0 x4 := ?_
      · clear_value x4
        extract_lets +onlyGivenNames x5
        have h5 : Keeps s0 x5 := ?_
        · clear_value x5
          refine Keeps.foldl ?_ fun x6 a6 h6 => ?_
          · with_reducible assumption
          · split
            · apply State.lifeAdd_keeps
              with_reducible assumption
            · with_reducible assumption
        · subst x5
          split
          · refine Keeps.foldl ?_ fun x13 a13 h13 => ?_
            · with_reducible assumption
            · split
              · apply State.lifeAdd_keeps
                with_reducible assumption
              · with_reducible assumption
          · with_reducible assumption
      · subst x4
        split
        · apply State.lifeAdd_keeps
          with_reducible assumption
        · with_reducible assumption
    · subst x3
      split
      · apply State.lifeAdd_keeps
        with_reducible assumption
      · with_reducible assumption
  · subst x2
    apply State.lifeAdd_keeps
    with_reducible assumption

theorem State.refCheck_keeps {s0 : State} (s : State) (h : Keeps s0 s) : Keeps s0 (State.refCheck s) := by
  unfold State.refCheck
  extract_lets +onlyGivenNames x1
  clear_value x1
  split
  · with_reducible assumption
  · split
    · apply State.monEvent_keeps
      apply State.setF_keeps
      apply State.setThm_keeps
      with_reducible assumption
    · apply State.setThm_keeps
      with_reducible assumption

theorem State.coreRound_keeps {s0 : State} (s : State) (h : Keeps s0 s) : Keeps s0 (State.coreRound s) := by
  unfold State.coreRound
  extract_lets +onlyGivenNames x1
  have h1 : Keeps s0 x1 := ?_
  · clear_value x1
    extract_lets +onlyGivenNames x2
    have h2 : Keeps s0 x2 := ?_
    · clear_value x2
      extract_lets +onlyGivenNames x3
      clear_value x3
      extract_lets +onlyGivenNames x4
      clear_value x4
      extract_lets +onlyGivenNames x5
      have h5 : Keeps s0 x5 := ?_
      · clear_value x5
        extract_lets +onlyGivenNames x6
        have h6 : Keeps s0 x6 := ?_
        · clear_value x6
          extract_lets +onlyGivenNames x7
          have h7 : Keeps s0 x7 := ?_
          · clear_value x7
            apply State.countRound_keeps
            apply State.govern_keeps
            with_reducible assumption
          · subst x7
            split
            · apply State.monEvent_keeps
              with_reducible assumption
            · with_reducible assumption
        · subst x6
          split
          · apply State.clearCause_keeps
            with_reducible assumption
          · with_reducible assumption
      · subst x5
        apply State.setThm_keeps
        with_reducible assumption
    · subst x2
      apply State.wr_keeps
      with_reducible assumption
  · subst x1
    apply State.refCheck_keeps
    with_reducible assumption

theorem State.diode_keeps {s0 : State} (s : State) (r : Int) (clip : Bool) (h : Keeps s0 s) : Keeps s0 (State.diode s r clip) := by
  unfold State.diode
  extract_lets +onlyGivenNames x1
  have h1 : Keeps s0 x1 := ?_
  · clear_value x1
    split
    · extract_lets +onlyGivenNames x3
      clear_value x3
      extract_lets +onlyGivenNames x4
      have h4 : Keeps s0 x4 := ?_
      · clear_value x4
        apply State.monEvent_keeps
        split
        · with_reducible assumption
        · apply State.greenLoss_keeps
          with_reducible assumption
      · subst x4
        apply State.setThm_keeps
        with_reducible assumption
    · with_reducible assumption
  · subst x1
    split
    · apply State.monEvent_keeps
      with_reducible assumption
    · with_reducible assumption

theorem State.houseResult_keeps {s0 : State} (s : State) (m : Nat) (i : Nat) (r : Int) (clip : Bool) (h : Keeps s0 s) : Keeps s0 (State.houseResult s m i r clip) := by
  unfold State.houseResult
  split
  · extract_lets +onlyGivenNames x2
    clear_value x2
    extract_lets +onlyGivenNames x3
    have h3 : Keeps s0 x3 := ?_
    · clear_value x3
      apply State.railVerdict_keeps
      with_reducible assumption
    · subst x3
      apply State.setThm_keeps
      with_reducible assumption
  · apply State.setThm_keeps
    with_reducible assumption
  · split
    · apply State.setThm_keeps
      with_reducible assumption
    · split
      · apply State.setThm_keeps
        with_reducible assumption
      · with_reducible assumption

theorem State.monWrite_keeps {s0 : State} (s : State) (m : Nat) (c : MonConv) (r : Int) (clip : Bool) (h : Keeps s0 s) : Keeps s0 (State.monWrite s m c r clip) := by
  unfold State.monWrite
  extract_lets +onlyGivenNames x1
  clear_value x1
  split
  · with_reducible assumption
  · extract_lets +onlyGivenNames x4
    have h4 : Keeps s0 x4 := ?_
    · clear_value x4
      extract_lets +onlyGivenNames x5
      have h5 : Keeps s0 x5 := ?_
      · clear_value x5
        extract_lets +onlyGivenNames x6
        have h6 : Keeps s0 x6 := ?_
        · clear_value x6
          extract_lets +onlyGivenNames x7
          have h7 : Keeps s0 x7 := ?_
          · clear_value x7
            extract_lets +onlyGivenNames x8
            have h8 : Keeps s0 x8 := ?_
            · clear_value x8
              extract_lets +onlyGivenNames x9
              have h9 : Keeps s0 x9 := ?_
              · clear_value x9
                split
                · apply State.houseResult_keeps
                  with_reducible assumption
                · with_reducible assumption
              · subst x9
                split
                · apply State.diode_keeps
                  with_reducible assumption
                · with_reducible assumption
            · subst x8
              split
              · apply State.monEvent_keeps
                with_reducible assumption
              · with_reducible assumption
          · subst x7
            split
            · apply State.monEvent_keeps
              with_reducible assumption
            · with_reducible assumption
        · subst x6
          apply State.threshold_keeps
          with_reducible assumption
      · subst x5
        apply State.wr_keeps
        apply State.wr_keeps
        with_reducible assumption
    · subst x4
      apply State.wr_keeps
      apply State.wr_keeps
      apply State.wr_keeps
      with_reducible assumption

theorem State.monAdvance_keeps {s0 : State} (s : State) (m : Nat) (c : MonConv) (h : Keeps s0 s) : Keeps s0 (State.monAdvance s m c) := by
  unfold State.monAdvance
  extract_lets +onlyGivenNames x1
  clear_value x1
  extract_lets +onlyGivenNames x2
  clear_value x2
  split
  · split
    · apply State.setMon_keeps
      with_reducible assumption
    · apply State.monEvent_keeps
      apply State.wr_keeps
      apply State.setMon_keeps
      with_reducible assumption
  · split
    · extract_lets +onlyGivenNames x12
      clear_value x12
      split
      · split
        · extract_lets +onlyGivenNames x15
          have h15 : Keeps s0 x15 := ?_
          · clear_value x15
            apply State.coreRound_keeps
            with_reducible assumption
          · subst x15
            apply State.setMon_keeps
            with_reducible assumption
        · apply State.setMon_keeps
          with_reducible assumption
      · split
        · extract_lets +onlyGivenNames x23
          have h23 : Keeps s0 x23 := ?_
          · clear_value x23
            with_reducible assumption
          · subst x23
            apply State.setMon_keeps
            with_reducible assumption
        · apply State.setMon_keeps
          with_reducible assumption
    · extract_lets +onlyGivenNames x29
      have h29 : Keeps s0 x29 := ?_
      · clear_value x29
        split
        · with_reducible assumption
        · split
          · apply State.wr_keeps
            with_reducible assumption
          · apply State.monEvent_keeps
            apply State.wr_keeps
            with_reducible assumption
      · subst x29
        apply State.setMon_keeps
        with_reducible assumption

theorem execMonConversionDone_keeps {s0 : State} (t : Nat) (m : Nat) (outs : List Int) (s : State) (h : Keeps s0 s) : KeepsOut s0 (execMonConversionDone t m outs s) := by
  unfold execMonConversionDone
  extract_lets +onlyGivenNames x1
  have h1 : Keeps s0 x1 := ?_
  · clear_value x1
    split
    · apply KeepsOut.next
      with_reducible assumption
    · split
      · apply KeepsOut.next
        with_reducible assumption
      · split
        extract_lets +onlyGivenNames x9
        clear_value x9
        extract_lets +onlyGivenNames x10
        have h10 : Keeps s0 x10 := ?_
        · clear_value x10
          apply KeepsOut.next
          apply State.monNext_keeps
          with_reducible assumption
        · subst x10
          apply State.monAdvance_keeps
          apply State.monWrite_keeps
          refine Keeps.ofPair ‹_› ?_
          apply State.draw_keeps
          with_reducible assumption
  · subst x1
    apply State.at_keeps
    with_reducible assumption

theorem State.monRange_keeps {s0 : State} (s : State) (o : Nat) (h : Keeps s0 s) : Keeps s0 (State.monRange s o) := by
  unfold State.monRange
  extract_lets +onlyGivenNames x1
  clear_value x1
  split
  · split
    · apply State.setMon_keeps
      with_reducible assumption
    · with_reducible assumption
  · with_reducible assumption

theorem State.mcalStart_keeps {s0 : State} (s : State) (h : Keeps s0 s) : Keeps s0 (State.mcalStart s) := by
  unfold State.mcalStart
  extract_lets +onlyGivenNames x1
  clear_value x1
  extract_lets +onlyGivenNames x2
  have h2 : Keeps s0 x2 := ?_
  · clear_value x2
    extract_lets +onlyGivenNames x3
    have h3 : Keeps s0 x3 := ?_
    · clear_value x3
      apply State.wr_keeps
      with_reducible assumption
    · subst x3
      refine Keeps.foldl ?_ fun x6 a6 h6 => ?_
      · with_reducible assumption
      · apply State.setMon_keeps
        with_reducible assumption
  · subst x2
    apply State.setThm_keeps
    with_reducible assumption

theorem State.mcal_keeps {s0 : State} (s : State) (h : Keeps s0 s) : Keeps s0 (State.mcal s) := by
  unfold State.mcal
  split
  · apply State.wr_keeps
    with_reducible assumption
  · split
    · apply State.wr_keeps
      with_reducible assumption
    · apply State.wr_keeps
      apply State.mcalStart_keeps
      with_reducible assumption

theorem execMcal_keeps {s0 : State} (t : Nat) (s : State) (h : Keeps s0 s) : KeepsOut s0 (execMcal t s) := by
  unfold execMcal
  extract_lets +onlyGivenNames x1
  have h1 : Keeps s0 x1 := ?_
  · clear_value x1
    split
    · apply KeepsOut.next
      apply State.mcal_keeps
      with_reducible assumption
    · apply KeepsOut.next
      with_reducible assumption
  · subst x1
    apply State.at_keeps
    with_reducible assumption

theorem State.mcalPath_keeps {s0 : State} (s : State) (m : Nat) (p : Nat) (r : McalPath) (h : Keeps s0 s) : Keeps s0 (State.mcalPath s m p r) := by
  unfold State.mcalPath
  extract_lets +onlyGivenNames x1
  clear_value x1
  split
  · extract_lets +onlyGivenNames x3
    have h3 : Keeps s0 x3.2 := ?_
    · clear_value x3
      extract_lets +onlyGivenNames x4
      clear_value x4
      extract_lets +onlyGivenNames x5
      have h5 : Keeps s0 x5 := ?_
      · clear_value x5
        apply State.calApply_keeps
        apply State.calApply_keeps
        with_reducible assumption
      · subst x5
        apply State.wr_keeps
        apply State.wr_keeps
        with_reducible assumption
    · subst x3
      apply State.draw_keeps
      with_reducible assumption
  · apply State.monEvent_keeps
    apply State.calDisagree_keeps
    apply State.setF_keeps
    with_reducible assumption

theorem State.mcalTake_keeps {s0 : State} (s : State) (l : List McalPath) (h : Keeps s0 s) : Keeps s0 (State.mcalTake s l) := by
  unfold State.mcalTake
  split
  · apply State.setF_keeps
    with_reducible assumption
  · refine Keeps.foldl ?_ fun x4 a4 h4 => ?_
    · with_reducible assumption
    · apply State.mcalPath_keeps
      with_reducible assumption

theorem State.mcalEnd_keeps {s0 : State} (s : State) (h : Keeps s0 s) : Keeps s0 (State.mcalEnd s) := by
  unfold State.mcalEnd
  extract_lets +onlyGivenNames x1
  clear_value x1
  extract_lets +onlyGivenNames x2
  have h2 : Keeps s0 x2 := ?_
  · clear_value x2
    extract_lets +onlyGivenNames x3
    have h3 : Keeps s0 x3 := ?_
    · clear_value x3
      extract_lets +onlyGivenNames x4
      clear_value x4
      extract_lets +onlyGivenNames x5
      have h5 : Keeps s0 x5 := ?_
      · clear_value x5
        apply State.bootCheck_keeps
        refine Keeps.foldl ?_ fun x7 a7 h7 => ?_
        · with_reducible assumption
        · apply State.monKick_keeps
          with_reducible assumption
      · subst x5
        apply State.itemDone_keeps
        apply State.setSvc_keeps
        with_reducible assumption
    · subst x3
      refine Keeps.foldl ?_ fun x14 a14 h14 => ?_
      · with_reducible assumption
      · apply State.monEvent_keeps
        with_reducible assumption
  · subst x2
    apply State.wr_keeps
    apply State.setThm_keeps
    with_reducible assumption

theorem execMcalDone_keeps {s0 : State} (t : Nat) (paths : List McalPath) (s : State) (h : Keeps s0 s) : KeepsOut s0 (execMcalDone t paths s) := by
  unfold execMcalDone
  extract_lets +onlyGivenNames x1
  have h1 : Keeps s0 x1 := ?_
  · clear_value x1
    split
    · apply KeepsOut.next
      with_reducible assumption
    · split
      · apply KeepsOut.next
        with_reducible assumption
      · apply KeepsOut.next
        apply State.mcalEnd_keeps
        apply State.mcalTake_keeps
        with_reducible assumption
  · subst x1
    apply State.at_keeps
    with_reducible assumption

theorem State.deriveMon_keeps {s0 : State} (s : State) (h : Keeps s0 s) : Keeps s0 (State.deriveMon s) := by
  unfold State.deriveMon
  split
  · with_reducible assumption
  · extract_lets +onlyGivenNames x3
    have h3 : Keeps s0 x3 := ?_
    · clear_value x3
      apply State.showLimit_keeps
      apply State.both_keeps
      apply State.both_keeps
      apply State.both_keeps
      with_reducible assumption
    · subst x3
      refine Keeps.foldl ?_ fun x9 a9 h9 => ?_
      · with_reducible assumption
      · extract_lets +onlyGivenNames x11
        have h11 : Keeps s0 x11 := ?_
        · clear_value x11
          extract_lets +onlyGivenNames x12
          have h12 : Keeps s0 x12 := ?_
          · clear_value x12
            refine Keeps.foldl ?_ fun x13 a13 h13 => ?_
            · with_reducible assumption
            · split
              · apply State.calDerive_keeps
                apply State.calDerive_keeps
                with_reducible assumption
              · apply State.both_keeps
                apply State.both_keeps
                with_reducible assumption
          · subst x12
            apply State.both_keeps
            with_reducible assumption
        · subst x11
          apply State.both_keeps
          apply State.both_keeps
          apply State.both_keeps
          with_reducible assumption

end Sys2Proof.Machine
end

