-- ==== Sys2Proof/Laws/KeepsDecision.lean ====
section
/-! SUPPORT. What the definitions of Machine/Decision.lean keep: one lemma each. -/

namespace Sys2Proof.Machine

set_option maxRecDepth 10000

theorem State.setSlot_keeps {s0 : State} (s : State) (x : Nat) (hh : Held) (h : Keeps s0 s) : Keeps s0 (State.setSlot s x hh) := by
  unfold State.setSlot
  extract_lets +onlyGivenNames x1
  clear_value x1
  extract_lets +onlyGivenNames x2
  have h2 : Keeps s0 x2 := ?_
  · clear_value x2
    apply State.wr_keeps
    apply State.wr_keeps
    apply State.wr_keeps
    apply State.wr_keeps
    with_reducible assumption
  · subst x2
    with_reducible apply Keeps.mk
    with_reducible assumption

theorem State.setEntry_keeps {s0 : State} (s : State) (e : Nat) (hh : Held) (h : Keeps s0 s) : Keeps s0 (State.setEntry s e hh) := by
  unfold State.setEntry
  extract_lets +onlyGivenNames x1
  clear_value x1
  extract_lets +onlyGivenNames x2
  have h2 : Keeps s0 x2 := ?_
  · clear_value x2
    apply State.wr_keeps
    apply State.wr_keeps
    apply State.wr_keeps
    apply State.wr_keeps
    with_reducible assumption
  · subst x2
    with_reducible apply Keeps.mk
    with_reducible assumption

theorem State.verdictMissing_keeps {s0 : State} (s : State) (n : Nat) (shot : Option Nat) (h : Keeps s0 s) : Keeps s0 (State.verdictMissing s n shot) := by
  unfold State.verdictMissing
  apply State.markShot_keeps
  apply State.combFlag_keeps
  with_reducible assumption

theorem State.selectSpecs_keeps {s0 : State} (s : State) (n : Nat) (tag : Nat) (h : Keeps s0 s) : Keeps s0 (State.selectSpecs s n tag) := by
  unfold State.selectSpecs
  apply State.setComb_keeps
  with_reducible assumption

theorem State.specDefault_keeps {s0 : State} (s : State) (n : Nat) (x : Spec) (h : Keeps s0 s) : Keeps s0 (State.specDefault s n x) := by
  unfold State.specDefault
  extract_lets +onlyGivenNames x1
  clear_value x1
  apply State.verdictMissing_keeps
  apply State.setComb_keeps
  with_reducible assumption

theorem execSpecCutoff_keeps {s0 : State} (t : Nat) (n : Nat) (s : State) (h : Keeps s0 s) : KeepsOut s0 (execSpecCutoff t n s) := by
  unfold execSpecCutoff
  extract_lets +onlyGivenNames x1
  have h1 : Keeps s0 x1 := ?_
  · split
    · apply KeepsOut.next
      refine Keeps.foldl ?_ fun x4 a4 h4 => ?_
      · with_reducible assumption
      · apply State.specDefault_keeps
        with_reducible assumption
    · apply KeepsOut.next
      with_reducible assumption
  · subst x1
    apply State.at_keeps
    with_reducible assumption

theorem State.upToStart_keeps {s0 : State} (s : State) (n : Nat) (c : Nat) (x : Nat) (h : Keeps s0 s) : Keeps s0 (State.upToStart s n c x) := by
  unfold State.upToStart
  extract_lets +onlyGivenNames x1
  clear_value x1
  extract_lets +onlyGivenNames x2
  have h2 : Keeps s0 x2 := ?_
  · clear_value x2
    apply State.playTo_keeps
    apply State.applyActs_keeps
    apply State.settleTo_keeps
    with_reducible assumption
  · subst x2
    apply State.setCell_keeps
    with_reducible assumption

theorem State.overtaken_keeps {s0 : State} (s : State) (n : Nat) (c : Nat) (x : Nat) (ps : List Pulse) (h : Keeps s0 s) : Keeps s0 (State.overtaken s n c x ps) := by
  unfold State.overtaken
  extract_lets +onlyGivenNames x1
  have h1 : Keeps s0 x1 := ?_
  · clear_value x1
    split
    · with_reducible assumption
    · apply State.setF_keeps
      with_reducible assumption
  · subst x1
    refine Keeps.foldl ?_ fun x6 a6 h6 => ?_
    · with_reducible assumption
    · apply State.pulseLate_keeps
      with_reducible assumption

theorem State.startAt_keeps {s0 : State} (s : State) (n : Nat) (c : Nat) (x : Nat) (h : Keeps s0 s) : Keeps s0 (State.startAt s n c x) := by
  unfold State.startAt
  extract_lets +onlyGivenNames x1
  clear_value x1
  extract_lets +onlyGivenNames x2
  have h2 : Keeps s0 x2 := ?_
  · clear_value x2
    split
    · with_reducible assumption
    · split
      · split
        · apply State.overtaken_keeps
          with_reducible assumption
        · extract_lets +onlyGivenNames x9
          have h9 : Keeps s0 x9 := ?_
          · clear_value x9
            extract_lets +onlyGivenNames x10
            have h10 : Keeps s0 x10 := ?_
            · clear_value x10
              apply State.startPulse_keeps
              with_reducible assumption
            · subst x10
              refine Keeps.foldl ?_ fun x13 a13 h13 => ?_
              · with_reducible assumption
              · apply State.specDefault_keeps
                with_reducible assumption
          · subst x9
            apply State.overtaken_keeps
            with_reducible assumption
      · split
        · apply State.overtaken_keeps
          with_reducible assumption
        · extract_lets +onlyGivenNames x22
          have h22 : Keeps s0 x22 := ?_
          · clear_value x22
            extract_lets +onlyGivenNames x23
            have h23 : Keeps s0 x23 := ?_
            · clear_value x23
              apply State.startPulse_keeps
              with_reducible assumption
            · subst x23
              refine Keeps.foldl ?_ fun x26 a26 h26 => ?_
              · with_reducible assumption
              · apply State.specDefault_keeps
                with_reducible assumption
          · subst x22
            apply State.overtaken_keeps
            with_reducible assumption
  · subst x2
    apply State.upToStart_keeps
    with_reducible assumption

theorem execPulseStart_keeps {s0 : State} (t : Nat) (n : Nat) (c : Nat) (s : State) (h : Keeps s0 s) : KeepsOut s0 (execPulseStart t n c s) := by
  unfold execPulseStart
  extract_lets +onlyGivenNames x1
  have h1 : Keeps s0 x1 := ?_
  · clear_value x1
    split
    · apply KeepsOut.next
      with_reducible assumption
    · split
      · apply KeepsOut.next
        apply State.startAt_keeps
        with_reducible assumption
      · apply KeepsOut.next
        with_reducible assumption
  · subst x1
    apply State.at_keeps
    with_reducible assumption

theorem State.addTrig_keeps {s0 : State} (s : State) (n : Nat) (src : Nat) (time : Nat) (h : Keeps s0 s) : Keeps s0 (State.addTrig s n src time) := by
  unfold State.addTrig
  extract_lets +onlyGivenNames x1
  clear_value x1
  extract_lets +onlyGivenNames x2
  clear_value x2
  apply State.setSeq_keeps
  with_reducible assumption

theorem State.verdictTrigs_keeps {s0 : State} (s : State) (tag : Nat) (h : Keeps s0 s) : Keeps s0 (State.verdictTrigs s tag) := by
  unfold State.verdictTrigs
  refine Keeps.foldl ?_ fun x1 a1 h1 => ?_
  · with_reducible assumption
  · refine Keeps.foldl ?_ fun x3 a3 h3 => ?_
    · with_reducible assumption
    · split
      · apply State.addTrig_keeps
        with_reducible assumption
      · with_reducible assumption

theorem State.branchSees_keeps {s0 : State} (s : State) (n : Nat) (h : Keeps s0 s) : Keeps s0 (State.branchSees s n) := by
  unfold State.branchSees
  split
  · split
    · split
      · apply State.setSeq_keeps
        with_reducible assumption
      · with_reducible assumption
    · with_reducible assumption
  · with_reducible assumption

theorem State.tagChanged_keeps {s0 : State} (s : State) (tag : Nat) (h : Keeps s0 s) : Keeps s0 (State.tagChanged s tag) := by
  unfold State.tagChanged
  apply State.verdictTrigs_keeps
  refine Keeps.foldl ?_ fun x2 a2 h2 => ?_
  · with_reducible assumption
  · apply State.branchSees_keeps
    apply State.selectSpecs_keeps
    with_reducible assumption

theorem State.judgeLate_keeps {s0 : State} (s : State) (hh : Held) (h : Keeps s0 s) : Keeps s0 (State.judgeLate s hh) := by
  unfold State.judgeLate
  split
  · with_reducible assumption
  · apply State.decFlag_keeps
    apply State.inc_keeps
    with_reducible assumption

theorem State.dropWord_keeps {s0 : State} (s : State) (h : Keeps s0 s) : Keeps s0 (State.dropWord s) := by
  unfold State.dropWord
  apply State.decFlag_keeps
  apply State.inc_keeps
  with_reducible assumption

theorem State.queueWord_keeps {s0 : State} (s : State) (p : Nat) (time : Nat) (w : Nat) (h : Keeps s0 s) : Keeps s0 (State.queueWord s p time w) := by
  unfold State.queueWord
  split
  · split
    · apply State.dropWord_keeps
      with_reducible assumption
    · apply State.setPort_keeps
      with_reducible assumption
  · with_reducible assumption

theorem State.acceptWord_keeps {s0 : State} (s : State) (p : Nat) (w : Nat) (h : Keeps s0 s) : Keeps s0 (State.acceptWord s p w) := by
  unfold State.acceptWord
  extract_lets +onlyGivenNames x1
  clear_value x1
  split
  · apply State.dropWord_keeps
    with_reducible assumption
  · apply State.setPort_keeps
    with_reducible assumption

theorem State.queueQuery_keeps {s0 : State} (s : State) (kind : Nat) (p : Nat) (tag : Nat) (h : Keeps s0 s) : Keeps s0 (State.queueQuery s kind p tag) := by
  unfold State.queueQuery
  apply State.queueWord_keeps
  with_reducible assumption

theorem State.setAnswers_keeps {s0 : State} (s : State) (l : List (Nat × Nat)) (h : Keeps s0 s) : Keeps s0 (State.setAnswers s l) := by
  unfold State.setAnswers
  apply State.wr_keeps
  with_reducible apply Keeps.mk
  with_reducible assumption

theorem State.answerWith_keeps {s0 : State} (s : State) (tag : Nat) (hh : Held) (but : Option Nat) (h : Keeps s0 s) : Keeps s0 (State.answerWith s tag hh but) := by
  unfold State.answerWith
  split
  · with_reducible assumption
  · refine Keeps.foldl ?_ fun x3 a3 h3 => ?_
    · with_reducible assumption
    · split
      · apply State.queueWord_keeps
        with_reducible assumption
      · with_reducible assumption

theorem State.sendToward_keeps {s0 : State} (s : State) (kind : Nat) (tag : Nat) (h : Keeps s0 s) : Keeps s0 (State.sendToward s kind tag) := by
  unfold State.sendToward
  split
  · with_reducible assumption
  · apply State.queueQuery_keeps
    with_reducible assumption

theorem State.answerOne_keeps {s0 : State} (s : State) (p : Nat) (tag : Nat) (hh : Held) (h : Keeps s0 s) : Keeps s0 (State.answerOne s p tag hh) := by
  unfold State.answerOne
  split
  · with_reducible assumption
  · apply State.queueWord_keeps
    with_reducible assumption

theorem State.takeQuery_keeps {s0 : State} (s : State) (p : Nat) (tag : Nat) (h : Keeps s0 s) : Keeps s0 (State.takeQuery s p tag) := by
  unfold State.takeQuery
  extract_lets +onlyGivenNames x1
  clear_value x1
  extract_lets +onlyGivenNames x2
  clear_value x2
  split
  · apply State.decFlag_keeps
    with_reducible assumption
  · extract_lets +onlyGivenNames x6
    have h6 : Keeps s0 x6 := ?_
    · clear_value x6
      split
      · apply State.answerOne_keeps
        with_reducible assumption
      · extract_lets +onlyGivenNames x10
        have h10 : Keeps s0 x10 := ?_
        · clear_value x10
          split
          · with_reducible assumption
          · apply State.answerOne_keeps
            with_reducible assumption
        · subst x10
          split
          · apply State.sendToward_keeps
            with_reducible assumption
          · with_reducible assumption
    · subst x6
      split
      · apply State.setAnswers_keeps
        with_reducible assumption
      · apply State.setAnswers_keeps
        with_reducible assumption

theorem State.takeCancel_keeps {s0 : State} (s : State) (p : Nat) (tag : Nat) (h : Keeps s0 s) : Keeps s0 (State.takeCancel s p tag) := by
  unfold State.takeCancel
  split
  · with_reducible assumption
  · extract_lets +onlyGivenNames x3
    clear_value x3
    split
    · extract_lets +onlyGivenNames x5
      have h5 : Keeps s0 x5 := ?_
      · clear_value x5
        split
        · with_reducible assumption
        · apply State.sendToward_keeps
          with_reducible assumption
      · subst x5
        apply State.setAnswers_keeps
        with_reducible assumption
    · apply State.setAnswers_keeps
      with_reducible assumption

theorem State.dropAnswers_keeps {s0 : State} (s : State) (p : Nat) (h : Keeps s0 s) : Keeps s0 (State.dropAnswers s p) := by
  unfold State.dropAnswers
  refine Keeps.foldl ?_ fun x1 a1 h1 => ?_
  · with_reducible assumption
  · apply State.takeCancel_keeps
    with_reducible assumption

theorem State.takeVerdict_keeps {s0 : State} (s : State) (p : Nat) (tag : Nat) (verdict : Nat) (time : Nat) (h : Keeps s0 s) : Keeps s0 (State.takeVerdict s p tag verdict time) := by
  unfold State.takeVerdict
  extract_lets +onlyGivenNames x1
  clear_value x1
  extract_lets +onlyGivenNames x2
  have h2 : Keeps s0 x2 := ?_
  · clear_value x2
    split
    · with_reducible assumption
    · split
      · with_reducible assumption
      · split
        · extract_lets +onlyGivenNames x8
          have h8 : Keeps s0 x8 := ?_
          · clear_value x8
            apply State.tagChanged_keeps
            apply State.judgeLate_keeps
            apply State.setEntry_keeps
            with_reducible assumption
          · subst x8
            split
            · apply State.decFlag_keeps
              with_reducible assumption
            · with_reducible assumption
        · with_reducible assumption
        · apply State.decFlag_keeps
          with_reducible assumption
  · subst x2
    apply State.answerWith_keeps
    with_reducible assumption

theorem State.takeWord_keeps {s0 s u : State} {p k x : Nat} (h : Keeps s0 s)
    (e : s.takeWord p k = some (x, u)) : Keeps s0 u := by
  unfold State.takeWord at e
  split at e
  · cases e
  · split at e
    · cases e
    · cases e
      exact State.setPort_keeps _ _ _ h


theorem execVerdictWord_keeps {s0 : State} (t : Nat) (port : Nat) (s : State) (h : Keeps s0 s) : KeepsOut s0 (execVerdictWord t port s) := by
  unfold execVerdictWord
  extract_lets +onlyGivenNames x1
  have h1 : Keeps s0 x1 := ?_
  · clear_value x1
    split
    · apply KeepsOut.next
      with_reducible assumption
    · apply KeepsOut.next
      apply State.takeVerdict_keeps
      refine State.takeWord_keeps ?_ ‹_›
      with_reducible assumption
  · subst x1
    apply State.at_keeps
    with_reducible assumption

theorem execQueryWord_keeps {s0 : State} (t : Nat) (port : Nat) (s : State) (h : Keeps s0 s) : KeepsOut s0 (execQueryWord t port s) := by
  unfold execQueryWord
  extract_lets +onlyGivenNames x1
  have h1 : Keeps s0 x1 := ?_
  · clear_value x1
    split
    · apply KeepsOut.next
      with_reducible assumption
    · apply KeepsOut.next
      apply State.takeQuery_keeps
      refine State.takeWord_keeps ?_ ‹_›
      with_reducible assumption
  · subst x1
    apply State.at_keeps
    with_reducible assumption

theorem execCancelWord_keeps {s0 : State} (t : Nat) (port : Nat) (s : State) (h : Keeps s0 s) : KeepsOut s0 (execCancelWord t port s) := by
  unfold execCancelWord
  extract_lets +onlyGivenNames x1
  have h1 : Keeps s0 x1 := ?_
  · clear_value x1
    split
    · apply KeepsOut.next
      with_reducible assumption
    · apply KeepsOut.next
      apply State.takeCancel_keeps
      refine State.takeWord_keeps ?_ ‹_›
      with_reducible assumption
  · subst x1
    apply State.at_keeps
    with_reducible assumption

theorem State.publish_keeps {s0 : State} (s : State) (p : Pub) (h : Keeps s0 s) : Keeps s0 (State.publish s p) := by
  unfold State.publish
  split
  · with_reducible assumption
  · extract_lets +onlyGivenNames x3
    clear_value x3
    extract_lets +onlyGivenNames x4
    have h4 : Keeps s0 x4 := ?_
    · clear_value x4
      extract_lets +onlyGivenNames x5
      clear_value x5
      split
      · with_reducible assumption
      · apply State.decFlag_keeps
        with_reducible assumption
      · extract_lets +onlyGivenNames x10
        have h10 : Keeps s0 x10 := ?_
        · clear_value x10
          extract_lets +onlyGivenNames x11
          clear_value x11
          extract_lets +onlyGivenNames x12
          have h12 : Keeps s0 x12 := ?_
          · clear_value x12
            extract_lets +onlyGivenNames x13
            have h13 : Keeps s0 x13 := ?_
            · clear_value x13
              apply State.tagChanged_keeps
              with_reducible assumption
            · subst x13
              split
              · apply State.fireS_keeps
                with_reducible assumption
              · with_reducible assumption
          · subst x12
            apply State.answerWith_keeps
            apply State.judgeLate_keeps
            apply State.setSlot_keeps
            with_reducible assumption
        · subst x10
          split
          · apply State.decFlag_keeps
            with_reducible assumption
          · with_reducible assumption
    · subst x4
      split
      · apply State.journalize_keeps
        with_reducible assumption
      · with_reducible assumption

theorem execTagSlotArrival_keeps {s0 : State} (t : Nat) (slot : Nat) (s : State) (h : Keeps s0 s) : KeepsOut s0 (execTagSlotArrival t slot s) := by
  unfold execTagSlotArrival
  extract_lets +onlyGivenNames x1
  have h1 : Keeps s0 x1 := ?_
  · clear_value x1
    split
    · apply KeepsOut.next
      with_reducible assumption
    · split
      · apply KeepsOut.next
        apply State.publish_keeps
        with_reducible apply Keeps.mk
        with_reducible assumption
      · apply KeepsOut.next
        with_reducible assumption
  · subst x1
    apply State.at_keeps
    with_reducible assumption

theorem State.slotClear_keeps {s0 : State} (s : State) (h : Keeps s0 s) : Keeps s0 (State.slotClear s) := by
  unfold State.slotClear
  split
  · extract_lets +onlyGivenNames x2
    clear_value x2
    apply State.wr_keeps
    with_reducible apply Keeps.mk
    with_reducible assumption
  · apply State.wr_keeps
    with_reducible assumption

theorem execSlotClear_keeps {s0 : State} (t : Nat) (s : State) (h : Keeps s0 s) : KeepsOut s0 (execSlotClear t s) := by
  unfold execSlotClear
  extract_lets +onlyGivenNames x1
  have h1 : Keeps s0 x1 := ?_
  · clear_value x1
    split
    · apply KeepsOut.next
      apply State.slotClear_keeps
      with_reducible assumption
    · apply KeepsOut.next
      with_reducible assumption
  · subst x1
    apply State.at_keeps
    with_reducible assumption

theorem State.showCacheUse_keeps {s0 : State} (s : State) (h : Keeps s0 s) : Keeps s0 (State.showCacheUse s) := by
  unfold State.showCacheUse
  apply State.wr_keeps
  with_reducible assumption

theorem State.unsubscribe_keeps {s0 : State} (s : State) (e : Nat) (h : Keeps s0 s) : Keeps s0 (State.unsubscribe s e) := by
  unfold State.unsubscribe
  extract_lets +onlyGivenNames x1
  clear_value x1
  extract_lets +onlyGivenNames x2
  have h2 : Keeps s0 x2 := ?_
  · clear_value x2
    apply State.sendToward_keeps
    apply State.setAnswers_keeps
    with_reducible assumption
  · subst x2
    apply State.wr_keeps
    apply State.wr_keeps
    apply State.setEntry_keeps
    with_reducible assumption

theorem State.subscribe_keeps {s0 : State} (s : State) (tag : Nat) (h : Keeps s0 s) : Keeps s0 (State.subscribe s tag) := by
  unfold State.subscribe
  split
  · with_reducible assumption
  · split
    · apply State.decFlag_keeps
      with_reducible assumption
    · extract_lets +onlyGivenNames x6
      have h6 : Keeps s0 x6 := ?_
      · clear_value x6
        split
        · apply State.decFlag_keeps
          with_reducible assumption
        · apply State.queueQuery_keeps
          with_reducible assumption
      · subst x6
        apply State.wr_keeps
        apply State.wr_keeps
        apply State.setEntry_keeps
        with_reducible assumption

theorem State.resubscribe_keeps {s0 : State} (s : State) (old : List Nat) (h : Keeps s0 s) : Keeps s0 (State.resubscribe s old) := by
  unfold State.resubscribe
  extract_lets +onlyGivenNames x1
  extract_lets +onlyGivenNames x2
  have h2 : Keeps s0 x2 := ?_
  · clear_value x2
    apply State.showCacheUse_keeps
    refine Keeps.foldl ?_ fun x4 a4 h4 => ?_
    · with_reducible assumption
    · apply State.subscribe_keeps
      with_reducible assumption
  · subst x2
    refine Keeps.foldl ?_ fun x8 a8 h8 => ?_
    · with_reducible assumption
    · split
      · apply State.unsubscribe_keeps
        with_reducible assumption
      · with_reducible assumption

theorem State.requery_keeps {s0 : State} (s : State) (p : Nat) (h : Keeps s0 s) : Keeps s0 (State.requery s p) := by
  unfold State.requery
  extract_lets +onlyGivenNames x1
  clear_value x1
  extract_lets +onlyGivenNames x2
  clear_value x2
  refine Keeps.foldl ?_ fun x3 a3 h3 => ?_
  · with_reducible assumption
  · apply State.queueQuery_keeps
    with_reducible assumption

theorem State.requeryDev_keeps {s0 : State} (s : State) (d : Nat) (h : Keeps s0 s) : Keeps s0 (State.requeryDev s d) := by
  unfold State.requeryDev
  split
  · with_reducible assumption
  · extract_lets +onlyGivenNames x3
    clear_value x3
    extract_lets +onlyGivenNames x4
    clear_value x4
    refine Keeps.foldl ?_ fun x5 a5 h5 => ?_
    · with_reducible assumption
    · apply State.queueQuery_keeps
      with_reducible assumption

end Sys2Proof.Machine
end

