-- ==== Sys2Proof/Laws/KeepsSeqStep.lean ====
section
/-! SUPPORT. What the definitions of Machine/SeqStep.lean keep: one lemma each. -/

namespace Sys2Proof.Machine

set_option maxRecDepth 10000

theorem State.fetchMicro_keeps {s0 : State} (s : State) (n : Nat) (h : Keeps s0 s) : Keeps s0 (State.fetchMicro s n).2 := by
  unfold State.fetchMicro
  extract_lets +onlyGivenNames x1
  clear_value x1
  split
  · split
    · apply Keeps.mk2
      with_reducible assumption
    · split
      · apply Keeps.mk2
        apply State.incSat_keeps
        with_reducible apply Keeps.mk
        with_reducible assumption
      · apply Keeps.mk2
        apply State.raiseFault_keeps
        with_reducible assumption
  · apply Keeps.mk2
    apply State.raiseFault_keeps
    with_reducible assumption

theorem State.addFixes_keeps {s0 : State} (s : State) (r : Fld) (k : Nat) (h : Keeps s0 s) : Keeps s0 (State.addFixes s r k) := by
  unfold State.addFixes
  split
  · with_reducible assumption
  · apply State.wr_keeps
    with_reducible assumption

theorem State.fetchNano_keeps {s0 : State} (s : State) (n : Nat) (i : Nat) (h : Keeps s0 s) : Keeps s0 (State.fetchNano s n i).2 := by
  unfold State.fetchNano
  extract_lets +onlyGivenNames x1
  clear_value x1
  extract_lets +onlyGivenNames x2
  clear_value x2
  split
  · apply Keeps.mk2
    with_reducible assumption
  · extract_lets +onlyGivenNames x6
    clear_value x6
    extract_lets +onlyGivenNames x7
    have h7 : Keeps s0 x7 := ?_
    · clear_value x7
      split
      · apply Keeps.mk2
        with_reducible assumption
      · apply Keeps.mk2
        apply State.raiseFault_keeps
        with_reducible assumption
    · subst x7
      apply State.addFixes_keeps
      with_reducible apply Keeps.mk
      with_reducible assumption

theorem State.setAnchor_keeps {s0 : State} (s : State) (n : Nat) (a : Nat) (h : Keeps s0 s) : Keeps s0 (State.setAnchor s n a) := by
  unfold State.setAnchor
  apply State.setSeq_keeps
  with_reducible assumption

theorem State.goto_keeps {s0 : State} (s : State) (n : Nat) (pc : Nat) (h : Keeps s0 s) : Keeps s0 (State.goto s n pc) := by
  unfold State.goto
  apply State.runStep_keeps
  apply State.wr_keeps
  apply State.setSeq_keeps
  with_reducible assumption

theorem State.goNext_keeps {s0 : State} (s : State) (n : Nat) (h : Keeps s0 s) : Keeps s0 (State.goNext s n) := by
  unfold State.goNext
  apply State.goto_keeps
  with_reducible assumption

theorem State.addEvent_keeps {s0 : State} (s : State) (n : Nat) (tick : Nat) (h : Keeps s0 s) : Keeps s0 (State.addEvent s n tick) := by
  unfold State.addEvent
  apply State.setSeq_keeps
  with_reducible assumption

theorem State.recordSafe_keeps {s0 : State} (s : State) (n : Nat) (h : Keeps s0 s) : Keeps s0 (State.recordSafe s n) := by
  unfold State.recordSafe
  extract_lets +onlyGivenNames x1
  clear_value x1
  extract_lets +onlyGivenNames x2
  clear_value x2
  apply State.wr_keeps
  apply State.setSeq_keeps
  with_reducible assumption

theorem State.stepWith_keeps {s0 : State} (s : State) (n : Nat) (is : Nat → Bool) (eff : State → Nat → State) (h : Keeps s0 s)
    (k : ∀ s w, Keeps s0 s → Keeps s0 (eff s w)) : Keeps s0 (State.stepWith s n is eff) := by
  unfold State.stepWith
  split
  · exact h
  · split
    · exact State.setWait_keeps _ _ _ h
    · have f : Keeps s0 (s.fetchMicro n).2 := State.fetchMicro_keeps _ _ h
      split
      · rename_i e
        rw [e] at f
        exact f
      · rename_i w u e
        rw [e] at f
        split
        · exact h
        · split
          · exact k _ _ f
          · split
            · exact State.setWait_keeps _ _ _ f
            · have g : Keeps s0 (u.recordSafe n) := State.recordSafe_keeps _ _ f
              dsimp only
              split
              · rename_i e
                exact State.takeSafe_keeps g e
              · exact k _ _ g


theorem execNop_keeps {s0 : State} (t : Nat) (n : Nat) (s : State) (h : Keeps s0 s) : KeepsOut s0 (execNop t n s) := by
  unfold execNop
  apply KeepsOut.next
  apply State.stepWith_keeps
  · apply State.at_keeps
    with_reducible assumption
  · intro y5_0 y5_1 y5_2
    apply State.goNext_keeps
    with_reducible assumption

theorem execWait_keeps {s0 : State} (t : Nat) (n : Nat) (s : State) (h : Keeps s0 s) : KeepsOut s0 (execWait t n s) := by
  unfold execWait
  apply KeepsOut.next
  apply State.stepWith_keeps
  · apply State.at_keeps
    with_reducible assumption
  · intro y5_0 y5_1 y5_2
    apply State.goNext_keeps
    apply State.setAnchor_keeps
    with_reducible assumption

theorem State.setCount_keeps {s0 : State} (s : State) (n : Nat) (k : Nat) (v : Nat) (h : Keeps s0 s) : Keeps s0 (State.setCount s n k v) := by
  unfold State.setCount
  apply State.wr_keeps
  apply State.journalize_keeps
  with_reducible assumption

theorem execSetcLoad_keeps {s0 : State} (t : Nat) (n : Nat) (s : State) (h : Keeps s0 s) : KeepsOut s0 (execSetcLoad t n s) := by
  unfold execSetcLoad
  apply KeepsOut.next
  apply State.stepWith_keeps
  · apply State.at_keeps
    with_reducible assumption
  · intro y5_0 y5_1 y5_2
    apply State.goNext_keeps
    apply State.setCount_keeps
    with_reducible assumption

theorem execSetcInit_keeps {s0 : State} (t : Nat) (n : Nat) (s : State) (h : Keeps s0 s) : KeepsOut s0 (execSetcInit t n s) := by
  unfold execSetcInit
  apply KeepsOut.next
  apply State.stepWith_keeps
  · apply State.at_keeps
    with_reducible assumption
  · intro y5_0 y5_1 y5_2
    apply State.goNext_keeps
    apply State.setCount_keeps
    with_reducible assumption

theorem execSetcAdd_keeps {s0 : State} (t : Nat) (n : Nat) (s : State) (h : Keeps s0 s) : KeepsOut s0 (execSetcAdd t n s) := by
  unfold execSetcAdd
  apply KeepsOut.next
  apply State.stepWith_keeps
  · apply State.at_keeps
    with_reducible assumption
  · intro y5_0 y5_1 y5_2
    apply State.goNext_keeps
    apply State.setCount_keeps
    with_reducible assumption

theorem execSetcSub_keeps {s0 : State} (t : Nat) (n : Nat) (s : State) (h : Keeps s0 s) : KeepsOut s0 (execSetcSub t n s) := by
  unfold execSetcSub
  apply KeepsOut.next
  apply State.stepWith_keeps
  · apply State.at_keeps
    with_reducible assumption
  · intro y5_0 y5_1 y5_2
    apply State.goNext_keeps
    apply State.setCount_keeps
    with_reducible assumption

theorem execLoop_keeps {s0 : State} (t : Nat) (n : Nat) (s : State) (h : Keeps s0 s) : KeepsOut s0 (execLoop t n s) := by
  unfold execLoop
  apply KeepsOut.next
  apply State.stepWith_keeps
  · apply State.at_keeps
    with_reducible assumption
  · intro y5_0 y5_1 y5_2
    extract_lets +onlyGivenNames x6
    clear_value x6
    extract_lets +onlyGivenNames x7
    clear_value x7
    split
    · apply State.goNext_keeps
      with_reducible assumption
    · extract_lets +onlyGivenNames x11
      have h11 : Keeps s0 x11 := ?_
      · clear_value x11
        split
        · apply State.goNext_keeps
          with_reducible assumption
        · apply State.goto_keeps
          with_reducible assumption
      · subst x11
        apply State.setCount_keeps
        with_reducible assumption

theorem execHalt_keeps {s0 : State} (t : Nat) (n : Nat) (s : State) (h : Keeps s0 s) : KeepsOut s0 (execHalt t n s) := by
  unfold execHalt
  apply KeepsOut.next
  apply State.stepWith_keeps
  · apply State.at_keeps
    with_reducible assumption
  · intro y5_0 y5_1 y5_2
    apply State.fireS_keeps
    apply State.wr_keeps
    apply State.wr_keeps
    apply State.goNext_keeps
    with_reducible assumption

theorem State.addPulse_keeps {s0 : State} (s : State) (n : Nat) (c : Nat) (ts : Nat) (v : Nat) (alt : Option Nat) (iss : Issue) (h : Keeps s0 s) : Keeps s0 (State.addPulse s n c ts v alt iss) := by
  unfold State.addPulse
  extract_lets +onlyGivenNames x1
  clear_value x1
  extract_lets +onlyGivenNames x2
  clear_value x2
  extract_lets +onlyGivenNames x3
  clear_value x3
  extract_lets +onlyGivenNames x4
  have h4 : Keeps s0 x4 := ?_
  · clear_value x4
    apply State.setCell_keeps
    with_reducible assumption
  · subst x4
    apply State.cutSpecs_keeps
    with_reducible assumption

theorem State.playJump_keeps {s0 : State} (s : State) (n : Nat) (c : Nat) (ts : Nat) (iss : Issue) (h : Keeps s0 s) : Keeps s0 (State.playJump s n c ts iss) := by
  unfold State.playJump
  split
  · apply State.askJump_keeps
    with_reducible assumption
  · apply State.combFlag_keeps
    with_reducible assumption

theorem State.playCells_keeps {s0 : State} (s : State) (n : Nat) (ts : Nat) (v : Nat) (w : Nat) (iss : Issue) (h : Keeps s0 s) : Keeps s0 (State.playCells s n ts v w iss) := by
  unfold State.playCells
  extract_lets +onlyGivenNames x1
  clear_value x1
  split
  · refine Keeps.foldl ?_ fun x3 a3 h3 => ?_
    · with_reducible assumption
    · apply State.playJump_keeps
      with_reducible assumption
  · split
    · extract_lets +onlyGivenNames x8
      clear_value x8
      extract_lets +onlyGivenNames x9
      have h9 : Keeps s0 x9 := ?_
      · clear_value x9
        extract_lets +onlyGivenNames x10
        clear_value x10
        split
        · extract_lets +onlyGivenNames x12
          have h12 : Keeps s0 x12 := ?_
          · clear_value x12
            apply State.markShot_keeps
            apply State.decFlag_keeps
            with_reducible assumption
          · subst x12
            refine Keeps.foldl ?_ fun x16 a16 h16 => ?_
            · with_reducible assumption
            · apply State.addPulse_keeps
              with_reducible assumption
        · extract_lets +onlyGivenNames x20
          have h20 : Keeps s0 x20 := ?_
          · clear_value x20
            extract_lets +onlyGivenNames x21
            clear_value x21
            extract_lets +onlyGivenNames x22
            clear_value x22
            apply State.setComb_keeps
            with_reducible assumption
          · subst x20
            refine Keeps.foldl ?_ fun x25 a25 h25 => ?_
            · with_reducible assumption
            · apply State.addPulse_keeps
              with_reducible assumption
      · subst x9
        apply State.setComb_keeps
        with_reducible assumption
    · refine Keeps.foldl ?_ fun x31 a31 h31 => ?_
      · with_reducible assumption
      · apply State.addPulse_keeps
        with_reducible assumption

theorem State.addCheck_keeps {s0 : State} (s : State) (n : Nat) (v : Nat) (iss : Issue) (h : Keeps s0 s) : Keeps s0 (State.addCheck s n v iss) := by
  unfold State.addCheck
  split
  · with_reducible assumption
  · extract_lets +onlyGivenNames x3
    clear_value x3
    extract_lets +onlyGivenNames x4
    clear_value x4
    extract_lets +onlyGivenNames x5
    have h5 : Keeps s0 x5 := ?_
    · clear_value x5
      extract_lets +onlyGivenNames x6
      have h6 : Keeps s0 x6 := ?_
      · clear_value x6
        apply State.setSeq_keeps
        with_reducible assumption
      · subst x6
        split
        · apply State.askDesc_keeps
          with_reducible assumption
        · with_reducible assumption
    · subst x5
      apply State.askDesc_keeps
      with_reducible assumption

theorem State.playBias_keeps {s0 : State} (s : State) (n : Nat) (ts : Nat) (v : Nat) (iss : Issue) (h : Keeps s0 s) : Keeps s0 (State.playBias s n ts v iss) := by
  unfold State.playBias
  extract_lets +onlyGivenNames x1
  clear_value x1
  extract_lets +onlyGivenNames x2
  clear_value x2
  split
  · extract_lets +onlyGivenNames x4
    clear_value x4
    extract_lets +onlyGivenNames x5
    clear_value x5
    split
    · with_reducible assumption
    · split
      · apply State.markShot_keeps
        apply State.setF_keeps
        with_reducible assumption
      · extract_lets +onlyGivenNames x12
        clear_value x12
        refine Keeps.foldl ?_ fun x13 a13 h13 => ?_
        · with_reducible assumption
        · apply State.setBias_keeps
          with_reducible assumption
  · extract_lets +onlyGivenNames x17
    have h17 : Keeps s0 x17 := ?_
    · clear_value x17
      extract_lets +onlyGivenNames x18
      have h18 : Keeps s0 x18 := ?_
      · clear_value x18
        split
        · apply State.askLoad_keeps
          with_reducible assumption
        · with_reducible assumption
      · subst x18
        refine Keeps.foldl ?_ fun x23 a23 h23 => ?_
        · with_reducible assumption
        · apply State.stage_keeps
          with_reducible assumption
    · subst x17
      split
      · with_reducible assumption
      · apply State.journalize_keeps
        with_reducible assumption

theorem State.playMark_keeps {s0 : State} (s : State) (n : Nat) (ts : Nat) (v : Nat) (iss : Issue) (h : Keeps s0 s) : Keeps s0 (State.playMark s n ts v iss) := by
  unfold State.playMark
  split
  · apply State.placeSet_keeps
    with_reducible assumption
  · with_reducible assumption

theorem State.addWin_keeps {s0 : State} (s : State) (n : Nat) (c : Nat) (w : Win) (h : Keeps s0 s) : Keeps s0 (State.addWin s n c w) := by
  unfold State.addWin
  extract_lets +onlyGivenNames x1
  clear_value x1
  apply State.setLane_keeps
  with_reducible assumption

theorem State.playWins_keeps {s0 : State} (s : State) (n : Nat) (ts : Nat) (v : Nat) (iss : Issue) (h : Keeps s0 s) : Keeps s0 (State.playWins s n ts v iss) := by
  unfold State.playWins
  refine Keeps.foldl ?_ fun x1 a1 h1 => ?_
  · with_reducible assumption
  · apply State.addWin_keeps
    with_reducible assumption

theorem State.playStep_keeps {s0 : State} (s : State) (n : Nat) (w : Nat) (meas : Bool) (h : Keeps s0 s) : Keeps s0 (State.playStep s n w meas) := by
  unfold State.playStep
  split
  · refine Keeps.ofPair ‹_› ?_
    apply State.fetchNano_keeps
    with_reducible assumption
  · extract_lets +onlyGivenNames x5
    clear_value x5
    extract_lets +onlyGivenNames x6
    clear_value x6
    extract_lets +onlyGivenNames x7
    have h7 : Keeps s0 x7 := ?_
    · clear_value x7
      extract_lets +onlyGivenNames x8
      have h8 : Keeps s0 x8 := ?_
      · clear_value x8
        apply State.goNext_keeps
        split
        · apply State.playWins_keeps
          with_reducible assumption
        · with_reducible assumption
      · subst x8
        apply State.playMark_keeps
        apply State.playBias_keeps
        apply State.addCheck_keeps
        apply State.playCells_keeps
        with_reducible assumption
    · subst x7
      apply State.addEvent_keeps
      refine Keeps.ofPair ‹_› ?_
      apply State.fetchNano_keeps
      with_reducible assumption

theorem execPlay_keeps {s0 : State} (t : Nat) (n : Nat) (s : State) (h : Keeps s0 s) : KeepsOut s0 (execPlay t n s) := by
  unfold execPlay
  apply KeepsOut.next
  apply State.stepWith_keeps
  · apply State.at_keeps
    with_reducible assumption
  · intro y5_0 y5_1 y5_2
    apply State.playStep_keeps
    with_reducible assumption

theorem execMeas_keeps {s0 : State} (t : Nat) (n : Nat) (s : State) (h : Keeps s0 s) : KeepsOut s0 (execMeas t n s) := by
  unfold execMeas
  apply KeepsOut.next
  apply State.stepWith_keeps
  · apply State.at_keeps
    with_reducible assumption
  · intro y5_0 y5_1 y5_2
    apply State.playStep_keeps
    with_reducible assumption

theorem State.frameStep_keeps {s0 : State} (s : State) (n : Nat) (w : Nat) (h : Keeps s0 s) : Keeps s0 (State.frameStep s n w) := by
  unfold State.frameStep
  split
  · refine Keeps.ofPair ‹_› ?_
    apply State.fetchNano_keeps
    with_reducible assumption
  · extract_lets +onlyGivenNames x5
    clear_value x5
    extract_lets +onlyGivenNames x6
    clear_value x6
    extract_lets +onlyGivenNames x7
    have h7 : Keeps s0 x7 := ?_
    · clear_value x7
      apply State.goNext_keeps
      apply State.addEvent_keeps
      with_reducible assumption
    · subst x7
      refine Keeps.foldl ?_ fun x11 a11 h11 => ?_
      · refine Keeps.ofPair ‹_› ?_
        apply State.fetchNano_keeps
        with_reducible assumption
      · apply State.setCell_keeps
        with_reducible assumption

theorem execFrame_keeps {s0 : State} (t : Nat) (n : Nat) (s : State) (h : Keeps s0 s) : KeepsOut s0 (execFrame t n s) := by
  unfold execFrame
  apply KeepsOut.next
  apply State.stepWith_keeps
  · apply State.at_keeps
    with_reducible assumption
  · intro y5_0 y5_1 y5_2
    apply State.frameStep_keeps
    with_reducible assumption

theorem State.publishStep_keeps {s0 : State} (s : State) (n : Nat) (w : Nat) (h : Keeps s0 s) : Keeps s0 (State.publishStep s n w) := by
  unfold State.publishStep
  extract_lets +onlyGivenNames x1
  clear_value x1
  extract_lets +onlyGivenNames x2
  clear_value x2
  apply State.goNext_keeps
  apply State.addEvent_keeps
  with_reducible apply Keeps.mk
  with_reducible assumption

theorem execPublish_keeps {s0 : State} (t : Nat) (n : Nat) (s : State) (h : Keeps s0 s) : KeepsOut s0 (execPublish t n s) := by
  unfold execPublish
  apply KeepsOut.next
  apply State.stepWith_keeps
  · apply State.at_keeps
    with_reducible assumption
  · intro y5_0 y5_1 y5_2
    apply State.publishStep_keeps
    with_reducible assumption

theorem State.push_keeps {s0 : State} (s : State) (n : Nat) (ret : Nat) (h : Keeps s0 s) : Keeps s0 (State.push s n ret) := by
  unfold State.push
  extract_lets +onlyGivenNames x1
  clear_value x1
  extract_lets +onlyGivenNames x2
  clear_value x2
  extract_lets +onlyGivenNames x3
  clear_value x3
  extract_lets +onlyGivenNames x4
  have h4 : Keeps s0 x4 := ?_
  · clear_value x4
    extract_lets +onlyGivenNames x5
    clear_value x5
    apply State.setSeq_keeps
    with_reducible assumption
  · subst x4
    split
    · apply State.journalize_keeps
      apply State.setSeq_keeps
      with_reducible assumption
    · with_reducible assumption

theorem State.takeWay_keeps {s0 : State} (s : State) (n : Nat) (target : Nat) (w : Nat) (call : Bool) (h : Keeps s0 s) : Keeps s0 (State.takeWay s n target w call) := by
  unfold State.takeWay
  extract_lets +onlyGivenNames x1
  have h1 : Keeps s0 x1 := ?_
  · clear_value x1
    apply State.goto_keeps
    with_reducible assumption
  · subst x1
    split
    · apply State.push_keeps
      with_reducible assumption
    · with_reducible assumption

theorem State.latePin_keeps {s0 : State} (s : State) (n : Nat) (late : Bool) (h : Keeps s0 s) : Keeps s0 (State.latePin s n late) := by
  unfold State.latePin
  split
  · apply State.markOpen_keeps
    apply State.combFlag_keeps
    with_reducible assumption
  · with_reducible assumption

theorem State.missed_keeps {s0 : State} (s : State) (n : Nat) (a : Nat) (cs : CSet) (target : Nat) (call : Bool) (h : Keeps s0 s) : Keeps s0 (State.missed s n a cs target call) := by
  unfold State.missed
  extract_lets +onlyGivenNames x1
  have h1 : Keeps s0 x1 := ?_
  · clear_value x1
    split
    · apply State.takeWay_keeps
      apply State.latePin_keeps
      with_reducible assumption
    · apply State.raiseFault_keeps
      with_reducible assumption
  · subst x1
    apply State.verdictMissing_keeps
    with_reducible assumption

theorem State.branchStep_keeps {s0 : State} (s : State) (n : Nat) (w : Nat) (call : Bool) (h : Keeps s0 s) : Keeps s0 (State.branchStep s n w call) := by
  unfold State.branchStep
  split
  · split
    · apply State.takeWay_keeps
      apply State.latePin_keeps
      with_reducible assumption
    · with_reducible assumption
  · extract_lets +onlyGivenNames x7
    clear_value x7
    extract_lets +onlyGivenNames x8
    clear_value x8
    extract_lets +onlyGivenNames x9
    clear_value x9
    split
    · apply State.takeWay_keeps
      apply State.latePin_keeps
      with_reducible assumption
    · split
      · apply State.missed_keeps
        with_reducible assumption
      · apply State.setWait_keeps
        with_reducible assumption

theorem execBranch_keeps {s0 : State} (t : Nat) (n : Nat) (s : State) (h : Keeps s0 s) : KeepsOut s0 (execBranch t n s) := by
  unfold execBranch
  apply KeepsOut.next
  apply State.stepWith_keeps
  · apply State.at_keeps
    with_reducible assumption
  · intro y5_0 y5_1 y5_2
    apply State.branchStep_keeps
    with_reducible assumption

theorem execCall_keeps {s0 : State} (t : Nat) (n : Nat) (s : State) (h : Keeps s0 s) : KeepsOut s0 (execCall t n s) := by
  unfold execCall
  apply KeepsOut.next
  apply State.stepWith_keeps
  · apply State.at_keeps
    with_reducible assumption
  · intro y5_0 y5_1 y5_2
    apply State.branchStep_keeps
    with_reducible assumption

theorem execVerdictHorizonExpiry_keeps {s0 : State} (t : Nat) (n : Nat) (s : State) (h : Keeps s0 s) : KeepsOut s0 (execVerdictHorizonExpiry t n s) := by
  unfold execVerdictHorizonExpiry
  extract_lets +onlyGivenNames x1
  have h1 : Keeps s0 x1 := ?_
  · clear_value x1
    split
    · split
      · apply KeepsOut.next
        apply State.missed_keeps
        with_reducible assumption
      · apply KeepsOut.next
        with_reducible assumption
    · apply KeepsOut.next
      with_reducible assumption
  · subst x1
    apply State.at_keeps
    with_reducible assumption

theorem execRet_keeps {s0 : State} (t : Nat) (n : Nat) (s : State) (h : Keeps s0 s) : KeepsOut s0 (execRet t n s) := by
  unfold execRet
  apply KeepsOut.next
  apply State.stepWith_keeps
  · apply State.at_keeps
    with_reducible assumption
  · intro y5_0 y5_1 y5_2
    extract_lets +onlyGivenNames x6
    clear_value x6
    split
    · split
      · apply State.goto_keeps
        apply State.setSeq_keeps
        with_reducible assumption
      · apply State.goto_keeps
        apply State.setSeq_keeps
        with_reducible assumption
    · apply State.goto_keeps
      apply State.setSeq_keeps
      with_reducible assumption

theorem execWaitt_keeps {s0 : State} (t : Nat) (n : Nat) (s : State) (h : Keeps s0 s) : KeepsOut s0 (execWaitt t n s) := by
  unfold execWaitt
  apply KeepsOut.next
  apply State.stepWith_keeps
  · apply State.at_keeps
    with_reducible assumption
  · intro y5_0 y5_1 y5_2
    extract_lets +onlyGivenNames x6
    clear_value x6
    apply State.setWait_keeps
    with_reducible assumption

theorem State.endAt_keeps {s0 : State} (s : State) (n : Nat) (a : Nat) (timeout : Bool) (h : Keeps s0 s) : Keeps s0 (State.endAt s n a timeout) := by
  unfold State.endAt
  extract_lets +onlyGivenNames x1
  clear_value x1
  extract_lets +onlyGivenNames x2
  have h2 : Keeps s0 x2 := ?_
  · clear_value x2
    extract_lets +onlyGivenNames x3
    have h3 : Keeps s0 x3 := ?_
    · clear_value x3
      apply State.goNext_keeps
      with_reducible assumption
    · subst x3
      split
      · apply State.setF_keeps
        with_reducible assumption
      · with_reducible assumption
  · subst x2
    apply State.setSeq_keeps
    with_reducible assumption

theorem execWaittTriggered_keeps {s0 : State} (t : Nat) (n : Nat) (s : State) (h : Keeps s0 s) : KeepsOut s0 (execWaittTriggered t n s) := by
  unfold execWaittTriggered
  extract_lets +onlyGivenNames x1
  have h1 : Keeps s0 x1 := ?_
  · clear_value x1
    split
    · split
      · split
        · apply KeepsOut.next
          apply State.endAt_keeps
          with_reducible assumption
        · apply KeepsOut.next
          with_reducible assumption
      · apply KeepsOut.next
        with_reducible assumption
    · apply KeepsOut.next
      with_reducible assumption
  · subst x1
    apply State.at_keeps
    with_reducible assumption

theorem execWaittTimeout_keeps {s0 : State} (t : Nat) (n : Nat) (s : State) (h : Keeps s0 s) : KeepsOut s0 (execWaittTimeout t n s) := by
  unfold execWaittTimeout
  extract_lets +onlyGivenNames x1
  have h1 : Keeps s0 x1 := ?_
  · clear_value x1
    split
    · split
      · apply KeepsOut.next
        apply State.endAt_keeps
        with_reducible assumption
      · apply KeepsOut.next
        with_reducible assumption
    · apply KeepsOut.next
      with_reducible assumption
  · subst x1
    apply State.at_keeps
    with_reducible assumption

theorem execSync_keeps {s0 : State} (t : Nat) (n : Nat) (s : State) (h : Keeps s0 s) : KeepsOut s0 (execSync t n s) := by
  unfold execSync
  apply KeepsOut.next
  apply State.stepWith_keeps
  · apply State.at_keeps
    with_reducible assumption
  · intro y5_0 y5_1 y5_2
    apply State.setWait_keeps
    with_reducible assumption

theorem State.releaseBarrier_keeps {s0 : State} (s : State) (b : Nat) (h : Keeps s0 s) : Keeps s0 (State.releaseBarrier s b) := by
  unfold State.releaseBarrier
  extract_lets +onlyGivenNames x1
  clear_value x1
  split
  · extract_lets +onlyGivenNames x3
    clear_value x3
    refine Keeps.foldl ?_ fun x4 a4 h4 => ?_
    · with_reducible assumption
    · extract_lets +onlyGivenNames x6
      have h6 : Keeps s0 x6 := ?_
      · clear_value x6
        apply State.endAt_keeps
        with_reducible assumption
      · subst x6
        split
        · apply State.setF_keeps
          with_reducible assumption
        · with_reducible assumption
  · with_reducible assumption

theorem execSyncRelease_keeps {s0 : State} (t : Nat) (barrier : Nat) (s : State) (h : Keeps s0 s) : KeepsOut s0 (execSyncRelease t barrier s) := by
  unfold execSyncRelease
  apply KeepsOut.next
  apply State.releaseBarrier_keeps
  apply State.at_keeps
  with_reducible assumption

theorem execSyncTimeout_keeps {s0 : State} (t : Nat) (n : Nat) (s : State) (h : Keeps s0 s) : KeepsOut s0 (execSyncTimeout t n s) := by
  unfold execSyncTimeout
  extract_lets +onlyGivenNames x1
  have h1 : Keeps s0 x1 := ?_
  · clear_value x1
    split
    · split
      · apply KeepsOut.next
        apply State.endAt_keeps
        with_reducible assumption
      · apply KeepsOut.next
        with_reducible assumption
    · apply KeepsOut.next
      with_reducible assumption
  · subst x1
    apply State.at_keeps
    with_reducible assumption

theorem State.newBarriers_keeps {s0 : State} (s : State) (n : Nat) (h : Keeps s0 s) : Keeps s0 (State.newBarriers s n) := by
  unfold State.newBarriers
  split
  · split
    · with_reducible assumption
    · apply State.releaseBarrier_keeps
      apply State.endAt_keeps
      apply State.setF_keeps
      with_reducible assumption
  · with_reducible assumption

theorem State.openNew_keeps {s0 : State} (s : State) (n : Nat) (h : Keeps s0 s) : Keeps s0 (State.openNew s n) := by
  unfold State.openNew
  extract_lets +onlyGivenNames x1
  clear_value x1
  extract_lets +onlyGivenNames x2
  have h2 : Keeps s0 x2 := ?_
  · clear_value x2
    extract_lets +onlyGivenNames x3
    clear_value x3
    extract_lets +onlyGivenNames x4
    clear_value x4
    extract_lets +onlyGivenNames x5
    clear_value x5
    extract_lets +onlyGivenNames x6
    have h6 : Keeps s0 x6 := ?_
    · clear_value x6
      extract_lets +onlyGivenNames x7
      have h7 : Keeps s0 x7 := ?_
      · clear_value x7
        split
        · apply State.markShot_keeps
          with_reducible assumption
        · with_reducible assumption
      · subst x7
        apply State.fireSAt_keeps
        apply State.wr_keeps
        apply State.wr_keeps
        with_reducible assumption
    · subst x6
      apply State.setSeq_keeps
      with_reducible assumption
  · subst x2
    apply State.inc_keeps
    with_reducible assumption

theorem State.defer_keeps {s0 : State} (s : State) (n : Nat) (a : Nat) (h : Keeps s0 s) : Keeps s0 (State.defer s n a) := by
  unfold State.defer
  extract_lets +onlyGivenNames x1
  clear_value x1
  apply State.combFlag_keeps
  apply State.setAnchor_keeps
  apply State.wr_keeps
  apply State.incSat_keeps
  with_reducible assumption

theorem State.fixBoundary_keeps {s0 : State} (s : State) (n : Nat) (h : Keeps s0 s) : Keeps s0 (State.fixBoundary s n) := by
  unfold State.fixBoundary
  split
  · with_reducible assumption
  · extract_lets +onlyGivenNames x3
    clear_value x3
    extract_lets +onlyGivenNames x4
    have h4 : Keeps s0 x4 := ?_
    · clear_value x4
      extract_lets +onlyGivenNames x5
      clear_value x5
      split
      · with_reducible assumption
      · extract_lets +onlyGivenNames x8
        have h8 : Keeps s0 x8 := ?_
        · clear_value x8
          split
          · apply State.raiseInt_keeps
            with_reducible assumption
          · with_reducible assumption
        · subst x8
          apply State.wr_keeps
          with_reducible assumption
    · subst x4
      split
      · apply State.setSeq_keeps
        with_reducible assumption
      · with_reducible assumption

theorem State.shotBegin_keeps {s0 : State} (s : State) (n : Nat) (h : Keeps s0 s) : Keeps s0 (State.shotBegin s n) := by
  unfold State.shotBegin
  split
  · apply State.goNext_keeps
    apply State.setF_keeps
    with_reducible assumption
  · split
    · apply State.setWait_keeps
      with_reducible assumption
    · extract_lets +onlyGivenNames x8
      have h8 : Keeps s0 x8 := ?_
      · clear_value x8
        apply State.goNext_keeps
        apply State.openNew_keeps
        split
        · apply State.defer_keeps
          with_reducible assumption
        · with_reducible assumption
      · subst x8
        apply State.fixTxns_keeps
        apply State.fixBoundary_keeps
        with_reducible assumption

theorem execShotBegin_keeps {s0 : State} (t : Nat) (n : Nat) (s : State) (h : Keeps s0 s) : KeepsOut s0 (execShotBegin t n s) := by
  unfold execShotBegin
  apply KeepsOut.next
  apply State.stepWith_keeps
  · apply State.at_keeps
    with_reducible assumption
  · intro y5_0 y5_1 y5_2
    apply State.shotBegin_keeps
    with_reducible assumption

theorem State.shotEnd_keeps {s0 : State} (s : State) (n : Nat) (w : Nat) (h : Keeps s0 s) : Keeps s0 (State.shotEnd s n w) := by
  unfold State.shotEnd
  split
  · apply State.goNext_keeps
    apply State.setF_keeps
    with_reducible assumption
  · extract_lets +onlyGivenNames x5
    have h5 : Keeps s0 x5 := ?_
    · clear_value x5
      extract_lets +onlyGivenNames x6
      clear_value x6
      extract_lets +onlyGivenNames x7
      clear_value x7
      extract_lets +onlyGivenNames x8
      have h8 : Keeps s0 x8 := ?_
      · clear_value x8
        apply State.goNext_keeps
        apply State.tellShots_keeps
        apply State.wr_keeps
        with_reducible assumption
      · subst x8
        split
        · with_reducible assumption
        · apply State.setSeq_keeps
          with_reducible assumption
    · subst x5
      split
      · apply State.markOpen_keeps
        with_reducible assumption
      · with_reducible assumption

theorem execShotEnd_keeps {s0 : State} (t : Nat) (n : Nat) (s : State) (h : Keeps s0 s) : KeepsOut s0 (execShotEnd t n s) := by
  unfold execShotEnd
  apply KeepsOut.next
  apply State.stepWith_keeps
  · apply State.at_keeps
    with_reducible assumption
  · intro y5_0 y5_1 y5_2
    apply State.shotEnd_keeps
    with_reducible assumption

theorem State.commitCode_keeps {s0 : State} (s : State) (n : Nat) (code : Nat) (h : Keeps s0 s) : Keeps s0 (State.commitCode s n code) := by
  unfold State.commitCode
  apply State.wr_keeps
  apply State.setSeq_keeps
  with_reducible assumption

theorem State.commitStep_keeps {s0 : State} (s : State) (n : Nat) (w : Nat) (mode : Nat) (at' : Nat) (h : Keeps s0 s) : Keeps s0 (State.commitStep s n w mode at') := by
  unfold State.commitStep
  extract_lets +onlyGivenNames x1
  clear_value x1
  extract_lets +onlyGivenNames x2
  have h2 : Keeps s0 x2.2 := ?_
  · clear_value x2
    extract_lets +onlyGivenNames x3
    have h3 : Keeps s0 x3 := ?_
    · clear_value x3
      apply State.goNext_keeps
      apply State.commitCode_keeps
      with_reducible assumption
    · subst x3
      split
      · apply State.journalize_keeps
        with_reducible assumption
      · with_reducible assumption
  · subst x2
    apply State.requestCommit_keeps
    with_reducible assumption

theorem execCommitShot_keeps {s0 : State} (t : Nat) (n : Nat) (s : State) (h : Keeps s0 s) : KeepsOut s0 (execCommitShot t n s) := by
  unfold execCommitShot
  apply KeepsOut.next
  apply State.stepWith_keeps
  · apply State.at_keeps
    with_reducible assumption
  · intro y5_0 y5_1 y5_2
    apply State.commitStep_keeps
    with_reducible assumption

theorem execCommitAt_keeps {s0 : State} (t : Nat) (n : Nat) (s : State) (h : Keeps s0 s) : KeepsOut s0 (execCommitAt t n s) := by
  unfold execCommitAt
  apply KeepsOut.next
  apply State.stepWith_keeps
  · apply State.at_keeps
    with_reducible assumption
  · intro y5_0 y5_1 y5_2
    apply State.commitStep_keeps
    with_reducible assumption

theorem execCommitAbort_keeps {s0 : State} (t : Nat) (n : Nat) (s : State) (h : Keeps s0 s) : KeepsOut s0 (execCommitAbort t n s) := by
  unfold execCommitAbort
  apply KeepsOut.next
  apply State.stepWith_keeps
  · apply State.at_keeps
    with_reducible assumption
  · intro y5_0 y5_1 y5_2
    extract_lets +onlyGivenNames x6
    have h6 : Keeps s0 x6.2 := ?_
    · clear_value x6
      apply State.goNext_keeps
      apply State.commitCode_keeps
      with_reducible assumption
    · subst x6
      apply State.abortTxn_keeps
      with_reducible assumption

end Sys2Proof.Machine
end

