-- ==== Sys2Proof/Laws/KeepsCalib.lean ====
section
/-! SUPPORT. What the definitions of Machine/Calib.lean keep: one lemma each. -/

namespace Sys2Proof.Machine

set_option maxRecDepth 10000

theorem State.startPass_keeps {s0 : State} (s : State) (boot : Bool) (h : Keeps s0 s) : Keeps s0 (State.startPass s boot) := by
  unfold State.startPass
  extract_lets +onlyGivenNames x1
  clear_value x1
  extract_lets +onlyGivenNames x2
  clear_value x2
  extract_lets +onlyGivenNames x3
  have h3 : Keeps s0 x3 := ?_
  · clear_value x3
    extract_lets +onlyGivenNames x4
    have h4 : Keeps s0 x4 := ?_
    · clear_value x4
      extract_lets +onlyGivenNames x5
      have h5 : Keeps s0 x5 := ?_
      · clear_value x5
        extract_lets +onlyGivenNames x6
        have h6 : Keeps s0 x6 := ?_
        · clear_value x6
          split
          · apply State.endPass_keeps
            with_reducible assumption
          · with_reducible assumption
        · subst x6
          split
          · with_reducible assumption
          · split
            · apply State.itemDone_keeps
              apply State.setF_keeps
              with_reducible assumption
            · split
              · with_reducible assumption
              · apply State.mcalStart_keeps
                with_reducible assumption
      · subst x5
        apply State.wr_keeps
        with_reducible assumption
    · subst x4
      apply State.wr_keeps
      with_reducible assumption
  · subst x3
    apply State.setCal_keeps
    with_reducible assumption

theorem State.calRun_keeps {s0 : State} (s : State) (h : Keeps s0 s) : Keeps s0 (State.calRun s) := by
  unfold State.calRun
  split
  · apply State.wr_keeps
    with_reducible assumption
  · split
    · apply State.wr_keeps
      apply State.startPass_keeps
      with_reducible assumption
    · apply State.wr_keeps
      with_reducible assumption

theorem execCalRun_keeps {s0 : State} (t : Nat) (s : State) (h : Keeps s0 s) : KeepsOut s0 (execCalRun t s) := by
  unfold execCalRun
  extract_lets +onlyGivenNames x1
  have h1 : Keeps s0 x1 := ?_
  · clear_value x1
    split
    · apply KeepsOut.next
      apply State.hostCmd_keeps
      · with_reducible assumption
      · intro y6_0 y6_1
        apply State.calRun_keeps
        with_reducible assumption
    · apply KeepsOut.next
      with_reducible assumption
  · subst x1
    apply State.at_keeps
    with_reducible assumption

theorem execCalPassTrigger_keeps {s0 : State} (t : Nat) (s : State) (h : Keeps s0 s) : KeepsOut s0 (execCalPassTrigger t s) := by
  unfold execCalPassTrigger
  extract_lets +onlyGivenNames x1
  have h1 : Keeps s0 x1 := ?_
  · clear_value x1
    split
    · apply KeepsOut.next
      apply State.startPass_keeps
      with_reducible assumption
    · apply KeepsOut.next
      with_reducible assumption
  · subst x1
    apply State.at_keeps
    with_reducible assumption

theorem State.pairOf_keeps {s0 : State} (s : State) (item : Nat) (a : List Int) (b : List Int) (h : Keeps s0 s) : Keeps s0 (State.pairOf s item a b).2 := by
  unfold State.pairOf
  extract_lets +onlyGivenNames x1
  have h1 : Keeps s0 x1.2 := ?_
  · clear_value x1
    apply Keeps.mk2
    with_reducible assumption
  · subst x1
    apply State.draw_keeps
    with_reducible assumption

theorem State.takePair_keeps {s0 : State} (s : State) (item : Nat) (a : List Int) (b : List Int) (h : Keeps s0 s) : Keeps s0 (State.takePair s item a b) := by
  unfold State.takePair
  extract_lets +onlyGivenNames x1
  have h1 : Keeps s0 x1.2 := ?_
  · clear_value x1
    extract_lets +onlyGivenNames x2
    have h2 : Keeps s0 x2 := ?_
    · clear_value x2
      extract_lets +onlyGivenNames x3
      clear_value x3
      extract_lets +onlyGivenNames x4
      clear_value x4
      extract_lets +onlyGivenNames x5
      have h5 : Keeps s0 x5 := ?_
      · clear_value x5
        extract_lets +onlyGivenNames x6
        clear_value x6
        extract_lets +onlyGivenNames x7
        have h7 : Keeps s0 x7 := ?_
        · clear_value x7
          extract_lets +onlyGivenNames x8
          clear_value x8
          extract_lets +onlyGivenNames x9
          have h9 : Keeps s0 x9 := ?_
          · clear_value x9
            split
            · apply State.itemDone_keeps
              apply State.acceptPair_keeps
              with_reducible assumption
            · extract_lets +onlyGivenNames x14
              clear_value x14
              split
              · apply State.setCal_keeps
                with_reducible assumption
              · apply State.itemDone_keeps
                apply State.calDisagree_keeps
                with_reducible assumption
          · subst x9
            apply State.setCal_keeps
            with_reducible assumption
        · subst x7
          split
          · apply State.setF_keeps
            with_reducible assumption
          · with_reducible assumption
      · subst x5
        split
        · apply State.cdTakes_keeps
          with_reducible assumption
        · with_reducible assumption
    · subst x2
      with_reducible assumption
  · subst x1
    apply State.pairOf_keeps
    with_reducible assumption

theorem execCalMeasurementDone_keeps {s0 : State} (t : Nat) (item : Nat) (a : List Int) (b : List Int) (s : State) (h : Keeps s0 s) : KeepsOut s0 (execCalMeasurementDone t item a b s) := by
  unfold execCalMeasurementDone
  extract_lets +onlyGivenNames x1
  have h1 : Keeps s0 x1 := ?_
  · clear_value x1
    split
    · apply KeepsOut.next
      apply State.takePair_keeps
      with_reducible assumption
    · apply KeepsOut.next
      with_reducible assumption
  · subst x1
    apply State.at_keeps
    with_reducible assumption

theorem execCalAbandon_keeps {s0 : State} (t : Nat) (item : Nat) (s : State) (h : Keeps s0 s) : KeepsOut s0 (execCalAbandon t item s) := by
  unfold execCalAbandon
  extract_lets +onlyGivenNames x1
  have h1 : Keeps s0 x1 := ?_
  · clear_value x1
    split
    · apply KeepsOut.next
      apply State.setCal_keeps
      with_reducible assumption
    · apply KeepsOut.next
      with_reducible assumption
  · subst x1
    apply State.at_keeps
    with_reducible assumption

theorem execCalStale_keeps {s0 : State} (t : Nat) (item : Nat) (s : State) (h : Keeps s0 s) : KeepsOut s0 (execCalStale t item s) := by
  unfold execCalStale
  extract_lets +onlyGivenNames x1
  have h1 : Keeps s0 x1 := ?_
  · clear_value x1
    extract_lets +onlyGivenNames x2
    clear_value x2
    split
    · apply KeepsOut.next
      apply State.itemDone_keeps
      apply State.fireD_keeps
      apply State.setF_keeps
      with_reducible assumption
    · apply KeepsOut.next
      with_reducible assumption
  · subst x1
    apply State.at_keeps
    with_reducible assumption

theorem State.itemPairs_keeps {s0 : State} (s : State) (item : Nat) (l : List (Nat × List Int × List Int)) (h : Keeps s0 s) : Keeps s0 (State.itemPairs s item l).2 := by
  unfold State.itemPairs
  split
  · apply Keeps.mk2
    with_reducible assumption
  · split
    · extract_lets +onlyGivenNames x5
      have h5 : Keeps s0 x5.2 := ?_
      · clear_value x5
        extract_lets +onlyGivenNames x6
        have h6 : Keeps s0 x6.2 := ?_
        · clear_value x6
          apply Keeps.mk2
          with_reducible assumption
        · subst x6
          apply State.itemPairs_keeps
          with_reducible assumption
      · subst x5
        apply State.pairOf_keeps
        with_reducible assumption
    · apply State.itemPairs_keeps
      with_reducible assumption

theorem execConverterCalDone_keeps {s0 : State} (t : Nat) (results : List (Nat × List Int × List Int)) (s : State) (h : Keeps s0 s) : KeepsOut s0 (execConverterCalDone t results s) := by
  unfold execConverterCalDone
  extract_lets +onlyGivenNames x1
  have h1 : Keeps s0 x1 := ?_
  · clear_value x1
    split
    · extract_lets +onlyGivenNames x3
      have h3 : Keeps s0 x3 := ?_
      · clear_value x3
        extract_lets +onlyGivenNames x4
        have h4 : Keeps s0 x4 := ?_
        · clear_value x4
          apply KeepsOut.next
          apply State.bootCheck_keeps
          apply State.setSvc_keeps
          with_reducible assumption
        · subst x4
          split
          · refine Keeps.foldl ?_ fun x10 a10 h10 => ?_
            · with_reducible assumption
            · apply State.itemDone_keeps
              with_reducible assumption
          · with_reducible assumption
      · subst x3
        refine Keeps.foldl ?_ fun x15 a15 h15 => ?_
        · with_reducible assumption
        · extract_lets +onlyGivenNames x17
          have h17 : Keeps s0 x17.2 := ?_
          · clear_value x17
            apply State.measurePairs_keeps
            with_reducible assumption
          · subst x17
            apply State.itemPairs_keeps
            with_reducible assumption
    · apply KeepsOut.next
      with_reducible assumption
  · subst x1
    apply State.at_keeps
    with_reducible assumption

theorem State.cdSettle_keeps {s0 : State} (s : State) (h : Keeps s0 s) : Keeps s0 (State.cdSettle s) := by
  unfold State.cdSettle
  refine Keeps.foldl ?_ fun x1 a1 h1 => ?_
  · with_reducible assumption
  · apply State.cdTakes_keeps
    with_reducible assumption

theorem State.cdRun_keeps {s0 : State} (s : State) (h : Keeps s0 s) : Keeps s0 (State.cdRun s) := by
  unfold State.cdRun
  split
  · apply State.wr_keeps
    with_reducible assumption
  · split
    · extract_lets +onlyGivenNames x5
      clear_value x5
      apply State.cdTakes_keeps
      extract_lets +onlyGivenNames x7
      have h7 : Keeps s0 x7 := ?_
      · clear_value x7
        with_reducible apply Keeps.mk
        with_reducible assumption
      · subst x7
        apply State.wr_keeps
        with_reducible assumption
    · apply State.wr_keeps
      with_reducible assumption

theorem execCdRun_keeps {s0 : State} (t : Nat) (s : State) (h : Keeps s0 s) : KeepsOut s0 (execCdRun t s) := by
  unfold execCdRun
  extract_lets +onlyGivenNames x1
  have h1 : Keeps s0 x1 := ?_
  · clear_value x1
    split
    · apply KeepsOut.next
      apply State.hostCmd_keeps
      · with_reducible assumption
      · intro y6_0 y6_1
        apply State.cdRun_keeps
        with_reducible assumption
    · apply KeepsOut.next
      with_reducible assumption
  · subst x1
    apply State.at_keeps
    with_reducible assumption

theorem execCdRunComplete_keeps {s0 : State} (t : Nat) (counts : List Nat) (s : State) (h : Keeps s0 s) : KeepsOut s0 (execCdRunComplete t counts s) := by
  unfold execCdRunComplete
  extract_lets +onlyGivenNames x1
  have h1 : Keeps s0 x1 := ?_
  · clear_value x1
    split
    · apply KeepsOut.next
      with_reducible assumption
    · split
      extract_lets +onlyGivenNames x6
      clear_value x6
      split
      · apply KeepsOut.next
        with_reducible apply Keeps.mk
        refine Keeps.ofPair ‹_› ?_
        apply State.draw_keeps
        with_reducible assumption
      · split
        · apply KeepsOut.next
          extract_lets +onlyGivenNames x15
          have h15 : Keeps s0 x15 := ?_
          · clear_value x15
            with_reducible apply Keeps.mk
            with_reducible assumption
          · subst x15
            apply State.wr_keeps
            apply State.wr_keeps
            apply State.setLut_keeps
            refine Keeps.ofPair ‹_› ?_
            apply State.draw_keeps
            with_reducible assumption
        · split
          · apply KeepsOut.next
            with_reducible apply Keeps.mk
            refine Keeps.ofPair ‹_› ?_
            apply State.draw_keeps
            with_reducible assumption
          · extract_lets +onlyGivenNames x30
            have h30 : Keeps s0 x30 := ?_
            · clear_value x30
              apply KeepsOut.next
              extract_lets +onlyGivenNames x32
              have h32 : Keeps s0 x32 := ?_
              · clear_value x32
                with_reducible apply Keeps.mk
                with_reducible assumption
              · subst x32
                apply State.wr_keeps
                apply State.wr_keeps
                with_reducible assumption
            · subst x30
              apply State.calDisagree_keeps
              refine Keeps.ofPair ‹_› ?_
              apply State.draw_keeps
              with_reducible assumption
  · subst x1
    apply State.at_keeps
    with_reducible assumption

theorem State.resumeRf_keeps {s0 : State} (s : State) (n : Nat) (h : Keeps s0 s) : Keeps s0 (State.resumeRf s n) := by
  unfold State.resumeRf
  refine Keeps.foldl ?_ fun x1 a1 h1 => ?_
  · with_reducible assumption
  · extract_lets +onlyGivenNames x3
    clear_value x3
    extract_lets +onlyGivenNames x4
    have h4 : Keeps s0 x4 := ?_
    · clear_value x4
      split
      · apply State.unmute_keeps
        with_reducible assumption
      · with_reducible assumption
    · subst x4
      split
      · apply State.unmute_keeps
        with_reducible assumption
      · with_reducible assumption

theorem State.takeStep_keeps {s0 : State} (s : State) (n : Nat) (b : Nat) (h : Keeps s0 s) : Keeps s0 (State.takeStep s n b) := by
  unfold State.takeStep
  extract_lets +onlyGivenNames x1
  clear_value x1
  extract_lets +onlyGivenNames x2
  clear_value x2
  extract_lets +onlyGivenNames x3
  have h3 : Keeps s0 x3 := ?_
  · clear_value x3
    apply State.calSteps_keeps
    with_reducible assumption
  · subst x3
    apply State.setSeq_keeps
    with_reducible assumption

theorem State.applyBoundary_keeps {s0 : State} (s : State) (n : Nat) (b : Nat) (h : Keeps s0 s) : Keeps s0 (State.applyBoundary s n b) := by
  unfold State.applyBoundary
  extract_lets +onlyGivenNames x1
  clear_value x1
  extract_lets +onlyGivenNames x2
  have h2 : Keeps s0 x2 := ?_
  · clear_value x2
    extract_lets +onlyGivenNames x3
    clear_value x3
    extract_lets +onlyGivenNames x4
    have h4 : Keeps s0 x4 := ?_
    · clear_value x4
      split
      · with_reducible assumption
      · extract_lets +onlyGivenNames x7
        have h7 : Keeps s0 x7 := ?_
        · clear_value x7
          apply State.setSeq_keeps
          with_reducible assumption
        · subst x7
          apply State.takeStep_keeps
          with_reducible assumption
    · subst x4
      apply State.setSeq_keeps
      with_reducible assumption
  · subst x2
    split
    · apply State.setSeq_keeps
      apply State.resumeRf_keeps
      with_reducible assumption
    · with_reducible assumption

theorem execBoundaryActionsApply_keeps {s0 : State} (t : Nat) (n : Nat) (s : State) (h : Keeps s0 s) : KeepsOut s0 (execBoundaryActionsApply t n s) := by
  unfold execBoundaryActionsApply
  extract_lets +onlyGivenNames x1
  have h1 : Keeps s0 x1 := ?_
  · clear_value x1
    split
    · apply KeepsOut.next
      with_reducible assumption
    · split
      · apply KeepsOut.next
        apply State.applyBoundary_keeps
        with_reducible assumption
      · apply KeepsOut.next
        with_reducible assumption
  · subst x1
    apply State.at_keeps
    with_reducible assumption

theorem execHaltedCalStep_keeps {s0 : State} (t : Nat) (n : Nat) (s : State) (h : Keeps s0 s) : KeepsOut s0 (execHaltedCalStep t n s) := by
  unfold execHaltedCalStep
  extract_lets +onlyGivenNames x1
  have h1 : Keeps s0 x1 := ?_
  · clear_value x1
    split
    · apply KeepsOut.next
      with_reducible assumption
    · split
      · apply KeepsOut.next
        apply State.takeStep_keeps
        with_reducible assumption
      · apply KeepsOut.next
        with_reducible assumption
  · subst x1
    apply State.at_keeps
    with_reducible assumption

theorem State.calLoad_keeps {s0 : State} (s : State) (h : Keeps s0 s) : Keeps s0 (State.calLoad s) := by
  unfold State.calLoad
  extract_lets +onlyGivenNames x1
  clear_value x1
  extract_lets +onlyGivenNames x2
  have h2 : Keeps s0 x2 := ?_
  · clear_value x2
    extract_lets +onlyGivenNames x3
    clear_value x3
    extract_lets +onlyGivenNames x4
    have h4 : Keeps s0 x4 := ?_
    · clear_value x4
      extract_lets +onlyGivenNames x5
      have h5 : Keeps s0 x5 := ?_
      · clear_value x5
        split
        · extract_lets +onlyGivenNames x7
          have h7 : Keeps s0 x7 := ?_
          · clear_value x7
            apply State.setCal_keeps
            with_reducible assumption
          · subst x7
            apply State.wr_keeps
            apply State.wr_keeps
            with_reducible assumption
        · apply State.setCal_keeps
          with_reducible assumption
      · subst x5
        refine Keeps.foldl ?_ fun x15 a15 h15 => ?_
        · with_reducible assumption
        · split
          · with_reducible assumption
          · apply State.calDerive_keeps
            with_reducible assumption
    · subst x4
      refine Keeps.foldl ?_ fun x21 a21 h21 => ?_
      · with_reducible assumption
      · apply State.wr_keeps
        apply State.wr_keeps
        with_reducible assumption
  · subst x2
    refine Keeps.foldl ?_ fun x26 a26 h26 => ?_
    · with_reducible assumption
    · split
      · apply State.fireD_keeps
        with_reducible assumption
      · with_reducible assumption

theorem State.calStore_keeps {s0 : State} (s : State) (h : Keeps s0 s) : Keeps s0 (State.calStore s) := by
  unfold State.calStore
  extract_lets +onlyGivenNames x1
  clear_value x1
  extract_lets +onlyGivenNames x2
  clear_value x2
  extract_lets +onlyGivenNames x3
  clear_value x3
  extract_lets +onlyGivenNames x4
  clear_value x4
  extract_lets +onlyGivenNames x5
  clear_value x5
  extract_lets +onlyGivenNames x6
  have h6 : Keeps s0 x6 := ?_
  · clear_value x6
    apply State.fireD_keeps
    apply State.setCal_keeps
    with_reducible assumption
  · subst x6
    apply State.wr_keeps
    apply State.putFlash_keeps
    apply State.eraseFlash_keeps
    with_reducible assumption

theorem State.deriveCal_keeps {s0 : State} (s : State) (h : Keeps s0 s) : Keeps s0 (State.deriveCal s) := by
  unfold State.deriveCal
  split
  · with_reducible assumption
  · apply State.both_keeps
    apply State.both_keeps
    apply State.both_keeps
    apply State.both_keeps
    with_reducible assumption

end Sys2Proof.Machine
end

