-- ==== Sys2Proof/Laws/KeepsFrame.lean ====
section
/-! SUPPORT. What the definitions of Machine/Frame.lean keep: one lemma each. -/

namespace Sys2Proof.Machine

set_option maxRecDepth 10000

theorem State.sendProbes_keeps {s0 : State} (s : State) (p room slot : Nat) (h : Keeps s0 s) : Keeps s0 (s.sendProbes p room slot).2.2 := by
  unfold State.sendProbes
  have d : Keeps s0 s.draw.2 := State.draw_keeps _ h
  split
  · exact h
  · split
    · exact h
    · dsimp only
      split
      · exact State.setPort_keeps _ _ _ d
      · exact State.setPort_keeps _ _ _ d


theorem State.setLq_keeps {s0 : State} (s : State) (p : Nat) (l : List LqEnt) (h : Keeps s0 s) : Keeps s0 (State.setLq s p l) := by
  unfold State.setLq
  apply State.wr_keeps
  apply State.setPort_keeps
  with_reducible assumption

theorem State.dropLate_keeps {s0 : State} (s : State) (p : Nat) (k : Nat) (h : Keeps s0 s) : Keeps s0 (State.dropLate s p k) := by
  unfold State.dropLate
  split
  · with_reducible assumption
  · apply State.wr_keeps
    apply State.setF_keeps
    with_reducible assumption

theorem State.outageSlot_keeps {s0 : State} (s : State) (p : Nat) (slot : Nat) (h : Keeps s0 s) : Keeps s0 (State.outageSlot s p slot) := by
  unfold State.outageSlot
  apply State.setPort_keeps
  with_reducible assumption

theorem State.sendLq_keeps {s0 : State} (s : State) (p room slot : Nat) (h : Keeps s0 s) : Keeps s0 (s.sendLq p room slot).2.2 := by
  have flag : ∀ (u : State) (l : List LqEnt) (f : Fld), Keeps s0 u → Keeps s0 (if l = [] then u else u.setF f) := by
    intro u l f hu
    split
    · exact hu
    · exact State.setF_keeps _ _ hu
  unfold State.sendLq
  exact State.setLq_keeps _ _ _ (flag _ _ _ (flag _ _ _ (State.dropLate_keeps _ _ _ h)))


theorem State.sendVerdicts_keeps {s0 : State} (s : State) (p room : Nat) (h : Keeps s0 s) : Keeps s0 (s.sendVerdicts p room).2.2 := by
  unfold State.sendVerdicts
  extract_lets +onlyGivenNames l
  split
  · exact h
  · exact State.setPort_keeps _ _ _ h


theorem State.fillFrame_keeps {s0 : State} (s : State) (p slot : Nat) (h : Keeps s0 s) : Keeps s0 (s.fillFrame p slot).2.2.2 :=
  State.setPort_keeps _ _ _ (State.sendLq_keeps _ _ _ _ (State.sendProbes_keeps _ _ _ _ (State.sendVerdicts_keeps _ _ _ h)))


theorem State.emit_keeps {s0 : State} (s : State) (p : Nat) (body : Nat) (h : Keeps s0 s) : Keeps s0 (State.emit s p body) := by
  unfold State.emit
  extract_lets +onlyGivenNames x1
  clear_value x1
  extract_lets +onlyGivenNames x2
  clear_value x2
  apply State.setPort_keeps
  with_reducible assumption

theorem State.sendCtl_keeps {s0 : State} (s : State) (p : Nat) (h : Keeps s0 s) : Keeps s0 (State.sendCtl s p) := by
  unfold State.sendCtl
  apply State.emit_keeps
  with_reducible assumption

theorem State.sendAlign_keeps {s0 : State} (s : State) (p : Nat) (h : Keeps s0 s) : Keeps s0 (State.sendAlign s p) := by
  unfold State.sendAlign
  extract_lets +onlyGivenNames x1
  clear_value x1
  extract_lets +onlyGivenNames x2
  clear_value x2
  apply State.setPort_keeps
  with_reducible assumption

theorem State.sendNew_keeps {s0 : State} (s : State) (p : Nat) (slot : Nat) (h : Keeps s0 s) : Keeps s0 (State.sendNew s p slot) := by
  exact State.emit_keeps _ _ _ (State.setPort_keeps _ _ _ (State.fillFrame_keeps _ _ _ h))


theorem State.sendNeg_keeps {s0 : State} (s : State) (p : Nat) (h : Keeps s0 s) : Keeps s0 (State.sendNeg s p) := by
  unfold State.sendNeg
  extract_lets +onlyGivenNames x1
  clear_value x1
  extract_lets +onlyGivenNames x2
  clear_value x2
  extract_lets +onlyGivenNames x3
  clear_value x3
  apply State.setPort_keeps
  with_reducible assumption

theorem State.frameSend_keeps {s0 : State} (s : State) (p : Nat) (slot : Nat) (h : Keeps s0 s) : Keeps s0 (State.frameSend s p slot) := by
  unfold State.frameSend
  extract_lets +onlyGivenNames x1
  clear_value x1
  extract_lets +onlyGivenNames x2
  clear_value x2
  split
  · apply State.outageSlot_keeps
    with_reducible assumption
  · split
    · apply State.sendAlign_keeps
      apply State.outageSlot_keeps
      with_reducible assumption
    · split
      · apply State.sendNeg_keeps
        apply State.outageSlot_keeps
        with_reducible assumption
      · split
        · split
          · apply State.sendAlign_keeps
            apply State.outageSlot_keeps
            with_reducible assumption
          · apply State.sendCtl_keeps
            apply State.outageSlot_keeps
            with_reducible assumption
        · split
          · apply State.emit_keeps
            apply State.setPort_keeps
            apply State.outageSlot_keeps
            with_reducible assumption
          · split
            · apply State.sendCtl_keeps
              apply State.outageSlot_keeps
              with_reducible assumption
            · apply State.sendNew_keeps
              with_reducible assumption

theorem execFrameSend_keeps {s0 : State} (t : Nat) (port : Nat) (s : State) (h : Keeps s0 s) : KeepsOut s0 (execFrameSend t port s) := by
  unfold execFrameSend
  extract_lets +onlyGivenNames x1
  have h1 : Keeps s0 x1 := ?_
  · clear_value x1
    split
    · apply KeepsOut.next
      with_reducible assumption
    · split
      · apply KeepsOut.next
        apply State.frameSend_keeps
        apply State.setPort_keeps
        with_reducible assumption
      · apply KeepsOut.next
        with_reducible assumption
  · subst x1
    apply State.at_keeps
    with_reducible assumption

theorem State.elvCode_keeps {s0 : State} (s : State) (p : Nat) (code : Nat) (h : Keeps s0 s) : Keeps s0 (State.elvCode s p code) := by
  unfold State.elvCode
  apply State.wr_keeps
  with_reducible assumption

theorem State.lqPush_keeps {s0 : State} (s : State) (p : Nat) (h : Keeps s0 s) : Keeps s0 (State.lqPush s p) := by
  unfold State.lqPush
  extract_lets +onlyGivenNames x1
  clear_value x1
  split
  · apply State.elvCode_keeps
    with_reducible assumption
  · split
    · apply State.elvCode_keeps
      with_reducible assumption
    · extract_lets +onlyGivenNames x8
      clear_value x8
      extract_lets +onlyGivenNames x9
      clear_value x9
      apply State.elvCode_keeps
      apply State.setLq_keeps
      with_reducible assumption

theorem execLqPush_keeps {s0 : State} (t : Nat) (port : Nat) (s : State) (h : Keeps s0 s) : KeepsOut s0 (execLqPush t port s) := by
  unfold execLqPush
  extract_lets +onlyGivenNames x1
  have h1 : Keeps s0 x1 := ?_
  · clear_value x1
    split
    · apply KeepsOut.next
      apply State.hostCmd_keeps
      · with_reducible assumption
      · intro y6_0 y6_1
        apply State.lqPush_keeps
        with_reducible assumption
    · apply KeepsOut.next
      with_reducible assumption
  · subst x1
    apply State.at_keeps
    with_reducible assumption

theorem State.showMbox_keeps {s0 : State} (s : State) (p : Nat) (h : Keeps s0 s) : Keeps s0 (State.showMbox s p) := by
  unfold State.showMbox
  extract_lets +onlyGivenNames x1
  clear_value x1
  extract_lets +onlyGivenNames x2
  have h2 : Keeps s0 x2 := ?_
  · clear_value x2
    split
    · apply State.wr_keeps
      with_reducible assumption
    · extract_lets +onlyGivenNames x6
      have h6 : Keeps s0 x6 := ?_
      · clear_value x6
        extract_lets +onlyGivenNames x7
        have h7 : Keeps s0 x7 := ?_
        · clear_value x7
          refine Keeps.foldl ?_ fun x8 a8 h8 => ?_
          · with_reducible assumption
          · apply State.wr_keeps
            with_reducible assumption
        · subst x7
          apply State.wr_keeps
          apply State.wr_keeps
          with_reducible assumption
      · subst x6
        apply State.wr_keeps
        apply State.wr_keeps
        with_reducible assumption
  · subst x2
    apply State.wr_keeps
    with_reducible assumption

theorem State.rxPop_keeps {s0 : State} (s : State) (p : Nat) (h : Keeps s0 s) : Keeps s0 (State.rxPop s p) := by
  unfold State.rxPop
  split
  · apply State.elvCode_keeps
    with_reducible assumption
  · apply State.elvCode_keeps
    apply State.showMbox_keeps
    apply State.setPort_keeps
    with_reducible assumption

theorem execRxPop_keeps {s0 : State} (t : Nat) (port : Nat) (s : State) (h : Keeps s0 s) : KeepsOut s0 (execRxPop t port s) := by
  unfold execRxPop
  extract_lets +onlyGivenNames x1
  have h1 : Keeps s0 x1 := ?_
  · clear_value x1
    split
    · apply KeepsOut.next
      apply State.hostCmd_keeps
      · with_reducible assumption
      · intro y6_0 y6_1
        apply State.rxPop_keeps
        with_reducible assumption
    · apply KeepsOut.next
      with_reducible assumption
  · subst x1
    apply State.at_keeps
    with_reducible assumption

theorem State.userPkt_keeps {s0 : State} (s : State) (p : Nat) (x : Pkt) (h : Keeps s0 s) : Keeps s0 (State.userPkt s p x) := by
  unfold State.userPkt
  split
  · apply State.setF_keeps
    with_reducible assumption
  · apply State.linkEvent_keeps
    apply State.showMbox_keeps
    apply State.setPort_keeps
    with_reducible assumption

theorem execUser_keeps {s0 : State} (t : Nat) (port : Nat) (s : State) (h : Keeps s0 s) : KeepsOut s0 (execUser t port s) := by
  unfold execUser
  extract_lets +onlyGivenNames x1
  have h1 : Keeps s0 x1 := ?_
  · clear_value x1
    split
    · apply KeepsOut.next
      with_reducible assumption
    · split
      · apply KeepsOut.next
        apply State.userPkt_keeps
        refine State.takePkt_keeps ?_ ‹_›
        with_reducible assumption
      · apply KeepsOut.next
        refine State.takePkt_keeps ?_ ‹_›
        with_reducible assumption
  · subst x1
    apply State.at_keeps
    with_reducible assumption

theorem execProbeExchange_keeps {s0 : State} (t : Nat) (port : Nat) (s : State) (h : Keeps s0 s) : KeepsOut s0 (execProbeExchange t port s) := by
  unfold execProbeExchange
  extract_lets +onlyGivenNames x1
  have h1 : Keeps s0 x1 := ?_
  · clear_value x1
    extract_lets +onlyGivenNames x2
    clear_value x2
    split
    · apply KeepsOut.next
      apply State.setPort_keeps
      with_reducible assumption
    · apply KeepsOut.next
      with_reducible assumption
  · subst x1
    apply State.at_keeps
    with_reducible assumption

theorem State.showDelay_keeps {s0 : State} (s : State) (p : Nat) (h : Keeps s0 s) : Keeps s0 (State.showDelay s p) := by
  unfold State.showDelay
  extract_lets +onlyGivenNames x1
  clear_value x1
  split
  · with_reducible assumption
  · extract_lets +onlyGivenNames x4
    clear_value x4
    extract_lets +onlyGivenNames x5
    have h5 : Keeps s0 x5 := ?_
    · clear_value x5
      split
      · apply State.linkEvent_keeps
        apply State.setF_keeps
        with_reducible assumption
      · with_reducible assumption
    · subst x5
      apply State.wr_keeps
      apply State.wr_keeps
      with_reducible assumption

theorem State.probePkt_keeps {s0 : State} (s : State) (p : Nat) (x : Pkt) (h : Keeps s0 s) : Keeps s0 (State.probePkt s p x) := by
  unfold State.probePkt
  split
  · split
    · with_reducible assumption
    · extract_lets +onlyGivenNames x4
      clear_value x4
      extract_lets +onlyGivenNames x5
      clear_value x5
      apply State.showDelay_keeps
      apply State.setPort_keeps
      with_reducible assumption
  · apply State.setPort_keeps
    with_reducible assumption

theorem execProbe_keeps {s0 : State} (t : Nat) (port : Nat) (s : State) (h : Keeps s0 s) : KeepsOut s0 (execProbe t port s) := by
  unfold execProbe
  extract_lets +onlyGivenNames x1
  have h1 : Keeps s0 x1 := ?_
  · clear_value x1
    split
    · apply KeepsOut.next
      with_reducible assumption
    · split
      · apply KeepsOut.next
        apply State.probePkt_keeps
        refine State.takePkt_keeps ?_ ‹_›
        with_reducible assumption
      · apply KeepsOut.next
        refine State.takePkt_keeps ?_ ‹_›
        with_reducible assumption
  · subst x1
    apply State.at_keeps
    with_reducible assumption

end Sys2Proof.Machine
end

