-- ==== Sys2Proof/Laws/KeepsElvent.lean ====
section
/-! SUPPORT. What the definitions of Machine/Elvent.lean keep: one lemma each. -/

namespace Sys2Proof.Machine

set_option maxRecDepth 10000

theorem State.setElv_keeps {s0 : State} (s : State) (p : Nat) (v : Nat) (h : Keeps s0 s) : Keeps s0 (State.setElv s p v) := by
  unfold State.setElv
  apply State.wr_keeps
  with_reducible assumption

theorem State.leaveActive_keeps {s0 : State} (s : State) (p : Nat) (v : Nat) (h : Keeps s0 s) : Keeps s0 (State.leaveActive s p v) := by
  unfold State.leaveActive
  extract_lets +onlyGivenNames x1
  clear_value x1
  extract_lets +onlyGivenNames x2
  clear_value x2
  extract_lets +onlyGivenNames x3
  have h3 : Keeps s0 x3 := ?_
  · clear_value x3
    extract_lets +onlyGivenNames x4
    have h4 : Keeps s0 x4 := ?_
    · clear_value x4
      extract_lets +onlyGivenNames x5
      have h5 : Keeps s0 x5 := ?_
      · clear_value x5
        apply State.isolate_keeps
        apply State.dropAnswers_keeps
        with_reducible assumption
      · subst x5
        apply State.setElv_keeps
        apply State.wr_keeps
        with_reducible assumption
    · subst x4
      apply State.setPort_keeps
      with_reducible assumption
  · subst x3
    split
    · with_reducible assumption
    · apply State.wr_keeps
      apply State.setF_keeps
      with_reducible assumption

theorem State.enterAbsent_keeps {s0 : State} (s : State) (p : Nat) (h : Keeps s0 s) : Keeps s0 (State.enterAbsent s p) := by
  unfold State.enterAbsent
  split
  · with_reducible assumption
  · extract_lets +onlyGivenNames x3
    have h3 : Keeps s0 x3 := ?_
    · clear_value x3
      extract_lets +onlyGivenNames x4
      have h4 : Keeps s0 x4 := ?_
      · clear_value x4
        extract_lets +onlyGivenNames x5
        have h5 : Keeps s0 x5 := ?_
        · clear_value x5
          extract_lets +onlyGivenNames x6
          clear_value x6
          apply State.setPort_keeps
          with_reducible assumption
        · subst x5
          apply State.setLq_keeps
          with_reducible assumption
      · subst x4
        apply State.dropLate_keeps
        with_reducible assumption
    · subst x3
      split
      · apply State.leaveActive_keeps
        with_reducible assumption
      · apply State.setElv_keeps
        with_reducible assumption

theorem State.toClock_keeps {s0 : State} (s : State) (p : Nat) (h : Keeps s0 s) : Keeps s0 (State.toClock s p) := by
  unfold State.toClock
  extract_lets +onlyGivenNames x1
  have h1 : Keeps s0 x1 := ?_
  · clear_value x1
    extract_lets +onlyGivenNames x2
    clear_value x2
    extract_lets +onlyGivenNames x3
    clear_value x3
    apply State.setElv_keeps
    apply State.setPort_keeps
    with_reducible assumption
  · subst x1
    apply State.wr_keeps
    apply State.wr_keeps
    apply State.wr_keeps
    apply State.wr_keeps
    with_reducible assumption

theorem State.backToClock_keeps {s0 : State} (s : State) (p : Nat) (h : Keeps s0 s) : Keeps s0 (State.backToClock s p) := by
  unfold State.backToClock
  extract_lets +onlyGivenNames x1
  clear_value x1
  extract_lets +onlyGivenNames x2
  have h2 : Keeps s0 x2 := ?_
  · clear_value x2
    apply State.toClock_keeps
    with_reducible assumption
  · subst x2
    split
    · apply State.setPort_keeps
      apply State.leaveActive_keeps
      with_reducible assumption
    · with_reducible assumption

theorem State.trainFail_keeps {s0 : State} (s : State) (p : Nat) (f : Fld) (h : Keeps s0 s) : Keeps s0 (State.trainFail s p f) := by
  unfold State.trainFail
  apply State.enterAbsent_keeps
  apply State.linkEvent_keeps
  apply State.setF_keeps
  with_reducible assumption

theorem execForwardedClockSteady_keeps {s0 : State} (t : Nat) (port : Nat) (s : State) (h : Keeps s0 s) : KeepsOut s0 (execForwardedClockSteady t port s) := by
  unfold execForwardedClockSteady
  extract_lets +onlyGivenNames x1
  have h1 : Keeps s0 x1 := ?_
  · clear_value x1
    split
    · apply KeepsOut.next
      apply State.toClock_keeps
      apply State.setPort_keeps
      with_reducible assumption
    · apply KeepsOut.next
      with_reducible assumption
  · subst x1
    apply State.at_keeps
    with_reducible assumption

theorem execLanesLocked_keeps {s0 : State} (t : Nat) (port : Nat) (slow : Bool) (lat : List (List Int × List Int)) (s : State) (h : Keeps s0 s) : KeepsOut s0 (execLanesLocked t port slow lat s) := by
  unfold execLanesLocked
  extract_lets +onlyGivenNames x1
  have h1 : Keeps s0 x1 := ?_
  · clear_value x1
    split
    · extract_lets +onlyGivenNames x3
      have h3 : Keeps s0 x3 := ?_
      · clear_value x3
        extract_lets +onlyGivenNames x4
        clear_value x4
        extract_lets +onlyGivenNames x5
        have h5 : Keeps s0 x5 := ?_
        · clear_value x5
          apply KeepsOut.next
          apply State.setElv_keeps
          apply State.wr_keeps
          with_reducible assumption
        · subst x5
          apply State.setPort_keeps
          with_reducible assumption
      · subst x3
        apply State.measurePairs_keeps
        with_reducible assumption
    · apply KeepsOut.next
      with_reducible assumption
  · subst x1
    apply State.at_keeps
    with_reducible assumption

theorem State.slipDone_keeps {s0 : State} (s : State) (p : Nat) (slips : List Nat) (h : Keeps s0 s) : Keeps s0 (State.slipDone s p slips) := by
  unfold State.slipDone
  extract_lets +onlyGivenNames x1
  clear_value x1
  extract_lets +onlyGivenNames x2
  clear_value x2
  extract_lets +onlyGivenNames x3
  have h3 : Keeps s0 x3 := ?_
  · clear_value x3
    split
    · with_reducible assumption
    · split
      · apply State.setElv_keeps
        with_reducible assumption
      · apply State.trainFail_keeps
        with_reducible assumption
  · subst x3
    refine Keeps.foldl ?_ fun x11 a11 h11 => ?_
    · with_reducible assumption
    · extract_lets +onlyGivenNames x13
      clear_value x13
      extract_lets +onlyGivenNames x14
      have h14 : Keeps s0 x14 := ?_
      · clear_value x14
        split
        · apply State.setBit_keeps
          with_reducible assumption
        · apply State.clrBit_keeps
          with_reducible assumption
      · subst x14
        apply State.wr_keeps
        with_reducible assumption

theorem execSlipSearchDone_keeps {s0 : State} (t : Nat) (port : Nat) (slips : List Nat) (s : State) (h : Keeps s0 s) : KeepsOut s0 (execSlipSearchDone t port slips s) := by
  unfold execSlipSearchDone
  extract_lets +onlyGivenNames x1
  have h1 : Keeps s0 x1 := ?_
  · clear_value x1
    split
    · apply KeepsOut.next
      apply State.slipDone_keeps
      with_reducible assumption
    · apply KeepsOut.next
      with_reducible assumption
  · subst x1
    apply State.at_keeps
    with_reducible assumption

theorem State.toNeg_keeps {s0 : State} (s : State) (p : Nat) (good : Nat) (h : Keeps s0 s) : Keeps s0 (State.toNeg s p good) := by
  unfold State.toNeg
  apply State.setElv_keeps
  apply State.setPort_keeps
  with_reducible assumption

theorem State.remapped_keeps {s0 : State} (s : State) (p : Nat) (h : Keeps s0 s) : Keeps s0 (State.remapped s p) := by
  unfold State.remapped
  extract_lets +onlyGivenNames x1
  have h1 : Keeps s0 x1 := ?_
  · clear_value x1
    extract_lets +onlyGivenNames x2
    have h2 : Keeps s0 x2 := ?_
    · clear_value x2
      apply State.setPort_keeps
      with_reducible assumption
    · subst x2
      apply State.lifeAdd_keeps
      apply State.setF_keeps
      with_reducible assumption
  · subst x1
    refine Keeps.foldl ?_ fun x8 a8 h8 => ?_
    · with_reducible assumption
    · split
      · apply State.wr_keeps
        with_reducible assumption
      · apply State.wr_keeps
        with_reducible assumption

theorem State.setDsk_keeps {s0 : State} (s : State) (p : Nat) (lanes : List Nat) (words : List Nat) (h : Keeps s0 s) : Keeps s0 (State.setDsk s p lanes words) := by
  unfold State.setDsk
  refine Keeps.foldl ?_ fun x1 a1 h1 => ?_
  · with_reducible assumption
  · extract_lets +onlyGivenNames x3
    clear_value x3
    apply State.both_keeps
    apply State.setPort_keeps
    with_reducible assumption

theorem State.deskewDone_keeps {s0 : State} (s : State) (p : Nat) (words : List Nat) (h : Keeps s0 s) : Keeps s0 (State.deskewDone s p words) := by
  unfold State.deskewDone
  split
  · split
    · apply State.remapped_keeps
      apply State.setDsk_keeps
      with_reducible assumption
    · with_reducible assumption
  · extract_lets +onlyGivenNames x7
    clear_value x7
    extract_lets +onlyGivenNames x8
    clear_value x8
    extract_lets +onlyGivenNames x9
    clear_value x9
    extract_lets +onlyGivenNames x10
    have h10 : Keeps s0 x10 := ?_
    · clear_value x10
      split
      · apply State.toNeg_keeps
        with_reducible assumption
      · apply State.trainFail_keeps
        with_reducible assumption
    · subst x10
      apply State.setDsk_keeps
      with_reducible assumption

theorem execDeskewDone_keeps {s0 : State} (t : Nat) (port : Nat) (words : List Nat) (s : State) (h : Keeps s0 s) : KeepsOut s0 (execDeskewDone t port words s) := by
  unfold execDeskewDone
  extract_lets +onlyGivenNames x1
  have h1 : Keeps s0 x1 := ?_
  · clear_value x1
    split
    · apply KeepsOut.next
      apply State.deskewDone_keeps
      with_reducible assumption
    · apply KeepsOut.next
      with_reducible assumption
  · subst x1
    apply State.at_keeps
    with_reducible assumption

theorem State.laneSlip_keeps {s0 : State} (s : State) (p : Nat) (aligned : Bool) (h : Keeps s0 s) : Keeps s0 (State.laneSlip s p aligned) := by
  unfold State.laneSlip
  extract_lets +onlyGivenNames x1
  clear_value x1
  split
  · apply State.elvCode_keeps
    with_reducible assumption
  · split
    · apply State.elvCode_keeps
      with_reducible assumption
    · extract_lets +onlyGivenNames x8
      have h8 : Keeps s0 x8 := ?_
      · clear_value x8
        extract_lets +onlyGivenNames x9
        have h9 : Keeps s0 x9 := ?_
        · clear_value x9
          apply State.elvCode_keeps
          with_reducible assumption
        · subst x9
          split
          · apply State.setBit_keeps
            with_reducible assumption
          · apply State.clrBit_keeps
            with_reducible assumption
      · subst x8
        apply State.wr_keeps
        with_reducible assumption

theorem execLaneSlip_keeps {s0 : State} (t : Nat) (port : Nat) (aligned : Bool) (s : State) (h : Keeps s0 s) : KeepsOut s0 (execLaneSlip t port aligned s) := by
  unfold execLaneSlip
  extract_lets +onlyGivenNames x1
  have h1 : Keeps s0 x1 := ?_
  · clear_value x1
    split
    · apply KeepsOut.next
      apply State.hostCmd_keeps
      · with_reducible assumption
      · intro y6_0 y6_1
        split
        · apply State.laneSlip_keeps
          with_reducible assumption
        · with_reducible assumption
    · apply KeepsOut.next
      with_reducible assumption
  · subst x1
    apply State.at_keeps
    with_reducible assumption

theorem State.negGo_keeps {s0 : State} (s : State) (p : Nat) (h : Keeps s0 s) : Keeps s0 (State.negGo s p) := by
  unfold State.negGo
  split
  · apply State.elvCode_keeps
    with_reducible assumption
  · apply State.elvCode_keeps
    apply State.toNeg_keeps
    apply State.setPort_keeps
    with_reducible assumption

theorem execNegGo_keeps {s0 : State} (t : Nat) (port : Nat) (s : State) (h : Keeps s0 s) : KeepsOut s0 (execNegGo t port s) := by
  unfold execNegGo
  extract_lets +onlyGivenNames x1
  have h1 : Keeps s0 x1 := ?_
  · clear_value x1
    split
    · apply KeepsOut.next
      apply State.hostCmd_keeps
      · with_reducible assumption
      · intro y6_0 y6_1
        split
        · apply State.negGo_keeps
          with_reducible assumption
        · with_reducible assumption
    · apply KeepsOut.next
      with_reducible assumption
  · subst x1
    apply State.at_keeps
    with_reducible assumption

theorem State.takeNeg_keeps {s0 : State} (s : State) (p : Nat) (w : Nat) (h : Keeps s0 s) : Keeps s0 (State.takeNeg s p w) := by
  unfold State.takeNeg
  extract_lets +onlyGivenNames x1
  have h1 : Keeps s0 x1 := ?_
  · clear_value x1
    split
    · apply State.trainFail_keeps
      with_reducible assumption
    · split
      · apply State.trainFail_keeps
        with_reducible assumption
      · split
        · apply State.wr_keeps
          apply State.setPort_keeps
          with_reducible assumption
        · apply State.trainFail_keeps
          with_reducible assumption
  · subst x1
    apply State.wr_keeps
    apply State.wr_keeps
    with_reducible assumption

theorem State.goActive_keeps {s0 : State} (s : State) (p : Nat) (w : Nat) (h : Keeps s0 s) : Keeps s0 (State.goActive s p w) := by
  unfold State.goActive
  extract_lets +onlyGivenNames x1
  clear_value x1
  extract_lets +onlyGivenNames x2
  clear_value x2
  extract_lets +onlyGivenNames x3
  clear_value x3
  extract_lets +onlyGivenNames x4
  have h4 : Keeps s0 x4 := ?_
  · clear_value x4
    extract_lets +onlyGivenNames x5
    clear_value x5
    extract_lets +onlyGivenNames x6
    have h6 : Keeps s0 x6 := ?_
    · clear_value x6
      extract_lets +onlyGivenNames x7
      have h7 : Keeps s0 x7 := ?_
      · clear_value x7
        extract_lets +onlyGivenNames x8
        have h8 : Keeps s0 x8 := ?_
        · clear_value x8
          split
          · apply State.askOrphans_keeps
            with_reducible assumption
          · with_reducible assumption
        · subst x8
          apply State.requery_keeps
          with_reducible assumption
      · subst x7
        apply State.setElv_keeps
        apply State.wr_keeps
        with_reducible assumption
    · subst x6
      apply State.setPort_keeps
      with_reducible assumption
  · subst x4
    apply State.wr_keeps
    apply State.wr_keeps
    apply State.wr_keeps
    apply State.wr_keeps
    with_reducible assumption

theorem execTrainingActive_keeps {s0 : State} (t : Nat) (port : Nat) (s : State) (h : Keeps s0 s) : KeepsOut s0 (execTrainingActive t port s) := by
  unfold execTrainingActive
  extract_lets +onlyGivenNames x1
  have h1 : Keeps s0 x1 := ?_
  · clear_value x1
    split
    · split
      · apply KeepsOut.next
        apply State.goActive_keeps
        with_reducible assumption
      · apply KeepsOut.next
        with_reducible assumption
    · apply KeepsOut.next
      with_reducible assumption
  · subst x1
    apply State.at_keeps
    with_reducible assumption

theorem execTrainTo_keeps {s0 : State} (t : Nat) (port : Nat) (s : State) (h : Keeps s0 s) : KeepsOut s0 (execTrainTo t port s) := by
  unfold execTrainTo
  extract_lets +onlyGivenNames x1
  have h1 : Keeps s0 x1 := ?_
  · clear_value x1
    extract_lets +onlyGivenNames x2
    clear_value x2
    extract_lets +onlyGivenNames x3
    clear_value x3
    split
    · apply KeepsOut.next
      apply State.trainFail_keeps
      with_reducible assumption
    · apply KeepsOut.next
      with_reducible assumption
  · subst x1
    apply State.at_keeps
    with_reducible assumption

theorem State.retrain_keeps {s0 : State} (s : State) (p : Nat) (h : Keeps s0 s) : Keeps s0 (State.retrain s p) := by
  unfold State.retrain
  split
  · apply State.elvCode_keeps
    with_reducible assumption
  · apply State.elvCode_keeps
    apply State.backToClock_keeps
    with_reducible assumption

theorem execRetrain_keeps {s0 : State} (t : Nat) (port : Nat) (s : State) (h : Keeps s0 s) : KeepsOut s0 (execRetrain t port s) := by
  unfold execRetrain
  extract_lets +onlyGivenNames x1
  have h1 : Keeps s0 x1 := ?_
  · clear_value x1
    split
    · apply KeepsOut.next
      apply State.hostCmd_keeps
      · with_reducible assumption
      · intro y6_0 y6_1
        apply State.retrain_keeps
        with_reducible assumption
    · apply KeepsOut.next
      with_reducible assumption
  · subst x1
    apply State.at_keeps
    with_reducible assumption

theorem State.loseLane_keeps {s0 : State} (s : State) (p : Nat) (lane : Nat) (i : Nat) (h : Keeps s0 s) : Keeps s0 (State.loseLane s p lane i) := by
  unfold State.loseLane
  extract_lets +onlyGivenNames x1
  clear_value x1
  extract_lets +onlyGivenNames x2
  have h2 : Keeps s0 x2 := ?_
  · clear_value x2
    split
    · apply State.backToClock_keeps
      with_reducible assumption
    · split
      · apply State.backToClock_keeps
        with_reducible assumption
      · extract_lets +onlyGivenNames x9
        clear_value x9
        extract_lets +onlyGivenNames x10
        have h10 : Keeps s0 x10 := ?_
        · clear_value x10
          apply State.setPort_keeps
          with_reducible assumption
        · subst x10
          split
          · with_reducible assumption
          · apply State.setPort_keeps
            apply State.wr_keeps
            with_reducible assumption
  · subst x2
    split
    · apply State.wr_keeps
      apply State.setPort_keeps
      with_reducible assumption
    · with_reducible assumption

theorem State.loseWaiting_keeps {s0 : State} (s : State) (p : Nat) (lane : Nat) (h : Keeps s0 s) : Keeps s0 (State.loseWaiting s p lane) := by
  unfold State.loseWaiting
  split
  · with_reducible assumption
  · extract_lets +onlyGivenNames x3
    clear_value x3
    extract_lets +onlyGivenNames x4
    have h4 : Keeps s0 x4 := ?_
    · clear_value x4
      apply State.loseLane_keeps
      with_reducible assumption
    · subst x4
      apply State.setPort_keeps
      with_reducible assumption

theorem State.laneLoss_keeps {s0 : State} (s : State) (p : Nat) (lane : Nat) (los : Bool) (h : Keeps s0 s) : Keeps s0 (State.laneLoss s p lane los) := by
  unfold State.laneLoss
  extract_lets +onlyGivenNames x1
  clear_value x1
  extract_lets +onlyGivenNames x2
  have h2 : Keeps s0 x2 := ?_
  · clear_value x2
    extract_lets +onlyGivenNames x3
    have h3 : Keeps s0 x3 := ?_
    · clear_value x3
      split
      · split
        · apply State.backToClock_keeps
          with_reducible assumption
        · split
          · split
            · with_reducible assumption
            · apply State.loseLane_keeps
              with_reducible assumption
          · apply State.loseWaiting_keeps
            with_reducible assumption
      · split
        · apply State.trainFail_keeps
          with_reducible assumption
        · with_reducible assumption
    · subst x3
      apply State.linkEvent_keeps
      with_reducible assumption
  · subst x2
    split
    · apply State.setPort_keeps
      apply State.setBit_keeps
      with_reducible assumption
    · apply State.setBit_keeps
      with_reducible assumption

theorem execLaneLoss_keeps {s0 : State} (t : Nat) (port : Nat) (lane : Nat) (los : Bool) (s : State) (h : Keeps s0 s) : KeepsOut s0 (execLaneLoss t port lane los s) := by
  unfold execLaneLoss
  extract_lets +onlyGivenNames x1
  have h1 : Keeps s0 x1 := ?_
  · clear_value x1
    split
    · apply KeepsOut.next
      with_reducible assumption
    · apply KeepsOut.next
      apply State.laneLoss_keeps
      with_reducible assumption
  · subst x1
    apply State.at_keeps
    with_reducible assumption

theorem execLosClear_keeps {s0 : State} (t : Nat) (port : Nat) (lane : Nat) (s : State) (h : Keeps s0 s) : KeepsOut s0 (execLosClear t port lane s) := by
  unfold execLosClear
  extract_lets +onlyGivenNames x1
  have h1 : Keeps s0 x1 := ?_
  · clear_value x1
    extract_lets +onlyGivenNames x2
    clear_value x2
    split
    · apply KeepsOut.next
      apply State.setPort_keeps
      with_reducible assumption
    · apply KeepsOut.next
      with_reducible assumption
  · subst x1
    apply State.at_keeps
    with_reducible assumption

theorem State.takeRemap_keeps {s0 : State} (s : State) (p : Nat) (hdr : Nat) (h : Keeps s0 s) : Keeps s0 (State.takeRemap s p hdr) := by
  unfold State.takeRemap
  extract_lets +onlyGivenNames x1
  clear_value x1
  extract_lets +onlyGivenNames x2
  clear_value x2
  extract_lets +onlyGivenNames x3
  clear_value x3
  extract_lets +onlyGivenNames x4
  clear_value x4
  split
  · with_reducible assumption
  · extract_lets +onlyGivenNames x7
    have h7 : Keeps s0 x7 := ?_
    · clear_value x7
      extract_lets +onlyGivenNames x8
      have h8 : Keeps s0 x8 := ?_
      · clear_value x8
        extract_lets +onlyGivenNames x9
        have h9 : Keeps s0 x9 := ?_
        · clear_value x9
          extract_lets +onlyGivenNames x10
          clear_value x10
          extract_lets +onlyGivenNames x11
          have h11 : Keeps s0 x11 := ?_
          · clear_value x11
            apply State.setPort_keeps
            with_reducible assumption
          · subst x11
            split
            · with_reducible assumption
            · apply State.setPort_keeps
              apply State.wr_keeps
              with_reducible assumption
        · subst x9
          apply State.lifeAdd_keeps
          with_reducible assumption
      · subst x8
        apply State.setF_keeps
        apply State.wr_keeps
        with_reducible assumption
    · subst x7
      split
      · apply State.wr_keeps
        with_reducible assumption
      · with_reducible assumption

theorem execLinkRemap_keeps {s0 : State} (t : Nat) (port : Nat) (s : State) (h : Keeps s0 s) : KeepsOut s0 (execLinkRemap t port s) := by
  unfold execLinkRemap
  extract_lets +onlyGivenNames x1
  have h1 : Keeps s0 x1 := ?_
  · clear_value x1
    split
    · apply KeepsOut.next
      with_reducible assumption
    · split
      · apply KeepsOut.next
        apply State.takeRemap_keeps
        refine State.takePkt_keeps ?_ ‹_›
        with_reducible assumption
      · apply KeepsOut.next
        refine State.takePkt_keeps ?_ ‹_›
        with_reducible assumption
  · subst x1
    apply State.at_keeps
    with_reducible assumption

theorem State.endPause_keeps {s0 : State} (s : State) (p : Nat) (h : Keeps s0 s) : Keeps s0 (State.endPause s p) := by
  unfold State.endPause
  extract_lets +onlyGivenNames x1
  clear_value x1
  extract_lets +onlyGivenNames x2
  have h2 : Keeps s0 x2 := ?_
  · clear_value x2
    split
    · extract_lets +onlyGivenNames x4
      clear_value x4
      extract_lets +onlyGivenNames x5
      have h5 : Keeps s0 x5 := ?_
      · clear_value x5
        split
        · with_reducible assumption
        · apply State.requery_keeps
          apply State.setPort_keeps
          with_reducible assumption
      · subst x5
        apply State.setElv_keeps
        apply State.wr_keeps
        with_reducible assumption
    · with_reducible assumption
  · subst x2
    apply State.setPort_keeps
    with_reducible assumption

theorem execLinkResume_keeps {s0 : State} (t : Nat) (port : Nat) (s : State) (h : Keeps s0 s) : KeepsOut s0 (execLinkResume t port s) := by
  unfold execLinkResume
  extract_lets +onlyGivenNames x1
  have h1 : Keeps s0 x1 := ?_
  · clear_value x1
    split
    · apply KeepsOut.next
      with_reducible assumption
    · split
      · apply KeepsOut.next
        apply State.endPause_keeps
        refine State.takePkt_keeps ?_ ‹_›
        with_reducible assumption
      · apply KeepsOut.next
        refine State.takePkt_keeps ?_ ‹_›
        with_reducible assumption
  · subst x1
    apply State.at_keeps
    with_reducible assumption

theorem execPauseTo_keeps {s0 : State} (t : Nat) (port : Nat) (s : State) (h : Keeps s0 s) : KeepsOut s0 (execPauseTo t port s) := by
  unfold execPauseTo
  extract_lets +onlyGivenNames x1
  have h1 : Keeps s0 x1 := ?_
  · clear_value x1
    split
    · apply KeepsOut.next
      apply State.backToClock_keeps
      apply State.linkEvent_keeps
      apply State.setF_keeps
      with_reducible assumption
    · apply KeepsOut.next
      with_reducible assumption
  · subst x1
    apply State.at_keeps
    with_reducible assumption

theorem State.takeContent_keeps {s0 : State} (s : State) (p : Nat) (f : Nat) (arr : Nat) (h : Keeps s0 s) : Keeps s0 (State.takeContent s p f arr) := by
  unfold State.takeContent
  extract_lets +onlyGivenNames x1
  clear_value x1
  extract_lets +onlyGivenNames x2
  clear_value x2
  extract_lets +onlyGivenNames x3
  clear_value x3
  extract_lets +onlyGivenNames x4
  have h4 : Keeps s0 x4 := ?_
  · clear_value x4
    extract_lets +onlyGivenNames x5
    clear_value x5
    extract_lets +onlyGivenNames x6
    clear_value x6
    extract_lets +onlyGivenNames x7
    have h7 : Keeps s0 x7 := ?_
    · clear_value x7
      split
      · apply State.setF_keeps
        with_reducible assumption
      · with_reducible assumption
    · subst x7
      apply State.setPort_keeps
      with_reducible assumption
  · subst x4
    split
    · refine Keeps.foldl ?_ fun x15 a15 h15 => ?_
      · with_reducible assumption
      · apply State.acceptWord_keeps
        with_reducible assumption
    · with_reducible assumption

theorem State.takeAck_keeps {s0 : State} (s : State) (p : Nat) (f : Nat) (h : Keeps s0 s) : Keeps s0 (State.takeAck s p f) := by
  unfold State.takeAck
  extract_lets +onlyGivenNames x1
  clear_value x1
  extract_lets +onlyGivenNames x2
  clear_value x2
  extract_lets +onlyGivenNames x3
  clear_value x3
  extract_lets +onlyGivenNames x4
  clear_value x4
  extract_lets +onlyGivenNames x5
  clear_value x5
  split
  · apply State.setPort_keeps
    with_reducible assumption
  · split
    · apply State.setPort_keeps
      with_reducible assumption
    · apply State.inc_keeps
      apply State.setPort_keeps
      with_reducible assumption

theorem State.crcFail_keeps {s0 : State} (s : State) (p : Nat) (h : Keeps s0 s) : Keeps s0 (State.crcFail s p) := by
  unfold State.crcFail
  extract_lets +onlyGivenNames x1
  have h1 : Keeps s0 x1 := ?_
  · clear_value x1
    extract_lets +onlyGivenNames x2
    clear_value x2
    extract_lets +onlyGivenNames x3
    have h3 : Keeps s0 x3 := ?_
    · clear_value x3
      split
      · apply State.backToClock_keeps
        apply State.linkEvent_keeps
        apply State.setF_keeps
        with_reducible assumption
      · with_reducible assumption
    · subst x3
      apply State.setPort_keeps
      with_reducible assumption
  · subst x1
    apply State.lifeAdd_keeps
    apply State.inc_keeps
    with_reducible assumption

theorem State.takeData_keeps {s0 : State} (s : State) (p : Nat) (f : Nat) (arr : Nat) (h : Keeps s0 s) : Keeps s0 (State.takeData s p f arr) := by
  unfold State.takeData
  extract_lets +onlyGivenNames x1
  clear_value x1
  extract_lets +onlyGivenNames x2
  have h2 : Keeps s0 x2 := ?_
  · clear_value x2
    split
    · apply State.setPort_keeps
      with_reducible assumption
    · extract_lets +onlyGivenNames x6
      clear_value x6
      extract_lets +onlyGivenNames x7
      have h7 : Keeps s0 x7 := ?_
      · clear_value x7
        split
        · with_reducible assumption
        · split
          · apply State.takeContent_keeps
            apply State.takeAck_keeps
            with_reducible assumption
          · split
            · apply State.setPort_keeps
              with_reducible assumption
            · extract_lets +onlyGivenNames x17
              clear_value x17
              extract_lets +onlyGivenNames x18
              have h18 : Keeps s0 x18 := ?_
              · clear_value x18
                apply State.takeContent_keeps
                apply State.takeAck_keeps
                with_reducible assumption
              · subst x18
                apply State.setPort_keeps
                with_reducible assumption
      · subst x7
        split
        · apply State.endPause_keeps
          apply State.setPort_keeps
          with_reducible assumption
        · with_reducible assumption
  · subst x2
    apply State.setPort_keeps
    with_reducible assumption

theorem State.frameReceive_keeps {s0 : State} (s : State) (p : Nat) (bits' : Nat) (arr : Nat) (h : Keeps s0 s) : Keeps s0 (State.frameReceive s p bits' arr) := by
  unfold State.frameReceive
  extract_lets +onlyGivenNames x1
  clear_value x1
  extract_lets +onlyGivenNames x2
  clear_value x2
  extract_lets +onlyGivenNames x3
  clear_value x3
  split
  · split
    · with_reducible assumption
    · split
      · split
        · apply State.takeNeg_keeps
          with_reducible assumption
        · with_reducible assumption
      · apply State.inc_keeps
        with_reducible assumption
  · split
    · split
      · with_reducible assumption
      · extract_lets +onlyGivenNames x17
        clear_value x17
        extract_lets +onlyGivenNames x18
        have h18 : Keeps s0 x18 := ?_
        · clear_value x18
          split
          · with_reducible assumption
          · split
            · apply State.takeData_keeps
              with_reducible assumption
            · apply State.crcFail_keeps
              with_reducible assumption
        · subst x18
          apply State.setPort_keeps
          with_reducible assumption
    · with_reducible assumption

theorem execFrameReceive_keeps {s0 : State} (t : Nat) (port : Nat) (bits : Nat) (frac : Nat) (s : State) (h : Keeps s0 s) : KeepsOut s0 (execFrameReceive t port bits frac s) := by
  unfold execFrameReceive
  extract_lets +onlyGivenNames x1
  have h1 : Keeps s0 x1 := ?_
  · clear_value x1
    split
    · apply KeepsOut.next
      with_reducible assumption
    · apply KeepsOut.next
      apply State.frameReceive_keeps
      with_reducible assumption
  · subst x1
    apply State.at_keeps
    with_reducible assumption

theorem State.portsDown_keeps {s0 : State} (s : State) (h : Keeps s0 s) : Keeps s0 (State.portsDown s) := by
  unfold State.portsDown
  refine Keeps.foldl ?_ fun x1 a1 h1 => ?_
  · with_reducible assumption
  · apply State.enterAbsent_keeps
    with_reducible assumption

theorem State.portChange_keeps {s0 : State} (s : State) (p : Nat) (roleWas : Nat) (h : Keeps s0 s) : Keeps s0 (State.portChange s p roleWas) := by
  unfold State.portChange
  split
  · apply State.enterAbsent_keeps
    with_reducible assumption
  · split
    · apply State.enterAbsent_keeps
      with_reducible assumption
    · with_reducible assumption

theorem State.showEq_keeps {s0 : State} (s : State) (p : Nat) (h : Keeps s0 s) : Keeps s0 (State.showEq s p) := by
  unfold State.showEq
  refine Keeps.foldl ?_ fun x1 a1 h1 => ?_
  · with_reducible assumption
  · extract_lets +onlyGivenNames x3
    clear_value x3
    extract_lets +onlyGivenNames x4
    have h4 : Keeps s0 x4 := ?_
    · clear_value x4
      split
      · apply State.both_keeps
        with_reducible assumption
      · with_reducible assumption
    · subst x4
      apply State.both_keeps
      apply State.both_keeps
      with_reducible assumption

theorem State.deriveElv_keeps {s0 : State} (s : State) (p : Nat) (h : Keeps s0 s) : Keeps s0 (State.deriveElv s p) := by
  unfold State.deriveElv
  split
  · with_reducible assumption
  · extract_lets +onlyGivenNames x3
    have h3 : Keeps s0 x3 := ?_
    · clear_value x3
      apply State.showEq_keeps
      apply State.both_keeps
      apply State.both_keeps
      with_reducible assumption
    · subst x3
      refine Keeps.foldl ?_ fun x8 a8 h8 => ?_
      · with_reducible assumption
      · apply State.both_keeps
        with_reducible assumption

end Sys2Proof.Machine
end

