-- ==== Sys2Proof/Laws/KeepsMemory.lean ====
section
/-! SUPPORT. What the definitions of Machine/Memory.lean keep: one lemma each. -/

namespace Sys2Proof.Machine

set_option maxRecDepth 10000

theorem State.memCode_keeps {s0 : State} (s : State) (code : Nat) (h : Keeps s0 s) : Keeps s0 (State.memCode s code) := by
  unfold State.memCode
  apply State.wr_keeps
  with_reducible assumption

theorem State.refreshDescs_keeps {s0 : State} (s : State) (a : Nat) (len : Nat) (h : Keeps s0 s) : Keeps s0 (State.refreshDescs s a len) := by
  unfold State.refreshDescs
  with_reducible apply Keeps.mk
  with_reducible assumption

theorem State.writeChunks_keeps {s0 : State} (s : State) (a : Nat) (bs : List Byte) (h : Keeps s0 s) : Keeps s0 (State.writeChunks s a bs) := by
  unfold State.writeChunks
  apply State.refreshDescs_keeps
  apply State.putChunks_keeps
  with_reducible assumption

theorem State.setMap_keeps {s0 : State} (s : State) (m : List (Nat × Nat)) (h : Keeps s0 s) : Keeps s0 (State.setMap s m) := by
  unfold State.setMap
  extract_lets +onlyGivenNames x1
  have h1 : Keeps s0 x1 := ?_
  · clear_value x1
    apply State.checkRings_keeps
    with_reducible assumption
  · subst x1
    refine Keeps.foldl ?_ fun x4 a4 h4 => ?_
    · with_reducible assumption
    · extract_lets +onlyGivenNames x6
      clear_value x6
      apply State.wr_keeps
      apply State.wr_keeps
      with_reducible assumption

theorem State.mapApply_keeps {s0 : State} (s : State) (h : Keeps s0 s) : Keeps s0 (State.mapApply s) := by
  unfold State.mapApply
  split
  · apply State.memCode_keeps
    with_reducible assumption
  · split
    · apply State.memCode_keeps
      with_reducible assumption
    · apply State.memCode_keeps
      apply State.setMap_keeps
      with_reducible assumption

theorem execMapApply_keeps {s0 : State} (t : Nat) (s : State) (h : Keeps s0 s) : KeepsOut s0 (execMapApply t s) := by
  unfold execMapApply
  extract_lets +onlyGivenNames x1
  have h1 : Keeps s0 x1 := ?_
  · clear_value x1
    split
    · apply KeepsOut.next
      apply State.hostCmd_keeps
      · with_reducible assumption
      · intro y6_0 y6_1
        apply State.mapApply_keeps
        with_reducible assumption
    · apply KeepsOut.next
      with_reducible assumption
  · subst x1
    apply State.at_keeps
    with_reducible assumption

theorem State.hostReq_keeps {s0 : State} (s : State) (h : Keeps s0 s) : Keeps s0 (State.hostReq s) := by
  unfold State.hostReq
  extract_lets +onlyGivenNames x1
  have h1 : Keeps s0 x1 := ?_
  · clear_value x1
    extract_lets +onlyGivenNames x2
    clear_value x2
    extract_lets +onlyGivenNames x3
    have h3 : Keeps s0 x3.2 := ?_
    · clear_value x3
      split
      · apply State.memCode_keeps
        apply State.wr_keeps
        with_reducible assumption
      · apply State.memCode_keeps
        with_reducible assumption
    · subst x3
      apply State.admission_keeps
      with_reducible assumption
  · subst x1
    apply State.capSettleAll_keeps
    with_reducible assumption

theorem execHostReq_keeps {s0 : State} (t : Nat) (s : State) (h : Keeps s0 s) : KeepsOut s0 (execHostReq t s) := by
  unfold execHostReq
  extract_lets +onlyGivenNames x1
  have h1 : Keeps s0 x1 := ?_
  · clear_value x1
    split
    · apply KeepsOut.next
      apply State.hostCmd_keeps
      · with_reducible assumption
      · intro y6_0 y6_1
        apply State.hostReq_keeps
        with_reducible assumption
    · apply KeepsOut.next
      with_reducible assumption
  · subst x1
    apply State.at_keeps
    with_reducible assumption

theorem State.loseStack_keeps {s0 : State} (s : State) (k : Nat) (h : Keeps s0 s) : Keeps s0 (State.loseStack s k) := by
  unfold State.loseStack
  refine State.wr_keeps _ _ _ (State.wr_keeps _ _ _ ?_)
  exact h.mem rfl (Memory.wf_filter _) id id


theorem State.stackLost_keeps {s0 : State} (s : State) (k : Nat) (h : Keeps s0 s) : Keeps s0 (State.stackLost s k) := by
  unfold State.stackLost
  apply State.greenLoss_keeps
  apply State.memEvent_keeps
  apply State.setF_keeps
  apply State.loseStack_keeps
  with_reducible assumption

theorem execStackLost_keeps {s0 : State} (t : Nat) (stack : Nat) (s : State) (h : Keeps s0 s) : KeepsOut s0 (execStackLost t stack s) := by
  unfold execStackLost
  extract_lets +onlyGivenNames x1
  have h1 : Keeps s0 x1 := ?_
  · clear_value x1
    split
    · apply KeepsOut.next
      apply State.stackLost_keeps
      with_reducible assumption
    · apply KeepsOut.next
      with_reducible assumption
  · subst x1
    apply State.at_keeps
    with_reducible assumption

theorem State.checkStacks_keeps {s0 : State} (s : State) (h : Keeps s0 s) : Keeps s0 (State.checkStacks s) := by
  unfold State.checkStacks
  refine Keeps.foldl ?_ fun x1 a1 h1 => ?_
  · with_reducible assumption
  · split
    · apply State.setMemo_keeps
      apply State.stackLost_keeps
      with_reducible assumption
    · with_reducible assumption

theorem State.scrubChunk_keeps {s0 : State} (s : State) (chunk : Nat) (upsets : List (Nat × Nat)) (h : Keeps s0 s) : Keeps s0 (State.scrubChunk s chunk upsets) := by
  unfold State.scrubChunk
  apply State.checkStacks_keeps
  apply State.meetChunk_keeps
  refine Keeps.foldl ?_ fun x3 a3 h3 => ?_
  · with_reducible assumption
  · apply State.strikeChunk_keeps
    with_reducible assumption

theorem execHbmScrubPass_keeps {s0 : State} (t : Nat) (chunk : Nat) (upsets : List (Nat × Nat)) (s : State) (h : Keeps s0 s) : KeepsOut s0 (execHbmScrubPass t chunk upsets s) := by
  unfold execHbmScrubPass
  extract_lets +onlyGivenNames x1
  have h1 : Keeps s0 x1 := ?_
  · clear_value x1
    split
    · apply KeepsOut.next
      apply State.scrubChunk_keeps
      with_reducible assumption
    · apply KeepsOut.next
      with_reducible assumption
  · subst x1
    apply State.at_keeps
    with_reducible assumption

theorem State.showSpares_keeps {s0 : State} (s : State) (stack : Nat) (h : Keeps s0 s) : Keeps s0 (State.showSpares s stack) := by
  unfold State.showSpares
  apply State.wr_keeps
  with_reducible assumption

theorem State.softRepair_keeps {s0 : State} (s : State) (stack : Nat) (pch : Nat) (bank : Nat) (row : Nat) (h : Keeps s0 s) : Keeps s0 (State.softRepair s stack pch bank row) := by
  unfold State.softRepair
  extract_lets +onlyGivenNames x1
  clear_value x1
  extract_lets +onlyGivenNames x2
  clear_value x2
  extract_lets +onlyGivenNames x3
  clear_value x3
  extract_lets +onlyGivenNames x4
  have h4 : Keeps s0 x4 := ?_
  · clear_value x4
    extract_lets +onlyGivenNames x5
    have h5 : Keeps s0 x5 := ?_
    · clear_value x5
      extract_lets +onlyGivenNames x6
      have h6 : Keeps s0 x6 := ?_
      · clear_value x6
        split
        · apply State.memEvent_keeps
          apply State.setF_keeps
          with_reducible assumption
        · with_reducible assumption
      · subst x6
        apply State.showSpares_keeps
        with_reducible assumption
    · subst x5
      split
      · apply State.lifeAppend_keeps
        apply State.incSat_keeps
        with_reducible assumption
      · with_reducible assumption
  · subst x4
    with_reducible apply Keeps.mk
    with_reducible assumption

theorem execSoftRepair_keeps {s0 : State} (t : Nat) (stack : Nat) (pch : Nat) (bank : Nat) (row : Nat) (s : State) (h : Keeps s0 s) : KeepsOut s0 (execSoftRepair t stack pch bank row s) := by
  unfold execSoftRepair
  extract_lets +onlyGivenNames x1
  have h1 : Keeps s0 x1 := ?_
  · clear_value x1
    extract_lets +onlyGivenNames x2
    clear_value x2
    split
    · apply KeepsOut.next
      apply State.softRepair_keeps
      with_reducible assumption
    · apply KeepsOut.next
      with_reducible assumption
  · subst x1
    apply State.at_keeps
    with_reducible assumption

theorem State.cacheDesc_keeps {s0 : State} (s : State) (n : Nat) (i : Nat) (h : Keeps s0 s) : Keeps s0 (State.cacheDesc s n i) := by
  unfold State.cacheDesc
  extract_lets +onlyGivenNames x1
  have h1 : Keeps s0 x1 := ?_
  · clear_value x1
    extract_lets +onlyGivenNames x2
    clear_value x2
    extract_lets +onlyGivenNames x3
    clear_value x3
    extract_lets +onlyGivenNames x4
    have h4 : Keeps s0 x4 := ?_
    · clear_value x4
      with_reducible apply Keeps.mk
      with_reducible assumption
    · subst x4
      apply State.setComb_keeps
      with_reducible assumption
  · subst x1
    with_reducible apply Keeps.mk
    with_reducible assumption

theorem State.descLate_keeps {s0 : State} (s : State) (n : Nat) (r : DescRead) (h : Keeps s0 s) : Keeps s0 (State.descLate s n r) := by
  unfold State.descLate
  apply State.markShot_keeps
  apply State.inc_keeps
  apply State.memEvent_keeps
  apply State.setF_keeps
  with_reducible assumption

theorem State.descDone_keeps {s0 : State} (s : State) (n : Nat) (r : DescRead) (rs : List DescRead) (h : Keeps s0 s) : Keeps s0 (State.descDone s n r rs) := by
  unfold State.descDone
  extract_lets +onlyGivenNames x1
  clear_value x1
  extract_lets +onlyGivenNames x2
  have h2 : Keeps s0 x2 := ?_
  · clear_value x2
    extract_lets +onlyGivenNames x3
    have h3 : Keeps s0 x3.2 := ?_
    · clear_value x3
      extract_lets +onlyGivenNames x4
      have h4 : Keeps s0 x4 := ?_
      · clear_value x4
        extract_lets +onlyGivenNames x5
        have h5 : Keeps s0 x5 := ?_
        · clear_value x5
          split
          · split
            · apply State.descLate_keeps
              with_reducible assumption
            · with_reducible assumption
          · with_reducible assumption
        · subst x5
          refine Keeps.foldl ?_ fun x12 a12 h12 => ?_
          · with_reducible assumption
          · apply State.setCell_keeps
            with_reducible assumption
      · subst x4
        split
        · with_reducible assumption
        · apply State.cacheDesc_keeps
          with_reducible assumption
    · subst x3
      apply State.meetChunk_keeps
      with_reducible assumption
  · subst x2
    apply State.setComb_keeps
    with_reducible assumption

theorem execDescReadComplete_keeps {s0 : State} (t : Nat) (n : Nat) (s : State) (h : Keeps s0 s) : KeepsOut s0 (execDescReadComplete t n s) := by
  unfold execDescReadComplete
  extract_lets +onlyGivenNames x1
  have h1 : Keeps s0 x1 := ?_
  · clear_value x1
    split
    · apply KeepsOut.next
      with_reducible assumption
    · split
      · apply KeepsOut.next
        apply State.checkStacks_keeps
        apply State.descDone_keeps
        apply State.settle_keeps
        with_reducible assumption
      · apply KeepsOut.next
        with_reducible assumption
  · subst x1
    apply State.at_keeps
    with_reducible assumption

theorem State.putSample_keeps {s0 : State} (s : State) (n : Nat) (c : Nat) (k : Nat) (g : Seg) (w : Nat) (bad : Bool) (h : Keeps s0 s) : Keeps s0 (State.putSample s n c k g w bad) := by
  unfold State.putSample
  extract_lets +onlyGivenNames x1
  clear_value x1
  with_reducible apply Keeps.mk
  with_reducible assumption

theorem State.refillHbm_keeps {s0 : State} (s : State) (n : Nat) (c : Nat) (g : Seg) (h : Keeps s0 s) : Keeps s0 (State.refillHbm s n c g) := by
  unfold State.refillHbm
  extract_lets +onlyGivenNames x1
  clear_value x1
  extract_lets +onlyGivenNames x2
  clear_value x2
  extract_lets +onlyGivenNames x3
  clear_value x3
  split
  · with_reducible assumption
  · extract_lets +onlyGivenNames x6
    clear_value x6
    extract_lets +onlyGivenNames x7
    clear_value x7
    extract_lets +onlyGivenNames x8
    clear_value x8
    extract_lets +onlyGivenNames x9
    have h9 : Keeps s0 x9.2 := ?_
    · clear_value x9
      extract_lets +onlyGivenNames x10
      clear_value x10
      extract_lets +onlyGivenNames x11
      have h11 : Keeps s0 x11 := ?_
      · clear_value x11
        apply State.readEnv_keeps
        apply State.setCell_keeps
        with_reducible assumption
      · subst x11
        refine Keeps.foldl ?_ fun x15 a15 h15 => ?_
        · with_reducible assumption
        · apply State.putSample_keeps
          with_reducible assumption
    · subst x9
      apply State.meetSpan_keeps
      with_reducible assumption

theorem State.refillFar_keeps {s0 : State} (s : State) (n : Nat) (c : Nat) (g : Seg) (h : Keeps s0 s) : Keeps s0 (State.refillFar s n c g) := by
  unfold State.refillFar
  extract_lets +onlyGivenNames x1
  clear_value x1
  extract_lets +onlyGivenNames x2
  clear_value x2
  extract_lets +onlyGivenNames x3
  clear_value x3
  split
  · with_reducible assumption
  · extract_lets +onlyGivenNames x6
    clear_value x6
    extract_lets +onlyGivenNames x7
    have h7 : Keeps s0 x7 := ?_
    · clear_value x7
      extract_lets +onlyGivenNames x8
      have h8 : Keeps s0 x8 := ?_
      · clear_value x8
        extract_lets +onlyGivenNames x9
        clear_value x9
        extract_lets +onlyGivenNames x10
        have h10 : Keeps s0 x10 := ?_
        · clear_value x10
          apply State.askRefills_keeps
          with_reducible assumption
        · subst x10
          apply State.setCell_keeps
          with_reducible assumption
      · subst x8
        refine Keeps.foldl ?_ fun x15 a15 h15 => ?_
        · with_reducible assumption
        · apply State.putSample_keeps
          with_reducible assumption
    · subst x7
      with_reducible apply Keeps.mk
      with_reducible assumption

theorem execStreamRefill_keeps {s0 : State} (t : Nat) (n : Nat) (c : Nat) (s : State) (h : Keeps s0 s) : KeepsOut s0 (execStreamRefill t n c s) := by
  unfold execStreamRefill
  extract_lets +onlyGivenNames x1
  have h1 : Keeps s0 x1 := ?_
  · clear_value x1
    split
    · apply KeepsOut.next
      with_reducible assumption
    · split
      · apply KeepsOut.next
        apply State.checkStacks_keeps
        apply State.refillHbm_keeps
        apply State.settle_keeps
        with_reducible assumption
      · split
        · apply KeepsOut.next
          apply State.refillFar_keeps
          apply State.settle_keeps
          with_reducible assumption
        · apply KeepsOut.next
          with_reducible assumption
  · subst x1
    apply State.at_keeps
    with_reducible assumption

theorem State.dropFar_keeps {s0 : State} (s : State) (r : FarRead) (h : Keeps s0 s) : Keeps s0 (State.dropFar s r) := by
  unfold State.dropFar
  with_reducible apply Keeps.mk
  with_reducible assumption

theorem State.killRefill_keeps {s0 : State} (s : State) (cell : Nat) (b0 : Nat) (h : Keeps s0 s) : Keeps s0 (State.killRefill s cell b0) := by
  unfold State.killRefill
  extract_lets +onlyGivenNames x1
  clear_value x1
  split
  · split
    · apply State.setCell_keeps
      with_reducible assumption
    · with_reducible assumption
  · with_reducible assumption

theorem State.sendData_keeps {s0 : State} (s : State) (p : Nat) (tag : Nat) (cs : List (Nat × Nat × Bool)) (h : Keeps s0 s) : Keeps s0 (State.sendData s p tag cs) := by
  unfold State.sendData
  refine Keeps.foldl ?_ fun x1 a1 h1 => ?_
  · with_reducible assumption
  · apply State.queueMem_keeps
    with_reducible assumption

theorem State.badChunks_keeps {s0 : State} (s : State) (chunk : Nat) (a_____internal__hyg_0 : Nat) (h : Keeps s0 s) : Keeps s0 (State.badChunks s chunk a_____internal__hyg_0).2 := by
  unfold State.badChunks
  split
  · apply Keeps.mk2
    with_reducible assumption
  · extract_lets +onlyGivenNames x4
    have h4 : Keeps s0 x4.2 := ?_
    · clear_value x4
      extract_lets +onlyGivenNames x5
      have h5 : Keeps s0 x5.2 := ?_
      · clear_value x5
        apply Keeps.mk2
        with_reducible assumption
      · subst x5
        apply State.badChunks_keeps
        with_reducible assumption
    · subst x4
      apply State.draw_keeps
      with_reducible assumption

theorem State.hostFarRead_keeps {s0 : State} (s : State) (p : Nat) (tag : Nat) (bad : Bool) (a_____internal__hyg_0 : Nat) (a_____internal__hyg_05 : Nat) (a_____internal__hyg_06 : Nat) (h : Keeps s0 s) : Keeps s0 (State.hostFarRead s p tag bad a_____internal__hyg_0 a_____internal__hyg_05 a_____internal__hyg_06) := by
  unfold State.hostFarRead
  split
  · with_reducible assumption
  · apply State.queueCpl_keeps
    with_reducible assumption
  · extract_lets +onlyGivenNames x5
    clear_value x5
    extract_lets +onlyGivenNames x6
    clear_value x6
    split
    · apply State.farIssue_keeps
      with_reducible assumption
    · extract_lets +onlyGivenNames x10
      have h10 : Keeps s0 x10.2 := ?_
      · clear_value x10
        apply State.hostFarRead_keeps
        apply State.sendData_keeps
        with_reducible assumption
      · subst x10
        apply State.badChunks_keeps
        apply State.fsErr_keeps
        with_reducible assumption

theorem State.hostFarWrite_keeps {s0 : State} (s : State) (p : Nat) (tag : Nat) (cpl : Bool) (bad : Bool) (a_____internal__hyg_0 : List (Nat × Nat × Bool)) (h : Keeps s0 s) : Keeps s0 (State.hostFarWrite s p tag cpl bad a_____internal__hyg_0) := by
  unfold State.hostFarWrite
  split
  · split
    · apply State.queueCpl_keeps
      with_reducible assumption
    · with_reducible assumption
  · split
    · apply State.hostFarWrite_keeps
      apply State.fsErr_keeps
      with_reducible assumption
    · extract_lets +onlyGivenNames x10
      clear_value x10
      split
      · apply State.farIssue_keeps
        with_reducible assumption
      · apply State.hostFarWrite_keeps
        apply State.queueMem_keeps
        with_reducible assumption

theorem State.farEnd_keeps {s0 : State} (s : State) (r : FarRead) (code : Nat) (h : Keeps s0 s) : Keeps s0 (State.farEnd s r code) := by
  unfold State.farEnd
  extract_lets +onlyGivenNames x1
  have h1 : Keeps s0 x1 := ?_
  · clear_value x1
    split
    · split
      · with_reducible apply Keeps.mk
        with_reducible assumption
      · apply State.killRefill_keeps
        apply State.dropFar_keeps
        with_reducible assumption
    · extract_lets +onlyGivenNames x9
      have h9 : Keeps s0 x9 := ?_
      · clear_value x9
        split
        · apply State.hostFarWrite_keeps
          with_reducible assumption
        · extract_lets +onlyGivenNames x13
          clear_value x13
          extract_lets +onlyGivenNames x14
          have h14 : Keeps s0 x14.2 := ?_
          · clear_value x14
            extract_lets +onlyGivenNames x15
            have h15 : Keeps s0 x15 := ?_
            · clear_value x15
              apply State.hostFarRead_keeps
              with_reducible assumption
            · subst x15
              apply State.sendData_keeps
              with_reducible assumption
          · subst x14
            split
            · apply Keeps.mk2
              with_reducible assumption
            · apply State.badChunks_keeps
              with_reducible assumption
      · subst x9
        apply State.dropFar_keeps
        with_reducible assumption
    · apply State.dropFar_keeps
      with_reducible assumption
  · subst x1
    split
    · with_reducible assumption
    · apply State.fsErr_keeps
      with_reducible assumption

theorem execFarStoreAbandon_keeps {s0 : State} (t : Nat) (port : Nat) (tag : Nat) (s : State) (h : Keeps s0 s) : KeepsOut s0 (execFarStoreAbandon t port tag s) := by
  unfold execFarStoreAbandon
  extract_lets +onlyGivenNames x1
  have h1 : Keeps s0 x1 := ?_
  · clear_value x1
    split
    · apply KeepsOut.next
      with_reducible assumption
    · split
      · apply KeepsOut.next
        apply State.farEnd_keeps
        with_reducible assumption
      · apply KeepsOut.next
        with_reducible assumption
  · subst x1
    apply State.at_keeps
    with_reducible assumption

theorem State.readChunks_keeps {s0 : State} (s : State) (chunk : Nat) (a_____internal__hyg_0 : Nat) (h : Keeps s0 s) : Keeps s0 (State.readChunks s chunk a_____internal__hyg_0).2 := by
  unfold State.readChunks
  split
  · apply Keeps.mk2
    with_reducible assumption
  · extract_lets +onlyGivenNames x4
    have h4 : Keeps s0 x4.2 := ?_
    · clear_value x4
      split
      · extract_lets +onlyGivenNames x6
        have h6 : Keeps s0 x6.2 := ?_
        · clear_value x6
          extract_lets +onlyGivenNames x7
          have h7 : Keeps s0 x7.2 := ?_
          · clear_value x7
            apply Keeps.mk2
            with_reducible assumption
          · subst x7
            apply State.readChunks_keeps
            with_reducible assumption
        · subst x6
          apply State.draw_keeps
          with_reducible assumption
      · extract_lets +onlyGivenNames x14
        have h14 : Keeps s0 x14.2 := ?_
        · clear_value x14
          apply Keeps.mk2
          with_reducible assumption
        · subst x14
          apply State.readChunks_keeps
          with_reducible assumption
    · subst x4
      apply State.meetChunk_keeps
      with_reducible assumption

theorem State.memRd_keeps {s0 : State} (s : State) (p : Nat) (x : Pkt) (h : Keeps s0 s) : Keeps s0 (State.memRd s p x) := by
  unfold State.memRd
  extract_lets +onlyGivenNames x1
  clear_value x1
  extract_lets +onlyGivenNames x2
  clear_value x2
  extract_lets +onlyGivenNames x3
  clear_value x3
  split
  · apply State.queueCpl_keeps
    with_reducible assumption
  · split
    · extract_lets +onlyGivenNames x8
      have h8 : Keeps s0 x8.2 := ?_
      · clear_value x8
        apply State.checkStacks_keeps
        apply State.queueCpl_keeps
        apply State.sendData_keeps
        with_reducible assumption
      · subst x8
        apply State.readChunks_keeps
        with_reducible assumption
    · split
      · apply State.hostFarRead_keeps
        with_reducible assumption
      · apply State.queueCpl_keeps
        with_reducible assumption

theorem execMemRd_keeps {s0 : State} (t : Nat) (port : Nat) (s : State) (h : Keeps s0 s) : KeepsOut s0 (execMemRd t port s) := by
  unfold execMemRd
  extract_lets +onlyGivenNames x1
  have h1 : Keeps s0 x1 := ?_
  · clear_value x1
    split
    · apply KeepsOut.next
      with_reducible assumption
    · split
      · apply KeepsOut.next
        split
        · apply State.memRd_keeps
          refine State.takePkt_keeps ?_ ‹_›
          with_reducible assumption
        · refine State.takePkt_keeps ?_ ‹_›
          with_reducible assumption
      · apply KeepsOut.next
        with_reducible assumption
  · subst x1
    apply State.at_keeps
    with_reducible assumption

theorem State.memWr_keeps {s0 : State} (s : State) (p : Nat) (x : Pkt) (h : Keeps s0 s) : Keeps s0 (State.memWr s p x) := by
  unfold State.memWr
  have answer : ∀ (u : State) code, Keeps s0 u → Keeps s0 (if (pktBad x).testBit 0 then u.queueCpl p (pktTag x) code else u) := by
    intro u code hu
    split
    · exact State.queueCpl_keeps _ _ _ _ hu
    · exact hu
  dsimp only
  split
  · exact answer _ _ (Keeps.foldl h fun s e hs => State.writeChunks_keeps _ _ _ hs)
  · split
    · exact State.hostFarWrite_keeps _ _ _ _ _ _ h
    · exact answer _ _ h


theorem execMemWr_keeps {s0 : State} (t : Nat) (port : Nat) (s : State) (h : Keeps s0 s) : KeepsOut s0 (execMemWr t port s) := by
  unfold execMemWr
  extract_lets +onlyGivenNames x1
  have h1 : Keeps s0 x1 := ?_
  · clear_value x1
    split
    · apply KeepsOut.next
      with_reducible assumption
    · split
      · apply KeepsOut.next
        split
        · apply State.memWr_keeps
          refine State.takePkt_keeps ?_ ‹_›
          with_reducible assumption
        · refine State.takePkt_keeps ?_ ‹_›
          with_reducible assumption
      · apply KeepsOut.next
        with_reducible assumption
  · subst x1
    apply State.at_keeps
    with_reducible assumption

theorem State.memData_keeps {s0 : State} (s : State) (p : Nat) (x : Pkt) (h : Keeps s0 s) : Keeps s0 (State.memData s p x) := by
  unfold State.memData
  split
  · with_reducible assumption
  · split
    · with_reducible assumption
    · extract_lets +onlyGivenNames x5
      clear_value x5
      extract_lets +onlyGivenNames x6
      have h6 : Keeps s0 x6 := ?_
      · clear_value x6
        split
        · apply State.sendData_keeps
          with_reducible assumption
        · with_reducible assumption
      · subst x6
        with_reducible apply Keeps.mk
        with_reducible assumption

theorem execMemData_keeps {s0 : State} (t : Nat) (port : Nat) (s : State) (h : Keeps s0 s) : KeepsOut s0 (execMemData t port s) := by
  unfold execMemData
  extract_lets +onlyGivenNames x1
  have h1 : Keeps s0 x1 := ?_
  · clear_value x1
    split
    · apply KeepsOut.next
      with_reducible assumption
    · split
      · apply KeepsOut.next
        split
        · apply State.memData_keeps
          refine State.takePkt_keeps ?_ ‹_›
          with_reducible assumption
        · refine State.takePkt_keeps ?_ ‹_›
          with_reducible assumption
      · apply KeepsOut.next
        with_reducible assumption
  · subst x1
    apply State.at_keeps
    with_reducible assumption

theorem State.takeCpl_keeps {s0 : State} (s : State) (p : Nat) (x : Pkt) (h : Keeps s0 s) : Keeps s0 (State.takeCpl s p x) := by
  unfold State.takeCpl
  split
  · with_reducible assumption
  · split
    · with_reducible assumption
    · apply State.farEnd_keeps
      with_reducible assumption

theorem execCpl_keeps {s0 : State} (t : Nat) (port : Nat) (s : State) (h : Keeps s0 s) : KeepsOut s0 (execCpl t port s) := by
  unfold execCpl
  extract_lets +onlyGivenNames x1
  have h1 : Keeps s0 x1 := ?_
  · clear_value x1
    split
    · apply KeepsOut.next
      with_reducible assumption
    · split
      · apply KeepsOut.next
        split
        · apply State.takeCpl_keeps
          refine State.takePkt_keeps ?_ ‹_›
          with_reducible assumption
        · refine State.takePkt_keeps ?_ ‹_›
          with_reducible assumption
      · apply KeepsOut.next
        with_reducible assumption
  · subst x1
    apply State.at_keeps
    with_reducible assumption

theorem State.deriveMem_keeps {s0 : State} (s : State) (h : Keeps s0 s) : Keeps s0 (State.deriveMem s) := by
  unfold State.deriveMem
  split
  · with_reducible assumption
  · refine Keeps.foldl ?_ fun x3 a3 h3 => ?_
    · apply State.both_keeps
      with_reducible assumption
    · apply State.wr_keeps
      with_reducible assumption

end Sys2Proof.Machine
end

