-- ==== Sys2Proof/Laws/KeepsLoader.lean ====
section
/-! SUPPORT. What the definitions of Machine/Loader.lean keep: one lemma each. -/

namespace Sys2Proof.Machine

set_option maxRecDepth 10000

theorem State.postLoad_keeps {s0 : State} (s : State) (n : Nat) (code : Nat) (check : Nat) (pc : Nat) (h : Keeps s0 s) : Keeps s0 (State.postLoad s n code check pc) := by
  unfold State.postLoad
  apply State.wr_keeps
  apply State.wr_keeps
  apply State.wr_keeps
  with_reducible assumption

theorem State.replyLoad_keeps {s0 : State} (s : State) (reply : Option (Nat × Nat)) (code : Nat) (h : Keeps s0 s) : Keeps s0 (State.replyLoad s reply code) := by
  unfold State.replyLoad
  split
  · apply State.queueCpl_keeps
    with_reducible assumption
  · with_reducible assumption

theorem State.askProg_keeps {s0 : State} (s : State) (n : Nat) (r : LoadReq) (h : Keeps s0 s) : Keeps s0 (State.askProg s n r) := by
  unfold State.askProg
  split
  · apply State.replyLoad_keeps
    with_reducible assumption
  · split
    · apply State.replyLoad_keeps
      apply State.postLoad_keeps
      with_reducible assumption
    · apply State.wr_keeps
      apply State.setSeq_keeps
      with_reducible assumption

theorem State.loadPkt_keeps {s0 : State} (s : State) (p : Nat) (x : Pkt) (image : ProgImage) (h : Keeps s0 s) : Keeps s0 (State.loadPkt s p x image) := by
  unfold State.loadPkt
  extract_lets +onlyGivenNames x1
  clear_value x1
  apply State.askProg_keeps
  with_reducible assumption

theorem execLoad_keeps {s0 : State} (t : Nat) (port : Nat) (image : ProgImage) (s : State) (h : Keeps s0 s) : KeepsOut s0 (execLoad t port image s) := by
  unfold execLoad
  extract_lets +onlyGivenNames x1
  have h1 : Keeps s0 x1 := ?_
  · clear_value x1
    split
    · apply KeepsOut.next
      with_reducible assumption
    · split
      · apply KeepsOut.next
        apply State.loadPkt_keeps
        refine State.takePkt_keeps ?_ ‹_›
        with_reducible assumption
      · apply KeepsOut.next
        refine State.takePkt_keeps ?_ ‹_›
        with_reducible assumption
  · subst x1
    apply State.at_keeps
    with_reducible assumption

theorem State.writeStores_keeps {s0 : State} (s : State) (n : Nat) (base : Nat) (g : ProgImage) (h : Keeps s0 s) : Keeps s0 (State.writeStores s n base g) := by
  unfold State.writeStores
  extract_lets +onlyGivenNames x1
  clear_value x1
  extract_lets +onlyGivenNames x2
  clear_value x2
  extract_lets +onlyGivenNames x3
  have h3 : Keeps s0 x3 := ?_
  · clear_value x3
    apply State.wr_keeps
    apply State.wr_keeps
    with_reducible assumption
  · subst x3
    with_reducible apply Keeps.mk
    with_reducible assumption

theorem State.writeShadows_keeps {s0 : State} (s : State) (n : Nat) (g : ProgImage) (h : Keeps s0 s) : Keeps s0 (State.writeShadows s n g) := by
  unfold State.writeShadows
  extract_lets +onlyGivenNames x1
  clear_value x1
  extract_lets +onlyGivenNames x2
  clear_value x2
  extract_lets +onlyGivenNames x3
  clear_value x3
  extract_lets +onlyGivenNames x4
  have h4 : Keeps s0 x4 := ?_
  · clear_value x4
    split
    · with_reducible assumption
    · extract_lets +onlyGivenNames x7
      have h7 : Keeps s0 x7 := ?_
      · clear_value x7
        extract_lets +onlyGivenNames x8
        have h8 : Keeps s0 x8 := ?_
        · clear_value x8
          apply State.wr_keeps
          with_reducible assumption
        · subst x8
          refine Keeps.foldl ?_ fun x11 a11 h11 => ?_
          · with_reducible assumption
          · extract_lets +onlyGivenNames x13
            clear_value x13
            apply State.wr_keeps
            apply State.wr_keeps
            with_reducible assumption
      · subst x7
        refine Keeps.foldl ?_ fun x17 a17 h17 => ?_
        · with_reducible assumption
        · extract_lets +onlyGivenNames x19
          clear_value x19
          extract_lets +onlyGivenNames x20
          have h20 : Keeps s0 x20 := ?_
          · clear_value x20
            apply State.wr_keeps
            apply State.wr_keeps
            apply State.wr_keeps
            with_reducible assumption
          · subst x20
            refine Keeps.foldl ?_ fun x25 a25 h25 => ?_
            · with_reducible assumption
            · extract_lets +onlyGivenNames x27
              clear_value x27
              apply State.wr_keeps
              apply State.wr_keeps
              with_reducible assumption
  · subst x4
    refine Keeps.foldl ?_ fun x31 a31 h31 => ?_
    · with_reducible assumption
    · apply State.wr_keeps
      with_reducible assumption

theorem State.setResident_keeps {s0 : State} (s : State) (n : Nat) (r : Bool) (h : Keeps s0 s) : Keeps s0 (State.setResident s n r) := by
  unfold State.setResident
  split
  · split
    · apply State.setBit_keeps
      with_reducible assumption
    · apply State.clrBit_keeps
      with_reducible assumption
  · split
    · apply State.setBit_keeps
      with_reducible assumption
    · apply State.clrBit_keeps
      with_reducible assumption

theorem State.fillDescs_keeps {s0 : State} (s : State) (n : Nat) (nano : List Nat) (h : Keeps s0 s) : Keeps s0 (State.fillDescs s n nano) := by
  unfold State.fillDescs
  extract_lets +onlyGivenNames x1
  clear_value x1
  extract_lets +onlyGivenNames x2
  clear_value x2
  extract_lets +onlyGivenNames x3
  have h3 : Keeps s0 x3 := ?_
  · clear_value x3
    extract_lets +onlyGivenNames x4
    clear_value x4
    extract_lets +onlyGivenNames x5
    have h5 : Keeps s0 x5 := ?_
    · clear_value x5
      extract_lets +onlyGivenNames x6
      clear_value x6
      extract_lets +onlyGivenNames x7
      have h7 : Keeps s0 x7.2 := ?_
      · clear_value x7
        extract_lets +onlyGivenNames x8
        clear_value x8
        apply State.setResident_keeps
        refine Keeps.foldl ?_ fun x10 a10 h10 => ?_
        · with_reducible assumption
        · split
          · with_reducible assumption
          · apply State.cacheDesc_keeps
            with_reducible assumption
      · subst x7
        apply State.meetAll_keeps
        with_reducible assumption
    · subst x5
      apply State.setComb_keeps
      with_reducible assumption
  · subst x3
    with_reducible apply Keeps.mk
    with_reducible assumption

theorem State.installProg_keeps {s0 : State} (s : State) (n : Nat) (base : Nat) (g : ProgImage) (h : Keeps s0 s) : Keeps s0 (State.installProg s n base g) := by
  unfold State.installProg
  extract_lets +onlyGivenNames x1
  have h1 : Keeps s0 x1 := ?_
  · clear_value x1
    extract_lets +onlyGivenNames x2
    have h2 : Keeps s0 x2 := ?_
    · clear_value x2
      extract_lets +onlyGivenNames x3
      have h3 : Keeps s0 x3 := ?_
      · clear_value x3
        extract_lets +onlyGivenNames x4
        have h4 : Keeps s0 x4 := ?_
        · clear_value x4
          extract_lets +onlyGivenNames x5
          have h5 : Keeps s0 x5 := ?_
          · clear_value x5
            extract_lets +onlyGivenNames x6
            clear_value x6
            extract_lets +onlyGivenNames x7
            have h7 : Keeps s0 x7 := ?_
            · clear_value x7
              apply State.fillDescs_keeps
              with_reducible assumption
            · subst x7
              apply State.setSeq_keeps
              with_reducible assumption
          · subst x5
            apply State.wr_keeps
            apply State.wr_keeps
            with_reducible assumption
        · subst x4
          apply State.wr_keeps
          apply State.wr_keeps
          with_reducible assumption
      · subst x3
        apply State.wr_keeps
        apply State.wr_keeps
        with_reducible assumption
    · subst x2
      refine Keeps.foldl ?_ fun x21 a21 h21 => ?_
      · with_reducible assumption
      · apply State.both_keeps
        with_reducible assumption
  · subst x1
    apply State.writeShadows_keeps
    apply State.writeStores_keeps
    with_reducible assumption

theorem State.bootLoads_keeps {s0 : State} (s : State) (k : Nat) (h : Keeps s0 s) : Keeps s0 (s.bootLoads k) := by
  induction k generalizing s with
  | zero => exact h
  | succ k ih =>
    unfold State.bootLoads
    split
    · exact h
    · dsimp only
      split
      · exact State.askProg_keeps _ _ _ (Keeps.mk h)
      · exact ih _ (State.wr_keeps _ _ _ (Keeps.mk h))


theorem State.bootLoaded_keeps {s0 : State} (s : State) (n : Nat) (code : Nat) (h : Keeps s0 s) : Keeps s0 (State.bootLoaded s n code) := by
  unfold State.bootLoaded
  extract_lets +onlyGivenNames x1
  clear_value x1
  extract_lets +onlyGivenNames x2
  have h2 : Keeps s0 x2 := ?_
  · clear_value x2
    apply State.bootLoads_keeps
    with_reducible assumption
  · subst x2
    split
    · with_reducible apply Keeps.mk
      with_reducible assumption
    · apply State.wr_keeps
      with_reducible assumption

theorem State.endLoad_keeps {s0 : State} (s : State) (n : Nat) (r : LoadReq) (x : Nat × Nat × Nat) (h : Keeps s0 s) : Keeps s0 (State.endLoad s n r x) := by
  unfold State.endLoad
  extract_lets +onlyGivenNames x1
  clear_value x1
  extract_lets +onlyGivenNames x2
  have h2 : Keeps s0 x2 := ?_
  · clear_value x2
    split
    · with_reducible assumption
    · apply State.bootLoaded_keeps
      with_reducible assumption
  · subst x2
    apply State.replyLoad_keeps
    apply State.postLoad_keeps
    apply State.setSeq_keeps
    with_reducible assumption

theorem State.loadReads_keeps {s0 : State} (s : State) (r : LoadReq) (h : Keeps s0 s) : Keeps s0 (State.loadReads s r).2 := by
  unfold State.loadReads
  extract_lets +onlyGivenNames x1
  have h1 : Keeps s0 x1.2 := ?_
  · clear_value x1
    refine Keeps.pfoldl ?_ fun x2 a2 h2 => ?_
    · with_reducible assumption
    · extract_lets +onlyGivenNames x4
      have h4 : Keeps s0 x4.2 := ?_
      · clear_value x4
        apply Keeps.mk2
        with_reducible assumption
      · subst x4
        apply State.meetSpan_keeps
        with_reducible assumption
  · subst x1
    apply State.meetSpan_keeps
    with_reducible assumption

theorem State.judgeAndWrite_keeps {s0 : State} (s : State) (n : Nat) (r : LoadReq) (h : Keeps s0 s) : Keeps s0 (State.judgeAndWrite s n r) := by
  unfold State.judgeAndWrite
  split
  · apply State.endLoad_keeps
    with_reducible assumption
  · extract_lets +onlyGivenNames x4
    clear_value x4
    split
    · apply State.endLoad_keeps
      with_reducible assumption
    · extract_lets +onlyGivenNames x8
      have h8 : Keeps s0 x8.2 := ?_
      · clear_value x8
        split
        · apply State.endLoad_keeps
          with_reducible assumption
        · extract_lets +onlyGivenNames x12
          clear_value x12
          apply State.enabledLoad_keeps
          apply State.endLoad_keeps
          apply State.installProg_keeps
          with_reducible assumption
      · subst x8
        apply State.admission_keeps
        apply State.capSettleAll_keeps
        with_reducible assumption

theorem State.completeLoad_keeps {s0 : State} (s : State) (n : Nat) (r : LoadReq) (h : Keeps s0 s) : Keeps s0 (State.completeLoad s n r) := by
  unfold State.completeLoad
  extract_lets +onlyGivenNames x1
  have h1 : Keeps s0 x1.2 := ?_
  · clear_value x1
    split
    · apply State.endLoad_keeps
      with_reducible assumption
    · split
      · apply State.endLoad_keeps
        with_reducible assumption
      · apply State.judgeAndWrite_keeps
        with_reducible assumption
  · subst x1
    apply State.loadReads_keeps
    with_reducible assumption

theorem execLoadComplete_keeps {s0 : State} (t : Nat) (n : Nat) (s : State) (h : Keeps s0 s) : KeepsOut s0 (execLoadComplete t n s) := by
  unfold execLoadComplete
  extract_lets +onlyGivenNames x1
  have h1 : Keeps s0 x1 := ?_
  · clear_value x1
    split
    · apply KeepsOut.next
      with_reducible assumption
    · split
      · apply KeepsOut.next
        apply State.checkStacks_keeps
        apply State.completeLoad_keeps
        with_reducible assumption
      · apply KeepsOut.next
        with_reducible assumption
  · subst x1
    apply State.at_keeps
    with_reducible assumption

end Sys2Proof.Machine
end

