-- ==== Sys2Proof/Laws/KeepsChain.lean ====
section
/-! SUPPORT. What the definitions of Machine/Chain.lean keep: one lemma each. -/

namespace Sys2Proof.Machine

set_option maxRecDepth 10000

theorem State.setChain_keeps {s0 : State} (s : State) (x : ChainSt) (h : Keeps s0 s) : Keeps s0 (State.setChain s x) := by
  unfold State.setChain
  with_reducible apply Keeps.mk
  with_reducible assumption

theorem State.sendAll_keeps {s0 : State} (s : State) (x : Pkt) (but : Option Nat) (h : Keeps s0 s) : Keeps s0 (State.sendAll s x but) := by
  unfold State.sendAll
  refine Keeps.foldl ?_ fun x1 a1 h1 => ?_
  · with_reducible assumption
  · split
    · apply State.queueOut_keeps
      with_reducible assumption
    · with_reducible assumption

theorem State.announce_keeps {s0 : State} (s : State) (h : Keeps s0 s) : Keeps s0 (State.announce s) := by
  unfold State.announce
  split
  · extract_lets +onlyGivenNames x2
    clear_value x2
    extract_lets +onlyGivenNames x3
    clear_value x3
    extract_lets +onlyGivenNames x4
    have h4 : Keeps s0 x4 := ?_
    · clear_value x4
      extract_lets +onlyGivenNames x5
      clear_value x5
      apply State.sendAll_keeps
      with_reducible assumption
    · subst x4
      apply State.setChain_keeps
      with_reducible assumption
  · with_reducible assumption

theorem execAnnounceTimer_keeps {s0 : State} (t : Nat) (s : State) (h : Keeps s0 s) : KeepsOut s0 (execAnnounceTimer t s) := by
  unfold execAnnounceTimer
  extract_lets +onlyGivenNames x1
  have h1 : Keeps s0 x1 := ?_
  · clear_value x1
    split
    · apply KeepsOut.next
      apply State.setChain_keeps
      apply State.announce_keeps
      with_reducible assumption
    · apply KeepsOut.next
      with_reducible assumption
  · subst x1
    apply State.at_keeps
    with_reducible assumption

theorem State.setCstate_keeps {s0 : State} (s : State) (v : Nat) (h : Keeps s0 s) : Keeps s0 (State.setCstate s v) := by
  unfold State.setCstate
  extract_lets +onlyGivenNames x1
  clear_value x1
  extract_lets +onlyGivenNames x2
  have h2 : Keeps s0 x2 := ?_
  · clear_value x2
    extract_lets +onlyGivenNames x3
    clear_value x3
    extract_lets +onlyGivenNames x4
    have h4 : Keeps s0 x4 := ?_
    · clear_value x4
      apply State.announce_keeps
      with_reducible assumption
    · subst x4
      split
      · with_reducible assumption
      · apply State.setChain_keeps
        with_reducible assumption
  · subst x2
    apply State.wr_keeps
    with_reducible assumption

theorem State.dropQueens_keeps {s0 : State} (s : State) (h : Keeps s0 s) : Keeps s0 (State.dropQueens s) := by
  unfold State.dropQueens
  extract_lets +onlyGivenNames x1
  clear_value x1
  extract_lets +onlyGivenNames x2
  clear_value x2
  extract_lets +onlyGivenNames x3
  have h3 : Keeps s0 x3 := ?_
  · clear_value x3
    extract_lets +onlyGivenNames x4
    have h4 : Keeps s0 x4 := ?_
    · clear_value x4
      apply State.wr_keeps
      apply State.wr_keeps
      with_reducible assumption
    · subst x4
      apply State.wr_keeps
      apply State.wr_keeps
      apply State.wr_keeps
      with_reducible assumption
  · subst x3
    apply State.setChain_keeps
    with_reducible assumption

theorem State.setRho_keeps {s0 : State} (s : State) (rho : Int) (h : Keeps s0 s) : Keeps s0 (State.setRho s rho) := by
  unfold State.setRho
  extract_lets +onlyGivenNames x1
  clear_value x1
  apply State.wr_keeps
  apply State.wr_keeps
  with_reducible assumption

theorem State.drawAbout_keeps {s0 : State} (s : State) (l : Nat) (h : Keeps s0 s) : Keeps s0 (State.drawAbout s l).2 := by
  unfold State.drawAbout
  extract_lets +onlyGivenNames x1
  have h1 : Keeps s0 x1.2 := ?_
  · clear_value x1
    apply Keeps.mk2
    with_reducible assumption
  · subst x1
    apply State.draw_keeps
    with_reducible assumption

theorem State.steer_keeps {s0 : State} (s : State) (h : Keeps s0 s) : Keeps s0 (State.steer s) := by
  unfold State.steer
  extract_lets +onlyGivenNames x1
  have h1 : Keeps s0 x1.2 := ?_
  · clear_value x1
    extract_lets +onlyGivenNames x2
    have h2 : Keeps s0 x2.2 := ?_
    · clear_value x2
      extract_lets +onlyGivenNames x3
      clear_value x3
      extract_lets +onlyGivenNames x4
      clear_value x4
      extract_lets +onlyGivenNames x5
      have h5 : Keeps s0 x5 := ?_
      · clear_value x5
        apply State.setChain_keeps
        with_reducible assumption
      · subst x5
        apply State.setRho_keeps
        with_reducible assumption
    · subst x2
      apply State.drawAbout_keeps
      with_reducible assumption
  · subst x1
    apply State.drawAbout_keeps
    with_reducible assumption

theorem State.newRef_keeps {s0 : State} (s : State) (r : Nat) (h : Keeps s0 s) : Keeps s0 (State.newRef s r) := by
  unfold State.newRef
  extract_lets +onlyGivenNames x1
  clear_value x1
  split
  · with_reducible assumption
  · extract_lets +onlyGivenNames x4
    have h4 : Keeps s0 x4 := ?_
    · clear_value x4
      split
      · apply State.chnFlag_keeps
        with_reducible assumption
      · with_reducible assumption
    · subst x4
      apply State.wr_keeps
      with_reducible assumption

theorem State.holdover_keeps {s0 : State} (s : State) (h : Keeps s0 s) : Keeps s0 (State.holdover s) := by
  unfold State.holdover
  extract_lets +onlyGivenNames x1
  clear_value x1
  extract_lets +onlyGivenNames x2
  have h2 : Keeps s0 x2 := ?_
  · clear_value x2
    extract_lets +onlyGivenNames x3
    have h3 : Keeps s0 x3 := ?_
    · clear_value x3
      apply State.setCstate_keeps
      apply State.setChain_keeps
      with_reducible assumption
    · subst x3
      apply State.chnFlag_keeps
      apply State.wr_keeps
      with_reducible assumption
  · subst x2
    split
    · with_reducible assumption
    · apply State.setRho_keeps
      with_reducible assumption

theorem State.showQueens_keeps {s0 : State} (s : State) (h : Keeps s0 s) : Keeps s0 (State.showQueens s) := by
  unfold State.showQueens
  split
  · with_reducible assumption
  · extract_lets +onlyGivenNames x3
    clear_value x3
    apply State.wr_keeps
    apply State.wr_keeps
    apply State.wr_keeps
    apply State.wr_keeps
    with_reducible assumption

theorem State.chainMove_keeps {s0 : State} (s : State) (h : Keeps s0 s) : Keeps s0 (State.chainMove s) := by
  unfold State.chainMove
  extract_lets +onlyGivenNames x1
  clear_value x1
  split
  · extract_lets +onlyGivenNames x3
    clear_value x3
    extract_lets +onlyGivenNames x4
    have h4 : Keeps s0 x4 := ?_
    · clear_value x4
      split
      · split
        · with_reducible assumption
        · apply State.setCstate_keeps
          with_reducible assumption
      · split
        · split
          · apply State.setCstate_keeps
            apply State.wr_keeps
            with_reducible assumption
          · apply State.holdover_keeps
            with_reducible assumption
        · with_reducible assumption
    · subst x4
      apply State.newRef_keeps
      with_reducible assumption
  · with_reducible assumption

theorem State.dropRoutes_keeps {s0 : State} (s : State) (h : Keeps s0 s) : Keeps s0 (State.dropRoutes s) := by
  unfold State.dropRoutes
  extract_lets +onlyGivenNames x1
  have h1 : Keeps s0 x1 := ?_
  · clear_value x1
    apply State.setChain_keeps
    with_reducible assumption
  · subst x1
    refine Keeps.foldl ?_ fun x4 a4 h4 => ?_
    · with_reducible assumption
    · split
      · apply State.lostRoute_keeps
        apply State.wr_keeps
        with_reducible assumption
      · with_reducible assumption

theorem State.enterFree_keeps {s0 : State} (s : State) (h : Keeps s0 s) : Keeps s0 (State.enterFree s) := by
  unfold State.enterFree
  apply State.dropRoutes_keeps
  apply State.setRho_keeps
  apply State.dropQueens_keeps
  apply State.wr_keeps
  with_reducible assumption

theorem State.chainJoin_keeps {s0 : State} (s : State) (id : Nat) (role : Nat) (h : Keeps s0 s) : Keeps s0 (State.chainJoin s id role).2 := by
  unfold State.chainJoin
  split
  · apply Keeps.mk2
    with_reducible assumption
  · extract_lets +onlyGivenNames x4
    have h4 : Keeps s0 x4 := ?_
    · clear_value x4
      extract_lets +onlyGivenNames x5
      have h5 : Keeps s0 x5 := ?_
      · clear_value x5
        apply Keeps.mk2
        apply State.setChain_keeps
        with_reducible assumption
      · subst x5
        apply State.wr_keeps
        apply State.dropQueens_keeps
        with_reducible assumption
    · subst x4
      apply State.wr_keeps
      apply State.wr_keeps
      apply State.wr_keeps
      with_reducible assumption

theorem State.chainLeave_keeps {s0 : State} (s : State) (h : Keeps s0 s) : Keeps s0 (State.chainLeave s).2 := by
  unfold State.chainLeave
  split
  · apply Keeps.mk2
    with_reducible assumption
  · split
    · apply Keeps.mk2
      with_reducible assumption
    · apply Keeps.mk2
      apply State.enterFree_keeps
      with_reducible assumption

theorem State.setRoute_keeps {s0 : State} (s : State) (d : Nat) (p : Nat) (hh : Nat) (h : Keeps s0 s) : Keeps s0 (State.setRoute s d p hh) := by
  unfold State.setRoute
  extract_lets +onlyGivenNames x1
  clear_value x1
  extract_lets +onlyGivenNames x2
  have h2 : Keeps s0 x2 := ?_
  · clear_value x2
    extract_lets +onlyGivenNames x3
    have h3 : Keeps s0 x3 := ?_
    · clear_value x3
      apply State.showQueens_keeps
      split
      · apply State.requeryDev_keeps
        with_reducible assumption
      · with_reducible assumption
    · subst x3
      apply State.wr_keeps
      apply State.wr_keeps
      with_reducible assumption
  · subst x2
    apply State.wr_keeps
    apply State.wr_keeps
    apply State.wr_keeps
    with_reducible assumption

theorem State.takeChain_keeps {s0 : State} (s : State) (p : Nat) (hh : Nat) (h : Keeps s0 s) : Keeps s0 (State.takeChain s p hh) := by
  unfold State.takeChain
  extract_lets +onlyGivenNames x1
  clear_value x1
  split
  · with_reducible assumption
  · split
    · split
      · with_reducible assumption
      · apply State.enterFree_keeps
        apply State.chnFlag_keeps
        with_reducible assumption
    · split
      · with_reducible assumption
      · extract_lets +onlyGivenNames x12
        clear_value x12
        extract_lets +onlyGivenNames x13
        clear_value x13
        split
        · extract_lets +onlyGivenNames x15
          clear_value x15
          extract_lets +onlyGivenNames x16
          have h16 : Keeps s0 x16 := ?_
          · clear_value x16
            extract_lets +onlyGivenNames x17
            have h17 : Keeps s0 x17 := ?_
            · clear_value x17
              split
              · apply State.sendAll_keeps
                with_reducible assumption
              · with_reducible assumption
            · subst x17
              apply State.setRoute_keeps
              with_reducible assumption
          · subst x16
            apply State.setChain_keeps
            with_reducible assumption
        · split
          · extract_lets +onlyGivenNames x27
            clear_value x27
            split
            · apply State.setRoute_keeps
              with_reducible assumption
            · with_reducible assumption
          · with_reducible assumption

theorem execChain_keeps {s0 : State} (t : Nat) (port : Nat) (s : State) (h : Keeps s0 s) : KeepsOut s0 (execChain t port s) := by
  unfold execChain
  extract_lets +onlyGivenNames x1
  have h1 : Keeps s0 x1 := ?_
  · clear_value x1
    split
    · apply KeepsOut.next
      with_reducible assumption
    · apply KeepsOut.next
      apply State.takeChain_keeps
      refine State.takePkt_keeps ?_ ‹_›
      with_reducible assumption
  · subst x1
    apply State.at_keeps
    with_reducible assumption

theorem execRouteExpiry_keeps {s0 : State} (t : Nat) (dev : Nat) (s : State) (h : Keeps s0 s) : KeepsOut s0 (execRouteExpiry t dev s) := by
  unfold execRouteExpiry
  extract_lets +onlyGivenNames x1
  have h1 : Keeps s0 x1 := ?_
  · clear_value x1
    split
    · split
      · apply KeepsOut.next
        apply State.lostRoute_keeps
        apply State.wr_keeps
        apply State.setChain_keeps
        with_reducible assumption
      · apply KeepsOut.next
        with_reducible assumption
    · apply KeepsOut.next
      with_reducible assumption
  · subst x1
    apply State.at_keeps
    with_reducible assumption

theorem State.pushTime_keeps {s0 : State} (s : State) (p : Nat) (e : LqEnt) (h : Keeps s0 s) : Keeps s0 (State.pushTime s p e) := by
  unfold State.pushTime
  split
  · with_reducible assumption
  · apply State.setLq_keeps
    with_reducible assumption

theorem State.sendTime_keeps {s0 : State} (s : State) (ho : Nat) (h : Keeps s0 s) : Keeps s0 (State.sendTime s ho) := by
  unfold State.sendTime
  extract_lets +onlyGivenNames x1
  clear_value x1
  extract_lets +onlyGivenNames x2
  clear_value x2
  extract_lets +onlyGivenNames x3
  have h3 : Keeps s0 x3 := ?_
  · clear_value x3
    extract_lets +onlyGivenNames x4
    clear_value x4
    refine Keeps.foldl ?_ fun x5 a5 h5 => ?_
    · with_reducible assumption
    · split
      · apply State.pushTime_keeps
        with_reducible assumption
      · with_reducible assumption
  · subst x3
    apply State.setChain_keeps
    with_reducible assumption

theorem execTimeSend_keeps {s0 : State} (t : Nat) (s : State) (h : Keeps s0 s) : KeepsOut s0 (execTimeSend t s) := by
  unfold execTimeSend
  extract_lets +onlyGivenNames x1
  have h1 : Keeps s0 x1 := ?_
  · clear_value x1
    extract_lets +onlyGivenNames x2
    clear_value x2
    split
    · apply KeepsOut.next
      apply State.sendTime_keeps
      with_reducible assumption
    · apply KeepsOut.next
      with_reducible assumption
  · subst x1
    apply State.at_keeps
    with_reducible assumption

theorem execHoldoverTimeSend_keeps {s0 : State} (t : Nat) (s : State) (h : Keeps s0 s) : KeepsOut s0 (execHoldoverTimeSend t s) := by
  unfold execHoldoverTimeSend
  extract_lets +onlyGivenNames x1
  have h1 : Keeps s0 x1 := ?_
  · clear_value x1
    split
    · apply KeepsOut.next
      apply State.setChain_keeps
      apply State.sendTime_keeps
      with_reducible assumption
    · apply KeepsOut.next
      with_reducible assumption
  · subst x1
    apply State.at_keeps
    with_reducible assumption

theorem State.forwardTime_keeps {s0 : State} (s : State) (p : Nat) (x : Pkt) (h : Keeps s0 s) : Keeps s0 (State.forwardTime s p x) := by
  unfold State.forwardTime
  extract_lets +onlyGivenNames x1
  clear_value x1
  extract_lets +onlyGivenNames x2
  clear_value x2
  extract_lets +onlyGivenNames x3
  clear_value x3
  split
  · with_reducible assumption
  · extract_lets +onlyGivenNames x6
    clear_value x6
    extract_lets +onlyGivenNames x7
    clear_value x7
    extract_lets +onlyGivenNames x8
    have h8 : Keeps s0 x8 := ?_
    · clear_value x8
      split
      · with_reducible assumption
      · extract_lets +onlyGivenNames x11
        clear_value x11
        extract_lets +onlyGivenNames x12
        clear_value x12
        refine Keeps.foldl ?_ fun x13 a13 h13 => ?_
        · with_reducible assumption
        · split
          · apply State.pushTime_keeps
            with_reducible assumption
          · with_reducible assumption
    · subst x8
      apply State.setChain_keeps
      with_reducible assumption

theorem State.putQueen_keeps {s0 : State} (s : State) (b : Bool) (q : QueenSt) (h : Keeps s0 s) : Keeps s0 (State.putQueen s b q) := by
  unfold State.putQueen
  extract_lets +onlyGivenNames x1
  clear_value x1
  extract_lets +onlyGivenNames x2
  have h2 : Keeps s0 x2 := ?_
  · clear_value x2
    extract_lets +onlyGivenNames x3
    have h3 : Keeps s0 x3 := ?_
    · clear_value x3
      split
      · apply State.wr_keeps
        with_reducible assumption
      · with_reducible assumption
    · subst x3
      apply State.wr_keeps
      with_reducible assumption
  · subst x2
    apply State.setChain_keeps
    with_reducible assumption

theorem State.judgeLock_keeps {s0 : State} (s : State) (q : QueenSt) (h : Keeps s0 s) : Keeps s0 (State.judgeLock s q) := by
  unfold State.judgeLock
  extract_lets +onlyGivenNames x1
  clear_value x1
  extract_lets +onlyGivenNames x2
  clear_value x2
  extract_lets +onlyGivenNames x3
  have h3 : Keeps s0 x3 := ?_
  · clear_value x3
    extract_lets +onlyGivenNames x4
    have h4 : Keeps s0 x4 := ?_
    · clear_value x4
      extract_lets +onlyGivenNames x5
      clear_value x5
      split
      · extract_lets +onlyGivenNames x7
        have h7 : Keeps s0 x7 := ?_
        · clear_value x7
          apply State.setCstate_keeps
          apply State.wr_keeps
          with_reducible assumption
        · subst x7
          apply State.dropQueens_keeps
          with_reducible assumption
      · with_reducible assumption
    · subst x4
      split
      · apply State.wr_keeps
        with_reducible assumption
      · split
        · with_reducible assumption
        · apply State.wr_keeps
          with_reducible assumption
  · subst x3
    apply State.setChain_keeps
    with_reducible assumption

theorem State.steerOn_keeps {s0 : State} (s : State) (b : Bool) (ws : List Nat) (h : Keeps s0 s) : Keeps s0 (State.steerOn s b ws) := by
  unfold State.steerOn
  extract_lets +onlyGivenNames x1
  clear_value x1
  split
  · split
    · with_reducible assumption
    · extract_lets +onlyGivenNames x5
      clear_value x5
      extract_lets +onlyGivenNames x6
      have h6 : Keeps s0 x6 := ?_
      · clear_value x6
        apply State.judgeLock_keeps
        apply State.steer_keeps
        with_reducible assumption
      · subst x6
        split
        · with_reducible assumption
        · apply State.wr_keeps
          apply State.wr_keeps
          with_reducible assumption
  · split
    · with_reducible assumption
    · extract_lets +onlyGivenNames x17
      clear_value x17
      extract_lets +onlyGivenNames x18
      have h18 : Keeps s0 x18 := ?_
      · clear_value x18
        apply State.judgeLock_keeps
        apply State.steer_keeps
        with_reducible assumption
      · subst x18
        split
        · with_reducible assumption
        · apply State.wr_keeps
          apply State.wr_keeps
          with_reducible assumption

theorem State.queenOf_keeps {s0 : State} (s : State) (hh : Nat) (h : Keeps s0 s) : Keeps s0 (State.queenOf s hh).2 := by
  unfold State.queenOf
  extract_lets +onlyGivenNames x1
  clear_value x1
  extract_lets +onlyGivenNames x2
  clear_value x2
  extract_lets +onlyGivenNames x3
  clear_value x3
  split
  · split
    · apply Keeps.mk2
      with_reducible assumption
    · split
      · apply Keeps.mk2
        with_reducible assumption
      · apply Keeps.mk2
        with_reducible assumption
  · split
    · apply Keeps.mk2
      apply State.chnFlag_keeps
      with_reducible assumption
    · split
      · split
        · apply Keeps.mk2
          with_reducible assumption
        · split
          · apply Keeps.mk2
            apply State.chnFlag_keeps
            with_reducible assumption
          · apply Keeps.mk2
            with_reducible assumption
      · extract_lets +onlyGivenNames x27
        clear_value x27
        extract_lets +onlyGivenNames x28
        clear_value x28
        extract_lets +onlyGivenNames x29
        have h29 : Keeps s0 x29 := ?_
        · clear_value x29
          apply Keeps.mk2
          apply State.showQueens_keeps
          with_reducible assumption
        · subst x29
          apply State.setChain_keeps
          with_reducible assumption

theorem State.takeTime_keeps {s0 : State} (s : State) (p : Nat) (x : Pkt) (h : Keeps s0 s) : Keeps s0 (State.takeTime s p x) := by
  unfold State.takeTime
  split
  · with_reducible assumption
  · extract_lets +onlyGivenNames x3
    have h3 : Keeps s0 x3 := ?_
    · clear_value x3
      extract_lets +onlyGivenNames x4
      clear_value x4
      extract_lets +onlyGivenNames x5
      clear_value x5
      extract_lets +onlyGivenNames x6
      have h6 : Keeps s0 x6 := ?_
      · clear_value x6
        split
        · with_reducible assumption
        · extract_lets +onlyGivenNames x9
          have h9 : Keeps s0 x9.2 := ?_
          · clear_value x9
            split
            · with_reducible assumption
            · extract_lets +onlyGivenNames x12
              have h12 : Keeps s0 x12 := ?_
              · clear_value x12
                extract_lets +onlyGivenNames x13
                clear_value x13
                extract_lets +onlyGivenNames x14
                clear_value x14
                extract_lets +onlyGivenNames x15
                have h15 : Keeps s0 x15 := ?_
                · clear_value x15
                  extract_lets +onlyGivenNames x16
                  have h16 : Keeps s0 x16 := ?_
                  · clear_value x16
                    split
                    · apply State.chnFlag_keeps
                      with_reducible assumption
                    · with_reducible assumption
                  · subst x16
                    apply State.steerOn_keeps
                    with_reducible assumption
                · subst x15
                  apply State.chainMove_keeps
                  apply State.putQueen_keeps
                  with_reducible assumption
              · subst x12
                with_reducible assumption
          · subst x9
            apply State.queenOf_keeps
            with_reducible assumption
      · subst x6
        split
        · apply State.setChain_keeps
          with_reducible assumption
        · with_reducible assumption
    · subst x3
      apply State.forwardTime_keeps
      with_reducible assumption

theorem execTime_keeps {s0 : State} (t : Nat) (port : Nat) (s : State) (h : Keeps s0 s) : KeepsOut s0 (execTime t port s) := by
  unfold execTime
  extract_lets +onlyGivenNames x1
  have h1 : Keeps s0 x1 := ?_
  · clear_value x1
    split
    · apply KeepsOut.next
      with_reducible assumption
    · apply KeepsOut.next
      apply State.takeTime_keeps
      refine State.takePkt_keeps ?_ ‹_›
      with_reducible assumption
  · subst x1
    apply State.at_keeps
    with_reducible assumption

theorem State.queenTimeout_keeps {s0 : State} (s : State) (b : Bool) (h : Keeps s0 s) : Keeps s0 (State.queenTimeout s b) := by
  unfold State.queenTimeout
  extract_lets +onlyGivenNames x1
  clear_value x1
  extract_lets +onlyGivenNames x2
  clear_value x2
  extract_lets +onlyGivenNames x3
  clear_value x3
  extract_lets +onlyGivenNames x4
  have h4 : Keeps s0 x4 := ?_
  · clear_value x4
    apply State.chainMove_keeps
    apply State.wr_keeps
    with_reducible assumption
  · subst x4
    apply State.setChain_keeps
    with_reducible assumption

theorem execQueenTimeout_keeps {s0 : State} (t : Nat) (which : Nat) (s : State) (h : Keeps s0 s) : KeepsOut s0 (execQueenTimeout t which s) := by
  unfold execQueenTimeout
  extract_lets +onlyGivenNames x1
  have h1 : Keeps s0 x1 := ?_
  · clear_value x1
    extract_lets +onlyGivenNames x2
    clear_value x2
    extract_lets +onlyGivenNames x3
    clear_value x3
    split
    · apply KeepsOut.next
      apply State.queenTimeout_keeps
      with_reducible assumption
    · apply KeepsOut.next
      with_reducible assumption
  · subst x1
    apply State.at_keeps
    with_reducible assumption

theorem execQueenRevert_keeps {s0 : State} (t : Nat) (s : State) (h : Keeps s0 s) : KeepsOut s0 (execQueenRevert t s) := by
  unfold execQueenRevert
  extract_lets +onlyGivenNames x1
  have h1 : Keeps s0 x1 := ?_
  · clear_value x1
    split
    · apply KeepsOut.next
      apply State.newRef_keeps
      with_reducible assumption
    · apply KeepsOut.next
      with_reducible assumption
  · subst x1
    apply State.at_keeps
    with_reducible assumption

theorem State.shiftTimes_keeps {s0 : State} (s : State) (k : Nat) (h : Keeps s0 s) : Keeps s0 (State.shiftTimes s k) := by
  unfold State.shiftTimes
  with_reducible apply Keeps.mk
  with_reducible assumption

theorem State.stepDial_keeps {s0 : State} (s : State) (k : Nat) (h : Keeps s0 s) : Keeps s0 (State.stepDial s k) := by
  have a1 := State.shiftTimes_keeps _ k (State.account_keeps _ (State.abortUnits_keeps _ h))
  unfold State.stepDial
  apply State.flush_keeps
  apply State.chnFlag_keeps
  apply State.wr_keeps
  apply State.wr_keeps
  exact a1.dialMod _


theorem State.enterMember_keeps {s0 : State} (s : State) (h : Keeps s0 s) : Keeps s0 (State.enterMember s) := by
  unfold State.enterMember
  extract_lets +onlyGivenNames x1
  clear_value x1
  extract_lets +onlyGivenNames x2
  have h2 : Keeps s0 x2 := ?_
  · clear_value x2
    apply State.showQueens_keeps
    apply State.setCstate_keeps
    apply State.newRef_keeps
    with_reducible assumption
  · subst x2
    apply State.wr_keeps
    apply State.setChain_keeps
    with_reducible assumption

theorem State.decideJoin_keeps {s0 : State} (s : State) (h : Keeps s0 s) : Keeps s0 (State.decideJoin s) := by
  unfold State.decideJoin
  split
  · with_reducible assumption
  · split
    · apply State.wr_keeps
      with_reducible assumption
    · split
      · apply State.enterFree_keeps
        apply State.chnFlag_keeps
        with_reducible assumption
      · split
        · apply State.enterMember_keeps
          with_reducible assumption
        · apply State.setChain_keeps
          apply State.wr_keeps
          with_reducible assumption

theorem State.joinStep_keeps {s0 : State} (s : State) (h : Keeps s0 s) : Keeps s0 (State.joinStep s) := by
  unfold State.joinStep
  split
  · split
    · with_reducible assumption
    · extract_lets +onlyGivenNames x4
      clear_value x4
      extract_lets +onlyGivenNames x5
      have h5 : Keeps s0 x5 := ?_
      · clear_value x5
        split
        · apply State.setCstate_keeps
          apply State.setChain_keeps
          with_reducible assumption
        · apply State.enterMember_keeps
          with_reducible assumption
      · subst x5
        apply State.stepDial_keeps
        with_reducible assumption
  · split
    · with_reducible assumption
    · apply State.decideJoin_keeps
      with_reducible assumption

theorem execJoinStep_keeps {s0 : State} (t : Nat) (s : State) (h : Keeps s0 s) : KeepsOut s0 (execJoinStep t s) := by
  unfold execJoinStep
  extract_lets +onlyGivenNames x1
  have h1 : Keeps s0 x1 := ?_
  · clear_value x1
    split
    · apply KeepsOut.next
      apply State.joinStep_keeps
      with_reducible assumption
    · apply KeepsOut.next
      with_reducible assumption
  · subst x1
    apply State.at_keeps
    with_reducible assumption

theorem State.formEnd_keeps {s0 : State} (s : State) (h : Keeps s0 s) : Keeps s0 (State.formEnd s) := by
  unfold State.formEnd
  split
  · split
    · apply State.setChain_keeps
      with_reducible assumption
    · apply State.wr_keeps
      with_reducible assumption
  · split
    · extract_lets +onlyGivenNames x8
      clear_value x8
      extract_lets +onlyGivenNames x9
      clear_value x9
      apply State.setChain_keeps
      with_reducible assumption
    · with_reducible assumption

theorem execFormListenEnd_keeps {s0 : State} (t : Nat) (s : State) (h : Keeps s0 s) : KeepsOut s0 (execFormListenEnd t s) := by
  unfold execFormListenEnd
  extract_lets +onlyGivenNames x1
  have h1 : Keeps s0 x1 := ?_
  · clear_value x1
    split
    · apply KeepsOut.next
      apply State.formEnd_keeps
      with_reducible assumption
    · apply KeepsOut.next
      with_reducible assumption
  · subst x1
    apply State.at_keeps
    with_reducible assumption

theorem State.ppsIn_keeps {s0 : State} (s : State) (h : Keeps s0 s) : Keeps s0 (State.ppsIn s) := by
  unfold State.ppsIn
  extract_lets +onlyGivenNames x1
  clear_value x1
  extract_lets +onlyGivenNames x2
  have h2 : Keeps s0 x2 := ?_
  · clear_value x2
    split
    · with_reducible assumption
    · extract_lets +onlyGivenNames x5
      clear_value x5
      split
      · apply State.chnFlag_keeps
        with_reducible assumption
      · apply State.steer_keeps
        with_reducible assumption
  · subst x2
    apply State.setChain_keeps
    with_reducible assumption

theorem execPpsInEdge_keeps {s0 : State} (t : Nat) (s : State) (h : Keeps s0 s) : KeepsOut s0 (execPpsInEdge t s) := by
  unfold execPpsInEdge
  extract_lets +onlyGivenNames x1
  have h1 : Keeps s0 x1 := ?_
  · clear_value x1
    split
    · apply KeepsOut.next
      apply State.ppsIn_keeps
      with_reducible assumption
    · apply KeepsOut.next
      with_reducible assumption
  · subst x1
    apply State.at_keeps
    with_reducible assumption

theorem execSecondBoundary_keeps {s0 : State} (t : Nat) (s : State) (h : Keeps s0 s) : KeepsOut s0 (execSecondBoundary t s) := by
  unfold execSecondBoundary
  extract_lets +onlyGivenNames x1
  have h1 : Keeps s0 x1 := ?_
  · clear_value x1
    split
    · extract_lets +onlyGivenNames x3
      clear_value x3
      extract_lets +onlyGivenNames x4
      have h4 : Keeps s0 x4 := ?_
      · clear_value x4
        apply KeepsOut.next
        apply State.fireD_keeps
        with_reducible assumption
      · subst x4
        split
        · apply State.setSvc_keeps
          with_reducible assumption
        · with_reducible assumption
    · apply KeepsOut.next
      with_reducible assumption
  · subst x1
    apply State.at_keeps
    with_reducible assumption

theorem execPpsOutFall_keeps {s0 : State} (t : Nat) (s : State) (h : Keeps s0 s) : KeepsOut s0 (execPpsOutFall t s) := by
  unfold execPpsOutFall
  extract_lets +onlyGivenNames x1
  have h1 : Keeps s0 x1 := ?_
  · clear_value x1
    split
    · apply KeepsOut.next
      apply State.setSvc_keeps
      with_reducible assumption
    · apply KeepsOut.next
      with_reducible assumption
  · subst x1
    apply State.at_keeps
    with_reducible assumption

theorem execRefClkLoss_keeps {s0 : State} (t : Nat) (absentNs : Nat) (ppm : Nat) (s : State) (h : Keeps s0 s) : KeepsOut s0 (execRefClkLoss t absentNs ppm s) := by
  unfold execRefClkLoss
  extract_lets +onlyGivenNames x1
  have h1 : Keeps s0 x1 := ?_
  · clear_value x1
    split
    · extract_lets +onlyGivenNames x3
      have h3 : Keeps s0 x3 := ?_
      · clear_value x3
        extract_lets +onlyGivenNames x4
        have h4 : Keeps s0 x4 := ?_
        · clear_value x4
          apply KeepsOut.next
          apply State.greenLoss_keeps
          with_reducible assumption
        · subst x4
          split
          · apply State.abortUnits_keeps
            apply State.wr_keeps
            with_reducible assumption
          · with_reducible assumption
      · subst x3
        apply State.setF_keeps
        apply State.wr_keeps
        with_reducible assumption
    · apply KeepsOut.next
      with_reducible assumption
  · subst x1
    apply State.at_keeps
    with_reducible assumption

theorem execRefClkReturn_keeps {s0 : State} (t : Nat) (s : State) (h : Keeps s0 s) : KeepsOut s0 (execRefClkReturn t s) := by
  unfold execRefClkReturn
  extract_lets +onlyGivenNames x1
  have h1 : Keeps s0 x1 := ?_
  · clear_value x1
    split
    · extract_lets +onlyGivenNames x3
      have h3 : Keeps s0 x3 := ?_
      · clear_value x3
        split
        · apply KeepsOut.next
          with_reducible assumption
        · apply KeepsOut.next
          apply State.setChain_keeps
          apply State.wr_keeps
          with_reducible assumption
      · subst x3
        apply State.wr_keeps
        with_reducible assumption
    · apply KeepsOut.next
      with_reducible assumption
  · subst x1
    apply State.at_keeps
    with_reducible assumption

theorem State.deriveChain_keeps {s0 : State} (s : State) (h : Keeps s0 s) : Keeps s0 (State.deriveChain s) := by
  unfold State.deriveChain
  split
  · with_reducible assumption
  · apply State.both_keeps
    apply State.both_keeps
    apply State.both_keeps
    apply State.both_keeps
    apply State.both_keeps
    with_reducible assumption

end Sys2Proof.Machine
end

