-- ==== Sys2Proof/Laws/KeepsHostEvt.lean ====
section
/-! SUPPORT. What the definitions of Machine/HostEvt.lean keep: one lemma each. -/

namespace Sys2Proof.Machine

set_option maxRecDepth 10000

theorem State.setI3c_keeps {s0 : State} (s : State) (x : I3cSt) (h : Keeps s0 s) : Keeps s0 (State.setI3c s x) := by
  unfold State.setI3c
  with_reducible apply Keeps.mk
  with_reducible assumption

theorem State.showAlert_keeps {s0 : State} (s : State) (h : Keeps s0 s) : Keeps s0 (State.showAlert s) := by
  unfold State.showAlert
  apply State.setI3c_keeps
  with_reducible assumption

theorem State.raiseIbi_keeps {s0 : State} (s : State) (h : Keeps s0 s) : Keeps s0 (State.raiseIbi s) := by
  unfold State.raiseIbi
  split
  · with_reducible assumption
  · split
    · apply State.setI3c_keeps
      with_reducible assumption
    · apply State.setI3c_keeps
      with_reducible assumption

theorem State.setSummary_keeps {s0 : State} (s : State) (b : Nat) (h : Keeps s0 s) : Keeps s0 (State.setSummary s b) := by
  unfold State.setSummary
  extract_lets +onlyGivenNames x1
  clear_value x1
  extract_lets +onlyGivenNames x2
  have h2 : Keeps s0 x2 := ?_
  · clear_value x2
    apply State.showAlert_keeps
    split
    · apply State.raiseIbi_keeps
      with_reducible assumption
    · with_reducible assumption
  · subst x2
    apply State.setF_keeps
    with_reducible assumption

theorem State.endIbi_keeps {s0 : State} (s : State) (h : Keeps s0 s) : Keeps s0 (State.endIbi s) := by
  unfold State.endIbi
  apply State.setI3c_keeps
  with_reducible assumption

theorem execIbiAttempt_keeps {s0 : State} (t : Nat) (s : State) (h : Keeps s0 s) : KeepsOut s0 (execIbiAttempt t s) := by
  unfold execIbiAttempt
  extract_lets +onlyGivenNames x1
  have h1 : Keeps s0 x1 := ?_
  · clear_value x1
    extract_lets +onlyGivenNames x2
    clear_value x2
    split
    · extract_lets +onlyGivenNames x4
      clear_value x4
      split
      · apply KeepsOut.next
        apply State.endIbi_keeps
        with_reducible assumption
      · apply KeepsOut.next
        apply State.setI3c_keeps
        with_reducible assumption
    · apply KeepsOut.next
      with_reducible assumption
  · subst x1
    apply State.at_keeps
    with_reducible assumption

theorem execIbiAcknowledged_keeps {s0 : State} (t : Nat) (s : State) (h : Keeps s0 s) : KeepsOut s0 (execIbiAcknowledged t s) := by
  unfold execIbiAcknowledged
  extract_lets +onlyGivenNames x1
  have h1 : Keeps s0 x1 := ?_
  · clear_value x1
    split
    · extract_lets +onlyGivenNames x3
      have h3 : Keeps s0 x3 := ?_
      · clear_value x3
        apply KeepsOut.next
        apply State.setI3c_keeps
        with_reducible assumption
      · subst x3
        apply State.endIbi_keeps
        with_reducible assumption
    · apply KeepsOut.next
      with_reducible assumption
  · subst x1
    apply State.at_keeps
    with_reducible assumption

theorem execIbiNacked_keeps {s0 : State} (t : Nat) (s : State) (h : Keeps s0 s) : KeepsOut s0 (execIbiNacked t s) := by
  unfold execIbiNacked
  extract_lets +onlyGivenNames x1
  have h1 : Keeps s0 x1 := ?_
  · clear_value x1
    split
    · apply KeepsOut.next
      apply State.setI3c_keeps
      with_reducible assumption
    · apply KeepsOut.next
      with_reducible assumption
  · subst x1
    apply State.at_keeps
    with_reducible assumption

theorem execIbiRetry_keeps {s0 : State} (t : Nat) (s : State) (h : Keeps s0 s) : KeepsOut s0 (execIbiRetry t s) := by
  unfold execIbiRetry
  extract_lets +onlyGivenNames x1
  have h1 : Keeps s0 x1 := ?_
  · clear_value x1
    split
    · split
      · apply KeepsOut.next
        apply State.setI3c_keeps
        with_reducible assumption
      · apply KeepsOut.next
        with_reducible assumption
    · apply KeepsOut.next
      with_reducible assumption
  · subst x1
    apply State.at_keeps
    with_reducible assumption

end Sys2Proof.Machine
end

