-- ==== Sys2Proof/Laws/KeepsWaggle.lean ====
section
/-! SUPPORT. What the definitions of Machine/Waggle.lean keep: one lemma each. -/

namespace Sys2Proof.Machine

set_option maxRecDepth 10000

theorem State.setWag_keeps {s0 : State} (s : State) (x : WagSt) (h : Keeps s0 s) : Keeps s0 (State.setWag s x) := by
  unfold State.setWag
  with_reducible apply Keeps.mk
  with_reducible assumption

theorem State.unlessAsleep_keeps {s0 : State} (s : State) (f : State → Bool × State) (h : Keeps s0 s)
    (k : ∀ s, Keeps s0 s → Keeps s0 (f s).2) : Keeps s0 (State.unlessAsleep s f).2 := by
  unfold State.unlessAsleep
  split
  · exact h
  · exact k s h


theorem State.consume_keeps {s0 : State} (s : State) (c : Nat) (h : Keeps s0 s) : Keeps s0 (State.consume s c).2 := by
  unfold State.consume
  split
  · apply State.unlessAsleep_keeps
    · with_reducible assumption
    · intro y4_0 y4_1
      apply Keeps.mk2
      apply State.capExt_keeps
      with_reducible assumption
  · split
    · apply Keeps.mk2
      apply State.askLoad_keeps
      with_reducible assumption
    · split
      · apply State.unlessAsleep_keeps
        · with_reducible assumption
        · intro y15_0 y15_1
          apply Keeps.mk2
          apply State.raiseInt_keeps
          with_reducible assumption
      · split
        · apply State.unlessAsleep_keeps
          · with_reducible assumption
          · intro y22_0 y22_1
            apply Keeps.mk2
            refine Keeps.foldl ?_ fun x24 a24 h24 => ?_
            · with_reducible assumption
            · apply State.addTrig_keeps
              with_reducible assumption
        · split
          · extract_lets +onlyGivenNames x29
            clear_value x29
            apply State.unlessAsleep_keeps
            · with_reducible assumption
            · intro y32_0 y32_1
              apply Keeps.mk2
              refine Keeps.foldl ?_ fun x34 a34 h34 => ?_
              · with_reducible assumption
              · apply State.forceSet_keeps
                with_reducible assumption
          · split
            · extract_lets +onlyGivenNames x39
              have h39 : Keeps s0 x39.2 := ?_
              · clear_value x39
                apply Keeps.mk2
                with_reducible assumption
              · subst x39
                apply State.monTrigger_keeps
                with_reducible assumption
            · split
              · apply Keeps.mk2
                apply State.setSummary_keeps
                with_reducible assumption
              · split
                · apply Keeps.mk2
                  apply State.wake_keeps
                  with_reducible assumption
                · split
                  · extract_lets +onlyGivenNames x53
                    clear_value x53
                    split
                    · apply Keeps.mk2
                      apply State.measGo_keeps
                      with_reducible assumption
                    · apply Keeps.mk2
                      with_reducible assumption
                  · apply Keeps.mk2
                    with_reducible assumption

theorem State.wagDeliver_keeps {s0 : State} (s : State) (c : Nat) (slot : Nat) (h : Keeps s0 s) : Keeps s0 (State.wagDeliver s c slot) := by
  unfold State.wagDeliver
  extract_lets +onlyGivenNames x1
  clear_value x1
  extract_lets +onlyGivenNames x2
  have h2 : Keeps s0 x2 := ?_
  · clear_value x2
    extract_lets +onlyGivenNames x3
    have h3 : Keeps s0 x3 := ?_
    · clear_value x3
      extract_lets +onlyGivenNames x4
      have h4 : Keeps s0 x4.2 := ?_
      · clear_value x4
        split
        · apply State.setF_keeps
          with_reducible assumption
        · with_reducible assumption
      · subst x4
        apply State.consume_keeps
        with_reducible assumption
    · subst x3
      apply State.wr_keeps
      apply State.inc_keeps
      with_reducible assumption
  · subst x2
    apply State.setWag_keeps
    with_reducible assumption

theorem State.wagArrive_keeps {s0 : State} (s : State) (c : Nat) (slot : Nat) (h : Keeps s0 s) : Keeps s0 (State.wagArrive s c slot) := by
  unfold State.wagArrive
  split
  · split
    · apply State.wr_keeps
      apply State.setF_keeps
      with_reducible assumption
    · split
      · apply State.setF_keeps
        apply State.incSat_keeps
        with_reducible assumption
      · apply State.wagDeliver_keeps
        with_reducible assumption
  · apply State.wagDeliver_keeps
    with_reducible assumption

theorem execWaggleDelivery_keeps {s0 : State} (t : Nat) (ch : Nat) (s : State) (h : Keeps s0 s) : KeepsOut s0 (execWaggleDelivery t ch s) := by
  unfold execWaggleDelivery
  extract_lets +onlyGivenNames x1
  have h1 : Keeps s0 x1 := ?_
  · clear_value x1
    split
    · apply KeepsOut.next
      with_reducible assumption
    · split
      · apply KeepsOut.next
        apply State.wagArrive_keeps
        apply State.setWag_keeps
        with_reducible assumption
      · apply KeepsOut.next
        with_reducible assumption
  · subst x1
    apply State.at_keeps
    with_reducible assumption

theorem State.wagFire_keeps {s0 : State} (s : State) (c : Nat) (h : Keeps s0 s) : Keeps s0 (State.wagFire s c) := by
  unfold State.wagFire
  split
  · apply State.setWag_keeps
    with_reducible assumption
  · apply State.setWag_keeps
    with_reducible assumption

theorem execWaggleFire_keeps {s0 : State} (t : Nat) (ch : Nat) (s : State) (h : Keeps s0 s) : KeepsOut s0 (execWaggleFire t ch s) := by
  unfold execWaggleFire
  extract_lets +onlyGivenNames x1
  have h1 : Keeps s0 x1 := ?_
  · clear_value x1
    split
    · apply KeepsOut.next
      apply State.wagFire_keeps
      with_reducible assumption
    · apply KeepsOut.next
      with_reducible assumption
  · subst x1
    apply State.at_keeps
    with_reducible assumption

theorem State.someOf_keeps {s0 : State} (s : State) (a_____internal__hyg_0 : List Flight) (h : Keeps s0 s) : Keeps s0 (State.someOf s a_____internal__hyg_0).2 := by
  unfold State.someOf
  split
  · apply Keeps.mk2
    with_reducible assumption
  · extract_lets +onlyGivenNames x4
    have h4 : Keeps s0 x4.2 := ?_
    · clear_value x4
      extract_lets +onlyGivenNames x5
      have h5 : Keeps s0 x5.2 := ?_
      · clear_value x5
        apply Keeps.mk2
        with_reducible assumption
      · subst x5
        apply State.draw_keeps
        with_reducible assumption
    · subst x4
      apply State.someOf_keeps
      with_reducible assumption

theorem State.newEnable_keeps {s0 : State} (s : State) (c : Nat) (old : Nat) (new : Nat) (b : Nat) (h : Keeps s0 s) : Keeps s0 (State.newEnable s c old new b) := by
  unfold State.newEnable
  extract_lets +onlyGivenNames x1
  clear_value x1
  extract_lets +onlyGivenNames x2
  clear_value x2
  extract_lets +onlyGivenNames x3
  clear_value x3
  extract_lets +onlyGivenNames x4
  have h4 : Keeps s0 x4.2 := ?_
  · clear_value x4
    extract_lets +onlyGivenNames x5
    have h5 : Keeps s0 x5.2 := ?_
    · clear_value x5
      apply State.setWag_keeps
      with_reducible assumption
    · subst x5
      apply State.someOf_keeps
      with_reducible assumption
  · subst x4
    apply State.someOf_keeps
    with_reducible assumption

theorem execRefractoryEnd_keeps {s0 : State} (t : Nat) (ch : Nat) (s : State) (h : Keeps s0 s) : KeepsOut s0 (execRefractoryEnd t ch s) := by
  unfold execRefractoryEnd
  extract_lets +onlyGivenNames x1
  have h1 : Keeps s0 x1 := ?_
  · clear_value x1
    split
    · split
      · apply KeepsOut.next
        apply State.setWag_keeps
        with_reducible assumption
      · apply KeepsOut.next
        with_reducible assumption
    · apply KeepsOut.next
      with_reducible assumption
  · subst x1
    apply State.at_keeps
    with_reducible assumption

theorem State.deriveWag_keeps {s0 : State} (s : State) (h : Keeps s0 s) : Keeps s0 (State.deriveWag s) := by
  unfold State.deriveWag
  split
  · with_reducible assumption
  · refine Keeps.foldl ?_ fun x3 a3 h3 => ?_
    · with_reducible assumption
    · apply State.both_keeps
      with_reducible assumption

end Sys2Proof.Machine
end

