-- ==== Sys2Proof/Laws/KeepsApply.lean ====
section
/-! SUPPORT. What the definitions of Machine/Apply.lean keep: one lemma each. -/

namespace Sys2Proof.Machine

set_option maxRecDepth 10000

theorem State.clamped_keeps {s0 : State} (s : State) (w : WordRef) (f : FieldDef) (v : Nat) (h : Keeps s0 s) : Keeps s0 (State.clamped s w f v).2 := by
  unfold State.clamped
  split
  · apply Keeps.mk2
    split
    · with_reducible assumption
    · apply State.setF_keeps
      with_reducible assumption
  · split
    · apply Keeps.mk2
      with_reducible assumption
    · apply Keeps.mk2
      split
      · with_reducible assumption
      · split
        · apply State.decFlag_keeps
          with_reducible assumption
        · with_reducible assumption

theorem State.deriveTime_keeps {s0 : State} (s : State) (h : Keeps s0 s) : Keeps s0 (State.deriveTime s) := by
  unfold State.deriveTime
  split
  · with_reducible assumption
  · apply State.wr_keeps
    with_reducible assumption

theorem State.askFrac_keeps {s0 : State} (s : State) (h : Keeps s0 s) : Keeps s0 (State.askFrac s) := by
  unfold State.askFrac
  refine Keeps.foldl ?_ fun x1 a1 h1 => ?_
  · with_reducible assumption
  · apply State.askCal_keeps
    with_reducible assumption

theorem State.deriveDec_keeps {s0 : State} (s : State) (h : Keeps s0 s) : Keeps s0 (State.deriveDec s) := by
  unfold State.deriveDec
  split
  · with_reducible assumption
  · apply State.resubscribe_keeps
    refine Keeps.foldl ?_ fun x4 a4 h4 => ?_
    · with_reducible assumption
    · apply State.both_keeps
      apply State.both_keeps
      with_reducible assumption

theorem State.deriveAt_keeps {s0 : State} (s : State) (w : WordRef) (h : Keeps s0 s) : Keeps s0 (State.deriveAt s w) := by
  unfold State.deriveAt
  extract_lets +onlyGivenNames x1
  clear_value x1
  split
  · apply State.deriveDec_keeps
    with_reducible assumption
  · split
    · apply State.deriveCells_keeps
      apply State.settle_keeps
      with_reducible assumption
    · split
      · apply State.deriveReadout_keeps
        apply State.keepLanes_keeps
        with_reducible assumption
      · split
        · apply State.deriveBias_keeps
          with_reducible assumption
        · split
          · apply State.deriveMark_keeps
            with_reducible assumption
          · with_reducible assumption
  · apply State.deriveFront_keeps
    with_reducible assumption
  · apply State.deriveElv_keeps
    with_reducible assumption
  · split
    · apply State.deriveChain_keeps
      with_reducible assumption
    · apply State.askFrac_keeps
      apply State.deriveTime_keeps
      with_reducible assumption
  · apply State.deriveTxn_keeps
    with_reducible assumption
  · apply State.deriveMem_keeps
    with_reducible assumption
  · apply State.deriveMon_keeps
    with_reducible assumption
  · apply State.deriveCal_keeps
    with_reducible assumption
  · apply State.deriveStamps_keeps
    with_reducible assumption
  · apply State.deriveCap_keeps
    with_reducible assumption
  · apply State.deriveWag_keeps
    with_reducible assumption
  · with_reducible assumption
  · with_reducible assumption
  · with_reducible assumption
  · with_reducible assumption
  · with_reducible assumption

theorem State.afterRw_keeps {s0 : State} (s : State) (w : WordRef) (f : FieldDef) (old : Nat) (h : Keeps s0 s) : Keeps s0 (State.afterRw s w f old) := by
  unfold State.afterRw
  extract_lets +onlyGivenNames x1
  clear_value x1
  split
  · split
    · apply State.deriveAt_keeps
      with_reducible assumption
    · with_reducible assumption
  · split
    · split
      · apply State.amberRf_keeps
        with_reducible assumption
      · with_reducible assumption
    · split
      · apply State.showAlert_keeps
        with_reducible assumption
      · with_reducible assumption
    · split
      · apply State.deriveTime_keeps
        with_reducible assumption
      · split
        · apply State.setSvc_keeps
          with_reducible assumption
        · split
          · apply State.setLife_keeps
            with_reducible assumption
          · with_reducible assumption
    · split
      · apply State.interruptWait_keeps
        with_reducible assumption
      · split
        · apply State.wr_keeps
          with_reducible assumption
        · with_reducible assumption
    · split
      · apply State.deriveMem_keeps
        with_reducible assumption
      · with_reducible assumption
    · split
      · apply State.capAdvance_keeps
        with_reducible assumption
      · with_reducible assumption
    · with_reducible assumption
    · with_reducible assumption
    · with_reducible assumption
    · with_reducible assumption
    · with_reducible assumption
    · with_reducible assumption
    · with_reducible assumption
    · with_reducible assumption
    · with_reducible assumption
    · with_reducible assumption
    · with_reducible assumption

theorem State.putRw_keeps {s0 : State} (s : State) (w : WordRef) (f : FieldDef) (v : Nat) (h : Keeps s0 s) : Keeps s0 (State.putRw s w f v) := by
  unfold State.putRw
  split
  · extract_lets +onlyGivenNames x2
    clear_value x2
    extract_lets +onlyGivenNames x3
    have h3 : Keeps s0 x3.2 := ?_
    · clear_value x3
      apply State.afterRw_keeps
      apply State.wr_keeps
      with_reducible assumption
    · subst x3
      apply State.clamped_keeps
      with_reducible assumption
  · with_reducible assumption

theorem State.putShadow_keeps {s0 : State} (s : State) (w : WordRef) (f : FieldDef) (v : Nat) (h : Keeps s0 s) : Keeps s0 (State.putShadow s w f v) := by
  unfold State.putShadow
  split
  · extract_lets +onlyGivenNames x2
    have h2 : Keeps s0 x2.2 := ?_
    · clear_value x2
      extract_lets +onlyGivenNames x3
      have h3 : Keeps s0 x3 := ?_
      · clear_value x3
        split
        · split
          · apply State.mark_keeps
            with_reducible assumption
          · with_reducible assumption
        · with_reducible assumption
      · subst x3
        apply State.wr_keeps
        with_reducible assumption
    · subst x2
      apply State.clamped_keeps
      with_reducible assumption
  · with_reducible assumption

theorem State.preActive_keeps {s0 : State} (s : State) (b : Nat) (c : NewCfg) (h : Keeps s0 s) : Keeps s0 (State.preActive s b c) := by
  unfold State.preActive
  split
  · with_reducible assumption
  · split
    · extract_lets +onlyGivenNames x4
      clear_value x4
      extract_lets +onlyGivenNames x5
      have h5 : Keeps s0 x5 := ?_
      · clear_value x5
        extract_lets +onlyGivenNames x6
        have h6 : Keeps s0 x6 := ?_
        · clear_value x6
          extract_lets +onlyGivenNames x7
          have h7 : Keeps s0 x7 := ?_
          · clear_value x7
            split
            · apply State.anchorAcc_keeps
              with_reducible assumption
            · with_reducible assumption
          · subst x7
            split
            · apply State.markRunTo_keeps
              with_reducible assumption
            · with_reducible assumption
        · subst x6
          split
          · apply State.keepLanes_keeps
            with_reducible assumption
          · with_reducible assumption
      · subst x5
        split
        · apply State.settleTo_keeps
          with_reducible assumption
        · with_reducible assumption
    · split
      · apply State.capSettle_keeps
        with_reducible assumption
      · with_reducible assumption
    · with_reducible assumption

theorem State.followRoutes_keeps {s0 : State} (s : State) (n : Nat) (b : Nat) (h : Keeps s0 s) : Keeps s0 (State.followRoutes s n b) := by
  unfold State.followRoutes
  apply State.setComb_keeps
  with_reducible assumption

theorem State.postActive_keeps {s0 : State} (s : State) (b : Nat) (c : NewCfg) (h : Keeps s0 s) : Keeps s0 (State.postActive s b c) := by
  unfold State.postActive
  extract_lets +onlyGivenNames x1
  clear_value x1
  extract_lets +onlyGivenNames x2
  clear_value x2
  extract_lets +onlyGivenNames x3
  clear_value x3
  split
  · split
    · extract_lets +onlyGivenNames x6
      have h6 : Keeps s0 x6 := ?_
      · clear_value x6
        split
        · apply State.deriveCells_keeps
          apply State.followRoutes_keeps
          apply State.newRoute_keeps
          with_reducible assumption
        · with_reducible assumption
      · subst x6
        split
        · apply State.setF_keeps
          with_reducible assumption
        · with_reducible assumption
    · split
      · with_reducible assumption
      · split
        · apply State.newBarriers_keeps
          with_reducible assumption
        · split
          · apply State.interruptWait_keeps
            with_reducible assumption
          · split
            · split
              · with_reducible assumption
              · apply State.deriveSet_keeps
                with_reducible assumption
            · split
              · split
                · with_reducible assumption
                · apply State.deriveProf_keeps
                  with_reducible assumption
              · with_reducible assumption
  · split
    · with_reducible assumption
    · split
      · apply State.dacMute_keeps
        with_reducible assumption
      · split
        · apply State.bandChange_keeps
          with_reducible assumption
        · split
          · apply State.monRange_keeps
            apply State.changeRange_keeps
            with_reducible assumption
          · with_reducible assumption
  · split
    · apply State.deriveTxn_keeps
      with_reducible assumption
    · with_reducible assumption
  · split
    · apply State.showLimit_keeps
      with_reducible assumption
    · with_reducible assumption
  · split
    · apply State.monRun_keeps
      with_reducible assumption
    · split
      · apply State.newZone_keeps
        with_reducible assumption
      · with_reducible assumption
  · split
    · with_reducible assumption
    · split
      · apply State.stampEnabled_keeps
        with_reducible assumption
      · split
        · apply State.stampRetune_keeps
          with_reducible assumption
        · with_reducible assumption
  · split
    · apply State.newEnable_keeps
      with_reducible assumption
    · with_reducible assumption
  · with_reducible assumption
  · with_reducible assumption
  · with_reducible assumption
  · with_reducible assumption
  · with_reducible assumption
  · with_reducible assumption
  · with_reducible assumption
  · with_reducible assumption
  · with_reducible assumption
  · with_reducible assumption

theorem State.activate_keeps {s0 : State} (s : State) (b : Nat) (vs : List (Nat × Nat)) (h : Keeps s0 s) : Keeps s0 (State.activate s b vs) := by
  unfold State.activate
  extract_lets +onlyGivenNames x1
  clear_value x1
  extract_lets +onlyGivenNames x2
  clear_value x2
  extract_lets +onlyGivenNames x3
  clear_value x3
  extract_lets +onlyGivenNames x4
  have h4 : Keeps s0 x4 := ?_
  · clear_value x4
    extract_lets +onlyGivenNames x5
    have h5 : Keeps s0 x5 := ?_
    · clear_value x5
      extract_lets +onlyGivenNames x6
      have h6 : Keeps s0 x6 := ?_
      · clear_value x6
        extract_lets +onlyGivenNames x7
        have h7 : Keeps s0 x7 := ?_
        · clear_value x7
          extract_lets +onlyGivenNames x8
          clear_value x8
          extract_lets +onlyGivenNames x9
          clear_value x9
          extract_lets +onlyGivenNames x10
          have h10 : Keeps s0 x10 := ?_
          · clear_value x10
            extract_lets +onlyGivenNames x11
            have h11 : Keeps s0 x11 := ?_
            · clear_value x11
              extract_lets +onlyGivenNames x12
              have h12 : Keeps s0 x12 := ?_
              · clear_value x12
                extract_lets +onlyGivenNames x13
                have h13 : Keeps s0 x13 := ?_
                · clear_value x13
                  extract_lets +onlyGivenNames x14
                  clear_value x14
                  extract_lets +onlyGivenNames x15
                  have h15 : Keeps s0 x15 := ?_
                  · clear_value x15
                    split
                    · apply State.deriveCap_keeps
                      with_reducible assumption
                    · with_reducible assumption
                  · subst x15
                    refine Keeps.foldl ?_ fun x20 a20 h20 => ?_
                    · with_reducible assumption
                    · apply State.portChange_keeps
                      with_reducible assumption
                · subst x13
                  split
                  · apply State.resubscribe_keeps
                    with_reducible assumption
                  · with_reducible assumption
              · subst x12
                split
                · with_reducible assumption
                · apply State.checkRings_keeps
                  with_reducible assumption
            · subst x11
              refine Keeps.foldl ?_ fun x32 a32 h32 => ?_
              · with_reducible assumption
              · apply State.newRing_keeps
                with_reducible assumption
          · subst x10
            refine Keeps.foldl ?_ fun x36 a36 h36 => ?_
            · with_reducible assumption
            · apply State.latchRing_keeps
              with_reducible assumption
        · subst x7
          refine Keeps.foldl ?_ fun x40 a40 h40 => ?_
          · with_reducible assumption
          · apply State.postActive_keeps
            with_reducible assumption
      · subst x6
        refine Keeps.foldl ?_ fun x44 a44 h44 => ?_
        · with_reducible assumption
        · split
          · apply State.newHold_keeps
            with_reducible assumption
          · with_reducible assumption
    · subst x5
      refine Keeps.foldl ?_ fun x50 a50 h50 => ?_
      · with_reducible assumption
      · split
        · with_reducible assumption
        · apply State.awr_keeps
          with_reducible assumption
  · subst x4
    refine Keeps.foldl ?_ fun x56 a56 h56 => ?_
    · with_reducible assumption
    · apply State.preActive_keeps
      with_reducible assumption

theorem State.take_keeps {s0 : State} (s : State) (b : Nat) (no : Nat) (target : Nat) (h : Keeps s0 s) : Keeps s0 (State.take s b no target) := by
  unfold State.take
  with_reducible apply Keeps.mk
  with_reducible assumption

theorem State.capture_keeps {s0 : State} (s : State) (x : Strobe) (h : Keeps s0 s) : Keeps s0 (State.capture s x).2 := by
  unfold State.capture
  extract_lets +onlyGivenNames x1
  clear_value x1
  extract_lets +onlyGivenNames x2
  clear_value x2
  apply Keeps.mk2
  with_reducible apply Keeps.mk
  with_reducible assumption

theorem State.captureDue_keeps {s0 : State} (s : State) (p : Strobe → Bool) (h : Keeps s0 s) : Keeps s0 (State.captureDue s p) := by
  unfold State.captureDue
  extract_lets +onlyGivenNames x1
  have h1 : Keeps s0 x1.2 := ?_
  · clear_value x1
    extract_lets +onlyGivenNames x2
    have h2 : Keeps s0 x2 := ?_
    · clear_value x2
      with_reducible apply Keeps.mk
      with_reducible assumption
    · subst x2
      with_reducible assumption
  · subst x1
    refine Keeps.pfoldl ?_ fun x6 a6 h6 => ?_
    · apply Keeps.mk2
      with_reducible assumption
    · split
      · extract_lets +onlyGivenNames x10
        have h10 : Keeps s0 x10.2 := ?_
        · clear_value x10
          apply Keeps.mk2
          with_reducible assumption
        · subst x10
          apply State.capture_keeps
          with_reducible assumption
      · apply Keeps.mk2
        with_reducible assumption

theorem execShadowCapture_keeps {s0 : State} (t : Nat) (s : State) (h : Keeps s0 s) : KeepsOut s0 (execShadowCapture t s) := by
  unfold execShadowCapture
  extract_lets +onlyGivenNames x1
  have h1 : Keeps s0 x1 := ?_
  · clear_value x1
    split
    · apply KeepsOut.next
      apply State.captureDue_keeps
      with_reducible assumption
    · apply KeepsOut.next
      with_reducible assumption
  · subst x1
    apply State.at_keeps
    with_reducible assumption

theorem State.strobe_keeps {s0 : State} (s : State) (mask : Nat) (at40 : Bool) (beat : Nat) (h : Keeps s0 s) : Keeps s0 (State.strobe s mask at40 beat) := by
  unfold State.strobe
  with_reducible apply Keeps.mk
  with_reducible assumption

theorem State.updateStrobe_keeps {s0 : State} (s : State) (mask : Nat) (h : Keeps s0 s) : Keeps s0 (State.updateStrobe s mask) := by
  unfold State.updateStrobe
  split
  · with_reducible assumption
  · apply State.strobe_keeps
    with_reducible assumption

theorem execUpdateStrobe_keeps {s0 : State} (t : Nat) (mask : Nat) (s : State) (h : Keeps s0 s) : KeepsOut s0 (execUpdateStrobe t mask s) := by
  unfold execUpdateStrobe
  extract_lets +onlyGivenNames x1
  have h1 : Keeps s0 x1 := ?_
  · clear_value x1
    split
    · apply KeepsOut.next
      apply State.updateStrobe_keeps
      with_reducible assumption
    · apply KeepsOut.next
      with_reducible assumption
  · subst x1
    apply State.at_keeps
    with_reducible assumption

theorem State.updateAtArm_keeps {s0 : State} (s : State) (h : Keeps s0 s) : Keeps s0 (State.updateAtArm s) := by
  unfold State.updateAtArm
  split
  · apply State.wr_keeps
    with_reducible assumption
  · extract_lets +onlyGivenNames x4
    clear_value x4
    extract_lets +onlyGivenNames x5
    clear_value x5
    split
    · apply State.wr_keeps
      apply State.setF_keeps
      apply State.updateStrobe_keeps
      with_reducible assumption
    · apply State.wr_keeps
      apply State.wr_keeps
      apply State.strobe_keeps
      with_reducible assumption

theorem execUpdateAtArm_keeps {s0 : State} (t : Nat) (s : State) (h : Keeps s0 s) : KeepsOut s0 (execUpdateAtArm t s) := by
  unfold execUpdateAtArm
  extract_lets +onlyGivenNames x1
  have h1 : Keeps s0 x1 := ?_
  · clear_value x1
    split
    · apply KeepsOut.next
      apply State.updateAtArm_keeps
      with_reducible assumption
    · apply KeepsOut.next
      with_reducible assumption
  · subst x1
    apply State.at_keeps
    with_reducible assumption

theorem State.restoreMarks_keeps {s0 : State} (s : State) (x : Strobe) (h : Keeps s0 s) : Keeps s0 (State.restoreMarks s x) := by
  unfold State.restoreMarks
  refine Keeps.foldl ?_ fun x1 a1 h1 => ?_
  · with_reducible assumption
  · apply State.mark_keeps
    apply State.mark_keeps
    with_reducible assumption

theorem State.updateAtCancel_keeps {s0 : State} (s : State) (h : Keeps s0 s) : Keeps s0 (State.updateAtCancel s) := by
  unfold State.updateAtCancel
  split
  · apply State.wr_keeps
    with_reducible assumption
  · extract_lets +onlyGivenNames x4
    have h4 : Keeps s0 x4 := ?_
    · clear_value x4
      apply State.wr_keeps
      apply State.wr_keeps
      with_reducible apply Keeps.mk
      with_reducible assumption
    · subst x4
      apply State.restoreMarks_keeps
      with_reducible assumption

theorem execUpdateAtCancel_keeps {s0 : State} (t : Nat) (s : State) (h : Keeps s0 s) : KeepsOut s0 (execUpdateAtCancel t s) := by
  unfold execUpdateAtCancel
  extract_lets +onlyGivenNames x1
  have h1 : Keeps s0 x1 := ?_
  · clear_value x1
    split
    · apply KeepsOut.next
      apply State.updateAtCancel_keeps
      with_reducible assumption
    · apply KeepsOut.next
      with_reducible assumption
  · subst x1
    apply State.at_keeps
    with_reducible assumption

theorem State.gangLoads_keeps {s0 : State} (s : State) (mask : Nat) (beat : Nat) (h : Keeps s0 s) : Keeps s0 (State.gangLoads s mask beat) := by
  unfold State.gangLoads
  refine Keeps.foldl ?_ fun x1 a1 h1 => ?_
  · with_reducible assumption
  · split
    · apply State.loadGroup_keeps
      with_reducible assumption
    · with_reducible assumption

theorem State.latchRings_keeps {s0 : State} (s : State) (mask : Nat) (h : Keeps s0 s) : Keeps s0 (State.latchRings s mask) := by
  unfold State.latchRings
  split
  · apply State.checkRings_keeps
    refine Keeps.foldl ?_ fun x3 a3 h3 => ?_
    · with_reducible assumption
    · split
      · apply State.latchRing_keeps
        with_reducible assumption
      · with_reducible assumption
  · with_reducible assumption

theorem State.applyStrobe_keeps {s0 : State} (s : State) (x : Strobe) (h : Keeps s0 s) : Keeps s0 (State.applyStrobe s x) := by
  unfold State.applyStrobe
  extract_lets +onlyGivenNames x1
  have h1 : Keeps s0 x1 := ?_
  · clear_value x1
    extract_lets +onlyGivenNames x2
    have h2 : Keeps s0 x2 := ?_
    · clear_value x2
      extract_lets +onlyGivenNames x3
      have h3 : Keeps s0 x3 := ?_
      · clear_value x3
        extract_lets +onlyGivenNames x4
        have h4 : Keeps s0 x4 := ?_
        · clear_value x4
          apply State.fireD_keeps
          split
          · apply State.wr_keeps
            with_reducible assumption
          · with_reducible assumption
        · subst x4
          apply State.gangLoads_keeps
          with_reducible assumption
      · subst x3
        refine Keeps.foldl ?_ fun x12 a12 h12 => ?_
        · with_reducible assumption
        · split
          · with_reducible assumption
          · apply State.applyBank_keeps
            with_reducible assumption
    · subst x2
      apply State.activate_keeps
      with_reducible assumption
  · subst x1
    apply State.latchRings_keeps
    with_reducible assumption

theorem execUpdateApply_keeps {s0 : State} (t : Nat) (s : State) (h : Keeps s0 s) : KeepsOut s0 (execUpdateApply t s) := by
  unfold execUpdateApply
  extract_lets +onlyGivenNames x1
  have h1 : Keeps s0 x1 := ?_
  · clear_value x1
    split
    · apply KeepsOut.next
      with_reducible assumption
    · extract_lets +onlyGivenNames x5
      have h5 : Keeps s0 x5 := ?_
      · clear_value x5
        extract_lets +onlyGivenNames x6
        clear_value x6
        extract_lets +onlyGivenNames x7
        have h7 : Keeps s0 x7 := ?_
        · clear_value x7
          apply KeepsOut.next
          refine Keeps.foldl ?_ fun x9 a9 h9 => ?_
          · with_reducible assumption
          · apply State.applyStrobe_keeps
            with_reducible assumption
        · subst x7
          with_reducible apply Keeps.mk
          with_reducible assumption
      · subst x5
        apply State.captureDue_keeps
        with_reducible assumption
  · subst x1
    apply State.at_keeps
    with_reducible assumption

theorem State.entryWord_keeps {s0 : State} (s : State) (b : Nat) (no : Nat) (a : Nat) (data : Nat) (h : Keeps s0 s) : Keeps s0 (State.entryWord s b no a data).1 := by
  unfold State.entryWord
  split
  · apply Keeps.mk1
    with_reducible assumption
  · refine Keeps.qfoldl ?_ fun x4 a4 h4 => ?_
    · apply Keeps.mk1
      with_reducible assumption
    · extract_lets +onlyGivenNames x7
      clear_value x7
      extract_lets +onlyGivenNames x8
      clear_value x8
      split
      · with_reducible assumption
      · split
        · apply Keeps.mk1
          apply State.take_keeps
          apply State.putRw_keeps
          with_reducible assumption
        · split
          · extract_lets +onlyGivenNames x17
            have h17 : Keeps s0 x17 := ?_
            · clear_value x17
              apply Keeps.mk1
              with_reducible assumption
            · subst x17
              apply State.take_keeps
              apply State.putShadow_keeps
              with_reducible assumption
          · with_reducible assumption

theorem State.entryBankPort_keeps {s0 : State} (s : State) (b : Nat) (no : Nat) (a : Nat) (data : Nat) (h : Keeps s0 s) : Keeps s0 (State.entryBankPort s b no a data).1 := by
  unfold State.entryBankPort
  split
  · apply Keeps.mk1
    with_reducible assumption
  · extract_lets +onlyGivenNames x4
    clear_value x4
    split
    · apply Keeps.mk1
      with_reducible assumption
    · apply Keeps.mk1
      apply State.take_keeps
      split
      · apply State.bankLo_keeps
        with_reducible assumption
      · apply State.bankHi_keeps
        with_reducible assumption

theorem State.entryBank_keeps {s0 : State} (s : State) (b : Nat) (no : Nat) (e : Entry) (h : Keeps s0 s) : Keeps s0 (State.entryBank s b no e).1 := by
  unfold State.entryBank
  extract_lets +onlyGivenNames x1
  clear_value x1
  split
  · apply Keeps.mk1
    with_reducible assumption
  · extract_lets +onlyGivenNames x5
    clear_value x5
    apply Keeps.mk1
    apply State.take_keeps
    apply State.mark_keeps
    with_reducible apply Keeps.mk
    with_reducible assumption

theorem State.regEntries_keeps {s0 : State} (s : State) (b : Nat) (no : Nat) (es : List Entry) (h : Keeps s0 s) : Keeps s0 (State.regEntries s b no es).1 := by
  unfold State.regEntries
  refine Keeps.qfoldl ?_ fun x1 a1 h1 => ?_
  · apply Keeps.mk1
    with_reducible assumption
  · split
    · extract_lets +onlyGivenNames x5
      have h5 : Keeps s0 x5.1 := ?_
      · clear_value x5
        apply Keeps.mk1
        with_reducible assumption
      · subst x5
        apply State.entryBank_keeps
        with_reducible assumption
    · split
      · with_reducible assumption
      · refine Keeps.qfoldl ?_ fun x12 a12 h12 => ?_
        · with_reducible assumption
        · extract_lets +onlyGivenNames x14
          clear_value x14
          extract_lets +onlyGivenNames x15
          have h15 : Keeps s0 x15.1 := ?_
          · clear_value x15
            extract_lets +onlyGivenNames x16
            have h16 : Keeps s0 x16.1 := ?_
            · clear_value x16
              apply Keeps.mk1
              with_reducible assumption
            · subst x16
              apply State.entryWord_keeps
              with_reducible assumption
          · subst x15
            apply State.entryBankPort_keeps
            with_reducible assumption

theorem State.applyWhole_keeps {s0 : State} (s : State) (b : Nat) (e : Nat × Nat) (h : Keeps s0 s) : Keeps s0 (State.applyWhole s b e) := by
  unfold State.applyWhole
  extract_lets +onlyGivenNames x1
  clear_value x1
  split
  · apply State.applyBank_keeps
    with_reducible assumption
  · with_reducible assumption

theorem State.otherEntry_keeps {s0 : State} (s : State) (b : Nat) (no : Nat) (e : Entry) (h : Keeps s0 s) : Keeps s0 (State.otherEntry s b no e) := by
  unfold State.otherEntry
  split
  · split
    · with_reducible assumption
    · apply State.take_keeps
      apply State.writeChunks_keeps
      with_reducible assumption
  · split
    · split
      · with_reducible assumption
      · apply State.take_keeps
        apply State.biasEntry_keeps
        with_reducible assumption
    · split
      · split
        · with_reducible assumption
        · apply State.take_keeps
          apply State.calApply_keeps
          with_reducible assumption
      · with_reducible assumption

theorem State.applyEntries_keeps {s0 : State} (s : State) (b : Nat) (no : Nat) (es : List Entry) (h : Keeps s0 s) : Keeps s0 (State.applyEntries s b no es) := by
  unfold State.applyEntries
  extract_lets +onlyGivenNames x1
  have h1 : Keeps s0 x1.1 := ?_
  · clear_value x1
    extract_lets +onlyGivenNames x2
    clear_value x2
    extract_lets +onlyGivenNames x3
    clear_value x3
    extract_lets +onlyGivenNames x4
    have h4 : Keeps s0 x4 := ?_
    · clear_value x4
      extract_lets +onlyGivenNames x5
      have h5 : Keeps s0 x5 := ?_
      · clear_value x5
        extract_lets +onlyGivenNames x6
        have h6 : Keeps s0 x6 := ?_
        · clear_value x6
          refine Keeps.foldl ?_ fun x7 a7 h7 => ?_
          · with_reducible assumption
          · apply State.otherEntry_keeps
            with_reducible assumption
        · subst x6
          refine Keeps.foldl ?_ fun x11 a11 h11 => ?_
          · with_reducible assumption
          · apply State.applyWhole_keeps
            with_reducible assumption
      · subst x5
        with_reducible apply Keeps.mk
        with_reducible assumption
    · subst x4
      apply State.activate_keeps
      with_reducible assumption
  · subst x1
    apply State.regEntries_keeps
    with_reducible assumption

theorem State.shotSplit_keeps {s0 : State} (s : State) (x : Nat) (b : Nat) (h : Keeps s0 s) : Keeps s0 (State.shotSplit s x b) := by
  unfold State.shotSplit
  refine Keeps.foldl ?_ fun x1 a1 h1 => ?_
  · with_reducible assumption
  · split
    · refine Keeps.foldl ?_ fun x4 a4 h4 => ?_
      · with_reducible assumption
      · split
        · split
          · apply State.swarmFlag_keeps
            apply State.markShot_keeps
            with_reducible assumption
          · with_reducible assumption
        · split
          · apply State.swarmFlag_keeps
            apply State.markShot_keeps
            with_reducible assumption
          · with_reducible assumption
    · with_reducible assumption

theorem State.imageInForce_keeps {s0 : State} (s : State) (x : Nat) (b : Nat) (h : Keeps s0 s) : Keeps s0 (State.imageInForce s x b) := by
  unfold State.imageInForce
  split
  · with_reducible assumption
  · extract_lets +onlyGivenNames x3
    clear_value x3
    extract_lets +onlyGivenNames x4
    clear_value x4
    extract_lets +onlyGivenNames x5
    have h5 : Keeps s0 x5 := ?_
    · clear_value x5
      extract_lets +onlyGivenNames x6
      have h6 : Keeps s0 x6 := ?_
      · clear_value x6
        extract_lets +onlyGivenNames x7
        have h7 : Keeps s0 x7 := ?_
        · clear_value x7
          apply State.enabledLoad_keeps
          apply State.wr_keeps
          with_reducible assumption
        · subst x7
          refine Keeps.foldl ?_ fun x11 a11 h11 => ?_
          · with_reducible assumption
          · split
            · apply State.setSeq_keeps
              with_reducible assumption
            · with_reducible assumption
      · subst x6
        refine Keeps.foldl ?_ fun x17 a17 h17 => ?_
        · with_reducible assumption
        · split
          · with_reducible assumption
          · apply State.showEq_keeps
            with_reducible assumption
    · subst x5
      with_reducible apply Keeps.mk
      with_reducible assumption

theorem State.applyTxn_keeps {s0 : State} (s : State) (x : Nat) (b : Nat) (h : Keeps s0 s) : Keeps s0 (State.applyTxn s x b) := by
  unfold State.applyTxn
  extract_lets +onlyGivenNames x1
  clear_value x1
  extract_lets +onlyGivenNames x2
  extract_lets +onlyGivenNames x3
  extract_lets +onlyGivenNames x4
  have h4 : Keeps s0 x4 := ?_
  · clear_value x4
    extract_lets +onlyGivenNames x5
    have h5 : Keeps s0 x5 := ?_
    · clear_value x5
      extract_lets +onlyGivenNames x6
      have h6 : Keeps s0 x6 := ?_
      · clear_value x6
        extract_lets +onlyGivenNames x7
        have h7 : Keeps s0 x7 := ?_
        · clear_value x7
          extract_lets +onlyGivenNames x8
          have h8 : Keeps s0 x8 := ?_
          · clear_value x8
            apply State.fireD_keeps
            apply State.txnOutcome_keeps
            apply State.freeTxn_keeps
            with_reducible assumption
          · subst x8
            split
            · apply State.decideRec_keeps
              with_reducible assumption
            · with_reducible assumption
        · subst x7
          split
          · apply State.imageInForce_keeps
            with_reducible assumption
          · with_reducible assumption
      · subst x6
        split
        · refine Keeps.foldl ?_ fun x22 a22 h22 => ?_
          · with_reducible assumption
          · split
            · apply State.setSeq_keeps
              with_reducible assumption
            · with_reducible assumption
        · with_reducible assumption
    · subst x5
      apply State.applyEntries_keeps
      with_reducible assumption
  · subst x4
    split
    · apply State.shotSplit_keeps
      with_reducible assumption
    · with_reducible assumption

theorem execTxnApply_keeps {s0 : State} (t : Nat) (x : Nat) (s : State) (h : Keeps s0 s) : KeepsOut s0 (execTxnApply t x s) := by
  unfold execTxnApply
  extract_lets +onlyGivenNames x1
  have h1 : Keeps s0 x1 := ?_
  · clear_value x1
    split
    · split
      · split
        · apply KeepsOut.next
          apply State.applyTxn_keeps
          with_reducible assumption
        · apply KeepsOut.next
          with_reducible assumption
      · apply KeepsOut.next
        with_reducible assumption
    · apply KeepsOut.next
      with_reducible assumption
  · subst x1
    apply State.at_keeps
    with_reducible assumption

end Sys2Proof.Machine
end

