-- ==== Sys2Proof/Laws/KeepsSeqCtl.lean ====
section
/-! SUPPORT. What the definitions of Machine/SeqCtl.lean keep: one lemma each. -/

namespace Sys2Proof.Machine

set_option maxRecDepth 10000

theorem State.seqResult_keeps {s0 : State} (s : State) (n : Nat) (code : Nat) (h : Keeps s0 s) : Keeps s0 (State.seqResult s n code) := by
  unfold State.seqResult
  apply State.wr_keeps
  with_reducible assumption

theorem State.goAt_keeps {s0 : State} (s : State) (n : Nat) (a : Nat) (h : Keeps s0 s) : Keeps s0 (State.goAt s n a) := by
  unfold State.goAt
  extract_lets +onlyGivenNames x1
  clear_value x1
  extract_lets +onlyGivenNames x2
  have h2 : Keeps s0 x2 := ?_
  · clear_value x2
    apply State.runStep_keeps
    with_reducible assumption
  · subst x2
    apply State.setSeq_keeps
    with_reducible assumption

theorem State.start_keeps {s0 : State} (s : State) (n : Nat) (h : Keeps s0 s) : Keeps s0 (State.start s n) := by
  unfold State.start
  extract_lets +onlyGivenNames x1
  clear_value x1
  extract_lets +onlyGivenNames x2
  clear_value x2
  split
  · apply State.seqResult_keeps
    with_reducible assumption
  · split
    · apply State.seqResult_keeps
      with_reducible assumption
    · split
      · apply State.seqResult_keeps
        with_reducible assumption
      · extract_lets +onlyGivenNames x12
        have h12 : Keeps s0 x12 := ?_
        · clear_value x12
          extract_lets +onlyGivenNames x13
          have h13 : Keeps s0 x13 := ?_
          · clear_value x13
            apply State.goAt_keeps
            with_reducible assumption
          · subst x13
            apply State.seqResult_keeps
            apply State.wr_keeps
            apply State.wr_keeps
            with_reducible assumption
        · subst x12
          apply State.setSeq_keeps
          with_reducible assumption

theorem execSeqStart_keeps {s0 : State} (t : Nat) (n : Nat) (s : State) (h : Keeps s0 s) : KeepsOut s0 (execSeqStart t n s) := by
  unfold execSeqStart
  extract_lets +onlyGivenNames x1
  have h1 : Keeps s0 x1 := ?_
  · clear_value x1
    split
    · apply KeepsOut.next
      apply State.hostCmd_keeps
      · with_reducible assumption
      · intro y6_0 y6_1
        apply State.start_keeps
        with_reducible assumption
    · apply KeepsOut.next
      with_reducible assumption
  · subst x1
    apply State.at_keeps
    with_reducible assumption

theorem State.resume_keeps {s0 : State} (s : State) (n : Nat) (h : Keeps s0 s) : Keeps s0 (State.resume s n) := by
  unfold State.resume
  extract_lets +onlyGivenNames x1
  clear_value x1
  split
  · apply State.seqResult_keeps
    with_reducible assumption
  · split
    · apply State.seqResult_keeps
      with_reducible assumption
    · split
      · apply State.seqResult_keeps
        with_reducible assumption
      · apply State.goAt_keeps
        apply State.seqResult_keeps
        with_reducible assumption

theorem execSeqResume_keeps {s0 : State} (t : Nat) (n : Nat) (s : State) (h : Keeps s0 s) : KeepsOut s0 (execSeqResume t n s) := by
  unfold execSeqResume
  extract_lets +onlyGivenNames x1
  have h1 : Keeps s0 x1 := ?_
  · clear_value x1
    split
    · apply KeepsOut.next
      apply State.hostCmd_keeps
      · with_reducible assumption
      · intro y6_0 y6_1
        apply State.resume_keeps
        with_reducible assumption
    · apply KeepsOut.next
      with_reducible assumption
  · subst x1
    apply State.at_keeps
    with_reducible assumption

theorem State.abortCmd_keeps {s0 : State} (s : State) (n : Nat) (h : Keeps s0 s) : Keeps s0 (State.abortCmd s n) := by
  unfold State.abortCmd
  split
  · apply State.seqResult_keeps
    with_reducible assumption
  · apply State.raiseAbort_keeps
    apply State.seqResult_keeps
    with_reducible assumption

theorem execSeqAbort_keeps {s0 : State} (t : Nat) (n : Nat) (s : State) (h : Keeps s0 s) : KeepsOut s0 (execSeqAbort t n s) := by
  unfold execSeqAbort
  extract_lets +onlyGivenNames x1
  have h1 : Keeps s0 x1 := ?_
  · clear_value x1
    split
    · apply KeepsOut.next
      apply State.hostCmd_keeps
      · with_reducible assumption
      · intro y6_0 y6_1
        apply State.abortCmd_keeps
        with_reducible assumption
    · apply KeepsOut.next
      with_reducible assumption
  · subst x1
    apply State.at_keeps
    with_reducible assumption

theorem State.shotAbort_keeps {s0 : State} (s : State) (n : Nat) (h : Keeps s0 s) : Keeps s0 (State.shotAbort s n) := by
  unfold State.shotAbort
  apply State.raiseInt_keeps
  apply State.seqResult_keeps
  with_reducible assumption

theorem execSeqShotAbort_keeps {s0 : State} (t : Nat) (n : Nat) (s : State) (h : Keeps s0 s) : KeepsOut s0 (execSeqShotAbort t n s) := by
  unfold execSeqShotAbort
  extract_lets +onlyGivenNames x1
  have h1 : Keeps s0 x1 := ?_
  · clear_value x1
    split
    · apply KeepsOut.next
      apply State.hostCmd_keeps
      · with_reducible assumption
      · intro y6_0 y6_1
        apply State.shotAbort_keeps
        with_reducible assumption
    · apply KeepsOut.next
      with_reducible assumption
  · subst x1
    apply State.at_keeps
    with_reducible assumption

theorem State.iclr_keeps {s0 : State} (s : State) (n : Nat) (h : Keeps s0 s) : Keeps s0 (State.iclr s n) := by
  unfold State.iclr
  split
  · apply State.seqResult_keeps
    apply State.wr_keeps
    with_reducible assumption
  · with_reducible assumption

theorem execSeqIclr_keeps {s0 : State} (t : Nat) (n : Nat) (s : State) (h : Keeps s0 s) : KeepsOut s0 (execSeqIclr t n s) := by
  unfold execSeqIclr
  extract_lets +onlyGivenNames x1
  have h1 : Keeps s0 x1 := ?_
  · clear_value x1
    split
    · apply KeepsOut.next
      apply State.hostCmd_keeps
      · with_reducible assumption
      · intro y6_0 y6_1
        apply State.iclr_keeps
        with_reducible assumption
    · apply KeepsOut.next
      with_reducible assumption
  · subst x1
    apply State.at_keeps
    with_reducible assumption

theorem State.quiet_keeps {s0 : State} (s : State) (n : Nat) (h : Keeps s0 s) : Keeps s0 (State.quiet s n) := by
  unfold State.quiet
  split
  · apply State.seqResult_keeps
    with_reducible assumption
  · extract_lets +onlyGivenNames x4
    clear_value x4
    extract_lets +onlyGivenNames x5
    have h5 : Keeps s0 x5 := ?_
    · clear_value x5
      extract_lets +onlyGivenNames x6
      have h6 : Keeps s0 x6 := ?_
      · clear_value x6
        extract_lets +onlyGivenNames x7
        clear_value x7
        extract_lets +onlyGivenNames x8
        have h8 : Keeps s0 x8 := ?_
        · clear_value x8
          extract_lets +onlyGivenNames x9
          clear_value x9
          extract_lets +onlyGivenNames x10
          have h10 : Keeps s0 x10 := ?_
          · clear_value x10
            extract_lets +onlyGivenNames x11
            have h11 : Keeps s0 x11 := ?_
            · clear_value x11
              extract_lets +onlyGivenNames x12
              have h12 : Keeps s0 x12 := ?_
              · clear_value x12
                extract_lets +onlyGivenNames x13
                have h13 : Keeps s0 x13 := ?_
                · clear_value x13
                  extract_lets +onlyGivenNames x14
                  clear_value x14
                  extract_lets +onlyGivenNames x15
                  have h15 : Keeps s0 x15 := ?_
                  · clear_value x15
                    extract_lets +onlyGivenNames x16
                    have h16 : Keeps s0 x16 := ?_
                    · clear_value x16
                      extract_lets +onlyGivenNames x17
                      clear_value x17
                      extract_lets +onlyGivenNames x18
                      have h18 : Keeps s0 x18 := ?_
                      · clear_value x18
                        apply State.seqResult_keeps
                        apply State.tellShots_keeps
                        with_reducible assumption
                      · subst x18
                        apply State.setSeq_keeps
                        with_reducible assumption
                    · subst x16
                      apply State.markCancel_keeps
                      with_reducible assumption
                  · subst x15
                    with_reducible apply Keeps.mk
                    with_reducible assumption
                · subst x13
                  apply State.setLoads_keeps
                  with_reducible assumption
              · subst x12
                refine Keeps.foldl ?_ fun x30 a30 h30 => ?_
                · with_reducible assumption
                · apply State.setBias_keeps
                  with_reducible assumption
            · subst x11
              apply State.cutComb_keeps
              with_reducible assumption
          · subst x10
            apply State.setComb_keeps
            with_reducible assumption
        · subst x8
          refine Keeps.foldl ?_ fun x38 a38 h38 => ?_
          · with_reducible assumption
          · apply State.markShot_keeps
            with_reducible assumption
      · subst x6
        refine Keeps.foldl ?_ fun x42 a42 h42 => ?_
        · with_reducible assumption
        · extract_lets +onlyGivenNames x44
          clear_value x44
          extract_lets +onlyGivenNames x45
          have h45 : Keeps s0 x45 := ?_
          · clear_value x45
            apply State.setLane_keeps
            with_reducible assumption
          · subst x45
            apply State.cutSpecs_keeps
            apply State.setCell_keeps
            with_reducible assumption
    · subst x5
      apply State.settle_keeps
      with_reducible assumption

theorem execSeqQuiet_keeps {s0 : State} (t : Nat) (n : Nat) (s : State) (h : Keeps s0 s) : KeepsOut s0 (execSeqQuiet t n s) := by
  unfold execSeqQuiet
  extract_lets +onlyGivenNames x1
  have h1 : Keeps s0 x1 := ?_
  · clear_value x1
    split
    · apply KeepsOut.next
      apply State.hostCmd_keeps
      · with_reducible assumption
      · intro y6_0 y6_1
        apply State.quiet_keeps
        with_reducible assumption
    · apply KeepsOut.next
      with_reducible assumption
  · subst x1
    apply State.at_keeps
    with_reducible assumption

theorem execRunAheadRelease_keeps {s0 : State} (t : Nat) (n : Nat) (s : State) (h : Keeps s0 s) : KeepsOut s0 (execRunAheadRelease t n s) := by
  unfold execRunAheadRelease
  extract_lets +onlyGivenNames x1
  have h1 : Keeps s0 x1 := ?_
  · clear_value x1
    split
    · split
      · apply KeepsOut.next
        apply State.endWait_keeps
        with_reducible assumption
      · apply KeepsOut.next
        with_reducible assumption
    · apply KeepsOut.next
      with_reducible assumption
  · subst x1
    apply State.at_keeps
    with_reducible assumption

theorem execDescCheckReturn_keeps {s0 : State} (t : Nat) (n : Nat) (s : State) (h : Keeps s0 s) : KeepsOut s0 (execDescCheckReturn t n s) := by
  unfold execDescCheckReturn
  extract_lets +onlyGivenNames x1
  have h1 : Keeps s0 x1 := ?_
  · clear_value x1
    split
    · apply KeepsOut.next
      with_reducible assumption
    · extract_lets +onlyGivenNames x5
      clear_value x5
      extract_lets +onlyGivenNames x6
      have h6 : Keeps s0 x6 := ?_
      · clear_value x6
        split
        · apply KeepsOut.next
          apply State.raiseFault_keeps
          with_reducible assumption
        · split
          · apply KeepsOut.next
            apply State.endWait_keeps
            with_reducible assumption
          · apply KeepsOut.next
            with_reducible assumption
      · subst x6
        apply State.setSeq_keeps
        with_reducible assumption
  · subst x1
    apply State.at_keeps
    with_reducible assumption

theorem State.undo_keeps {s0 : State} (s : State) (n : Nat) (a_____internal__hyg_0 : JEntry) (h : Keeps s0 s) : Keeps s0 (State.undo s n a_____internal__hyg_0) := by
  unfold State.undo
  split
  · apply State.wr_keeps
    with_reducible assumption
  · with_reducible assumption
  · with_reducible assumption
  · refine Keeps.foldl ?_ fun x6 a6 h6 => ?_
    · with_reducible assumption
    · apply State.setStages_keeps
      with_reducible assumption
  · refine Keeps.foldl ?_ fun x10 a10 h10 => ?_
    · with_reducible assumption
    · apply State.setSlot_keeps
      with_reducible assumption
  · split
    · apply State.setTxnState_keeps
      apply State.setTxn_keeps
      with_reducible assumption
    · with_reducible assumption
  · apply State.setSeq_keeps
    with_reducible assumption

theorem State.rollCell_keeps {s0 : State} (s : State) (n : Nat) (c : Nat) (h : Keeps s0 s) : Keeps s0 (State.rollCell s n c) := by
  unfold State.rollCell
  extract_lets +onlyGivenNames x1
  clear_value x1
  extract_lets +onlyGivenNames x2
  clear_value x2
  extract_lets +onlyGivenNames x3
  clear_value x3
  extract_lets +onlyGivenNames x4
  clear_value x4
  extract_lets +onlyGivenNames x5
  clear_value x5
  extract_lets +onlyGivenNames x6
  clear_value x6
  extract_lets +onlyGivenNames x7
  clear_value x7
  extract_lets +onlyGivenNames x8
  clear_value x8
  extract_lets +onlyGivenNames x9
  clear_value x9
  extract_lets +onlyGivenNames x10
  clear_value x10
  extract_lets +onlyGivenNames x11
  clear_value x11
  extract_lets +onlyGivenNames x12
  clear_value x12
  extract_lets +onlyGivenNames x13
  clear_value x13
  extract_lets +onlyGivenNames x14
  clear_value x14
  apply State.setCell_keeps
  with_reducible assumption

theorem State.cancelSpan_keeps {s0 : State} (s : State) (n : Nat) (h : Keeps s0 s) : Keeps s0 (State.cancelSpan s n) := by
  unfold State.cancelSpan
  extract_lets +onlyGivenNames x1
  clear_value x1
  extract_lets +onlyGivenNames x2
  clear_value x2
  extract_lets +onlyGivenNames x3
  clear_value x3
  extract_lets +onlyGivenNames x4
  have h4 : Keeps s0 x4 := ?_
  · clear_value x4
    extract_lets +onlyGivenNames x5
    clear_value x5
    extract_lets +onlyGivenNames x6
    have h6 : Keeps s0 x6 := ?_
    · clear_value x6
      extract_lets +onlyGivenNames x7
      have h7 : Keeps s0 x7 := ?_
      · clear_value x7
        extract_lets +onlyGivenNames x8
        have h8 : Keeps s0 x8 := ?_
        · clear_value x8
          extract_lets +onlyGivenNames x9
          have h9 : Keeps s0 x9 := ?_
          · clear_value x9
            extract_lets +onlyGivenNames x10
            clear_value x10
            extract_lets +onlyGivenNames x11
            have h11 : Keeps s0 x11 := ?_
            · clear_value x11
              extract_lets +onlyGivenNames x12
              have h12 : Keeps s0 x12 := ?_
              · clear_value x12
                apply State.setSeq_keeps
                with_reducible assumption
              · subst x12
                apply State.markCancel_keeps
                with_reducible assumption
            · subst x11
              with_reducible apply Keeps.mk
              with_reducible assumption
          · subst x9
            apply State.setLoads_keeps
            with_reducible assumption
        · subst x8
          refine Keeps.foldl ?_ fun x21 a21 h21 => ?_
          · with_reducible assumption
          · apply State.setBias_keeps
            with_reducible assumption
      · subst x7
        apply State.cutComb_keeps
        with_reducible assumption
    · subst x6
      apply State.setComb_keeps
      with_reducible assumption
  · subst x4
    refine Keeps.foldl ?_ fun x29 a29 h29 => ?_
    · with_reducible assumption
    · extract_lets +onlyGivenNames x31
      clear_value x31
      extract_lets +onlyGivenNames x32
      have h32 : Keeps s0 x32 := ?_
      · clear_value x32
        apply State.setLane_keeps
        with_reducible assumption
      · subst x32
        apply State.setCell_keeps
        with_reducible assumption

theorem State.answerFault_keeps {s0 : State} (s : State) (n : Nat) (f : FaultRep) (h : Keeps s0 s) : Keeps s0 (State.answerFault s n f) := by
  unfold State.answerFault
  extract_lets +onlyGivenNames x1
  have h1 : Keeps s0 x1 := ?_
  · clear_value x1
    split
    · apply State.markShot_keeps
      with_reducible assumption
    · extract_lets +onlyGivenNames x5
      have h5 : Keeps s0 x5 := ?_
      · clear_value x5
        extract_lets +onlyGivenNames x6
        have h6 : Keeps s0 x6 := ?_
        · clear_value x6
          extract_lets +onlyGivenNames x7
          have h7 : Keeps s0 x7 := ?_
          · clear_value x7
            extract_lets +onlyGivenNames x8
            have h8 : Keeps s0 x8 := ?_
            · clear_value x8
              extract_lets +onlyGivenNames x9
              clear_value x9
              extract_lets +onlyGivenNames x10
              have h10 : Keeps s0 x10 := ?_
              · clear_value x10
                extract_lets +onlyGivenNames x11
                have h11 : Keeps s0 x11 := ?_
                · clear_value x11
                  extract_lets +onlyGivenNames x12
                  clear_value x12
                  extract_lets +onlyGivenNames x13
                  have h13 : Keeps s0 x13 := ?_
                  · clear_value x13
                    extract_lets +onlyGivenNames x14
                    have h14 : Keeps s0 x14 := ?_
                    · clear_value x14
                      apply State.fireS_keeps
                      apply State.wr_keeps
                      apply State.wr_keeps
                      with_reducible assumption
                    · subst x14
                      apply State.wr_keeps
                      apply State.wr_keeps
                      with_reducible assumption
                  · subst x13
                    apply State.setSeq_keeps
                    with_reducible assumption
                · subst x11
                  apply State.tellShots_keeps
                  with_reducible assumption
              · subst x10
                apply State.closeShot_keeps
                split
                · apply State.markShot_keeps
                  with_reducible assumption
                · apply State.markShot_keeps
                  apply State.markShot_keeps
                  with_reducible assumption
            · subst x8
              refine Keeps.foldl ?_ fun x33 a33 h33 => ?_
              · with_reducible assumption
              · apply State.undo_keeps
                with_reducible assumption
          · subst x7
            refine Keeps.foldl ?_ fun x37 a37 h37 => ?_
            · with_reducible assumption
            · apply State.rollCell_keeps
              with_reducible assumption
        · subst x6
          apply State.cancelSpan_keeps
          with_reducible assumption
      · subst x5
        apply State.settle_keeps
        with_reducible assumption
  · subst x1
    apply State.wr_keeps
    apply State.wr_keeps
    with_reducible assumption

theorem execSequencerFault_keeps {s0 : State} (t : Nat) (n : Nat) (s : State) (h : Keeps s0 s) : KeepsOut s0 (execSequencerFault t n s) := by
  unfold execSequencerFault
  extract_lets +onlyGivenNames x1
  have h1 : Keeps s0 x1 := ?_
  · clear_value x1
    split
    · apply KeepsOut.next
      with_reducible assumption
    · apply KeepsOut.next
      apply State.answerFault_keeps
      apply State.setSeq_keeps
      with_reducible assumption
  · subst x1
    apply State.at_keeps
    with_reducible assumption

theorem State.upset_keeps {s0 : State} (s : State) (n : Nat) (u : Nat × Nat × Nat) (h : Keeps s0 s) : Keeps s0 (State.upset s n u) := by
  unfold State.upset
  extract_lets +onlyGivenNames x1
  clear_value x1
  split
  · split
    · with_reducible apply Keeps.mk
      with_reducible assumption
    · with_reducible assumption
  · split
    · extract_lets +onlyGivenNames x8
      clear_value x8
      with_reducible apply Keeps.mk
      with_reducible assumption
    · split
      · extract_lets +onlyGivenNames x12
        clear_value x12
        with_reducible apply Keeps.mk
        with_reducible assumption
      · extract_lets +onlyGivenNames x15
        clear_value x15
        with_reducible apply Keeps.mk
        with_reducible assumption

theorem State.scrub_keeps {s0 : State} (s : State) (n : Nat) (h : Keeps s0 s) : Keeps s0 (State.scrub s n) := by
  unfold State.scrub
  extract_lets +onlyGivenNames x1
  clear_value x1
  extract_lets +onlyGivenNames x2
  clear_value x2
  extract_lets +onlyGivenNames x3
  clear_value x3
  extract_lets +onlyGivenNames x4
  clear_value x4
  extract_lets +onlyGivenNames x5
  clear_value x5
  extract_lets +onlyGivenNames x6
  have h6 : Keeps s0 x6 := ?_
  · clear_value x6
    extract_lets +onlyGivenNames x7
    have h7 : Keeps s0 x7 := ?_
    · clear_value x7
      split
      · with_reducible assumption
      · apply State.fireS_keeps
        with_reducible assumption
    · subst x7
      with_reducible apply Keeps.mk
      with_reducible assumption
  · subst x6
    apply State.addFixes_keeps
    apply State.addFixes_keeps
    with_reducible assumption

theorem execMicroScrub_keeps {s0 : State} (t : Nat) (n : Nat) (upsets : List (Nat × Nat × Nat)) (s : State) (h : Keeps s0 s) : KeepsOut s0 (execMicroScrub t n upsets s) := by
  unfold execMicroScrub
  extract_lets +onlyGivenNames x1
  have h1 : Keeps s0 x1 := ?_
  · clear_value x1
    split
    · apply KeepsOut.next
      apply State.scrub_keeps
      refine Keeps.foldl ?_ fun x5 a5 h5 => ?_
      · apply State.settle_keeps
        with_reducible assumption
      · apply State.upset_keeps
        with_reducible assumption
    · apply KeepsOut.next
      with_reducible assumption
  · subst x1
    apply State.at_keeps
    with_reducible assumption

end Sys2Proof.Machine
end

