-- ==== Sys2Proof/Laws/KeepsBoot.lean ====
section
/-! SUPPORT. What the definitions of Machine/Boot.lean keep: one lemma each. -/

namespace Sys2Proof.Machine

set_option maxRecDepth 10000

theorem State.cutFlash_keeps {s0 : State} (s : State) (h : Keeps s0 s) : Keeps s0 (State.cutFlash s) := by
  unfold State.cutFlash
  split
  · apply State.putFlash_keeps
    apply State.draw_keeps
    with_reducible assumption
  · apply State.putFlash_keeps
    apply State.draw_keeps
    with_reducible assumption
  · with_reducible assumption

theorem State.cutFuse_keeps {s0 : State} (s : State) (h : Keeps s0 s) : Keeps s0 (State.cutFuse s) := by
  unfold State.cutFuse
  extract_lets +onlyGivenNames x1
  clear_value x1
  extract_lets +onlyGivenNames x2
  clear_value x2
  split
  · split
    · with_reducible assumption
    · split
      · extract_lets +onlyGivenNames x7
        have h7 : Keeps s0 x7 := ?_
        · clear_value x7
          with_reducible apply Keeps.mk
          with_reducible assumption
        · subst x7
          apply State.draw_keeps
          with_reducible assumption
      · split
        · extract_lets +onlyGivenNames x13
          have h13 : Keeps s0 x13 := ?_
          · clear_value x13
            with_reducible apply Keeps.mk
            with_reducible assumption
          · subst x13
            apply State.draw_keeps
            with_reducible assumption
        · apply State.draw_keeps
          with_reducible assumption
  · split
    · with_reducible assumption
    · split
      · extract_lets +onlyGivenNames x23
        have h23 : Keeps s0 x23 := ?_
        · clear_value x23
          with_reducible apply Keeps.mk
          with_reducible assumption
        · subst x23
          apply State.draw_keeps
          with_reducible assumption
      · split
        · extract_lets +onlyGivenNames x29
          have h29 : Keeps s0 x29 := ?_
          · clear_value x29
            with_reducible apply Keeps.mk
            with_reducible assumption
          · subst x29
            apply State.draw_keeps
            with_reducible assumption
        · apply State.draw_keeps
          with_reducible assumption

theorem State.enterDark_keeps {s0 : State} (s : State) (h : Keeps s0 s) : Keeps s0 (State.enterDark s) := by
  have h2 : Keeps s0 s.cutFlash.cutFuse := State.cutFuse_keeps _ (State.cutFlash_keeps _ h)
  unfold State.enterDark
  generalize s.cutFlash.cutFuse = u at h2
  exact h2.mem rfl (fun _ => rfl) id id


theorem execPowerApplied_keeps {s0 : State} (t : Nat) (s : State) (h : Keeps s0 s) : KeepsOut s0 (execPowerApplied t s) := by
  unfold execPowerApplied
  apply KeepsOut.next
  apply State.enterDark_keeps
  apply State.at_keeps
  with_reducible assumption

theorem execNresetLow_keeps {s0 : State} (t : Nat) (widthNs : Nat) (s : State) (h : Keeps s0 s) : KeepsOut s0 (execNresetLow t widthNs s) := by
  unfold execNresetLow
  extract_lets +onlyGivenNames x1
  have h1 : Keeps s0 x1 := ?_
  · clear_value x1
    split
    · apply KeepsOut.next
      apply State.enterDark_keeps
      with_reducible assumption
    · apply KeepsOut.next
      with_reducible assumption
  · subst x1
    apply State.at_keeps
    with_reducible assumption

theorem execVddAuxCollapse_keeps {s0 : State} (t : Nat) (milliVolt : Nat) (ns : Nat) (s : State) (h : Keeps s0 s) : KeepsOut s0 (execVddAuxCollapse t milliVolt ns s) := by
  unfold execVddAuxCollapse
  extract_lets +onlyGivenNames x1
  have h1 : Keeps s0 x1 := ?_
  · clear_value x1
    split
    · apply KeepsOut.next
      apply State.enterDark_keeps
      with_reducible assumption
    · apply KeepsOut.next
      with_reducible assumption
  · subst x1
    apply State.at_keeps
    with_reducible assumption

theorem State.setLast_keeps {s0 : State} (s : State) (c : Nat) (h : Keeps s0 s) : Keeps s0 (State.setLast s c) := by
  unfold State.setLast
  apply State.wr_keeps
  apply State.wr_keeps
  with_reducible assumption

theorem State.loadKey_keeps {s0 : State} (s : State) (h : Keeps s0 s) : Keeps s0 (State.loadKey s) := by
  unfold State.loadKey
  split
  · apply State.wr_keeps
    with_reducible apply Keeps.mk
    with_reducible assumption
  · apply State.wr_keeps
    with_reducible apply Keeps.mk
    with_reducible assumption

theorem State.showFuses_keeps {s0 : State} (s : State) (h : Keeps s0 s) : Keeps s0 (State.showFuses s) := by
  unfold State.showFuses
  apply State.wr_keeps
  apply State.wr_keeps
  apply State.wr_keeps
  with_reducible assumption

theorem State.recordSlots_keeps {s0 : State} (s : State) (h : Keeps s0 s) : Keeps s0 (State.recordSlots s) := by
  unfold State.recordSlots
  extract_lets +onlyGivenNames x1
  clear_value x1
  extract_lets +onlyGivenNames x2
  clear_value x2
  extract_lets +onlyGivenNames x3
  have h3 : Keeps s0 x3 := ?_
  · clear_value x3
    extract_lets +onlyGivenNames x4
    have h4 : Keeps s0 x4 := ?_
    · clear_value x4
      split
      · apply State.wr_keeps
        with_reducible assumption
      · with_reducible assumption
    · subst x4
      apply State.wr_keeps
      apply State.wr_keeps
      with_reducible assumption
  · subst x3
    apply State.wr_keeps
    apply State.wr_keeps
    with_reducible assumption

theorem State.applySystem_keeps {s0 : State} (s : State) (x : Section) (h : Keeps s0 s) : Keeps s0 (State.applySystem s x) := by
  unfold State.applySystem
  extract_lets +onlyGivenNames x1
  extract_lets +onlyGivenNames x2
  extract_lets +onlyGivenNames x3
  have h3 : Keeps s0 x3 := ?_
  · extract_lets +onlyGivenNames x4
    extract_lets +onlyGivenNames x5
    have h5 : Keeps s0 x5 := ?_
    · extract_lets +onlyGivenNames x6
      have h6 : Keeps s0 x6 := ?_
      · split
        · apply State.chainJoin_keeps
          with_reducible assumption
        · with_reducible assumption
      · subst x6
        split
        · apply State.wr_keeps
          with_reducible assumption
        · apply State.wr_keeps
          apply State.wr_keeps
          apply State.wr_keeps
          with_reducible assumption
    · subst x5
      with_reducible apply Keeps.mk
      with_reducible assumption
  · subst x3
    apply State.wr_keeps
    with_reducible assumption

theorem State.applyConfig_keeps {s0 : State} (s : State) (es : List Entry) (h : Keeps s0 s) : Keeps s0 (State.applyConfig s es) := by
  unfold State.applyConfig
  extract_lets +onlyGivenNames x1
  have h1 : Keeps s0 x1 := ?_
  · clear_value x1
    extract_lets +onlyGivenNames x2
    have h2 : Keeps s0 x2 := ?_
    · clear_value x2
      with_reducible apply Keeps.mk
      with_reducible assumption
    · subst x2
      refine Keeps.foldl ?_ fun x5 a5 h5 => ?_
      · with_reducible assumption
      · split
        · apply State.applyBank_keeps
          with_reducible assumption
        · extract_lets +onlyGivenNames x10
          clear_value x10
          extract_lets +onlyGivenNames x11
          have h11 : Keeps s0 x11 := ?_
          · clear_value x11
            apply State.awr_keeps
            with_reducible assumption
          · subst x11
            apply State.awr_keeps
            with_reducible assumption
  · subst x1
    apply State.applyEntries_keeps
    with_reducible assumption

theorem State.applyImage_keeps {s0 : State} (s : State) (slot : Nat) (h : Keeps s0 s) : Keeps s0 (State.applyImage s slot) := by
  unfold State.applyImage
  extract_lets +onlyGivenNames x1
  clear_value x1
  split
  · with_reducible assumption
  · extract_lets +onlyGivenNames x4
    have h4 : Keeps s0 x4 := ?_
    · clear_value x4
      extract_lets +onlyGivenNames x5
      clear_value x5
      extract_lets +onlyGivenNames x6
      have h6 : Keeps s0 x6 := ?_
      · clear_value x6
        extract_lets +onlyGivenNames x7
        have h7 : Keeps s0 x7 := ?_
        · clear_value x7
          extract_lets +onlyGivenNames x8
          have h8 : Keeps s0 x8 := ?_
          · clear_value x8
            extract_lets +onlyGivenNames x9
            have h9 : Keeps s0 x9 := ?_
            · clear_value x9
              extract_lets +onlyGivenNames x10
              have h10 : Keeps s0 x10 := ?_
              · clear_value x10
                apply State.wr_keeps
                with_reducible assumption
              · subst x10
                apply State.wr_keeps
                apply State.wr_keeps
                with_reducible assumption
            · subst x9
              split
              · with_reducible assumption
              · apply State.setMap_keeps
                with_reducible assumption
          · subst x8
            apply State.applyConfig_keeps
            with_reducible assumption
        · subst x7
          refine Keeps.foldl ?_ fun x22 a22 h22 => ?_
          · with_reducible assumption
          · apply State.deriveElv_keeps
            with_reducible assumption
      · subst x6
        with_reducible apply Keeps.mk
        with_reducible assumption
    · subst x4
      refine Keeps.foldl ?_ fun x28 a28 h28 => ?_
      · with_reducible assumption
      · apply State.applySystem_keeps
        with_reducible assumption

theorem State.holdOutputs_keeps {s0 : State} (s : State) (h : Keeps s0 s) : Keeps s0 (State.holdOutputs s) := by
  unfold State.holdOutputs
  extract_lets +onlyGivenNames x1
  have h1 : Keeps s0 x1 := ?_
  · clear_value x1
    extract_lets +onlyGivenNames x2
    have h2 : Keeps s0 x2 := ?_
    · clear_value x2
      extract_lets +onlyGivenNames x3
      have h3 : Keeps s0 x3 := ?_
      · clear_value x3
        apply State.hiveMuted_keeps
        with_reducible assumption
      · subst x3
        split
        · with_reducible assumption
        · apply State.zeroAll_keeps
          apply State.muteAll_keeps
          with_reducible assumption
    · subst x2
      split
      · with_reducible assumption
      · apply State.zeroAll_keeps
        apply State.muteAll_keeps
        with_reducible assumption
  · subst x1
    split
    · with_reducible assumption
    · apply State.muteAll_keeps
      with_reducible assumption

theorem State.enterAmber_keeps {s0 : State} (s : State) (t : Nat) (recovery : Bool) (h : Keeps s0 s) : Keeps s0 (State.enterAmber s t recovery) := by
  have a1 := State.holdOutputs_keeps _ (State.toSvc_keeps _ .amber (State.lifeBoot_keeps _
    (Keeps.dialMod (min t 768000000 - min t 768000000 % s.gran) h)))
  have a2 := State.enabledLoad_keeps _ a1
  unfold State.enterAmber
  dsimp only
  split
  · exact State.mcalStart_keeps _ a2
  · split
    · exact State.startPass_keeps _ _ a2
    · exact State.mcalStart_keeps _ (State.startPass_keeps _ _ a2)


theorem State.boot_keeps {s0 : State} (s : State) (t : Nat) (bootSel : Nat) (h : Keeps s0 s) : Keeps s0 (State.boot s t bootSel) := by
  have a1 : Keeps s0 { s with dial := 0 } := h.mem rfl id id fun _ => Nat.two_pow_pos 72
  have a2 := fun v => State.loadKey_keeps _ (State.setLast_keeps _ v (State.showFuses_keeps _
    (State.wr_keeps _ R.timeStatus_ref_ok 1 (State.wr_keeps _ R.secBoot_boot_sel bootSel a1))))
  have a3 := fun v => State.calLoad_keeps _ (State.recordSlots_keeps _ (a2 v))
  unfold State.boot
  dsimp only
  split
  · apply State.enterAmber_keeps
    apply State.calLoad_keeps
    apply State.wr_keeps
    exact a2 _
  · split
    · apply State.enterAmber_keeps
      apply State.wr_keeps
      exact a3 _
    · apply State.enterAmber_keeps
      split
      · apply State.wr_keeps
        apply State.applyImage_keeps
        exact a3 _
      · apply State.applyImage_keeps
        exact a3 _


theorem execNresetHigh_keeps {s0 : State} (t : Nat) (bootSel : Nat) (auxMilliVolt : Nat) (s : State) (h : Keeps s0 s) : KeepsOut s0 (execNresetHigh t bootSel auxMilliVolt s) := by
  unfold execNresetHigh
  extract_lets +onlyGivenNames x1
  have h1 : Keeps s0 x1 := ?_
  · clear_value x1
    split
    · apply KeepsOut.next
      apply State.boot_keeps
      with_reducible assumption
    · apply KeepsOut.next
      with_reducible assumption
  · subst x1
    apply State.at_keeps
    with_reducible assumption

theorem State.lockPll_keeps {s0 : State} (s : State) (a : Nat) (h : Keeps s0 s) : Keeps s0 (State.lockPll s a) := by
  have a1 := State.wr_keeps _ R.timeStatus_pll_lock 1 (Keeps.mk h : Keeps s0 { s with accBase := a, svc := { s.svc with fine := true } })
  unfold State.lockPll
  apply State.bootCheck_keeps
  dsimp only
  split
  · exact State.setThm_keeps _ _ a1
  · exact a1


theorem execPllLock_keeps {s0 : State} (t : Nat) (s : State) (h : Keeps s0 s) : KeepsOut s0 (execPllLock t s) := by
  unfold execPllLock
  extract_lets +onlyGivenNames x1
  have h1 : Keeps s0 x1 := ?_
  · clear_value x1
    split
    · apply KeepsOut.next
      apply State.lockPll_keeps
      with_reducible assumption
    · apply KeepsOut.next
      with_reducible assumption
  · subst x1
    apply State.at_keeps
    with_reducible assumption

theorem State.writeMemory_keeps {s0 : State} (s : State) (x : Section) (h : Keeps s0 s) : Keeps s0 (State.writeMemory s x) := by
  unfold State.writeMemory
  extract_lets +onlyGivenNames x1
  clear_value x1
  extract_lets +onlyGivenNames x2
  clear_value x2
  extract_lets +onlyGivenNames x3
  clear_value x3
  split
  · apply State.writeChunks_keeps
    with_reducible assumption
  · with_reducible assumption

theorem State.bootSections_keeps {s0 : State} (s : State) (h : Keeps s0 s) : Keeps s0 (State.bootSections s) := by
  unfold State.bootSections
  split
  · with_reducible assumption
  · split
    · with_reducible assumption
    · extract_lets +onlyGivenNames x5
      have h5 : Keeps s0 x5 := ?_
      · clear_value x5
        extract_lets +onlyGivenNames x6
        clear_value x6
        apply State.bootLoads_keeps
        with_reducible apply Keeps.mk
        with_reducible assumption
      · subst x5
        refine Keeps.foldl ?_ fun x10 a10 h10 => ?_
        · with_reducible assumption
        · apply State.writeMemory_keeps
          with_reducible assumption

theorem execHbmTrainingDone_keeps {s0 : State} (t : Nat) (s : State) (h : Keeps s0 s) : KeepsOut s0 (execHbmTrainingDone t s) := by
  unfold execHbmTrainingDone
  extract_lets +onlyGivenNames x1
  have h1 : Keeps s0 x1 := ?_
  · clear_value x1
    split
    · extract_lets +onlyGivenNames x3
      clear_value x3
      extract_lets +onlyGivenNames x4
      have h4 : Keeps s0 x4 := ?_
      · clear_value x4
        extract_lets +onlyGivenNames x5
        have h5 : Keeps s0 x5 := ?_
        · clear_value x5
          apply KeepsOut.next
          apply State.bootCheck_keeps
          apply State.bootSections_keeps
          with_reducible assumption
        · subst x5
          refine Keeps.foldl ?_ fun x10 a10 h10 => ?_
          · apply State.bootRecord_keeps
            with_reducible assumption
          · apply State.showSpares_keeps
            with_reducible assumption
      · subst x4
        apply State.setSvc_keeps
        with_reducible assumption
    · apply KeepsOut.next
      with_reducible assumption
  · subst x1
    apply State.at_keeps
    with_reducible assumption

theorem State.autostart_keeps {s0 : State} (s : State) (h : Keeps s0 s) : Keeps s0 (State.autostart s) := by
  unfold State.autostart
  split
  · refine Keeps.foldl ?_ fun x2 a2 h2 => ?_
    · with_reducible assumption
    · apply State.start_keeps
      apply State.wr_keeps
      with_reducible assumption
  · with_reducible assumption

theorem State.toGreen_keeps {s0 : State} (s : State) (h : Keeps s0 s) : Keeps s0 (State.toGreen s) := by
  unfold State.toGreen
  extract_lets +onlyGivenNames x1
  extract_lets +onlyGivenNames x2
  have h2 : Keeps s0 x2 := ?_
  · clear_value x2
    extract_lets +onlyGivenNames x3
    clear_value x3
    extract_lets +onlyGivenNames x4
    have h4 : Keeps s0 x4 := ?_
    · clear_value x4
      split
      · apply State.autostart_keeps
        with_reducible assumption
      · with_reducible assumption
    · subst x4
      apply State.setSvc_keeps
      with_reducible assumption
  · subst x2
    apply State.unmuteAll_keeps
    apply State.toSvc_keeps
    with_reducible assumption

theorem execEnterGreen_keeps {s0 : State} (t : Nat) (s : State) (h : Keeps s0 s) : KeepsOut s0 (execEnterGreen t s) := by
  unfold execEnterGreen
  extract_lets +onlyGivenNames x1
  have h1 : Keeps s0 x1 := ?_
  · clear_value x1
    split
    · apply KeepsOut.next
      apply State.toGreen_keeps
      with_reducible assumption
    · apply KeepsOut.next
      with_reducible assumption
  · subst x1
    apply State.at_keeps
    with_reducible assumption

theorem State.beginSleep_keeps {s0 : State} (s : State) (h : Keeps s0 s) : Keeps s0 (State.beginSleep s) := by
  unfold State.beginSleep
  extract_lets +onlyGivenNames x1
  have h1 : Keeps s0 x1 := ?_
  · clear_value x1
    extract_lets +onlyGivenNames x2
    clear_value x2
    extract_lets +onlyGivenNames x3
    have h3 : Keeps s0 x3 := ?_
    · clear_value x3
      extract_lets +onlyGivenNames x4
      have h4 : Keeps s0 x4 := ?_
      · clear_value x4
        extract_lets +onlyGivenNames x5
        have h5 : Keeps s0 x5 := ?_
        · clear_value x5
          apply State.portsDown_keeps
          apply State.abortUnits_keeps
          apply State.capService_keeps
          apply State.markLowAll_keeps
          with_reducible assumption
        · subst x5
          refine Keeps.foldl ?_ fun x11 a11 h11 => ?_
          · with_reducible assumption
          · extract_lets +onlyGivenNames x13
            have h13 : Keeps s0 x13 := ?_
            · clear_value x13
              apply State.setBias_keeps
              with_reducible assumption
            · subst x13
              apply State.fluxTo_keeps
              with_reducible assumption
      · subst x4
        refine Keeps.foldl ?_ fun x18 a18 h18 => ?_
        · with_reducible assumption
        · apply State.raiseAbort_keeps
          with_reducible assumption
    · subst x3
      apply State.cutOpen_keeps
      apply State.markAllOpen_keeps
      apply State.setSvc_keeps
      with_reducible assumption
  · subst x1
    apply State.account_keeps
    with_reducible assumption

theorem execSleepEntryComplete_keeps {s0 : State} (t : Nat) (s : State) (h : Keeps s0 s) : KeepsOut s0 (execSleepEntryComplete t s) := by
  unfold execSleepEntryComplete
  extract_lets +onlyGivenNames x1
  have h1 : Keeps s0 x1 := ?_
  · clear_value x1
    split
    · extract_lets +onlyGivenNames x3
      have h3 : Keeps s0 x3 := ?_
      · clear_value x3
        extract_lets +onlyGivenNames x4
        have h4 : Keeps s0 x4 := ?_
        · clear_value x4
          apply KeepsOut.next
          apply State.setSvc_keeps
          with_reducible assumption
        · subst x4
          apply State.wr_keeps
          with_reducible assumption
      · subst x3
        apply State.toSvc_keeps
        apply State.abortUnits_keeps
        apply State.capService_keeps
        with_reducible assumption
    · apply KeepsOut.next
      with_reducible assumption
  · subst x1
    apply State.at_keeps
    with_reducible assumption

theorem State.endWake_keeps {s0 : State} (s : State) (w : Nat) (h : Keeps s0 s) : Keeps s0 (State.endWake s w) := by
  unfold State.endWake
  extract_lets +onlyGivenNames x1
  have h1 : Keeps s0 x1 := ?_
  · clear_value x1
    extract_lets +onlyGivenNames x2
    clear_value x2
    extract_lets +onlyGivenNames x3
    have h3 : Keeps s0 x3 := ?_
    · clear_value x3
      extract_lets +onlyGivenNames x4
      clear_value x4
      extract_lets +onlyGivenNames x5
      have h5 : Keeps s0 x5 := ?_
      · clear_value x5
        split
        · apply State.toSvc_keeps
          with_reducible assumption
        · apply State.toSvc_keeps
          apply State.wr_keeps
          apply State.markLowAll_keeps
          apply State.zeroAll_keeps
          apply State.muteAll_keeps
          with_reducible assumption
      · subst x5
        apply State.setChain_keeps
        with_reducible assumption
    · subst x3
      apply State.markFreeAll_keeps
      apply State.setSvc_keeps
      with_reducible assumption
  · subst x1
    split
    · apply State.lockPll_keeps
      with_reducible assumption
    · with_reducible assumption

theorem execWakeComplete_keeps {s0 : State} (t : Nat) (s : State) (h : Keeps s0 s) : KeepsOut s0 (execWakeComplete t s) := by
  unfold execWakeComplete
  extract_lets +onlyGivenNames x1
  have h1 : Keeps s0 x1 := ?_
  · clear_value x1
    split
    · apply KeepsOut.next
      with_reducible assumption
    · split
      · apply KeepsOut.next
        apply State.endWake_keeps
        with_reducible assumption
      · apply KeepsOut.next
        with_reducible assumption
  · subst x1
    apply State.at_keeps
    with_reducible assumption

end Sys2Proof.Machine
end

