-- ==== Sys2Proof/Laws/KeepsSecurity.lean ====
section
/-! SUPPORT. What the definitions of Machine/Security.lean keep: one lemma each. -/

namespace Sys2Proof.Machine

set_option maxRecDepth 10000

theorem State.setSec_keeps {s0 : State} (s : State) (x : SecSt) (h : Keeps s0 s) : Keeps s0 (State.setSec s x) := by
  unfold State.setSec
  with_reducible apply Keeps.mk
  with_reducible assumption

theorem State.ctrReady_keeps {s0 : State} (s : State) (k : Nat) (h : Keeps s0 s) : Keeps s0 (State.ctrReady s k) := by
  unfold State.ctrReady
  split
  · apply State.eraseFlash_keeps
    with_reducible assumption
  · with_reducible assumption

theorem State.ctrAppend_keeps {s0 : State} (s : State) (c : Nat) (h : Keeps s0 s) : Keeps s0 (State.ctrAppend s c) := by
  unfold State.ctrAppend
  extract_lets +onlyGivenNames x1
  clear_value x1
  extract_lets +onlyGivenNames x2
  clear_value x2
  extract_lets +onlyGivenNames x3
  have h3 : Keeps s0 x3 := ?_
  · clear_value x3
    split
    · apply State.eraseFlash_keeps
      with_reducible assumption
    · with_reducible assumption
  · subst x3
    apply State.setLast_keeps
    apply State.putFlash_keeps
    apply State.ctrReady_keeps
    with_reducible assumption

theorem State.ctrCut_keeps {s0 : State} (s : State) (h : Keeps s0 s) : Keeps s0 (State.ctrCut s) := by
  unfold State.ctrCut
  extract_lets +onlyGivenNames x1
  clear_value x1
  extract_lets +onlyGivenNames x2
  have h2 : Keeps s0 x2.2 := ?_
  · clear_value x2
    apply State.putFlash_keeps
    with_reducible assumption
  · subst x2
    apply State.draw_keeps
    apply State.ctrReady_keeps
    with_reducible assumption

theorem State.mbRun_keeps {s0 : State} (s : State) (out : Option (Nat × List Byte)) (h : Keeps s0 s) : Keeps s0 (State.mbRun s out) := by
  unfold State.mbRun
  apply State.wr_keeps
  apply State.setSec_keeps
  with_reducible assumption

theorem State.mbRefuse_keeps {s0 : State} (s : State) (code : Nat) (h : Keeps s0 s) : Keeps s0 (State.mbRefuse s code) := by
  unfold State.mbRefuse
  apply State.mbRun_keeps
  with_reducible assumption

theorem State.mbReject_keeps {s0 : State} (s : State) (code : Nat) (h : Keeps s0 s) : Keeps s0 (State.mbReject s code) := by
  unfold State.mbReject
  apply State.mbRefuse_keeps
  apply State.setLife_keeps
  with_reducible assumption

theorem State.mailboxGo_keeps {s0 : State} (s : State) (flashOk : Bool) (h : Keeps s0 s) : Keeps s0 (State.mailboxGo s flashOk) := by
  unfold State.mailboxGo
  split
  · apply State.accFault_keeps
    with_reducible assumption
  · split
    · apply State.mbRefuse_keeps
      with_reducible assumption
    · split
      · split
        · apply State.mbRun_keeps
          with_reducible assumption
        · apply State.mbRefuse_keeps
          with_reducible assumption
      · split
        · apply State.mbReject_keeps
          with_reducible assumption
        · split
          · apply State.mbReject_keeps
            with_reducible assumption
          · split
            · apply State.mbRefuse_keeps
              with_reducible assumption
            · split
              · apply State.mbReject_keeps
                with_reducible assumption
              · split
                · apply State.mbRun_keeps
                  apply State.ctrAppend_keeps
                  with_reducible assumption
                · apply State.mbRefuse_keeps
                  apply State.ctrCut_keeps
                  with_reducible assumption

theorem execMailboxGo_keeps {s0 : State} (t : Nat) (flashOk : Bool) (s : State) (h : Keeps s0 s) : KeepsOut s0 (execMailboxGo t flashOk s) := by
  unfold execMailboxGo
  extract_lets +onlyGivenNames x1
  have h1 : Keeps s0 x1 := ?_
  · clear_value x1
    split
    · apply KeepsOut.next
      apply State.mailboxGo_keeps
      with_reducible assumption
    · apply KeepsOut.next
      with_reducible assumption
  · subst x1
    apply State.at_keeps
    with_reducible assumption

theorem State.putResp_keeps {s0 : State} (s : State) (bs : List Byte) (h : Keeps s0 s) : Keeps s0 (State.putResp s bs) := by
  unfold State.putResp
  extract_lets +onlyGivenNames x1
  clear_value x1
  extract_lets +onlyGivenNames x2
  clear_value x2
  extract_lets +onlyGivenNames x3
  have h3 : Keeps s0 x3 := ?_
  · clear_value x3
    extract_lets +onlyGivenNames x4
    have h4 : Keeps s0 x4 := ?_
    · clear_value x4
      with_reducible apply Keeps.mk
      with_reducible assumption
    · subst x4
      refine Keeps.foldl ?_ fun x7 a7 h7 => ?_
      · with_reducible assumption
      · apply State.wr_keeps
        with_reducible assumption
  · subst x3
    refine Keeps.foldl ?_ fun x11 a11 h11 => ?_
    · with_reducible assumption
    · apply State.wr_keeps
      with_reducible assumption

theorem State.mbPost_keeps {s0 : State} (s : State) (code : Nat) (resp : List Byte) (h : Keeps s0 s) : Keeps s0 (State.mbPost s code resp) := by
  unfold State.mbPost
  extract_lets +onlyGivenNames x1
  clear_value x1
  extract_lets +onlyGivenNames x2
  have h2 : Keeps s0 x2 := ?_
  · clear_value x2
    apply State.fireD_keeps
    apply State.wr_keeps
    apply State.wr_keeps
    apply State.wr_keeps
    with_reducible assumption
  · subst x2
    apply State.putResp_keeps
    apply State.setSec_keeps
    with_reducible assumption

theorem execMailboxComplete_keeps {s0 : State} (t : Nat) (s : State) (h : Keeps s0 s) : KeepsOut s0 (execMailboxComplete t s) := by
  unfold execMailboxComplete
  extract_lets +onlyGivenNames x1
  have h1 : Keeps s0 x1 := ?_
  · clear_value x1
    split
    · apply KeepsOut.next
      with_reducible assumption
    · split
      · apply KeepsOut.next
        apply State.mbPost_keeps
        with_reducible assumption
      · split
        · apply KeepsOut.next
          apply State.mbPost_keeps
          with_reducible assumption
        · apply KeepsOut.next
          with_reducible assumption
  · subst x1
    apply State.at_keeps
    with_reducible assumption

theorem State.mbDone_keeps {s0 : State} (s : State) (code : Nat) (resp : List Byte) (h : Keeps s0 s) : Keeps s0 (State.mbDone s code resp) := by
  unfold State.mbDone
  apply State.setSec_keeps
  with_reducible assumption

theorem State.mbDo_keeps {s0 : State} (s : State) (r : Nat × State) (h : Keeps s0 r.2) : Keeps s0 (s.mbDo r) :=
  State.mbDone_keeps _ _ _ h


theorem State.imageSwitch_keeps {s0 : State} (s : State) (slot : Nat) (x : Nat) (h : Keeps s0 s) : Keeps s0 (State.imageSwitch s slot x).2 := by
  unfold State.imageSwitch
  split
  · apply Keeps.mk2
    with_reducible assumption
  · split
    · apply Keeps.mk2
      with_reducible assumption
    · split
      · apply Keeps.mk2
        with_reducible assumption
      · split
        · apply Keeps.mk2
          with_reducible assumption
        · split
          · apply Keeps.mk2
            with_reducible assumption
          · extract_lets +onlyGivenNames x16
            have h16 : Keeps s0 x16 := ?_
            · clear_value x16
              extract_lets +onlyGivenNames x17
              clear_value x17
              extract_lets +onlyGivenNames x18
              have h18 : Keeps s0 x18 := ?_
              · clear_value x18
                extract_lets +onlyGivenNames x19
                clear_value x19
                extract_lets +onlyGivenNames x20
                have h20 : Keeps s0 x20 := ?_
                · clear_value x20
                  apply Keeps.mk2
                  apply State.wr_keeps
                  with_reducible assumption
                · subst x20
                  apply State.setSec_keeps
                  with_reducible assumption
              · subst x18
                apply State.setTxn_keeps
                with_reducible assumption
            · subst x16
              refine Keeps.foldl ?_ fun x28 a28 h28 => ?_
              · with_reducible assumption
              · apply State.addEntry_keeps
                with_reducible assumption

theorem execImageSwitch_keeps {s0 : State} (t : Nat) (s : State) (h : Keeps s0 s) : KeepsOut s0 (execImageSwitch t s) := by
  unfold execImageSwitch
  extract_lets +onlyGivenNames x1
  have h1 : Keeps s0 x1 := ?_
  · clear_value x1
    split
    · apply KeepsOut.next
      apply State.mbDo_keeps
      apply State.imageSwitch_keeps
      with_reducible assumption
    · apply KeepsOut.next
      with_reducible assumption
  · subst x1
    apply State.at_keeps
    with_reducible assumption

theorem State.keyChange_keeps {s0 : State} (s : State) (h : Keeps s0 s) : Keeps s0 (State.keyChange s).2 := by
  unfold State.keyChange
  extract_lets +onlyGivenNames x1
  clear_value x1
  split
  · apply Keeps.mk2
    with_reducible assumption
  · extract_lets +onlyGivenNames x5
    clear_value x5
    extract_lets +onlyGivenNames x6
    clear_value x6
    extract_lets +onlyGivenNames x7
    clear_value x7
    extract_lets +onlyGivenNames x8
    have h8 : Keeps s0 x8 := ?_
    · clear_value x8
      apply Keeps.mk2
      apply State.loadKey_keeps
      with_reducible assumption
    · subst x8
      apply State.setSec_keeps
      with_reducible assumption

theorem execKeyChange_keeps {s0 : State} (t : Nat) (s : State) (h : Keeps s0 s) : KeepsOut s0 (execKeyChange t s) := by
  unfold execKeyChange
  extract_lets +onlyGivenNames x1
  have h1 : Keeps s0 x1 := ?_
  · clear_value x1
    split
    · apply KeepsOut.next
      apply State.mbDo_keeps
      apply State.keyChange_keeps
      with_reducible assumption
    · apply KeepsOut.next
      with_reducible assumption
  · subst x1
    apply State.at_keeps
    with_reducible assumption

theorem execCalStore_keeps {s0 : State} (t : Nat) (s : State) (h : Keeps s0 s) : KeepsOut s0 (execCalStore t s) := by
  unfold execCalStore
  extract_lets +onlyGivenNames x1
  have h1 : Keeps s0 x1 := ?_
  · clear_value x1
    split
    · apply KeepsOut.next
      apply State.mbDo_keeps
      apply Keeps.mk2
      apply State.calStore_keeps
      with_reducible assumption
    · apply KeepsOut.next
      with_reducible assumption
  · subst x1
    apply State.at_keeps
    with_reducible assumption

theorem execChainJoin_keeps {s0 : State} (t : Nat) (s : State) (h : Keeps s0 s) : KeepsOut s0 (execChainJoin t s) := by
  unfold execChainJoin
  extract_lets +onlyGivenNames x1
  have h1 : Keeps s0 x1 := ?_
  · clear_value x1
    split
    · apply KeepsOut.next
      apply State.mbDo_keeps
      apply State.chainJoin_keeps
      with_reducible assumption
    · apply KeepsOut.next
      with_reducible assumption
  · subst x1
    apply State.at_keeps
    with_reducible assumption

theorem execChainLeave_keeps {s0 : State} (t : Nat) (s : State) (h : Keeps s0 s) : KeepsOut s0 (execChainLeave t s) := by
  unfold execChainLeave
  extract_lets +onlyGivenNames x1
  have h1 : Keeps s0 x1 := ?_
  · clear_value x1
    split
    · apply KeepsOut.next
      apply State.mbDo_keeps
      apply State.chainLeave_keeps
      with_reducible assumption
    · apply KeepsOut.next
      with_reducible assumption
  · subst x1
    apply State.at_keeps
    with_reducible assumption

theorem State.outputEnable_keeps {s0 : State} (s : State) (h : Keeps s0 s) : Keeps s0 (State.outputEnable s) := by
  unfold State.outputEnable
  split
  · apply State.enabledLoad_keeps
    apply State.setOe_keeps
    with_reducible assumption
  · apply State.setOe_keeps
    with_reducible assumption

theorem execOutputEnable_keeps {s0 : State} (t : Nat) (s : State) (h : Keeps s0 s) : KeepsOut s0 (execOutputEnable t s) := by
  unfold execOutputEnable
  extract_lets +onlyGivenNames x1
  have h1 : Keeps s0 x1 := ?_
  · clear_value x1
    split
    · apply KeepsOut.next
      apply State.mbDo_keeps
      apply Keeps.mk2
      apply State.outputEnable_keeps
      with_reducible assumption
    · apply KeepsOut.next
      with_reducible assumption
  · subst x1
    apply State.at_keeps
    with_reducible assumption

theorem execSleep_keeps {s0 : State} (t : Nat) (s : State) (h : Keeps s0 s) : KeepsOut s0 (execSleep t s) := by
  unfold execSleep
  extract_lets +onlyGivenNames x1
  have h1 : Keeps s0 x1 := ?_
  · clear_value x1
    split
    · extract_lets +onlyGivenNames x3
      have h3 : Keeps s0 x3 := ?_
      · clear_value x3
        apply KeepsOut.next
        split
        · with_reducible assumption
        · apply State.beginSleep_keeps
          with_reducible assumption
      · subst x3
        apply State.mbPost_keeps
        with_reducible assumption
    · apply KeepsOut.next
      with_reducible assumption
  · subst x1
    apply State.at_keeps
    with_reducible assumption

theorem State.fuseMinVersion_keeps {s0 : State} (s : State) (v : Nat) (h : Keeps s0 s) : Keeps s0 (State.fuseMinVersion s v).2 := by
  unfold State.fuseMinVersion
  split
  · apply Keeps.mk2
    with_reducible assumption
  · apply Keeps.mk2
    apply State.showFuses_keeps
    apply State.setSec_keeps
    with_reducible assumption

theorem execFuseMinVersion_keeps {s0 : State} (t : Nat) (s : State) (h : Keeps s0 s) : KeepsOut s0 (execFuseMinVersion t s) := by
  unfold execFuseMinVersion
  extract_lets +onlyGivenNames x1
  have h1 : Keeps s0 x1 := ?_
  · clear_value x1
    split
    · apply KeepsOut.next
      apply State.mbDo_keeps
      apply State.fuseMinVersion_keeps
      with_reducible assumption
    · apply KeepsOut.next
      with_reducible assumption
  · subst x1
    apply State.at_keeps
    with_reducible assumption

theorem State.fuseOwnerKey_keeps {s0 : State} (s : State) (k : Nat) (hash : Nat) (h : Keeps s0 s) : Keeps s0 (State.fuseOwnerKey s k hash).2 := by
  unfold State.fuseOwnerKey
  split
  · apply Keeps.mk2
    with_reducible assumption
  · apply Keeps.mk2
    apply State.showFuses_keeps
    apply State.setSec_keeps
    with_reducible assumption

theorem execFuseOwnerKey_keeps {s0 : State} (t : Nat) (s : State) (h : Keeps s0 s) : KeepsOut s0 (execFuseOwnerKey t s) := by
  unfold execFuseOwnerKey
  extract_lets +onlyGivenNames x1
  have h1 : Keeps s0 x1 := ?_
  · clear_value x1
    split
    · apply KeepsOut.next
      apply State.mbDo_keeps
      apply State.fuseOwnerKey_keeps
      with_reducible assumption
    · apply KeepsOut.next
      with_reducible assumption
  · subst x1
    apply State.at_keeps
    with_reducible assumption

theorem State.fuseRevoke_keeps {s0 : State} (s : State) (k : Nat) (h : Keeps s0 s) : Keeps s0 (State.fuseRevoke s k).2 := by
  unfold State.fuseRevoke
  split
  · apply Keeps.mk2
    with_reducible assumption
  · apply Keeps.mk2
    apply State.showFuses_keeps
    apply State.setSec_keeps
    with_reducible assumption

theorem execFuseRevoke_keeps {s0 : State} (t : Nat) (s : State) (h : Keeps s0 s) : KeepsOut s0 (execFuseRevoke t s) := by
  unfold execFuseRevoke
  extract_lets +onlyGivenNames x1
  have h1 : Keeps s0 x1 := ?_
  · clear_value x1
    split
    · apply KeepsOut.next
      apply State.mbDo_keeps
      apply State.fuseRevoke_keeps
      with_reducible assumption
    · apply KeepsOut.next
      with_reducible assumption
  · subst x1
    apply State.at_keeps
    with_reducible assumption

theorem execAttest_keeps {s0 : State} (t : Nat) (s : State) (h : Keeps s0 s) : KeepsOut s0 (execAttest t s) := by
  unfold execAttest
  extract_lets +onlyGivenNames x1
  have h1 : Keeps s0 x1 := ?_
  · clear_value x1
    split
    · apply KeepsOut.next
      apply State.mbDone_keeps
      with_reducible assumption
    · apply KeepsOut.next
      with_reducible assumption
  · subst x1
    apply State.at_keeps
    with_reducible assumption

theorem State.flBegin_keeps {s0 : State} (s : State) (op : Nat) (h : Keeps s0 s) : Keeps s0 (State.flBegin s op) := by
  unfold State.flBegin
  apply State.wr_keeps
  apply State.setSec_keeps
  with_reducible assumption

theorem State.flErase_keeps {s0 : State} (s : State) (h : Keeps s0 s) : Keeps s0 (State.flErase s) := by
  unfold State.flErase
  split
  · apply State.wr_keeps
    with_reducible assumption
  · apply State.flBegin_keeps
    apply State.eraseFlash_keeps
    with_reducible assumption

theorem State.flProg_keeps {s0 : State} (s : State) (h : Keeps s0 s) : Keeps s0 (State.flProg s) := by
  unfold State.flProg
  split
  · apply State.wr_keeps
    with_reducible assumption
  · apply State.flBegin_keeps
    apply State.putFlash_keeps
    with_reducible assumption

theorem State.flRead_keeps {s0 : State} (s : State) (h : Keeps s0 s) : Keeps s0 (State.flRead s) := by
  unfold State.flRead
  split
  · apply State.wr_keeps
    with_reducible assumption
  · extract_lets +onlyGivenNames x4
    clear_value x4
    apply State.flBegin_keeps
    refine Keeps.foldl ?_ fun x6 a6 h6 => ?_
    · with_reducible assumption
    · apply State.wr_keeps
      with_reducible assumption

theorem execFlashErase_keeps {s0 : State} (t : Nat) (s : State) (h : Keeps s0 s) : KeepsOut s0 (execFlashErase t s) := by
  unfold execFlashErase
  extract_lets +onlyGivenNames x1
  have h1 : Keeps s0 x1 := ?_
  · clear_value x1
    split
    · apply KeepsOut.next
      apply State.flErase_keeps
      with_reducible assumption
    · apply KeepsOut.next
      with_reducible assumption
  · subst x1
    apply State.at_keeps
    with_reducible assumption

theorem execFlashProg_keeps {s0 : State} (t : Nat) (s : State) (h : Keeps s0 s) : KeepsOut s0 (execFlashProg t s) := by
  unfold execFlashProg
  extract_lets +onlyGivenNames x1
  have h1 : Keeps s0 x1 := ?_
  · clear_value x1
    split
    · apply KeepsOut.next
      apply State.flProg_keeps
      with_reducible assumption
    · apply KeepsOut.next
      with_reducible assumption
  · subst x1
    apply State.at_keeps
    with_reducible assumption

theorem execFlashRead_keeps {s0 : State} (t : Nat) (s : State) (h : Keeps s0 s) : KeepsOut s0 (execFlashRead t s) := by
  unfold execFlashRead
  extract_lets +onlyGivenNames x1
  have h1 : Keeps s0 x1 := ?_
  · clear_value x1
    split
    · apply KeepsOut.next
      apply State.flRead_keeps
      with_reducible assumption
    · apply KeepsOut.next
      with_reducible assumption
  · subst x1
    apply State.at_keeps
    with_reducible assumption

theorem execFlashOpComplete_keeps {s0 : State} (t : Nat) (s : State) (h : Keeps s0 s) : KeepsOut s0 (execFlashOpComplete t s) := by
  unfold execFlashOpComplete
  extract_lets +onlyGivenNames x1
  have h1 : Keeps s0 x1 := ?_
  · clear_value x1
    split
    · apply KeepsOut.next
      apply State.wr_keeps
      apply State.wr_keeps
      apply State.setSec_keeps
      with_reducible assumption
    · apply KeepsOut.next
      with_reducible assumption
  · subst x1
    apply State.at_keeps
    with_reducible assumption

end Sys2Proof.Machine
end

