-- ==== Sys2Proof/Laws/KeepsHostBus.lean ====
section
/-! SUPPORT. What the definitions of Machine/HostBus.lean keep: one lemma each. -/

namespace Sys2Proof.Machine

set_option maxRecDepth 10000

theorem State.setWin_keeps {s0 : State} (s : State) (k : Nat) (x : WinSt) (h : Keeps s0 s) : Keeps s0 (State.setWin s k x) := by
  unfold State.setWin
  with_reducible apply Keeps.mk
  with_reducible assumption

theorem State.winFetch_keeps {s0 : State} (s : State) (k : Nat) (h : Keeps s0 s) : Keeps s0 (State.winFetch s k) := by
  unfold State.winFetch
  apply State.setWin_keeps
  apply State.wr_keeps
  with_reducible assumption

theorem State.winFail_keeps {s0 : State} (s : State) (k : Nat) (code : Nat) (from' : Nat) (h : Keeps s0 s) : Keeps s0 (State.winFail s k code from') := by
  unfold State.winFail
  apply State.accFault_keeps
  apply State.wr_keeps
  with_reducible assumption

theorem State.winCount_keeps {s0 : State} (s : State) (k : Nat) (inc : Fld) (h : Keeps s0 s) : Keeps s0 (State.winCount s k inc) := by
  unfold State.winCount
  split
  · apply State.winFetch_keeps
    apply State.wr_keeps
    with_reducible assumption
  · with_reducible assumption

theorem State.xdataRead_keeps {s0 : State} (s : State) (k : Nat) (from' : Nat) (h : Keeps s0 s) : Keeps s0 (State.xdataRead s k from').2 := by
  unfold State.xdataRead
  split
  · apply Keeps.mk2
    apply State.winFail_keeps
    with_reducible assumption
  · split
    · apply Keeps.mk2
      apply State.winCount_keeps
      apply State.winFail_keeps
      with_reducible assumption
    · apply Keeps.mk2
      apply State.winCount_keeps
      with_reducible assumption

theorem State.xdataWrite_keeps {s0 : State} (s : State) (k : Nat) (data : Nat) (from' : Nat) (h : Keeps s0 s) : Keeps s0 (State.xdataWrite s k data from') := by
  unfold State.xdataWrite
  extract_lets +onlyGivenNames x1
  clear_value x1
  extract_lets +onlyGivenNames x2
  clear_value x2
  split
  · apply State.winFail_keeps
    with_reducible assumption
  · split
    · apply State.winCount_keeps
      apply State.winFail_keeps
      with_reducible assumption
    · extract_lets +onlyGivenNames x10
      have h10 : Keeps s0 x10 := ?_
      · clear_value x10
        split
        · apply State.winCount_keeps
          with_reducible assumption
        · apply State.wr_keeps
          with_reducible assumption
      · subst x10
        apply State.wr_keeps
        apply State.setWin_keeps
        with_reducible assumption

theorem State.beforeRead_keeps {s0 : State} (s : State) (w : WordRef) (h : Keeps s0 s) : Keeps s0 (State.beforeRead s w) := by
  unfold State.beforeRead
  extract_lets +onlyGivenNames x1
  clear_value x1
  split
  · split
    · with_reducible apply Keeps.mk
      with_reducible assumption
    · with_reducible assumption
  · split
    · with_reducible apply Keeps.mk
      with_reducible assumption
    · split
      · with_reducible apply Keeps.mk
        with_reducible assumption
      · with_reducible assumption
  · split
    · with_reducible apply Keeps.mk
      with_reducible assumption
    · split
      · extract_lets +onlyGivenNames x18
        clear_value x18
        apply State.setUnit_keeps
        with_reducible apply Keeps.mk
        with_reducible assumption
      · split
        · apply State.cdSettle_keeps
          with_reducible assumption
        · with_reducible assumption
  · split
    · apply State.captureCalendar_keeps
      with_reducible assumption
    · split
      · apply State.account_keeps
        with_reducible assumption
      · with_reducible assumption
  · split
    · apply State.settleNow_keeps
      with_reducible assumption
    · split
      · apply State.biasNow_keeps
        with_reducible assumption
      · split
        · apply State.markRun_keeps
          with_reducible assumption
        · with_reducible assumption
  · split
    · apply State.judgeNbr_keeps
      with_reducible assumption
    · with_reducible assumption
  · apply State.capSettleAll_keeps
    with_reducible assumption
  · apply State.capSettleAll_keeps
    with_reducible assumption
  · with_reducible assumption
  · with_reducible assumption
  · with_reducible assumption
  · with_reducible assumption
  · with_reducible assumption
  · with_reducible assumption
  · with_reducible assumption
  · with_reducible assumption
  · with_reducible assumption

theorem State.clearRc_keeps {s0 : State} (s : State) (w : WordRef) (mask : Nat) (again : Nat) (h : Keeps s0 s) : Keeps s0 (State.clearRc s w mask again) := by
  unfold State.clearRc
  extract_lets +onlyGivenNames x1
  have h1 : Keeps s0 x1 := ?_
  · clear_value x1
    split
    · apply State.showAlert_keeps
      with_reducible assumption
    · split
      · apply State.setF_keeps
        with_reducible assumption
      · with_reducible assumption
  · subst x1
    refine Keeps.foldl ?_ fun x9 a9 h9 => ?_
    · with_reducible assumption
    · split
      · extract_lets +onlyGivenNames x12
        clear_value x12
        extract_lets +onlyGivenNames x13
        clear_value x13
        apply State.wr_keeps
        with_reducible assumption
      · with_reducible assumption

theorem State.readWord_keeps {s0 : State} (s : State) (a : Nat) (mask : Nat) (done : Bool) (again : Nat) (from' : Nat) (h : Keeps s0 s) : Keeps s0 (State.readWord s a mask done again from').2 := by
  unfold State.readWord
  split
  · apply Keeps.mk2
    apply State.accFault_keeps
    with_reducible assumption
  · apply Keeps.mk2
    apply State.accFault_keeps
    with_reducible assumption
  · apply Keeps.mk2
    with_reducible assumption
  · split
    · split
      · apply State.xdataRead_keeps
        with_reducible assumption
      · apply Keeps.mk2
        with_reducible assumption
    · extract_lets +onlyGivenNames x16
      have h16 : Keeps s0 x16 := ?_
      · clear_value x16
        apply Keeps.mk2
        split
        · apply State.clearRc_keeps
          with_reducible assumption
        · with_reducible assumption
      · subst x16
        apply State.beforeRead_keeps
        with_reducible assumption

theorem readBit_keeps {s0 : State} {b : Nat} {r : Nat × State} (h : Keeps s0 r.2) : Keeps s0 (readBit b r).2 := h


theorem State.readAt_keeps {s0 : State} (s : State) (a : Nat) (done : Bool) (again : Nat) (h : Keeps s0 s) : Keeps s0 (State.readAt s a done again).2 := by
  have k : ∀ w m n f, Keeps s0 (s.readWord w m done n f).2 := fun w m n f => State.readWord_keeps _ _ _ _ _ _ h
  rw [State.readAt]
  by_cases ha : a % 4 ≠ 0
  · rw [if_pos ha]
    exact Keeps.mk2 (State.accFault_keeps _ _ _ h)
  · rw [if_neg ha]
    cases isAlias a
    · rw [if_neg Bool.false_ne_true]
      exact k _ _ _ _
    · rw [if_pos rfl]
      exact readBit_keeps (k _ _ _ _)


theorem State.command_keeps {s0 : State} (s : State) (w : WordRef) (lo : Nat) (h : Keeps s0 s) : Keeps s0 (State.command s w lo) := by
  unfold State.command
  extract_lets +onlyGivenNames x1
  clear_value x1
  extract_lets +onlyGivenNames x2
  clear_value x2
  split
  · split
    · apply State.updateStrobe_keeps
      with_reducible assumption
    · split
      · split
        · apply State.updateAtArm_keeps
          with_reducible assumption
        · apply State.updateAtCancel_keeps
          with_reducible assumption
      · apply State.slotClear_keeps
        with_reducible assumption
  · apply State.mailboxGo_keeps
    apply State.draw_keeps
    with_reducible assumption
  · split
    · apply State.mapApply_keeps
      with_reducible assumption
    · apply State.hostReq_keeps
      with_reducible assumption
  · split
    · apply State.retrain_keeps
      with_reducible assumption
    · split
      · apply State.laneSlip_keeps
        apply State.draw_keeps
        with_reducible assumption
      · split
        · apply State.negGo_keeps
          with_reducible assumption
        · split
          · apply State.lqPush_keeps
            with_reducible assumption
          · apply State.rxPop_keeps
            with_reducible assumption
  · apply State.mcal_keeps
    with_reducible assumption
  · split
    · split
      · apply State.start_keeps
        with_reducible assumption
      · split
        · apply State.resume_keeps
          with_reducible assumption
        · split
          · apply State.abortCmd_keeps
            with_reducible assumption
          · split
            · apply State.shotAbort_keeps
              with_reducible assumption
            · split
              · apply State.quiet_keeps
                with_reducible assumption
              · apply State.iclr_keeps
                with_reducible assumption
    · split
      · split
        · apply State.biasLoadCmd_keeps
          with_reducible assumption
        · apply State.tripClr_keeps
          with_reducible assumption
      · split
        · apply State.markForce_keeps
          with_reducible assumption
        · split
          · apply State.cellJump_keeps
            with_reducible assumption
          · apply State.clipClr_keeps
            apply State.settleNow_keeps
            with_reducible assumption
  · split
    · apply State.swarmGo_keeps
      with_reducible assumption
    · split
      · apply State.txnOpen_keeps
        with_reducible assumption
      · split
        · apply State.txnStage_keeps
          with_reducible assumption
        · split
          · apply State.txnCommit_keeps
            with_reducible assumption
          · apply State.txnAbort_keeps
            with_reducible assumption
  · split
    · apply State.capArm_keeps
      with_reducible assumption
    · split
      · apply State.capStop_keeps
        with_reducible assumption
      · apply State.capForce_keeps
        with_reducible assumption
  · split
    · apply State.cdRun_keeps
      with_reducible assumption
    · split
      · apply State.measGo_keeps
        with_reducible assumption
      · apply State.stopUnit_keeps
        with_reducible assumption
  · apply State.wagFire_keeps
    with_reducible assumption
  · apply State.accClear_keeps
    with_reducible assumption
  · split
    · apply State.calRun_keeps
      with_reducible assumption
    · apply State.lifeRd_keeps
      with_reducible assumption
  · split
    · apply State.flErase_keeps
      with_reducible assumption
    · split
      · apply State.flProg_keeps
        with_reducible assumption
      · apply State.flRead_keeps
        with_reducible assumption
  · with_reducible assumption
  · with_reducible assumption
  · with_reducible assumption
  · with_reducible assumption

theorem State.putField_keeps {s0 : State} (s : State) (w : WordRef) (f : FieldDef) (v : Nat) (h : Keeps s0 s) : Keeps s0 (State.putField s w f v) := by
  unfold State.putField
  split
  · split
    · apply State.bankLo_keeps
      with_reducible assumption
    · apply State.bankHi_keeps
      with_reducible assumption
  · split
    · extract_lets +onlyGivenNames x8
      have h8 : Keeps s0 x8 := ?_
      · clear_value x8
        split
        · apply State.biasStageWrite_keeps
          with_reducible assumption
        · split
          · split
            · apply State.winFetch_keeps
              with_reducible assumption
            · with_reducible assumption
          · with_reducible assumption
      · subst x8
        apply State.putRw_keeps
        with_reducible assumption
    · apply State.putRw_keeps
      with_reducible assumption
    · apply State.putShadow_keeps
      with_reducible assumption
    · with_reducible assumption
    · with_reducible assumption
    · with_reducible assumption

theorem State.commands_keeps {s0 : State} (s : State) (w : WordRef) (data : Nat) (h : Keeps s0 s) : Keeps s0 (State.commands s w data) := by
  unfold State.commands
  split
  · apply State.updateStrobe_keeps
    with_reducible assumption
  · split
    · with_reducible assumption
    · split
      · with_reducible assumption
      · apply State.command_keeps
        with_reducible assumption
    · apply State.wr_keeps
      with_reducible assumption

theorem State.putWord_keeps {s0 : State} (s : State) (w : WordRef) (data : Nat) (h : Keeps s0 s) : Keeps s0 (State.putWord s w data) := by
  unfold State.putWord
  split
  · apply State.xdataWrite_keeps
    with_reducible assumption
  · apply State.commands_keeps
    refine Keeps.foldl ?_ fun x5 a5 h5 => ?_
    · with_reducible assumption
    · apply State.putField_keeps
      with_reducible assumption

theorem State.putBit_keeps {s0 : State} (s : State) (w : WordRef) (b : Nat) (v : Nat) (from' : Nat) (h : Keeps s0 s) : Keeps s0 (State.putBit s w b v from') := by
  unfold State.putBit
  split
  · with_reducible assumption
  · split
    · split
      · with_reducible assumption
      · split
        · apply State.updateStrobe_keeps
          with_reducible assumption
        · apply State.command_keeps
          with_reducible assumption
    · extract_lets +onlyGivenNames x11
      clear_value x11
      extract_lets +onlyGivenNames x12
      clear_value x12
      extract_lets +onlyGivenNames x13
      clear_value x13
      split
      · apply State.xdataWrite_keeps
        with_reducible assumption
      · apply State.putField_keeps
        with_reducible assumption

theorem State.writeTo_keeps {s0 : State} (s : State) (a from' : Nat) (put : State → WordRef → State) (h : Keeps s0 s)
    (k : ∀ s w, Keeps s0 s → Keeps s0 (put s w)) : Keeps s0 (State.writeTo s a from' put) := by
  unfold State.writeTo
  split
  · exact State.accFault_keeps _ _ _ h
  · exact State.accFault_keeps _ _ _ h
  · exact State.accFault_keeps _ _ _ h
  · split
    · exact State.accFault_keeps _ _ _ h
    · exact k _ _ h


theorem State.writeAt_keeps {s0 : State} (s : State) (a : Nat) (data : Nat) (h : Keeps s0 s) : Keeps s0 (State.writeAt s a data) := by
  unfold State.writeAt
  split
  · apply State.accFault_keeps
    with_reducible assumption
  · split
    · apply State.writeTo_keeps
      · with_reducible assumption
      · intro y7_0 y7_1 y7_2
        apply State.putBit_keeps
        with_reducible assumption
    · apply State.writeTo_keeps
      · with_reducible assumption
      · intro y12_0 y12_1 y12_2
        apply State.putWord_keeps
        with_reducible assumption

theorem State.answerBytes_keeps {s0 : State} (s : State) (bs : List Byte) (h : Keeps s0 s) : Keeps s0 (State.answerBytes s bs) := by
  unfold State.answerBytes
  apply State.setI3c_keeps
  with_reducible assumption

theorem State.answerWord_keeps {s0 : State} {r : Nat × State} (h : Keeps s0 r.2) : Keeps s0 (State.answerWord r) :=
  State.answerBytes_keeps _ _ h


theorem execRegisterWrite_keeps {s0 : State} (t : Nat) (addr : Nat) (data : Nat) (s : State) (h : Keeps s0 s) : KeepsOut s0 (execRegisterWrite t addr data s) := by
  unfold execRegisterWrite
  extract_lets +onlyGivenNames x1
  have h1 : Keeps s0 x1 := ?_
  · clear_value x1
    split
    · apply KeepsOut.next
      apply State.writeAt_keeps
      with_reducible assumption
    · apply KeepsOut.next
      with_reducible assumption
  · subst x1
    apply State.at_keeps
    with_reducible assumption

theorem State.answerRead_keeps {s0 : State} {a : Nat} {r : Nat × State} (h : Keeps s0 r.2) : Keeps s0 (State.answerRead a r) := by
  unfold State.answerRead
  split
  · exact State.answerWord_keeps h
  · exact State.answerBytes_keeps _ _ h


theorem execClearOnRead_keeps {s0 : State} (t : Nat) (addr : Nat) (done : Bool) (again : Nat) (s : State) (h : Keeps s0 s) : KeepsOut s0 (execClearOnRead t addr done again s) := by
  unfold execClearOnRead
  extract_lets +onlyGivenNames x1
  have h1 : Keeps s0 x1 := ?_
  · clear_value x1
    split
    · apply KeepsOut.next
      apply State.answerRead_keeps
      apply State.readAt_keeps
      with_reducible assumption
    · apply KeepsOut.next
      with_reducible assumption
  · subst x1
    apply State.at_keeps
    with_reducible assumption

theorem execBitAliasWrite_keeps {s0 : State} (t : Nat) (addr : Nat) (data : Nat) (s : State) (h : Keeps s0 s) : KeepsOut s0 (execBitAliasWrite t addr data s) := by
  unfold execBitAliasWrite
  extract_lets +onlyGivenNames x1
  have h1 : Keeps s0 x1 := ?_
  · clear_value x1
    split
    · apply KeepsOut.next
      apply State.writeAt_keeps
      with_reducible assumption
    · apply KeepsOut.next
      with_reducible assumption
  · subst x1
    apply State.at_keeps
    with_reducible assumption

theorem State.lockWrite_keeps {s0 : State} (s : State) (a : Nat) (v : Nat) (from' : Nat) (data : Nat) (h : Keeps s0 s) : Keeps s0 (State.lockWrite s a v from' data) := by
  unfold State.lockWrite
  split
  · apply State.writeAt_keeps
    with_reducible assumption
  · with_reducible apply Keeps.mk
    with_reducible assumption

theorem execLockWrite_keeps {s0 : State} (t : Nat) (addr : Nat) (data : Nat) (s : State) (h : Keeps s0 s) : KeepsOut s0 (execLockWrite t addr data s) := by
  unfold execLockWrite
  extract_lets +onlyGivenNames x1
  have h1 : Keeps s0 x1 := ?_
  · clear_value x1
    split
    · apply KeepsOut.next
      with_reducible assumption
    · split
      · apply KeepsOut.next
        apply State.lockWrite_keeps
        with_reducible assumption
      · apply KeepsOut.next
        apply State.lockWrite_keeps
        with_reducible assumption
  · subst x1
    apply State.at_keeps
    with_reducible assumption

theorem execDialRead_keeps {s0 : State} (t : Nat) (s : State) (h : Keeps s0 s) : KeepsOut s0 (execDialRead t s) := by
  unfold execDialRead
  extract_lets +onlyGivenNames x1
  have h1 : Keeps s0 x1 := ?_
  · clear_value x1
    split
    · apply KeepsOut.next
      apply State.answerWord_keeps
      apply State.readAt_keeps
      with_reducible assumption
    · apply KeepsOut.next
      with_reducible assumption
  · subst x1
    apply State.at_keeps
    with_reducible assumption

theorem execSlotPairRead_keeps {s0 : State} (t : Nat) (addr : Nat) (s : State) (h : Keeps s0 s) : KeepsOut s0 (execSlotPairRead t addr s) := by
  unfold execSlotPairRead
  extract_lets +onlyGivenNames x1
  have h1 : Keeps s0 x1 := ?_
  · clear_value x1
    split
    · apply KeepsOut.next
      apply State.answerWord_keeps
      apply State.readAt_keeps
      with_reducible assumption
    · apply KeepsOut.next
      with_reducible assumption
  · subst x1
    apply State.at_keeps
    with_reducible assumption

theorem execStampLastRead_keeps {s0 : State} (t : Nat) (input : Nat) (s : State) (h : Keeps s0 s) : KeepsOut s0 (execStampLastRead t input s) := by
  unfold execStampLastRead
  extract_lets +onlyGivenNames x1
  have h1 : Keeps s0 x1 := ?_
  · clear_value x1
    split
    · apply KeepsOut.next
      apply State.answerWord_keeps
      apply State.readAt_keeps
      with_reducible assumption
    · apply KeepsOut.next
      with_reducible assumption
  · subst x1
    apply State.at_keeps
    with_reducible assumption

theorem execMeasurementResultRead_keeps {s0 : State} (t : Nat) (unit : Nat) (s : State) (h : Keeps s0 s) : KeepsOut s0 (execMeasurementResultRead t unit s) := by
  unfold execMeasurementResultRead
  extract_lets +onlyGivenNames x1
  have h1 : Keeps s0 x1 := ?_
  · clear_value x1
    split
    · apply KeepsOut.next
      apply State.answerWord_keeps
      apply State.readAt_keeps
      with_reducible assumption
    · apply KeepsOut.next
      with_reducible assumption
  · subst x1
    apply State.at_keeps
    with_reducible assumption

theorem execXaddrWrite_keeps {s0 : State} (t : Nat) (window : Nat) (xaddr : Nat) (s : State) (h : Keeps s0 s) : KeepsOut s0 (execXaddrWrite t window xaddr s) := by
  unfold execXaddrWrite
  extract_lets +onlyGivenNames x1
  have h1 : Keeps s0 x1 := ?_
  · clear_value x1
    split
    · apply KeepsOut.next
      apply State.writeAt_keeps
      with_reducible assumption
    · apply KeepsOut.next
      with_reducible assumption
  · subst x1
    apply State.at_keeps
    with_reducible assumption

theorem execPrefetchComplete_keeps {s0 : State} (t : Nat) (window : Nat) (s : State) (h : Keeps s0 s) : KeepsOut s0 (execPrefetchComplete t window s) := by
  unfold execPrefetchComplete
  extract_lets +onlyGivenNames x1
  have h1 : Keeps s0 x1 := ?_
  · clear_value x1
    extract_lets +onlyGivenNames x2
    clear_value x2
    extract_lets +onlyGivenNames x3
    clear_value x3
    split
    · extract_lets +onlyGivenNames x5
      clear_value x5
      apply KeepsOut.next
      apply State.wr_keeps
      apply State.wr_keeps
      apply State.setWin_keeps
      with_reducible assumption
    · apply KeepsOut.next
      with_reducible assumption
  · subst x1
    apply State.at_keeps
    with_reducible assumption

theorem execXdataRead_keeps {s0 : State} (t : Nat) (window : Nat) (s : State) (h : Keeps s0 s) : KeepsOut s0 (execXdataRead t window s) := by
  unfold execXdataRead
  extract_lets +onlyGivenNames x1
  have h1 : Keeps s0 x1 := ?_
  · clear_value x1
    split
    · apply KeepsOut.next
      apply State.answerWord_keeps
      apply State.readAt_keeps
      with_reducible assumption
    · apply KeepsOut.next
      with_reducible assumption
  · subst x1
    apply State.at_keeps
    with_reducible assumption

theorem execXdataWrite_keeps {s0 : State} (t : Nat) (window : Nat) (data : Nat) (s : State) (h : Keeps s0 s) : KeepsOut s0 (execXdataWrite t window data s) := by
  unfold execXdataWrite
  extract_lets +onlyGivenNames x1
  have h1 : Keeps s0 x1 := ?_
  · clear_value x1
    split
    · apply KeepsOut.next
      apply State.writeAt_keeps
      with_reducible assumption
    · apply KeepsOut.next
      with_reducible assumption
  · subst x1
    apply State.at_keeps
    with_reducible assumption

theorem State.putPosted_keeps {s0 : State} (s : State) (data : Nat) (w : Option WordRef) (h : Keeps s0 s) : Keeps s0 (State.putPosted s data w) := by
  unfold State.putPosted
  split
  · apply State.putWord_keeps
    with_reducible assumption
  · with_reducible assumption

theorem State.postedDone_keeps {s0 : State} (s : State) (k : Nat) (h : Keeps s0 s) : Keeps s0 (State.postedDone s k) := by
  unfold State.postedDone
  split
  · with_reducible assumption
  · apply State.putPosted_keeps
    apply State.wr_keeps
    apply State.setWin_keeps
    with_reducible assumption

theorem execPostedWriteComplete_keeps {s0 : State} (t : Nat) (window : Nat) (s : State) (h : Keeps s0 s) : KeepsOut s0 (execPostedWriteComplete t window s) := by
  unfold execPostedWriteComplete
  extract_lets +onlyGivenNames x1
  have h1 : Keeps s0 x1 := ?_
  · clear_value x1
    split
    · apply KeepsOut.next
      apply State.postedDone_keeps
      with_reducible assumption
    · apply KeepsOut.next
      with_reducible assumption
  · subst x1
    apply State.at_keeps
    with_reducible assumption

theorem State.setPtr_keeps {s0 : State} (s : State) (a : Nat) (h : Keeps s0 s) : Keeps s0 (State.setPtr s a) := by
  unfold State.setPtr
  apply State.setI3c_keeps
  with_reducible assumption

theorem State.writeBurst_keeps {s0 : State} (s : State) (a_____internal__hyg_0 : Nat) (a_____internal__hyg_02 : List Byte) (h : Keeps s0 s) : Keeps s0 (State.writeBurst s a_____internal__hyg_0 a_____internal__hyg_02) := by
  unfold State.writeBurst
  split
  · apply State.writeBurst_keeps
    apply State.writeAt_keeps
    with_reducible assumption
  · apply State.setPtr_keeps
    with_reducible assumption
  · apply State.accFault_keeps
    apply State.setPtr_keeps
    with_reducible assumption

theorem State.readBurst_keeps {s0 : State} (s : State) (a_____internal__hyg_0 : Nat) (a_____internal__hyg_02 : Nat) (a_____internal__hyg_03 : Nat) (a_____internal__hyg_04 : List Byte) (h : Keeps s0 s) : Keeps s0 (State.readBurst s a_____internal__hyg_0 a_____internal__hyg_02 a_____internal__hyg_03 a_____internal__hyg_04).2 := by
  unfold State.readBurst
  split
  · apply Keeps.mk2
    apply State.setPtr_keeps
    with_reducible assumption
  · split
    · apply Keeps.mk2
      apply State.setPtr_keeps
      with_reducible assumption
    · split
      · extract_lets +onlyGivenNames x10
        have h10 : Keeps s0 x10.2 := ?_
        · clear_value x10
          apply Keeps.mk2
          apply State.accFault_keeps
          apply State.setPtr_keeps
          with_reducible assumption
        · subst x10
          apply State.readAt_keeps
          with_reducible assumption
      · extract_lets +onlyGivenNames x17
        have h17 : Keeps s0 x17.2 := ?_
        · clear_value x17
          apply State.readBurst_keeps
          with_reducible assumption
        · subst x17
          apply State.readAt_keeps
          with_reducible assumption

theorem State.addrPhase_keeps {s0 s u : State} {bs : List Byte} (h : Keeps s0 s)
    (e : s.addrPhase bs = .inr u) : Keeps s0 u := by
  unfold State.addrPhase at e
  split at e
  · cases e
    split
    · exact h
    · exact State.accFault_keeps _ _ _ h
  · dsimp only at e
    split at e
    · cases e
    · cases e
      exact State.accFault_keeps _ _ _ h


theorem State.writeTransfer_keeps {s0 : State} (s : State) (bytes : List Byte) (h : Keeps s0 s) : Keeps s0 (State.writeTransfer s bytes) := by
  unfold State.writeTransfer
  split
  · apply State.writeBurst_keeps
    with_reducible assumption
  · refine State.addrPhase_keeps ?_ ‹_›
    with_reducible assumption

theorem State.ack_keeps {s0 : State} (s : State) (h : Keeps s0 s) : Keeps s0 (State.ack s) := by
  unfold State.ack
  apply State.setI3c_keeps
  with_reducible assumption

theorem State.nackIt_keeps {s0 : State} (s : State) (h : Keeps s0 s) : Keeps s0 (State.nackIt s) := by
  unfold State.nackIt
  apply State.setI3c_keeps
  with_reducible assumption

theorem State.readFrom_keeps {s0 : State} (s : State) (a : Nat) (count : Nat) (h : Keeps s0 s) : Keeps s0 (State.readFrom s a count) := by
  unfold State.readFrom
  extract_lets +onlyGivenNames x1
  have h1 : Keeps s0 x1.2 := ?_
  · clear_value x1
    apply State.answerBytes_keeps
    with_reducible assumption
  · subst x1
    apply State.readBurst_keeps
    with_reducible assumption

theorem execSdrPrivateWrite_keeps {s0 : State} (t : Nat) (bytes : List Byte) (s : State) (h : Keeps s0 s) : KeepsOut s0 (execSdrPrivateWrite t bytes s) := by
  unfold execSdrPrivateWrite
  extract_lets +onlyGivenNames x1
  have h1 : Keeps s0 x1 := ?_
  · clear_value x1
    split
    · apply KeepsOut.next
      apply State.writeTransfer_keeps
      apply State.ack_keeps
      with_reducible assumption
    · split
      · apply KeepsOut.next
        apply State.nackIt_keeps
        with_reducible assumption
      · apply KeepsOut.next
        with_reducible assumption
  · subst x1
    apply State.at_keeps
    with_reducible assumption

theorem State.sdrRead_keeps {s0 : State} (s : State) (addr : List Byte) (count : Nat) (h : Keeps s0 s) : Keeps s0 (State.sdrRead s addr count) := by
  unfold State.sdrRead
  split
  · apply State.readFrom_keeps
    with_reducible assumption
  · split
    · apply State.readFrom_keeps
      with_reducible assumption
    · split
      · apply State.readFrom_keeps
        refine State.addrPhase_keeps ?_ ‹_›
        with_reducible assumption
      · apply State.answerBytes_keeps
        refine State.addrPhase_keeps ?_ ‹_›
        with_reducible assumption

theorem execSdrPrivateRead_keeps {s0 : State} (t : Nat) (addr : List Byte) (count : Nat) (s : State) (h : Keeps s0 s) : KeepsOut s0 (execSdrPrivateRead t addr count s) := by
  unfold execSdrPrivateRead
  extract_lets +onlyGivenNames x1
  have h1 : Keeps s0 x1 := ?_
  · clear_value x1
    split
    · apply KeepsOut.next
      apply State.sdrRead_keeps
      apply State.ack_keeps
      with_reducible assumption
    · split
      · apply KeepsOut.next
        apply State.nackIt_keeps
        with_reducible assumption
      · apply KeepsOut.next
        with_reducible assumption
  · subst x1
    apply State.at_keeps
    with_reducible assumption

theorem State.ddr_keeps {s0 : State} (s : State) (code own : Nat) (f : State → State) (h : Keeps s0 s)
    (k : ∀ s, Keeps s0 s → Keeps s0 (f s)) : Keeps s0 (State.ddr s code own f) := by
  unfold State.ddr
  split
  · exact h
  · split
    · exact k _ (State.ack_keeps _ h)
    · exact State.setI3c_keeps _ _ h


theorem execDdrSetPointer_keeps {s0 : State} (t : Nat) (words : DdrWords) (s : State) (h : Keeps s0 s) : KeepsOut s0 (execDdrSetPointer t words s) := by
  unfold execDdrSetPointer
  apply KeepsOut.next
  apply State.ddr_keeps
  · apply State.at_keeps
    with_reducible assumption
  · intro y5_0 y5_1
    apply State.writeTransfer_keeps
    with_reducible assumption

theorem execDdrWrite_keeps {s0 : State} (t : Nat) (words : DdrWords) (s : State) (h : Keeps s0 s) : KeepsOut s0 (execDdrWrite t words s) := by
  unfold execDdrWrite
  apply KeepsOut.next
  apply State.ddr_keeps
  · apply State.at_keeps
    with_reducible assumption
  · intro y5_0 y5_1
    apply State.writeTransfer_keeps
    with_reducible assumption

theorem execDdrRead_keeps {s0 : State} (t : Nat) (ask : DdrAsk) (s : State) (h : Keeps s0 s) : KeepsOut s0 (execDdrRead t ask s) := by
  unfold execDdrRead
  apply KeepsOut.next
  apply State.ddr_keeps
  · apply State.at_keeps
    with_reducible assumption
  · intro y5_0 y5_1
    apply State.readFrom_keeps
    with_reducible assumption

theorem State.directCcc_keeps {s0 : State} (s : State) (f : State → State) (h : Keeps s0 s)
    (k : ∀ s, Keeps s0 s → Keeps s0 (f s)) : Keeps s0 (State.directCcc s f) := by
  unfold State.directCcc
  split
  · exact h
  · split
    · exact k _ (State.ack_keeps _ h)
    · exact State.nackIt_keeps _ h


theorem State.setDynAddr_keeps {s0 : State} (s : State) (a : Nat) (h : Keeps s0 s) : Keeps s0 (State.setDynAddr s a) := by
  unfold State.setDynAddr
  apply State.wr_keeps
  apply State.wr_keeps
  with_reducible assumption

theorem execCccEntdaa_keeps {s0 : State} (t : Nat) (addr : Nat) (s : State) (h : Keeps s0 s) : KeepsOut s0 (execCccEntdaa t addr s) := by
  unfold execCccEntdaa
  extract_lets +onlyGivenNames x1
  have h1 : Keeps s0 x1 := ?_
  · clear_value x1
    split
    · apply KeepsOut.next
      apply State.setDynAddr_keeps
      apply State.answerBytes_keeps
      with_reducible assumption
    · apply KeepsOut.next
      with_reducible assumption
  · subst x1
    apply State.at_keeps
    with_reducible assumption

theorem execCccSetdasa_keeps {s0 : State} (t : Nat) (addr : Nat) (s : State) (h : Keeps s0 s) : KeepsOut s0 (execCccSetdasa t addr s) := by
  unfold execCccSetdasa
  extract_lets +onlyGivenNames x1
  have h1 : Keeps s0 x1 := ?_
  · clear_value x1
    split
    · apply KeepsOut.next
      apply State.setDynAddr_keeps
      apply State.ack_keeps
      with_reducible assumption
    · apply KeepsOut.next
      with_reducible assumption
  · subst x1
    apply State.at_keeps
    with_reducible assumption

theorem execCccSetnewda_keeps {s0 : State} (t : Nat) (addr : Nat) (s : State) (h : Keeps s0 s) : KeepsOut s0 (execCccSetnewda t addr s) := by
  unfold execCccSetnewda
  apply KeepsOut.next
  apply State.directCcc_keeps
  · apply State.at_keeps
    with_reducible assumption
  · intro y5_0 y5_1
    apply State.setDynAddr_keeps
    with_reducible assumption

theorem State.dropDynAddr_keeps {s0 : State} (s : State) (h : Keeps s0 s) : Keeps s0 (State.dropDynAddr s) := by
  unfold State.dropDynAddr
  apply State.wr_keeps
  apply State.wr_keeps
  with_reducible assumption

theorem execCccRstdaa_keeps {s0 : State} (t : Nat) (s : State) (h : Keeps s0 s) : KeepsOut s0 (execCccRstdaa t s) := by
  unfold execCccRstdaa
  extract_lets +onlyGivenNames x1
  have h1 : Keeps s0 x1 := ?_
  · clear_value x1
    split
    · apply KeepsOut.next
      apply State.dropDynAddr_keeps
      apply State.ack_keeps
      with_reducible assumption
    · apply KeepsOut.next
      with_reducible assumption
  · subst x1
    apply State.at_keeps
    with_reducible assumption

theorem execCccEnec_keeps {s0 : State} (t : Nat) (events : Nat) (s : State) (h : Keeps s0 s) : KeepsOut s0 (execCccEnec t events s) := by
  unfold execCccEnec
  extract_lets +onlyGivenNames x1
  have h1 : Keeps s0 x1 := ?_
  · clear_value x1
    split
    · apply KeepsOut.next
      split
      · apply State.setI3c_keeps
        apply State.ack_keeps
        with_reducible assumption
      · apply State.ack_keeps
        with_reducible assumption
    · apply KeepsOut.next
      with_reducible assumption
  · subst x1
    apply State.at_keeps
    with_reducible assumption

theorem execCccDisec_keeps {s0 : State} (t : Nat) (events : Nat) (s : State) (h : Keeps s0 s) : KeepsOut s0 (execCccDisec t events s) := by
  unfold execCccDisec
  extract_lets +onlyGivenNames x1
  have h1 : Keeps s0 x1 := ?_
  · clear_value x1
    split
    · apply KeepsOut.next
      split
      · apply State.setI3c_keeps
        apply State.ack_keeps
        with_reducible assumption
      · apply State.ack_keeps
        with_reducible assumption
    · apply KeepsOut.next
      with_reducible assumption
  · subst x1
    apply State.at_keeps
    with_reducible assumption

theorem execCccSetmwl_keeps {s0 : State} (t : Nat) (len : Nat) (s : State) (h : Keeps s0 s) : KeepsOut s0 (execCccSetmwl t len s) := by
  unfold execCccSetmwl
  extract_lets +onlyGivenNames x1
  have h1 : Keeps s0 x1 := ?_
  · clear_value x1
    split
    · apply KeepsOut.next
      apply State.setI3c_keeps
      apply State.ack_keeps
      with_reducible assumption
    · apply KeepsOut.next
      with_reducible assumption
  · subst x1
    apply State.at_keeps
    with_reducible assumption

theorem execCccSetmrl_keeps {s0 : State} (t : Nat) (len : Nat) (s : State) (h : Keeps s0 s) : KeepsOut s0 (execCccSetmrl t len s) := by
  unfold execCccSetmrl
  extract_lets +onlyGivenNames x1
  have h1 : Keeps s0 x1 := ?_
  · clear_value x1
    split
    · apply KeepsOut.next
      apply State.setI3c_keeps
      apply State.ack_keeps
      with_reducible assumption
    · apply KeepsOut.next
      with_reducible assumption
  · subst x1
    apply State.at_keeps
    with_reducible assumption

theorem execCccGetmwl_keeps {s0 : State} (t : Nat) (s : State) (h : Keeps s0 s) : KeepsOut s0 (execCccGetmwl t s) := by
  unfold execCccGetmwl
  apply KeepsOut.next
  apply State.directCcc_keeps
  · apply State.at_keeps
    with_reducible assumption
  · intro y5_0 y5_1
    apply State.answerBytes_keeps
    with_reducible assumption

theorem execCccGetmrl_keeps {s0 : State} (t : Nat) (s : State) (h : Keeps s0 s) : KeepsOut s0 (execCccGetmrl t s) := by
  unfold execCccGetmrl
  apply KeepsOut.next
  apply State.directCcc_keeps
  · apply State.at_keeps
    with_reducible assumption
  · intro y5_0 y5_1
    apply State.answerBytes_keeps
    with_reducible assumption

theorem execCccGetpid_keeps {s0 : State} (t : Nat) (s : State) (h : Keeps s0 s) : KeepsOut s0 (execCccGetpid t s) := by
  unfold execCccGetpid
  apply KeepsOut.next
  apply State.directCcc_keeps
  · apply State.at_keeps
    with_reducible assumption
  · intro y5_0 y5_1
    apply State.answerBytes_keeps
    with_reducible assumption

theorem execCccGetbcr_keeps {s0 : State} (t : Nat) (s : State) (h : Keeps s0 s) : KeepsOut s0 (execCccGetbcr t s) := by
  unfold execCccGetbcr
  apply KeepsOut.next
  apply State.directCcc_keeps
  · apply State.at_keeps
    with_reducible assumption
  · intro y5_0 y5_1
    apply State.answerBytes_keeps
    with_reducible assumption

theorem execCccGetdcr_keeps {s0 : State} (t : Nat) (s : State) (h : Keeps s0 s) : KeepsOut s0 (execCccGetdcr t s) := by
  unfold execCccGetdcr
  apply KeepsOut.next
  apply State.directCcc_keeps
  · apply State.at_keeps
    with_reducible assumption
  · intro y5_0 y5_1
    apply State.answerBytes_keeps
    with_reducible assumption

theorem execCccGetstatus_keeps {s0 : State} (t : Nat) (s : State) (h : Keeps s0 s) : KeepsOut s0 (execCccGetstatus t s) := by
  unfold execCccGetstatus
  apply KeepsOut.next
  apply State.directCcc_keeps
  · apply State.at_keeps
    with_reducible assumption
  · intro y5_0 y5_1
    apply State.answerBytes_keeps
    apply State.draw_keeps
    with_reducible assumption

theorem execCccGetmxds_keeps {s0 : State} (t : Nat) (defByte : Bool) (s : State) (h : Keeps s0 s) : KeepsOut s0 (execCccGetmxds t defByte s) := by
  unfold execCccGetmxds
  apply KeepsOut.next
  apply State.directCcc_keeps
  · apply State.at_keeps
    with_reducible assumption
  · intro y5_0 y5_1
    split
    · apply State.nackIt_keeps
      with_reducible assumption
    · apply State.answerBytes_keeps
      with_reducible assumption

theorem State.hostReset_keeps {s0 : State} (s : State) (h : Keeps s0 s) : Keeps s0 (State.hostReset s) := by
  unfold State.hostReset
  apply State.setI3c_keeps
  apply State.dropDynAddr_keeps
  with_reducible assumption

theorem execCccRstact_keeps {s0 : State} (t : Nat) (action : Nat) (pattern : Bool) (s : State) (h : Keeps s0 s) : KeepsOut s0 (execCccRstact t action pattern s) := by
  unfold execCccRstact
  extract_lets +onlyGivenNames x1
  have h1 : Keeps s0 x1 := ?_
  · clear_value x1
    split
    · apply KeepsOut.next
      with_reducible assumption
    · split
      · apply KeepsOut.next
        apply State.nackIt_keeps
        with_reducible assumption
      · split
        · apply KeepsOut.next
          apply State.hostReset_keeps
          with_reducible assumption
        · apply KeepsOut.next
          apply State.setI3c_keeps
          apply State.ack_keeps
          with_reducible assumption
  · subst x1
    apply State.at_keeps
    with_reducible assumption

theorem execCccEnthdr0_keeps {s0 : State} (entry : HdrEntry) (s : State) (h : Keeps s0 s) : KeepsOut s0 (execCccEnthdr0 entry s) := by
  unfold execCccEnthdr0
  extract_lets +onlyGivenNames x1
  have h1 : Keeps s0 x1 := ?_
  · clear_value x1
    split
    · apply KeepsOut.next
      apply State.setI3c_keeps
      apply State.ack_keeps
      with_reducible assumption
    · apply KeepsOut.next
      with_reducible assumption
  · subst x1
    apply State.at_keeps
    with_reducible assumption

theorem execHdrExit_keeps {s0 : State} (t : Nat) (s : State) (h : Keeps s0 s) : KeepsOut s0 (execHdrExit t s) := by
  unfold execHdrExit
  extract_lets +onlyGivenNames x1
  have h1 : Keeps s0 x1 := ?_
  · clear_value x1
    split
    · apply KeepsOut.next
      apply State.setI3c_keeps
      with_reducible assumption
    · apply KeepsOut.next
      with_reducible assumption
  · subst x1
    apply State.at_keeps
    with_reducible assumption

end Sys2Proof.Machine
end

