-- ==== Sys2Proof/Laws/KeepsDispatch.lean ====
section
/-! SUPPORT. What the definitions of Machine/Dispatch.lean keep: one lemma each. -/

namespace Sys2Proof.Machine

set_option maxRecDepth 10000

theorem exec_keeps {s0 : State} (i : Instr) (s : State) (h : Keeps s0 s) : KeepsOut s0 (exec i s) := by
  unfold exec
  split
  · apply execPowerApplied_keeps
    with_reducible assumption
  · apply execNresetLow_keeps
    with_reducible assumption
  · apply execVddAuxCollapse_keeps
    with_reducible assumption
  · apply execNresetHigh_keeps
    with_reducible assumption
  · apply execPllLock_keeps
    with_reducible assumption
  · apply execHbmTrainingDone_keeps
    with_reducible assumption
  · apply execConverterCalDone_keeps
    with_reducible assumption
  · apply execEnterGreen_keeps
    with_reducible assumption
  · apply execLeaveGreen_keeps
    with_reducible assumption
  · apply execGreenLossCleared_keeps
    with_reducible assumption
  · apply execMuteNLow_keeps
    with_reducible assumption
  · apply execMuteNHigh_keeps
    with_reducible assumption
  · apply execRefClkLoss_keeps
    with_reducible assumption
  · apply execRefClkReturn_keeps
    with_reducible assumption
  · apply execWakePin_keeps
    with_reducible assumption
  · apply execSleepEntryComplete_keeps
    with_reducible assumption
  · apply execWakeComplete_keeps
    with_reducible assumption
  · apply execCccEntdaa_keeps
    with_reducible assumption
  · apply execCccSetdasa_keeps
    with_reducible assumption
  · apply execCccSetnewda_keeps
    with_reducible assumption
  · apply execCccRstdaa_keeps
    with_reducible assumption
  · apply execCccEnec_keeps
    with_reducible assumption
  · apply execCccDisec_keeps
    with_reducible assumption
  · apply execCccSetmwl_keeps
    with_reducible assumption
  · apply execCccSetmrl_keeps
    with_reducible assumption
  · apply execCccGetmwl_keeps
    with_reducible assumption
  · apply execCccGetmrl_keeps
    with_reducible assumption
  · apply execCccGetpid_keeps
    with_reducible assumption
  · apply execCccGetbcr_keeps
    with_reducible assumption
  · apply execCccGetdcr_keeps
    with_reducible assumption
  · apply execCccGetstatus_keeps
    with_reducible assumption
  · apply execCccGetmxds_keeps
    with_reducible assumption
  · apply execCccRstact_keeps
    with_reducible assumption
  · apply execCccEnthdr0_keeps
    with_reducible assumption
  · apply execHdrExit_keeps
    with_reducible assumption
  · apply execSdrPrivateWrite_keeps
    with_reducible assumption
  · apply execSdrPrivateRead_keeps
    with_reducible assumption
  · apply execDdrSetPointer_keeps
    with_reducible assumption
  · apply execDdrWrite_keeps
    with_reducible assumption
  · apply execDdrRead_keeps
    with_reducible assumption
  · apply execRegisterWrite_keeps
    with_reducible assumption
  · apply execClearOnRead_keeps
    with_reducible assumption
  · apply execBitAliasWrite_keeps
    with_reducible assumption
  · apply execLockWrite_keeps
    with_reducible assumption
  · apply execDialRead_keeps
    with_reducible assumption
  · apply execSlotPairRead_keeps
    with_reducible assumption
  · apply execStampLastRead_keeps
    with_reducible assumption
  · apply execMeasurementResultRead_keeps
    with_reducible assumption
  · apply execCalendarRead_keeps
    with_reducible assumption
  · apply execXaddrWrite_keeps
    with_reducible assumption
  · apply execPrefetchComplete_keeps
    with_reducible assumption
  · apply execXdataRead_keeps
    with_reducible assumption
  · apply execXdataWrite_keeps
    with_reducible assumption
  · apply execPostedWriteComplete_keeps
    with_reducible assumption
  · apply execUpdateStrobe_keeps
    with_reducible assumption
  · apply execUpdateAtArm_keeps
    with_reducible assumption
  · apply execUpdateAtCancel_keeps
    with_reducible assumption
  · apply execShadowCapture_keeps
    with_reducible assumption
  · apply execUpdateApply_keeps
    with_reducible assumption
  · apply execIbiAttempt_keeps
    with_reducible assumption
  · apply execIbiAcknowledged_keeps
    with_reducible assumption
  · apply execIbiNacked_keeps
    with_reducible assumption
  · apply execIbiRetry_keeps
    with_reducible assumption
  · apply execMailboxGo_keeps
    with_reducible assumption
  · apply execMailboxComplete_keeps
    with_reducible assumption
  · apply execImageSwitch_keeps
    with_reducible assumption
  · apply execKeyChange_keeps
    with_reducible assumption
  · apply execCalStore_keeps
    with_reducible assumption
  · apply execChainJoin_keeps
    with_reducible assumption
  · apply execChainLeave_keeps
    with_reducible assumption
  · apply execOutputEnable_keeps
    with_reducible assumption
  · apply execSleep_keeps
    with_reducible assumption
  · apply execFuseMinVersion_keeps
    with_reducible assumption
  · apply execFuseOwnerKey_keeps
    with_reducible assumption
  · apply execFuseRevoke_keeps
    with_reducible assumption
  · apply execAttest_keeps
    with_reducible assumption
  · apply execFlashErase_keeps
    with_reducible assumption
  · apply execFlashProg_keeps
    with_reducible assumption
  · apply execFlashRead_keeps
    with_reducible assumption
  · apply execFlashOpComplete_keeps
    with_reducible assumption
  · apply execSeqStart_keeps
    with_reducible assumption
  · apply execSeqResume_keeps
    with_reducible assumption
  · apply execSeqAbort_keeps
    with_reducible assumption
  · apply execSeqShotAbort_keeps
    with_reducible assumption
  · apply execSeqQuiet_keeps
    with_reducible assumption
  · apply execSeqIclr_keeps
    with_reducible assumption
  · apply execNop_keeps
    with_reducible assumption
  · apply execPlay_keeps
    with_reducible assumption
  · apply execWait_keeps
    with_reducible assumption
  · apply execWaitt_keeps
    with_reducible assumption
  · apply execBranch_keeps
    with_reducible assumption
  · apply execCall_keeps
    with_reducible assumption
  · apply execRet_keeps
    with_reducible assumption
  · apply execLoop_keeps
    with_reducible assumption
  · apply execSetcLoad_keeps
    with_reducible assumption
  · apply execSetcInit_keeps
    with_reducible assumption
  · apply execSetcAdd_keeps
    with_reducible assumption
  · apply execSetcSub_keeps
    with_reducible assumption
  · apply execSync_keeps
    with_reducible assumption
  · apply execFrame_keeps
    with_reducible assumption
  · apply execMeas_keeps
    with_reducible assumption
  · apply execPublish_keeps
    with_reducible assumption
  · apply execShotBegin_keeps
    with_reducible assumption
  · apply execShotEnd_keeps
    with_reducible assumption
  · apply execCommitShot_keeps
    with_reducible assumption
  · apply execCommitAt_keeps
    with_reducible assumption
  · apply execCommitAbort_keeps
    with_reducible assumption
  · apply execHalt_keeps
    with_reducible assumption
  · apply execRunAheadRelease_keeps
    with_reducible assumption
  · apply execDescCheckReturn_keeps
    with_reducible assumption
  · apply execWaittTriggered_keeps
    with_reducible assumption
  · apply execWaittTimeout_keeps
    with_reducible assumption
  · apply execSyncRelease_keeps
    with_reducible assumption
  · apply execSyncTimeout_keeps
    with_reducible assumption
  · apply execVerdictHorizonExpiry_keeps
    with_reducible assumption
  · apply execSequencerFault_keeps
    with_reducible assumption
  · apply execMicroScrub_keeps
    with_reducible assumption
  · apply execLoad_keeps
    with_reducible assumption
  · apply execLoadComplete_keeps
    with_reducible assumption
  · apply execPulseStart_keeps
    with_reducible assumption
  · apply execFrameAction_keeps
    with_reducible assumption
  · apply execSegmentBoundary_keeps
    with_reducible assumption
  · apply execCellJump_keeps
    with_reducible assumption
  · apply execBankHiWrite_keeps
    with_reducible assumption
  · apply execEnvelopeUnderrun_keeps
    with_reducible assumption
  · apply execClipClr_keeps
    with_reducible assumption
  · apply execSpecCutoff_keeps
    with_reducible assumption
  · apply execWindowOpen_keeps
    with_reducible assumption
  · apply execWindowClose_keeps
    with_reducible assumption
  · apply execTagSlotArrival_keeps
    with_reducible assumption
  · apply execResultRecordWrite_keeps
    with_reducible assumption
  · apply execShotTrailer_keeps
    with_reducible assumption
  · apply execSlotClear_keeps
    with_reducible assumption
  · apply execVerdictWord_keeps
    with_reducible assumption
  · apply execQueryWord_keeps
    with_reducible assumption
  · apply execCancelWord_keeps
    with_reducible assumption
  · apply execTxnOpen_keeps
    with_reducible assumption
  · apply execTxnStage_keeps
    with_reducible assumption
  · apply execTxnCommit_keeps
    with_reducible assumption
  · apply execTxnAbort_keeps
    with_reducible assumption
  · apply execTxnDecisionPoint_keeps
    with_reducible assumption
  · apply execTxnApply_keeps
    with_reducible assumption
  · apply execSwarmGo_keeps
    with_reducible assumption
  · apply execPrepare_keeps
    with_reducible assumption
  · apply execVote_keeps
    with_reducible assumption
  · apply execSwarmCommit_keeps
    with_reducible assumption
  · apply execAck_keeps
    with_reducible assumption
  · apply execSwarmAbort_keeps
    with_reducible assumption
  · apply execSwarmGuardExpiry_keeps
    with_reducible assumption
  · apply execStatusQ_keeps
    with_reducible assumption
  · apply execStatusA_keeps
    with_reducible assumption
  · apply execStatusNoAnswer_keeps
    with_reducible assumption
  · apply execBoundaryActionsApply_keeps
    with_reducible assumption
  · apply execHaltedCalStep_keeps
    with_reducible assumption
  · apply execOverRange_keeps
    with_reducible assumption
  · apply execOverRangeValidReturn_keeps
    with_reducible assumption
  · apply execBandSettleEnd_keeps
    with_reducible assumption
  · apply execCapArm_keeps
    with_reducible assumption
  · apply execCapStop_keeps
    with_reducible assumption
  · apply execCapForce_keeps
    with_reducible assumption
  · apply execCaptureTrigger_keeps
    with_reducible assumption
  · apply execCaptureTimeout_keeps
    with_reducible assumption
  · apply execCaptureAuto_keeps
    with_reducible assumption
  · apply execCaptureRecordCommit_keeps
    with_reducible assumption
  · apply execCaptureFallBehind_keeps
    with_reducible assumption
  · apply execBiasStageWrite_keeps
    with_reducible assumption
  · apply execBiasLoadCmd_keeps
    with_reducible assumption
  · apply execBiasLoad_keeps
    with_reducible assumption
  · apply execTripClr_keeps
    with_reducible assumption
  · apply execFluxStart_keeps
    with_reducible assumption
  · apply execFluxEnd_keeps
    with_reducible assumption
  · apply execRangeHoldEnd_keeps
    with_reducible assumption
  · apply execBiasLimitClamp_keeps
    with_reducible assumption
  · apply execSupervisionTrip_keeps
    with_reducible assumption
  · apply execBiasSupplyTrip_keeps
    with_reducible assumption
  · apply execBiasSupplyRestored_keeps
    with_reducible assumption
  · apply execMarkerEdge_keeps
    with_reducible assumption
  · apply execMarkForce_keeps
    with_reducible assumption
  · apply execStampEdge_keeps
    with_reducible assumption
  · apply execCdRun_keeps
    with_reducible assumption
  · apply execCdRunComplete_keeps
    with_reducible assumption
  · apply execMeasurementGo_keeps
    with_reducible assumption
  · apply execMeasurementStop_keeps
    with_reducible assumption
  · apply execIntervalResult_keeps
    with_reducible assumption
  · apply execIntervalTimeout_keeps
    with_reducible assumption
  · apply execFrequencyGateEnd_keeps
    with_reducible assumption
  · apply execProbeExchange_keeps
    with_reducible assumption
  · apply execProbe_keeps
    with_reducible assumption
  · apply execMapApply_keeps
    with_reducible assumption
  · apply execHostReq_keeps
    with_reducible assumption
  · apply execHbmScrubPass_keeps
    with_reducible assumption
  · apply execSoftRepair_keeps
    with_reducible assumption
  · apply execStackLost_keeps
    with_reducible assumption
  · apply execDescReadComplete_keeps
    with_reducible assumption
  · apply execStreamRefill_keeps
    with_reducible assumption
  · apply execFarStoreAbandon_keeps
    with_reducible assumption
  · apply execFrameSend_keeps
    with_reducible assumption
  · apply execFrameReceive_keeps
    with_reducible assumption
  · apply execLqPush_keeps
    with_reducible assumption
  · apply execRxPop_keeps
    with_reducible assumption
  · apply execUser_keeps
    with_reducible assumption
  · apply execMemRd_keeps
    with_reducible assumption
  · apply execMemWr_keeps
    with_reducible assumption
  · apply execMemData_keeps
    with_reducible assumption
  · apply execCpl_keeps
    with_reducible assumption
  · apply execLinkRemap_keeps
    with_reducible assumption
  · apply execLinkResume_keeps
    with_reducible assumption
  · apply execLaneLoss_keeps
    with_reducible assumption
  · apply execLosClear_keeps
    with_reducible assumption
  · apply execForwardedClockSteady_keeps
    with_reducible assumption
  · apply execLanesLocked_keeps
    with_reducible assumption
  · apply execSlipSearchDone_keeps
    with_reducible assumption
  · apply execDeskewDone_keeps
    with_reducible assumption
  · apply execTrainingActive_keeps
    with_reducible assumption
  · apply execTrainTo_keeps
    with_reducible assumption
  · apply execPauseTo_keeps
    with_reducible assumption
  · apply execRetrain_keeps
    with_reducible assumption
  · apply execLaneSlip_keeps
    with_reducible assumption
  · apply execNegGo_keeps
    with_reducible assumption
  · apply execAnnounceTimer_keeps
    with_reducible assumption
  · apply execChain_keeps
    with_reducible assumption
  · apply execRouteExpiry_keeps
    with_reducible assumption
  · apply execTimeSend_keeps
    with_reducible assumption
  · apply execTime_keeps
    with_reducible assumption
  · apply execQueenTimeout_keeps
    with_reducible assumption
  · apply execHoldoverTimeSend_keeps
    with_reducible assumption
  · apply execQueenRevert_keeps
    with_reducible assumption
  · apply execJoinStep_keeps
    with_reducible assumption
  · apply execFormListenEnd_keeps
    with_reducible assumption
  · apply execPpsInEdge_keeps
    with_reducible assumption
  · apply execSecondBoundary_keeps
    with_reducible assumption
  · apply execPpsOutFall_keeps
    with_reducible assumption
  · apply execWaggleDelivery_keeps
    with_reducible assumption
  · apply execWaggleFire_keeps
    with_reducible assumption
  · apply execRefractoryEnd_keeps
    with_reducible assumption
  · apply execMonConversionDone_keeps
    with_reducible assumption
  · apply execHousekeepingDue_keeps
    with_reducible assumption
  · apply execMcal_keeps
    with_reducible assumption
  · apply execMcalDone_keeps
    with_reducible assumption
  · apply execAccClr_keeps
    with_reducible assumption
  · apply execCalRun_keeps
    with_reducible assumption
  · apply execCalPassTrigger_keeps
    with_reducible assumption
  · apply execCalMeasurementDone_keeps
    with_reducible assumption
  · apply execCalAbandon_keeps
    with_reducible assumption
  · apply execCalStale_keeps
    with_reducible assumption
  · apply execLifePeriodic_keeps
    with_reducible assumption
  · apply execLifeRd_keeps
    with_reducible assumption
  · apply execLifeRdDone_keeps
    with_reducible assumption

end Sys2Proof.Machine
end

