-- ==== Sys2Proof/Laws/State.lean ====
section
/-! SUPPORT. What each update of one field of State leaves of every field, and what letting time pass leaves. -/

namespace Sys2Proof.Machine

variable (s : State)

/-! ### wr -/

@[simp] theorem State.wr_pending (f : Fld) (v : Nat) : (s.wr f v).pending = s.pending := rfl
@[simp] theorem State.wr_free (f : Fld) (v : Nat) : (s.wr f v).free = s.free := rfl
@[simp] theorem State.wr_dial (f : Fld) (v : Nat) : (s.wr f v).dial = s.dial := rfl
@[simp] theorem State.wr_act (f : Fld) (v : Nat) : (s.wr f v).act = s.act := rfl
@[simp] theorem State.wr_svc (f : Fld) (v : Nat) : (s.wr f v).svc = s.svc := rfl
@[simp] theorem State.wr_i3c (f : Fld) (v : Nat) : (s.wr f v).i3c = s.i3c := rfl
@[simp] theorem State.wr_strobes (f : Fld) (v : Nat) : (s.wr f v).strobes = s.strobes := rfl
@[simp] theorem State.wr_wins (f : Fld) (v : Nat) : (s.wr f v).wins = s.wins := rfl
@[simp] theorem State.wr_capt (f : Fld) (v : Nat) : (s.wr f v).capt = s.capt := rfl
@[simp] theorem State.wr_locks (f : Fld) (v : Nat) : (s.wr f v).locks = s.locks := rfl
@[simp] theorem State.wr_accBase (f : Fld) (v : Nat) : (s.wr f v).accBase = s.accBase := rfl
@[simp] theorem State.wr_seqs (f : Fld) (v : Nat) : (s.wr f v).seqs = s.seqs := rfl
@[simp] theorem State.wr_cells (f : Fld) (v : Nat) : (s.wr f v).cells = s.cells := rfl
@[simp] theorem State.wr_lanes (f : Fld) (v : Nat) : (s.wr f v).lanes = s.lanes := rfl
@[simp] theorem State.wr_combs (f : Fld) (v : Nat) : (s.wr f v).combs = s.combs := rfl
@[simp] theorem State.wr_bank (f : Fld) (v : Nat) : (s.wr f v).bank = s.bank := rfl
@[simp] theorem State.wr_bankAct (f : Fld) (v : Nat) : (s.wr f v).bankAct = s.bankAct := rfl
@[simp] theorem State.wr_marks (f : Fld) (v : Nat) : (s.wr f v).marks = s.marks := rfl
@[simp] theorem State.wr_micro (f : Fld) (v : Nat) : (s.wr f v).micro = s.micro := rfl
@[simp] theorem State.wr_nano (f : Fld) (v : Nat) : (s.wr f v).nano = s.nano := rfl
@[simp] theorem State.wr_cache (f : Fld) (v : Nat) : (s.wr f v).cache = s.cache := rfl
@[simp] theorem State.wr_kern (f : Fld) (v : Nat) : (s.wr f v).kern = s.kern := rfl
@[simp] theorem State.wr_descs (f : Fld) (v : Nat) : (s.wr f v).descs = s.descs := rfl
@[simp] theorem State.wr_dec (f : Fld) (v : Nat) : (s.wr f v).dec = s.dec := rfl
@[simp] theorem State.wr_bias (f : Fld) (v : Nat) : (s.wr f v).bias = s.bias := rfl
@[simp] theorem State.wr_loads (f : Fld) (v : Nat) : (s.wr f v).loads = s.loads := rfl
@[simp] theorem State.wr_wag (f : Fld) (v : Nat) : (s.wr f v).wag = s.wag := rfl
@[simp] theorem State.wr_hbm (f : Fld) (v : Nat) : (s.wr f v).hbm = s.hbm := rfl
@[simp] theorem State.wr_poison (f : Fld) (v : Nat) : (s.wr f v).poison = s.poison := rfl
@[simp] theorem State.wr_flash (f : Fld) (v : Nat) : (s.wr f v).flash = s.flash := rfl
@[simp] theorem State.wr_mkrs (f : Fld) (v : Nat) : (s.wr f v).mkrs = s.mkrs := rfl
@[simp] theorem State.wr_stmp (f : Fld) (v : Nat) : (s.wr f v).stmp = s.stmp := rfl
@[simp] theorem State.wr_cd (f : Fld) (v : Nat) : (s.wr f v).cd = s.cd := rfl
@[simp] theorem State.wr_meas (f : Fld) (v : Nat) : (s.wr f v).meas = s.meas := rfl
@[simp] theorem State.wr_ports (f : Fld) (v : Nat) : (s.wr f v).ports = s.ports := rfl
@[simp] theorem State.wr_txns (f : Fld) (v : Nat) : (s.wr f v).txns = s.txns := rfl
@[simp] theorem State.wr_swm (f : Fld) (v : Nat) : (s.wr f v).swm = s.swm := rfl
@[simp] theorem State.wr_chain (f : Fld) (v : Nat) : (s.wr f v).chain = s.chain := rfl
@[simp] theorem State.wr_far (f : Fld) (v : Nat) : (s.wr f v).far = s.far := rfl
@[simp] theorem State.wr_memo (f : Fld) (v : Nat) : (s.wr f v).memo = s.memo := rfl
@[simp] theorem State.wr_life (f : Fld) (v : Nat) : (s.wr f v).life = s.life := rfl
@[simp] theorem State.wr_caps (f : Fld) (v : Nat) : (s.wr f v).caps = s.caps := rfl
@[simp] theorem State.wr_mons (f : Fld) (v : Nat) : (s.wr f v).mons = s.mons := rfl
@[simp] theorem State.wr_thm (f : Fld) (v : Nat) : (s.wr f v).thm = s.thm := rfl
@[simp] theorem State.wr_cal (f : Fld) (v : Nat) : (s.wr f v).cal = s.cal := rfl
@[simp] theorem State.wr_sec (f : Fld) (v : Nat) : (s.wr f v).sec = s.sec := rfl
@[simp] theorem State.wr_reqNo (f : Fld) (v : Nat) : (s.wr f v).reqNo = s.reqNo := rfl
@[simp] theorem State.wr_lastApply (f : Fld) (v : Nat) : (s.wr f v).lastApply = s.lastApply := rfl
@[simp] theorem State.wr_ard (f : Fld) (v : Nat) (g : Fld) : (s.wr f v).ard g = s.ard g := rfl
@[simp] theorem State.wr_awake (f : Fld) (v : Nat) : (s.wr f v).awake = s.awake := rfl
@[simp] theorem State.wr_isAmber (f : Fld) (v : Nat) : (s.wr f v).isAmber = s.isAmber := rfl
@[simp] theorem State.wr_isGreen (f : Fld) (v : Nat) : (s.wr f v).isGreen = s.isGreen := rfl
@[simp] theorem State.wr_isSleep (f : Fld) (v : Nat) : (s.wr f v).isSleep = s.isSleep := rfl
@[simp] theorem State.wr_seq (f : Fld) (v : Nat) (j : Nat) : (s.wr f v).seq j = s.seq j := rfl
@[simp] theorem State.wr_cell (f : Fld) (v : Nat) (j : Nat) : (s.wr f v).cell j = s.cell j := rfl
@[simp] theorem State.wr_lane (f : Fld) (v : Nat) (j : Nat) : (s.wr f v).lane j = s.lane j := rfl
@[simp] theorem State.wr_comb (f : Fld) (v : Nat) (j : Nat) : (s.wr f v).comb j = s.comb j := rfl
@[simp] theorem State.wr_biasOut (f : Fld) (v : Nat) (j : Nat) : (s.wr f v).biasOut j = s.biasOut j := rfl
@[simp] theorem State.wr_grpLoads (f : Fld) (v : Nat) (j : Nat) : (s.wr f v).grpLoads j = s.grpLoads j := rfl
@[simp] theorem State.wr_mkr (f : Fld) (v : Nat) (j : Nat) : (s.wr f v).mkr j = s.mkr j := rfl
@[simp] theorem State.wr_stamp (f : Fld) (v : Nat) (j : Nat) : (s.wr f v).stamp j = s.stamp j := rfl
@[simp] theorem State.wr_unit (f : Fld) (v : Nat) (j : Nat) : (s.wr f v).unit j = s.unit j := rfl
@[simp] theorem State.wr_port (f : Fld) (v : Nat) (j : Nat) : (s.wr f v).port j = s.port j := rfl
@[simp] theorem State.wr_txn (f : Fld) (v : Nat) (j : Nat) : (s.wr f v).txn j = s.txn j := rfl
@[simp] theorem State.wr_mon (f : Fld) (v : Nat) (j : Nat) : (s.wr f v).mon j = s.mon j := rfl
@[simp] theorem State.wr_win (f : Fld) (v : Nat) (j : Nat) : (s.wr f v).win j = s.win j := rfl
@[simp] theorem State.wr_cap (f : Fld) (v : Nat) (j : Nat) : (s.wr f v).cap j = s.cap j := rfl

/-! ### awr -/

@[simp] theorem State.awr_pending (f : Fld) (v : Nat) : (s.awr f v).pending = s.pending := rfl
@[simp] theorem State.awr_free (f : Fld) (v : Nat) : (s.awr f v).free = s.free := rfl
@[simp] theorem State.awr_dial (f : Fld) (v : Nat) : (s.awr f v).dial = s.dial := rfl
@[simp] theorem State.awr_regs (f : Fld) (v : Nat) : (s.awr f v).regs = s.regs := rfl
@[simp] theorem State.awr_svc (f : Fld) (v : Nat) : (s.awr f v).svc = s.svc := rfl
@[simp] theorem State.awr_i3c (f : Fld) (v : Nat) : (s.awr f v).i3c = s.i3c := rfl
@[simp] theorem State.awr_strobes (f : Fld) (v : Nat) : (s.awr f v).strobes = s.strobes := rfl
@[simp] theorem State.awr_wins (f : Fld) (v : Nat) : (s.awr f v).wins = s.wins := rfl
@[simp] theorem State.awr_capt (f : Fld) (v : Nat) : (s.awr f v).capt = s.capt := rfl
@[simp] theorem State.awr_locks (f : Fld) (v : Nat) : (s.awr f v).locks = s.locks := rfl
@[simp] theorem State.awr_accBase (f : Fld) (v : Nat) : (s.awr f v).accBase = s.accBase := rfl
@[simp] theorem State.awr_seqs (f : Fld) (v : Nat) : (s.awr f v).seqs = s.seqs := rfl
@[simp] theorem State.awr_cells (f : Fld) (v : Nat) : (s.awr f v).cells = s.cells := rfl
@[simp] theorem State.awr_lanes (f : Fld) (v : Nat) : (s.awr f v).lanes = s.lanes := rfl
@[simp] theorem State.awr_combs (f : Fld) (v : Nat) : (s.awr f v).combs = s.combs := rfl
@[simp] theorem State.awr_bank (f : Fld) (v : Nat) : (s.awr f v).bank = s.bank := rfl
@[simp] theorem State.awr_bankAct (f : Fld) (v : Nat) : (s.awr f v).bankAct = s.bankAct := rfl
@[simp] theorem State.awr_marks (f : Fld) (v : Nat) : (s.awr f v).marks = s.marks := rfl
@[simp] theorem State.awr_micro (f : Fld) (v : Nat) : (s.awr f v).micro = s.micro := rfl
@[simp] theorem State.awr_nano (f : Fld) (v : Nat) : (s.awr f v).nano = s.nano := rfl
@[simp] theorem State.awr_cache (f : Fld) (v : Nat) : (s.awr f v).cache = s.cache := rfl
@[simp] theorem State.awr_kern (f : Fld) (v : Nat) : (s.awr f v).kern = s.kern := rfl
@[simp] theorem State.awr_descs (f : Fld) (v : Nat) : (s.awr f v).descs = s.descs := rfl
@[simp] theorem State.awr_dec (f : Fld) (v : Nat) : (s.awr f v).dec = s.dec := rfl
@[simp] theorem State.awr_bias (f : Fld) (v : Nat) : (s.awr f v).bias = s.bias := rfl
@[simp] theorem State.awr_loads (f : Fld) (v : Nat) : (s.awr f v).loads = s.loads := rfl
@[simp] theorem State.awr_wag (f : Fld) (v : Nat) : (s.awr f v).wag = s.wag := rfl
@[simp] theorem State.awr_hbm (f : Fld) (v : Nat) : (s.awr f v).hbm = s.hbm := rfl
@[simp] theorem State.awr_poison (f : Fld) (v : Nat) : (s.awr f v).poison = s.poison := rfl
@[simp] theorem State.awr_flash (f : Fld) (v : Nat) : (s.awr f v).flash = s.flash := rfl
@[simp] theorem State.awr_mkrs (f : Fld) (v : Nat) : (s.awr f v).mkrs = s.mkrs := rfl
@[simp] theorem State.awr_stmp (f : Fld) (v : Nat) : (s.awr f v).stmp = s.stmp := rfl
@[simp] theorem State.awr_cd (f : Fld) (v : Nat) : (s.awr f v).cd = s.cd := rfl
@[simp] theorem State.awr_meas (f : Fld) (v : Nat) : (s.awr f v).meas = s.meas := rfl
@[simp] theorem State.awr_ports (f : Fld) (v : Nat) : (s.awr f v).ports = s.ports := rfl
@[simp] theorem State.awr_txns (f : Fld) (v : Nat) : (s.awr f v).txns = s.txns := rfl
@[simp] theorem State.awr_swm (f : Fld) (v : Nat) : (s.awr f v).swm = s.swm := rfl
@[simp] theorem State.awr_chain (f : Fld) (v : Nat) : (s.awr f v).chain = s.chain := rfl
@[simp] theorem State.awr_far (f : Fld) (v : Nat) : (s.awr f v).far = s.far := rfl
@[simp] theorem State.awr_memo (f : Fld) (v : Nat) : (s.awr f v).memo = s.memo := rfl
@[simp] theorem State.awr_life (f : Fld) (v : Nat) : (s.awr f v).life = s.life := rfl
@[simp] theorem State.awr_caps (f : Fld) (v : Nat) : (s.awr f v).caps = s.caps := rfl
@[simp] theorem State.awr_mons (f : Fld) (v : Nat) : (s.awr f v).mons = s.mons := rfl
@[simp] theorem State.awr_thm (f : Fld) (v : Nat) : (s.awr f v).thm = s.thm := rfl
@[simp] theorem State.awr_cal (f : Fld) (v : Nat) : (s.awr f v).cal = s.cal := rfl
@[simp] theorem State.awr_sec (f : Fld) (v : Nat) : (s.awr f v).sec = s.sec := rfl
@[simp] theorem State.awr_reqNo (f : Fld) (v : Nat) : (s.awr f v).reqNo = s.reqNo := rfl
@[simp] theorem State.awr_lastApply (f : Fld) (v : Nat) : (s.awr f v).lastApply = s.lastApply := rfl
@[simp] theorem State.awr_rd (f : Fld) (v : Nat) (g : Fld) : (s.awr f v).rd g = s.rd g := rfl
@[simp] theorem State.awr_awake (f : Fld) (v : Nat) : (s.awr f v).awake = s.awake := rfl
@[simp] theorem State.awr_isAmber (f : Fld) (v : Nat) : (s.awr f v).isAmber = s.isAmber := rfl
@[simp] theorem State.awr_isGreen (f : Fld) (v : Nat) : (s.awr f v).isGreen = s.isGreen := rfl
@[simp] theorem State.awr_isSleep (f : Fld) (v : Nat) : (s.awr f v).isSleep = s.isSleep := rfl
@[simp] theorem State.awr_seq (f : Fld) (v : Nat) (j : Nat) : (s.awr f v).seq j = s.seq j := rfl
@[simp] theorem State.awr_cell (f : Fld) (v : Nat) (j : Nat) : (s.awr f v).cell j = s.cell j := rfl
@[simp] theorem State.awr_lane (f : Fld) (v : Nat) (j : Nat) : (s.awr f v).lane j = s.lane j := rfl
@[simp] theorem State.awr_comb (f : Fld) (v : Nat) (j : Nat) : (s.awr f v).comb j = s.comb j := rfl
@[simp] theorem State.awr_biasOut (f : Fld) (v : Nat) (j : Nat) : (s.awr f v).biasOut j = s.biasOut j := rfl
@[simp] theorem State.awr_grpLoads (f : Fld) (v : Nat) (j : Nat) : (s.awr f v).grpLoads j = s.grpLoads j := rfl
@[simp] theorem State.awr_mkr (f : Fld) (v : Nat) (j : Nat) : (s.awr f v).mkr j = s.mkr j := rfl
@[simp] theorem State.awr_stamp (f : Fld) (v : Nat) (j : Nat) : (s.awr f v).stamp j = s.stamp j := rfl
@[simp] theorem State.awr_unit (f : Fld) (v : Nat) (j : Nat) : (s.awr f v).unit j = s.unit j := rfl
@[simp] theorem State.awr_port (f : Fld) (v : Nat) (j : Nat) : (s.awr f v).port j = s.port j := rfl
@[simp] theorem State.awr_txn (f : Fld) (v : Nat) (j : Nat) : (s.awr f v).txn j = s.txn j := rfl
@[simp] theorem State.awr_mon (f : Fld) (v : Nat) (j : Nat) : (s.awr f v).mon j = s.mon j := rfl
@[simp] theorem State.awr_win (f : Fld) (v : Nat) (j : Nat) : (s.awr f v).win j = s.win j := rfl
@[simp] theorem State.awr_cap (f : Fld) (v : Nat) (j : Nat) : (s.awr f v).cap j = s.cap j := rfl

/-! ### setSeq -/

@[simp] theorem State.setSeq_pending (k : Nat) (x : SeqSt) : (s.setSeq k x).pending = s.pending := rfl
@[simp] theorem State.setSeq_free (k : Nat) (x : SeqSt) : (s.setSeq k x).free = s.free := rfl
@[simp] theorem State.setSeq_dial (k : Nat) (x : SeqSt) : (s.setSeq k x).dial = s.dial := rfl
@[simp] theorem State.setSeq_regs (k : Nat) (x : SeqSt) : (s.setSeq k x).regs = s.regs := rfl
@[simp] theorem State.setSeq_act (k : Nat) (x : SeqSt) : (s.setSeq k x).act = s.act := rfl
@[simp] theorem State.setSeq_svc (k : Nat) (x : SeqSt) : (s.setSeq k x).svc = s.svc := rfl
@[simp] theorem State.setSeq_i3c (k : Nat) (x : SeqSt) : (s.setSeq k x).i3c = s.i3c := rfl
@[simp] theorem State.setSeq_strobes (k : Nat) (x : SeqSt) : (s.setSeq k x).strobes = s.strobes := rfl
@[simp] theorem State.setSeq_wins (k : Nat) (x : SeqSt) : (s.setSeq k x).wins = s.wins := rfl
@[simp] theorem State.setSeq_capt (k : Nat) (x : SeqSt) : (s.setSeq k x).capt = s.capt := rfl
@[simp] theorem State.setSeq_locks (k : Nat) (x : SeqSt) : (s.setSeq k x).locks = s.locks := rfl
@[simp] theorem State.setSeq_accBase (k : Nat) (x : SeqSt) : (s.setSeq k x).accBase = s.accBase := rfl
@[simp] theorem State.setSeq_cells (k : Nat) (x : SeqSt) : (s.setSeq k x).cells = s.cells := rfl
@[simp] theorem State.setSeq_lanes (k : Nat) (x : SeqSt) : (s.setSeq k x).lanes = s.lanes := rfl
@[simp] theorem State.setSeq_combs (k : Nat) (x : SeqSt) : (s.setSeq k x).combs = s.combs := rfl
@[simp] theorem State.setSeq_bank (k : Nat) (x : SeqSt) : (s.setSeq k x).bank = s.bank := rfl
@[simp] theorem State.setSeq_bankAct (k : Nat) (x : SeqSt) : (s.setSeq k x).bankAct = s.bankAct := rfl
@[simp] theorem State.setSeq_marks (k : Nat) (x : SeqSt) : (s.setSeq k x).marks = s.marks := rfl
@[simp] theorem State.setSeq_micro (k : Nat) (x : SeqSt) : (s.setSeq k x).micro = s.micro := rfl
@[simp] theorem State.setSeq_nano (k : Nat) (x : SeqSt) : (s.setSeq k x).nano = s.nano := rfl
@[simp] theorem State.setSeq_cache (k : Nat) (x : SeqSt) : (s.setSeq k x).cache = s.cache := rfl
@[simp] theorem State.setSeq_kern (k : Nat) (x : SeqSt) : (s.setSeq k x).kern = s.kern := rfl
@[simp] theorem State.setSeq_descs (k : Nat) (x : SeqSt) : (s.setSeq k x).descs = s.descs := rfl
@[simp] theorem State.setSeq_dec (k : Nat) (x : SeqSt) : (s.setSeq k x).dec = s.dec := rfl
@[simp] theorem State.setSeq_bias (k : Nat) (x : SeqSt) : (s.setSeq k x).bias = s.bias := rfl
@[simp] theorem State.setSeq_loads (k : Nat) (x : SeqSt) : (s.setSeq k x).loads = s.loads := rfl
@[simp] theorem State.setSeq_wag (k : Nat) (x : SeqSt) : (s.setSeq k x).wag = s.wag := rfl
@[simp] theorem State.setSeq_hbm (k : Nat) (x : SeqSt) : (s.setSeq k x).hbm = s.hbm := rfl
@[simp] theorem State.setSeq_poison (k : Nat) (x : SeqSt) : (s.setSeq k x).poison = s.poison := rfl
@[simp] theorem State.setSeq_flash (k : Nat) (x : SeqSt) : (s.setSeq k x).flash = s.flash := rfl
@[simp] theorem State.setSeq_mkrs (k : Nat) (x : SeqSt) : (s.setSeq k x).mkrs = s.mkrs := rfl
@[simp] theorem State.setSeq_stmp (k : Nat) (x : SeqSt) : (s.setSeq k x).stmp = s.stmp := rfl
@[simp] theorem State.setSeq_cd (k : Nat) (x : SeqSt) : (s.setSeq k x).cd = s.cd := rfl
@[simp] theorem State.setSeq_meas (k : Nat) (x : SeqSt) : (s.setSeq k x).meas = s.meas := rfl
@[simp] theorem State.setSeq_ports (k : Nat) (x : SeqSt) : (s.setSeq k x).ports = s.ports := rfl
@[simp] theorem State.setSeq_txns (k : Nat) (x : SeqSt) : (s.setSeq k x).txns = s.txns := rfl
@[simp] theorem State.setSeq_swm (k : Nat) (x : SeqSt) : (s.setSeq k x).swm = s.swm := rfl
@[simp] theorem State.setSeq_chain (k : Nat) (x : SeqSt) : (s.setSeq k x).chain = s.chain := rfl
@[simp] theorem State.setSeq_far (k : Nat) (x : SeqSt) : (s.setSeq k x).far = s.far := rfl
@[simp] theorem State.setSeq_memo (k : Nat) (x : SeqSt) : (s.setSeq k x).memo = s.memo := rfl
@[simp] theorem State.setSeq_life (k : Nat) (x : SeqSt) : (s.setSeq k x).life = s.life := rfl
@[simp] theorem State.setSeq_caps (k : Nat) (x : SeqSt) : (s.setSeq k x).caps = s.caps := rfl
@[simp] theorem State.setSeq_mons (k : Nat) (x : SeqSt) : (s.setSeq k x).mons = s.mons := rfl
@[simp] theorem State.setSeq_thm (k : Nat) (x : SeqSt) : (s.setSeq k x).thm = s.thm := rfl
@[simp] theorem State.setSeq_cal (k : Nat) (x : SeqSt) : (s.setSeq k x).cal = s.cal := rfl
@[simp] theorem State.setSeq_sec (k : Nat) (x : SeqSt) : (s.setSeq k x).sec = s.sec := rfl
@[simp] theorem State.setSeq_reqNo (k : Nat) (x : SeqSt) : (s.setSeq k x).reqNo = s.reqNo := rfl
@[simp] theorem State.setSeq_lastApply (k : Nat) (x : SeqSt) : (s.setSeq k x).lastApply = s.lastApply := rfl
@[simp] theorem State.setSeq_rd (k : Nat) (x : SeqSt) (g : Fld) : (s.setSeq k x).rd g = s.rd g := rfl
@[simp] theorem State.setSeq_ard (k : Nat) (x : SeqSt) (g : Fld) : (s.setSeq k x).ard g = s.ard g := rfl
@[simp] theorem State.setSeq_awake (k : Nat) (x : SeqSt) : (s.setSeq k x).awake = s.awake := rfl
@[simp] theorem State.setSeq_isAmber (k : Nat) (x : SeqSt) : (s.setSeq k x).isAmber = s.isAmber := rfl
@[simp] theorem State.setSeq_isGreen (k : Nat) (x : SeqSt) : (s.setSeq k x).isGreen = s.isGreen := rfl
@[simp] theorem State.setSeq_isSleep (k : Nat) (x : SeqSt) : (s.setSeq k x).isSleep = s.isSleep := rfl
@[simp] theorem State.setSeq_cell (k : Nat) (x : SeqSt) (j : Nat) : (s.setSeq k x).cell j = s.cell j := rfl
@[simp] theorem State.setSeq_lane (k : Nat) (x : SeqSt) (j : Nat) : (s.setSeq k x).lane j = s.lane j := rfl
@[simp] theorem State.setSeq_comb (k : Nat) (x : SeqSt) (j : Nat) : (s.setSeq k x).comb j = s.comb j := rfl
@[simp] theorem State.setSeq_biasOut (k : Nat) (x : SeqSt) (j : Nat) : (s.setSeq k x).biasOut j = s.biasOut j := rfl
@[simp] theorem State.setSeq_grpLoads (k : Nat) (x : SeqSt) (j : Nat) : (s.setSeq k x).grpLoads j = s.grpLoads j := rfl
@[simp] theorem State.setSeq_mkr (k : Nat) (x : SeqSt) (j : Nat) : (s.setSeq k x).mkr j = s.mkr j := rfl
@[simp] theorem State.setSeq_stamp (k : Nat) (x : SeqSt) (j : Nat) : (s.setSeq k x).stamp j = s.stamp j := rfl
@[simp] theorem State.setSeq_unit (k : Nat) (x : SeqSt) (j : Nat) : (s.setSeq k x).unit j = s.unit j := rfl
@[simp] theorem State.setSeq_port (k : Nat) (x : SeqSt) (j : Nat) : (s.setSeq k x).port j = s.port j := rfl
@[simp] theorem State.setSeq_txn (k : Nat) (x : SeqSt) (j : Nat) : (s.setSeq k x).txn j = s.txn j := rfl
@[simp] theorem State.setSeq_mon (k : Nat) (x : SeqSt) (j : Nat) : (s.setSeq k x).mon j = s.mon j := rfl
@[simp] theorem State.setSeq_win (k : Nat) (x : SeqSt) (j : Nat) : (s.setSeq k x).win j = s.win j := rfl
@[simp] theorem State.setSeq_cap (k : Nat) (x : SeqSt) (j : Nat) : (s.setSeq k x).cap j = s.cap j := rfl
@[simp] theorem State.setSeq_seq_self (k : Nat) (x : SeqSt) : (s.setSeq k x).seq k = x := SMap.get_set_self _ _ _ _
theorem State.setSeq_seq_ne (k : Nat) (x : SeqSt) {j : Nat} (h : j ≠ k) : (s.setSeq k x).seq j = s.seq j := SMap.get_set_ne _ _ _ h

/-! ### setCell -/

@[simp] theorem State.setCell_pending (k : Nat) (x : CellSt) : (s.setCell k x).pending = s.pending := rfl
@[simp] theorem State.setCell_free (k : Nat) (x : CellSt) : (s.setCell k x).free = s.free := rfl
@[simp] theorem State.setCell_dial (k : Nat) (x : CellSt) : (s.setCell k x).dial = s.dial := rfl
@[simp] theorem State.setCell_regs (k : Nat) (x : CellSt) : (s.setCell k x).regs = s.regs := rfl
@[simp] theorem State.setCell_act (k : Nat) (x : CellSt) : (s.setCell k x).act = s.act := rfl
@[simp] theorem State.setCell_svc (k : Nat) (x : CellSt) : (s.setCell k x).svc = s.svc := rfl
@[simp] theorem State.setCell_i3c (k : Nat) (x : CellSt) : (s.setCell k x).i3c = s.i3c := rfl
@[simp] theorem State.setCell_strobes (k : Nat) (x : CellSt) : (s.setCell k x).strobes = s.strobes := rfl
@[simp] theorem State.setCell_wins (k : Nat) (x : CellSt) : (s.setCell k x).wins = s.wins := rfl
@[simp] theorem State.setCell_capt (k : Nat) (x : CellSt) : (s.setCell k x).capt = s.capt := rfl
@[simp] theorem State.setCell_locks (k : Nat) (x : CellSt) : (s.setCell k x).locks = s.locks := rfl
@[simp] theorem State.setCell_accBase (k : Nat) (x : CellSt) : (s.setCell k x).accBase = s.accBase := rfl
@[simp] theorem State.setCell_seqs (k : Nat) (x : CellSt) : (s.setCell k x).seqs = s.seqs := rfl
@[simp] theorem State.setCell_lanes (k : Nat) (x : CellSt) : (s.setCell k x).lanes = s.lanes := rfl
@[simp] theorem State.setCell_combs (k : Nat) (x : CellSt) : (s.setCell k x).combs = s.combs := rfl
@[simp] theorem State.setCell_bank (k : Nat) (x : CellSt) : (s.setCell k x).bank = s.bank := rfl
@[simp] theorem State.setCell_bankAct (k : Nat) (x : CellSt) : (s.setCell k x).bankAct = s.bankAct := rfl
@[simp] theorem State.setCell_marks (k : Nat) (x : CellSt) : (s.setCell k x).marks = s.marks := rfl
@[simp] theorem State.setCell_micro (k : Nat) (x : CellSt) : (s.setCell k x).micro = s.micro := rfl
@[simp] theorem State.setCell_nano (k : Nat) (x : CellSt) : (s.setCell k x).nano = s.nano := rfl
@[simp] theorem State.setCell_cache (k : Nat) (x : CellSt) : (s.setCell k x).cache = s.cache := rfl
@[simp] theorem State.setCell_kern (k : Nat) (x : CellSt) : (s.setCell k x).kern = s.kern := rfl
@[simp] theorem State.setCell_descs (k : Nat) (x : CellSt) : (s.setCell k x).descs = s.descs := rfl
@[simp] theorem State.setCell_dec (k : Nat) (x : CellSt) : (s.setCell k x).dec = s.dec := rfl
@[simp] theorem State.setCell_bias (k : Nat) (x : CellSt) : (s.setCell k x).bias = s.bias := rfl
@[simp] theorem State.setCell_loads (k : Nat) (x : CellSt) : (s.setCell k x).loads = s.loads := rfl
@[simp] theorem State.setCell_wag (k : Nat) (x : CellSt) : (s.setCell k x).wag = s.wag := rfl
@[simp] theorem State.setCell_hbm (k : Nat) (x : CellSt) : (s.setCell k x).hbm = s.hbm := rfl
@[simp] theorem State.setCell_poison (k : Nat) (x : CellSt) : (s.setCell k x).poison = s.poison := rfl
@[simp] theorem State.setCell_flash (k : Nat) (x : CellSt) : (s.setCell k x).flash = s.flash := rfl
@[simp] theorem State.setCell_mkrs (k : Nat) (x : CellSt) : (s.setCell k x).mkrs = s.mkrs := rfl
@[simp] theorem State.setCell_stmp (k : Nat) (x : CellSt) : (s.setCell k x).stmp = s.stmp := rfl
@[simp] theorem State.setCell_cd (k : Nat) (x : CellSt) : (s.setCell k x).cd = s.cd := rfl
@[simp] theorem State.setCell_meas (k : Nat) (x : CellSt) : (s.setCell k x).meas = s.meas := rfl
@[simp] theorem State.setCell_ports (k : Nat) (x : CellSt) : (s.setCell k x).ports = s.ports := rfl
@[simp] theorem State.setCell_txns (k : Nat) (x : CellSt) : (s.setCell k x).txns = s.txns := rfl
@[simp] theorem State.setCell_swm (k : Nat) (x : CellSt) : (s.setCell k x).swm = s.swm := rfl
@[simp] theorem State.setCell_chain (k : Nat) (x : CellSt) : (s.setCell k x).chain = s.chain := rfl
@[simp] theorem State.setCell_far (k : Nat) (x : CellSt) : (s.setCell k x).far = s.far := rfl
@[simp] theorem State.setCell_memo (k : Nat) (x : CellSt) : (s.setCell k x).memo = s.memo := rfl
@[simp] theorem State.setCell_life (k : Nat) (x : CellSt) : (s.setCell k x).life = s.life := rfl
@[simp] theorem State.setCell_caps (k : Nat) (x : CellSt) : (s.setCell k x).caps = s.caps := rfl
@[simp] theorem State.setCell_mons (k : Nat) (x : CellSt) : (s.setCell k x).mons = s.mons := rfl
@[simp] theorem State.setCell_thm (k : Nat) (x : CellSt) : (s.setCell k x).thm = s.thm := rfl
@[simp] theorem State.setCell_cal (k : Nat) (x : CellSt) : (s.setCell k x).cal = s.cal := rfl
@[simp] theorem State.setCell_sec (k : Nat) (x : CellSt) : (s.setCell k x).sec = s.sec := rfl
@[simp] theorem State.setCell_reqNo (k : Nat) (x : CellSt) : (s.setCell k x).reqNo = s.reqNo := rfl
@[simp] theorem State.setCell_lastApply (k : Nat) (x : CellSt) : (s.setCell k x).lastApply = s.lastApply := rfl
@[simp] theorem State.setCell_rd (k : Nat) (x : CellSt) (g : Fld) : (s.setCell k x).rd g = s.rd g := rfl
@[simp] theorem State.setCell_ard (k : Nat) (x : CellSt) (g : Fld) : (s.setCell k x).ard g = s.ard g := rfl
@[simp] theorem State.setCell_awake (k : Nat) (x : CellSt) : (s.setCell k x).awake = s.awake := rfl
@[simp] theorem State.setCell_isAmber (k : Nat) (x : CellSt) : (s.setCell k x).isAmber = s.isAmber := rfl
@[simp] theorem State.setCell_isGreen (k : Nat) (x : CellSt) : (s.setCell k x).isGreen = s.isGreen := rfl
@[simp] theorem State.setCell_isSleep (k : Nat) (x : CellSt) : (s.setCell k x).isSleep = s.isSleep := rfl
@[simp] theorem State.setCell_seq (k : Nat) (x : CellSt) (j : Nat) : (s.setCell k x).seq j = s.seq j := rfl
@[simp] theorem State.setCell_lane (k : Nat) (x : CellSt) (j : Nat) : (s.setCell k x).lane j = s.lane j := rfl
@[simp] theorem State.setCell_comb (k : Nat) (x : CellSt) (j : Nat) : (s.setCell k x).comb j = s.comb j := rfl
@[simp] theorem State.setCell_biasOut (k : Nat) (x : CellSt) (j : Nat) : (s.setCell k x).biasOut j = s.biasOut j := rfl
@[simp] theorem State.setCell_grpLoads (k : Nat) (x : CellSt) (j : Nat) : (s.setCell k x).grpLoads j = s.grpLoads j := rfl
@[simp] theorem State.setCell_mkr (k : Nat) (x : CellSt) (j : Nat) : (s.setCell k x).mkr j = s.mkr j := rfl
@[simp] theorem State.setCell_stamp (k : Nat) (x : CellSt) (j : Nat) : (s.setCell k x).stamp j = s.stamp j := rfl
@[simp] theorem State.setCell_unit (k : Nat) (x : CellSt) (j : Nat) : (s.setCell k x).unit j = s.unit j := rfl
@[simp] theorem State.setCell_port (k : Nat) (x : CellSt) (j : Nat) : (s.setCell k x).port j = s.port j := rfl
@[simp] theorem State.setCell_txn (k : Nat) (x : CellSt) (j : Nat) : (s.setCell k x).txn j = s.txn j := rfl
@[simp] theorem State.setCell_mon (k : Nat) (x : CellSt) (j : Nat) : (s.setCell k x).mon j = s.mon j := rfl
@[simp] theorem State.setCell_win (k : Nat) (x : CellSt) (j : Nat) : (s.setCell k x).win j = s.win j := rfl
@[simp] theorem State.setCell_cap (k : Nat) (x : CellSt) (j : Nat) : (s.setCell k x).cap j = s.cap j := rfl
@[simp] theorem State.setCell_cell_self (k : Nat) (x : CellSt) : (s.setCell k x).cell k = x := SMap.get_set_self _ _ _ _
theorem State.setCell_cell_ne (k : Nat) (x : CellSt) {j : Nat} (h : j ≠ k) : (s.setCell k x).cell j = s.cell j := SMap.get_set_ne _ _ _ h

/-! ### setLane -/

@[simp] theorem State.setLane_pending (k : Nat) (x : LaneSt) : (s.setLane k x).pending = s.pending := rfl
@[simp] theorem State.setLane_free (k : Nat) (x : LaneSt) : (s.setLane k x).free = s.free := rfl
@[simp] theorem State.setLane_dial (k : Nat) (x : LaneSt) : (s.setLane k x).dial = s.dial := rfl
@[simp] theorem State.setLane_regs (k : Nat) (x : LaneSt) : (s.setLane k x).regs = s.regs := rfl
@[simp] theorem State.setLane_act (k : Nat) (x : LaneSt) : (s.setLane k x).act = s.act := rfl
@[simp] theorem State.setLane_svc (k : Nat) (x : LaneSt) : (s.setLane k x).svc = s.svc := rfl
@[simp] theorem State.setLane_i3c (k : Nat) (x : LaneSt) : (s.setLane k x).i3c = s.i3c := rfl
@[simp] theorem State.setLane_strobes (k : Nat) (x : LaneSt) : (s.setLane k x).strobes = s.strobes := rfl
@[simp] theorem State.setLane_wins (k : Nat) (x : LaneSt) : (s.setLane k x).wins = s.wins := rfl
@[simp] theorem State.setLane_capt (k : Nat) (x : LaneSt) : (s.setLane k x).capt = s.capt := rfl
@[simp] theorem State.setLane_locks (k : Nat) (x : LaneSt) : (s.setLane k x).locks = s.locks := rfl
@[simp] theorem State.setLane_accBase (k : Nat) (x : LaneSt) : (s.setLane k x).accBase = s.accBase := rfl
@[simp] theorem State.setLane_seqs (k : Nat) (x : LaneSt) : (s.setLane k x).seqs = s.seqs := rfl
@[simp] theorem State.setLane_cells (k : Nat) (x : LaneSt) : (s.setLane k x).cells = s.cells := rfl
@[simp] theorem State.setLane_combs (k : Nat) (x : LaneSt) : (s.setLane k x).combs = s.combs := rfl
@[simp] theorem State.setLane_bank (k : Nat) (x : LaneSt) : (s.setLane k x).bank = s.bank := rfl
@[simp] theorem State.setLane_bankAct (k : Nat) (x : LaneSt) : (s.setLane k x).bankAct = s.bankAct := rfl
@[simp] theorem State.setLane_marks (k : Nat) (x : LaneSt) : (s.setLane k x).marks = s.marks := rfl
@[simp] theorem State.setLane_micro (k : Nat) (x : LaneSt) : (s.setLane k x).micro = s.micro := rfl
@[simp] theorem State.setLane_nano (k : Nat) (x : LaneSt) : (s.setLane k x).nano = s.nano := rfl
@[simp] theorem State.setLane_cache (k : Nat) (x : LaneSt) : (s.setLane k x).cache = s.cache := rfl
@[simp] theorem State.setLane_kern (k : Nat) (x : LaneSt) : (s.setLane k x).kern = s.kern := rfl
@[simp] theorem State.setLane_descs (k : Nat) (x : LaneSt) : (s.setLane k x).descs = s.descs := rfl
@[simp] theorem State.setLane_dec (k : Nat) (x : LaneSt) : (s.setLane k x).dec = s.dec := rfl
@[simp] theorem State.setLane_bias (k : Nat) (x : LaneSt) : (s.setLane k x).bias = s.bias := rfl
@[simp] theorem State.setLane_loads (k : Nat) (x : LaneSt) : (s.setLane k x).loads = s.loads := rfl
@[simp] theorem State.setLane_wag (k : Nat) (x : LaneSt) : (s.setLane k x).wag = s.wag := rfl
@[simp] theorem State.setLane_hbm (k : Nat) (x : LaneSt) : (s.setLane k x).hbm = s.hbm := rfl
@[simp] theorem State.setLane_poison (k : Nat) (x : LaneSt) : (s.setLane k x).poison = s.poison := rfl
@[simp] theorem State.setLane_flash (k : Nat) (x : LaneSt) : (s.setLane k x).flash = s.flash := rfl
@[simp] theorem State.setLane_mkrs (k : Nat) (x : LaneSt) : (s.setLane k x).mkrs = s.mkrs := rfl
@[simp] theorem State.setLane_stmp (k : Nat) (x : LaneSt) : (s.setLane k x).stmp = s.stmp := rfl
@[simp] theorem State.setLane_cd (k : Nat) (x : LaneSt) : (s.setLane k x).cd = s.cd := rfl
@[simp] theorem State.setLane_meas (k : Nat) (x : LaneSt) : (s.setLane k x).meas = s.meas := rfl
@[simp] theorem State.setLane_ports (k : Nat) (x : LaneSt) : (s.setLane k x).ports = s.ports := rfl
@[simp] theorem State.setLane_txns (k : Nat) (x : LaneSt) : (s.setLane k x).txns = s.txns := rfl
@[simp] theorem State.setLane_swm (k : Nat) (x : LaneSt) : (s.setLane k x).swm = s.swm := rfl
@[simp] theorem State.setLane_chain (k : Nat) (x : LaneSt) : (s.setLane k x).chain = s.chain := rfl
@[simp] theorem State.setLane_far (k : Nat) (x : LaneSt) : (s.setLane k x).far = s.far := rfl
@[simp] theorem State.setLane_memo (k : Nat) (x : LaneSt) : (s.setLane k x).memo = s.memo := rfl
@[simp] theorem State.setLane_life (k : Nat) (x : LaneSt) : (s.setLane k x).life = s.life := rfl
@[simp] theorem State.setLane_caps (k : Nat) (x : LaneSt) : (s.setLane k x).caps = s.caps := rfl
@[simp] theorem State.setLane_mons (k : Nat) (x : LaneSt) : (s.setLane k x).mons = s.mons := rfl
@[simp] theorem State.setLane_thm (k : Nat) (x : LaneSt) : (s.setLane k x).thm = s.thm := rfl
@[simp] theorem State.setLane_cal (k : Nat) (x : LaneSt) : (s.setLane k x).cal = s.cal := rfl
@[simp] theorem State.setLane_sec (k : Nat) (x : LaneSt) : (s.setLane k x).sec = s.sec := rfl
@[simp] theorem State.setLane_reqNo (k : Nat) (x : LaneSt) : (s.setLane k x).reqNo = s.reqNo := rfl
@[simp] theorem State.setLane_lastApply (k : Nat) (x : LaneSt) : (s.setLane k x).lastApply = s.lastApply := rfl
@[simp] theorem State.setLane_rd (k : Nat) (x : LaneSt) (g : Fld) : (s.setLane k x).rd g = s.rd g := rfl
@[simp] theorem State.setLane_ard (k : Nat) (x : LaneSt) (g : Fld) : (s.setLane k x).ard g = s.ard g := rfl
@[simp] theorem State.setLane_awake (k : Nat) (x : LaneSt) : (s.setLane k x).awake = s.awake := rfl
@[simp] theorem State.setLane_isAmber (k : Nat) (x : LaneSt) : (s.setLane k x).isAmber = s.isAmber := rfl
@[simp] theorem State.setLane_isGreen (k : Nat) (x : LaneSt) : (s.setLane k x).isGreen = s.isGreen := rfl
@[simp] theorem State.setLane_isSleep (k : Nat) (x : LaneSt) : (s.setLane k x).isSleep = s.isSleep := rfl
@[simp] theorem State.setLane_seq (k : Nat) (x : LaneSt) (j : Nat) : (s.setLane k x).seq j = s.seq j := rfl
@[simp] theorem State.setLane_cell (k : Nat) (x : LaneSt) (j : Nat) : (s.setLane k x).cell j = s.cell j := rfl
@[simp] theorem State.setLane_comb (k : Nat) (x : LaneSt) (j : Nat) : (s.setLane k x).comb j = s.comb j := rfl
@[simp] theorem State.setLane_biasOut (k : Nat) (x : LaneSt) (j : Nat) : (s.setLane k x).biasOut j = s.biasOut j := rfl
@[simp] theorem State.setLane_grpLoads (k : Nat) (x : LaneSt) (j : Nat) : (s.setLane k x).grpLoads j = s.grpLoads j := rfl
@[simp] theorem State.setLane_mkr (k : Nat) (x : LaneSt) (j : Nat) : (s.setLane k x).mkr j = s.mkr j := rfl
@[simp] theorem State.setLane_stamp (k : Nat) (x : LaneSt) (j : Nat) : (s.setLane k x).stamp j = s.stamp j := rfl
@[simp] theorem State.setLane_unit (k : Nat) (x : LaneSt) (j : Nat) : (s.setLane k x).unit j = s.unit j := rfl
@[simp] theorem State.setLane_port (k : Nat) (x : LaneSt) (j : Nat) : (s.setLane k x).port j = s.port j := rfl
@[simp] theorem State.setLane_txn (k : Nat) (x : LaneSt) (j : Nat) : (s.setLane k x).txn j = s.txn j := rfl
@[simp] theorem State.setLane_mon (k : Nat) (x : LaneSt) (j : Nat) : (s.setLane k x).mon j = s.mon j := rfl
@[simp] theorem State.setLane_win (k : Nat) (x : LaneSt) (j : Nat) : (s.setLane k x).win j = s.win j := rfl
@[simp] theorem State.setLane_cap (k : Nat) (x : LaneSt) (j : Nat) : (s.setLane k x).cap j = s.cap j := rfl
@[simp] theorem State.setLane_lane_self (k : Nat) (x : LaneSt) : (s.setLane k x).lane k = x := SMap.get_set_self _ _ _ _
theorem State.setLane_lane_ne (k : Nat) (x : LaneSt) {j : Nat} (h : j ≠ k) : (s.setLane k x).lane j = s.lane j := SMap.get_set_ne _ _ _ h

/-! ### setComb -/

@[simp] theorem State.setComb_pending (k : Nat) (x : CombSt) : (s.setComb k x).pending = s.pending := rfl
@[simp] theorem State.setComb_free (k : Nat) (x : CombSt) : (s.setComb k x).free = s.free := rfl
@[simp] theorem State.setComb_dial (k : Nat) (x : CombSt) : (s.setComb k x).dial = s.dial := rfl
@[simp] theorem State.setComb_regs (k : Nat) (x : CombSt) : (s.setComb k x).regs = s.regs := rfl
@[simp] theorem State.setComb_act (k : Nat) (x : CombSt) : (s.setComb k x).act = s.act := rfl
@[simp] theorem State.setComb_svc (k : Nat) (x : CombSt) : (s.setComb k x).svc = s.svc := rfl
@[simp] theorem State.setComb_i3c (k : Nat) (x : CombSt) : (s.setComb k x).i3c = s.i3c := rfl
@[simp] theorem State.setComb_strobes (k : Nat) (x : CombSt) : (s.setComb k x).strobes = s.strobes := rfl
@[simp] theorem State.setComb_wins (k : Nat) (x : CombSt) : (s.setComb k x).wins = s.wins := rfl
@[simp] theorem State.setComb_capt (k : Nat) (x : CombSt) : (s.setComb k x).capt = s.capt := rfl
@[simp] theorem State.setComb_locks (k : Nat) (x : CombSt) : (s.setComb k x).locks = s.locks := rfl
@[simp] theorem State.setComb_accBase (k : Nat) (x : CombSt) : (s.setComb k x).accBase = s.accBase := rfl
@[simp] theorem State.setComb_seqs (k : Nat) (x : CombSt) : (s.setComb k x).seqs = s.seqs := rfl
@[simp] theorem State.setComb_cells (k : Nat) (x : CombSt) : (s.setComb k x).cells = s.cells := rfl
@[simp] theorem State.setComb_lanes (k : Nat) (x : CombSt) : (s.setComb k x).lanes = s.lanes := rfl
@[simp] theorem State.setComb_bank (k : Nat) (x : CombSt) : (s.setComb k x).bank = s.bank := rfl
@[simp] theorem State.setComb_bankAct (k : Nat) (x : CombSt) : (s.setComb k x).bankAct = s.bankAct := rfl
@[simp] theorem State.setComb_marks (k : Nat) (x : CombSt) : (s.setComb k x).marks = s.marks := rfl
@[simp] theorem State.setComb_micro (k : Nat) (x : CombSt) : (s.setComb k x).micro = s.micro := rfl
@[simp] theorem State.setComb_nano (k : Nat) (x : CombSt) : (s.setComb k x).nano = s.nano := rfl
@[simp] theorem State.setComb_cache (k : Nat) (x : CombSt) : (s.setComb k x).cache = s.cache := rfl
@[simp] theorem State.setComb_kern (k : Nat) (x : CombSt) : (s.setComb k x).kern = s.kern := rfl
@[simp] theorem State.setComb_descs (k : Nat) (x : CombSt) : (s.setComb k x).descs = s.descs := rfl
@[simp] theorem State.setComb_dec (k : Nat) (x : CombSt) : (s.setComb k x).dec = s.dec := rfl
@[simp] theorem State.setComb_bias (k : Nat) (x : CombSt) : (s.setComb k x).bias = s.bias := rfl
@[simp] theorem State.setComb_loads (k : Nat) (x : CombSt) : (s.setComb k x).loads = s.loads := rfl
@[simp] theorem State.setComb_wag (k : Nat) (x : CombSt) : (s.setComb k x).wag = s.wag := rfl
@[simp] theorem State.setComb_hbm (k : Nat) (x : CombSt) : (s.setComb k x).hbm = s.hbm := rfl
@[simp] theorem State.setComb_poison (k : Nat) (x : CombSt) : (s.setComb k x).poison = s.poison := rfl
@[simp] theorem State.setComb_flash (k : Nat) (x : CombSt) : (s.setComb k x).flash = s.flash := rfl
@[simp] theorem State.setComb_mkrs (k : Nat) (x : CombSt) : (s.setComb k x).mkrs = s.mkrs := rfl
@[simp] theorem State.setComb_stmp (k : Nat) (x : CombSt) : (s.setComb k x).stmp = s.stmp := rfl
@[simp] theorem State.setComb_cd (k : Nat) (x : CombSt) : (s.setComb k x).cd = s.cd := rfl
@[simp] theorem State.setComb_meas (k : Nat) (x : CombSt) : (s.setComb k x).meas = s.meas := rfl
@[simp] theorem State.setComb_ports (k : Nat) (x : CombSt) : (s.setComb k x).ports = s.ports := rfl
@[simp] theorem State.setComb_txns (k : Nat) (x : CombSt) : (s.setComb k x).txns = s.txns := rfl
@[simp] theorem State.setComb_swm (k : Nat) (x : CombSt) : (s.setComb k x).swm = s.swm := rfl
@[simp] theorem State.setComb_chain (k : Nat) (x : CombSt) : (s.setComb k x).chain = s.chain := rfl
@[simp] theorem State.setComb_far (k : Nat) (x : CombSt) : (s.setComb k x).far = s.far := rfl
@[simp] theorem State.setComb_memo (k : Nat) (x : CombSt) : (s.setComb k x).memo = s.memo := rfl
@[simp] theorem State.setComb_life (k : Nat) (x : CombSt) : (s.setComb k x).life = s.life := rfl
@[simp] theorem State.setComb_caps (k : Nat) (x : CombSt) : (s.setComb k x).caps = s.caps := rfl
@[simp] theorem State.setComb_mons (k : Nat) (x : CombSt) : (s.setComb k x).mons = s.mons := rfl
@[simp] theorem State.setComb_thm (k : Nat) (x : CombSt) : (s.setComb k x).thm = s.thm := rfl
@[simp] theorem State.setComb_cal (k : Nat) (x : CombSt) : (s.setComb k x).cal = s.cal := rfl
@[simp] theorem State.setComb_sec (k : Nat) (x : CombSt) : (s.setComb k x).sec = s.sec := rfl
@[simp] theorem State.setComb_reqNo (k : Nat) (x : CombSt) : (s.setComb k x).reqNo = s.reqNo := rfl
@[simp] theorem State.setComb_lastApply (k : Nat) (x : CombSt) : (s.setComb k x).lastApply = s.lastApply := rfl
@[simp] theorem State.setComb_rd (k : Nat) (x : CombSt) (g : Fld) : (s.setComb k x).rd g = s.rd g := rfl
@[simp] theorem State.setComb_ard (k : Nat) (x : CombSt) (g : Fld) : (s.setComb k x).ard g = s.ard g := rfl
@[simp] theorem State.setComb_awake (k : Nat) (x : CombSt) : (s.setComb k x).awake = s.awake := rfl
@[simp] theorem State.setComb_isAmber (k : Nat) (x : CombSt) : (s.setComb k x).isAmber = s.isAmber := rfl
@[simp] theorem State.setComb_isGreen (k : Nat) (x : CombSt) : (s.setComb k x).isGreen = s.isGreen := rfl
@[simp] theorem State.setComb_isSleep (k : Nat) (x : CombSt) : (s.setComb k x).isSleep = s.isSleep := rfl
@[simp] theorem State.setComb_seq (k : Nat) (x : CombSt) (j : Nat) : (s.setComb k x).seq j = s.seq j := rfl
@[simp] theorem State.setComb_cell (k : Nat) (x : CombSt) (j : Nat) : (s.setComb k x).cell j = s.cell j := rfl
@[simp] theorem State.setComb_lane (k : Nat) (x : CombSt) (j : Nat) : (s.setComb k x).lane j = s.lane j := rfl
@[simp] theorem State.setComb_biasOut (k : Nat) (x : CombSt) (j : Nat) : (s.setComb k x).biasOut j = s.biasOut j := rfl
@[simp] theorem State.setComb_grpLoads (k : Nat) (x : CombSt) (j : Nat) : (s.setComb k x).grpLoads j = s.grpLoads j := rfl
@[simp] theorem State.setComb_mkr (k : Nat) (x : CombSt) (j : Nat) : (s.setComb k x).mkr j = s.mkr j := rfl
@[simp] theorem State.setComb_stamp (k : Nat) (x : CombSt) (j : Nat) : (s.setComb k x).stamp j = s.stamp j := rfl
@[simp] theorem State.setComb_unit (k : Nat) (x : CombSt) (j : Nat) : (s.setComb k x).unit j = s.unit j := rfl
@[simp] theorem State.setComb_port (k : Nat) (x : CombSt) (j : Nat) : (s.setComb k x).port j = s.port j := rfl
@[simp] theorem State.setComb_txn (k : Nat) (x : CombSt) (j : Nat) : (s.setComb k x).txn j = s.txn j := rfl
@[simp] theorem State.setComb_mon (k : Nat) (x : CombSt) (j : Nat) : (s.setComb k x).mon j = s.mon j := rfl
@[simp] theorem State.setComb_win (k : Nat) (x : CombSt) (j : Nat) : (s.setComb k x).win j = s.win j := rfl
@[simp] theorem State.setComb_cap (k : Nat) (x : CombSt) (j : Nat) : (s.setComb k x).cap j = s.cap j := rfl
@[simp] theorem State.setComb_comb_self (k : Nat) (x : CombSt) : (s.setComb k x).comb k = x := SMap.get_set_self _ _ _ _
theorem State.setComb_comb_ne (k : Nat) (x : CombSt) {j : Nat} (h : j ≠ k) : (s.setComb k x).comb j = s.comb j := SMap.get_set_ne _ _ _ h

/-! ### setBias -/

@[simp] theorem State.setBias_pending (k : Nat) (x : BiasSt) : (s.setBias k x).pending = s.pending := rfl
@[simp] theorem State.setBias_free (k : Nat) (x : BiasSt) : (s.setBias k x).free = s.free := rfl
@[simp] theorem State.setBias_dial (k : Nat) (x : BiasSt) : (s.setBias k x).dial = s.dial := rfl
@[simp] theorem State.setBias_regs (k : Nat) (x : BiasSt) : (s.setBias k x).regs = s.regs := rfl
@[simp] theorem State.setBias_act (k : Nat) (x : BiasSt) : (s.setBias k x).act = s.act := rfl
@[simp] theorem State.setBias_svc (k : Nat) (x : BiasSt) : (s.setBias k x).svc = s.svc := rfl
@[simp] theorem State.setBias_i3c (k : Nat) (x : BiasSt) : (s.setBias k x).i3c = s.i3c := rfl
@[simp] theorem State.setBias_strobes (k : Nat) (x : BiasSt) : (s.setBias k x).strobes = s.strobes := rfl
@[simp] theorem State.setBias_wins (k : Nat) (x : BiasSt) : (s.setBias k x).wins = s.wins := rfl
@[simp] theorem State.setBias_capt (k : Nat) (x : BiasSt) : (s.setBias k x).capt = s.capt := rfl
@[simp] theorem State.setBias_locks (k : Nat) (x : BiasSt) : (s.setBias k x).locks = s.locks := rfl
@[simp] theorem State.setBias_accBase (k : Nat) (x : BiasSt) : (s.setBias k x).accBase = s.accBase := rfl
@[simp] theorem State.setBias_seqs (k : Nat) (x : BiasSt) : (s.setBias k x).seqs = s.seqs := rfl
@[simp] theorem State.setBias_cells (k : Nat) (x : BiasSt) : (s.setBias k x).cells = s.cells := rfl
@[simp] theorem State.setBias_lanes (k : Nat) (x : BiasSt) : (s.setBias k x).lanes = s.lanes := rfl
@[simp] theorem State.setBias_combs (k : Nat) (x : BiasSt) : (s.setBias k x).combs = s.combs := rfl
@[simp] theorem State.setBias_bank (k : Nat) (x : BiasSt) : (s.setBias k x).bank = s.bank := rfl
@[simp] theorem State.setBias_bankAct (k : Nat) (x : BiasSt) : (s.setBias k x).bankAct = s.bankAct := rfl
@[simp] theorem State.setBias_marks (k : Nat) (x : BiasSt) : (s.setBias k x).marks = s.marks := rfl
@[simp] theorem State.setBias_micro (k : Nat) (x : BiasSt) : (s.setBias k x).micro = s.micro := rfl
@[simp] theorem State.setBias_nano (k : Nat) (x : BiasSt) : (s.setBias k x).nano = s.nano := rfl
@[simp] theorem State.setBias_cache (k : Nat) (x : BiasSt) : (s.setBias k x).cache = s.cache := rfl
@[simp] theorem State.setBias_kern (k : Nat) (x : BiasSt) : (s.setBias k x).kern = s.kern := rfl
@[simp] theorem State.setBias_descs (k : Nat) (x : BiasSt) : (s.setBias k x).descs = s.descs := rfl
@[simp] theorem State.setBias_dec (k : Nat) (x : BiasSt) : (s.setBias k x).dec = s.dec := rfl
@[simp] theorem State.setBias_loads (k : Nat) (x : BiasSt) : (s.setBias k x).loads = s.loads := rfl
@[simp] theorem State.setBias_wag (k : Nat) (x : BiasSt) : (s.setBias k x).wag = s.wag := rfl
@[simp] theorem State.setBias_hbm (k : Nat) (x : BiasSt) : (s.setBias k x).hbm = s.hbm := rfl
@[simp] theorem State.setBias_poison (k : Nat) (x : BiasSt) : (s.setBias k x).poison = s.poison := rfl
@[simp] theorem State.setBias_flash (k : Nat) (x : BiasSt) : (s.setBias k x).flash = s.flash := rfl
@[simp] theorem State.setBias_mkrs (k : Nat) (x : BiasSt) : (s.setBias k x).mkrs = s.mkrs := rfl
@[simp] theorem State.setBias_stmp (k : Nat) (x : BiasSt) : (s.setBias k x).stmp = s.stmp := rfl
@[simp] theorem State.setBias_cd (k : Nat) (x : BiasSt) : (s.setBias k x).cd = s.cd := rfl
@[simp] theorem State.setBias_meas (k : Nat) (x : BiasSt) : (s.setBias k x).meas = s.meas := rfl
@[simp] theorem State.setBias_ports (k : Nat) (x : BiasSt) : (s.setBias k x).ports = s.ports := rfl
@[simp] theorem State.setBias_txns (k : Nat) (x : BiasSt) : (s.setBias k x).txns = s.txns := rfl
@[simp] theorem State.setBias_swm (k : Nat) (x : BiasSt) : (s.setBias k x).swm = s.swm := rfl
@[simp] theorem State.setBias_chain (k : Nat) (x : BiasSt) : (s.setBias k x).chain = s.chain := rfl
@[simp] theorem State.setBias_far (k : Nat) (x : BiasSt) : (s.setBias k x).far = s.far := rfl
@[simp] theorem State.setBias_memo (k : Nat) (x : BiasSt) : (s.setBias k x).memo = s.memo := rfl
@[simp] theorem State.setBias_life (k : Nat) (x : BiasSt) : (s.setBias k x).life = s.life := rfl
@[simp] theorem State.setBias_caps (k : Nat) (x : BiasSt) : (s.setBias k x).caps = s.caps := rfl
@[simp] theorem State.setBias_mons (k : Nat) (x : BiasSt) : (s.setBias k x).mons = s.mons := rfl
@[simp] theorem State.setBias_thm (k : Nat) (x : BiasSt) : (s.setBias k x).thm = s.thm := rfl
@[simp] theorem State.setBias_cal (k : Nat) (x : BiasSt) : (s.setBias k x).cal = s.cal := rfl
@[simp] theorem State.setBias_sec (k : Nat) (x : BiasSt) : (s.setBias k x).sec = s.sec := rfl
@[simp] theorem State.setBias_reqNo (k : Nat) (x : BiasSt) : (s.setBias k x).reqNo = s.reqNo := rfl
@[simp] theorem State.setBias_lastApply (k : Nat) (x : BiasSt) : (s.setBias k x).lastApply = s.lastApply := rfl
@[simp] theorem State.setBias_rd (k : Nat) (x : BiasSt) (g : Fld) : (s.setBias k x).rd g = s.rd g := rfl
@[simp] theorem State.setBias_ard (k : Nat) (x : BiasSt) (g : Fld) : (s.setBias k x).ard g = s.ard g := rfl
@[simp] theorem State.setBias_awake (k : Nat) (x : BiasSt) : (s.setBias k x).awake = s.awake := rfl
@[simp] theorem State.setBias_isAmber (k : Nat) (x : BiasSt) : (s.setBias k x).isAmber = s.isAmber := rfl
@[simp] theorem State.setBias_isGreen (k : Nat) (x : BiasSt) : (s.setBias k x).isGreen = s.isGreen := rfl
@[simp] theorem State.setBias_isSleep (k : Nat) (x : BiasSt) : (s.setBias k x).isSleep = s.isSleep := rfl
@[simp] theorem State.setBias_seq (k : Nat) (x : BiasSt) (j : Nat) : (s.setBias k x).seq j = s.seq j := rfl
@[simp] theorem State.setBias_cell (k : Nat) (x : BiasSt) (j : Nat) : (s.setBias k x).cell j = s.cell j := rfl
@[simp] theorem State.setBias_lane (k : Nat) (x : BiasSt) (j : Nat) : (s.setBias k x).lane j = s.lane j := rfl
@[simp] theorem State.setBias_comb (k : Nat) (x : BiasSt) (j : Nat) : (s.setBias k x).comb j = s.comb j := rfl
@[simp] theorem State.setBias_grpLoads (k : Nat) (x : BiasSt) (j : Nat) : (s.setBias k x).grpLoads j = s.grpLoads j := rfl
@[simp] theorem State.setBias_mkr (k : Nat) (x : BiasSt) (j : Nat) : (s.setBias k x).mkr j = s.mkr j := rfl
@[simp] theorem State.setBias_stamp (k : Nat) (x : BiasSt) (j : Nat) : (s.setBias k x).stamp j = s.stamp j := rfl
@[simp] theorem State.setBias_unit (k : Nat) (x : BiasSt) (j : Nat) : (s.setBias k x).unit j = s.unit j := rfl
@[simp] theorem State.setBias_port (k : Nat) (x : BiasSt) (j : Nat) : (s.setBias k x).port j = s.port j := rfl
@[simp] theorem State.setBias_txn (k : Nat) (x : BiasSt) (j : Nat) : (s.setBias k x).txn j = s.txn j := rfl
@[simp] theorem State.setBias_mon (k : Nat) (x : BiasSt) (j : Nat) : (s.setBias k x).mon j = s.mon j := rfl
@[simp] theorem State.setBias_win (k : Nat) (x : BiasSt) (j : Nat) : (s.setBias k x).win j = s.win j := rfl
@[simp] theorem State.setBias_cap (k : Nat) (x : BiasSt) (j : Nat) : (s.setBias k x).cap j = s.cap j := rfl
@[simp] theorem State.setBias_biasOut_self (k : Nat) (x : BiasSt) : (s.setBias k x).biasOut k = x := SMap.get_set_self _ _ _ _
theorem State.setBias_biasOut_ne (k : Nat) (x : BiasSt) {j : Nat} (h : j ≠ k) : (s.setBias k x).biasOut j = s.biasOut j := SMap.get_set_ne _ _ _ h

/-! ### setLoads -/

@[simp] theorem State.setLoads_pending (k : Nat) (x : List GroupLoad) : (s.setLoads k x).pending = s.pending := rfl
@[simp] theorem State.setLoads_free (k : Nat) (x : List GroupLoad) : (s.setLoads k x).free = s.free := rfl
@[simp] theorem State.setLoads_dial (k : Nat) (x : List GroupLoad) : (s.setLoads k x).dial = s.dial := rfl
@[simp] theorem State.setLoads_regs (k : Nat) (x : List GroupLoad) : (s.setLoads k x).regs = s.regs := rfl
@[simp] theorem State.setLoads_act (k : Nat) (x : List GroupLoad) : (s.setLoads k x).act = s.act := rfl
@[simp] theorem State.setLoads_svc (k : Nat) (x : List GroupLoad) : (s.setLoads k x).svc = s.svc := rfl
@[simp] theorem State.setLoads_i3c (k : Nat) (x : List GroupLoad) : (s.setLoads k x).i3c = s.i3c := rfl
@[simp] theorem State.setLoads_strobes (k : Nat) (x : List GroupLoad) : (s.setLoads k x).strobes = s.strobes := rfl
@[simp] theorem State.setLoads_wins (k : Nat) (x : List GroupLoad) : (s.setLoads k x).wins = s.wins := rfl
@[simp] theorem State.setLoads_capt (k : Nat) (x : List GroupLoad) : (s.setLoads k x).capt = s.capt := rfl
@[simp] theorem State.setLoads_locks (k : Nat) (x : List GroupLoad) : (s.setLoads k x).locks = s.locks := rfl
@[simp] theorem State.setLoads_accBase (k : Nat) (x : List GroupLoad) : (s.setLoads k x).accBase = s.accBase := rfl
@[simp] theorem State.setLoads_seqs (k : Nat) (x : List GroupLoad) : (s.setLoads k x).seqs = s.seqs := rfl
@[simp] theorem State.setLoads_cells (k : Nat) (x : List GroupLoad) : (s.setLoads k x).cells = s.cells := rfl
@[simp] theorem State.setLoads_lanes (k : Nat) (x : List GroupLoad) : (s.setLoads k x).lanes = s.lanes := rfl
@[simp] theorem State.setLoads_combs (k : Nat) (x : List GroupLoad) : (s.setLoads k x).combs = s.combs := rfl
@[simp] theorem State.setLoads_bank (k : Nat) (x : List GroupLoad) : (s.setLoads k x).bank = s.bank := rfl
@[simp] theorem State.setLoads_bankAct (k : Nat) (x : List GroupLoad) : (s.setLoads k x).bankAct = s.bankAct := rfl
@[simp] theorem State.setLoads_marks (k : Nat) (x : List GroupLoad) : (s.setLoads k x).marks = s.marks := rfl
@[simp] theorem State.setLoads_micro (k : Nat) (x : List GroupLoad) : (s.setLoads k x).micro = s.micro := rfl
@[simp] theorem State.setLoads_nano (k : Nat) (x : List GroupLoad) : (s.setLoads k x).nano = s.nano := rfl
@[simp] theorem State.setLoads_cache (k : Nat) (x : List GroupLoad) : (s.setLoads k x).cache = s.cache := rfl
@[simp] theorem State.setLoads_kern (k : Nat) (x : List GroupLoad) : (s.setLoads k x).kern = s.kern := rfl
@[simp] theorem State.setLoads_descs (k : Nat) (x : List GroupLoad) : (s.setLoads k x).descs = s.descs := rfl
@[simp] theorem State.setLoads_dec (k : Nat) (x : List GroupLoad) : (s.setLoads k x).dec = s.dec := rfl
@[simp] theorem State.setLoads_bias (k : Nat) (x : List GroupLoad) : (s.setLoads k x).bias = s.bias := rfl
@[simp] theorem State.setLoads_wag (k : Nat) (x : List GroupLoad) : (s.setLoads k x).wag = s.wag := rfl
@[simp] theorem State.setLoads_hbm (k : Nat) (x : List GroupLoad) : (s.setLoads k x).hbm = s.hbm := rfl
@[simp] theorem State.setLoads_poison (k : Nat) (x : List GroupLoad) : (s.setLoads k x).poison = s.poison := rfl
@[simp] theorem State.setLoads_flash (k : Nat) (x : List GroupLoad) : (s.setLoads k x).flash = s.flash := rfl
@[simp] theorem State.setLoads_mkrs (k : Nat) (x : List GroupLoad) : (s.setLoads k x).mkrs = s.mkrs := rfl
@[simp] theorem State.setLoads_stmp (k : Nat) (x : List GroupLoad) : (s.setLoads k x).stmp = s.stmp := rfl
@[simp] theorem State.setLoads_cd (k : Nat) (x : List GroupLoad) : (s.setLoads k x).cd = s.cd := rfl
@[simp] theorem State.setLoads_meas (k : Nat) (x : List GroupLoad) : (s.setLoads k x).meas = s.meas := rfl
@[simp] theorem State.setLoads_ports (k : Nat) (x : List GroupLoad) : (s.setLoads k x).ports = s.ports := rfl
@[simp] theorem State.setLoads_txns (k : Nat) (x : List GroupLoad) : (s.setLoads k x).txns = s.txns := rfl
@[simp] theorem State.setLoads_swm (k : Nat) (x : List GroupLoad) : (s.setLoads k x).swm = s.swm := rfl
@[simp] theorem State.setLoads_chain (k : Nat) (x : List GroupLoad) : (s.setLoads k x).chain = s.chain := rfl
@[simp] theorem State.setLoads_far (k : Nat) (x : List GroupLoad) : (s.setLoads k x).far = s.far := rfl
@[simp] theorem State.setLoads_memo (k : Nat) (x : List GroupLoad) : (s.setLoads k x).memo = s.memo := rfl
@[simp] theorem State.setLoads_life (k : Nat) (x : List GroupLoad) : (s.setLoads k x).life = s.life := rfl
@[simp] theorem State.setLoads_caps (k : Nat) (x : List GroupLoad) : (s.setLoads k x).caps = s.caps := rfl
@[simp] theorem State.setLoads_mons (k : Nat) (x : List GroupLoad) : (s.setLoads k x).mons = s.mons := rfl
@[simp] theorem State.setLoads_thm (k : Nat) (x : List GroupLoad) : (s.setLoads k x).thm = s.thm := rfl
@[simp] theorem State.setLoads_cal (k : Nat) (x : List GroupLoad) : (s.setLoads k x).cal = s.cal := rfl
@[simp] theorem State.setLoads_sec (k : Nat) (x : List GroupLoad) : (s.setLoads k x).sec = s.sec := rfl
@[simp] theorem State.setLoads_reqNo (k : Nat) (x : List GroupLoad) : (s.setLoads k x).reqNo = s.reqNo := rfl
@[simp] theorem State.setLoads_lastApply (k : Nat) (x : List GroupLoad) : (s.setLoads k x).lastApply = s.lastApply := rfl
@[simp] theorem State.setLoads_rd (k : Nat) (x : List GroupLoad) (g : Fld) : (s.setLoads k x).rd g = s.rd g := rfl
@[simp] theorem State.setLoads_ard (k : Nat) (x : List GroupLoad) (g : Fld) : (s.setLoads k x).ard g = s.ard g := rfl
@[simp] theorem State.setLoads_awake (k : Nat) (x : List GroupLoad) : (s.setLoads k x).awake = s.awake := rfl
@[simp] theorem State.setLoads_isAmber (k : Nat) (x : List GroupLoad) : (s.setLoads k x).isAmber = s.isAmber := rfl
@[simp] theorem State.setLoads_isGreen (k : Nat) (x : List GroupLoad) : (s.setLoads k x).isGreen = s.isGreen := rfl
@[simp] theorem State.setLoads_isSleep (k : Nat) (x : List GroupLoad) : (s.setLoads k x).isSleep = s.isSleep := rfl
@[simp] theorem State.setLoads_seq (k : Nat) (x : List GroupLoad) (j : Nat) : (s.setLoads k x).seq j = s.seq j := rfl
@[simp] theorem State.setLoads_cell (k : Nat) (x : List GroupLoad) (j : Nat) : (s.setLoads k x).cell j = s.cell j := rfl
@[simp] theorem State.setLoads_lane (k : Nat) (x : List GroupLoad) (j : Nat) : (s.setLoads k x).lane j = s.lane j := rfl
@[simp] theorem State.setLoads_comb (k : Nat) (x : List GroupLoad) (j : Nat) : (s.setLoads k x).comb j = s.comb j := rfl
@[simp] theorem State.setLoads_biasOut (k : Nat) (x : List GroupLoad) (j : Nat) : (s.setLoads k x).biasOut j = s.biasOut j := rfl
@[simp] theorem State.setLoads_mkr (k : Nat) (x : List GroupLoad) (j : Nat) : (s.setLoads k x).mkr j = s.mkr j := rfl
@[simp] theorem State.setLoads_stamp (k : Nat) (x : List GroupLoad) (j : Nat) : (s.setLoads k x).stamp j = s.stamp j := rfl
@[simp] theorem State.setLoads_unit (k : Nat) (x : List GroupLoad) (j : Nat) : (s.setLoads k x).unit j = s.unit j := rfl
@[simp] theorem State.setLoads_port (k : Nat) (x : List GroupLoad) (j : Nat) : (s.setLoads k x).port j = s.port j := rfl
@[simp] theorem State.setLoads_txn (k : Nat) (x : List GroupLoad) (j : Nat) : (s.setLoads k x).txn j = s.txn j := rfl
@[simp] theorem State.setLoads_mon (k : Nat) (x : List GroupLoad) (j : Nat) : (s.setLoads k x).mon j = s.mon j := rfl
@[simp] theorem State.setLoads_win (k : Nat) (x : List GroupLoad) (j : Nat) : (s.setLoads k x).win j = s.win j := rfl
@[simp] theorem State.setLoads_cap (k : Nat) (x : List GroupLoad) (j : Nat) : (s.setLoads k x).cap j = s.cap j := rfl
@[simp] theorem State.setLoads_grpLoads_self (k : Nat) (x : List GroupLoad) : (s.setLoads k x).grpLoads k = x := SMap.get_set_self _ _ _ _
theorem State.setLoads_grpLoads_ne (k : Nat) (x : List GroupLoad) {j : Nat} (h : j ≠ k) : (s.setLoads k x).grpLoads j = s.grpLoads j := SMap.get_set_ne _ _ _ h

/-! ### setMkr -/

@[simp] theorem State.setMkr_pending (k : Nat) (x : MarkSt) : (s.setMkr k x).pending = s.pending := rfl
@[simp] theorem State.setMkr_free (k : Nat) (x : MarkSt) : (s.setMkr k x).free = s.free := rfl
@[simp] theorem State.setMkr_dial (k : Nat) (x : MarkSt) : (s.setMkr k x).dial = s.dial := rfl
@[simp] theorem State.setMkr_regs (k : Nat) (x : MarkSt) : (s.setMkr k x).regs = s.regs := rfl
@[simp] theorem State.setMkr_act (k : Nat) (x : MarkSt) : (s.setMkr k x).act = s.act := rfl
@[simp] theorem State.setMkr_svc (k : Nat) (x : MarkSt) : (s.setMkr k x).svc = s.svc := rfl
@[simp] theorem State.setMkr_i3c (k : Nat) (x : MarkSt) : (s.setMkr k x).i3c = s.i3c := rfl
@[simp] theorem State.setMkr_strobes (k : Nat) (x : MarkSt) : (s.setMkr k x).strobes = s.strobes := rfl
@[simp] theorem State.setMkr_wins (k : Nat) (x : MarkSt) : (s.setMkr k x).wins = s.wins := rfl
@[simp] theorem State.setMkr_capt (k : Nat) (x : MarkSt) : (s.setMkr k x).capt = s.capt := rfl
@[simp] theorem State.setMkr_locks (k : Nat) (x : MarkSt) : (s.setMkr k x).locks = s.locks := rfl
@[simp] theorem State.setMkr_accBase (k : Nat) (x : MarkSt) : (s.setMkr k x).accBase = s.accBase := rfl
@[simp] theorem State.setMkr_seqs (k : Nat) (x : MarkSt) : (s.setMkr k x).seqs = s.seqs := rfl
@[simp] theorem State.setMkr_cells (k : Nat) (x : MarkSt) : (s.setMkr k x).cells = s.cells := rfl
@[simp] theorem State.setMkr_lanes (k : Nat) (x : MarkSt) : (s.setMkr k x).lanes = s.lanes := rfl
@[simp] theorem State.setMkr_combs (k : Nat) (x : MarkSt) : (s.setMkr k x).combs = s.combs := rfl
@[simp] theorem State.setMkr_bank (k : Nat) (x : MarkSt) : (s.setMkr k x).bank = s.bank := rfl
@[simp] theorem State.setMkr_bankAct (k : Nat) (x : MarkSt) : (s.setMkr k x).bankAct = s.bankAct := rfl
@[simp] theorem State.setMkr_marks (k : Nat) (x : MarkSt) : (s.setMkr k x).marks = s.marks := rfl
@[simp] theorem State.setMkr_micro (k : Nat) (x : MarkSt) : (s.setMkr k x).micro = s.micro := rfl
@[simp] theorem State.setMkr_nano (k : Nat) (x : MarkSt) : (s.setMkr k x).nano = s.nano := rfl
@[simp] theorem State.setMkr_cache (k : Nat) (x : MarkSt) : (s.setMkr k x).cache = s.cache := rfl
@[simp] theorem State.setMkr_kern (k : Nat) (x : MarkSt) : (s.setMkr k x).kern = s.kern := rfl
@[simp] theorem State.setMkr_descs (k : Nat) (x : MarkSt) : (s.setMkr k x).descs = s.descs := rfl
@[simp] theorem State.setMkr_dec (k : Nat) (x : MarkSt) : (s.setMkr k x).dec = s.dec := rfl
@[simp] theorem State.setMkr_bias (k : Nat) (x : MarkSt) : (s.setMkr k x).bias = s.bias := rfl
@[simp] theorem State.setMkr_loads (k : Nat) (x : MarkSt) : (s.setMkr k x).loads = s.loads := rfl
@[simp] theorem State.setMkr_wag (k : Nat) (x : MarkSt) : (s.setMkr k x).wag = s.wag := rfl
@[simp] theorem State.setMkr_hbm (k : Nat) (x : MarkSt) : (s.setMkr k x).hbm = s.hbm := rfl
@[simp] theorem State.setMkr_poison (k : Nat) (x : MarkSt) : (s.setMkr k x).poison = s.poison := rfl
@[simp] theorem State.setMkr_flash (k : Nat) (x : MarkSt) : (s.setMkr k x).flash = s.flash := rfl
@[simp] theorem State.setMkr_stmp (k : Nat) (x : MarkSt) : (s.setMkr k x).stmp = s.stmp := rfl
@[simp] theorem State.setMkr_cd (k : Nat) (x : MarkSt) : (s.setMkr k x).cd = s.cd := rfl
@[simp] theorem State.setMkr_meas (k : Nat) (x : MarkSt) : (s.setMkr k x).meas = s.meas := rfl
@[simp] theorem State.setMkr_ports (k : Nat) (x : MarkSt) : (s.setMkr k x).ports = s.ports := rfl
@[simp] theorem State.setMkr_txns (k : Nat) (x : MarkSt) : (s.setMkr k x).txns = s.txns := rfl
@[simp] theorem State.setMkr_swm (k : Nat) (x : MarkSt) : (s.setMkr k x).swm = s.swm := rfl
@[simp] theorem State.setMkr_chain (k : Nat) (x : MarkSt) : (s.setMkr k x).chain = s.chain := rfl
@[simp] theorem State.setMkr_far (k : Nat) (x : MarkSt) : (s.setMkr k x).far = s.far := rfl
@[simp] theorem State.setMkr_memo (k : Nat) (x : MarkSt) : (s.setMkr k x).memo = s.memo := rfl
@[simp] theorem State.setMkr_life (k : Nat) (x : MarkSt) : (s.setMkr k x).life = s.life := rfl
@[simp] theorem State.setMkr_caps (k : Nat) (x : MarkSt) : (s.setMkr k x).caps = s.caps := rfl
@[simp] theorem State.setMkr_mons (k : Nat) (x : MarkSt) : (s.setMkr k x).mons = s.mons := rfl
@[simp] theorem State.setMkr_thm (k : Nat) (x : MarkSt) : (s.setMkr k x).thm = s.thm := rfl
@[simp] theorem State.setMkr_cal (k : Nat) (x : MarkSt) : (s.setMkr k x).cal = s.cal := rfl
@[simp] theorem State.setMkr_sec (k : Nat) (x : MarkSt) : (s.setMkr k x).sec = s.sec := rfl
@[simp] theorem State.setMkr_reqNo (k : Nat) (x : MarkSt) : (s.setMkr k x).reqNo = s.reqNo := rfl
@[simp] theorem State.setMkr_lastApply (k : Nat) (x : MarkSt) : (s.setMkr k x).lastApply = s.lastApply := rfl
@[simp] theorem State.setMkr_rd (k : Nat) (x : MarkSt) (g : Fld) : (s.setMkr k x).rd g = s.rd g := rfl
@[simp] theorem State.setMkr_ard (k : Nat) (x : MarkSt) (g : Fld) : (s.setMkr k x).ard g = s.ard g := rfl
@[simp] theorem State.setMkr_awake (k : Nat) (x : MarkSt) : (s.setMkr k x).awake = s.awake := rfl
@[simp] theorem State.setMkr_isAmber (k : Nat) (x : MarkSt) : (s.setMkr k x).isAmber = s.isAmber := rfl
@[simp] theorem State.setMkr_isGreen (k : Nat) (x : MarkSt) : (s.setMkr k x).isGreen = s.isGreen := rfl
@[simp] theorem State.setMkr_isSleep (k : Nat) (x : MarkSt) : (s.setMkr k x).isSleep = s.isSleep := rfl
@[simp] theorem State.setMkr_seq (k : Nat) (x : MarkSt) (j : Nat) : (s.setMkr k x).seq j = s.seq j := rfl
@[simp] theorem State.setMkr_cell (k : Nat) (x : MarkSt) (j : Nat) : (s.setMkr k x).cell j = s.cell j := rfl
@[simp] theorem State.setMkr_lane (k : Nat) (x : MarkSt) (j : Nat) : (s.setMkr k x).lane j = s.lane j := rfl
@[simp] theorem State.setMkr_comb (k : Nat) (x : MarkSt) (j : Nat) : (s.setMkr k x).comb j = s.comb j := rfl
@[simp] theorem State.setMkr_biasOut (k : Nat) (x : MarkSt) (j : Nat) : (s.setMkr k x).biasOut j = s.biasOut j := rfl
@[simp] theorem State.setMkr_grpLoads (k : Nat) (x : MarkSt) (j : Nat) : (s.setMkr k x).grpLoads j = s.grpLoads j := rfl
@[simp] theorem State.setMkr_stamp (k : Nat) (x : MarkSt) (j : Nat) : (s.setMkr k x).stamp j = s.stamp j := rfl
@[simp] theorem State.setMkr_unit (k : Nat) (x : MarkSt) (j : Nat) : (s.setMkr k x).unit j = s.unit j := rfl
@[simp] theorem State.setMkr_port (k : Nat) (x : MarkSt) (j : Nat) : (s.setMkr k x).port j = s.port j := rfl
@[simp] theorem State.setMkr_txn (k : Nat) (x : MarkSt) (j : Nat) : (s.setMkr k x).txn j = s.txn j := rfl
@[simp] theorem State.setMkr_mon (k : Nat) (x : MarkSt) (j : Nat) : (s.setMkr k x).mon j = s.mon j := rfl
@[simp] theorem State.setMkr_win (k : Nat) (x : MarkSt) (j : Nat) : (s.setMkr k x).win j = s.win j := rfl
@[simp] theorem State.setMkr_cap (k : Nat) (x : MarkSt) (j : Nat) : (s.setMkr k x).cap j = s.cap j := rfl
@[simp] theorem State.setMkr_mkr_self (k : Nat) (x : MarkSt) : (s.setMkr k x).mkr k = x := SMap.get_set_self _ _ _ _
theorem State.setMkr_mkr_ne (k : Nat) (x : MarkSt) {j : Nat} (h : j ≠ k) : (s.setMkr k x).mkr j = s.mkr j := SMap.get_set_ne _ _ _ h

/-! ### setStamp -/

@[simp] theorem State.setStamp_pending (k : Nat) (x : StampSt) : (s.setStamp k x).pending = s.pending := rfl
@[simp] theorem State.setStamp_free (k : Nat) (x : StampSt) : (s.setStamp k x).free = s.free := rfl
@[simp] theorem State.setStamp_dial (k : Nat) (x : StampSt) : (s.setStamp k x).dial = s.dial := rfl
@[simp] theorem State.setStamp_regs (k : Nat) (x : StampSt) : (s.setStamp k x).regs = s.regs := rfl
@[simp] theorem State.setStamp_act (k : Nat) (x : StampSt) : (s.setStamp k x).act = s.act := rfl
@[simp] theorem State.setStamp_svc (k : Nat) (x : StampSt) : (s.setStamp k x).svc = s.svc := rfl
@[simp] theorem State.setStamp_i3c (k : Nat) (x : StampSt) : (s.setStamp k x).i3c = s.i3c := rfl
@[simp] theorem State.setStamp_strobes (k : Nat) (x : StampSt) : (s.setStamp k x).strobes = s.strobes := rfl
@[simp] theorem State.setStamp_wins (k : Nat) (x : StampSt) : (s.setStamp k x).wins = s.wins := rfl
@[simp] theorem State.setStamp_capt (k : Nat) (x : StampSt) : (s.setStamp k x).capt = s.capt := rfl
@[simp] theorem State.setStamp_locks (k : Nat) (x : StampSt) : (s.setStamp k x).locks = s.locks := rfl
@[simp] theorem State.setStamp_accBase (k : Nat) (x : StampSt) : (s.setStamp k x).accBase = s.accBase := rfl
@[simp] theorem State.setStamp_seqs (k : Nat) (x : StampSt) : (s.setStamp k x).seqs = s.seqs := rfl
@[simp] theorem State.setStamp_cells (k : Nat) (x : StampSt) : (s.setStamp k x).cells = s.cells := rfl
@[simp] theorem State.setStamp_lanes (k : Nat) (x : StampSt) : (s.setStamp k x).lanes = s.lanes := rfl
@[simp] theorem State.setStamp_combs (k : Nat) (x : StampSt) : (s.setStamp k x).combs = s.combs := rfl
@[simp] theorem State.setStamp_bank (k : Nat) (x : StampSt) : (s.setStamp k x).bank = s.bank := rfl
@[simp] theorem State.setStamp_bankAct (k : Nat) (x : StampSt) : (s.setStamp k x).bankAct = s.bankAct := rfl
@[simp] theorem State.setStamp_marks (k : Nat) (x : StampSt) : (s.setStamp k x).marks = s.marks := rfl
@[simp] theorem State.setStamp_micro (k : Nat) (x : StampSt) : (s.setStamp k x).micro = s.micro := rfl
@[simp] theorem State.setStamp_nano (k : Nat) (x : StampSt) : (s.setStamp k x).nano = s.nano := rfl
@[simp] theorem State.setStamp_cache (k : Nat) (x : StampSt) : (s.setStamp k x).cache = s.cache := rfl
@[simp] theorem State.setStamp_kern (k : Nat) (x : StampSt) : (s.setStamp k x).kern = s.kern := rfl
@[simp] theorem State.setStamp_descs (k : Nat) (x : StampSt) : (s.setStamp k x).descs = s.descs := rfl
@[simp] theorem State.setStamp_dec (k : Nat) (x : StampSt) : (s.setStamp k x).dec = s.dec := rfl
@[simp] theorem State.setStamp_bias (k : Nat) (x : StampSt) : (s.setStamp k x).bias = s.bias := rfl
@[simp] theorem State.setStamp_loads (k : Nat) (x : StampSt) : (s.setStamp k x).loads = s.loads := rfl
@[simp] theorem State.setStamp_wag (k : Nat) (x : StampSt) : (s.setStamp k x).wag = s.wag := rfl
@[simp] theorem State.setStamp_hbm (k : Nat) (x : StampSt) : (s.setStamp k x).hbm = s.hbm := rfl
@[simp] theorem State.setStamp_poison (k : Nat) (x : StampSt) : (s.setStamp k x).poison = s.poison := rfl
@[simp] theorem State.setStamp_flash (k : Nat) (x : StampSt) : (s.setStamp k x).flash = s.flash := rfl
@[simp] theorem State.setStamp_mkrs (k : Nat) (x : StampSt) : (s.setStamp k x).mkrs = s.mkrs := rfl
@[simp] theorem State.setStamp_cd (k : Nat) (x : StampSt) : (s.setStamp k x).cd = s.cd := rfl
@[simp] theorem State.setStamp_meas (k : Nat) (x : StampSt) : (s.setStamp k x).meas = s.meas := rfl
@[simp] theorem State.setStamp_ports (k : Nat) (x : StampSt) : (s.setStamp k x).ports = s.ports := rfl
@[simp] theorem State.setStamp_txns (k : Nat) (x : StampSt) : (s.setStamp k x).txns = s.txns := rfl
@[simp] theorem State.setStamp_swm (k : Nat) (x : StampSt) : (s.setStamp k x).swm = s.swm := rfl
@[simp] theorem State.setStamp_chain (k : Nat) (x : StampSt) : (s.setStamp k x).chain = s.chain := rfl
@[simp] theorem State.setStamp_far (k : Nat) (x : StampSt) : (s.setStamp k x).far = s.far := rfl
@[simp] theorem State.setStamp_memo (k : Nat) (x : StampSt) : (s.setStamp k x).memo = s.memo := rfl
@[simp] theorem State.setStamp_life (k : Nat) (x : StampSt) : (s.setStamp k x).life = s.life := rfl
@[simp] theorem State.setStamp_caps (k : Nat) (x : StampSt) : (s.setStamp k x).caps = s.caps := rfl
@[simp] theorem State.setStamp_mons (k : Nat) (x : StampSt) : (s.setStamp k x).mons = s.mons := rfl
@[simp] theorem State.setStamp_thm (k : Nat) (x : StampSt) : (s.setStamp k x).thm = s.thm := rfl
@[simp] theorem State.setStamp_cal (k : Nat) (x : StampSt) : (s.setStamp k x).cal = s.cal := rfl
@[simp] theorem State.setStamp_sec (k : Nat) (x : StampSt) : (s.setStamp k x).sec = s.sec := rfl
@[simp] theorem State.setStamp_reqNo (k : Nat) (x : StampSt) : (s.setStamp k x).reqNo = s.reqNo := rfl
@[simp] theorem State.setStamp_lastApply (k : Nat) (x : StampSt) : (s.setStamp k x).lastApply = s.lastApply := rfl
@[simp] theorem State.setStamp_rd (k : Nat) (x : StampSt) (g : Fld) : (s.setStamp k x).rd g = s.rd g := rfl
@[simp] theorem State.setStamp_ard (k : Nat) (x : StampSt) (g : Fld) : (s.setStamp k x).ard g = s.ard g := rfl
@[simp] theorem State.setStamp_awake (k : Nat) (x : StampSt) : (s.setStamp k x).awake = s.awake := rfl
@[simp] theorem State.setStamp_isAmber (k : Nat) (x : StampSt) : (s.setStamp k x).isAmber = s.isAmber := rfl
@[simp] theorem State.setStamp_isGreen (k : Nat) (x : StampSt) : (s.setStamp k x).isGreen = s.isGreen := rfl
@[simp] theorem State.setStamp_isSleep (k : Nat) (x : StampSt) : (s.setStamp k x).isSleep = s.isSleep := rfl
@[simp] theorem State.setStamp_seq (k : Nat) (x : StampSt) (j : Nat) : (s.setStamp k x).seq j = s.seq j := rfl
@[simp] theorem State.setStamp_cell (k : Nat) (x : StampSt) (j : Nat) : (s.setStamp k x).cell j = s.cell j := rfl
@[simp] theorem State.setStamp_lane (k : Nat) (x : StampSt) (j : Nat) : (s.setStamp k x).lane j = s.lane j := rfl
@[simp] theorem State.setStamp_comb (k : Nat) (x : StampSt) (j : Nat) : (s.setStamp k x).comb j = s.comb j := rfl
@[simp] theorem State.setStamp_biasOut (k : Nat) (x : StampSt) (j : Nat) : (s.setStamp k x).biasOut j = s.biasOut j := rfl
@[simp] theorem State.setStamp_grpLoads (k : Nat) (x : StampSt) (j : Nat) : (s.setStamp k x).grpLoads j = s.grpLoads j := rfl
@[simp] theorem State.setStamp_mkr (k : Nat) (x : StampSt) (j : Nat) : (s.setStamp k x).mkr j = s.mkr j := rfl
@[simp] theorem State.setStamp_unit (k : Nat) (x : StampSt) (j : Nat) : (s.setStamp k x).unit j = s.unit j := rfl
@[simp] theorem State.setStamp_port (k : Nat) (x : StampSt) (j : Nat) : (s.setStamp k x).port j = s.port j := rfl
@[simp] theorem State.setStamp_txn (k : Nat) (x : StampSt) (j : Nat) : (s.setStamp k x).txn j = s.txn j := rfl
@[simp] theorem State.setStamp_mon (k : Nat) (x : StampSt) (j : Nat) : (s.setStamp k x).mon j = s.mon j := rfl
@[simp] theorem State.setStamp_win (k : Nat) (x : StampSt) (j : Nat) : (s.setStamp k x).win j = s.win j := rfl
@[simp] theorem State.setStamp_cap (k : Nat) (x : StampSt) (j : Nat) : (s.setStamp k x).cap j = s.cap j := rfl
@[simp] theorem State.setStamp_stamp_self (k : Nat) (x : StampSt) : (s.setStamp k x).stamp k = x := SMap.get_set_self _ _ _ _
theorem State.setStamp_stamp_ne (k : Nat) (x : StampSt) {j : Nat} (h : j ≠ k) : (s.setStamp k x).stamp j = s.stamp j := SMap.get_set_ne _ _ _ h

/-! ### setUnit -/

@[simp] theorem State.setUnit_pending (k : Nat) (x : MeasSt) : (s.setUnit k x).pending = s.pending := rfl
@[simp] theorem State.setUnit_free (k : Nat) (x : MeasSt) : (s.setUnit k x).free = s.free := rfl
@[simp] theorem State.setUnit_dial (k : Nat) (x : MeasSt) : (s.setUnit k x).dial = s.dial := rfl
@[simp] theorem State.setUnit_regs (k : Nat) (x : MeasSt) : (s.setUnit k x).regs = s.regs := rfl
@[simp] theorem State.setUnit_act (k : Nat) (x : MeasSt) : (s.setUnit k x).act = s.act := rfl
@[simp] theorem State.setUnit_svc (k : Nat) (x : MeasSt) : (s.setUnit k x).svc = s.svc := rfl
@[simp] theorem State.setUnit_i3c (k : Nat) (x : MeasSt) : (s.setUnit k x).i3c = s.i3c := rfl
@[simp] theorem State.setUnit_strobes (k : Nat) (x : MeasSt) : (s.setUnit k x).strobes = s.strobes := rfl
@[simp] theorem State.setUnit_wins (k : Nat) (x : MeasSt) : (s.setUnit k x).wins = s.wins := rfl
@[simp] theorem State.setUnit_capt (k : Nat) (x : MeasSt) : (s.setUnit k x).capt = s.capt := rfl
@[simp] theorem State.setUnit_locks (k : Nat) (x : MeasSt) : (s.setUnit k x).locks = s.locks := rfl
@[simp] theorem State.setUnit_accBase (k : Nat) (x : MeasSt) : (s.setUnit k x).accBase = s.accBase := rfl
@[simp] theorem State.setUnit_seqs (k : Nat) (x : MeasSt) : (s.setUnit k x).seqs = s.seqs := rfl
@[simp] theorem State.setUnit_cells (k : Nat) (x : MeasSt) : (s.setUnit k x).cells = s.cells := rfl
@[simp] theorem State.setUnit_lanes (k : Nat) (x : MeasSt) : (s.setUnit k x).lanes = s.lanes := rfl
@[simp] theorem State.setUnit_combs (k : Nat) (x : MeasSt) : (s.setUnit k x).combs = s.combs := rfl
@[simp] theorem State.setUnit_bank (k : Nat) (x : MeasSt) : (s.setUnit k x).bank = s.bank := rfl
@[simp] theorem State.setUnit_bankAct (k : Nat) (x : MeasSt) : (s.setUnit k x).bankAct = s.bankAct := rfl
@[simp] theorem State.setUnit_marks (k : Nat) (x : MeasSt) : (s.setUnit k x).marks = s.marks := rfl
@[simp] theorem State.setUnit_micro (k : Nat) (x : MeasSt) : (s.setUnit k x).micro = s.micro := rfl
@[simp] theorem State.setUnit_nano (k : Nat) (x : MeasSt) : (s.setUnit k x).nano = s.nano := rfl
@[simp] theorem State.setUnit_cache (k : Nat) (x : MeasSt) : (s.setUnit k x).cache = s.cache := rfl
@[simp] theorem State.setUnit_kern (k : Nat) (x : MeasSt) : (s.setUnit k x).kern = s.kern := rfl
@[simp] theorem State.setUnit_descs (k : Nat) (x : MeasSt) : (s.setUnit k x).descs = s.descs := rfl
@[simp] theorem State.setUnit_dec (k : Nat) (x : MeasSt) : (s.setUnit k x).dec = s.dec := rfl
@[simp] theorem State.setUnit_bias (k : Nat) (x : MeasSt) : (s.setUnit k x).bias = s.bias := rfl
@[simp] theorem State.setUnit_loads (k : Nat) (x : MeasSt) : (s.setUnit k x).loads = s.loads := rfl
@[simp] theorem State.setUnit_wag (k : Nat) (x : MeasSt) : (s.setUnit k x).wag = s.wag := rfl
@[simp] theorem State.setUnit_hbm (k : Nat) (x : MeasSt) : (s.setUnit k x).hbm = s.hbm := rfl
@[simp] theorem State.setUnit_poison (k : Nat) (x : MeasSt) : (s.setUnit k x).poison = s.poison := rfl
@[simp] theorem State.setUnit_flash (k : Nat) (x : MeasSt) : (s.setUnit k x).flash = s.flash := rfl
@[simp] theorem State.setUnit_mkrs (k : Nat) (x : MeasSt) : (s.setUnit k x).mkrs = s.mkrs := rfl
@[simp] theorem State.setUnit_stmp (k : Nat) (x : MeasSt) : (s.setUnit k x).stmp = s.stmp := rfl
@[simp] theorem State.setUnit_cd (k : Nat) (x : MeasSt) : (s.setUnit k x).cd = s.cd := rfl
@[simp] theorem State.setUnit_ports (k : Nat) (x : MeasSt) : (s.setUnit k x).ports = s.ports := rfl
@[simp] theorem State.setUnit_txns (k : Nat) (x : MeasSt) : (s.setUnit k x).txns = s.txns := rfl
@[simp] theorem State.setUnit_swm (k : Nat) (x : MeasSt) : (s.setUnit k x).swm = s.swm := rfl
@[simp] theorem State.setUnit_chain (k : Nat) (x : MeasSt) : (s.setUnit k x).chain = s.chain := rfl
@[simp] theorem State.setUnit_far (k : Nat) (x : MeasSt) : (s.setUnit k x).far = s.far := rfl
@[simp] theorem State.setUnit_memo (k : Nat) (x : MeasSt) : (s.setUnit k x).memo = s.memo := rfl
@[simp] theorem State.setUnit_life (k : Nat) (x : MeasSt) : (s.setUnit k x).life = s.life := rfl
@[simp] theorem State.setUnit_caps (k : Nat) (x : MeasSt) : (s.setUnit k x).caps = s.caps := rfl
@[simp] theorem State.setUnit_mons (k : Nat) (x : MeasSt) : (s.setUnit k x).mons = s.mons := rfl
@[simp] theorem State.setUnit_thm (k : Nat) (x : MeasSt) : (s.setUnit k x).thm = s.thm := rfl
@[simp] theorem State.setUnit_cal (k : Nat) (x : MeasSt) : (s.setUnit k x).cal = s.cal := rfl
@[simp] theorem State.setUnit_sec (k : Nat) (x : MeasSt) : (s.setUnit k x).sec = s.sec := rfl
@[simp] theorem State.setUnit_reqNo (k : Nat) (x : MeasSt) : (s.setUnit k x).reqNo = s.reqNo := rfl
@[simp] theorem State.setUnit_lastApply (k : Nat) (x : MeasSt) : (s.setUnit k x).lastApply = s.lastApply := rfl
@[simp] theorem State.setUnit_rd (k : Nat) (x : MeasSt) (g : Fld) : (s.setUnit k x).rd g = s.rd g := rfl
@[simp] theorem State.setUnit_ard (k : Nat) (x : MeasSt) (g : Fld) : (s.setUnit k x).ard g = s.ard g := rfl
@[simp] theorem State.setUnit_awake (k : Nat) (x : MeasSt) : (s.setUnit k x).awake = s.awake := rfl
@[simp] theorem State.setUnit_isAmber (k : Nat) (x : MeasSt) : (s.setUnit k x).isAmber = s.isAmber := rfl
@[simp] theorem State.setUnit_isGreen (k : Nat) (x : MeasSt) : (s.setUnit k x).isGreen = s.isGreen := rfl
@[simp] theorem State.setUnit_isSleep (k : Nat) (x : MeasSt) : (s.setUnit k x).isSleep = s.isSleep := rfl
@[simp] theorem State.setUnit_seq (k : Nat) (x : MeasSt) (j : Nat) : (s.setUnit k x).seq j = s.seq j := rfl
@[simp] theorem State.setUnit_cell (k : Nat) (x : MeasSt) (j : Nat) : (s.setUnit k x).cell j = s.cell j := rfl
@[simp] theorem State.setUnit_lane (k : Nat) (x : MeasSt) (j : Nat) : (s.setUnit k x).lane j = s.lane j := rfl
@[simp] theorem State.setUnit_comb (k : Nat) (x : MeasSt) (j : Nat) : (s.setUnit k x).comb j = s.comb j := rfl
@[simp] theorem State.setUnit_biasOut (k : Nat) (x : MeasSt) (j : Nat) : (s.setUnit k x).biasOut j = s.biasOut j := rfl
@[simp] theorem State.setUnit_grpLoads (k : Nat) (x : MeasSt) (j : Nat) : (s.setUnit k x).grpLoads j = s.grpLoads j := rfl
@[simp] theorem State.setUnit_mkr (k : Nat) (x : MeasSt) (j : Nat) : (s.setUnit k x).mkr j = s.mkr j := rfl
@[simp] theorem State.setUnit_stamp (k : Nat) (x : MeasSt) (j : Nat) : (s.setUnit k x).stamp j = s.stamp j := rfl
@[simp] theorem State.setUnit_port (k : Nat) (x : MeasSt) (j : Nat) : (s.setUnit k x).port j = s.port j := rfl
@[simp] theorem State.setUnit_txn (k : Nat) (x : MeasSt) (j : Nat) : (s.setUnit k x).txn j = s.txn j := rfl
@[simp] theorem State.setUnit_mon (k : Nat) (x : MeasSt) (j : Nat) : (s.setUnit k x).mon j = s.mon j := rfl
@[simp] theorem State.setUnit_win (k : Nat) (x : MeasSt) (j : Nat) : (s.setUnit k x).win j = s.win j := rfl
@[simp] theorem State.setUnit_cap (k : Nat) (x : MeasSt) (j : Nat) : (s.setUnit k x).cap j = s.cap j := rfl
@[simp] theorem State.setUnit_unit_self (k : Nat) (x : MeasSt) : (s.setUnit k x).unit k = x := SMap.get_set_self _ _ _ _
theorem State.setUnit_unit_ne (k : Nat) (x : MeasSt) {j : Nat} (h : j ≠ k) : (s.setUnit k x).unit j = s.unit j := SMap.get_set_ne _ _ _ h

/-! ### setPort -/

@[simp] theorem State.setPort_pending (k : Nat) (x : PortSt) : (s.setPort k x).pending = s.pending := rfl
@[simp] theorem State.setPort_free (k : Nat) (x : PortSt) : (s.setPort k x).free = s.free := rfl
@[simp] theorem State.setPort_dial (k : Nat) (x : PortSt) : (s.setPort k x).dial = s.dial := rfl
@[simp] theorem State.setPort_regs (k : Nat) (x : PortSt) : (s.setPort k x).regs = s.regs := rfl
@[simp] theorem State.setPort_act (k : Nat) (x : PortSt) : (s.setPort k x).act = s.act := rfl
@[simp] theorem State.setPort_svc (k : Nat) (x : PortSt) : (s.setPort k x).svc = s.svc := rfl
@[simp] theorem State.setPort_i3c (k : Nat) (x : PortSt) : (s.setPort k x).i3c = s.i3c := rfl
@[simp] theorem State.setPort_strobes (k : Nat) (x : PortSt) : (s.setPort k x).strobes = s.strobes := rfl
@[simp] theorem State.setPort_wins (k : Nat) (x : PortSt) : (s.setPort k x).wins = s.wins := rfl
@[simp] theorem State.setPort_capt (k : Nat) (x : PortSt) : (s.setPort k x).capt = s.capt := rfl
@[simp] theorem State.setPort_locks (k : Nat) (x : PortSt) : (s.setPort k x).locks = s.locks := rfl
@[simp] theorem State.setPort_accBase (k : Nat) (x : PortSt) : (s.setPort k x).accBase = s.accBase := rfl
@[simp] theorem State.setPort_seqs (k : Nat) (x : PortSt) : (s.setPort k x).seqs = s.seqs := rfl
@[simp] theorem State.setPort_cells (k : Nat) (x : PortSt) : (s.setPort k x).cells = s.cells := rfl
@[simp] theorem State.setPort_lanes (k : Nat) (x : PortSt) : (s.setPort k x).lanes = s.lanes := rfl
@[simp] theorem State.setPort_combs (k : Nat) (x : PortSt) : (s.setPort k x).combs = s.combs := rfl
@[simp] theorem State.setPort_bank (k : Nat) (x : PortSt) : (s.setPort k x).bank = s.bank := rfl
@[simp] theorem State.setPort_bankAct (k : Nat) (x : PortSt) : (s.setPort k x).bankAct = s.bankAct := rfl
@[simp] theorem State.setPort_marks (k : Nat) (x : PortSt) : (s.setPort k x).marks = s.marks := rfl
@[simp] theorem State.setPort_micro (k : Nat) (x : PortSt) : (s.setPort k x).micro = s.micro := rfl
@[simp] theorem State.setPort_nano (k : Nat) (x : PortSt) : (s.setPort k x).nano = s.nano := rfl
@[simp] theorem State.setPort_cache (k : Nat) (x : PortSt) : (s.setPort k x).cache = s.cache := rfl
@[simp] theorem State.setPort_kern (k : Nat) (x : PortSt) : (s.setPort k x).kern = s.kern := rfl
@[simp] theorem State.setPort_descs (k : Nat) (x : PortSt) : (s.setPort k x).descs = s.descs := rfl
@[simp] theorem State.setPort_dec (k : Nat) (x : PortSt) : (s.setPort k x).dec = s.dec := rfl
@[simp] theorem State.setPort_bias (k : Nat) (x : PortSt) : (s.setPort k x).bias = s.bias := rfl
@[simp] theorem State.setPort_loads (k : Nat) (x : PortSt) : (s.setPort k x).loads = s.loads := rfl
@[simp] theorem State.setPort_wag (k : Nat) (x : PortSt) : (s.setPort k x).wag = s.wag := rfl
@[simp] theorem State.setPort_hbm (k : Nat) (x : PortSt) : (s.setPort k x).hbm = s.hbm := rfl
@[simp] theorem State.setPort_poison (k : Nat) (x : PortSt) : (s.setPort k x).poison = s.poison := rfl
@[simp] theorem State.setPort_flash (k : Nat) (x : PortSt) : (s.setPort k x).flash = s.flash := rfl
@[simp] theorem State.setPort_mkrs (k : Nat) (x : PortSt) : (s.setPort k x).mkrs = s.mkrs := rfl
@[simp] theorem State.setPort_stmp (k : Nat) (x : PortSt) : (s.setPort k x).stmp = s.stmp := rfl
@[simp] theorem State.setPort_cd (k : Nat) (x : PortSt) : (s.setPort k x).cd = s.cd := rfl
@[simp] theorem State.setPort_meas (k : Nat) (x : PortSt) : (s.setPort k x).meas = s.meas := rfl
@[simp] theorem State.setPort_txns (k : Nat) (x : PortSt) : (s.setPort k x).txns = s.txns := rfl
@[simp] theorem State.setPort_swm (k : Nat) (x : PortSt) : (s.setPort k x).swm = s.swm := rfl
@[simp] theorem State.setPort_chain (k : Nat) (x : PortSt) : (s.setPort k x).chain = s.chain := rfl
@[simp] theorem State.setPort_far (k : Nat) (x : PortSt) : (s.setPort k x).far = s.far := rfl
@[simp] theorem State.setPort_memo (k : Nat) (x : PortSt) : (s.setPort k x).memo = s.memo := rfl
@[simp] theorem State.setPort_life (k : Nat) (x : PortSt) : (s.setPort k x).life = s.life := rfl
@[simp] theorem State.setPort_caps (k : Nat) (x : PortSt) : (s.setPort k x).caps = s.caps := rfl
@[simp] theorem State.setPort_mons (k : Nat) (x : PortSt) : (s.setPort k x).mons = s.mons := rfl
@[simp] theorem State.setPort_thm (k : Nat) (x : PortSt) : (s.setPort k x).thm = s.thm := rfl
@[simp] theorem State.setPort_cal (k : Nat) (x : PortSt) : (s.setPort k x).cal = s.cal := rfl
@[simp] theorem State.setPort_sec (k : Nat) (x : PortSt) : (s.setPort k x).sec = s.sec := rfl
@[simp] theorem State.setPort_reqNo (k : Nat) (x : PortSt) : (s.setPort k x).reqNo = s.reqNo := rfl
@[simp] theorem State.setPort_lastApply (k : Nat) (x : PortSt) : (s.setPort k x).lastApply = s.lastApply := rfl
@[simp] theorem State.setPort_rd (k : Nat) (x : PortSt) (g : Fld) : (s.setPort k x).rd g = s.rd g := rfl
@[simp] theorem State.setPort_ard (k : Nat) (x : PortSt) (g : Fld) : (s.setPort k x).ard g = s.ard g := rfl
@[simp] theorem State.setPort_awake (k : Nat) (x : PortSt) : (s.setPort k x).awake = s.awake := rfl
@[simp] theorem State.setPort_isAmber (k : Nat) (x : PortSt) : (s.setPort k x).isAmber = s.isAmber := rfl
@[simp] theorem State.setPort_isGreen (k : Nat) (x : PortSt) : (s.setPort k x).isGreen = s.isGreen := rfl
@[simp] theorem State.setPort_isSleep (k : Nat) (x : PortSt) : (s.setPort k x).isSleep = s.isSleep := rfl
@[simp] theorem State.setPort_seq (k : Nat) (x : PortSt) (j : Nat) : (s.setPort k x).seq j = s.seq j := rfl
@[simp] theorem State.setPort_cell (k : Nat) (x : PortSt) (j : Nat) : (s.setPort k x).cell j = s.cell j := rfl
@[simp] theorem State.setPort_lane (k : Nat) (x : PortSt) (j : Nat) : (s.setPort k x).lane j = s.lane j := rfl
@[simp] theorem State.setPort_comb (k : Nat) (x : PortSt) (j : Nat) : (s.setPort k x).comb j = s.comb j := rfl
@[simp] theorem State.setPort_biasOut (k : Nat) (x : PortSt) (j : Nat) : (s.setPort k x).biasOut j = s.biasOut j := rfl
@[simp] theorem State.setPort_grpLoads (k : Nat) (x : PortSt) (j : Nat) : (s.setPort k x).grpLoads j = s.grpLoads j := rfl
@[simp] theorem State.setPort_mkr (k : Nat) (x : PortSt) (j : Nat) : (s.setPort k x).mkr j = s.mkr j := rfl
@[simp] theorem State.setPort_stamp (k : Nat) (x : PortSt) (j : Nat) : (s.setPort k x).stamp j = s.stamp j := rfl
@[simp] theorem State.setPort_unit (k : Nat) (x : PortSt) (j : Nat) : (s.setPort k x).unit j = s.unit j := rfl
@[simp] theorem State.setPort_txn (k : Nat) (x : PortSt) (j : Nat) : (s.setPort k x).txn j = s.txn j := rfl
@[simp] theorem State.setPort_mon (k : Nat) (x : PortSt) (j : Nat) : (s.setPort k x).mon j = s.mon j := rfl
@[simp] theorem State.setPort_win (k : Nat) (x : PortSt) (j : Nat) : (s.setPort k x).win j = s.win j := rfl
@[simp] theorem State.setPort_cap (k : Nat) (x : PortSt) (j : Nat) : (s.setPort k x).cap j = s.cap j := rfl
@[simp] theorem State.setPort_port_self (k : Nat) (x : PortSt) : (s.setPort k x).port k = x := SMap.get_set_self _ _ _ _
theorem State.setPort_port_ne (k : Nat) (x : PortSt) {j : Nat} (h : j ≠ k) : (s.setPort k x).port j = s.port j := SMap.get_set_ne _ _ _ h

/-! ### setTxn -/

@[simp] theorem State.setTxn_pending (k : Nat) (x : TxnSt) : (s.setTxn k x).pending = s.pending := rfl
@[simp] theorem State.setTxn_free (k : Nat) (x : TxnSt) : (s.setTxn k x).free = s.free := rfl
@[simp] theorem State.setTxn_dial (k : Nat) (x : TxnSt) : (s.setTxn k x).dial = s.dial := rfl
@[simp] theorem State.setTxn_regs (k : Nat) (x : TxnSt) : (s.setTxn k x).regs = s.regs := rfl
@[simp] theorem State.setTxn_act (k : Nat) (x : TxnSt) : (s.setTxn k x).act = s.act := rfl
@[simp] theorem State.setTxn_svc (k : Nat) (x : TxnSt) : (s.setTxn k x).svc = s.svc := rfl
@[simp] theorem State.setTxn_i3c (k : Nat) (x : TxnSt) : (s.setTxn k x).i3c = s.i3c := rfl
@[simp] theorem State.setTxn_strobes (k : Nat) (x : TxnSt) : (s.setTxn k x).strobes = s.strobes := rfl
@[simp] theorem State.setTxn_wins (k : Nat) (x : TxnSt) : (s.setTxn k x).wins = s.wins := rfl
@[simp] theorem State.setTxn_capt (k : Nat) (x : TxnSt) : (s.setTxn k x).capt = s.capt := rfl
@[simp] theorem State.setTxn_locks (k : Nat) (x : TxnSt) : (s.setTxn k x).locks = s.locks := rfl
@[simp] theorem State.setTxn_accBase (k : Nat) (x : TxnSt) : (s.setTxn k x).accBase = s.accBase := rfl
@[simp] theorem State.setTxn_seqs (k : Nat) (x : TxnSt) : (s.setTxn k x).seqs = s.seqs := rfl
@[simp] theorem State.setTxn_cells (k : Nat) (x : TxnSt) : (s.setTxn k x).cells = s.cells := rfl
@[simp] theorem State.setTxn_lanes (k : Nat) (x : TxnSt) : (s.setTxn k x).lanes = s.lanes := rfl
@[simp] theorem State.setTxn_combs (k : Nat) (x : TxnSt) : (s.setTxn k x).combs = s.combs := rfl
@[simp] theorem State.setTxn_bank (k : Nat) (x : TxnSt) : (s.setTxn k x).bank = s.bank := rfl
@[simp] theorem State.setTxn_bankAct (k : Nat) (x : TxnSt) : (s.setTxn k x).bankAct = s.bankAct := rfl
@[simp] theorem State.setTxn_marks (k : Nat) (x : TxnSt) : (s.setTxn k x).marks = s.marks := rfl
@[simp] theorem State.setTxn_micro (k : Nat) (x : TxnSt) : (s.setTxn k x).micro = s.micro := rfl
@[simp] theorem State.setTxn_nano (k : Nat) (x : TxnSt) : (s.setTxn k x).nano = s.nano := rfl
@[simp] theorem State.setTxn_cache (k : Nat) (x : TxnSt) : (s.setTxn k x).cache = s.cache := rfl
@[simp] theorem State.setTxn_kern (k : Nat) (x : TxnSt) : (s.setTxn k x).kern = s.kern := rfl
@[simp] theorem State.setTxn_descs (k : Nat) (x : TxnSt) : (s.setTxn k x).descs = s.descs := rfl
@[simp] theorem State.setTxn_dec (k : Nat) (x : TxnSt) : (s.setTxn k x).dec = s.dec := rfl
@[simp] theorem State.setTxn_bias (k : Nat) (x : TxnSt) : (s.setTxn k x).bias = s.bias := rfl
@[simp] theorem State.setTxn_loads (k : Nat) (x : TxnSt) : (s.setTxn k x).loads = s.loads := rfl
@[simp] theorem State.setTxn_wag (k : Nat) (x : TxnSt) : (s.setTxn k x).wag = s.wag := rfl
@[simp] theorem State.setTxn_hbm (k : Nat) (x : TxnSt) : (s.setTxn k x).hbm = s.hbm := rfl
@[simp] theorem State.setTxn_poison (k : Nat) (x : TxnSt) : (s.setTxn k x).poison = s.poison := rfl
@[simp] theorem State.setTxn_flash (k : Nat) (x : TxnSt) : (s.setTxn k x).flash = s.flash := rfl
@[simp] theorem State.setTxn_mkrs (k : Nat) (x : TxnSt) : (s.setTxn k x).mkrs = s.mkrs := rfl
@[simp] theorem State.setTxn_stmp (k : Nat) (x : TxnSt) : (s.setTxn k x).stmp = s.stmp := rfl
@[simp] theorem State.setTxn_cd (k : Nat) (x : TxnSt) : (s.setTxn k x).cd = s.cd := rfl
@[simp] theorem State.setTxn_meas (k : Nat) (x : TxnSt) : (s.setTxn k x).meas = s.meas := rfl
@[simp] theorem State.setTxn_ports (k : Nat) (x : TxnSt) : (s.setTxn k x).ports = s.ports := rfl
@[simp] theorem State.setTxn_swm (k : Nat) (x : TxnSt) : (s.setTxn k x).swm = s.swm := rfl
@[simp] theorem State.setTxn_chain (k : Nat) (x : TxnSt) : (s.setTxn k x).chain = s.chain := rfl
@[simp] theorem State.setTxn_far (k : Nat) (x : TxnSt) : (s.setTxn k x).far = s.far := rfl
@[simp] theorem State.setTxn_memo (k : Nat) (x : TxnSt) : (s.setTxn k x).memo = s.memo := rfl
@[simp] theorem State.setTxn_life (k : Nat) (x : TxnSt) : (s.setTxn k x).life = s.life := rfl
@[simp] theorem State.setTxn_caps (k : Nat) (x : TxnSt) : (s.setTxn k x).caps = s.caps := rfl
@[simp] theorem State.setTxn_mons (k : Nat) (x : TxnSt) : (s.setTxn k x).mons = s.mons := rfl
@[simp] theorem State.setTxn_thm (k : Nat) (x : TxnSt) : (s.setTxn k x).thm = s.thm := rfl
@[simp] theorem State.setTxn_cal (k : Nat) (x : TxnSt) : (s.setTxn k x).cal = s.cal := rfl
@[simp] theorem State.setTxn_sec (k : Nat) (x : TxnSt) : (s.setTxn k x).sec = s.sec := rfl
@[simp] theorem State.setTxn_reqNo (k : Nat) (x : TxnSt) : (s.setTxn k x).reqNo = s.reqNo := rfl
@[simp] theorem State.setTxn_lastApply (k : Nat) (x : TxnSt) : (s.setTxn k x).lastApply = s.lastApply := rfl
@[simp] theorem State.setTxn_rd (k : Nat) (x : TxnSt) (g : Fld) : (s.setTxn k x).rd g = s.rd g := rfl
@[simp] theorem State.setTxn_ard (k : Nat) (x : TxnSt) (g : Fld) : (s.setTxn k x).ard g = s.ard g := rfl
@[simp] theorem State.setTxn_awake (k : Nat) (x : TxnSt) : (s.setTxn k x).awake = s.awake := rfl
@[simp] theorem State.setTxn_isAmber (k : Nat) (x : TxnSt) : (s.setTxn k x).isAmber = s.isAmber := rfl
@[simp] theorem State.setTxn_isGreen (k : Nat) (x : TxnSt) : (s.setTxn k x).isGreen = s.isGreen := rfl
@[simp] theorem State.setTxn_isSleep (k : Nat) (x : TxnSt) : (s.setTxn k x).isSleep = s.isSleep := rfl
@[simp] theorem State.setTxn_seq (k : Nat) (x : TxnSt) (j : Nat) : (s.setTxn k x).seq j = s.seq j := rfl
@[simp] theorem State.setTxn_cell (k : Nat) (x : TxnSt) (j : Nat) : (s.setTxn k x).cell j = s.cell j := rfl
@[simp] theorem State.setTxn_lane (k : Nat) (x : TxnSt) (j : Nat) : (s.setTxn k x).lane j = s.lane j := rfl
@[simp] theorem State.setTxn_comb (k : Nat) (x : TxnSt) (j : Nat) : (s.setTxn k x).comb j = s.comb j := rfl
@[simp] theorem State.setTxn_biasOut (k : Nat) (x : TxnSt) (j : Nat) : (s.setTxn k x).biasOut j = s.biasOut j := rfl
@[simp] theorem State.setTxn_grpLoads (k : Nat) (x : TxnSt) (j : Nat) : (s.setTxn k x).grpLoads j = s.grpLoads j := rfl
@[simp] theorem State.setTxn_mkr (k : Nat) (x : TxnSt) (j : Nat) : (s.setTxn k x).mkr j = s.mkr j := rfl
@[simp] theorem State.setTxn_stamp (k : Nat) (x : TxnSt) (j : Nat) : (s.setTxn k x).stamp j = s.stamp j := rfl
@[simp] theorem State.setTxn_unit (k : Nat) (x : TxnSt) (j : Nat) : (s.setTxn k x).unit j = s.unit j := rfl
@[simp] theorem State.setTxn_port (k : Nat) (x : TxnSt) (j : Nat) : (s.setTxn k x).port j = s.port j := rfl
@[simp] theorem State.setTxn_mon (k : Nat) (x : TxnSt) (j : Nat) : (s.setTxn k x).mon j = s.mon j := rfl
@[simp] theorem State.setTxn_win (k : Nat) (x : TxnSt) (j : Nat) : (s.setTxn k x).win j = s.win j := rfl
@[simp] theorem State.setTxn_cap (k : Nat) (x : TxnSt) (j : Nat) : (s.setTxn k x).cap j = s.cap j := rfl
@[simp] theorem State.setTxn_txn_self (k : Nat) (x : TxnSt) : (s.setTxn k x).txn k = x := SMap.get_set_self _ _ _ _
theorem State.setTxn_txn_ne (k : Nat) (x : TxnSt) {j : Nat} (h : j ≠ k) : (s.setTxn k x).txn j = s.txn j := SMap.get_set_ne _ _ _ h

/-! ### setMon -/

@[simp] theorem State.setMon_pending (k : Nat) (x : MonSt) : (s.setMon k x).pending = s.pending := rfl
@[simp] theorem State.setMon_free (k : Nat) (x : MonSt) : (s.setMon k x).free = s.free := rfl
@[simp] theorem State.setMon_dial (k : Nat) (x : MonSt) : (s.setMon k x).dial = s.dial := rfl
@[simp] theorem State.setMon_regs (k : Nat) (x : MonSt) : (s.setMon k x).regs = s.regs := rfl
@[simp] theorem State.setMon_act (k : Nat) (x : MonSt) : (s.setMon k x).act = s.act := rfl
@[simp] theorem State.setMon_svc (k : Nat) (x : MonSt) : (s.setMon k x).svc = s.svc := rfl
@[simp] theorem State.setMon_i3c (k : Nat) (x : MonSt) : (s.setMon k x).i3c = s.i3c := rfl
@[simp] theorem State.setMon_strobes (k : Nat) (x : MonSt) : (s.setMon k x).strobes = s.strobes := rfl
@[simp] theorem State.setMon_wins (k : Nat) (x : MonSt) : (s.setMon k x).wins = s.wins := rfl
@[simp] theorem State.setMon_capt (k : Nat) (x : MonSt) : (s.setMon k x).capt = s.capt := rfl
@[simp] theorem State.setMon_locks (k : Nat) (x : MonSt) : (s.setMon k x).locks = s.locks := rfl
@[simp] theorem State.setMon_accBase (k : Nat) (x : MonSt) : (s.setMon k x).accBase = s.accBase := rfl
@[simp] theorem State.setMon_seqs (k : Nat) (x : MonSt) : (s.setMon k x).seqs = s.seqs := rfl
@[simp] theorem State.setMon_cells (k : Nat) (x : MonSt) : (s.setMon k x).cells = s.cells := rfl
@[simp] theorem State.setMon_lanes (k : Nat) (x : MonSt) : (s.setMon k x).lanes = s.lanes := rfl
@[simp] theorem State.setMon_combs (k : Nat) (x : MonSt) : (s.setMon k x).combs = s.combs := rfl
@[simp] theorem State.setMon_bank (k : Nat) (x : MonSt) : (s.setMon k x).bank = s.bank := rfl
@[simp] theorem State.setMon_bankAct (k : Nat) (x : MonSt) : (s.setMon k x).bankAct = s.bankAct := rfl
@[simp] theorem State.setMon_marks (k : Nat) (x : MonSt) : (s.setMon k x).marks = s.marks := rfl
@[simp] theorem State.setMon_micro (k : Nat) (x : MonSt) : (s.setMon k x).micro = s.micro := rfl
@[simp] theorem State.setMon_nano (k : Nat) (x : MonSt) : (s.setMon k x).nano = s.nano := rfl
@[simp] theorem State.setMon_cache (k : Nat) (x : MonSt) : (s.setMon k x).cache = s.cache := rfl
@[simp] theorem State.setMon_kern (k : Nat) (x : MonSt) : (s.setMon k x).kern = s.kern := rfl
@[simp] theorem State.setMon_descs (k : Nat) (x : MonSt) : (s.setMon k x).descs = s.descs := rfl
@[simp] theorem State.setMon_dec (k : Nat) (x : MonSt) : (s.setMon k x).dec = s.dec := rfl
@[simp] theorem State.setMon_bias (k : Nat) (x : MonSt) : (s.setMon k x).bias = s.bias := rfl
@[simp] theorem State.setMon_loads (k : Nat) (x : MonSt) : (s.setMon k x).loads = s.loads := rfl
@[simp] theorem State.setMon_wag (k : Nat) (x : MonSt) : (s.setMon k x).wag = s.wag := rfl
@[simp] theorem State.setMon_hbm (k : Nat) (x : MonSt) : (s.setMon k x).hbm = s.hbm := rfl
@[simp] theorem State.setMon_poison (k : Nat) (x : MonSt) : (s.setMon k x).poison = s.poison := rfl
@[simp] theorem State.setMon_flash (k : Nat) (x : MonSt) : (s.setMon k x).flash = s.flash := rfl
@[simp] theorem State.setMon_mkrs (k : Nat) (x : MonSt) : (s.setMon k x).mkrs = s.mkrs := rfl
@[simp] theorem State.setMon_stmp (k : Nat) (x : MonSt) : (s.setMon k x).stmp = s.stmp := rfl
@[simp] theorem State.setMon_cd (k : Nat) (x : MonSt) : (s.setMon k x).cd = s.cd := rfl
@[simp] theorem State.setMon_meas (k : Nat) (x : MonSt) : (s.setMon k x).meas = s.meas := rfl
@[simp] theorem State.setMon_ports (k : Nat) (x : MonSt) : (s.setMon k x).ports = s.ports := rfl
@[simp] theorem State.setMon_txns (k : Nat) (x : MonSt) : (s.setMon k x).txns = s.txns := rfl
@[simp] theorem State.setMon_swm (k : Nat) (x : MonSt) : (s.setMon k x).swm = s.swm := rfl
@[simp] theorem State.setMon_chain (k : Nat) (x : MonSt) : (s.setMon k x).chain = s.chain := rfl
@[simp] theorem State.setMon_far (k : Nat) (x : MonSt) : (s.setMon k x).far = s.far := rfl
@[simp] theorem State.setMon_memo (k : Nat) (x : MonSt) : (s.setMon k x).memo = s.memo := rfl
@[simp] theorem State.setMon_life (k : Nat) (x : MonSt) : (s.setMon k x).life = s.life := rfl
@[simp] theorem State.setMon_caps (k : Nat) (x : MonSt) : (s.setMon k x).caps = s.caps := rfl
@[simp] theorem State.setMon_thm (k : Nat) (x : MonSt) : (s.setMon k x).thm = s.thm := rfl
@[simp] theorem State.setMon_cal (k : Nat) (x : MonSt) : (s.setMon k x).cal = s.cal := rfl
@[simp] theorem State.setMon_sec (k : Nat) (x : MonSt) : (s.setMon k x).sec = s.sec := rfl
@[simp] theorem State.setMon_reqNo (k : Nat) (x : MonSt) : (s.setMon k x).reqNo = s.reqNo := rfl
@[simp] theorem State.setMon_lastApply (k : Nat) (x : MonSt) : (s.setMon k x).lastApply = s.lastApply := rfl
@[simp] theorem State.setMon_rd (k : Nat) (x : MonSt) (g : Fld) : (s.setMon k x).rd g = s.rd g := rfl
@[simp] theorem State.setMon_ard (k : Nat) (x : MonSt) (g : Fld) : (s.setMon k x).ard g = s.ard g := rfl
@[simp] theorem State.setMon_awake (k : Nat) (x : MonSt) : (s.setMon k x).awake = s.awake := rfl
@[simp] theorem State.setMon_isAmber (k : Nat) (x : MonSt) : (s.setMon k x).isAmber = s.isAmber := rfl
@[simp] theorem State.setMon_isGreen (k : Nat) (x : MonSt) : (s.setMon k x).isGreen = s.isGreen := rfl
@[simp] theorem State.setMon_isSleep (k : Nat) (x : MonSt) : (s.setMon k x).isSleep = s.isSleep := rfl
@[simp] theorem State.setMon_seq (k : Nat) (x : MonSt) (j : Nat) : (s.setMon k x).seq j = s.seq j := rfl
@[simp] theorem State.setMon_cell (k : Nat) (x : MonSt) (j : Nat) : (s.setMon k x).cell j = s.cell j := rfl
@[simp] theorem State.setMon_lane (k : Nat) (x : MonSt) (j : Nat) : (s.setMon k x).lane j = s.lane j := rfl
@[simp] theorem State.setMon_comb (k : Nat) (x : MonSt) (j : Nat) : (s.setMon k x).comb j = s.comb j := rfl
@[simp] theorem State.setMon_biasOut (k : Nat) (x : MonSt) (j : Nat) : (s.setMon k x).biasOut j = s.biasOut j := rfl
@[simp] theorem State.setMon_grpLoads (k : Nat) (x : MonSt) (j : Nat) : (s.setMon k x).grpLoads j = s.grpLoads j := rfl
@[simp] theorem State.setMon_mkr (k : Nat) (x : MonSt) (j : Nat) : (s.setMon k x).mkr j = s.mkr j := rfl
@[simp] theorem State.setMon_stamp (k : Nat) (x : MonSt) (j : Nat) : (s.setMon k x).stamp j = s.stamp j := rfl
@[simp] theorem State.setMon_unit (k : Nat) (x : MonSt) (j : Nat) : (s.setMon k x).unit j = s.unit j := rfl
@[simp] theorem State.setMon_port (k : Nat) (x : MonSt) (j : Nat) : (s.setMon k x).port j = s.port j := rfl
@[simp] theorem State.setMon_txn (k : Nat) (x : MonSt) (j : Nat) : (s.setMon k x).txn j = s.txn j := rfl
@[simp] theorem State.setMon_win (k : Nat) (x : MonSt) (j : Nat) : (s.setMon k x).win j = s.win j := rfl
@[simp] theorem State.setMon_cap (k : Nat) (x : MonSt) (j : Nat) : (s.setMon k x).cap j = s.cap j := rfl
@[simp] theorem State.setMon_mon_self (k : Nat) (x : MonSt) : (s.setMon k x).mon k = x := SMap.get_set_self _ _ _ _
theorem State.setMon_mon_ne (k : Nat) (x : MonSt) {j : Nat} (h : j ≠ k) : (s.setMon k x).mon j = s.mon j := SMap.get_set_ne _ _ _ h

/-! ### setWin -/

@[simp] theorem State.setWin_pending (k : Nat) (x : WinSt) : (s.setWin k x).pending = s.pending := rfl
@[simp] theorem State.setWin_free (k : Nat) (x : WinSt) : (s.setWin k x).free = s.free := rfl
@[simp] theorem State.setWin_dial (k : Nat) (x : WinSt) : (s.setWin k x).dial = s.dial := rfl
@[simp] theorem State.setWin_regs (k : Nat) (x : WinSt) : (s.setWin k x).regs = s.regs := rfl
@[simp] theorem State.setWin_act (k : Nat) (x : WinSt) : (s.setWin k x).act = s.act := rfl
@[simp] theorem State.setWin_svc (k : Nat) (x : WinSt) : (s.setWin k x).svc = s.svc := rfl
@[simp] theorem State.setWin_i3c (k : Nat) (x : WinSt) : (s.setWin k x).i3c = s.i3c := rfl
@[simp] theorem State.setWin_strobes (k : Nat) (x : WinSt) : (s.setWin k x).strobes = s.strobes := rfl
@[simp] theorem State.setWin_capt (k : Nat) (x : WinSt) : (s.setWin k x).capt = s.capt := rfl
@[simp] theorem State.setWin_locks (k : Nat) (x : WinSt) : (s.setWin k x).locks = s.locks := rfl
@[simp] theorem State.setWin_accBase (k : Nat) (x : WinSt) : (s.setWin k x).accBase = s.accBase := rfl
@[simp] theorem State.setWin_seqs (k : Nat) (x : WinSt) : (s.setWin k x).seqs = s.seqs := rfl
@[simp] theorem State.setWin_cells (k : Nat) (x : WinSt) : (s.setWin k x).cells = s.cells := rfl
@[simp] theorem State.setWin_lanes (k : Nat) (x : WinSt) : (s.setWin k x).lanes = s.lanes := rfl
@[simp] theorem State.setWin_combs (k : Nat) (x : WinSt) : (s.setWin k x).combs = s.combs := rfl
@[simp] theorem State.setWin_bank (k : Nat) (x : WinSt) : (s.setWin k x).bank = s.bank := rfl
@[simp] theorem State.setWin_bankAct (k : Nat) (x : WinSt) : (s.setWin k x).bankAct = s.bankAct := rfl
@[simp] theorem State.setWin_marks (k : Nat) (x : WinSt) : (s.setWin k x).marks = s.marks := rfl
@[simp] theorem State.setWin_micro (k : Nat) (x : WinSt) : (s.setWin k x).micro = s.micro := rfl
@[simp] theorem State.setWin_nano (k : Nat) (x : WinSt) : (s.setWin k x).nano = s.nano := rfl
@[simp] theorem State.setWin_cache (k : Nat) (x : WinSt) : (s.setWin k x).cache = s.cache := rfl
@[simp] theorem State.setWin_kern (k : Nat) (x : WinSt) : (s.setWin k x).kern = s.kern := rfl
@[simp] theorem State.setWin_descs (k : Nat) (x : WinSt) : (s.setWin k x).descs = s.descs := rfl
@[simp] theorem State.setWin_dec (k : Nat) (x : WinSt) : (s.setWin k x).dec = s.dec := rfl
@[simp] theorem State.setWin_bias (k : Nat) (x : WinSt) : (s.setWin k x).bias = s.bias := rfl
@[simp] theorem State.setWin_loads (k : Nat) (x : WinSt) : (s.setWin k x).loads = s.loads := rfl
@[simp] theorem State.setWin_wag (k : Nat) (x : WinSt) : (s.setWin k x).wag = s.wag := rfl
@[simp] theorem State.setWin_hbm (k : Nat) (x : WinSt) : (s.setWin k x).hbm = s.hbm := rfl
@[simp] theorem State.setWin_poison (k : Nat) (x : WinSt) : (s.setWin k x).poison = s.poison := rfl
@[simp] theorem State.setWin_flash (k : Nat) (x : WinSt) : (s.setWin k x).flash = s.flash := rfl
@[simp] theorem State.setWin_mkrs (k : Nat) (x : WinSt) : (s.setWin k x).mkrs = s.mkrs := rfl
@[simp] theorem State.setWin_stmp (k : Nat) (x : WinSt) : (s.setWin k x).stmp = s.stmp := rfl
@[simp] theorem State.setWin_cd (k : Nat) (x : WinSt) : (s.setWin k x).cd = s.cd := rfl
@[simp] theorem State.setWin_meas (k : Nat) (x : WinSt) : (s.setWin k x).meas = s.meas := rfl
@[simp] theorem State.setWin_ports (k : Nat) (x : WinSt) : (s.setWin k x).ports = s.ports := rfl
@[simp] theorem State.setWin_txns (k : Nat) (x : WinSt) : (s.setWin k x).txns = s.txns := rfl
@[simp] theorem State.setWin_swm (k : Nat) (x : WinSt) : (s.setWin k x).swm = s.swm := rfl
@[simp] theorem State.setWin_chain (k : Nat) (x : WinSt) : (s.setWin k x).chain = s.chain := rfl
@[simp] theorem State.setWin_far (k : Nat) (x : WinSt) : (s.setWin k x).far = s.far := rfl
@[simp] theorem State.setWin_memo (k : Nat) (x : WinSt) : (s.setWin k x).memo = s.memo := rfl
@[simp] theorem State.setWin_life (k : Nat) (x : WinSt) : (s.setWin k x).life = s.life := rfl
@[simp] theorem State.setWin_caps (k : Nat) (x : WinSt) : (s.setWin k x).caps = s.caps := rfl
@[simp] theorem State.setWin_mons (k : Nat) (x : WinSt) : (s.setWin k x).mons = s.mons := rfl
@[simp] theorem State.setWin_thm (k : Nat) (x : WinSt) : (s.setWin k x).thm = s.thm := rfl
@[simp] theorem State.setWin_cal (k : Nat) (x : WinSt) : (s.setWin k x).cal = s.cal := rfl
@[simp] theorem State.setWin_sec (k : Nat) (x : WinSt) : (s.setWin k x).sec = s.sec := rfl
@[simp] theorem State.setWin_reqNo (k : Nat) (x : WinSt) : (s.setWin k x).reqNo = s.reqNo := rfl
@[simp] theorem State.setWin_lastApply (k : Nat) (x : WinSt) : (s.setWin k x).lastApply = s.lastApply := rfl
@[simp] theorem State.setWin_rd (k : Nat) (x : WinSt) (g : Fld) : (s.setWin k x).rd g = s.rd g := rfl
@[simp] theorem State.setWin_ard (k : Nat) (x : WinSt) (g : Fld) : (s.setWin k x).ard g = s.ard g := rfl
@[simp] theorem State.setWin_awake (k : Nat) (x : WinSt) : (s.setWin k x).awake = s.awake := rfl
@[simp] theorem State.setWin_isAmber (k : Nat) (x : WinSt) : (s.setWin k x).isAmber = s.isAmber := rfl
@[simp] theorem State.setWin_isGreen (k : Nat) (x : WinSt) : (s.setWin k x).isGreen = s.isGreen := rfl
@[simp] theorem State.setWin_isSleep (k : Nat) (x : WinSt) : (s.setWin k x).isSleep = s.isSleep := rfl
@[simp] theorem State.setWin_seq (k : Nat) (x : WinSt) (j : Nat) : (s.setWin k x).seq j = s.seq j := rfl
@[simp] theorem State.setWin_cell (k : Nat) (x : WinSt) (j : Nat) : (s.setWin k x).cell j = s.cell j := rfl
@[simp] theorem State.setWin_lane (k : Nat) (x : WinSt) (j : Nat) : (s.setWin k x).lane j = s.lane j := rfl
@[simp] theorem State.setWin_comb (k : Nat) (x : WinSt) (j : Nat) : (s.setWin k x).comb j = s.comb j := rfl
@[simp] theorem State.setWin_biasOut (k : Nat) (x : WinSt) (j : Nat) : (s.setWin k x).biasOut j = s.biasOut j := rfl
@[simp] theorem State.setWin_grpLoads (k : Nat) (x : WinSt) (j : Nat) : (s.setWin k x).grpLoads j = s.grpLoads j := rfl
@[simp] theorem State.setWin_mkr (k : Nat) (x : WinSt) (j : Nat) : (s.setWin k x).mkr j = s.mkr j := rfl
@[simp] theorem State.setWin_stamp (k : Nat) (x : WinSt) (j : Nat) : (s.setWin k x).stamp j = s.stamp j := rfl
@[simp] theorem State.setWin_unit (k : Nat) (x : WinSt) (j : Nat) : (s.setWin k x).unit j = s.unit j := rfl
@[simp] theorem State.setWin_port (k : Nat) (x : WinSt) (j : Nat) : (s.setWin k x).port j = s.port j := rfl
@[simp] theorem State.setWin_txn (k : Nat) (x : WinSt) (j : Nat) : (s.setWin k x).txn j = s.txn j := rfl
@[simp] theorem State.setWin_mon (k : Nat) (x : WinSt) (j : Nat) : (s.setWin k x).mon j = s.mon j := rfl
@[simp] theorem State.setWin_cap (k : Nat) (x : WinSt) (j : Nat) : (s.setWin k x).cap j = s.cap j := rfl
@[simp] theorem State.setWin_win_self (k : Nat) (x : WinSt) : (s.setWin k x).win k = x := SMap.get_set_self _ _ _ _
theorem State.setWin_win_ne (k : Nat) (x : WinSt) {j : Nat} (h : j ≠ k) : (s.setWin k x).win j = s.win j := SMap.get_set_ne _ _ _ h

/-! ### setCap -/

@[simp] theorem State.setCap_pending (k : Nat) (x : CapSt) : (s.setCap k x).pending = s.pending := rfl
@[simp] theorem State.setCap_free (k : Nat) (x : CapSt) : (s.setCap k x).free = s.free := rfl
@[simp] theorem State.setCap_dial (k : Nat) (x : CapSt) : (s.setCap k x).dial = s.dial := rfl
@[simp] theorem State.setCap_regs (k : Nat) (x : CapSt) : (s.setCap k x).regs = s.regs := rfl
@[simp] theorem State.setCap_act (k : Nat) (x : CapSt) : (s.setCap k x).act = s.act := rfl
@[simp] theorem State.setCap_svc (k : Nat) (x : CapSt) : (s.setCap k x).svc = s.svc := rfl
@[simp] theorem State.setCap_i3c (k : Nat) (x : CapSt) : (s.setCap k x).i3c = s.i3c := rfl
@[simp] theorem State.setCap_strobes (k : Nat) (x : CapSt) : (s.setCap k x).strobes = s.strobes := rfl
@[simp] theorem State.setCap_wins (k : Nat) (x : CapSt) : (s.setCap k x).wins = s.wins := rfl
@[simp] theorem State.setCap_capt (k : Nat) (x : CapSt) : (s.setCap k x).capt = s.capt := rfl
@[simp] theorem State.setCap_locks (k : Nat) (x : CapSt) : (s.setCap k x).locks = s.locks := rfl
@[simp] theorem State.setCap_accBase (k : Nat) (x : CapSt) : (s.setCap k x).accBase = s.accBase := rfl
@[simp] theorem State.setCap_seqs (k : Nat) (x : CapSt) : (s.setCap k x).seqs = s.seqs := rfl
@[simp] theorem State.setCap_cells (k : Nat) (x : CapSt) : (s.setCap k x).cells = s.cells := rfl
@[simp] theorem State.setCap_lanes (k : Nat) (x : CapSt) : (s.setCap k x).lanes = s.lanes := rfl
@[simp] theorem State.setCap_combs (k : Nat) (x : CapSt) : (s.setCap k x).combs = s.combs := rfl
@[simp] theorem State.setCap_bank (k : Nat) (x : CapSt) : (s.setCap k x).bank = s.bank := rfl
@[simp] theorem State.setCap_bankAct (k : Nat) (x : CapSt) : (s.setCap k x).bankAct = s.bankAct := rfl
@[simp] theorem State.setCap_marks (k : Nat) (x : CapSt) : (s.setCap k x).marks = s.marks := rfl
@[simp] theorem State.setCap_micro (k : Nat) (x : CapSt) : (s.setCap k x).micro = s.micro := rfl
@[simp] theorem State.setCap_nano (k : Nat) (x : CapSt) : (s.setCap k x).nano = s.nano := rfl
@[simp] theorem State.setCap_cache (k : Nat) (x : CapSt) : (s.setCap k x).cache = s.cache := rfl
@[simp] theorem State.setCap_kern (k : Nat) (x : CapSt) : (s.setCap k x).kern = s.kern := rfl
@[simp] theorem State.setCap_descs (k : Nat) (x : CapSt) : (s.setCap k x).descs = s.descs := rfl
@[simp] theorem State.setCap_dec (k : Nat) (x : CapSt) : (s.setCap k x).dec = s.dec := rfl
@[simp] theorem State.setCap_bias (k : Nat) (x : CapSt) : (s.setCap k x).bias = s.bias := rfl
@[simp] theorem State.setCap_loads (k : Nat) (x : CapSt) : (s.setCap k x).loads = s.loads := rfl
@[simp] theorem State.setCap_wag (k : Nat) (x : CapSt) : (s.setCap k x).wag = s.wag := rfl
@[simp] theorem State.setCap_hbm (k : Nat) (x : CapSt) : (s.setCap k x).hbm = s.hbm := rfl
@[simp] theorem State.setCap_poison (k : Nat) (x : CapSt) : (s.setCap k x).poison = s.poison := rfl
@[simp] theorem State.setCap_flash (k : Nat) (x : CapSt) : (s.setCap k x).flash = s.flash := rfl
@[simp] theorem State.setCap_mkrs (k : Nat) (x : CapSt) : (s.setCap k x).mkrs = s.mkrs := rfl
@[simp] theorem State.setCap_stmp (k : Nat) (x : CapSt) : (s.setCap k x).stmp = s.stmp := rfl
@[simp] theorem State.setCap_cd (k : Nat) (x : CapSt) : (s.setCap k x).cd = s.cd := rfl
@[simp] theorem State.setCap_meas (k : Nat) (x : CapSt) : (s.setCap k x).meas = s.meas := rfl
@[simp] theorem State.setCap_ports (k : Nat) (x : CapSt) : (s.setCap k x).ports = s.ports := rfl
@[simp] theorem State.setCap_txns (k : Nat) (x : CapSt) : (s.setCap k x).txns = s.txns := rfl
@[simp] theorem State.setCap_swm (k : Nat) (x : CapSt) : (s.setCap k x).swm = s.swm := rfl
@[simp] theorem State.setCap_chain (k : Nat) (x : CapSt) : (s.setCap k x).chain = s.chain := rfl
@[simp] theorem State.setCap_far (k : Nat) (x : CapSt) : (s.setCap k x).far = s.far := rfl
@[simp] theorem State.setCap_memo (k : Nat) (x : CapSt) : (s.setCap k x).memo = s.memo := rfl
@[simp] theorem State.setCap_life (k : Nat) (x : CapSt) : (s.setCap k x).life = s.life := rfl
@[simp] theorem State.setCap_mons (k : Nat) (x : CapSt) : (s.setCap k x).mons = s.mons := rfl
@[simp] theorem State.setCap_thm (k : Nat) (x : CapSt) : (s.setCap k x).thm = s.thm := rfl
@[simp] theorem State.setCap_cal (k : Nat) (x : CapSt) : (s.setCap k x).cal = s.cal := rfl
@[simp] theorem State.setCap_sec (k : Nat) (x : CapSt) : (s.setCap k x).sec = s.sec := rfl
@[simp] theorem State.setCap_reqNo (k : Nat) (x : CapSt) : (s.setCap k x).reqNo = s.reqNo := rfl
@[simp] theorem State.setCap_lastApply (k : Nat) (x : CapSt) : (s.setCap k x).lastApply = s.lastApply := rfl
@[simp] theorem State.setCap_rd (k : Nat) (x : CapSt) (g : Fld) : (s.setCap k x).rd g = s.rd g := rfl
@[simp] theorem State.setCap_ard (k : Nat) (x : CapSt) (g : Fld) : (s.setCap k x).ard g = s.ard g := rfl
@[simp] theorem State.setCap_awake (k : Nat) (x : CapSt) : (s.setCap k x).awake = s.awake := rfl
@[simp] theorem State.setCap_isAmber (k : Nat) (x : CapSt) : (s.setCap k x).isAmber = s.isAmber := rfl
@[simp] theorem State.setCap_isGreen (k : Nat) (x : CapSt) : (s.setCap k x).isGreen = s.isGreen := rfl
@[simp] theorem State.setCap_isSleep (k : Nat) (x : CapSt) : (s.setCap k x).isSleep = s.isSleep := rfl
@[simp] theorem State.setCap_seq (k : Nat) (x : CapSt) (j : Nat) : (s.setCap k x).seq j = s.seq j := rfl
@[simp] theorem State.setCap_cell (k : Nat) (x : CapSt) (j : Nat) : (s.setCap k x).cell j = s.cell j := rfl
@[simp] theorem State.setCap_lane (k : Nat) (x : CapSt) (j : Nat) : (s.setCap k x).lane j = s.lane j := rfl
@[simp] theorem State.setCap_comb (k : Nat) (x : CapSt) (j : Nat) : (s.setCap k x).comb j = s.comb j := rfl
@[simp] theorem State.setCap_biasOut (k : Nat) (x : CapSt) (j : Nat) : (s.setCap k x).biasOut j = s.biasOut j := rfl
@[simp] theorem State.setCap_grpLoads (k : Nat) (x : CapSt) (j : Nat) : (s.setCap k x).grpLoads j = s.grpLoads j := rfl
@[simp] theorem State.setCap_mkr (k : Nat) (x : CapSt) (j : Nat) : (s.setCap k x).mkr j = s.mkr j := rfl
@[simp] theorem State.setCap_stamp (k : Nat) (x : CapSt) (j : Nat) : (s.setCap k x).stamp j = s.stamp j := rfl
@[simp] theorem State.setCap_unit (k : Nat) (x : CapSt) (j : Nat) : (s.setCap k x).unit j = s.unit j := rfl
@[simp] theorem State.setCap_port (k : Nat) (x : CapSt) (j : Nat) : (s.setCap k x).port j = s.port j := rfl
@[simp] theorem State.setCap_txn (k : Nat) (x : CapSt) (j : Nat) : (s.setCap k x).txn j = s.txn j := rfl
@[simp] theorem State.setCap_mon (k : Nat) (x : CapSt) (j : Nat) : (s.setCap k x).mon j = s.mon j := rfl
@[simp] theorem State.setCap_win (k : Nat) (x : CapSt) (j : Nat) : (s.setCap k x).win j = s.win j := rfl
@[simp] theorem State.setCap_cap_self (k : Nat) (x : CapSt) : (s.setCap k x).cap k = x := SMap.get_set_self _ _ _ _
theorem State.setCap_cap_ne (k : Nat) (x : CapSt) {j : Nat} (h : j ≠ k) : (s.setCap k x).cap j = s.cap j := SMap.get_set_ne _ _ _ h

/-! ### setSvc -/

@[simp] theorem State.setSvc_pending (x : SvcSt) : (s.setSvc x).pending = s.pending := rfl
@[simp] theorem State.setSvc_free (x : SvcSt) : (s.setSvc x).free = s.free := rfl
@[simp] theorem State.setSvc_dial (x : SvcSt) : (s.setSvc x).dial = s.dial := rfl
@[simp] theorem State.setSvc_regs (x : SvcSt) : (s.setSvc x).regs = s.regs := rfl
@[simp] theorem State.setSvc_act (x : SvcSt) : (s.setSvc x).act = s.act := rfl
@[simp] theorem State.setSvc_svc (x : SvcSt) : (s.setSvc x).svc = x := rfl
@[simp] theorem State.setSvc_i3c (x : SvcSt) : (s.setSvc x).i3c = s.i3c := rfl
@[simp] theorem State.setSvc_strobes (x : SvcSt) : (s.setSvc x).strobes = s.strobes := rfl
@[simp] theorem State.setSvc_wins (x : SvcSt) : (s.setSvc x).wins = s.wins := rfl
@[simp] theorem State.setSvc_capt (x : SvcSt) : (s.setSvc x).capt = s.capt := rfl
@[simp] theorem State.setSvc_locks (x : SvcSt) : (s.setSvc x).locks = s.locks := rfl
@[simp] theorem State.setSvc_accBase (x : SvcSt) : (s.setSvc x).accBase = s.accBase := rfl
@[simp] theorem State.setSvc_seqs (x : SvcSt) : (s.setSvc x).seqs = s.seqs := rfl
@[simp] theorem State.setSvc_cells (x : SvcSt) : (s.setSvc x).cells = s.cells := rfl
@[simp] theorem State.setSvc_lanes (x : SvcSt) : (s.setSvc x).lanes = s.lanes := rfl
@[simp] theorem State.setSvc_combs (x : SvcSt) : (s.setSvc x).combs = s.combs := rfl
@[simp] theorem State.setSvc_bank (x : SvcSt) : (s.setSvc x).bank = s.bank := rfl
@[simp] theorem State.setSvc_bankAct (x : SvcSt) : (s.setSvc x).bankAct = s.bankAct := rfl
@[simp] theorem State.setSvc_marks (x : SvcSt) : (s.setSvc x).marks = s.marks := rfl
@[simp] theorem State.setSvc_micro (x : SvcSt) : (s.setSvc x).micro = s.micro := rfl
@[simp] theorem State.setSvc_nano (x : SvcSt) : (s.setSvc x).nano = s.nano := rfl
@[simp] theorem State.setSvc_cache (x : SvcSt) : (s.setSvc x).cache = s.cache := rfl
@[simp] theorem State.setSvc_kern (x : SvcSt) : (s.setSvc x).kern = s.kern := rfl
@[simp] theorem State.setSvc_descs (x : SvcSt) : (s.setSvc x).descs = s.descs := rfl
@[simp] theorem State.setSvc_dec (x : SvcSt) : (s.setSvc x).dec = s.dec := rfl
@[simp] theorem State.setSvc_bias (x : SvcSt) : (s.setSvc x).bias = s.bias := rfl
@[simp] theorem State.setSvc_loads (x : SvcSt) : (s.setSvc x).loads = s.loads := rfl
@[simp] theorem State.setSvc_wag (x : SvcSt) : (s.setSvc x).wag = s.wag := rfl
@[simp] theorem State.setSvc_hbm (x : SvcSt) : (s.setSvc x).hbm = s.hbm := rfl
@[simp] theorem State.setSvc_poison (x : SvcSt) : (s.setSvc x).poison = s.poison := rfl
@[simp] theorem State.setSvc_flash (x : SvcSt) : (s.setSvc x).flash = s.flash := rfl
@[simp] theorem State.setSvc_mkrs (x : SvcSt) : (s.setSvc x).mkrs = s.mkrs := rfl
@[simp] theorem State.setSvc_stmp (x : SvcSt) : (s.setSvc x).stmp = s.stmp := rfl
@[simp] theorem State.setSvc_cd (x : SvcSt) : (s.setSvc x).cd = s.cd := rfl
@[simp] theorem State.setSvc_meas (x : SvcSt) : (s.setSvc x).meas = s.meas := rfl
@[simp] theorem State.setSvc_ports (x : SvcSt) : (s.setSvc x).ports = s.ports := rfl
@[simp] theorem State.setSvc_txns (x : SvcSt) : (s.setSvc x).txns = s.txns := rfl
@[simp] theorem State.setSvc_swm (x : SvcSt) : (s.setSvc x).swm = s.swm := rfl
@[simp] theorem State.setSvc_chain (x : SvcSt) : (s.setSvc x).chain = s.chain := rfl
@[simp] theorem State.setSvc_far (x : SvcSt) : (s.setSvc x).far = s.far := rfl
@[simp] theorem State.setSvc_memo (x : SvcSt) : (s.setSvc x).memo = s.memo := rfl
@[simp] theorem State.setSvc_life (x : SvcSt) : (s.setSvc x).life = s.life := rfl
@[simp] theorem State.setSvc_caps (x : SvcSt) : (s.setSvc x).caps = s.caps := rfl
@[simp] theorem State.setSvc_mons (x : SvcSt) : (s.setSvc x).mons = s.mons := rfl
@[simp] theorem State.setSvc_thm (x : SvcSt) : (s.setSvc x).thm = s.thm := rfl
@[simp] theorem State.setSvc_cal (x : SvcSt) : (s.setSvc x).cal = s.cal := rfl
@[simp] theorem State.setSvc_sec (x : SvcSt) : (s.setSvc x).sec = s.sec := rfl
@[simp] theorem State.setSvc_reqNo (x : SvcSt) : (s.setSvc x).reqNo = s.reqNo := rfl
@[simp] theorem State.setSvc_lastApply (x : SvcSt) : (s.setSvc x).lastApply = s.lastApply := rfl
@[simp] theorem State.setSvc_rd (x : SvcSt) (g : Fld) : (s.setSvc x).rd g = s.rd g := rfl
@[simp] theorem State.setSvc_ard (x : SvcSt) (g : Fld) : (s.setSvc x).ard g = s.ard g := rfl
@[simp] theorem State.setSvc_seq (x : SvcSt) (j : Nat) : (s.setSvc x).seq j = s.seq j := rfl
@[simp] theorem State.setSvc_cell (x : SvcSt) (j : Nat) : (s.setSvc x).cell j = s.cell j := rfl
@[simp] theorem State.setSvc_lane (x : SvcSt) (j : Nat) : (s.setSvc x).lane j = s.lane j := rfl
@[simp] theorem State.setSvc_comb (x : SvcSt) (j : Nat) : (s.setSvc x).comb j = s.comb j := rfl
@[simp] theorem State.setSvc_biasOut (x : SvcSt) (j : Nat) : (s.setSvc x).biasOut j = s.biasOut j := rfl
@[simp] theorem State.setSvc_grpLoads (x : SvcSt) (j : Nat) : (s.setSvc x).grpLoads j = s.grpLoads j := rfl
@[simp] theorem State.setSvc_mkr (x : SvcSt) (j : Nat) : (s.setSvc x).mkr j = s.mkr j := rfl
@[simp] theorem State.setSvc_stamp (x : SvcSt) (j : Nat) : (s.setSvc x).stamp j = s.stamp j := rfl
@[simp] theorem State.setSvc_unit (x : SvcSt) (j : Nat) : (s.setSvc x).unit j = s.unit j := rfl
@[simp] theorem State.setSvc_port (x : SvcSt) (j : Nat) : (s.setSvc x).port j = s.port j := rfl
@[simp] theorem State.setSvc_txn (x : SvcSt) (j : Nat) : (s.setSvc x).txn j = s.txn j := rfl
@[simp] theorem State.setSvc_mon (x : SvcSt) (j : Nat) : (s.setSvc x).mon j = s.mon j := rfl
@[simp] theorem State.setSvc_win (x : SvcSt) (j : Nat) : (s.setSvc x).win j = s.win j := rfl
@[simp] theorem State.setSvc_cap (x : SvcSt) (j : Nat) : (s.setSvc x).cap j = s.cap j := rfl

/-! ### setI3c -/

@[simp] theorem State.setI3c_pending (x : I3cSt) : (s.setI3c x).pending = s.pending := rfl
@[simp] theorem State.setI3c_free (x : I3cSt) : (s.setI3c x).free = s.free := rfl
@[simp] theorem State.setI3c_dial (x : I3cSt) : (s.setI3c x).dial = s.dial := rfl
@[simp] theorem State.setI3c_regs (x : I3cSt) : (s.setI3c x).regs = s.regs := rfl
@[simp] theorem State.setI3c_act (x : I3cSt) : (s.setI3c x).act = s.act := rfl
@[simp] theorem State.setI3c_svc (x : I3cSt) : (s.setI3c x).svc = s.svc := rfl
@[simp] theorem State.setI3c_i3c (x : I3cSt) : (s.setI3c x).i3c = x := rfl
@[simp] theorem State.setI3c_strobes (x : I3cSt) : (s.setI3c x).strobes = s.strobes := rfl
@[simp] theorem State.setI3c_wins (x : I3cSt) : (s.setI3c x).wins = s.wins := rfl
@[simp] theorem State.setI3c_capt (x : I3cSt) : (s.setI3c x).capt = s.capt := rfl
@[simp] theorem State.setI3c_locks (x : I3cSt) : (s.setI3c x).locks = s.locks := rfl
@[simp] theorem State.setI3c_accBase (x : I3cSt) : (s.setI3c x).accBase = s.accBase := rfl
@[simp] theorem State.setI3c_seqs (x : I3cSt) : (s.setI3c x).seqs = s.seqs := rfl
@[simp] theorem State.setI3c_cells (x : I3cSt) : (s.setI3c x).cells = s.cells := rfl
@[simp] theorem State.setI3c_lanes (x : I3cSt) : (s.setI3c x).lanes = s.lanes := rfl
@[simp] theorem State.setI3c_combs (x : I3cSt) : (s.setI3c x).combs = s.combs := rfl
@[simp] theorem State.setI3c_bank (x : I3cSt) : (s.setI3c x).bank = s.bank := rfl
@[simp] theorem State.setI3c_bankAct (x : I3cSt) : (s.setI3c x).bankAct = s.bankAct := rfl
@[simp] theorem State.setI3c_marks (x : I3cSt) : (s.setI3c x).marks = s.marks := rfl
@[simp] theorem State.setI3c_micro (x : I3cSt) : (s.setI3c x).micro = s.micro := rfl
@[simp] theorem State.setI3c_nano (x : I3cSt) : (s.setI3c x).nano = s.nano := rfl
@[simp] theorem State.setI3c_cache (x : I3cSt) : (s.setI3c x).cache = s.cache := rfl
@[simp] theorem State.setI3c_kern (x : I3cSt) : (s.setI3c x).kern = s.kern := rfl
@[simp] theorem State.setI3c_descs (x : I3cSt) : (s.setI3c x).descs = s.descs := rfl
@[simp] theorem State.setI3c_dec (x : I3cSt) : (s.setI3c x).dec = s.dec := rfl
@[simp] theorem State.setI3c_bias (x : I3cSt) : (s.setI3c x).bias = s.bias := rfl
@[simp] theorem State.setI3c_loads (x : I3cSt) : (s.setI3c x).loads = s.loads := rfl
@[simp] theorem State.setI3c_wag (x : I3cSt) : (s.setI3c x).wag = s.wag := rfl
@[simp] theorem State.setI3c_hbm (x : I3cSt) : (s.setI3c x).hbm = s.hbm := rfl
@[simp] theorem State.setI3c_poison (x : I3cSt) : (s.setI3c x).poison = s.poison := rfl
@[simp] theorem State.setI3c_flash (x : I3cSt) : (s.setI3c x).flash = s.flash := rfl
@[simp] theorem State.setI3c_mkrs (x : I3cSt) : (s.setI3c x).mkrs = s.mkrs := rfl
@[simp] theorem State.setI3c_stmp (x : I3cSt) : (s.setI3c x).stmp = s.stmp := rfl
@[simp] theorem State.setI3c_cd (x : I3cSt) : (s.setI3c x).cd = s.cd := rfl
@[simp] theorem State.setI3c_meas (x : I3cSt) : (s.setI3c x).meas = s.meas := rfl
@[simp] theorem State.setI3c_ports (x : I3cSt) : (s.setI3c x).ports = s.ports := rfl
@[simp] theorem State.setI3c_txns (x : I3cSt) : (s.setI3c x).txns = s.txns := rfl
@[simp] theorem State.setI3c_swm (x : I3cSt) : (s.setI3c x).swm = s.swm := rfl
@[simp] theorem State.setI3c_chain (x : I3cSt) : (s.setI3c x).chain = s.chain := rfl
@[simp] theorem State.setI3c_far (x : I3cSt) : (s.setI3c x).far = s.far := rfl
@[simp] theorem State.setI3c_memo (x : I3cSt) : (s.setI3c x).memo = s.memo := rfl
@[simp] theorem State.setI3c_life (x : I3cSt) : (s.setI3c x).life = s.life := rfl
@[simp] theorem State.setI3c_caps (x : I3cSt) : (s.setI3c x).caps = s.caps := rfl
@[simp] theorem State.setI3c_mons (x : I3cSt) : (s.setI3c x).mons = s.mons := rfl
@[simp] theorem State.setI3c_thm (x : I3cSt) : (s.setI3c x).thm = s.thm := rfl
@[simp] theorem State.setI3c_cal (x : I3cSt) : (s.setI3c x).cal = s.cal := rfl
@[simp] theorem State.setI3c_sec (x : I3cSt) : (s.setI3c x).sec = s.sec := rfl
@[simp] theorem State.setI3c_reqNo (x : I3cSt) : (s.setI3c x).reqNo = s.reqNo := rfl
@[simp] theorem State.setI3c_lastApply (x : I3cSt) : (s.setI3c x).lastApply = s.lastApply := rfl
@[simp] theorem State.setI3c_rd (x : I3cSt) (g : Fld) : (s.setI3c x).rd g = s.rd g := rfl
@[simp] theorem State.setI3c_ard (x : I3cSt) (g : Fld) : (s.setI3c x).ard g = s.ard g := rfl
@[simp] theorem State.setI3c_awake (x : I3cSt) : (s.setI3c x).awake = s.awake := rfl
@[simp] theorem State.setI3c_isAmber (x : I3cSt) : (s.setI3c x).isAmber = s.isAmber := rfl
@[simp] theorem State.setI3c_isGreen (x : I3cSt) : (s.setI3c x).isGreen = s.isGreen := rfl
@[simp] theorem State.setI3c_isSleep (x : I3cSt) : (s.setI3c x).isSleep = s.isSleep := rfl
@[simp] theorem State.setI3c_seq (x : I3cSt) (j : Nat) : (s.setI3c x).seq j = s.seq j := rfl
@[simp] theorem State.setI3c_cell (x : I3cSt) (j : Nat) : (s.setI3c x).cell j = s.cell j := rfl
@[simp] theorem State.setI3c_lane (x : I3cSt) (j : Nat) : (s.setI3c x).lane j = s.lane j := rfl
@[simp] theorem State.setI3c_comb (x : I3cSt) (j : Nat) : (s.setI3c x).comb j = s.comb j := rfl
@[simp] theorem State.setI3c_biasOut (x : I3cSt) (j : Nat) : (s.setI3c x).biasOut j = s.biasOut j := rfl
@[simp] theorem State.setI3c_grpLoads (x : I3cSt) (j : Nat) : (s.setI3c x).grpLoads j = s.grpLoads j := rfl
@[simp] theorem State.setI3c_mkr (x : I3cSt) (j : Nat) : (s.setI3c x).mkr j = s.mkr j := rfl
@[simp] theorem State.setI3c_stamp (x : I3cSt) (j : Nat) : (s.setI3c x).stamp j = s.stamp j := rfl
@[simp] theorem State.setI3c_unit (x : I3cSt) (j : Nat) : (s.setI3c x).unit j = s.unit j := rfl
@[simp] theorem State.setI3c_port (x : I3cSt) (j : Nat) : (s.setI3c x).port j = s.port j := rfl
@[simp] theorem State.setI3c_txn (x : I3cSt) (j : Nat) : (s.setI3c x).txn j = s.txn j := rfl
@[simp] theorem State.setI3c_mon (x : I3cSt) (j : Nat) : (s.setI3c x).mon j = s.mon j := rfl
@[simp] theorem State.setI3c_win (x : I3cSt) (j : Nat) : (s.setI3c x).win j = s.win j := rfl
@[simp] theorem State.setI3c_cap (x : I3cSt) (j : Nat) : (s.setI3c x).cap j = s.cap j := rfl

/-! ### setChain -/

@[simp] theorem State.setChain_pending (x : ChainSt) : (s.setChain x).pending = s.pending := rfl
@[simp] theorem State.setChain_free (x : ChainSt) : (s.setChain x).free = s.free := rfl
@[simp] theorem State.setChain_dial (x : ChainSt) : (s.setChain x).dial = s.dial := rfl
@[simp] theorem State.setChain_regs (x : ChainSt) : (s.setChain x).regs = s.regs := rfl
@[simp] theorem State.setChain_act (x : ChainSt) : (s.setChain x).act = s.act := rfl
@[simp] theorem State.setChain_svc (x : ChainSt) : (s.setChain x).svc = s.svc := rfl
@[simp] theorem State.setChain_i3c (x : ChainSt) : (s.setChain x).i3c = s.i3c := rfl
@[simp] theorem State.setChain_strobes (x : ChainSt) : (s.setChain x).strobes = s.strobes := rfl
@[simp] theorem State.setChain_wins (x : ChainSt) : (s.setChain x).wins = s.wins := rfl
@[simp] theorem State.setChain_capt (x : ChainSt) : (s.setChain x).capt = s.capt := rfl
@[simp] theorem State.setChain_locks (x : ChainSt) : (s.setChain x).locks = s.locks := rfl
@[simp] theorem State.setChain_accBase (x : ChainSt) : (s.setChain x).accBase = s.accBase := rfl
@[simp] theorem State.setChain_seqs (x : ChainSt) : (s.setChain x).seqs = s.seqs := rfl
@[simp] theorem State.setChain_cells (x : ChainSt) : (s.setChain x).cells = s.cells := rfl
@[simp] theorem State.setChain_lanes (x : ChainSt) : (s.setChain x).lanes = s.lanes := rfl
@[simp] theorem State.setChain_combs (x : ChainSt) : (s.setChain x).combs = s.combs := rfl
@[simp] theorem State.setChain_bank (x : ChainSt) : (s.setChain x).bank = s.bank := rfl
@[simp] theorem State.setChain_bankAct (x : ChainSt) : (s.setChain x).bankAct = s.bankAct := rfl
@[simp] theorem State.setChain_marks (x : ChainSt) : (s.setChain x).marks = s.marks := rfl
@[simp] theorem State.setChain_micro (x : ChainSt) : (s.setChain x).micro = s.micro := rfl
@[simp] theorem State.setChain_nano (x : ChainSt) : (s.setChain x).nano = s.nano := rfl
@[simp] theorem State.setChain_cache (x : ChainSt) : (s.setChain x).cache = s.cache := rfl
@[simp] theorem State.setChain_kern (x : ChainSt) : (s.setChain x).kern = s.kern := rfl
@[simp] theorem State.setChain_descs (x : ChainSt) : (s.setChain x).descs = s.descs := rfl
@[simp] theorem State.setChain_dec (x : ChainSt) : (s.setChain x).dec = s.dec := rfl
@[simp] theorem State.setChain_bias (x : ChainSt) : (s.setChain x).bias = s.bias := rfl
@[simp] theorem State.setChain_loads (x : ChainSt) : (s.setChain x).loads = s.loads := rfl
@[simp] theorem State.setChain_wag (x : ChainSt) : (s.setChain x).wag = s.wag := rfl
@[simp] theorem State.setChain_hbm (x : ChainSt) : (s.setChain x).hbm = s.hbm := rfl
@[simp] theorem State.setChain_poison (x : ChainSt) : (s.setChain x).poison = s.poison := rfl
@[simp] theorem State.setChain_flash (x : ChainSt) : (s.setChain x).flash = s.flash := rfl
@[simp] theorem State.setChain_mkrs (x : ChainSt) : (s.setChain x).mkrs = s.mkrs := rfl
@[simp] theorem State.setChain_stmp (x : ChainSt) : (s.setChain x).stmp = s.stmp := rfl
@[simp] theorem State.setChain_cd (x : ChainSt) : (s.setChain x).cd = s.cd := rfl
@[simp] theorem State.setChain_meas (x : ChainSt) : (s.setChain x).meas = s.meas := rfl
@[simp] theorem State.setChain_ports (x : ChainSt) : (s.setChain x).ports = s.ports := rfl
@[simp] theorem State.setChain_txns (x : ChainSt) : (s.setChain x).txns = s.txns := rfl
@[simp] theorem State.setChain_swm (x : ChainSt) : (s.setChain x).swm = s.swm := rfl
@[simp] theorem State.setChain_chain (x : ChainSt) : (s.setChain x).chain = x := rfl
@[simp] theorem State.setChain_far (x : ChainSt) : (s.setChain x).far = s.far := rfl
@[simp] theorem State.setChain_memo (x : ChainSt) : (s.setChain x).memo = s.memo := rfl
@[simp] theorem State.setChain_life (x : ChainSt) : (s.setChain x).life = s.life := rfl
@[simp] theorem State.setChain_caps (x : ChainSt) : (s.setChain x).caps = s.caps := rfl
@[simp] theorem State.setChain_mons (x : ChainSt) : (s.setChain x).mons = s.mons := rfl
@[simp] theorem State.setChain_thm (x : ChainSt) : (s.setChain x).thm = s.thm := rfl
@[simp] theorem State.setChain_cal (x : ChainSt) : (s.setChain x).cal = s.cal := rfl
@[simp] theorem State.setChain_sec (x : ChainSt) : (s.setChain x).sec = s.sec := rfl
@[simp] theorem State.setChain_reqNo (x : ChainSt) : (s.setChain x).reqNo = s.reqNo := rfl
@[simp] theorem State.setChain_lastApply (x : ChainSt) : (s.setChain x).lastApply = s.lastApply := rfl
@[simp] theorem State.setChain_rd (x : ChainSt) (g : Fld) : (s.setChain x).rd g = s.rd g := rfl
@[simp] theorem State.setChain_ard (x : ChainSt) (g : Fld) : (s.setChain x).ard g = s.ard g := rfl
@[simp] theorem State.setChain_awake (x : ChainSt) : (s.setChain x).awake = s.awake := rfl
@[simp] theorem State.setChain_isAmber (x : ChainSt) : (s.setChain x).isAmber = s.isAmber := rfl
@[simp] theorem State.setChain_isGreen (x : ChainSt) : (s.setChain x).isGreen = s.isGreen := rfl
@[simp] theorem State.setChain_isSleep (x : ChainSt) : (s.setChain x).isSleep = s.isSleep := rfl
@[simp] theorem State.setChain_seq (x : ChainSt) (j : Nat) : (s.setChain x).seq j = s.seq j := rfl
@[simp] theorem State.setChain_cell (x : ChainSt) (j : Nat) : (s.setChain x).cell j = s.cell j := rfl
@[simp] theorem State.setChain_lane (x : ChainSt) (j : Nat) : (s.setChain x).lane j = s.lane j := rfl
@[simp] theorem State.setChain_comb (x : ChainSt) (j : Nat) : (s.setChain x).comb j = s.comb j := rfl
@[simp] theorem State.setChain_biasOut (x : ChainSt) (j : Nat) : (s.setChain x).biasOut j = s.biasOut j := rfl
@[simp] theorem State.setChain_grpLoads (x : ChainSt) (j : Nat) : (s.setChain x).grpLoads j = s.grpLoads j := rfl
@[simp] theorem State.setChain_mkr (x : ChainSt) (j : Nat) : (s.setChain x).mkr j = s.mkr j := rfl
@[simp] theorem State.setChain_stamp (x : ChainSt) (j : Nat) : (s.setChain x).stamp j = s.stamp j := rfl
@[simp] theorem State.setChain_unit (x : ChainSt) (j : Nat) : (s.setChain x).unit j = s.unit j := rfl
@[simp] theorem State.setChain_port (x : ChainSt) (j : Nat) : (s.setChain x).port j = s.port j := rfl
@[simp] theorem State.setChain_txn (x : ChainSt) (j : Nat) : (s.setChain x).txn j = s.txn j := rfl
@[simp] theorem State.setChain_mon (x : ChainSt) (j : Nat) : (s.setChain x).mon j = s.mon j := rfl
@[simp] theorem State.setChain_win (x : ChainSt) (j : Nat) : (s.setChain x).win j = s.win j := rfl
@[simp] theorem State.setChain_cap (x : ChainSt) (j : Nat) : (s.setChain x).cap j = s.cap j := rfl

/-! ### setLife -/

@[simp] theorem State.setLife_pending (x : LifeSt) : (s.setLife x).pending = s.pending := rfl
@[simp] theorem State.setLife_free (x : LifeSt) : (s.setLife x).free = s.free := rfl
@[simp] theorem State.setLife_dial (x : LifeSt) : (s.setLife x).dial = s.dial := rfl
@[simp] theorem State.setLife_regs (x : LifeSt) : (s.setLife x).regs = s.regs := rfl
@[simp] theorem State.setLife_act (x : LifeSt) : (s.setLife x).act = s.act := rfl
@[simp] theorem State.setLife_svc (x : LifeSt) : (s.setLife x).svc = s.svc := rfl
@[simp] theorem State.setLife_i3c (x : LifeSt) : (s.setLife x).i3c = s.i3c := rfl
@[simp] theorem State.setLife_strobes (x : LifeSt) : (s.setLife x).strobes = s.strobes := rfl
@[simp] theorem State.setLife_wins (x : LifeSt) : (s.setLife x).wins = s.wins := rfl
@[simp] theorem State.setLife_capt (x : LifeSt) : (s.setLife x).capt = s.capt := rfl
@[simp] theorem State.setLife_locks (x : LifeSt) : (s.setLife x).locks = s.locks := rfl
@[simp] theorem State.setLife_accBase (x : LifeSt) : (s.setLife x).accBase = s.accBase := rfl
@[simp] theorem State.setLife_seqs (x : LifeSt) : (s.setLife x).seqs = s.seqs := rfl
@[simp] theorem State.setLife_cells (x : LifeSt) : (s.setLife x).cells = s.cells := rfl
@[simp] theorem State.setLife_lanes (x : LifeSt) : (s.setLife x).lanes = s.lanes := rfl
@[simp] theorem State.setLife_combs (x : LifeSt) : (s.setLife x).combs = s.combs := rfl
@[simp] theorem State.setLife_bank (x : LifeSt) : (s.setLife x).bank = s.bank := rfl
@[simp] theorem State.setLife_bankAct (x : LifeSt) : (s.setLife x).bankAct = s.bankAct := rfl
@[simp] theorem State.setLife_marks (x : LifeSt) : (s.setLife x).marks = s.marks := rfl
@[simp] theorem State.setLife_micro (x : LifeSt) : (s.setLife x).micro = s.micro := rfl
@[simp] theorem State.setLife_nano (x : LifeSt) : (s.setLife x).nano = s.nano := rfl
@[simp] theorem State.setLife_cache (x : LifeSt) : (s.setLife x).cache = s.cache := rfl
@[simp] theorem State.setLife_kern (x : LifeSt) : (s.setLife x).kern = s.kern := rfl
@[simp] theorem State.setLife_descs (x : LifeSt) : (s.setLife x).descs = s.descs := rfl
@[simp] theorem State.setLife_dec (x : LifeSt) : (s.setLife x).dec = s.dec := rfl
@[simp] theorem State.setLife_bias (x : LifeSt) : (s.setLife x).bias = s.bias := rfl
@[simp] theorem State.setLife_loads (x : LifeSt) : (s.setLife x).loads = s.loads := rfl
@[simp] theorem State.setLife_wag (x : LifeSt) : (s.setLife x).wag = s.wag := rfl
@[simp] theorem State.setLife_hbm (x : LifeSt) : (s.setLife x).hbm = s.hbm := rfl
@[simp] theorem State.setLife_poison (x : LifeSt) : (s.setLife x).poison = s.poison := rfl
@[simp] theorem State.setLife_flash (x : LifeSt) : (s.setLife x).flash = s.flash := rfl
@[simp] theorem State.setLife_mkrs (x : LifeSt) : (s.setLife x).mkrs = s.mkrs := rfl
@[simp] theorem State.setLife_stmp (x : LifeSt) : (s.setLife x).stmp = s.stmp := rfl
@[simp] theorem State.setLife_cd (x : LifeSt) : (s.setLife x).cd = s.cd := rfl
@[simp] theorem State.setLife_meas (x : LifeSt) : (s.setLife x).meas = s.meas := rfl
@[simp] theorem State.setLife_ports (x : LifeSt) : (s.setLife x).ports = s.ports := rfl
@[simp] theorem State.setLife_txns (x : LifeSt) : (s.setLife x).txns = s.txns := rfl
@[simp] theorem State.setLife_swm (x : LifeSt) : (s.setLife x).swm = s.swm := rfl
@[simp] theorem State.setLife_chain (x : LifeSt) : (s.setLife x).chain = s.chain := rfl
@[simp] theorem State.setLife_far (x : LifeSt) : (s.setLife x).far = s.far := rfl
@[simp] theorem State.setLife_memo (x : LifeSt) : (s.setLife x).memo = s.memo := rfl
@[simp] theorem State.setLife_life (x : LifeSt) : (s.setLife x).life = x := rfl
@[simp] theorem State.setLife_caps (x : LifeSt) : (s.setLife x).caps = s.caps := rfl
@[simp] theorem State.setLife_mons (x : LifeSt) : (s.setLife x).mons = s.mons := rfl
@[simp] theorem State.setLife_thm (x : LifeSt) : (s.setLife x).thm = s.thm := rfl
@[simp] theorem State.setLife_cal (x : LifeSt) : (s.setLife x).cal = s.cal := rfl
@[simp] theorem State.setLife_sec (x : LifeSt) : (s.setLife x).sec = s.sec := rfl
@[simp] theorem State.setLife_reqNo (x : LifeSt) : (s.setLife x).reqNo = s.reqNo := rfl
@[simp] theorem State.setLife_lastApply (x : LifeSt) : (s.setLife x).lastApply = s.lastApply := rfl
@[simp] theorem State.setLife_rd (x : LifeSt) (g : Fld) : (s.setLife x).rd g = s.rd g := rfl
@[simp] theorem State.setLife_ard (x : LifeSt) (g : Fld) : (s.setLife x).ard g = s.ard g := rfl
@[simp] theorem State.setLife_awake (x : LifeSt) : (s.setLife x).awake = s.awake := rfl
@[simp] theorem State.setLife_isAmber (x : LifeSt) : (s.setLife x).isAmber = s.isAmber := rfl
@[simp] theorem State.setLife_isGreen (x : LifeSt) : (s.setLife x).isGreen = s.isGreen := rfl
@[simp] theorem State.setLife_isSleep (x : LifeSt) : (s.setLife x).isSleep = s.isSleep := rfl
@[simp] theorem State.setLife_seq (x : LifeSt) (j : Nat) : (s.setLife x).seq j = s.seq j := rfl
@[simp] theorem State.setLife_cell (x : LifeSt) (j : Nat) : (s.setLife x).cell j = s.cell j := rfl
@[simp] theorem State.setLife_lane (x : LifeSt) (j : Nat) : (s.setLife x).lane j = s.lane j := rfl
@[simp] theorem State.setLife_comb (x : LifeSt) (j : Nat) : (s.setLife x).comb j = s.comb j := rfl
@[simp] theorem State.setLife_biasOut (x : LifeSt) (j : Nat) : (s.setLife x).biasOut j = s.biasOut j := rfl
@[simp] theorem State.setLife_grpLoads (x : LifeSt) (j : Nat) : (s.setLife x).grpLoads j = s.grpLoads j := rfl
@[simp] theorem State.setLife_mkr (x : LifeSt) (j : Nat) : (s.setLife x).mkr j = s.mkr j := rfl
@[simp] theorem State.setLife_stamp (x : LifeSt) (j : Nat) : (s.setLife x).stamp j = s.stamp j := rfl
@[simp] theorem State.setLife_unit (x : LifeSt) (j : Nat) : (s.setLife x).unit j = s.unit j := rfl
@[simp] theorem State.setLife_port (x : LifeSt) (j : Nat) : (s.setLife x).port j = s.port j := rfl
@[simp] theorem State.setLife_txn (x : LifeSt) (j : Nat) : (s.setLife x).txn j = s.txn j := rfl
@[simp] theorem State.setLife_mon (x : LifeSt) (j : Nat) : (s.setLife x).mon j = s.mon j := rfl
@[simp] theorem State.setLife_win (x : LifeSt) (j : Nat) : (s.setLife x).win j = s.win j := rfl
@[simp] theorem State.setLife_cap (x : LifeSt) (j : Nat) : (s.setLife x).cap j = s.cap j := rfl

/-! ### setCal -/

@[simp] theorem State.setCal_pending (x : CalSt) : (s.setCal x).pending = s.pending := rfl
@[simp] theorem State.setCal_free (x : CalSt) : (s.setCal x).free = s.free := rfl
@[simp] theorem State.setCal_dial (x : CalSt) : (s.setCal x).dial = s.dial := rfl
@[simp] theorem State.setCal_regs (x : CalSt) : (s.setCal x).regs = s.regs := rfl
@[simp] theorem State.setCal_act (x : CalSt) : (s.setCal x).act = s.act := rfl
@[simp] theorem State.setCal_svc (x : CalSt) : (s.setCal x).svc = s.svc := rfl
@[simp] theorem State.setCal_i3c (x : CalSt) : (s.setCal x).i3c = s.i3c := rfl
@[simp] theorem State.setCal_strobes (x : CalSt) : (s.setCal x).strobes = s.strobes := rfl
@[simp] theorem State.setCal_wins (x : CalSt) : (s.setCal x).wins = s.wins := rfl
@[simp] theorem State.setCal_capt (x : CalSt) : (s.setCal x).capt = s.capt := rfl
@[simp] theorem State.setCal_locks (x : CalSt) : (s.setCal x).locks = s.locks := rfl
@[simp] theorem State.setCal_accBase (x : CalSt) : (s.setCal x).accBase = s.accBase := rfl
@[simp] theorem State.setCal_seqs (x : CalSt) : (s.setCal x).seqs = s.seqs := rfl
@[simp] theorem State.setCal_cells (x : CalSt) : (s.setCal x).cells = s.cells := rfl
@[simp] theorem State.setCal_lanes (x : CalSt) : (s.setCal x).lanes = s.lanes := rfl
@[simp] theorem State.setCal_combs (x : CalSt) : (s.setCal x).combs = s.combs := rfl
@[simp] theorem State.setCal_bank (x : CalSt) : (s.setCal x).bank = s.bank := rfl
@[simp] theorem State.setCal_bankAct (x : CalSt) : (s.setCal x).bankAct = s.bankAct := rfl
@[simp] theorem State.setCal_marks (x : CalSt) : (s.setCal x).marks = s.marks := rfl
@[simp] theorem State.setCal_micro (x : CalSt) : (s.setCal x).micro = s.micro := rfl
@[simp] theorem State.setCal_nano (x : CalSt) : (s.setCal x).nano = s.nano := rfl
@[simp] theorem State.setCal_cache (x : CalSt) : (s.setCal x).cache = s.cache := rfl
@[simp] theorem State.setCal_kern (x : CalSt) : (s.setCal x).kern = s.kern := rfl
@[simp] theorem State.setCal_descs (x : CalSt) : (s.setCal x).descs = s.descs := rfl
@[simp] theorem State.setCal_dec (x : CalSt) : (s.setCal x).dec = s.dec := rfl
@[simp] theorem State.setCal_bias (x : CalSt) : (s.setCal x).bias = s.bias := rfl
@[simp] theorem State.setCal_loads (x : CalSt) : (s.setCal x).loads = s.loads := rfl
@[simp] theorem State.setCal_wag (x : CalSt) : (s.setCal x).wag = s.wag := rfl
@[simp] theorem State.setCal_hbm (x : CalSt) : (s.setCal x).hbm = s.hbm := rfl
@[simp] theorem State.setCal_poison (x : CalSt) : (s.setCal x).poison = s.poison := rfl
@[simp] theorem State.setCal_flash (x : CalSt) : (s.setCal x).flash = s.flash := rfl
@[simp] theorem State.setCal_mkrs (x : CalSt) : (s.setCal x).mkrs = s.mkrs := rfl
@[simp] theorem State.setCal_stmp (x : CalSt) : (s.setCal x).stmp = s.stmp := rfl
@[simp] theorem State.setCal_cd (x : CalSt) : (s.setCal x).cd = s.cd := rfl
@[simp] theorem State.setCal_meas (x : CalSt) : (s.setCal x).meas = s.meas := rfl
@[simp] theorem State.setCal_ports (x : CalSt) : (s.setCal x).ports = s.ports := rfl
@[simp] theorem State.setCal_txns (x : CalSt) : (s.setCal x).txns = s.txns := rfl
@[simp] theorem State.setCal_swm (x : CalSt) : (s.setCal x).swm = s.swm := rfl
@[simp] theorem State.setCal_chain (x : CalSt) : (s.setCal x).chain = s.chain := rfl
@[simp] theorem State.setCal_far (x : CalSt) : (s.setCal x).far = s.far := rfl
@[simp] theorem State.setCal_memo (x : CalSt) : (s.setCal x).memo = s.memo := rfl
@[simp] theorem State.setCal_life (x : CalSt) : (s.setCal x).life = s.life := rfl
@[simp] theorem State.setCal_caps (x : CalSt) : (s.setCal x).caps = s.caps := rfl
@[simp] theorem State.setCal_mons (x : CalSt) : (s.setCal x).mons = s.mons := rfl
@[simp] theorem State.setCal_thm (x : CalSt) : (s.setCal x).thm = s.thm := rfl
@[simp] theorem State.setCal_cal (x : CalSt) : (s.setCal x).cal = x := rfl
@[simp] theorem State.setCal_sec (x : CalSt) : (s.setCal x).sec = s.sec := rfl
@[simp] theorem State.setCal_reqNo (x : CalSt) : (s.setCal x).reqNo = s.reqNo := rfl
@[simp] theorem State.setCal_lastApply (x : CalSt) : (s.setCal x).lastApply = s.lastApply := rfl
@[simp] theorem State.setCal_rd (x : CalSt) (g : Fld) : (s.setCal x).rd g = s.rd g := rfl
@[simp] theorem State.setCal_ard (x : CalSt) (g : Fld) : (s.setCal x).ard g = s.ard g := rfl
@[simp] theorem State.setCal_awake (x : CalSt) : (s.setCal x).awake = s.awake := rfl
@[simp] theorem State.setCal_isAmber (x : CalSt) : (s.setCal x).isAmber = s.isAmber := rfl
@[simp] theorem State.setCal_isGreen (x : CalSt) : (s.setCal x).isGreen = s.isGreen := rfl
@[simp] theorem State.setCal_isSleep (x : CalSt) : (s.setCal x).isSleep = s.isSleep := rfl
@[simp] theorem State.setCal_seq (x : CalSt) (j : Nat) : (s.setCal x).seq j = s.seq j := rfl
@[simp] theorem State.setCal_cell (x : CalSt) (j : Nat) : (s.setCal x).cell j = s.cell j := rfl
@[simp] theorem State.setCal_lane (x : CalSt) (j : Nat) : (s.setCal x).lane j = s.lane j := rfl
@[simp] theorem State.setCal_comb (x : CalSt) (j : Nat) : (s.setCal x).comb j = s.comb j := rfl
@[simp] theorem State.setCal_biasOut (x : CalSt) (j : Nat) : (s.setCal x).biasOut j = s.biasOut j := rfl
@[simp] theorem State.setCal_grpLoads (x : CalSt) (j : Nat) : (s.setCal x).grpLoads j = s.grpLoads j := rfl
@[simp] theorem State.setCal_mkr (x : CalSt) (j : Nat) : (s.setCal x).mkr j = s.mkr j := rfl
@[simp] theorem State.setCal_stamp (x : CalSt) (j : Nat) : (s.setCal x).stamp j = s.stamp j := rfl
@[simp] theorem State.setCal_unit (x : CalSt) (j : Nat) : (s.setCal x).unit j = s.unit j := rfl
@[simp] theorem State.setCal_port (x : CalSt) (j : Nat) : (s.setCal x).port j = s.port j := rfl
@[simp] theorem State.setCal_txn (x : CalSt) (j : Nat) : (s.setCal x).txn j = s.txn j := rfl
@[simp] theorem State.setCal_mon (x : CalSt) (j : Nat) : (s.setCal x).mon j = s.mon j := rfl
@[simp] theorem State.setCal_win (x : CalSt) (j : Nat) : (s.setCal x).win j = s.win j := rfl
@[simp] theorem State.setCal_cap (x : CalSt) (j : Nat) : (s.setCal x).cap j = s.cap j := rfl

/-! ### setThm -/

@[simp] theorem State.setThm_pending (x : ThmSt) : (s.setThm x).pending = s.pending := rfl
@[simp] theorem State.setThm_free (x : ThmSt) : (s.setThm x).free = s.free := rfl
@[simp] theorem State.setThm_dial (x : ThmSt) : (s.setThm x).dial = s.dial := rfl
@[simp] theorem State.setThm_regs (x : ThmSt) : (s.setThm x).regs = s.regs := rfl
@[simp] theorem State.setThm_act (x : ThmSt) : (s.setThm x).act = s.act := rfl
@[simp] theorem State.setThm_svc (x : ThmSt) : (s.setThm x).svc = s.svc := rfl
@[simp] theorem State.setThm_i3c (x : ThmSt) : (s.setThm x).i3c = s.i3c := rfl
@[simp] theorem State.setThm_strobes (x : ThmSt) : (s.setThm x).strobes = s.strobes := rfl
@[simp] theorem State.setThm_wins (x : ThmSt) : (s.setThm x).wins = s.wins := rfl
@[simp] theorem State.setThm_capt (x : ThmSt) : (s.setThm x).capt = s.capt := rfl
@[simp] theorem State.setThm_locks (x : ThmSt) : (s.setThm x).locks = s.locks := rfl
@[simp] theorem State.setThm_accBase (x : ThmSt) : (s.setThm x).accBase = s.accBase := rfl
@[simp] theorem State.setThm_seqs (x : ThmSt) : (s.setThm x).seqs = s.seqs := rfl
@[simp] theorem State.setThm_cells (x : ThmSt) : (s.setThm x).cells = s.cells := rfl
@[simp] theorem State.setThm_lanes (x : ThmSt) : (s.setThm x).lanes = s.lanes := rfl
@[simp] theorem State.setThm_combs (x : ThmSt) : (s.setThm x).combs = s.combs := rfl
@[simp] theorem State.setThm_bank (x : ThmSt) : (s.setThm x).bank = s.bank := rfl
@[simp] theorem State.setThm_bankAct (x : ThmSt) : (s.setThm x).bankAct = s.bankAct := rfl
@[simp] theorem State.setThm_marks (x : ThmSt) : (s.setThm x).marks = s.marks := rfl
@[simp] theorem State.setThm_micro (x : ThmSt) : (s.setThm x).micro = s.micro := rfl
@[simp] theorem State.setThm_nano (x : ThmSt) : (s.setThm x).nano = s.nano := rfl
@[simp] theorem State.setThm_cache (x : ThmSt) : (s.setThm x).cache = s.cache := rfl
@[simp] theorem State.setThm_kern (x : ThmSt) : (s.setThm x).kern = s.kern := rfl
@[simp] theorem State.setThm_descs (x : ThmSt) : (s.setThm x).descs = s.descs := rfl
@[simp] theorem State.setThm_dec (x : ThmSt) : (s.setThm x).dec = s.dec := rfl
@[simp] theorem State.setThm_bias (x : ThmSt) : (s.setThm x).bias = s.bias := rfl
@[simp] theorem State.setThm_loads (x : ThmSt) : (s.setThm x).loads = s.loads := rfl
@[simp] theorem State.setThm_wag (x : ThmSt) : (s.setThm x).wag = s.wag := rfl
@[simp] theorem State.setThm_hbm (x : ThmSt) : (s.setThm x).hbm = s.hbm := rfl
@[simp] theorem State.setThm_poison (x : ThmSt) : (s.setThm x).poison = s.poison := rfl
@[simp] theorem State.setThm_flash (x : ThmSt) : (s.setThm x).flash = s.flash := rfl
@[simp] theorem State.setThm_mkrs (x : ThmSt) : (s.setThm x).mkrs = s.mkrs := rfl
@[simp] theorem State.setThm_stmp (x : ThmSt) : (s.setThm x).stmp = s.stmp := rfl
@[simp] theorem State.setThm_cd (x : ThmSt) : (s.setThm x).cd = s.cd := rfl
@[simp] theorem State.setThm_meas (x : ThmSt) : (s.setThm x).meas = s.meas := rfl
@[simp] theorem State.setThm_ports (x : ThmSt) : (s.setThm x).ports = s.ports := rfl
@[simp] theorem State.setThm_txns (x : ThmSt) : (s.setThm x).txns = s.txns := rfl
@[simp] theorem State.setThm_swm (x : ThmSt) : (s.setThm x).swm = s.swm := rfl
@[simp] theorem State.setThm_chain (x : ThmSt) : (s.setThm x).chain = s.chain := rfl
@[simp] theorem State.setThm_far (x : ThmSt) : (s.setThm x).far = s.far := rfl
@[simp] theorem State.setThm_memo (x : ThmSt) : (s.setThm x).memo = s.memo := rfl
@[simp] theorem State.setThm_life (x : ThmSt) : (s.setThm x).life = s.life := rfl
@[simp] theorem State.setThm_caps (x : ThmSt) : (s.setThm x).caps = s.caps := rfl
@[simp] theorem State.setThm_mons (x : ThmSt) : (s.setThm x).mons = s.mons := rfl
@[simp] theorem State.setThm_thm (x : ThmSt) : (s.setThm x).thm = x := rfl
@[simp] theorem State.setThm_cal (x : ThmSt) : (s.setThm x).cal = s.cal := rfl
@[simp] theorem State.setThm_sec (x : ThmSt) : (s.setThm x).sec = s.sec := rfl
@[simp] theorem State.setThm_reqNo (x : ThmSt) : (s.setThm x).reqNo = s.reqNo := rfl
@[simp] theorem State.setThm_lastApply (x : ThmSt) : (s.setThm x).lastApply = s.lastApply := rfl
@[simp] theorem State.setThm_rd (x : ThmSt) (g : Fld) : (s.setThm x).rd g = s.rd g := rfl
@[simp] theorem State.setThm_ard (x : ThmSt) (g : Fld) : (s.setThm x).ard g = s.ard g := rfl
@[simp] theorem State.setThm_awake (x : ThmSt) : (s.setThm x).awake = s.awake := rfl
@[simp] theorem State.setThm_isAmber (x : ThmSt) : (s.setThm x).isAmber = s.isAmber := rfl
@[simp] theorem State.setThm_isGreen (x : ThmSt) : (s.setThm x).isGreen = s.isGreen := rfl
@[simp] theorem State.setThm_isSleep (x : ThmSt) : (s.setThm x).isSleep = s.isSleep := rfl
@[simp] theorem State.setThm_seq (x : ThmSt) (j : Nat) : (s.setThm x).seq j = s.seq j := rfl
@[simp] theorem State.setThm_cell (x : ThmSt) (j : Nat) : (s.setThm x).cell j = s.cell j := rfl
@[simp] theorem State.setThm_lane (x : ThmSt) (j : Nat) : (s.setThm x).lane j = s.lane j := rfl
@[simp] theorem State.setThm_comb (x : ThmSt) (j : Nat) : (s.setThm x).comb j = s.comb j := rfl
@[simp] theorem State.setThm_biasOut (x : ThmSt) (j : Nat) : (s.setThm x).biasOut j = s.biasOut j := rfl
@[simp] theorem State.setThm_grpLoads (x : ThmSt) (j : Nat) : (s.setThm x).grpLoads j = s.grpLoads j := rfl
@[simp] theorem State.setThm_mkr (x : ThmSt) (j : Nat) : (s.setThm x).mkr j = s.mkr j := rfl
@[simp] theorem State.setThm_stamp (x : ThmSt) (j : Nat) : (s.setThm x).stamp j = s.stamp j := rfl
@[simp] theorem State.setThm_unit (x : ThmSt) (j : Nat) : (s.setThm x).unit j = s.unit j := rfl
@[simp] theorem State.setThm_port (x : ThmSt) (j : Nat) : (s.setThm x).port j = s.port j := rfl
@[simp] theorem State.setThm_txn (x : ThmSt) (j : Nat) : (s.setThm x).txn j = s.txn j := rfl
@[simp] theorem State.setThm_mon (x : ThmSt) (j : Nat) : (s.setThm x).mon j = s.mon j := rfl
@[simp] theorem State.setThm_win (x : ThmSt) (j : Nat) : (s.setThm x).win j = s.win j := rfl
@[simp] theorem State.setThm_cap (x : ThmSt) (j : Nat) : (s.setThm x).cap j = s.cap j := rfl

/-! ### setSec -/

@[simp] theorem State.setSec_pending (x : SecSt) : (s.setSec x).pending = s.pending := rfl
@[simp] theorem State.setSec_free (x : SecSt) : (s.setSec x).free = s.free := rfl
@[simp] theorem State.setSec_dial (x : SecSt) : (s.setSec x).dial = s.dial := rfl
@[simp] theorem State.setSec_regs (x : SecSt) : (s.setSec x).regs = s.regs := rfl
@[simp] theorem State.setSec_act (x : SecSt) : (s.setSec x).act = s.act := rfl
@[simp] theorem State.setSec_svc (x : SecSt) : (s.setSec x).svc = s.svc := rfl
@[simp] theorem State.setSec_i3c (x : SecSt) : (s.setSec x).i3c = s.i3c := rfl
@[simp] theorem State.setSec_strobes (x : SecSt) : (s.setSec x).strobes = s.strobes := rfl
@[simp] theorem State.setSec_wins (x : SecSt) : (s.setSec x).wins = s.wins := rfl
@[simp] theorem State.setSec_capt (x : SecSt) : (s.setSec x).capt = s.capt := rfl
@[simp] theorem State.setSec_locks (x : SecSt) : (s.setSec x).locks = s.locks := rfl
@[simp] theorem State.setSec_accBase (x : SecSt) : (s.setSec x).accBase = s.accBase := rfl
@[simp] theorem State.setSec_seqs (x : SecSt) : (s.setSec x).seqs = s.seqs := rfl
@[simp] theorem State.setSec_cells (x : SecSt) : (s.setSec x).cells = s.cells := rfl
@[simp] theorem State.setSec_lanes (x : SecSt) : (s.setSec x).lanes = s.lanes := rfl
@[simp] theorem State.setSec_combs (x : SecSt) : (s.setSec x).combs = s.combs := rfl
@[simp] theorem State.setSec_bank (x : SecSt) : (s.setSec x).bank = s.bank := rfl
@[simp] theorem State.setSec_bankAct (x : SecSt) : (s.setSec x).bankAct = s.bankAct := rfl
@[simp] theorem State.setSec_marks (x : SecSt) : (s.setSec x).marks = s.marks := rfl
@[simp] theorem State.setSec_micro (x : SecSt) : (s.setSec x).micro = s.micro := rfl
@[simp] theorem State.setSec_nano (x : SecSt) : (s.setSec x).nano = s.nano := rfl
@[simp] theorem State.setSec_cache (x : SecSt) : (s.setSec x).cache = s.cache := rfl
@[simp] theorem State.setSec_kern (x : SecSt) : (s.setSec x).kern = s.kern := rfl
@[simp] theorem State.setSec_descs (x : SecSt) : (s.setSec x).descs = s.descs := rfl
@[simp] theorem State.setSec_dec (x : SecSt) : (s.setSec x).dec = s.dec := rfl
@[simp] theorem State.setSec_bias (x : SecSt) : (s.setSec x).bias = s.bias := rfl
@[simp] theorem State.setSec_loads (x : SecSt) : (s.setSec x).loads = s.loads := rfl
@[simp] theorem State.setSec_wag (x : SecSt) : (s.setSec x).wag = s.wag := rfl
@[simp] theorem State.setSec_hbm (x : SecSt) : (s.setSec x).hbm = s.hbm := rfl
@[simp] theorem State.setSec_poison (x : SecSt) : (s.setSec x).poison = s.poison := rfl
@[simp] theorem State.setSec_flash (x : SecSt) : (s.setSec x).flash = s.flash := rfl
@[simp] theorem State.setSec_mkrs (x : SecSt) : (s.setSec x).mkrs = s.mkrs := rfl
@[simp] theorem State.setSec_stmp (x : SecSt) : (s.setSec x).stmp = s.stmp := rfl
@[simp] theorem State.setSec_cd (x : SecSt) : (s.setSec x).cd = s.cd := rfl
@[simp] theorem State.setSec_meas (x : SecSt) : (s.setSec x).meas = s.meas := rfl
@[simp] theorem State.setSec_ports (x : SecSt) : (s.setSec x).ports = s.ports := rfl
@[simp] theorem State.setSec_txns (x : SecSt) : (s.setSec x).txns = s.txns := rfl
@[simp] theorem State.setSec_swm (x : SecSt) : (s.setSec x).swm = s.swm := rfl
@[simp] theorem State.setSec_chain (x : SecSt) : (s.setSec x).chain = s.chain := rfl
@[simp] theorem State.setSec_far (x : SecSt) : (s.setSec x).far = s.far := rfl
@[simp] theorem State.setSec_memo (x : SecSt) : (s.setSec x).memo = s.memo := rfl
@[simp] theorem State.setSec_life (x : SecSt) : (s.setSec x).life = s.life := rfl
@[simp] theorem State.setSec_caps (x : SecSt) : (s.setSec x).caps = s.caps := rfl
@[simp] theorem State.setSec_mons (x : SecSt) : (s.setSec x).mons = s.mons := rfl
@[simp] theorem State.setSec_thm (x : SecSt) : (s.setSec x).thm = s.thm := rfl
@[simp] theorem State.setSec_cal (x : SecSt) : (s.setSec x).cal = s.cal := rfl
@[simp] theorem State.setSec_sec (x : SecSt) : (s.setSec x).sec = x := rfl
@[simp] theorem State.setSec_reqNo (x : SecSt) : (s.setSec x).reqNo = s.reqNo := rfl
@[simp] theorem State.setSec_lastApply (x : SecSt) : (s.setSec x).lastApply = s.lastApply := rfl
@[simp] theorem State.setSec_rd (x : SecSt) (g : Fld) : (s.setSec x).rd g = s.rd g := rfl
@[simp] theorem State.setSec_ard (x : SecSt) (g : Fld) : (s.setSec x).ard g = s.ard g := rfl
@[simp] theorem State.setSec_awake (x : SecSt) : (s.setSec x).awake = s.awake := rfl
@[simp] theorem State.setSec_isAmber (x : SecSt) : (s.setSec x).isAmber = s.isAmber := rfl
@[simp] theorem State.setSec_isGreen (x : SecSt) : (s.setSec x).isGreen = s.isGreen := rfl
@[simp] theorem State.setSec_isSleep (x : SecSt) : (s.setSec x).isSleep = s.isSleep := rfl
@[simp] theorem State.setSec_seq (x : SecSt) (j : Nat) : (s.setSec x).seq j = s.seq j := rfl
@[simp] theorem State.setSec_cell (x : SecSt) (j : Nat) : (s.setSec x).cell j = s.cell j := rfl
@[simp] theorem State.setSec_lane (x : SecSt) (j : Nat) : (s.setSec x).lane j = s.lane j := rfl
@[simp] theorem State.setSec_comb (x : SecSt) (j : Nat) : (s.setSec x).comb j = s.comb j := rfl
@[simp] theorem State.setSec_biasOut (x : SecSt) (j : Nat) : (s.setSec x).biasOut j = s.biasOut j := rfl
@[simp] theorem State.setSec_grpLoads (x : SecSt) (j : Nat) : (s.setSec x).grpLoads j = s.grpLoads j := rfl
@[simp] theorem State.setSec_mkr (x : SecSt) (j : Nat) : (s.setSec x).mkr j = s.mkr j := rfl
@[simp] theorem State.setSec_stamp (x : SecSt) (j : Nat) : (s.setSec x).stamp j = s.stamp j := rfl
@[simp] theorem State.setSec_unit (x : SecSt) (j : Nat) : (s.setSec x).unit j = s.unit j := rfl
@[simp] theorem State.setSec_port (x : SecSt) (j : Nat) : (s.setSec x).port j = s.port j := rfl
@[simp] theorem State.setSec_txn (x : SecSt) (j : Nat) : (s.setSec x).txn j = s.txn j := rfl
@[simp] theorem State.setSec_mon (x : SecSt) (j : Nat) : (s.setSec x).mon j = s.mon j := rfl
@[simp] theorem State.setSec_win (x : SecSt) (j : Nat) : (s.setSec x).win j = s.win j := rfl
@[simp] theorem State.setSec_cap (x : SecSt) (j : Nat) : (s.setSec x).cap j = s.cap j := rfl

/-! ### setSwm -/

@[simp] theorem State.setSwm_pending (x : SwarmSt) : (s.setSwm x).pending = s.pending := rfl
@[simp] theorem State.setSwm_free (x : SwarmSt) : (s.setSwm x).free = s.free := rfl
@[simp] theorem State.setSwm_dial (x : SwarmSt) : (s.setSwm x).dial = s.dial := rfl
@[simp] theorem State.setSwm_regs (x : SwarmSt) : (s.setSwm x).regs = s.regs := rfl
@[simp] theorem State.setSwm_act (x : SwarmSt) : (s.setSwm x).act = s.act := rfl
@[simp] theorem State.setSwm_svc (x : SwarmSt) : (s.setSwm x).svc = s.svc := rfl
@[simp] theorem State.setSwm_i3c (x : SwarmSt) : (s.setSwm x).i3c = s.i3c := rfl
@[simp] theorem State.setSwm_strobes (x : SwarmSt) : (s.setSwm x).strobes = s.strobes := rfl
@[simp] theorem State.setSwm_wins (x : SwarmSt) : (s.setSwm x).wins = s.wins := rfl
@[simp] theorem State.setSwm_capt (x : SwarmSt) : (s.setSwm x).capt = s.capt := rfl
@[simp] theorem State.setSwm_locks (x : SwarmSt) : (s.setSwm x).locks = s.locks := rfl
@[simp] theorem State.setSwm_accBase (x : SwarmSt) : (s.setSwm x).accBase = s.accBase := rfl
@[simp] theorem State.setSwm_seqs (x : SwarmSt) : (s.setSwm x).seqs = s.seqs := rfl
@[simp] theorem State.setSwm_cells (x : SwarmSt) : (s.setSwm x).cells = s.cells := rfl
@[simp] theorem State.setSwm_lanes (x : SwarmSt) : (s.setSwm x).lanes = s.lanes := rfl
@[simp] theorem State.setSwm_combs (x : SwarmSt) : (s.setSwm x).combs = s.combs := rfl
@[simp] theorem State.setSwm_bank (x : SwarmSt) : (s.setSwm x).bank = s.bank := rfl
@[simp] theorem State.setSwm_bankAct (x : SwarmSt) : (s.setSwm x).bankAct = s.bankAct := rfl
@[simp] theorem State.setSwm_marks (x : SwarmSt) : (s.setSwm x).marks = s.marks := rfl
@[simp] theorem State.setSwm_micro (x : SwarmSt) : (s.setSwm x).micro = s.micro := rfl
@[simp] theorem State.setSwm_nano (x : SwarmSt) : (s.setSwm x).nano = s.nano := rfl
@[simp] theorem State.setSwm_cache (x : SwarmSt) : (s.setSwm x).cache = s.cache := rfl
@[simp] theorem State.setSwm_kern (x : SwarmSt) : (s.setSwm x).kern = s.kern := rfl
@[simp] theorem State.setSwm_descs (x : SwarmSt) : (s.setSwm x).descs = s.descs := rfl
@[simp] theorem State.setSwm_dec (x : SwarmSt) : (s.setSwm x).dec = s.dec := rfl
@[simp] theorem State.setSwm_bias (x : SwarmSt) : (s.setSwm x).bias = s.bias := rfl
@[simp] theorem State.setSwm_loads (x : SwarmSt) : (s.setSwm x).loads = s.loads := rfl
@[simp] theorem State.setSwm_wag (x : SwarmSt) : (s.setSwm x).wag = s.wag := rfl
@[simp] theorem State.setSwm_hbm (x : SwarmSt) : (s.setSwm x).hbm = s.hbm := rfl
@[simp] theorem State.setSwm_poison (x : SwarmSt) : (s.setSwm x).poison = s.poison := rfl
@[simp] theorem State.setSwm_flash (x : SwarmSt) : (s.setSwm x).flash = s.flash := rfl
@[simp] theorem State.setSwm_mkrs (x : SwarmSt) : (s.setSwm x).mkrs = s.mkrs := rfl
@[simp] theorem State.setSwm_stmp (x : SwarmSt) : (s.setSwm x).stmp = s.stmp := rfl
@[simp] theorem State.setSwm_cd (x : SwarmSt) : (s.setSwm x).cd = s.cd := rfl
@[simp] theorem State.setSwm_meas (x : SwarmSt) : (s.setSwm x).meas = s.meas := rfl
@[simp] theorem State.setSwm_ports (x : SwarmSt) : (s.setSwm x).ports = s.ports := rfl
@[simp] theorem State.setSwm_txns (x : SwarmSt) : (s.setSwm x).txns = s.txns := rfl
@[simp] theorem State.setSwm_swm (x : SwarmSt) : (s.setSwm x).swm = x := rfl
@[simp] theorem State.setSwm_chain (x : SwarmSt) : (s.setSwm x).chain = s.chain := rfl
@[simp] theorem State.setSwm_far (x : SwarmSt) : (s.setSwm x).far = s.far := rfl
@[simp] theorem State.setSwm_memo (x : SwarmSt) : (s.setSwm x).memo = s.memo := rfl
@[simp] theorem State.setSwm_life (x : SwarmSt) : (s.setSwm x).life = s.life := rfl
@[simp] theorem State.setSwm_caps (x : SwarmSt) : (s.setSwm x).caps = s.caps := rfl
@[simp] theorem State.setSwm_mons (x : SwarmSt) : (s.setSwm x).mons = s.mons := rfl
@[simp] theorem State.setSwm_thm (x : SwarmSt) : (s.setSwm x).thm = s.thm := rfl
@[simp] theorem State.setSwm_cal (x : SwarmSt) : (s.setSwm x).cal = s.cal := rfl
@[simp] theorem State.setSwm_sec (x : SwarmSt) : (s.setSwm x).sec = s.sec := rfl
@[simp] theorem State.setSwm_reqNo (x : SwarmSt) : (s.setSwm x).reqNo = s.reqNo := rfl
@[simp] theorem State.setSwm_lastApply (x : SwarmSt) : (s.setSwm x).lastApply = s.lastApply := rfl
@[simp] theorem State.setSwm_rd (x : SwarmSt) (g : Fld) : (s.setSwm x).rd g = s.rd g := rfl
@[simp] theorem State.setSwm_ard (x : SwarmSt) (g : Fld) : (s.setSwm x).ard g = s.ard g := rfl
@[simp] theorem State.setSwm_awake (x : SwarmSt) : (s.setSwm x).awake = s.awake := rfl
@[simp] theorem State.setSwm_isAmber (x : SwarmSt) : (s.setSwm x).isAmber = s.isAmber := rfl
@[simp] theorem State.setSwm_isGreen (x : SwarmSt) : (s.setSwm x).isGreen = s.isGreen := rfl
@[simp] theorem State.setSwm_isSleep (x : SwarmSt) : (s.setSwm x).isSleep = s.isSleep := rfl
@[simp] theorem State.setSwm_seq (x : SwarmSt) (j : Nat) : (s.setSwm x).seq j = s.seq j := rfl
@[simp] theorem State.setSwm_cell (x : SwarmSt) (j : Nat) : (s.setSwm x).cell j = s.cell j := rfl
@[simp] theorem State.setSwm_lane (x : SwarmSt) (j : Nat) : (s.setSwm x).lane j = s.lane j := rfl
@[simp] theorem State.setSwm_comb (x : SwarmSt) (j : Nat) : (s.setSwm x).comb j = s.comb j := rfl
@[simp] theorem State.setSwm_biasOut (x : SwarmSt) (j : Nat) : (s.setSwm x).biasOut j = s.biasOut j := rfl
@[simp] theorem State.setSwm_grpLoads (x : SwarmSt) (j : Nat) : (s.setSwm x).grpLoads j = s.grpLoads j := rfl
@[simp] theorem State.setSwm_mkr (x : SwarmSt) (j : Nat) : (s.setSwm x).mkr j = s.mkr j := rfl
@[simp] theorem State.setSwm_stamp (x : SwarmSt) (j : Nat) : (s.setSwm x).stamp j = s.stamp j := rfl
@[simp] theorem State.setSwm_unit (x : SwarmSt) (j : Nat) : (s.setSwm x).unit j = s.unit j := rfl
@[simp] theorem State.setSwm_port (x : SwarmSt) (j : Nat) : (s.setSwm x).port j = s.port j := rfl
@[simp] theorem State.setSwm_txn (x : SwarmSt) (j : Nat) : (s.setSwm x).txn j = s.txn j := rfl
@[simp] theorem State.setSwm_mon (x : SwarmSt) (j : Nat) : (s.setSwm x).mon j = s.mon j := rfl
@[simp] theorem State.setSwm_win (x : SwarmSt) (j : Nat) : (s.setSwm x).win j = s.win j := rfl
@[simp] theorem State.setSwm_cap (x : SwarmSt) (j : Nat) : (s.setSwm x).cap j = s.cap j := rfl

/-! ### setWag -/

@[simp] theorem State.setWag_pending (x : WagSt) : (s.setWag x).pending = s.pending := rfl
@[simp] theorem State.setWag_free (x : WagSt) : (s.setWag x).free = s.free := rfl
@[simp] theorem State.setWag_dial (x : WagSt) : (s.setWag x).dial = s.dial := rfl
@[simp] theorem State.setWag_regs (x : WagSt) : (s.setWag x).regs = s.regs := rfl
@[simp] theorem State.setWag_act (x : WagSt) : (s.setWag x).act = s.act := rfl
@[simp] theorem State.setWag_svc (x : WagSt) : (s.setWag x).svc = s.svc := rfl
@[simp] theorem State.setWag_i3c (x : WagSt) : (s.setWag x).i3c = s.i3c := rfl
@[simp] theorem State.setWag_strobes (x : WagSt) : (s.setWag x).strobes = s.strobes := rfl
@[simp] theorem State.setWag_wins (x : WagSt) : (s.setWag x).wins = s.wins := rfl
@[simp] theorem State.setWag_capt (x : WagSt) : (s.setWag x).capt = s.capt := rfl
@[simp] theorem State.setWag_locks (x : WagSt) : (s.setWag x).locks = s.locks := rfl
@[simp] theorem State.setWag_accBase (x : WagSt) : (s.setWag x).accBase = s.accBase := rfl
@[simp] theorem State.setWag_seqs (x : WagSt) : (s.setWag x).seqs = s.seqs := rfl
@[simp] theorem State.setWag_cells (x : WagSt) : (s.setWag x).cells = s.cells := rfl
@[simp] theorem State.setWag_lanes (x : WagSt) : (s.setWag x).lanes = s.lanes := rfl
@[simp] theorem State.setWag_combs (x : WagSt) : (s.setWag x).combs = s.combs := rfl
@[simp] theorem State.setWag_bank (x : WagSt) : (s.setWag x).bank = s.bank := rfl
@[simp] theorem State.setWag_bankAct (x : WagSt) : (s.setWag x).bankAct = s.bankAct := rfl
@[simp] theorem State.setWag_marks (x : WagSt) : (s.setWag x).marks = s.marks := rfl
@[simp] theorem State.setWag_micro (x : WagSt) : (s.setWag x).micro = s.micro := rfl
@[simp] theorem State.setWag_nano (x : WagSt) : (s.setWag x).nano = s.nano := rfl
@[simp] theorem State.setWag_cache (x : WagSt) : (s.setWag x).cache = s.cache := rfl
@[simp] theorem State.setWag_kern (x : WagSt) : (s.setWag x).kern = s.kern := rfl
@[simp] theorem State.setWag_descs (x : WagSt) : (s.setWag x).descs = s.descs := rfl
@[simp] theorem State.setWag_dec (x : WagSt) : (s.setWag x).dec = s.dec := rfl
@[simp] theorem State.setWag_bias (x : WagSt) : (s.setWag x).bias = s.bias := rfl
@[simp] theorem State.setWag_loads (x : WagSt) : (s.setWag x).loads = s.loads := rfl
@[simp] theorem State.setWag_wag (x : WagSt) : (s.setWag x).wag = x := rfl
@[simp] theorem State.setWag_hbm (x : WagSt) : (s.setWag x).hbm = s.hbm := rfl
@[simp] theorem State.setWag_poison (x : WagSt) : (s.setWag x).poison = s.poison := rfl
@[simp] theorem State.setWag_flash (x : WagSt) : (s.setWag x).flash = s.flash := rfl
@[simp] theorem State.setWag_mkrs (x : WagSt) : (s.setWag x).mkrs = s.mkrs := rfl
@[simp] theorem State.setWag_stmp (x : WagSt) : (s.setWag x).stmp = s.stmp := rfl
@[simp] theorem State.setWag_cd (x : WagSt) : (s.setWag x).cd = s.cd := rfl
@[simp] theorem State.setWag_meas (x : WagSt) : (s.setWag x).meas = s.meas := rfl
@[simp] theorem State.setWag_ports (x : WagSt) : (s.setWag x).ports = s.ports := rfl
@[simp] theorem State.setWag_txns (x : WagSt) : (s.setWag x).txns = s.txns := rfl
@[simp] theorem State.setWag_swm (x : WagSt) : (s.setWag x).swm = s.swm := rfl
@[simp] theorem State.setWag_chain (x : WagSt) : (s.setWag x).chain = s.chain := rfl
@[simp] theorem State.setWag_far (x : WagSt) : (s.setWag x).far = s.far := rfl
@[simp] theorem State.setWag_memo (x : WagSt) : (s.setWag x).memo = s.memo := rfl
@[simp] theorem State.setWag_life (x : WagSt) : (s.setWag x).life = s.life := rfl
@[simp] theorem State.setWag_caps (x : WagSt) : (s.setWag x).caps = s.caps := rfl
@[simp] theorem State.setWag_mons (x : WagSt) : (s.setWag x).mons = s.mons := rfl
@[simp] theorem State.setWag_thm (x : WagSt) : (s.setWag x).thm = s.thm := rfl
@[simp] theorem State.setWag_cal (x : WagSt) : (s.setWag x).cal = s.cal := rfl
@[simp] theorem State.setWag_sec (x : WagSt) : (s.setWag x).sec = s.sec := rfl
@[simp] theorem State.setWag_reqNo (x : WagSt) : (s.setWag x).reqNo = s.reqNo := rfl
@[simp] theorem State.setWag_lastApply (x : WagSt) : (s.setWag x).lastApply = s.lastApply := rfl
@[simp] theorem State.setWag_rd (x : WagSt) (g : Fld) : (s.setWag x).rd g = s.rd g := rfl
@[simp] theorem State.setWag_ard (x : WagSt) (g : Fld) : (s.setWag x).ard g = s.ard g := rfl
@[simp] theorem State.setWag_awake (x : WagSt) : (s.setWag x).awake = s.awake := rfl
@[simp] theorem State.setWag_isAmber (x : WagSt) : (s.setWag x).isAmber = s.isAmber := rfl
@[simp] theorem State.setWag_isGreen (x : WagSt) : (s.setWag x).isGreen = s.isGreen := rfl
@[simp] theorem State.setWag_isSleep (x : WagSt) : (s.setWag x).isSleep = s.isSleep := rfl
@[simp] theorem State.setWag_seq (x : WagSt) (j : Nat) : (s.setWag x).seq j = s.seq j := rfl
@[simp] theorem State.setWag_cell (x : WagSt) (j : Nat) : (s.setWag x).cell j = s.cell j := rfl
@[simp] theorem State.setWag_lane (x : WagSt) (j : Nat) : (s.setWag x).lane j = s.lane j := rfl
@[simp] theorem State.setWag_comb (x : WagSt) (j : Nat) : (s.setWag x).comb j = s.comb j := rfl
@[simp] theorem State.setWag_biasOut (x : WagSt) (j : Nat) : (s.setWag x).biasOut j = s.biasOut j := rfl
@[simp] theorem State.setWag_grpLoads (x : WagSt) (j : Nat) : (s.setWag x).grpLoads j = s.grpLoads j := rfl
@[simp] theorem State.setWag_mkr (x : WagSt) (j : Nat) : (s.setWag x).mkr j = s.mkr j := rfl
@[simp] theorem State.setWag_stamp (x : WagSt) (j : Nat) : (s.setWag x).stamp j = s.stamp j := rfl
@[simp] theorem State.setWag_unit (x : WagSt) (j : Nat) : (s.setWag x).unit j = s.unit j := rfl
@[simp] theorem State.setWag_port (x : WagSt) (j : Nat) : (s.setWag x).port j = s.port j := rfl
@[simp] theorem State.setWag_txn (x : WagSt) (j : Nat) : (s.setWag x).txn j = s.txn j := rfl
@[simp] theorem State.setWag_mon (x : WagSt) (j : Nat) : (s.setWag x).mon j = s.mon j := rfl
@[simp] theorem State.setWag_win (x : WagSt) (j : Nat) : (s.setWag x).win j = s.win j := rfl
@[simp] theorem State.setWag_cap (x : WagSt) (j : Nat) : (s.setWag x).cap j = s.cap j := rfl

/-! ### setHbmByte -/

@[simp] theorem State.setHbmByte_pending (a : Nat) (v : Byte) : (s.setHbmByte a v).pending = s.pending := rfl
@[simp] theorem State.setHbmByte_free (a : Nat) (v : Byte) : (s.setHbmByte a v).free = s.free := rfl
@[simp] theorem State.setHbmByte_dial (a : Nat) (v : Byte) : (s.setHbmByte a v).dial = s.dial := rfl
@[simp] theorem State.setHbmByte_regs (a : Nat) (v : Byte) : (s.setHbmByte a v).regs = s.regs := rfl
@[simp] theorem State.setHbmByte_act (a : Nat) (v : Byte) : (s.setHbmByte a v).act = s.act := rfl
@[simp] theorem State.setHbmByte_svc (a : Nat) (v : Byte) : (s.setHbmByte a v).svc = s.svc := rfl
@[simp] theorem State.setHbmByte_i3c (a : Nat) (v : Byte) : (s.setHbmByte a v).i3c = s.i3c := rfl
@[simp] theorem State.setHbmByte_strobes (a : Nat) (v : Byte) : (s.setHbmByte a v).strobes = s.strobes := rfl
@[simp] theorem State.setHbmByte_wins (a : Nat) (v : Byte) : (s.setHbmByte a v).wins = s.wins := rfl
@[simp] theorem State.setHbmByte_capt (a : Nat) (v : Byte) : (s.setHbmByte a v).capt = s.capt := rfl
@[simp] theorem State.setHbmByte_locks (a : Nat) (v : Byte) : (s.setHbmByte a v).locks = s.locks := rfl
@[simp] theorem State.setHbmByte_accBase (a : Nat) (v : Byte) : (s.setHbmByte a v).accBase = s.accBase := rfl
@[simp] theorem State.setHbmByte_seqs (a : Nat) (v : Byte) : (s.setHbmByte a v).seqs = s.seqs := rfl
@[simp] theorem State.setHbmByte_cells (a : Nat) (v : Byte) : (s.setHbmByte a v).cells = s.cells := rfl
@[simp] theorem State.setHbmByte_lanes (a : Nat) (v : Byte) : (s.setHbmByte a v).lanes = s.lanes := rfl
@[simp] theorem State.setHbmByte_combs (a : Nat) (v : Byte) : (s.setHbmByte a v).combs = s.combs := rfl
@[simp] theorem State.setHbmByte_bank (a : Nat) (v : Byte) : (s.setHbmByte a v).bank = s.bank := rfl
@[simp] theorem State.setHbmByte_bankAct (a : Nat) (v : Byte) : (s.setHbmByte a v).bankAct = s.bankAct := rfl
@[simp] theorem State.setHbmByte_marks (a : Nat) (v : Byte) : (s.setHbmByte a v).marks = s.marks := rfl
@[simp] theorem State.setHbmByte_micro (a : Nat) (v : Byte) : (s.setHbmByte a v).micro = s.micro := rfl
@[simp] theorem State.setHbmByte_nano (a : Nat) (v : Byte) : (s.setHbmByte a v).nano = s.nano := rfl
@[simp] theorem State.setHbmByte_cache (a : Nat) (v : Byte) : (s.setHbmByte a v).cache = s.cache := rfl
@[simp] theorem State.setHbmByte_kern (a : Nat) (v : Byte) : (s.setHbmByte a v).kern = s.kern := rfl
@[simp] theorem State.setHbmByte_descs (a : Nat) (v : Byte) : (s.setHbmByte a v).descs = s.descs := rfl
@[simp] theorem State.setHbmByte_dec (a : Nat) (v : Byte) : (s.setHbmByte a v).dec = s.dec := rfl
@[simp] theorem State.setHbmByte_bias (a : Nat) (v : Byte) : (s.setHbmByte a v).bias = s.bias := rfl
@[simp] theorem State.setHbmByte_loads (a : Nat) (v : Byte) : (s.setHbmByte a v).loads = s.loads := rfl
@[simp] theorem State.setHbmByte_wag (a : Nat) (v : Byte) : (s.setHbmByte a v).wag = s.wag := rfl
@[simp] theorem State.setHbmByte_poison (a : Nat) (v : Byte) : (s.setHbmByte a v).poison = s.poison := rfl
@[simp] theorem State.setHbmByte_flash (a : Nat) (v : Byte) : (s.setHbmByte a v).flash = s.flash := rfl
@[simp] theorem State.setHbmByte_mkrs (a : Nat) (v : Byte) : (s.setHbmByte a v).mkrs = s.mkrs := rfl
@[simp] theorem State.setHbmByte_stmp (a : Nat) (v : Byte) : (s.setHbmByte a v).stmp = s.stmp := rfl
@[simp] theorem State.setHbmByte_cd (a : Nat) (v : Byte) : (s.setHbmByte a v).cd = s.cd := rfl
@[simp] theorem State.setHbmByte_meas (a : Nat) (v : Byte) : (s.setHbmByte a v).meas = s.meas := rfl
@[simp] theorem State.setHbmByte_ports (a : Nat) (v : Byte) : (s.setHbmByte a v).ports = s.ports := rfl
@[simp] theorem State.setHbmByte_txns (a : Nat) (v : Byte) : (s.setHbmByte a v).txns = s.txns := rfl
@[simp] theorem State.setHbmByte_swm (a : Nat) (v : Byte) : (s.setHbmByte a v).swm = s.swm := rfl
@[simp] theorem State.setHbmByte_chain (a : Nat) (v : Byte) : (s.setHbmByte a v).chain = s.chain := rfl
@[simp] theorem State.setHbmByte_far (a : Nat) (v : Byte) : (s.setHbmByte a v).far = s.far := rfl
@[simp] theorem State.setHbmByte_memo (a : Nat) (v : Byte) : (s.setHbmByte a v).memo = s.memo := rfl
@[simp] theorem State.setHbmByte_life (a : Nat) (v : Byte) : (s.setHbmByte a v).life = s.life := rfl
@[simp] theorem State.setHbmByte_caps (a : Nat) (v : Byte) : (s.setHbmByte a v).caps = s.caps := rfl
@[simp] theorem State.setHbmByte_mons (a : Nat) (v : Byte) : (s.setHbmByte a v).mons = s.mons := rfl
@[simp] theorem State.setHbmByte_thm (a : Nat) (v : Byte) : (s.setHbmByte a v).thm = s.thm := rfl
@[simp] theorem State.setHbmByte_cal (a : Nat) (v : Byte) : (s.setHbmByte a v).cal = s.cal := rfl
@[simp] theorem State.setHbmByte_sec (a : Nat) (v : Byte) : (s.setHbmByte a v).sec = s.sec := rfl
@[simp] theorem State.setHbmByte_reqNo (a : Nat) (v : Byte) : (s.setHbmByte a v).reqNo = s.reqNo := rfl
@[simp] theorem State.setHbmByte_lastApply (a : Nat) (v : Byte) : (s.setHbmByte a v).lastApply = s.lastApply := rfl
@[simp] theorem State.setHbmByte_rd (a : Nat) (v : Byte) (g : Fld) : (s.setHbmByte a v).rd g = s.rd g := rfl
@[simp] theorem State.setHbmByte_ard (a : Nat) (v : Byte) (g : Fld) : (s.setHbmByte a v).ard g = s.ard g := rfl
@[simp] theorem State.setHbmByte_awake (a : Nat) (v : Byte) : (s.setHbmByte a v).awake = s.awake := rfl
@[simp] theorem State.setHbmByte_isAmber (a : Nat) (v : Byte) : (s.setHbmByte a v).isAmber = s.isAmber := rfl
@[simp] theorem State.setHbmByte_isGreen (a : Nat) (v : Byte) : (s.setHbmByte a v).isGreen = s.isGreen := rfl
@[simp] theorem State.setHbmByte_isSleep (a : Nat) (v : Byte) : (s.setHbmByte a v).isSleep = s.isSleep := rfl
@[simp] theorem State.setHbmByte_seq (a : Nat) (v : Byte) (j : Nat) : (s.setHbmByte a v).seq j = s.seq j := rfl
@[simp] theorem State.setHbmByte_cell (a : Nat) (v : Byte) (j : Nat) : (s.setHbmByte a v).cell j = s.cell j := rfl
@[simp] theorem State.setHbmByte_lane (a : Nat) (v : Byte) (j : Nat) : (s.setHbmByte a v).lane j = s.lane j := rfl
@[simp] theorem State.setHbmByte_comb (a : Nat) (v : Byte) (j : Nat) : (s.setHbmByte a v).comb j = s.comb j := rfl
@[simp] theorem State.setHbmByte_biasOut (a : Nat) (v : Byte) (j : Nat) : (s.setHbmByte a v).biasOut j = s.biasOut j := rfl
@[simp] theorem State.setHbmByte_grpLoads (a : Nat) (v : Byte) (j : Nat) : (s.setHbmByte a v).grpLoads j = s.grpLoads j := rfl
@[simp] theorem State.setHbmByte_mkr (a : Nat) (v : Byte) (j : Nat) : (s.setHbmByte a v).mkr j = s.mkr j := rfl
@[simp] theorem State.setHbmByte_stamp (a : Nat) (v : Byte) (j : Nat) : (s.setHbmByte a v).stamp j = s.stamp j := rfl
@[simp] theorem State.setHbmByte_unit (a : Nat) (v : Byte) (j : Nat) : (s.setHbmByte a v).unit j = s.unit j := rfl
@[simp] theorem State.setHbmByte_port (a : Nat) (v : Byte) (j : Nat) : (s.setHbmByte a v).port j = s.port j := rfl
@[simp] theorem State.setHbmByte_txn (a : Nat) (v : Byte) (j : Nat) : (s.setHbmByte a v).txn j = s.txn j := rfl
@[simp] theorem State.setHbmByte_mon (a : Nat) (v : Byte) (j : Nat) : (s.setHbmByte a v).mon j = s.mon j := rfl
@[simp] theorem State.setHbmByte_win (a : Nat) (v : Byte) (j : Nat) : (s.setHbmByte a v).win j = s.win j := rfl
@[simp] theorem State.setHbmByte_cap (a : Nat) (v : Byte) (j : Nat) : (s.setHbmByte a v).cap j = s.cap j := rfl

/-! ### setFlashByte -/

@[simp] theorem State.setFlashByte_pending (a : Nat) (v : Byte) : (s.setFlashByte a v).pending = s.pending := rfl
@[simp] theorem State.setFlashByte_free (a : Nat) (v : Byte) : (s.setFlashByte a v).free = s.free := rfl
@[simp] theorem State.setFlashByte_dial (a : Nat) (v : Byte) : (s.setFlashByte a v).dial = s.dial := rfl
@[simp] theorem State.setFlashByte_regs (a : Nat) (v : Byte) : (s.setFlashByte a v).regs = s.regs := rfl
@[simp] theorem State.setFlashByte_act (a : Nat) (v : Byte) : (s.setFlashByte a v).act = s.act := rfl
@[simp] theorem State.setFlashByte_svc (a : Nat) (v : Byte) : (s.setFlashByte a v).svc = s.svc := rfl
@[simp] theorem State.setFlashByte_i3c (a : Nat) (v : Byte) : (s.setFlashByte a v).i3c = s.i3c := rfl
@[simp] theorem State.setFlashByte_strobes (a : Nat) (v : Byte) : (s.setFlashByte a v).strobes = s.strobes := rfl
@[simp] theorem State.setFlashByte_wins (a : Nat) (v : Byte) : (s.setFlashByte a v).wins = s.wins := rfl
@[simp] theorem State.setFlashByte_capt (a : Nat) (v : Byte) : (s.setFlashByte a v).capt = s.capt := rfl
@[simp] theorem State.setFlashByte_locks (a : Nat) (v : Byte) : (s.setFlashByte a v).locks = s.locks := rfl
@[simp] theorem State.setFlashByte_accBase (a : Nat) (v : Byte) : (s.setFlashByte a v).accBase = s.accBase := rfl
@[simp] theorem State.setFlashByte_seqs (a : Nat) (v : Byte) : (s.setFlashByte a v).seqs = s.seqs := rfl
@[simp] theorem State.setFlashByte_cells (a : Nat) (v : Byte) : (s.setFlashByte a v).cells = s.cells := rfl
@[simp] theorem State.setFlashByte_lanes (a : Nat) (v : Byte) : (s.setFlashByte a v).lanes = s.lanes := rfl
@[simp] theorem State.setFlashByte_combs (a : Nat) (v : Byte) : (s.setFlashByte a v).combs = s.combs := rfl
@[simp] theorem State.setFlashByte_bank (a : Nat) (v : Byte) : (s.setFlashByte a v).bank = s.bank := rfl
@[simp] theorem State.setFlashByte_bankAct (a : Nat) (v : Byte) : (s.setFlashByte a v).bankAct = s.bankAct := rfl
@[simp] theorem State.setFlashByte_marks (a : Nat) (v : Byte) : (s.setFlashByte a v).marks = s.marks := rfl
@[simp] theorem State.setFlashByte_micro (a : Nat) (v : Byte) : (s.setFlashByte a v).micro = s.micro := rfl
@[simp] theorem State.setFlashByte_nano (a : Nat) (v : Byte) : (s.setFlashByte a v).nano = s.nano := rfl
@[simp] theorem State.setFlashByte_cache (a : Nat) (v : Byte) : (s.setFlashByte a v).cache = s.cache := rfl
@[simp] theorem State.setFlashByte_kern (a : Nat) (v : Byte) : (s.setFlashByte a v).kern = s.kern := rfl
@[simp] theorem State.setFlashByte_descs (a : Nat) (v : Byte) : (s.setFlashByte a v).descs = s.descs := rfl
@[simp] theorem State.setFlashByte_dec (a : Nat) (v : Byte) : (s.setFlashByte a v).dec = s.dec := rfl
@[simp] theorem State.setFlashByte_bias (a : Nat) (v : Byte) : (s.setFlashByte a v).bias = s.bias := rfl
@[simp] theorem State.setFlashByte_loads (a : Nat) (v : Byte) : (s.setFlashByte a v).loads = s.loads := rfl
@[simp] theorem State.setFlashByte_wag (a : Nat) (v : Byte) : (s.setFlashByte a v).wag = s.wag := rfl
@[simp] theorem State.setFlashByte_hbm (a : Nat) (v : Byte) : (s.setFlashByte a v).hbm = s.hbm := rfl
@[simp] theorem State.setFlashByte_poison (a : Nat) (v : Byte) : (s.setFlashByte a v).poison = s.poison := rfl
@[simp] theorem State.setFlashByte_mkrs (a : Nat) (v : Byte) : (s.setFlashByte a v).mkrs = s.mkrs := rfl
@[simp] theorem State.setFlashByte_stmp (a : Nat) (v : Byte) : (s.setFlashByte a v).stmp = s.stmp := rfl
@[simp] theorem State.setFlashByte_cd (a : Nat) (v : Byte) : (s.setFlashByte a v).cd = s.cd := rfl
@[simp] theorem State.setFlashByte_meas (a : Nat) (v : Byte) : (s.setFlashByte a v).meas = s.meas := rfl
@[simp] theorem State.setFlashByte_ports (a : Nat) (v : Byte) : (s.setFlashByte a v).ports = s.ports := rfl
@[simp] theorem State.setFlashByte_txns (a : Nat) (v : Byte) : (s.setFlashByte a v).txns = s.txns := rfl
@[simp] theorem State.setFlashByte_swm (a : Nat) (v : Byte) : (s.setFlashByte a v).swm = s.swm := rfl
@[simp] theorem State.setFlashByte_chain (a : Nat) (v : Byte) : (s.setFlashByte a v).chain = s.chain := rfl
@[simp] theorem State.setFlashByte_far (a : Nat) (v : Byte) : (s.setFlashByte a v).far = s.far := rfl
@[simp] theorem State.setFlashByte_memo (a : Nat) (v : Byte) : (s.setFlashByte a v).memo = s.memo := rfl
@[simp] theorem State.setFlashByte_life (a : Nat) (v : Byte) : (s.setFlashByte a v).life = s.life := rfl
@[simp] theorem State.setFlashByte_caps (a : Nat) (v : Byte) : (s.setFlashByte a v).caps = s.caps := rfl
@[simp] theorem State.setFlashByte_mons (a : Nat) (v : Byte) : (s.setFlashByte a v).mons = s.mons := rfl
@[simp] theorem State.setFlashByte_thm (a : Nat) (v : Byte) : (s.setFlashByte a v).thm = s.thm := rfl
@[simp] theorem State.setFlashByte_cal (a : Nat) (v : Byte) : (s.setFlashByte a v).cal = s.cal := rfl
@[simp] theorem State.setFlashByte_sec (a : Nat) (v : Byte) : (s.setFlashByte a v).sec = s.sec := rfl
@[simp] theorem State.setFlashByte_reqNo (a : Nat) (v : Byte) : (s.setFlashByte a v).reqNo = s.reqNo := rfl
@[simp] theorem State.setFlashByte_lastApply (a : Nat) (v : Byte) : (s.setFlashByte a v).lastApply = s.lastApply := rfl
@[simp] theorem State.setFlashByte_rd (a : Nat) (v : Byte) (g : Fld) : (s.setFlashByte a v).rd g = s.rd g := rfl
@[simp] theorem State.setFlashByte_ard (a : Nat) (v : Byte) (g : Fld) : (s.setFlashByte a v).ard g = s.ard g := rfl
@[simp] theorem State.setFlashByte_awake (a : Nat) (v : Byte) : (s.setFlashByte a v).awake = s.awake := rfl
@[simp] theorem State.setFlashByte_isAmber (a : Nat) (v : Byte) : (s.setFlashByte a v).isAmber = s.isAmber := rfl
@[simp] theorem State.setFlashByte_isGreen (a : Nat) (v : Byte) : (s.setFlashByte a v).isGreen = s.isGreen := rfl
@[simp] theorem State.setFlashByte_isSleep (a : Nat) (v : Byte) : (s.setFlashByte a v).isSleep = s.isSleep := rfl
@[simp] theorem State.setFlashByte_seq (a : Nat) (v : Byte) (j : Nat) : (s.setFlashByte a v).seq j = s.seq j := rfl
@[simp] theorem State.setFlashByte_cell (a : Nat) (v : Byte) (j : Nat) : (s.setFlashByte a v).cell j = s.cell j := rfl
@[simp] theorem State.setFlashByte_lane (a : Nat) (v : Byte) (j : Nat) : (s.setFlashByte a v).lane j = s.lane j := rfl
@[simp] theorem State.setFlashByte_comb (a : Nat) (v : Byte) (j : Nat) : (s.setFlashByte a v).comb j = s.comb j := rfl
@[simp] theorem State.setFlashByte_biasOut (a : Nat) (v : Byte) (j : Nat) : (s.setFlashByte a v).biasOut j = s.biasOut j := rfl
@[simp] theorem State.setFlashByte_grpLoads (a : Nat) (v : Byte) (j : Nat) : (s.setFlashByte a v).grpLoads j = s.grpLoads j := rfl
@[simp] theorem State.setFlashByte_mkr (a : Nat) (v : Byte) (j : Nat) : (s.setFlashByte a v).mkr j = s.mkr j := rfl
@[simp] theorem State.setFlashByte_stamp (a : Nat) (v : Byte) (j : Nat) : (s.setFlashByte a v).stamp j = s.stamp j := rfl
@[simp] theorem State.setFlashByte_unit (a : Nat) (v : Byte) (j : Nat) : (s.setFlashByte a v).unit j = s.unit j := rfl
@[simp] theorem State.setFlashByte_port (a : Nat) (v : Byte) (j : Nat) : (s.setFlashByte a v).port j = s.port j := rfl
@[simp] theorem State.setFlashByte_txn (a : Nat) (v : Byte) (j : Nat) : (s.setFlashByte a v).txn j = s.txn j := rfl
@[simp] theorem State.setFlashByte_mon (a : Nat) (v : Byte) (j : Nat) : (s.setFlashByte a v).mon j = s.mon j := rfl
@[simp] theorem State.setFlashByte_win (a : Nat) (v : Byte) (j : Nat) : (s.setFlashByte a v).win j = s.win j := rfl
@[simp] theorem State.setFlashByte_cap (a : Nat) (v : Byte) (j : Nat) : (s.setFlashByte a v).cap j = s.cap j := rfl

/-! ### A field read after it is written -/

@[simp] theorem State.rd_wr (f : Fld) (v : Nat) : (s.wr f v).rd f = v % 2 ^ f.width := State.rd_wr_self s f v
@[simp] theorem State.ard_awr (f : Fld) (v : Nat) : (s.awr f v).ard f = v % 2 ^ f.width := SMap.get_set_self _ _ _ _
theorem State.ard_awr_ne (f : Fld) (v : Nat) {g : Fld} (h : g.key ≠ f.key) : (s.awr f v).ard g = s.ard g :=
  State.rd_wr_ne { s with regs := s.act } v h

/-! ### Time -/

/-- Events change what is on its way in the Waggle channels alone. -/
theorem State.occurs_eq (l : List (Nat × Nat)) :
    ∀ s : State, ∃ w, l.foldl (fun s e => s.occur e.1 e.2) s = { s with wag := w } ∧ w.chans = s.wag.chans := by
  induction l with
  | nil => exact fun s => ⟨s.wag, rfl, rfl⟩
  | cons e l ih =>
    intro s
    obtain ⟨w, h, hc⟩ := ih (s.occur e.1 e.2)
    exact ⟨w, h, hc⟩

theorem State.flush_eq (s : State) : ∃ w, s.flush = { s with wag := w } ∧ w.chans = s.wag.chans := by
  unfold State.flush
  split
  · exact ⟨s.wag, rfl, rfl⟩
  · obtain ⟨w, h, hc⟩ := State.occurs_eq (s.wag.later.filter fun e => e.1 ≤ s.dial)
      { s with wag := { s.wag with later := s.wag.later.filter fun e => ¬ e.1 ≤ s.dial } }
    exact ⟨w, h, hc⟩

/-- Letting time pass changes the Dial and the Waggle channels alone. -/
theorem State.at_eq (t : Nat) : ∃ d w, s.at t = { s with dial := d, wag := w } := by
  unfold State.at
  split
  · exact ⟨s.dial, s.wag, rfl⟩
  · obtain ⟨w, h, _⟩ := State.flush_eq { s with dial := max s.dial (t - t % s.gran) % 2 ^ 72 }
    exact ⟨_, w, h⟩

@[simp] theorem State.at_pending (t : Nat) : (s.at t).pending = s.pending := by
  obtain ⟨d, w, h⟩ := s.at_eq t; exact (congrArg (fun x : State => x.pending) h).trans rfl
@[simp] theorem State.at_free (t : Nat) : (s.at t).free = s.free := by
  obtain ⟨d, w, h⟩ := s.at_eq t; exact (congrArg (fun x : State => x.free) h).trans rfl
@[simp] theorem State.at_regs (t : Nat) : (s.at t).regs = s.regs := by
  obtain ⟨d, w, h⟩ := s.at_eq t; exact (congrArg (fun x : State => x.regs) h).trans rfl
@[simp] theorem State.at_act (t : Nat) : (s.at t).act = s.act := by
  obtain ⟨d, w, h⟩ := s.at_eq t; exact (congrArg (fun x : State => x.act) h).trans rfl
@[simp] theorem State.at_svc (t : Nat) : (s.at t).svc = s.svc := by
  obtain ⟨d, w, h⟩ := s.at_eq t; exact (congrArg (fun x : State => x.svc) h).trans rfl
@[simp] theorem State.at_i3c (t : Nat) : (s.at t).i3c = s.i3c := by
  obtain ⟨d, w, h⟩ := s.at_eq t; exact (congrArg (fun x : State => x.i3c) h).trans rfl
@[simp] theorem State.at_strobes (t : Nat) : (s.at t).strobes = s.strobes := by
  obtain ⟨d, w, h⟩ := s.at_eq t; exact (congrArg (fun x : State => x.strobes) h).trans rfl
@[simp] theorem State.at_wins (t : Nat) : (s.at t).wins = s.wins := by
  obtain ⟨d, w, h⟩ := s.at_eq t; exact (congrArg (fun x : State => x.wins) h).trans rfl
@[simp] theorem State.at_capt (t : Nat) : (s.at t).capt = s.capt := by
  obtain ⟨d, w, h⟩ := s.at_eq t; exact (congrArg (fun x : State => x.capt) h).trans rfl
@[simp] theorem State.at_locks (t : Nat) : (s.at t).locks = s.locks := by
  obtain ⟨d, w, h⟩ := s.at_eq t; exact (congrArg (fun x : State => x.locks) h).trans rfl
@[simp] theorem State.at_accBase (t : Nat) : (s.at t).accBase = s.accBase := by
  obtain ⟨d, w, h⟩ := s.at_eq t; exact (congrArg (fun x : State => x.accBase) h).trans rfl
@[simp] theorem State.at_seqs (t : Nat) : (s.at t).seqs = s.seqs := by
  obtain ⟨d, w, h⟩ := s.at_eq t; exact (congrArg (fun x : State => x.seqs) h).trans rfl
@[simp] theorem State.at_cells (t : Nat) : (s.at t).cells = s.cells := by
  obtain ⟨d, w, h⟩ := s.at_eq t; exact (congrArg (fun x : State => x.cells) h).trans rfl
@[simp] theorem State.at_lanes (t : Nat) : (s.at t).lanes = s.lanes := by
  obtain ⟨d, w, h⟩ := s.at_eq t; exact (congrArg (fun x : State => x.lanes) h).trans rfl
@[simp] theorem State.at_combs (t : Nat) : (s.at t).combs = s.combs := by
  obtain ⟨d, w, h⟩ := s.at_eq t; exact (congrArg (fun x : State => x.combs) h).trans rfl
@[simp] theorem State.at_bank (t : Nat) : (s.at t).bank = s.bank := by
  obtain ⟨d, w, h⟩ := s.at_eq t; exact (congrArg (fun x : State => x.bank) h).trans rfl
@[simp] theorem State.at_bankAct (t : Nat) : (s.at t).bankAct = s.bankAct := by
  obtain ⟨d, w, h⟩ := s.at_eq t; exact (congrArg (fun x : State => x.bankAct) h).trans rfl
@[simp] theorem State.at_marks (t : Nat) : (s.at t).marks = s.marks := by
  obtain ⟨d, w, h⟩ := s.at_eq t; exact (congrArg (fun x : State => x.marks) h).trans rfl
@[simp] theorem State.at_micro (t : Nat) : (s.at t).micro = s.micro := by
  obtain ⟨d, w, h⟩ := s.at_eq t; exact (congrArg (fun x : State => x.micro) h).trans rfl
@[simp] theorem State.at_nano (t : Nat) : (s.at t).nano = s.nano := by
  obtain ⟨d, w, h⟩ := s.at_eq t; exact (congrArg (fun x : State => x.nano) h).trans rfl
@[simp] theorem State.at_cache (t : Nat) : (s.at t).cache = s.cache := by
  obtain ⟨d, w, h⟩ := s.at_eq t; exact (congrArg (fun x : State => x.cache) h).trans rfl
@[simp] theorem State.at_kern (t : Nat) : (s.at t).kern = s.kern := by
  obtain ⟨d, w, h⟩ := s.at_eq t; exact (congrArg (fun x : State => x.kern) h).trans rfl
@[simp] theorem State.at_descs (t : Nat) : (s.at t).descs = s.descs := by
  obtain ⟨d, w, h⟩ := s.at_eq t; exact (congrArg (fun x : State => x.descs) h).trans rfl
@[simp] theorem State.at_dec (t : Nat) : (s.at t).dec = s.dec := by
  obtain ⟨d, w, h⟩ := s.at_eq t; exact (congrArg (fun x : State => x.dec) h).trans rfl
@[simp] theorem State.at_bias (t : Nat) : (s.at t).bias = s.bias := by
  obtain ⟨d, w, h⟩ := s.at_eq t; exact (congrArg (fun x : State => x.bias) h).trans rfl
@[simp] theorem State.at_loads (t : Nat) : (s.at t).loads = s.loads := by
  obtain ⟨d, w, h⟩ := s.at_eq t; exact (congrArg (fun x : State => x.loads) h).trans rfl
@[simp] theorem State.at_hbm (t : Nat) : (s.at t).hbm = s.hbm := by
  obtain ⟨d, w, h⟩ := s.at_eq t; exact (congrArg (fun x : State => x.hbm) h).trans rfl
@[simp] theorem State.at_poison (t : Nat) : (s.at t).poison = s.poison := by
  obtain ⟨d, w, h⟩ := s.at_eq t; exact (congrArg (fun x : State => x.poison) h).trans rfl
@[simp] theorem State.at_flash (t : Nat) : (s.at t).flash = s.flash := by
  obtain ⟨d, w, h⟩ := s.at_eq t; exact (congrArg (fun x : State => x.flash) h).trans rfl
@[simp] theorem State.at_mkrs (t : Nat) : (s.at t).mkrs = s.mkrs := by
  obtain ⟨d, w, h⟩ := s.at_eq t; exact (congrArg (fun x : State => x.mkrs) h).trans rfl
@[simp] theorem State.at_stmp (t : Nat) : (s.at t).stmp = s.stmp := by
  obtain ⟨d, w, h⟩ := s.at_eq t; exact (congrArg (fun x : State => x.stmp) h).trans rfl
@[simp] theorem State.at_cd (t : Nat) : (s.at t).cd = s.cd := by
  obtain ⟨d, w, h⟩ := s.at_eq t; exact (congrArg (fun x : State => x.cd) h).trans rfl
@[simp] theorem State.at_meas (t : Nat) : (s.at t).meas = s.meas := by
  obtain ⟨d, w, h⟩ := s.at_eq t; exact (congrArg (fun x : State => x.meas) h).trans rfl
@[simp] theorem State.at_ports (t : Nat) : (s.at t).ports = s.ports := by
  obtain ⟨d, w, h⟩ := s.at_eq t; exact (congrArg (fun x : State => x.ports) h).trans rfl
@[simp] theorem State.at_txns (t : Nat) : (s.at t).txns = s.txns := by
  obtain ⟨d, w, h⟩ := s.at_eq t; exact (congrArg (fun x : State => x.txns) h).trans rfl
@[simp] theorem State.at_swm (t : Nat) : (s.at t).swm = s.swm := by
  obtain ⟨d, w, h⟩ := s.at_eq t; exact (congrArg (fun x : State => x.swm) h).trans rfl
@[simp] theorem State.at_chain (t : Nat) : (s.at t).chain = s.chain := by
  obtain ⟨d, w, h⟩ := s.at_eq t; exact (congrArg (fun x : State => x.chain) h).trans rfl
@[simp] theorem State.at_far (t : Nat) : (s.at t).far = s.far := by
  obtain ⟨d, w, h⟩ := s.at_eq t; exact (congrArg (fun x : State => x.far) h).trans rfl
@[simp] theorem State.at_memo (t : Nat) : (s.at t).memo = s.memo := by
  obtain ⟨d, w, h⟩ := s.at_eq t; exact (congrArg (fun x : State => x.memo) h).trans rfl
@[simp] theorem State.at_life (t : Nat) : (s.at t).life = s.life := by
  obtain ⟨d, w, h⟩ := s.at_eq t; exact (congrArg (fun x : State => x.life) h).trans rfl
@[simp] theorem State.at_caps (t : Nat) : (s.at t).caps = s.caps := by
  obtain ⟨d, w, h⟩ := s.at_eq t; exact (congrArg (fun x : State => x.caps) h).trans rfl
@[simp] theorem State.at_mons (t : Nat) : (s.at t).mons = s.mons := by
  obtain ⟨d, w, h⟩ := s.at_eq t; exact (congrArg (fun x : State => x.mons) h).trans rfl
@[simp] theorem State.at_thm (t : Nat) : (s.at t).thm = s.thm := by
  obtain ⟨d, w, h⟩ := s.at_eq t; exact (congrArg (fun x : State => x.thm) h).trans rfl
@[simp] theorem State.at_cal (t : Nat) : (s.at t).cal = s.cal := by
  obtain ⟨d, w, h⟩ := s.at_eq t; exact (congrArg (fun x : State => x.cal) h).trans rfl
@[simp] theorem State.at_sec (t : Nat) : (s.at t).sec = s.sec := by
  obtain ⟨d, w, h⟩ := s.at_eq t; exact (congrArg (fun x : State => x.sec) h).trans rfl
@[simp] theorem State.at_reqNo (t : Nat) : (s.at t).reqNo = s.reqNo := by
  obtain ⟨d, w, h⟩ := s.at_eq t; exact (congrArg (fun x : State => x.reqNo) h).trans rfl
@[simp] theorem State.at_lastApply (t : Nat) : (s.at t).lastApply = s.lastApply := by
  obtain ⟨d, w, h⟩ := s.at_eq t; exact (congrArg (fun x : State => x.lastApply) h).trans rfl
@[simp] theorem State.at_rd (t : Nat) (f : Fld) : (s.at t).rd f = s.rd f := by
  obtain ⟨d, w, h⟩ := s.at_eq t; exact (congrArg (fun x : State => x.rd f) h).trans rfl
@[simp] theorem State.at_ard (t : Nat) (f : Fld) : (s.at t).ard f = s.ard f := by
  obtain ⟨d, w, h⟩ := s.at_eq t; exact (congrArg (fun x : State => x.ard f) h).trans rfl
@[simp] theorem State.at_flag (t : Nat) (f : Fld) : (s.at t).flag f = s.flag f := by
  obtain ⟨d, w, h⟩ := s.at_eq t; exact (congrArg (fun x : State => x.flag f) h).trans rfl
@[simp] theorem State.at_awake (t : Nat) : (s.at t).awake = s.awake := by
  obtain ⟨d, w, h⟩ := s.at_eq t; exact (congrArg (fun x : State => x.awake) h).trans rfl
@[simp] theorem State.at_isAmber (t : Nat) : (s.at t).isAmber = s.isAmber := by
  obtain ⟨d, w, h⟩ := s.at_eq t; exact (congrArg (fun x : State => x.isAmber) h).trans rfl
@[simp] theorem State.at_isGreen (t : Nat) : (s.at t).isGreen = s.isGreen := by
  obtain ⟨d, w, h⟩ := s.at_eq t; exact (congrArg (fun x : State => x.isGreen) h).trans rfl
@[simp] theorem State.at_isSleep (t : Nat) : (s.at t).isSleep = s.isSleep := by
  obtain ⟨d, w, h⟩ := s.at_eq t; exact (congrArg (fun x : State => x.isSleep) h).trans rfl
@[simp] theorem State.at_ccc (t : Nat) : (s.at t).ccc = s.ccc := by
  obtain ⟨d, w, h⟩ := s.at_eq t; exact (congrArg (fun x : State => x.ccc) h).trans rfl
@[simp] theorem State.at_tagOf (t : Nat) : (s.at t).tagOf = s.tagOf := by
  obtain ⟨d, w, h⟩ := s.at_eq t; exact (congrArg (fun x : State => x.tagOf) h).trans rfl
@[simp] theorem State.at_mbShape (t : Nat) : (s.at t).mbShape = s.mbShape := by
  obtain ⟨d, w, h⟩ := s.at_eq t; exact (congrArg (fun x : State => x.mbShape) h).trans rfl
@[simp] theorem State.at_mbTag (t : Nat) : (s.at t).mbTag = s.mbTag := by
  obtain ⟨d, w, h⟩ := s.at_eq t; exact (congrArg (fun x : State => x.mbTag) h).trans rfl
@[simp] theorem State.at_mbCtr (t : Nat) : (s.at t).mbCtr = s.mbCtr := by
  obtain ⟨d, w, h⟩ := s.at_eq t; exact (congrArg (fun x : State => x.mbCtr) h).trans rfl
@[simp] theorem State.at_mbLast (t : Nat) : (s.at t).mbLast = s.mbLast := by
  obtain ⟨d, w, h⟩ := s.at_eq t; exact (congrArg (fun x : State => x.mbLast) h).trans rfl
@[simp] theorem State.at_mbOp (t : Nat) : (s.at t).mbOp = s.mbOp := by
  obtain ⟨d, w, h⟩ := s.at_eq t; exact (congrArg (fun x : State => x.mbOp) h).trans rfl
@[simp] theorem State.at_mbPermitted (t : Nat) : (s.at t).mbPermitted = s.mbPermitted := by
  obtain ⟨d, w, h⟩ := s.at_eq t; exact (congrArg (fun x : State => x.mbPermitted) h).trans rfl
@[simp] theorem State.at_mbLocked (t : Nat) : (s.at t).mbLocked = s.mbLocked := by
  obtain ⟨d, w, h⟩ := s.at_eq t; exact (congrArg (fun x : State => x.mbLocked) h).trans rfl
@[simp] theorem State.at_flAddr (t : Nat) : (s.at t).flAddr = s.flAddr := by
  obtain ⟨d, w, h⟩ := s.at_eq t; exact (congrArg (fun x : State => x.flAddr) h).trans rfl
@[simp] theorem State.at_flBytes (t : Nat) : (s.at t).flBytes = s.flBytes := by
  obtain ⟨d, w, h⟩ := s.at_eq t; exact (congrArg (fun x : State => x.flBytes) h).trans rfl
@[simp] theorem State.at_summary (t : Nat) : (s.at t).summary = s.summary := by
  obtain ⟨d, w, h⟩ := s.at_eq t; exact (congrArg (fun x : State => x.summary) h).trans rfl
@[simp] theorem State.at_cstate (t : Nat) : (s.at t).cstate = s.cstate := by
  obtain ⟨d, w, h⟩ := s.at_eq t; exact (congrArg (fun x : State => x.cstate) h).trans rfl
@[simp] theorem State.at_chainRole (t : Nat) : (s.at t).chainRole = s.chainRole := by
  obtain ⟨d, w, h⟩ := s.at_eq t; exact (congrArg (fun x : State => x.chainRole) h).trans rfl
@[simp] theorem State.at_myId (t : Nat) : (s.at t).myId = s.myId := by
  obtain ⟨d, w, h⟩ := s.at_eq t; exact (congrArg (fun x : State => x.myId) h).trans rfl
@[simp] theorem State.at_inChain (t : Nat) : (s.at t).inChain = s.inChain := by
  obtain ⟨d, w, h⟩ := s.at_eq t; exact (congrArg (fun x : State => x.inChain) h).trans rfl
@[simp] theorem State.at_converting (t : Nat) : (s.at t).converting = s.converting := by
  obtain ⟨d, w, h⟩ := s.at_eq t; exact (congrArg (fun x : State => x.converting) h).trans rfl
@[simp] theorem State.at_capMask (t : Nat) : (s.at t).capMask = s.capMask := by
  obtain ⟨d, w, h⟩ := s.at_eq t; exact (congrArg (fun x : State => x.capMask) h).trans rfl
@[simp] theorem State.at_allHalted (t : Nat) : (s.at t).allHalted = s.allHalted := by
  obtain ⟨d, w, h⟩ := s.at_eq t; exact (congrArg (fun x : State => x.allHalted) h).trans rfl
@[simp] theorem State.at_fit (t : Nat) : (s.at t).fit = s.fit := by
  obtain ⟨d, w, h⟩ := s.at_eq t; exact (congrArg (fun x : State => x.fit) h).trans rfl
@[simp] theorem State.at_passBusy (t : Nat) : (s.at t).passBusy = s.passBusy := by
  obtain ⟨d, w, h⟩ := s.at_eq t; exact (congrArg (fun x : State => x.passBusy) h).trans rfl
@[simp] theorem State.at_pid (t : Nat) : (s.at t).pid = s.pid := by
  obtain ⟨d, w, h⟩ := s.at_eq t; exact (congrArg (fun x : State => x.pid) h).trans rfl
@[simp] theorem State.at_swarmParts (t : Nat) : (s.at t).swarmParts = s.swarmParts := by
  obtain ⟨d, w, h⟩ := s.at_eq t; exact (congrArg (fun x : State => x.swarmParts) h).trans rfl
@[simp] theorem State.at_swarmL1 (t : Nat) : (s.at t).swarmL1 = s.swarmL1 := by
  obtain ⟨d, w, h⟩ := s.at_eq t; exact (congrArg (fun x : State => x.swarmL1) h).trans rfl
@[simp] theorem State.at_swarmG (t : Nat) : (s.at t).swarmG = s.swarmG := by
  obtain ⟨d, w, h⟩ := s.at_eq t; exact (congrArg (fun x : State => x.swarmG) h).trans rfl
@[simp] theorem State.at_askedMap (t : Nat) : (s.at t).askedMap = s.askedMap := by
  obtain ⟨d, w, h⟩ := s.at_eq t; exact (congrArg (fun x : State => x.askedMap) h).trans rfl
@[simp] theorem State.at_trigger (t : Nat) (n k a : Nat) : (s.at t).trigger n k a = s.trigger n k a := by
  obtain ⟨d, w, h⟩ := s.at_eq t; exact (congrArg (fun x : State => x.trigger n k a) h).trans rfl
@[simp] theorem State.at_mbBusyWrite (t : Nat) (r : WordRef) : (s.at t).mbBusyWrite r = s.mbBusyWrite r := by
  obtain ⟨d, w, h⟩ := s.at_eq t; exact (congrArg (fun x : State => x.mbBusyWrite r) h).trans rfl
@[simp] theorem State.at_seq (t : Nat) (k : Nat) : (s.at t).seq k = s.seq k := by
  obtain ⟨d, w, h⟩ := s.at_eq t; exact (congrArg (fun x : State => x.seq k) h).trans rfl
@[simp] theorem State.at_cell (t : Nat) (k : Nat) : (s.at t).cell k = s.cell k := by
  obtain ⟨d, w, h⟩ := s.at_eq t; exact (congrArg (fun x : State => x.cell k) h).trans rfl
@[simp] theorem State.at_lane (t : Nat) (k : Nat) : (s.at t).lane k = s.lane k := by
  obtain ⟨d, w, h⟩ := s.at_eq t; exact (congrArg (fun x : State => x.lane k) h).trans rfl
@[simp] theorem State.at_comb (t : Nat) (k : Nat) : (s.at t).comb k = s.comb k := by
  obtain ⟨d, w, h⟩ := s.at_eq t; exact (congrArg (fun x : State => x.comb k) h).trans rfl
@[simp] theorem State.at_biasOut (t : Nat) (k : Nat) : (s.at t).biasOut k = s.biasOut k := by
  obtain ⟨d, w, h⟩ := s.at_eq t; exact (congrArg (fun x : State => x.biasOut k) h).trans rfl
@[simp] theorem State.at_grpLoads (t : Nat) (k : Nat) : (s.at t).grpLoads k = s.grpLoads k := by
  obtain ⟨d, w, h⟩ := s.at_eq t; exact (congrArg (fun x : State => x.grpLoads k) h).trans rfl
@[simp] theorem State.at_mkr (t : Nat) (k : Nat) : (s.at t).mkr k = s.mkr k := by
  obtain ⟨d, w, h⟩ := s.at_eq t; exact (congrArg (fun x : State => x.mkr k) h).trans rfl
@[simp] theorem State.at_stamp (t : Nat) (k : Nat) : (s.at t).stamp k = s.stamp k := by
  obtain ⟨d, w, h⟩ := s.at_eq t; exact (congrArg (fun x : State => x.stamp k) h).trans rfl
@[simp] theorem State.at_unit (t : Nat) (k : Nat) : (s.at t).unit k = s.unit k := by
  obtain ⟨d, w, h⟩ := s.at_eq t; exact (congrArg (fun x : State => x.unit k) h).trans rfl
@[simp] theorem State.at_port (t : Nat) (k : Nat) : (s.at t).port k = s.port k := by
  obtain ⟨d, w, h⟩ := s.at_eq t; exact (congrArg (fun x : State => x.port k) h).trans rfl
@[simp] theorem State.at_txn (t : Nat) (k : Nat) : (s.at t).txn k = s.txn k := by
  obtain ⟨d, w, h⟩ := s.at_eq t; exact (congrArg (fun x : State => x.txn k) h).trans rfl
@[simp] theorem State.at_mon (t : Nat) (k : Nat) : (s.at t).mon k = s.mon k := by
  obtain ⟨d, w, h⟩ := s.at_eq t; exact (congrArg (fun x : State => x.mon k) h).trans rfl
@[simp] theorem State.at_win (t : Nat) (k : Nat) : (s.at t).win k = s.win k := by
  obtain ⟨d, w, h⟩ := s.at_eq t; exact (congrArg (fun x : State => x.win k) h).trans rfl
@[simp] theorem State.at_cap (t : Nat) (k : Nat) : (s.at t).cap k = s.cap k := by
  obtain ⟨d, w, h⟩ := s.at_eq t; exact (congrArg (fun x : State => x.cap k) h).trans rfl
@[simp] theorem State.at_halted (t : Nat) (k : Nat) : (s.at t).halted k = s.halted k := by
  obtain ⟨d, w, h⟩ := s.at_eq t; exact (congrArg (fun x : State => x.halted k) h).trans rfl
@[simp] theorem State.at_anchor (t : Nat) (k : Nat) : (s.at t).anchor k = s.anchor k := by
  obtain ⟨d, w, h⟩ := s.at_eq t; exact (congrArg (fun x : State => x.anchor k) h).trans rfl
@[simp] theorem State.at_capState (t : Nat) (k : Nat) : (s.at t).capState k = s.capState k := by
  obtain ⟨d, w, h⟩ := s.at_eq t; exact (congrArg (fun x : State => x.capState k) h).trans rfl
@[simp] theorem State.at_elvState (t : Nat) (k : Nat) : (s.at t).elvState k = s.elvState k := by
  obtain ⟨d, w, h⟩ := s.at_eq t; exact (congrArg (fun x : State => x.elvState k) h).trans rfl
@[simp] theorem State.at_portUp (t : Nat) (k : Nat) : (s.at t).portUp k = s.portUp k := by
  obtain ⟨d, w, h⟩ := s.at_eq t; exact (congrArg (fun x : State => x.portUp k) h).trans rfl
@[simp] theorem State.at_role (t : Nat) (k : Nat) : (s.at t).role k = s.role k := by
  obtain ⟨d, w, h⟩ := s.at_eq t; exact (congrArg (fun x : State => x.role k) h).trans rfl
@[simp] theorem State.at_txnState (t : Nat) (k : Nat) : (s.at t).txnState k = s.txnState k := by
  obtain ⟨d, w, h⟩ := s.at_eq t; exact (congrArg (fun x : State => x.txnState k) h).trans rfl
@[simp] theorem State.at_hbmByte (t : Nat) (k : Nat) : (s.at t).hbmByte k = s.hbmByte k := by
  obtain ⟨d, w, h⟩ := s.at_eq t; exact (congrArg (fun x : State => x.hbmByte k) h).trans rfl
@[simp] theorem State.at_flashByte (t : Nat) (k : Nat) : (s.at t).flashByte k = s.flashByte k := by
  obtain ⟨d, w, h⟩ := s.at_eq t; exact (congrArg (fun x : State => x.flashByte k) h).trans rfl
@[simp] theorem State.at_poisoned (t : Nat) (k : Nat) : (s.at t).poisoned k = s.poisoned k := by
  obtain ⟨d, w, h⟩ := s.at_eq t; exact (congrArg (fun x : State => x.poisoned k) h).trans rfl
@[simp] theorem State.at_winUp (t : Nat) (k : Nat) : (s.at t).winUp k = s.winUp k := by
  obtain ⟨d, w, h⟩ := s.at_eq t; exact (congrArg (fun x : State => x.winUp k) h).trans rfl
@[simp] theorem State.at_busUp (t : Nat) (k : Nat) : (s.at t).busUp k = s.busUp k := by
  obtain ⟨d, w, h⟩ := s.at_eq t; exact (congrArg (fun x : State => x.busUp k) h).trans rfl
@[simp] theorem State.at_reach (t : Nat) (k : Nat) : (s.at t).reach k = s.reach k := by
  obtain ⟨d, w, h⟩ := s.at_eq t; exact (congrArg (fun x : State => x.reach k) h).trans rfl
@[simp] theorem State.at_lockOf (t : Nat) (k : Nat) : (s.at t).lockOf k = s.lockOf k := by
  obtain ⟨d, w, h⟩ := s.at_eq t; exact (congrArg (fun x : State => x.lockOf k) h).trans rfl
@[simp] theorem State.at_mbArg (t : Nat) (k : Nat) : (s.at t).mbArg k = s.mbArg k := by
  obtain ⟨d, w, h⟩ := s.at_eq t; exact (congrArg (fun x : State => x.mbArg k) h).trans rfl
@[simp] theorem State.at_codeAct (t : Nat) (k : Nat) : (s.at t).codeAct k = s.codeAct k := by
  obtain ⟨d, w, h⟩ := s.at_eq t; exact (congrArg (fun x : State => x.codeAct k) h).trans rfl
@[simp] theorem State.at_takesEdges (t : Nat) (k : Nat) : (s.at t).takesEdges k = s.takesEdges k := by
  obtain ⟨d, w, h⟩ := s.at_eq t; exact (congrArg (fun x : State => x.takesEdges k) h).trans rfl
@[simp] theorem State.at_portHeld (t : Nat) (k : Nat) : (s.at t).portHeld k = s.portHeld k := by
  obtain ⟨d, w, h⟩ := s.at_eq t; exact (congrArg (fun x : State => x.portHeld k) h).trans rfl
@[simp] theorem State.at_waitsSafe (t : Nat) (k : Nat) : (s.at t).waitsSafe k = s.waitsSafe k := by
  obtain ⟨d, w, h⟩ := s.at_eq t; exact (congrArg (fun x : State => x.waitsSafe k) h).trans rfl
@[simp] theorem State.at_members (t : Nat) (k : Nat) : (s.at t).members k = s.members k := by
  obtain ⟨d, w, h⟩ := s.at_eq t; exact (congrArg (fun x : State => x.members k) h).trans rfl
@[simp] theorem State.at_neighbourUp (t : Nat) (k : Nat) : (s.at t).neighbourUp k = s.neighbourUp k := by
  obtain ⟨d, w, h⟩ := s.at_eq t; exact (congrArg (fun x : State => x.neighbourUp k) h).trans rfl
@[simp] theorem State.at_elvPaused (t : Nat) (k : Nat) : (s.at t).elvPaused k = s.elvPaused k := by
  obtain ⟨d, w, h⟩ := s.at_eq t; exact (congrArg (fun x : State => x.elvPaused k) h).trans rfl
@[simp] theorem State.at_mbArgs (t : Nat) (k : Nat) : (s.at t).mbArgs k = s.mbArgs k := by
  obtain ⟨d, w, h⟩ := s.at_eq t; exact (congrArg (fun x : State => x.mbArgs k) h).trans rfl
@[simp] theorem State.at_waiting (t : Nat) (k : Nat) : (s.at t).waiting k = s.waiting k := by
  obtain ⟨d, w, h⟩ := s.at_eq t; exact (congrArg (fun x : State => x.waiting k) h).trans rfl
@[simp] theorem State.at_bankKey (t : Nat) (k : Nat) : (s.at t).bankKey k = s.bankKey k := by
  obtain ⟨d, w, h⟩ := s.at_eq t; exact (congrArg (fun x : State => x.bankKey k) h).trans rfl
@[simp] theorem State.at_count (t : Nat) (j k : Nat) : (s.at t).count j k = s.count j k := by
  obtain ⟨d, w, h⟩ := s.at_eq t; exact (congrArg (fun x : State => x.count j k) h).trans rfl
@[simp] theorem State.at_supervised (t : Nat) (j k : Nat) : (s.at t).supervised j k = s.supervised j k := by
  obtain ⟨d, w, h⟩ := s.at_eq t; exact (congrArg (fun x : State => x.supervised j k) h).trans rfl
@[simp] theorem State.at_microWord (t : Nat) (j k : Nat) : (s.at t).microWord j k = s.microWord j k := by
  obtain ⟨d, w, h⟩ := s.at_eq t; exact (congrArg (fun x : State => x.microWord j k) h).trans rfl
@[simp] theorem State.at_farOf (t : Nat) (j k : Nat) : (s.at t).farOf j k = s.farOf j k := by
  obtain ⟨d, w, h⟩ := s.at_eq t; exact (congrArg (fun x : State => x.farOf j k) h).trans rfl
@[simp] theorem State.at_waitsAt (t : Nat) (j k : Nat) : (s.at t).waitsAt j k = s.waitsAt j k := by
  obtain ⟨d, w, h⟩ := s.at_eq t; exact (congrArg (fun x : State => x.waitsAt j k) h).trans rfl

@[simp] theorem State.at_wag_chans (t : Nat) : (s.at t).wag.chans = s.wag.chans := by
  unfold State.at
  split
  · rfl
  · obtain ⟨w, h, hc⟩ := State.flush_eq { s with dial := max s.dial (t - t % s.gran) % 2 ^ 72 }
    exact (congrArg (fun x : State => x.wag.chans) h).trans hc

/-- In Dark no time passes. -/
theorem State.at_dark (t : Nat) (h : s.svc.svc = .dark) : s.at t = s := by simp [State.at, h]

theorem State.flashNat_congr {u v : State} (h : u.flash = v.flash) (k : Nat) : ∀ a, u.flashNat a k = v.flashNat a k := by
  induction k with
  | zero => exact fun _ => rfl
  | succ k ih => intro a; simp only [State.flashNat, ih, State.flashByte, h]

@[simp] theorem State.at_flashNat (t a k : Nat) : (s.at t).flashNat a k = s.flashNat a k := State.flashNat_congr (s.at_flash t) k a

/-! ### Service states -/

theorem State.awake_iff : s.awake = true ↔ s.svc.svc ≠ .dark := by simp [State.awake]

theorem State.up_iff : (s.svc.svc = .amber ∨ s.svc.svc = .green) ↔ s.awake = true ∧ s.isSleep = false := by
  cases h : s.svc.svc <;> simp [State.awake, State.isSleep, h]

theorem State.ambOrGreen_iff : (s.isAmber || s.isGreen) = true ↔ s.svc.svc = .amber ∨ s.svc.svc = .green := by
  simp [State.isAmber, State.isGreen]

/-! ### Frames -/

@[simp] theorem State.SameBut_refl (fs : List Fld) : s.SameBut s fs := ⟨⟨fun _ _ => rfl, rfl⟩, rfl, rfl⟩

/-- One more field written: it joins the list. -/
theorem State.SameBut.wr {u s : State} {fs : List Fld} (h : u.SameBut s fs) (f : Fld) (v : Nat) (hf : f ∈ fs) : (u.wr f v).SameBut s fs := by
  refine ⟨⟨fun g hg => ?_, h.1.2⟩, h.2⟩
  rw [State.rd_wr_ne]
  · exact h.1.1 g hg
  · intro e; exact hg (e ▸ List.mem_map_of_mem hf)

end Sys2Proof.Machine
end

