-- ==== Sys2Proof/Laws/Steps.lean ====
section
/-! SUPPORT. Sequencer steps: what a ready step does, and what moving `pc` and ending a wait change. -/

namespace Sys2Proof.Machine

variable (s : State)

/-- A ready step has the effect of its word on the state in which it acts. -/
theorem State.stepWith_ready {n w : Nat} {v : State} {is : Nat → Bool} {eff : State → Nat → State} (h : s.ready n = some (w, v))
    (hi : is w = true) : s.stepWith n is eff = eff v w := by
  unfold State.ready at h
  unfold State.stepWith
  split at h
  · rename_i hc
    simp only [Bool.and_eq_true, decide_eq_true_eq] at hc
    rw [if_neg (by simp [hc.1.1, hc.1.2]), if_neg (by omega)]
    revert h
    generalize s.fetchMicro n = r
    obtain ⟨o, v'⟩ := r
    cases o with
    | none => simp
    | some w' =>
      simp only
      intro h
      split at h
      · rename_i hm
        obtain ⟨rfl, rfl⟩ := Prod.mk.inj (Option.some.inj h)
        rw [if_neg (by simp [hi]), if_pos (by simpa using hm)]
      · rename_i hm
        split at h
        · rename_i hs
          obtain ⟨rfl, rfl⟩ := Prod.mk.inj (Option.some.inj h)
          rw [if_neg (by simp [hi]), if_neg (by simpa using hm), if_neg (by simp [hs.1])]
          rw [Option.isNone_iff_eq_none.1 hs.2]
        · simp at h
  · simp at h

theorem State.goto_SameBut (n pc : Nat) : (s.goto n pc).SameBut s [R.seqPc_pc n, R.seqStatus_run n] := by
  unfold State.goto State.runStep
  refine State.SameBut.wr (State.SameBut.wr ?_ _ _ (by simp)) _ _ (by simp)
  exact State.SameBut_refl s _

theorem State.goNext_SameBut (n : Nat) : (s.goNext n).SameBut s [R.seqPc_pc n, R.seqStatus_run n] := State.goto_SameBut s n _

theorem State.setWait_SameBut (n : Nat) (w : Wait) : (s.setWait n w).SameBut s [R.seqStatus_run n] := by
  unfold State.setWait
  exact State.SameBut.wr (State.SameBut_refl s _) _ _ (by simp)

theorem State.endWait_SameBut (n : Nat) : (s.endWait n).SameBut s [R.seqStatus_run n] := by
  unfold State.endWait State.runStep
  exact State.SameBut.wr (State.SameBut_refl s _) _ _ (by simp)

@[simp] theorem State.goto_pc (n pc : Nat) : (s.goto n pc).rd (R.seqPc_pc n) = pc % 2 ^ 15 := by
  unfold State.goto State.runStep
  rw [State.rd_wr_ne _ _ (by simp [R.seqPc_pc, R.seqStatus_run]), State.rd_wr]
  rfl

@[simp] theorem State.goNext_pc (n : Nat) : (s.goNext n).rd (R.seqPc_pc n) = (s.rd (R.seqPc_pc n) + 1) % 2 ^ 15 := State.goto_pc s n _

@[simp] theorem State.goto_seq_self (n pc : Nat) :
    (s.goto n pc).seq n = { s.seq n with ord := (s.seq n).ord + 1, wait := .none } := by
  simp [State.goto, State.runStep]

theorem State.goto_seq_ne (n pc : Nat) {m : Nat} (h : m ≠ n) : (s.goto n pc).seq m = s.seq m := by
  simp [State.goto, State.runStep, State.setSeq_seq_ne s n _ h]

end Sys2Proof.Machine
end

