-- ==== Sys2Proof/Tests/Slice0.lean ====
section
/-! SUPPORT. Tests: for every statement with hypotheses a state and operands that meet them together, clause by clause; the
ill-formed commands that WellFormed refuses; and worked examples of the spec. -/

set_option Elab.async false

namespace Sys2Proof.Tests

open Sys2Proof Sys2Proof.Machine

/-! ### Small states -/

def amber : State := { State.reset with svc := { SvcSt.init with svc := .amber, muteHigh := true } }
def green : State := { State.reset with svc := { SvcSt.init with svc := .green, muteHigh := true, greenSeen := true, hbmTrained := true, monCal := true, convCal := true, fine := true } }
def fitAmber : State := ({ State.reset with svc := { SvcSt.init with svc := .amber, muteHigh := true, hbmTrained := true, monCal := true, convCal := true, greenSeen := true } } : State).wr R.timeStatus_pll_lock 1
def lossAmber (c : Nat) : State := amber.setSvc { amber.svc with causes := [c] }
def bus (h : Nat) : State := (amber.setI3c { amber.i3c with hdr := h }).wr R.hostI3cCtl_dyn_valid 1
def fallW : WordRef := match lookupWord 0 with | some w => w | none => ⟨0, .hive, 0, [], .none, []⟩
def tf : List Fld := [R.hiveId_part, R.hiveState_state, R.hiveState_cause, R.hostAccStatus_acc_unmapped, R.hostAccAddr_addr, R.hostMbStatus_busy, R.seqPc_pc 0, R.seqStatus_run 0, R.seqCnt_count 0 3, R.timeStatus_ref_ok, R.secFlCmd_result, R.secFuse_min_ver, R.chnStatus_cstate, R.memStatus_ue]
def ta : List Nat := [0, 5, 0x2000000, 0x200FFFF, 0x2010000]
def asleep : State := amber.setSvc { amber.svc with svc := .sleep }
def ibiReady : State := ((((amber.setI3c { amber.i3c with ibiEn := true, ibiOut := true }).wr R.hostI3cCtl_dyn_valid 1).wr R.hostEvtMask_ibi_mask 255).wr R.hostEvtSummary_sum_state 1)
def mbox (op : Nat) : State := (amber.setSec { amber.sec with mb := some ⟨op, 0, none⟩ }).wr R.hostMbStatus_busy 1
def withTag (s : State) (l : List Nat) : State := (List.range 4).foldl (fun v i => v.wr (R.hostMbTag_tag i) (l.getD i 0)) s
def tagged : State := withTag (amber.wr R.hostMbOp_opcode opCAL) [3660480221, 166162004, 2267434143, 2968010727]
def prog (w : Nat) : State := { green.wr (R.seqStatus_run 0) 1 with micro := [(0, ⟨w, 0⟩)] }
def progc (w : Nat) : State := (prog w).wr (R.seqCnt_count 0 (mwArg w % 16)) (1 + mwArg w % 16)
def progh (w : Nat) : State := (prog w).setSeq 0 { SeqSt.init with handler := some (9, 0) }
def progs (w : Nat) : State := (prog w).wr (R.seqStatus_in_shot 0) 1
def progo (w : Nat) : State := (prog w).wr (R.txnState_state 0) tOPEN
def readyIn (s : State) : State := match (s.at 0).ready 0 with | some (_, v) => v | none => s
def cs0 : CSet := ⟨[], false, 0, 0⟩
def chk0 (b : Bool) : DescChk := ⟨0, 0, b, 0, none⟩
def emptyImg : ProgImage := ⟨none, none, none, none, none, none, none, 0, [], [], []⟩
def pk (k : Nat) : Pkt := ⟨k, [], 0⟩
def inbox (k : Nat) : State := (green.awr (R.elvCtl_role 0) 1).setPort 0 { PortSt.init with inbox := [pk k] }
def inboxOut (k : Nat) : State := match ((inbox k).at 0).takePkt 0 (ptIs k) with | some (_, v) => v | none => inbox k
def iss0 : Issue := ⟨0, 0, 0, 0, none⟩
def pulse0 : Pulse := ⟨0, 0, 0, 0, 0, none, none, false, 16, iss0⟩
def desc0 (src : Nat) : Desc := ⟨0, src, 0, 1 + 1000 * src, 0, false, false, true, 0, 0, 0, 0, 0, true⟩
def seg0 (src : Nat) : Seg := ⟨0, desc0 src, 0, 0, none, 0, []⟩
def playing (src : Nat) : State := green.setCell 1 { CellSt.init with play := some (pulse0, seg0 src) }
def win0 : Win := ⟨0, 0, 1, 1, false, false, 1, 0, none, none, iss0⟩
def owin0 : OpenWin := ⟨win0, 0, 0, 0, [], 0, 1, 1, false, false, false, none⟩
def shot0 : Shot := ⟨0, 0, some 1, 0, false, 0, false, none⟩
def pub5 : Pub := ⟨5, 1, 0, 0, 0, false, iss0⟩
def vin (w : Nat) : State := green.setPort 0 { PortSt.init with vin := [(0, w)] }
def vinOut (w : Nat) : State := ((vin w).at 0).setPort 0 PortSt.init
def pend2 : State := ((amber.wr (R.txnState_state 2) tPENDING)).setTxn 2 { TxnSt.init with beat := some 512 }
def msgOf (k : Nat) : SwarmMsg := SwarmMsg.ofWords [k + 3 * 16, 0]
def swarmIn (k : Nat) : State := (green.wr R.chnStatus_cstate 2).setPort 0 { PortSt.init with inbox := [⟨6, [k + 3 * 16, 0], 0⟩] }
def outOf (s : State) (k : Nat) : State := match (s.at 0).takeSwarm 0 k with | some (_, v) => v | none => s
def swarmOut (k : Nat) : State := outOf (swarmIn k) k
def swarmRun (k ph : Nat) : State := { (swarmIn k).wr R.swmStatus_phase ph with swm := { green.swm with running := true, parts := [3], t := 5000, guard := 5 } }
def swarmRunOut (k ph : Nat) : State := outOf (swarmRun k ph) k
def swarmAsk : State := { swarmIn 7 with swm := { green.swm with asks := [(0, 0, 0)] } }
def swarmAskOut : State := outOf swarmAsk 7
def bnd0 : State := green.setSeq 3 { SeqSt.init with bndAt := some 0 }
def capd : State := ((green.wr (R.capPstat_state 1) 1).awr (R.capTrig_en_timeout 1) 1).awr (R.capAuto_auto_to 1) 1
def swarmFar (k : Nat) : State := (swarmIn k).wr R.chnCtl_id 1
def swarmFarOut (k : Nat) : State := outOf (swarmFar k) k
def flux0 : Flux := ⟨0, 0, 16, 0, false, none, 0, 0, iss0⟩
def sup3 : State := green.awr (R.biasCfg_sup (biasDie 6) (biasLocal 6)) 3
def mlow : State := { green with mkrs := SMap.set MarkSt.init green.mkrs 1 { MarkSt.init with low := 1 } }
def mfree : State := { green with mkrs := SMap.set MarkSt.init green.mkrs 1 { MarkSt.init with low := 0 } }
def munit (a b : Option Nat) : State := (green.wr (R.stpMCmd_busy 2) 1).setUnit 2 { MeasSt.init with start := a, stop := b, tmo := 1 }
def dread0 : DescRead := ⟨0, 0, none, iss0⟩
def far0 : FarRead := ⟨0, 0, 2 ^ 33, 1, 0, none, some (1, 3), false, [], 0, false, none⟩
def pkOf (k : Nat) : Pkt := if k = 20 then ⟨1, [], 0⟩ else if k = 21 then ⟨257, [], 0⟩ else ⟨k, [0], 0⟩
def upGreen (role : Nat) : State := (green.awr (R.elvCtl_role 0) role).wr (R.elvStatus_state 0) 5
def pinPort (k : Nat) (m : List Pkt) : PortSt := { PortSt.init with inbox := [pkOf k], mbox := m, txAlign := decide (k = 21) }
def pin (k : Nat) : State := (upGreen (if k = 7 ∨ k = 8 then 1 else if k = 9 ∨ k = 10 then 2 else 0)).setPort 0 (pinPort k [])
def pinPt (k : Nat) (x : Pkt) : Bool := if k = 20 then linkIs 0 x else if k = 21 then linkIs 1 x else ptIs k x
def pinOut (k : Nat) : State := match ((pin k).at 0).takePkt 0 (pinPt k) with | some (_, v) => v | none => pin k
def pinFull : State := green.setPort 0 (pinPort 2 (List.replicate 16 (pk 2)))
def pinFullOut : State := match (pinFull.at 0).takePkt 0 (ptIs 2) with | some (_, v) => v | none => pinFull
def held : State := (green.setSvc { green.svc with firstLoad := true }).awr (R.elvCtl_en 0) 1
def lq0 : LqEnt := ⟨0, [0], 0, false, false, false, none, 0⟩
def nbr : State := upGreen 0
def route0 : RouteSt := ⟨0, 0⟩
def calBusy : State := ({ green with cal := { green.cal with left := [0] } } : State).wr (muteWhy 0) 0 |>.setCell 0 { CellSt.init with play := some (pulse0, seg0 1) }
def strobe1 : Strobe := ⟨16, 1, false, some [], some []⟩
def taggedNew : State := withTag ((amber.wr R.hostMbOp_opcode opCAL).wr R.hostMbCtrLo_ctr_lo 1) [1093899676, 440245484, 2287951312, 3672534191]
def swarmReady : State := (green.wr (R.swmPart_part 0) 8).wr R.swmTLo_t_lo 1000000
def rec0 : SwarmRec := ⟨(msgOf 6).swarm, (msgOf 6).coord, some 0, false, false, false, none, none, []⟩
def swarmKnown : State := let s := swarmIn 6; { s with swm := { s.swm with recs := [rec0] } }
def swarmKnownOut : State := outOf swarmKnown 6

def taggedFuse : State := withTag (((((amber.setSec { amber.sec with minVer := 1 }).wr R.hostMbOp_opcode opFUSE).wr R.hostMbOp_arg_len 34).wr (R.hostMbArg_arg 0) 1).wr R.hostMbCtrLo_ctr_lo 1) [1487036564, 1521176385, 4185278192, 1597402352]
def spec0 : Spec := ⟨0, [], 0, none, cs0, 0, 0, iss0⟩
def capM : Nat := ((capd.capSettle 1 1).cap 1).toFrom + max 1 (capd.ard (R.capTimeout_to_len 1))
def bnd1 : State := green.setSeq 3 { SeqSt.init with resume := some 0 }
def calDue1 : State := { green with cal := { green.cal with ramps := [(54, ⟨0, 16, 1, 0⟩)] } }
def rec1 : SwarmRec := ⟨(msgOf 6).swarm, (msgOf 6).coord, none, false, false, false, none, none, []⟩
def swarmOpen : State := let s := swarmIn 6; { s with swm := { s.swm with recs := [rec1] } }
def swarmOpenOut : State := outOf swarmOpen 6
def stampOn : State := (green.setSvc { green.svc with firstLoad := true }).awr (R.stpInCfg_en 3) 1

/-! ### Witnesses: hypotheses that can be met -/

theorem witness_EmptyQueueAdvancesTheDial_0 : ∃ (s : State), s.pending = [] ∧ s.svc.svc ≠ .dark ∧ s.dial % s.gran = 0 :=
  ⟨amber, by decide +kernel, by decide +kernel, by decide +kernel⟩
theorem witness_EmptyQueueAdvancesTheDial_1 : ∃ (s : State), s.pending = [] ∧ s.svc.svc = .dark :=
  ⟨State.reset, by decide +kernel, by decide +kernel⟩
theorem witness_EveryStepKeepsInvariant_0 : ∃ (s u : State), s.Inv ∧ step s = .next u :=
  ⟨amber, amber.at (amber.dial + amber.gran), ⟨by decide +kernel, by decide +kernel⟩, rfl⟩
theorem witness_DarkIsDeafToCommands_0 : ∃ (c : Instr) (s : State), s.enterDark = s ∧ c.isPower = false :=
  ⟨(.nop 0 0), State.reset, by decide +kernel, by decide +kernel⟩
theorem witness_PowerLossClearsEverything_1 : ∃ (t w : Nat) (s : State), 100 ≤ w :=
  ⟨0, 100, amber, by decide +kernel⟩
theorem witness_PowerLossClearsEverything_2 : ∃ (t w : Nat) (s : State), w < 100 :=
  ⟨0, 99, amber, by decide +kernel⟩
theorem witness_PowerLossClearsEverything_3 : ∃ (t mv ns : Nat) (s : State), mv < 1600 ∧ 1000 ≤ ns :=
  ⟨0, 1599, 1000, amber, by decide +kernel, by decide +kernel⟩
theorem witness_PowerLossClearsEverything_4 : ∃ (t mv ns : Nat) (s : State), (1600 ≤ mv ∨ ns < 1000) :=
  ⟨0, 1600, 1000, amber, by decide +kernel⟩
theorem witness_PowerLossClearsEverything_5 : ∃ (t : Nat) (s : State), s.sec.fl = none ∧ s.sec.mb = none :=
  ⟨0, amber, by decide +kernel, by decide +kernel⟩
theorem witness_PowerLossClearsEverything_6 : ∃ (t w : Nat) (s : State), s.sec.fl = none ∧ s.sec.mb = none ∧ 100 ≤ w :=
  ⟨0, 100, amber, by decide +kernel, by decide +kernel, by decide +kernel⟩
theorem witness_PowerLossClearsEverything_7 : ∃ (t mv ns : Nat) (s : State), s.sec.fl = none ∧ s.sec.mb = none ∧ mv < 1600 ∧ 1000 ≤ ns :=
  ⟨0, 1599, 1000, amber, by decide +kernel, by decide +kernel, by decide +kernel, by decide +kernel⟩
theorem witness_PowerLossClearsEverything_8 : ∃ (t w x : Nat) (s : State), s.sec.fl = some (0, x) ∧ 100 ≤ w :=
  ⟨0, 100, 0, (amber.setSec { amber.sec with fl := some (0, 0) }), by decide +kernel, by decide +kernel⟩
theorem witness_NresetHighBoots_0 : ∃ (t b mv : Nat) (s : State), s.svc.svc = .dark ∧ 1746 ≤ mv ∧ mv ≤ 1854 ∧ b % 4 = 2 :=
  ⟨0, 2, 1746, State.reset, by decide +kernel, by decide +kernel, by decide +kernel, by decide +kernel⟩
theorem witness_NresetHighBoots_1 : ∃ (t b mv : Nat) (s : State), s.svc.svc = .dark ∧ 1746 ≤ mv ∧ mv ≤ 1854 ∧ b % 4 ≠ 2 :=
  ⟨0, 0, 1854, State.reset, by decide +kernel, by decide +kernel, by decide +kernel, by decide +kernel⟩
theorem witness_NresetHighBoots_2 : ∃ (t b mv : Nat) (s : State), (s.svc.svc ≠ .dark ∨ mv < 1746 ∨ 1854 < mv) :=
  ⟨0, 0, 1855, State.reset, by decide +kernel⟩
theorem witness_ClocksAndTrainingComplete_0 : ∃ (t : Nat) (s : State), s.svc.svc = .amber ∧ s.rd R.timeStatus_pll_lock = 0 :=
  ⟨0, amber, by decide +kernel, by decide +kernel⟩
theorem witness_ClocksAndTrainingComplete_1 : ∃ (t : Nat) (s : State), (s.svc.svc = .amber ∨ s.svc.svc = .green) ∧ s.svc.hbmTrained = false ∧ 5 ∉ s.svc.causes :=
  ⟨0, amber, by decide +kernel, by decide +kernel, by decide +kernel⟩
theorem witness_ClocksAndTrainingComplete_2 : ∃ (t : Nat) (s : State), s.svc.svc = .amber ∧ s.svc.convCal = false ∧ s.rd R.timeStatus_pll_lock = 1 ∧ s.rd R.secBoot_recovery = 0 ∧ s.rd R.secBoot_no_image = 0 ∧ 2 ∉ s.svc.causes ∧ 3 ∉ s.svc.causes ∧ s.cal.boot = false :=
  ⟨0, (amber.wr R.timeStatus_pll_lock 1), by decide +kernel, by decide +kernel, by decide +kernel, by decide +kernel, by decide +kernel, by decide +kernel, by decide +kernel, by decide +kernel⟩
theorem witness_ClocksAndTrainingComplete_3 : ∃ (t : Nat) (s : State), s.svc.svc = .amber ∧ s.svc.entry = false ∧ s.fit = true ∧ s.rd R.hiveSvcCtl_green_hold = 0 ∧ s.svc.greenSeen = true :=
  ⟨0, fitAmber, by decide +kernel, by decide +kernel, by decide +kernel, by decide +kernel, by decide +kernel⟩
theorem witness_GreenIsLostAndCleared_0 : ∃ (t c : Nat) (s : State), s.svc.svc = .green ∧ (c = 1 ∨ c = 3 ∨ c = 4 ∨ c = 5) :=
  ⟨0, 3, green, by decide +kernel, by decide +kernel⟩
theorem witness_GreenIsLostAndCleared_1 : ∃ (t : Nat) (s : State), s.svc.svc = .green :=
  ⟨0, green, by decide +kernel⟩
theorem witness_GreenIsLostAndCleared_2 : ∃ (t c : Nat) (s : State), s.svc.svc = .amber ∧ 1 ≤ c ∧ c ≤ 5 ∧ c ≠ 2 :=
  ⟨0, 1, amber, by decide +kernel, by decide +kernel, by decide +kernel, by decide +kernel⟩
theorem witness_GreenIsLostAndCleared_3 : ∃ (t c : Nat) (s : State), s.svc.svc ≠ .dark ∧ c ∈ s.svc.causes ∧ (c = 2 ∨ c = 3) :=
  ⟨0, 3, (lossAmber 3), by decide +kernel, by decide +kernel, by decide +kernel⟩
theorem witness_GreenIsLostAndCleared_4 : ∃ (t : Nat) (s : State), s.svc.svc ≠ .dark ∧ 1 ∈ s.svc.causes :=
  ⟨0, (lossAmber 1), by decide +kernel, by decide +kernel⟩
theorem witness_GreenIsLostAndCleared_5 : ∃ (t : Nat) (s : State), s.svc.svc ≠ .dark ∧ 4 ∈ s.svc.causes :=
  ⟨0, (lossAmber 4), by decide +kernel, by decide +kernel⟩
theorem witness_GreenIsLostAndCleared_6 : ∃ (t : Nat) (s : State), s.svc.svc ≠ .dark ∧ 5 ∈ s.svc.causes :=
  ⟨0, (lossAmber 5), by decide +kernel, by decide +kernel⟩
theorem witness_GreenIsLostAndCleared_7 : ∃ (t : Nat) (s : State), s.svc.svc = .sleep :=
  ⟨0, asleep, by decide +kernel⟩
theorem witness_GreenIsLostAndCleared_8 : ∃ (t c : Nat) (s : State), s.svc.svc = .sleep ∧ (c = 3 ∨ c = 4 ∨ c = 5) :=
  ⟨0, 4, asleep, by decide +kernel, by decide +kernel⟩
theorem witness_GreenIsLostAndCleared_9 : ∃ (t c : Nat) (s : State), (c = 0 ∨ 5 < c) :=
  ⟨0, 6, green, by decide +kernel⟩
theorem witness_GreenIsLostAndCleared_10 : ∃ (t c : Nat) (s : State), c ∉ s.svc.causes :=
  ⟨0, 3, amber, by decide +kernel⟩
theorem witness_PinsAndSleep_0 : ∃ (t : Nat) (s : State), s.svc.svc ≠ .dark ∧ s.svc.muteHigh = true :=
  ⟨0, amber, by decide +kernel, by decide +kernel⟩
theorem witness_PinsAndSleep_1 : ∃ (t : Nat) (s : State), s.svc.svc = .dark ∧ s.svc.muteHigh = true :=
  ⟨0, (State.reset.setSvc { State.reset.svc with muteHigh := true }), by decide +kernel, by decide +kernel⟩
theorem witness_PinsAndSleep_2 : ∃ (t : Nat) (s : State), s.svc.svc ≠ .dark ∧ s.svc.muteHigh = false :=
  ⟨0, (amber.setSvc { amber.svc with muteHigh := false }), by decide +kernel, by decide +kernel⟩
theorem witness_PinsAndSleep_3 : ∃ (t a p : Nat) (s : State), s.svc.svc ≠ .dark ∧ ((a < 200 ∧ 25000 < p) ∨ (200 ≤ a ∧ s.rd R.timeStatus_dial_free = 1)) :=
  ⟨0, 0, 25001, green, by decide +kernel, by decide +kernel⟩
theorem witness_PinsAndSleep_4 : ∃ (t a p : Nat) (s : State), s.svc.svc ≠ .dark ∧ 200 ≤ a ∧ s.rd R.timeStatus_dial_free = 0 :=
  ⟨0, 200, 0, green, by decide +kernel, by decide +kernel, by decide +kernel⟩
theorem witness_PinsAndSleep_5 : ∃ (t : Nat) (s : State), s.svc.svc ≠ .dark ∧ s.rd R.timeStatus_ref_ok = 0 :=
  ⟨0, (amber.wr R.timeStatus_dial_free 1), by decide +kernel, by decide +kernel⟩
theorem witness_PinsAndSleep_6 : ∃ (t : Nat) (s : State), s.svc.svc = .sleep ∧ s.svc.wakeAt = none :=
  ⟨0, (amber.setSvc { amber.svc with svc := .sleep }), by decide +kernel, by decide +kernel⟩
theorem witness_PinsAndSleep_7 : ∃ (t : Nat) (s : State), s.svc.svc ≠ .dark ∧ s.svc.entry = true :=
  ⟨0, (amber.setSvc { amber.svc with entry := true }), by decide +kernel, by decide +kernel⟩
theorem witness_PinsAndSleep_8 : ∃ (t w : Nat) (s : State), s.svc.svc = .sleep ∧ s.svc.wakeAt = some w ∧ w + 230400000 ≤ (s.at t).dial :=
  ⟨230400000, 0, (amber.setSvc { amber.svc with svc := .sleep, wakeAt := some 0 }), by decide +kernel, by decide +kernel, by decide +kernel⟩
theorem witness_LifeLogAndCalendar_0 : ∃ (t : Nat) (s : State), s.svc.svc ≠ .dark ∧ s.life.dueAt ≤ (s.at t).dial :=
  ⟨0, amber, by decide +kernel, by decide +kernel⟩
theorem witness_LifeLogAndCalendar_1 : ∃ (t : Nat) (s : State), (s.svc.svc = .amber ∨ s.svc.svc = .green) ∧ s.rd R.lifeCtl_life_back < 262144 ∧ s.life.reading ≠ none :=
  ⟨0, (amber.setLife { amber.life with reading := some 0 }), by decide +kernel, by decide +kernel, by decide +kernel⟩
theorem witness_LifeLogAndCalendar_2 : ∃ (t : Nat) (s : State), (s.svc.svc = .amber ∨ s.svc.svc = .green) ∧ s.rd R.lifeCtl_life_back < 262144 ∧ s.life.reading = none :=
  ⟨0, amber, by decide +kernel, by decide +kernel, by decide +kernel⟩
theorem witness_LifeLogAndCalendar_3 : ∃ (t k : Nat) (s : State), s.life.reading = some k :=
  ⟨0, 0, (amber.setLife { amber.life with reading := some 0 }), by decide +kernel⟩
theorem witness_LifeLogAndCalendar_4 : ∃ (t : Nat) (s : State), (s.svc.svc = .amber ∨ s.svc.svc = .green) :=
  ⟨0, amber, by decide +kernel⟩
theorem witness_UnmappedWordsReadZero_0 : ∃ (t a again : Nat) (fin : Bool) (s : State), s.svc.svc ≠ .dark ∧ a % 4 = 0 ∧ isAlias a = false ∧ s.reach (a % 2 ^ 32) = .unmapped :=
  ⟨0, 0x70000000, 0, true, amber, by decide +kernel, by decide +kernel, by decide +kernel, by decide +kernel⟩
theorem witness_UnmappedWordsReadZero_1 : ∃ (t a data : Nat) (s : State), s.svc.svc ≠ .dark ∧ a % 4 = 0 ∧ isAlias a = false ∧ s.reach (a % 2 ^ 32) = .unmapped :=
  ⟨0, 0x70000000, 7, amber, by decide +kernel, by decide +kernel, by decide +kernel, by decide +kernel⟩
theorem witness_MisalignedTransfersAreRefused_0 : ∃ (t : Nat) (bs : List Byte) (s : State), s.busUp 0 = true ∧ 4 ≤ bs.length ∧ leNat (bs.take 4) % 4 ≠ 0 :=
  ⟨0, [1#8,0#8,0#8,0#8,9#8], (bus 0), by decide +kernel, by decide +kernel, by decide +kernel⟩
theorem witness_MisalignedTransfersAreRefused_1 : ∃ (t k : Nat) (bs : List Byte) (s : State), s.busUp 0 = true ∧ 4 ≤ bs.length ∧ leNat (bs.take 4) % 4 ≠ 0 :=
  ⟨0, 4, [2#8,0#8,0#8,0#8], (bus 0), by decide +kernel, by decide +kernel, by decide +kernel⟩
theorem witness_MisalignedTransfersAreRefused_2 : ∃ (t : Nat) (bs : List Byte) (s : State), s.busUp 1 = true ∧ 4 ≤ bs.length ∧ leNat (bs.take 4) % 4 ≠ 0 :=
  ⟨0, [3#8,0#8,0#8,0#8,9#8], (bus 1), by decide +kernel, by decide +kernel, by decide +kernel⟩
theorem witness_MisalignedTransfersAreRefused_3 : ∃ (t : Nat) (bs : List Byte) (s : State), s.busUp 1 = true ∧ bs.length = 4 ∧ leNat bs % 4 ≠ 0 :=
  ⟨0, [1#8,0#8,0#8,0#8], (bus 1), by decide +kernel, by decide +kernel, by decide +kernel⟩
theorem witness_MisalignedTransfersAreRefused_4 : ∃ (t a data : Nat) (s : State), s.svc.svc ≠ .dark ∧ a % 4 ≠ 0 :=
  ⟨0, 0x15, 7, amber, by decide +kernel, by decide +kernel⟩
theorem witness_MisalignedTransfersAreRefused_5 : ∃ (t a again : Nat) (fin : Bool) (s : State), s.svc.svc ≠ .dark ∧ a % 4 ≠ 0 :=
  ⟨0, 0x16, 0, true, amber, by decide +kernel, by decide +kernel⟩
theorem witness_TransfersMoveThePointer_0 : ∃ (t : Nat) (bs : List Byte) (s : State), s.busUp 0 = true ∧ bs.length = 4 ∧ leNat bs % 4 = 0 :=
  ⟨0, [4#8,0#8,0#8,0#8], (bus 0), by decide +kernel, by decide +kernel, by decide +kernel⟩
theorem witness_TransfersMoveThePointer_1 : ∃ (t : Nat) (bs : List Byte) (s : State), s.busUp 1 = true ∧ bs.length = 4 ∧ leNat bs % 4 = 0 :=
  ⟨0, [4#8,0#8,0#8,0#8], (bus 1), by decide +kernel, by decide +kernel, by decide +kernel⟩
theorem witness_TransfersMoveThePointer_2 : ∃ (t : Nat) (bs d : List Byte) (s : State), s.busUp 0 = true ∧ bs.length = 4 ∧ d.length = 4 ∧ leNat bs % 4 = 0 :=
  ⟨0, [4#8,0#8,0#8,0#8], [1#8,2#8,3#8,4#8], (bus 0), by decide +kernel, by decide +kernel, by decide +kernel, by decide +kernel⟩
theorem witness_TransfersMoveThePointer_3 : ∃ (t : Nat) (bs d : List Byte) (s : State), s.busUp 1 = true ∧ bs.length = 4 ∧ d.length = 4 ∧ leNat bs % 4 = 0 :=
  ⟨0, [4#8,0#8,0#8,0#8], [1#8,2#8,3#8,4#8], (bus 1), by decide +kernel, by decide +kernel, by decide +kernel, by decide +kernel⟩
theorem witness_TransfersMoveThePointer_4 : ∃ (t k : Nat) (bs : List Byte) (s : State), s.busUp 0 = true ∧ bs.length = 4 ∧ leNat bs % 4 = 0 :=
  ⟨0, 4, [0#8,0#8,0#8,0#8], (bus 0), by decide +kernel, by decide +kernel, by decide +kernel⟩
theorem witness_TransfersMoveThePointer_5 : ∃ (t k : Nat) (s : State), s.busUp 0 = true :=
  ⟨0, 4, (bus 0), by decide +kernel⟩
theorem witness_TransfersMoveThePointer_6 : ∃ (t k : Nat) (s : State), s.busUp 1 = true :=
  ⟨0, 8, (bus 1), by decide +kernel⟩
theorem witness_TransfersMoveThePointer_7 : ∃ (t c : Nat) (bs : List Byte) (s : State), s.busUp 1 = true ∧ c ≠ 0x20 :=
  ⟨0, 0x22, [4#8,0#8,0#8,0#8,1#8,2#8,3#8,4#8], (bus 1), by decide +kernel, by decide +kernel⟩
theorem witness_TransfersMoveThePointer_8 : ∃ (t c : Nat) (bs : List Byte) (s : State), s.busUp 1 = true ∧ c ≠ 0x21 :=
  ⟨0, 0x22, [4#8,0#8,0#8,0#8], (bus 1), by decide +kernel, by decide +kernel⟩
theorem witness_TransfersMoveThePointer_9 : ∃ (t c k : Nat) (s : State), s.busUp 1 = true ∧ c ≠ 0xA0 :=
  ⟨0, 0xA1, 4, (bus 1), by decide +kernel, by decide +kernel⟩
theorem witness_WordAccessesReachTheirWord_0 : ∃ (t a data : Nat) (w : WordRef) (s : State), s.svc.svc ≠ .dark ∧ a % 4 = 0 ∧ isAlias a = false ∧ s.reach (a % 2 ^ 32) = .word w ∧ s.mbBusyWrite w = false :=
  ⟨0, 0x14, 7, (((lookupWord 0x14).getD (fallW))), amber, by decide +kernel, by decide +kernel, by decide +kernel, by decide +kernel, by decide +kernel⟩
theorem witness_WordAccessesReachTheirWord_1 : ∃ (t a data : Nat) (s : State), s.svc.svc ≠ .dark ∧ a % 4 = 0 ∧ isAlias a = false ∧ s.reach (a % 2 ^ 32) = .asleep :=
  ⟨0, 0x200000, 7, asleep, by decide +kernel, by decide +kernel, by decide +kernel, by decide +kernel⟩
theorem witness_WordAccessesReachTheirWord_2 : ∃ (t a data v : Nat) (s : State), s.svc.svc ≠ .dark ∧ a % 4 = 0 ∧ isAlias a = false ∧ s.reach (a % 2 ^ 32) = .locked v :=
  ⟨0, 0x40, 7, 5, ({ amber with locks := [(0x40, 5)] }), by decide +kernel, by decide +kernel, by decide +kernel, by decide +kernel⟩
theorem witness_WordAccessesReachTheirWord_3 : ∃ (t a data : Nat) (w : WordRef) (s : State), s.svc.svc ≠ .dark ∧ a % 4 = 0 ∧ isAlias a = true ∧ s.reach (aliasWord a) = .word w ∧ s.mbBusyWrite w = false :=
  ⟨0, (0x20000000 + 0x14 / 4 * 128), 1, (((lookupWord 0x14).getD (fallW))), amber, by decide +kernel, by decide +kernel, by decide +kernel, by decide +kernel, by decide +kernel⟩
theorem witness_WordAccessesReachTheirWord_4 : ∃ (t a again : Nat) (fin : Bool) (s : State), s.svc.svc ≠ .dark :=
  ⟨0, 0x0, 0, true, amber, by decide +kernel⟩
theorem witness_WordAccessesReachTheirWord_5 : ∃ (t a data : Nat) (s : State), s.svc.svc ≠ .dark ∧ isAlias a = false ∧ (blockOf a).isSome = true ∧ lookupWord a = none ∧ a % 4 = 0 ∧ s.lockOf a = none :=
  ⟨0, 0x40, 7, amber, by decide +kernel, by decide +kernel, by decide +kernel, by decide +kernel, by decide +kernel, by decide +kernel⟩
theorem witness_WordsReadAsPairs_0 : ∃ (t : Nat) (s : State), (s.svc.svc = .amber ∨ s.svc.svc = .green) :=
  ⟨0x123456700, amber, by decide +kernel⟩
theorem witness_WordsReadAsPairs_1 : ∃ (t a : Nat) (s : State), s.svc.svc ≠ .dark ∧ a % 8 = 0 ∧ ((0x4000 ≤ a ∧ a < 0x6000) ∨ (0x8000 ≤ a ∧ a < 0x10000)) :=
  ⟨0, 0x8000, amber, by decide +kernel, by decide +kernel, by decide +kernel⟩
theorem witness_WordsReadAsPairs_2 : ∃ (t : Nat) (i : Fin 32) (s : State), s.svc.svc ≠ .dark :=
  ⟨0, 3, amber, by decide +kernel⟩
theorem witness_WordsReadAsPairs_3 : ∃ (t : Nat) (i : Fin 16) (s : State), s.svc.svc ≠ .dark :=
  ⟨0, 3, amber, by decide +kernel⟩
theorem witness_WindowsCarryIndirectAccesses_0 : ∃ (t x : Nat) (k : Fin 21) (s : State), s.svc.svc ≠ .dark :=
  ⟨0, 5, 4, amber, by decide +kernel⟩
theorem witness_WindowsCarryIndirectAccesses_1 : ∃ (t d : Nat) (k : Fin 21) (s : State), s.svc.svc ≠ .dark :=
  ⟨0, 5, 4, amber, by decide +kernel⟩
theorem witness_WindowsCarryIndirectAccesses_2 : ∃ (t : Nat) (k : Fin 21) (s : State), s.svc.svc ≠ .dark :=
  ⟨0, 4, amber, by decide +kernel⟩
theorem witness_WindowsCarryIndirectAccesses_3 : ∃ (t : Nat) (k : Fin 21) (s : State), s.winUp k = true ∧ (s.win k).fetch = true ∧ (s.win k).posted = [] :=
  ⟨0, 4, (amber.setWin 4 { WinSt.init with fetch := true }), by decide +kernel, by decide +kernel, by decide +kernel⟩
theorem witness_WindowsCarryIndirectAccesses_4 : ∃ (t i d : Nat) (k : Fin 21) (l : List (Nat × Nat)) (s : State), s.winUp k = true ∧ (s.win k).posted = (i, d) :: l ∧ winWord k i = none :=
  ⟨0, 0xFFFFFF, 1, 4, [], (amber.setWin 4 { WinSt.init with posted := [(0xFFFFFF, 1)] }), by decide +kernel, by decide +kernel, by decide +kernel⟩
theorem witness_WindowsCarryIndirectAccesses_5 : ∃ (t i d : Nat) (k : Fin 21) (l : List (Nat × Nat)) (w : WordRef) (s : State), s.winUp k = true ∧ (s.win k).posted = (i, d) :: l ∧ winWord k i = some w :=
  ⟨0, 0, 1, 8, [], (((winWord 8 0).getD fallW)), (amber.setWin 8 { WinSt.init with posted := [(0, 1)] }), by decide +kernel, by decide +kernel, by decide +kernel⟩
theorem witness_AddressesOfTheTarget_0 : ∃ (t a : Nat) (s : State), s.ccc = true ∧ s.rd R.hostI3cCtl_dyn_valid = 0 :=
  ⟨0, 9, amber, by decide +kernel, by decide +kernel⟩
theorem witness_AddressesOfTheTarget_1 : ∃ (t a : Nat) (s : State), s.ccc = true ∧ s.rd R.hostI3cCtl_dyn_valid = 0 :=
  ⟨0, 9, amber, by decide +kernel, by decide +kernel⟩
theorem witness_AddressesOfTheTarget_2 : ∃ (t a : Nat) (s : State), s.ccc = true ∧ s.rd R.hostI3cCtl_dyn_valid = 1 :=
  ⟨0, 9, (bus 0), by decide +kernel, by decide +kernel⟩
theorem witness_AddressesOfTheTarget_3 : ∃ (t : Nat) (s : State), s.ccc = true :=
  ⟨0, (bus 0), by decide +kernel⟩
theorem witness_AddressesOfTheTarget_4 : ∃ (t a : Nat) (s : State), s.ccc = true ∧ s.rd R.hostI3cCtl_dyn_valid ≠ 1 :=
  ⟨0, 9, amber, by decide +kernel, by decide +kernel⟩
theorem witness_CommonCommandCodesAnswer_0 : ∃ (t e : Nat) (s : State), s.ccc = true ∧ e % 2 = 1 :=
  ⟨0, 1, amber, by decide +kernel, by decide +kernel⟩
theorem witness_CommonCommandCodesAnswer_1 : ∃ (t e : Nat) (s : State), s.ccc = true ∧ e % 2 = 1 :=
  ⟨0, 1, amber, by decide +kernel, by decide +kernel⟩
theorem witness_CommonCommandCodesAnswer_2 : ∃ (t n : Nat) (s : State), s.ccc = true :=
  ⟨0, 70000, amber, by decide +kernel⟩
theorem witness_CommonCommandCodesAnswer_3 : ∃ (t n : Nat) (s : State), s.ccc = true :=
  ⟨0, 70000, amber, by decide +kernel⟩
theorem witness_CommonCommandCodesAnswer_4 : ∃ (t : Nat) (s : State), s.ccc = true ∧ s.rd R.hostI3cCtl_dyn_valid = 1 :=
  ⟨0, (bus 0), by decide +kernel, by decide +kernel⟩
theorem witness_CommonCommandCodesAnswer_5 : ∃ (t : Nat) (s : State), s.ccc = true ∧ s.rd R.hostI3cCtl_dyn_valid = 1 :=
  ⟨0, (bus 0), by decide +kernel, by decide +kernel⟩
theorem witness_CommonCommandCodesAnswer_6 : ∃ (t : Nat) (s : State), s.ccc = true ∧ s.rd R.hostI3cCtl_dyn_valid = 1 :=
  ⟨0, (bus 0), by decide +kernel, by decide +kernel⟩
theorem witness_CommonCommandCodesAnswer_7 : ∃ (t : Nat) (s : State), s.ccc = true ∧ s.rd R.hostI3cCtl_dyn_valid = 1 :=
  ⟨0, (bus 0), by decide +kernel, by decide +kernel⟩
theorem witness_CommonCommandCodesAnswer_8 : ∃ (t : Nat) (s : State), s.ccc = true ∧ s.rd R.hostI3cCtl_dyn_valid = 1 :=
  ⟨0, (bus 0), by decide +kernel, by decide +kernel⟩
theorem witness_CommonCommandCodesAnswer_9 : ∃ (t : Nat) (s : State), s.ccc = true ∧ s.rd R.hostI3cCtl_dyn_valid = 1 :=
  ⟨0, (bus 0), by decide +kernel, by decide +kernel⟩
theorem witness_CommonCommandCodesAnswer_10 : ∃ (t : Nat) (s : State), s.ccc = true ∧ s.rd R.hostI3cCtl_dyn_valid = 1 :=
  ⟨0, (bus 0), by decide +kernel, by decide +kernel⟩
theorem witness_CommonCommandCodesAnswer_11 : ∃ (t : Nat) (s : State), s.ccc = true ∧ s.rd R.hostI3cCtl_dyn_valid = 1 :=
  ⟨0, (bus 0), by decide +kernel, by decide +kernel⟩
theorem witness_CommonCommandCodesAnswer_12 : ∃ (t k : Nat) (s : State), s.ccc = true ∧ k ≤ 1 :=
  ⟨0, 1, amber, by decide +kernel, by decide +kernel⟩
theorem witness_CommonCommandCodesAnswer_13 : ∃ (t k : Nat) (b : Bool) (s : State), s.ccc = true ∧ 1 < k :=
  ⟨0, 2, true, amber, by decide +kernel, by decide +kernel⟩
theorem witness_CommonCommandCodesAnswer_14 : ∃ (t : Nat) (s : State), s.ccc = true :=
  ⟨0, (bus 0), by decide +kernel⟩
theorem witness_CommonCommandCodesAnswer_15 : ∃ (t : Nat) (s : State), s.ccc = true :=
  ⟨0, amber, by decide +kernel⟩
theorem witness_CommonCommandCodesAnswer_16 : ∃ (t m : Nat) (s : State), s.ccc = true ∧ m ≠ 0 :=
  ⟨0, 1, amber, by decide +kernel, by decide +kernel⟩
theorem witness_CommonCommandCodesAnswer_17 : ∃ (t : Nat) (s : State), s.svc.svc ≠ .dark :=
  ⟨0, (bus 1), by decide +kernel⟩
theorem witness_InBandInterrupts_0 : ∃ (t : Nat) (s : State), s.svc.svc ≠ .dark ∧ s.i3c.ibiOut = true ∧ s.i3c.ibiEn = true ∧ s.i3c.ibiTry = false ∧ s.i3c.ibiRetry = none ∧ s.i3c.ibiFrom ≤ (s.at t).dial ∧ s.rd R.hostI3cCtl_dyn_valid = 1 ∧ s.summary &&& s.rd R.hostEvtMask_ibi_mask ≠ 0 :=
  ⟨0, ibiReady, by decide +kernel, by decide +kernel, by decide +kernel, by decide +kernel, by decide +kernel, by decide +kernel, by decide +kernel, by decide +kernel⟩
theorem witness_InBandInterrupts_1 : ∃ (t : Nat) (s : State), s.i3c.ibiTry = true :=
  ⟨0, (ibiReady.setI3c { ibiReady.i3c with ibiTry := true }), by decide +kernel⟩
theorem witness_InBandInterrupts_2 : ∃ (t : Nat) (s : State), s.i3c.ibiTry = true :=
  ⟨0, (ibiReady.setI3c { ibiReady.i3c with ibiTry := true }), by decide +kernel⟩
theorem witness_InBandInterrupts_3 : ∃ (t r : Nat) (s : State), s.i3c.ibiRetry = some r ∧ r ≤ (s.at t).dial :=
  ⟨0, 0, (ibiReady.setI3c { ibiReady.i3c with ibiRetry := some 0 }), by decide +kernel, by decide +kernel⟩
theorem witness_UpdateStrobesQueueAndCancel_0 : ∃ (t m : Nat) (s : State), s.svc.svc ≠ .dark ∧ m ≠ 0 :=
  ⟨0, 1, amber, by decide +kernel, by decide +kernel⟩
theorem witness_UpdateStrobesQueueAndCancel_1 : ∃ (t : Nat) (s : State), s.svc.svc ≠ .dark ∧ s.rd R.hiveUpdAtCtl_pending = 1 :=
  ⟨0, (amber.wr R.hiveUpdAtCtl_pending 1), by decide +kernel, by decide +kernel⟩
theorem witness_UpdateStrobesQueueAndCancel_2 : ∃ (t : Nat) (s : State), s.svc.svc ≠ .dark ∧ s.rd R.hiveUpdAtCtl_pending = 0 ∧ (s.at t).dial + 1024 < expand40 (s.rd R.hiveUpdAtLo_at_time_lo + 2 ^ 32 * s.rd R.hiveUpdAtHi_at_time_hi) (s.at t).dial :=
  ⟨0, (amber.wr R.hiveUpdAtLo_at_time_lo 5000), by decide +kernel, by decide +kernel, by decide +kernel⟩
theorem witness_UpdateStrobesQueueAndCancel_3 : ∃ (t : Nat) (s : State), s.svc.svc ≠ .dark ∧ s.rd R.hiveUpdAtCtl_pending = 0 ∧ expand40 (s.rd R.hiveUpdAtLo_at_time_lo + 2 ^ 32 * s.rd R.hiveUpdAtHi_at_time_hi) (s.at t).dial ≤ (s.at t).dial + 1024 :=
  ⟨0, amber, by decide +kernel, by decide +kernel, by decide +kernel⟩
theorem witness_UpdateStrobesQueueAndCancel_4 : ∃ (t : Nat) (s : State), s.svc.svc ≠ .dark ∧ s.strobes = [] :=
  ⟨0, amber, by decide +kernel, by decide +kernel⟩
theorem witness_UpdateStrobesQueueAndCancel_5 : ∃ (t b m : Nat) (s : State), s.svc.svc ≠ .dark ∧ s.strobes = [⟨b, m, true, none, none⟩] ∧ (s.at t).dial < b :=
  ⟨0, 5008, 1, ({ amber with strobes := [⟨5008, 1, true, none, none⟩] }), by decide +kernel, by decide +kernel, by decide +kernel⟩
theorem witness_UpdateStrobesQueueAndCancel_6 : ∃ (t : Nat) (s : State), s.svc.svc ≠ .dark :=
  ⟨0, amber, by decide +kernel⟩
theorem witness_UpdateStrobesQueueAndCancel_7 : ∃ (t : Nat) (s : State), s.svc.svc ≠ .dark ∧ s.strobes = [] :=
  ⟨0, amber, by decide +kernel, by decide +kernel⟩
theorem witness_UpdateStrobesQueueAndCancel_8 : ∃ (t : Nat) (x : Strobe) (c : List (Nat × Nat)) (b : List (Nat × Nat)) (s : State), s.svc.svc ≠ .dark ∧ s.strobes = [x] ∧ x.shadows = some c ∧ x.banks = some b ∧ x.beat ≤ (s.at t).dial :=
  ⟨256, strobe1, [], [], ({ amber with strobes := [strobe1] }), by decide +kernel, by decide +kernel, by decide +kernel, by decide +kernel, by decide +kernel⟩
theorem witness_MailboxVerdicts_0 : ∃ (t : Nat) (b : Bool) (s : State), s.svc.svc ≠ .dark ∧ s.rd R.hostMbStatus_busy = 1 :=
  ⟨0, true, (amber.wr R.hostMbStatus_busy 1), by decide +kernel, by decide +kernel⟩
theorem witness_MailboxVerdicts_1 : ∃ (t : Nat) (b : Bool) (s : State), s.svc.svc ≠ .dark ∧ s.rd R.hostMbStatus_busy ≠ 1 ∧ s.mbShape = false :=
  ⟨0, true, amber, by decide +kernel, by decide +kernel, by decide +kernel⟩
theorem witness_MailboxVerdicts_2 : ∃ (t : Nat) (b : Bool) (s : State), s.svc.svc ≠ .dark ∧ s.rd R.hostMbStatus_busy ≠ 1 ∧ s.mbShape = true ∧ s.mbOp ≠ opATTEST ∧ s.mbTag ≠ s.tagOf :=
  ⟨0, true, (amber.wr R.hostMbOp_opcode opCAL), by decide +kernel, by decide +kernel, by decide +kernel, by decide +kernel, by decide +kernel⟩
theorem witness_MailboxVerdicts_3 : ∃ (t : Nat) (b : Bool) (s : State), s.svc.svc ≠ .dark ∧ s.rd R.hostMbStatus_busy ≠ 1 ∧ s.mbShape = true ∧ s.mbOp ≠ opATTEST ∧ s.mbTag = s.tagOf ∧ s.mbCtr ≤ s.mbLast :=
  ⟨0, true, tagged, by decide +kernel, by decide +kernel, by decide +kernel, by decide +kernel, by decide +kernel, by decide +kernel⟩
theorem witness_MailboxVerdicts_4 : ∃ (t code : Nat) (resp : List Byte) (r : MbRun) (s : State), s.sec.mb = some r ∧ r.out = some (code, resp) :=
  ⟨0, 5, [], (⟨opCAL, 0, some (5, [])⟩), (amber.setSec { amber.sec with mb := some ⟨opCAL, 0, some (5, [])⟩ }), by decide +kernel, by decide +kernel⟩
theorem witness_MailboxVerdicts_5 : ∃ (t : Nat) (r : MbRun) (s : State), s.sec.mb = some r ∧ r.out = none ∧ r.since + mbLimit r.op < (s.at t).dial :=
  ⟨60000000000, (⟨opCAL, 0, none⟩), (mbox opCAL), by decide +kernel, by decide +kernel, by decide +kernel⟩
theorem witness_MailboxVerdicts_6 : ∃ (t : Nat) (s : State), s.svc.svc ≠ .dark ∧ s.rd R.hostMbStatus_busy ≠ 1 ∧ s.mbShape = true ∧ s.mbOp ≠ opATTEST ∧ s.mbTag = s.tagOf ∧ s.mbLast < s.mbCtr ∧ s.mbPermitted = true ∧ s.mbLocked = false :=
  ⟨0, taggedNew, by decide +kernel, by decide +kernel, by decide +kernel, by decide +kernel, by decide +kernel, by decide +kernel, by decide +kernel, by decide +kernel⟩
theorem witness_MailboxVerdicts_7 : ∃ (t : Nat) (b : Bool) (s : State), s.svc.svc ≠ .dark ∧ s.rd R.hostMbStatus_busy ≠ 1 ∧ s.mbShape = true ∧ s.mbOp = opATTEST :=
  ⟨0, true, ((amber.wr R.hostMbOp_opcode opATTEST).wr R.hostMbOp_arg_len 32), by decide +kernel, by decide +kernel, by decide +kernel, by decide +kernel⟩
theorem witness_MailboxVerdicts_8 : ∃ (t : Nat) (b : Bool) (s : State), s.svc.svc ≠ .dark ∧ s.rd R.hostMbStatus_busy ≠ 1 ∧ s.mbShape = true ∧ s.mbOp ≠ opATTEST ∧ s.mbTag = s.tagOf ∧ s.mbLast < s.mbCtr ∧ s.mbPermitted = false :=
  ⟨0, true, (taggedNew.setSvc { taggedNew.svc with svc := .sleep }), by decide +kernel, by decide +kernel, by decide +kernel, by decide +kernel, by decide +kernel, by decide +kernel, by decide +kernel⟩
theorem witness_MailboxVerdicts_9 : ∃ (t : Nat) (b : Bool) (s : State), s.svc.svc ≠ .dark ∧ s.rd R.hostMbStatus_busy ≠ 1 ∧ s.mbShape = true ∧ s.mbOp ≠ opATTEST ∧ s.mbTag = s.tagOf ∧ s.mbLast < s.mbCtr ∧ s.mbPermitted = true ∧ s.mbLocked = true :=
  ⟨0, true, taggedFuse, by decide +kernel, by decide +kernel, by decide +kernel, by decide +kernel, by decide +kernel, by decide +kernel, by decide +kernel, by decide +kernel⟩
theorem witness_MailboxVerdicts_10 : ∃ (t : Nat) (s : State), s.svc.svc ≠ .dark ∧ s.rd R.hostMbStatus_busy ≠ 1 ∧ s.mbShape = true ∧ s.mbOp ≠ opATTEST ∧ s.mbTag = s.tagOf ∧ s.mbLast < s.mbCtr ∧ s.mbPermitted = true ∧ s.mbLocked = false :=
  ⟨0, taggedNew, by decide +kernel, by decide +kernel, by decide +kernel, by decide +kernel, by decide +kernel, by decide +kernel, by decide +kernel, by decide +kernel⟩
theorem witness_MailboxCommandsRun_0 : ∃ (t : Nat) (r : MbRun) (s : State), s.sec.mb = some r ∧ r.out = none ∧ (s.at t).dial ≤ r.since + mbLimit r.op ∧ r.op = opIMAGE :=
  ⟨0, (⟨opIMAGE, 0, none⟩), (mbox opIMAGE), by decide +kernel, by decide +kernel, by decide +kernel, by decide +kernel⟩
theorem witness_MailboxCommandsRun_1 : ∃ (t : Nat) (r : MbRun) (s : State), s.sec.mb = some r ∧ r.out = none ∧ (s.at t).dial ≤ r.since + mbLimit r.op ∧ r.op = opKEY :=
  ⟨0, (⟨opKEY, 0, none⟩), (mbox opKEY), by decide +kernel, by decide +kernel, by decide +kernel, by decide +kernel⟩
theorem witness_MailboxCommandsRun_2 : ∃ (t : Nat) (r : MbRun) (s : State), s.sec.mb = some r ∧ r.out = none ∧ (s.at t).dial ≤ r.since + mbLimit r.op ∧ r.op = opCAL :=
  ⟨0, (⟨opCAL, 0, none⟩), (mbox opCAL), by decide +kernel, by decide +kernel, by decide +kernel, by decide +kernel⟩
theorem witness_MailboxCommandsRun_3 : ∃ (t : Nat) (r : MbRun) (s : State), s.sec.mb = some r ∧ r.out = none ∧ (s.at t).dial ≤ r.since + mbLimit r.op ∧ r.op = opCHAIN ∧ s.mbArg 0 = 1 :=
  ⟨0, (⟨opCHAIN, 0, none⟩), ((mbox opCHAIN).wr (R.hostMbArg_arg 0) 1), by decide +kernel, by decide +kernel, by decide +kernel, by decide +kernel, by decide +kernel⟩
theorem witness_MailboxCommandsRun_4 : ∃ (t : Nat) (r : MbRun) (s : State), s.sec.mb = some r ∧ r.out = none ∧ (s.at t).dial ≤ r.since + mbLimit r.op ∧ r.op = opCHAIN ∧ s.mbArg 0 = 0 :=
  ⟨0, (⟨opCHAIN, 0, none⟩), (mbox opCHAIN), by decide +kernel, by decide +kernel, by decide +kernel, by decide +kernel, by decide +kernel⟩
theorem witness_MailboxCommandsRun_5 : ∃ (t : Nat) (r : MbRun) (s : State), s.sec.mb = some r ∧ r.out = none ∧ (s.at t).dial ≤ r.since + mbLimit r.op ∧ r.op = opOE ∧ s.mbArg 0 = 0 :=
  ⟨0, (⟨opOE, 0, none⟩), (mbox opOE), by decide +kernel, by decide +kernel, by decide +kernel, by decide +kernel, by decide +kernel⟩
theorem witness_MailboxCommandsRun_6 : ∃ (t : Nat) (r : MbRun) (s : State), s.sec.mb = some r ∧ r.out = none ∧ (s.at t).dial ≤ r.since + mbLimit r.op ∧ r.op = opOE ∧ s.mbArg 0 = 1 :=
  ⟨0, (⟨opOE, 0, none⟩), ((mbox opOE).wr (R.hostMbArg_arg 0) 1), by decide +kernel, by decide +kernel, by decide +kernel, by decide +kernel, by decide +kernel⟩
theorem witness_MailboxCommandsRun_7 : ∃ (t : Nat) (r : MbRun) (s : State), s.sec.mb = some r ∧ r.out = none ∧ (s.at t).dial ≤ r.since + mbLimit r.op ∧ r.op = opSLEEP ∧ s.svc.entry = false :=
  ⟨0, (⟨opSLEEP, 0, none⟩), (mbox opSLEEP), by decide +kernel, by decide +kernel, by decide +kernel, by decide +kernel, by decide +kernel⟩
theorem witness_MailboxCommandsRun_8 : ∃ (t : Nat) (r : MbRun) (s : State), s.sec.mb = some r ∧ r.out = none ∧ (s.at t).dial ≤ r.since + mbLimit r.op ∧ r.op = opFUSE ∧ s.mbArg 0 = 1 ∧ s.noHash = true ∧ s.mbArg 1 ≤ 64 ∧ s.mbArg 1 ≤ s.sec.img.svn :=
  ⟨0, (⟨opFUSE, 0, none⟩), ((mbox opFUSE).wr (R.hostMbArg_arg 0) 1), by decide +kernel, by decide +kernel, by decide +kernel, by decide +kernel, by decide +kernel, by decide +kernel, by decide +kernel, by decide +kernel⟩
theorem witness_MailboxCommandsRun_9 : ∃ (t : Nat) (r : MbRun) (s : State), s.sec.mb = some r ∧ r.out = none ∧ (s.at t).dial ≤ r.since + mbLimit r.op ∧ r.op = opFUSE ∧ s.mbArg 0 = 2 ∧ (s.mbArg 1 = 1 ∨ s.mbArg 1 = 2) :=
  ⟨0, (⟨opFUSE, 0, none⟩), ((mbox opFUSE).wr (R.hostMbArg_arg 0) 0x102), by decide +kernel, by decide +kernel, by decide +kernel, by decide +kernel, by decide +kernel, by decide +kernel⟩
theorem witness_MailboxCommandsRun_10 : ∃ (t : Nat) (r : MbRun) (s : State), s.sec.mb = some r ∧ r.out = none ∧ (s.at t).dial ≤ r.since + mbLimit r.op ∧ r.op = opFUSE ∧ s.mbArg 0 = 3 :=
  ⟨0, (⟨opFUSE, 0, none⟩), ((mbox opFUSE).wr (R.hostMbArg_arg 0) 3), by decide +kernel, by decide +kernel, by decide +kernel, by decide +kernel, by decide +kernel⟩
theorem witness_MailboxCommandsRun_11 : ∃ (t : Nat) (r : MbRun) (s : State), s.sec.mb = some r ∧ r.out = none ∧ (s.at t).dial ≤ r.since + mbLimit r.op ∧ r.op = opATTEST :=
  ⟨0, (⟨opATTEST, 0, none⟩), (mbox opATTEST), by decide +kernel, by decide +kernel, by decide +kernel, by decide +kernel⟩
theorem witness_FlashWindowOperations_0 : ∃ (t : Nat) (s : State), ((s.svc.svc = .amber ∨ s.svc.svc = .green)) ∧ s.flAddr % 0x10000 = 0 ∧ (s.at t).flTaken = false :=
  ⟨0, amber, by decide +kernel, by decide +kernel, by decide +kernel⟩
theorem witness_FlashWindowOperations_1 : ∃ (t : Nat) (s : State), ((s.svc.svc = .amber ∨ s.svc.svc = .green)) ∧ s.flAddr % 0x100 = 0 ∧ (s.at t).flTaken = false :=
  ⟨0, amber, by decide +kernel, by decide +kernel, by decide +kernel⟩
theorem witness_FlashWindowOperations_2 : ∃ (t : Nat) (s : State), ((s.svc.svc = .amber ∨ s.svc.svc = .green)) ∧ s.flAddr % 0x100 = 0 ∧ (s.at t).flTaken = false :=
  ⟨0, amber, by decide +kernel, by decide +kernel, by decide +kernel⟩
theorem witness_FlashWindowOperations_3 : ∃ (t : Nat) (s : State), s.svc.svc ≠ .dark ∧ s.flAddr % 0x10000 ≠ 0 :=
  ⟨0, (amber.wr R.secFlAddr_fl_addr 256), by decide +kernel, by decide +kernel⟩
theorem witness_FlashWindowOperations_4 : ∃ (t : Nat) (s : State), s.svc.svc ≠ .dark ∧ s.flAddr % 0x100 ≠ 0 :=
  ⟨0, (amber.wr R.secFlAddr_fl_addr 4), by decide +kernel, by decide +kernel⟩
theorem witness_FlashWindowOperations_5 : ∃ (t : Nat) (x : Nat × Nat) (s : State), s.sec.fl = some x :=
  ⟨0, ((0, 0)), (amber.setSec { amber.sec with fl := some (0, 0) }), by decide +kernel⟩
theorem witness_SequencerCommandsAnswer_0 : ∃ (t : Nat) (n : Fin 64) (s : State), ((s.svc.svc = .amber ∨ s.svc.svc = .green)) ∧ (s.seq n).loading = none ∧ s.halted n = true ∧ s.rd (R.seqStart_start_pc n) ∈ (s.seq n).starts ∧ s.rd (R.seqStart_start_pc n) < 2 ^ 15 :=
  ⟨0, 1, (amber.setSeq 1 { SeqSt.init with starts := [0] }), by decide +kernel, by decide +kernel, by decide +kernel, by decide +kernel, by decide +kernel⟩
theorem witness_SequencerCommandsAnswer_1 : ∃ (t : Nat) (n : Fin 64) (s : State), ((s.svc.svc = .amber ∨ s.svc.svc = .green)) ∧ (s.seq n).loading ≠ none :=
  ⟨0, 1, (amber.setSeq 1 { SeqSt.init with loading := some ⟨emptyImg, none, 0, 0, 0⟩ }), by decide +kernel, by decide +kernel⟩
theorem witness_SequencerCommandsAnswer_2 : ∃ (t : Nat) (n : Fin 64) (s : State), ((s.svc.svc = .amber ∨ s.svc.svc = .green)) ∧ (s.seq n).loading = none ∧ s.halted n = false :=
  ⟨0, 1, (amber.wr (R.seqStatus_run 1) 1), by decide +kernel, by decide +kernel, by decide +kernel⟩
theorem witness_SequencerCommandsAnswer_3 : ∃ (t : Nat) (n : Fin 64) (s : State), ((s.svc.svc = .amber ∨ s.svc.svc = .green)) ∧ (s.seq n).loading = none ∧ s.halted n = true ∧ s.rd (R.seqStart_start_pc n) ∉ (s.seq n).starts :=
  ⟨0, 1, amber, by decide +kernel, by decide +kernel, by decide +kernel, by decide +kernel⟩
theorem witness_SequencerCommandsAnswer_4 : ∃ (t : Nat) (n : Fin 64) (s : State), ((s.svc.svc = .amber ∨ s.svc.svc = .green)) ∧ (s.seq n).loading = none ∧ s.rd (R.seqStatus_halt_why n) = 0 :=
  ⟨0, 1, amber, by decide +kernel, by decide +kernel, by decide +kernel⟩
theorem witness_SequencerCommandsAnswer_5 : ∃ (t : Nat) (n : Fin 64) (s : State), ((s.svc.svc = .amber ∨ s.svc.svc = .green)) ∧ (s.seq n).loading = none ∧ s.halted n = true ∧ s.rd (R.seqStatus_halt_why n) = 1 ∧ (s.seq n).runnable = true ∧ (s.seq n).handler = none ∧ (s.microWord n (s.rd (R.seqPc_pc n))).isSome = true :=
  ⟨0, 0, (((prog 0).wr (R.seqStatus_run 0) 0).wr (R.seqStatus_halt_why 0) 1 |>.setSeq 0 { SeqSt.init with runnable := true }), by decide +kernel, by decide +kernel, by decide +kernel, by decide +kernel, by decide +kernel, by decide +kernel, by decide +kernel⟩
theorem witness_SequencerCommandsAnswer_6 : ∃ (t : Nat) (n : Fin 64) (s : State), ((s.svc.svc = .amber ∨ s.svc.svc = .green)) ∧ s.halted n = true :=
  ⟨0, 1, amber, by decide +kernel, by decide +kernel⟩
theorem witness_SequencerCommandsAnswer_7 : ∃ (t : Nat) (n : Fin 64) (s : State), ((s.svc.svc = .amber ∨ s.svc.svc = .green)) ∧ s.halted n = false ∧ s.waitsSafe n = false :=
  ⟨0, 1, (amber.wr (R.seqStatus_run 1) 1), by decide +kernel, by decide +kernel, by decide +kernel⟩
theorem witness_SequencerCommandsAnswer_8 : ∃ (t : Nat) (n : Fin 64) (s : State), ((s.svc.svc = .amber ∨ s.svc.svc = .green)) ∧ s.waitsSafe n = false :=
  ⟨0, 1, amber, by decide +kernel, by decide +kernel⟩
theorem witness_SequencerCommandsAnswer_9 : ∃ (t : Nat) (n : Fin 64) (s : State), ((s.svc.svc = .amber ∨ s.svc.svc = .green)) ∧ s.halted n = false :=
  ⟨0, 1, (amber.wr (R.seqStatus_run 1) 1), by decide +kernel, by decide +kernel⟩
theorem witness_SequencerCommandsAnswer_10 : ∃ (t : Nat) (n : Fin 64) (s : State), ((s.svc.svc = .amber ∨ s.svc.svc = .green)) ∧ s.halted n = true :=
  ⟨0, 1, amber, by decide +kernel, by decide +kernel⟩
theorem witness_SequencerCommandsAnswer_11 : ∃ (t : Nat) (n : Fin 64) (s : State), ((s.svc.svc = .amber ∨ s.svc.svc = .green)) ∧ s.rd (R.seqCtl_level n) = 1 :=
  ⟨0, 1, ((amber.wr (R.seqCtl_level 1) 1).wr (R.seqStatus_ipend 1) 7), by decide +kernel, by decide +kernel⟩
theorem witness_SetcActsOnItsCounter_0 : ∃ (t w : Nat) (n : Fin 64) (s v : State), (s.at t).ready n = some (w, v) ∧ isSetc 0 w = true :=
  ⟨0, 0x80018007, 0, (prog (0x80018007)), (readyIn (prog (0x80018007))), by decide +kernel, by decide +kernel⟩
theorem witness_SetcActsOnItsCounter_1 : ∃ (t w : Nat) (n : Fin 64) (s v : State), (s.at t).ready n = some (w, v) ∧ isSetc 1 w = true :=
  ⟨0, 0x80000000+0x13*2^15, 0, (prog (0x80000000+0x13*2^15)), (readyIn (prog (0x80000000+0x13*2^15))), by decide +kernel, by decide +kernel⟩
theorem witness_SetcActsOnItsCounter_2 : ∃ (t w : Nat) (n : Fin 64) (s v : State), (s.at t).ready n = some (w, v) ∧ isSetc 2 w = true :=
  ⟨0, 0x80000005+0x23*2^15, 0, (prog (0x80000005+0x23*2^15)), (readyIn (prog (0x80000005+0x23*2^15))), by decide +kernel, by decide +kernel⟩
theorem witness_SetcActsOnItsCounter_3 : ∃ (t w : Nat) (n : Fin 64) (s v : State), (s.at t).ready n = some (w, v) ∧ isSetc 3 w = true :=
  ⟨0, 0x80000005+0x33*2^15, 0, (prog (0x80000005+0x33*2^15)), (readyIn (prog (0x80000005+0x33*2^15))), by decide +kernel, by decide +kernel⟩
theorem witness_PlainStepsAdvance_0 : ∃ (t w : Nat) (n : Fin 64) (s v : State), (s.at t).ready n = some (w, v) ∧ isOp 0 w = true :=
  ⟨0, 0, 0, (prog (0)), (readyIn (prog (0))), by decide +kernel, by decide +kernel⟩
theorem witness_PlainStepsAdvance_1 : ∃ (t w : Nat) (n : Fin 64) (s v : State), (s.at t).ready n = some (w, v) ∧ isOp 2 w = true :=
  ⟨0, 0x20000064, 0, (prog (0x20000064)), (readyIn (prog (0x20000064))), by decide +kernel, by decide +kernel⟩
theorem witness_PlainStepsAdvance_2 : ∃ (t w : Nat) (n : Fin 64) (s v : State), (s.at t).ready n = some (w, v) ∧ isOp 7 w = true ∧ v.count n (mwArg w % 16) = 0 :=
  ⟨0, 0x70000000, 0, (prog (0x70000000)), (readyIn (prog (0x70000000))), by decide +kernel, by decide +kernel, by decide +kernel⟩
theorem witness_PlainStepsAdvance_3 : ∃ (t w : Nat) (n : Fin 64) (s v : State), (s.at t).ready n = some (w, v) ∧ isOp 7 w = true ∧ v.count n (mwArg w % 16) = 1 :=
  ⟨0, 0x70000000, 0, (progc (0x70000000)), (readyIn (progc (0x70000000))), by decide +kernel, by decide +kernel, by decide +kernel⟩
theorem witness_PlainStepsAdvance_4 : ∃ (t w : Nat) (n : Fin 64) (s v : State), (s.at t).ready n = some (w, v) ∧ isOp 7 w = true ∧ 1 < v.count n (mwArg w % 16) ∧ v.count n (mwArg w % 16) < 2 ^ 24 :=
  ⟨0, 0x70008003, 0, (progc (0x70008003)), (readyIn (progc (0x70008003))), by decide +kernel, by decide +kernel, by decide +kernel, by decide +kernel⟩
theorem witness_PlainStepsAdvance_5 : ∃ (t w : Nat) (n : Fin 64) (s v : State), (s.at t).ready n = some (w, v) ∧ isOp 15 w = true :=
  ⟨0, 0xF0000000, 0, (prog (0xF0000000)), (readyIn (prog (0xF0000000))), by decide +kernel, by decide +kernel⟩
theorem witness_FramesOfPlainSteps_0 : ∃ (t w : Nat) (n : Fin 64) (s v : State), (s.at t).ready n = some (w, v) ∧ isOp 0 w = true :=
  ⟨0, 0, 0, (prog (0)), (readyIn (prog (0))), by decide +kernel, by decide +kernel⟩
theorem witness_FramesOfPlainSteps_1 : ∃ (t w : Nat) (n : Fin 64) (s v : State), (s.at t).ready n = some (w, v) ∧ isOp 2 w = true :=
  ⟨0, 0x20000064, 0, (prog (0x20000064)), (readyIn (prog (0x20000064))), by decide +kernel, by decide +kernel⟩
theorem witness_FramesOfPlainSteps_2 : ∃ (t w : Nat) (n : Fin 64) (s v : State), (s.at t).ready n = some (w, v) ∧ isSetc 0 w = true :=
  ⟨0, 0x80000000+0*2^19, 0, (prog (0x80000000+0*2^19)), (readyIn (prog (0x80000000+0*2^19))), by decide +kernel, by decide +kernel⟩
theorem witness_FramesOfPlainSteps_3 : ∃ (t w : Nat) (n : Fin 64) (s v : State), (s.at t).ready n = some (w, v) ∧ isSetc 1 w = true :=
  ⟨0, 0x80000000+1*2^19, 0, (prog (0x80000000+1*2^19)), (readyIn (prog (0x80000000+1*2^19))), by decide +kernel, by decide +kernel⟩
theorem witness_FramesOfPlainSteps_4 : ∃ (t w : Nat) (n : Fin 64) (s v : State), (s.at t).ready n = some (w, v) ∧ isSetc 2 w = true :=
  ⟨0, 0x80000000+2*2^19, 0, (prog (0x80000000+2*2^19)), (readyIn (prog (0x80000000+2*2^19))), by decide +kernel, by decide +kernel⟩
theorem witness_FramesOfPlainSteps_5 : ∃ (t w : Nat) (n : Fin 64) (s v : State), (s.at t).ready n = some (w, v) ∧ isSetc 3 w = true :=
  ⟨0, 0x80000000+3*2^19, 0, (prog (0x80000000+3*2^19)), (readyIn (prog (0x80000000+3*2^19))), by decide +kernel, by decide +kernel⟩
theorem witness_FramesOfPlainSteps_6 : ∃ (t w : Nat) (n : Fin 64) (s v : State), (s.at t).ready n = some (w, v) ∧ isOp 7 w = true :=
  ⟨0, 0x70000000, 0, (prog (0x70000000)), (readyIn (prog (0x70000000))), by decide +kernel, by decide +kernel⟩
theorem witness_PulseAndActionSteps_0 : ∃ (t w : Nat) (n : Fin 64) (s v : State), (s.at t).ready n = some (w, v) ∧ isOp 1 w = true :=
  ⟨0, 0x10000000, 0, (prog (0x10000000)), (readyIn (prog (0x10000000))), by decide +kernel, by decide +kernel⟩
theorem witness_PulseAndActionSteps_1 : ∃ (t w : Nat) (n : Fin 64) (s v : State), (s.at t).ready n = some (w, v) ∧ isOp 11 w = true :=
  ⟨0, 0xB0000000, 0, (prog (0xB0000000)), (readyIn (prog (0xB0000000))), by decide +kernel, by decide +kernel⟩
theorem witness_PulseAndActionSteps_2 : ∃ (t w : Nat) (n : Fin 64) (s v : State), (s.at t).ready n = some (w, v) ∧ isOp 10 w = true :=
  ⟨0, 0xA0000000, 0, (prog (0xA0000000)), (readyIn (prog (0xA0000000))), by decide +kernel, by decide +kernel⟩
theorem witness_PulseAndActionSteps_3 : ∃ (t w : Nat) (n : Fin 64) (s v : State), (s.at t).ready n = some (w, v) ∧ isOp 12 w = true :=
  ⟨0, 0xC0008005, 0, (prog (0xC0008005)), (readyIn (prog (0xC0008005))), by decide +kernel, by decide +kernel⟩
theorem witness_ControlFlowSteps_0 : ∃ (t w : Nat) (n : Fin 64) (s v : State), (s.at t).ready n = some (w, v) ∧ isOp 4 w = true :=
  ⟨0, 0x40000000, 0, (prog (0x40000000)), (readyIn (prog (0x40000000))), by decide +kernel, by decide +kernel⟩
theorem witness_ControlFlowSteps_1 : ∃ (t w : Nat) (n : Fin 64) (s v : State), (s.at t).ready n = some (w, v) ∧ isOp 5 w = true :=
  ⟨0, 0x50000000, 0, (prog (0x50000000)), (readyIn (prog (0x50000000))), by decide +kernel, by decide +kernel⟩
theorem witness_ControlFlowSteps_2 : ∃ (t w : Nat) (n : Fin 64) (s v : State), (s.at t).ready n = some (w, v) ∧ isOp 6 w = true ∧ (v.seq n).handler = none :=
  ⟨0, 0x60000000, 0, (prog (0x60000000)), (readyIn (prog (0x60000000))), by decide +kernel, by decide +kernel, by decide +kernel⟩
theorem witness_ControlFlowSteps_3 : ∃ (t w link d : Nat) (n : Fin 64) (s v : State), (s.at t).ready n = some (w, v) ∧ isOp 6 w = true ∧ (v.seq n).handler = some (link, d) ∧ (v.seq n).depth = d :=
  ⟨0, 0x60000000, 9, 0, 0, (progh (0x60000000)), (readyIn (progh (0x60000000))), by decide +kernel, by decide +kernel, by decide +kernel, by decide +kernel⟩
theorem witness_ControlFlowSteps_4 : ∃ (t w : Nat) (n : Fin 64) (s v : State), (s.at t).ready n = some (w, v) ∧ isOp 3 w = true ∧ (v.seq n).handler = none :=
  ⟨0, 0x30000001, 0, (prog (0x30000001)), (readyIn (prog (0x30000001))), by decide +kernel, by decide +kernel, by decide +kernel⟩
theorem witness_ControlFlowSteps_5 : ∃ (t w : Nat) (n : Fin 64) (s v : State), (s.at t).ready n = some (w, v) ∧ isOp 9 w = true ∧ (v.seq n).handler = none :=
  ⟨0, 0x90000001, 0, (prog (0x90000001)), (readyIn (prog (0x90000001))), by decide +kernel, by decide +kernel, by decide +kernel⟩
theorem witness_ControlFlowSteps_6 : ∃ (t a hzn ways target : Nat) (cs : CSet) (b : Bool) (n : Fin 64) (s : State), (s.seq n).wait = .verdict a hzn cs ways target b none ∧ a + hzn ≤ (s.at t).dial ∧ (s.seq n).faults = [] ∧ s.halted n = false :=
  ⟨0, 0, 0, 1, 0, cs0, false, 0, ((prog 0).setSeq 0 { SeqSt.init with wait := .verdict 0 0 cs0 1 0 false none }), by decide +kernel, by decide +kernel, by decide +kernel, by decide +kernel⟩
theorem witness_ShotAndCommitSteps_0 : ∃ (t w : Nat) (n : Fin 64) (s v : State), (s.at t).ready n = some (w, v) ∧ isShot false w = true ∧ v.rd (R.seqStatus_in_shot n) = 1 :=
  ⟨0, 0xD0000000, 0, (progs (0xD0000000)), (readyIn (progs (0xD0000000))), by decide +kernel, by decide +kernel, by decide +kernel⟩
theorem witness_ShotAndCommitSteps_1 : ∃ (t w : Nat) (n : Fin 64) (s v : State), (s.at t).ready n = some (w, v) ∧ isShot false w = true ∧ v.rd (R.seqStatus_in_shot n) ≠ 1 :=
  ⟨0, 0xD0000000, 0, (prog (0xD0000000)), (readyIn (prog (0xD0000000))), by decide +kernel, by decide +kernel, by decide +kernel⟩
theorem witness_ShotAndCommitSteps_2 : ∃ (t w : Nat) (n : Fin 64) (s v : State), (s.at t).ready n = some (w, v) ∧ isShot true w = true ∧ v.rd (R.seqStatus_in_shot n) = 0 :=
  ⟨0, 0xD0008000, 0, (prog (0xD0008000)), (readyIn (prog (0xD0008000))), by decide +kernel, by decide +kernel, by decide +kernel⟩
theorem witness_ShotAndCommitSteps_3 : ∃ (t w : Nat) (n : Fin 64) (s v : State), (s.at t).ready n = some (w, v) ∧ isShot true w = true ∧ v.rd (R.seqStatus_in_shot n) ≠ 0 :=
  ⟨0, 0xD0008000, 0, (progs (0xD0008000)), (readyIn (progs (0xD0008000))), by decide +kernel, by decide +kernel, by decide +kernel⟩
theorem witness_ShotAndCommitSteps_4 : ∃ (t w : Nat) (n : Fin 64) (s v : State), (s.at t).ready n = some (w, v) ∧ isCommit 0 w = true :=
  ⟨0, 0xE0000000, 0, (prog (0xE0000000)), (readyIn (prog (0xE0000000))), by decide +kernel, by decide +kernel⟩
theorem witness_ShotAndCommitSteps_5 : ∃ (t w : Nat) (n : Fin 64) (s v : State), (s.at t).ready n = some (w, v) ∧ isCommit 1 w = true :=
  ⟨0, 0xE0080000, 0, (prog (0xE0080000)), (readyIn (prog (0xE0080000))), by decide +kernel, by decide +kernel⟩
theorem witness_ShotAndCommitSteps_6 : ∃ (t w : Nat) (n : Fin 64) (s v : State), (s.at t).ready n = some (w, v) ∧ isCommit 2 w = true ∧ v.txnState (mwArg w % 16) = tFREE :=
  ⟨0, 0xE0100000, 0, (prog (0xE0100000)), (readyIn (prog (0xE0100000))), by decide +kernel, by decide +kernel, by decide +kernel⟩
theorem witness_ShotAndCommitSteps_7 : ∃ (t w : Nat) (n : Fin 64) (s v : State), (s.at t).ready n = some (w, v) ∧ isCommit 2 w = true ∧ v.txnState (mwArg w % 16) = tOPEN :=
  ⟨0, 0xE0100000, 0, (progo (0xE0100000)), (readyIn (progo (0xE0100000))), by decide +kernel, by decide +kernel, by decide +kernel⟩
theorem witness_WaitsEnd_0 : ∃ (t : Nat) (n : Fin 64) (s : State), (s.seq n).wait = .runAhead ∧ s.anchor n ≤ (s.at t).dial + 16384 ∧ (s.seq n).handler = none :=
  ⟨0, 0, ((prog 0).setSeq 0 { SeqSt.init with wait := .runAhead }), by decide +kernel, by decide +kernel, by decide +kernel⟩
theorem witness_WaitsEnd_1 : ∃ (t : Nat) (n : Fin 64) (c : DescChk) (s : State), (s.seq n).checks = [c] ∧ c.bad = false ∧ (s.seq n).wait = .checks ∧ (s.seq n).handler = none :=
  ⟨0, 0, (chk0 false), ((prog 0).setSeq 0 { SeqSt.init with wait := .checks, checks := [chk0 false] }), by decide +kernel, by decide +kernel, by decide +kernel, by decide +kernel⟩
theorem witness_WaitsEnd_2 : ∃ (t : Nat) (n : Fin 64) (c : DescChk) (l : List DescChk) (s : State), (s.seq n).checks = c :: l ∧ c.bad = true :=
  ⟨0, 0, (chk0 true), [], ((prog 0).setSeq 0 { SeqSt.init with wait := .checks, checks := [chk0 true] }), by decide +kernel, by decide +kernel⟩
theorem witness_WaitsEnd_3 : ∃ (t src a0 y : Nat) (x : Nat × Nat) (dl : Option Nat) (n : Fin 64) (s : State), (s.seq n).wait = .waitt src a0 dl x ∧ s.trigger n src a0 dl = some y ∧ s.waiting n = true :=
  ⟨0, 40, 0, 0, ((0, 6)), none, 0, ((prog 0).setSeq 0 { SeqSt.init with wait := .waitt 40 0 none (0, 6), trigs := [(40, 0)] }), by decide +kernel, by decide +kernel, by decide +kernel⟩
theorem witness_WaitsEnd_4 : ∃ (t src a0 d : Nat) (x : Nat × Nat) (n : Fin 64) (s : State), (s.seq n).wait = .waitt src a0 (some d) x ∧ d ≤ (s.at t).dial ∧ s.trigger n src a0 (some d) = none ∧ s.waiting n = true :=
  ⟨0, 0, 0, 0, ((0, 6)), 0, ((prog 0).setSeq 0 { SeqSt.init with wait := .waitt 0 0 (some 0) (0, 6) }), by decide +kernel, by decide +kernel, by decide +kernel, by decide +kernel⟩
theorem witness_WaitsEnd_5 : ∃ (t : Nat) (b : Fin 32) (n : Fin 64) (s : State), s.members b = [n.val] ∧ s.waitsAt b n = true :=
  ⟨0, 3, 0, (((prog 0).awr (R.seqBar_bar_memb 0) 8).setSeq 0 { SeqSt.init with wait := .sync 3 0 none }), by decide +kernel, by decide +kernel⟩
theorem witness_WaitsEnd_6 : ∃ (t b a0 d : Nat) (n : Fin 64) (s : State), (s.seq n).wait = .sync b a0 (some d) ∧ d ≤ (s.at t).dial ∧ s.waiting n = true :=
  ⟨0, 3, 0, 0, 0, ((prog 0).setSeq 0 { SeqSt.init with wait := .sync 3 0 (some 0) }), by decide +kernel, by decide +kernel, by decide +kernel⟩
theorem witness_FaultsScrubAndLoads_0 : ∃ (t : Nat) (n : Fin 64) (f : FaultRep) (l : List FaultRep) (s : State), (s.seq n).faults = f :: l ∧ s.halted n = true ∧ f.shot = none :=
  ⟨0, 0, (⟨3, 7, none⟩), [], (amber.setSeq 0 { SeqSt.init with faults := [⟨3, 7, none⟩] }), by decide +kernel, by decide +kernel, by decide +kernel⟩
theorem witness_FaultsScrubAndLoads_1 : ∃ (t : Nat) (n : Fin 64) (f : FaultRep) (l : List FaultRep) (s : State), (s.seq n).faults = f :: l ∧ s.halted n = false :=
  ⟨0, 0, (⟨3, 7, none⟩), [], ((prog 0).setSeq 0 { SeqSt.init with faults := [⟨3, 7, none⟩] }), by decide +kernel, by decide +kernel⟩
theorem witness_FaultsScrubAndLoads_2 : ∃ (t : Nat) (n : Fin 64) (l : List (Nat × Nat × Nat)) (s : State), s.svc.svc ≠ .dark :=
  ⟨0, 0, ([(0, 0, 1)]), (prog 0), by decide +kernel⟩
theorem witness_FaultsScrubAndLoads_3 : ∃ (t : Nat) (p : Fin 8) (im : ProgImage) (x : Pkt) (s v : State), (s.at t).takePkt p (ptIs 0xB) = some (x, v) ∧ s.svc.svc ≠ .dark ∧ s.svc.hbmTrained = true ∧ s.role p = 1 :=
  ⟨0, 0, emptyImg, (pk 0xB), (inbox 0xB), (inboxOut 0xB), by decide +kernel, by decide +kernel, by decide +kernel, by decide +kernel⟩
theorem witness_FaultsScrubAndLoads_4 : ∃ (t : Nat) (n : Fin 64) (r : LoadReq) (s : State), s.svc.svc ≠ .dark ∧ (s.seq n).loading = some r :=
  ⟨0, 1, (⟨emptyImg, none, 0, 0, 0⟩), (amber.setSeq 1 { SeqSt.init with loading := some ⟨emptyImg, none, 0, 0, 0⟩ }), by decide +kernel, by decide +kernel⟩
theorem witness_CellsPlayAndJump_0 : ∃ (t x : Nat) (n : Fin 64) (c : Fin 8) (s : State), s.svc.svc ≠ .dark ∧ (s.at t).nextStart n c = some x :=
  ⟨512, (((((green.setCell 1 { CellSt.init with waiting := [pulse0] }).at 512).nextStart 0 1).getD 0)), 0, 1, (green.setCell 1 { CellSt.init with waiting := [pulse0] }), by decide +kernel, by decide +kernel⟩
theorem witness_CellsPlayAndJump_1 : ∃ (t : Nat) (n : Fin 64) (c : Fin 8) (s : State), s.svc.svc ≠ .dark :=
  ⟨0, 0, 1, green, by decide +kernel⟩
theorem witness_CellsPlayAndJump_2 : ∃ (t : Nat) (n : Fin 64) (c : Fin 8) (p : Pulse) (g : Seg) (s : State), s.svc.svc ≠ .dark ∧ (s.cell (8 * n + c)).play = some (p, g) ∧ p.stop = none ∧ g.b0 + 16 * g.d.length ≤ (s.at t).dial :=
  ⟨1600, 0, 1, pulse0, (seg0 0), (playing 0), by decide +kernel, by decide +kernel, by decide +kernel, by decide +kernel⟩
theorem witness_CellsPlayAndJump_3 : ∃ (t x : Nat) (n : Fin 64) (c : Fin 8) (p : Pulse) (g : Seg) (s : State), s.svc.svc ≠ .dark ∧ (s.cell (8 * n + c)).play = some (p, g) ∧ p.stop = some x ∧ x ≤ (s.at t).dial ∧ x ≤ g.b0 + 16 * g.d.length :=
  ⟨16, 16, 0, 1, ({ pulse0 with stop := some 16 }), (seg0 0), (green.setCell 1 { CellSt.init with play := some ({ pulse0 with stop := some 16 }, seg0 0) }), by decide +kernel, by decide +kernel, by decide +kernel, by decide +kernel, by decide +kernel⟩
theorem witness_CellsPlayAndJump_4 : ∃ (t : Nat) (n : Fin 64) (c : Fin 8) (s : State), ((s.svc.svc = .amber ∨ s.svc.svc = .green)) ∧ (s.cell (8 * n + c)).play = none :=
  ⟨0, 0, 1, green, by decide +kernel, by decide +kernel⟩
theorem witness_CellsPlayAndJump_5 : ∃ (t : Nat) (n : Fin 64) (c : Fin 8) (s : State), ((s.svc.svc = .amber ∨ s.svc.svc = .green)) ∧ (s.cell (8 * n + c)).play.isSome = true :=
  ⟨0, 0, 1, (playing 0), by decide +kernel, by decide +kernel⟩
theorem witness_CellsPlayAndJump_6 : ∃ (t v : Nat) (n : Fin 64) (s : State), ((s.svc.svc = .amber ∨ s.svc.svc = .green)) :=
  ⟨0, 5, 0, green, by decide +kernel⟩
theorem witness_CellsPlayAndJump_7 : ∃ (t : Nat) (n : Fin 64) (c : Fin 8) (p : Pulse) (g : Seg) (s : State), s.svc.svc ≠ .dark ∧ (s.cell (8 * n + c)).play = some (p, g) ∧ p.stop = none ∧ g.d.envSrc = 2 ∧ g.deadAt = none ∧ (∀ e ∈ s.cache, e.1 / 65536 ≠ n ∨ e.2.mark = 0) ∧ 256 + (s.cell (8 * n + c)).fill < needBy g ((s.at t).dial + 461) ∧ p.iss.shot = none :=
  ⟨4096, 0, 1, pulse0, (seg0 2), (playing 2), by decide +kernel, by decide +kernel, by decide +kernel, by decide +kernel, by decide +kernel, by decide +kernel, by decide +kernel, by decide +kernel⟩
theorem witness_CellsPlayAndJump_8 : ∃ (t : Nat) (n : Fin 64) (p : Fin 2) (s : State), ((s.svc.svc = .amber ∨ s.svc.svc = .green)) :=
  ⟨0, 0, 1, green, by decide +kernel⟩
theorem witness_CellsPlayAndJump_9 : ∃ (t : Nat) (n : Fin 64) (c : Fin 8) (s : State), s.svc.svc ≠ .dark :=
  ⟨4096, 0, 1, (playing 2), by decide +kernel⟩
theorem witness_CellsPlayAndJump_10 : ∃ (t : Nat) (n : Fin 64) (c : Fin 8) (s : State), s.svc.svc = .sleep :=
  ⟨0, 0, 1, asleep, by decide +kernel⟩
theorem witness_WindowsRecordsAndTrailers_0 : ∃ (t : Nat) (n : Fin 64) (c : Fin 8) (w : Win) (s : State), nextWin (s.lane (8 * n + c)).wins = some w ∧ s.converting = true ∧ tFirst w.mFirst ≤ (s.at t).dial :=
  ⟨1024, 0, 1, win0, ((green.wr R.timeStatus_pll_lock 1).setLane 1 { LaneSt.init with wins := [win0] }), by decide +kernel, by decide +kernel, by decide +kernel⟩
theorem witness_WindowsRecordsAndTrailers_1 : ∃ (t : Nat) (n : Fin 64) (c : Fin 8) (o : OpenWin) (x : List Int) (s : State), (s.lane (8 * n + c)).ending = [] ∧ (s.lane (8 * n + c)).cur = some o ∧ 32 * o.last + 307 ≤ (s.at t).dial ∧ s.svc.svc ≠ .dark :=
  ⟨4096, 0, 1, owin0, [], (green.setLane 1 { LaneSt.init with cur := some owin0 }), by decide +kernel, by decide +kernel, by decide +kernel, by decide +kernel⟩
theorem witness_WindowsRecordsAndTrailers_2 : ∃ (t : Nat) (n : Fin 64) (c : Fin 8) (o : OpenWin) (l : List OpenWin) (x : List Int) (s : State), (s.lane (8 * n + c)).ending = o :: l ∧ 32 * o.last + 307 ≤ (s.at t).dial ∧ s.svc.svc ≠ .dark :=
  ⟨4096, 0, 1, owin0, [], [], (green.setLane 1 { LaneSt.init with ending := [owin0] }), by decide +kernel, by decide +kernel, by decide +kernel⟩
theorem witness_WindowsRecordsAndTrailers_3 : ∃ (t : Nat) (n : Fin 64) (r : RecQ) (l : List RecQ) (s : State), s.svc.svc ≠ .dark ∧ (s.comb n).recs = r :: l ∧ (s.at t).earlierRec n r.tLast r.lane = false :=
  ⟨0, 0, (⟨0, 0, 0, none⟩), [], (green.setComb 0 { CombSt.init with recs := [⟨0, 0, 0, none⟩] }), by decide +kernel, by decide +kernel, by decide +kernel⟩
theorem witness_WindowsRecordsAndTrailers_4 : ∃ (t e : Nat) (n : Fin 64) (x : Shot) (s : State), s.svc.svc ≠ .dark ∧ ((s.at t).settleNow n).shotDone n = some (x, e) ∧ s.svc.muteHigh = true :=
  ⟨100000, 1, 0, shot0, (green.setSeq 0 { SeqSt.init with shots := [shot0] }), by decide +kernel, by decide +kernel, by decide +kernel⟩
theorem witness_WindowsRecordsAndTrailers_5 : ∃ (t : Nat) (n : Fin 64) (s : State), s.svc.svc ≠ .dark :=
  ⟨0, 0, green, by decide +kernel⟩
theorem witness_WindowsRecordsAndTrailers_6 : ∃ (t : Nat) (n : Fin 64) (c : Fin 8) (w : Win) (s : State), (s.lane (8 * n + c)).wins = [w] ∧ (s.lane (8 * n + c)).cur = none ∧ s.converting = true ∧ tFirst w.mFirst ≤ (s.at t).dial ∧ firstTaken w.mFirst w.iss.arr = w.mFirst ∧ w.cut = none :=
  ⟨1024, 0, 1, win0, ((green.wr R.timeStatus_pll_lock 1).setLane 1 { LaneSt.init with wins := [win0] }), by decide +kernel, by decide +kernel, by decide +kernel, by decide +kernel, by decide +kernel, by decide +kernel⟩
theorem witness_WindowsRecordsAndTrailers_7 : ∃ (t : Nat) (n : Fin 64) (c : Fin 8) (o : OpenWin) (x : List Int) (s : State), (s.lane (8 * n + c)).ending = [] ∧ (s.lane (8 * n + c)).cur = some o ∧ 32 * o.last + 307 ≤ (s.at t).dial ∧ o.force3 = true ∧ s.svc.svc ≠ .dark :=
  ⟨4096, 0, 1, ({ owin0 with force3 := true }), [], (green.setLane 1 { LaneSt.init with cur := some { owin0 with force3 := true } }), by decide +kernel, by decide +kernel, by decide +kernel, by decide +kernel, by decide +kernel⟩
theorem witness_WindowsRecordsAndTrailers_8 : ∃ (t : Nat) (n : Fin 64) (r : RecQ) (l : List RecQ) (s : State), s.svc.svc ≠ .dark ∧ (s.comb n).recs = r :: l ∧ (s.at t).earlierRec n r.tLast r.lane = false ∧ s.rd (R.rdStatus_ring_bad n) = 0 ∧ (s.rd (R.rdResWr_res_wr n) + 1) % s.ringSize n ≠ s.rd (R.rdResRd_res_rd n) :=
  ⟨0, 0, (⟨0, 0, 0, none⟩), [], (green.setComb 0 { CombSt.init with recs := [⟨0, 0, 0, none⟩] }), by decide +kernel, by decide +kernel, by decide +kernel, by decide +kernel, by decide +kernel⟩
theorem witness_WindowsRecordsAndTrailers_9 : ∃ (t : Nat) (n : Fin 64) (x : Spec) (s : State), s.svc.svc ≠ .dark ∧ (s.comb n).specs = [x] ∧ x.way = none ∧ x.ts ≤ (s.at t).dial + 562 :=
  ⟨0, 0, spec0, (green.setComb 0 { CombSt.init with specs := [spec0] }), by decide +kernel, by decide +kernel, by decide +kernel, by decide +kernel⟩
theorem witness_WindowsRecordsAndTrailers_10 : ∃ (t : Nat) (n : Fin 64) (s : State), s.svc.svc ≠ .dark ∧ (∀ x ∈ (s.comb n).specs, x.way ≠ none ∨ (s.at t).dial + 562 < x.ts) :=
  ⟨0, 0, green, by decide +kernel, by decide +kernel⟩
theorem witness_SlotClearNeedsEverySequencerHalted_0 : ∃ (t : Nat) (s : State), s.svc.svc ≠ .dark ∧ s.allHalted = true :=
  ⟨0, (amber.wr (R.decSlotLo_valid 7) 1), by decide +kernel, by decide +kernel⟩
theorem witness_SlotClearNeedsEverySequencerHalted_1 : ∃ (t : Nat) (s : State), s.svc.svc ≠ .dark ∧ s.allHalted = false :=
  ⟨0, (prog 0), by decide +kernel, by decide +kernel⟩
theorem witness_TagWordsAndSlots_0 : ∃ (t : Nat) (k : Fin 4096) (p : Pub) (s : State), s.svc.svc ≠ .dark ∧ s.dec.pubs = [p] ∧ p.slot = k ∧ p.due ≤ (s.at t).dial :=
  ⟨0, 5, pub5, ({ green with dec := { green.dec with pubs := [pub5] } }), by decide +kernel, by decide +kernel, by decide +kernel, by decide +kernel⟩
theorem witness_TagWordsAndSlots_1 : ∃ (t x : Nat) (p : Fin 8) (s v : State), (s.at t).takeWord p 1 = some (x, v) :=
  ⟨0, 1, 0, (vin 1), (vinOut 1), by decide +kernel⟩
theorem witness_TagWordsAndSlots_2 : ∃ (t x : Nat) (p : Fin 8) (s v : State), (s.at t).takeWord p 2 = some (x, v) :=
  ⟨0, 2, 0, (vin 2), (vinOut 2), by decide +kernel⟩
theorem witness_TagWordsAndSlots_3 : ∃ (t x : Nat) (p : Fin 8) (s v : State), (s.at t).takeWord p 3 = some (x, v) :=
  ⟨0, 3, 0, (vin 3), (vinOut 3), by decide +kernel⟩
theorem witness_TransactionsStageAndDecide_0 : ∃ (t : Nat) (s : State), ((s.svc.svc = .amber ∨ s.svc.svc = .green)) ∧ s.txnState (s.rd R.txnSel_txn) = tFREE :=
  ⟨0, amber, by decide +kernel, by decide +kernel⟩
theorem witness_TransactionsStageAndDecide_1 : ∃ (t : Nat) (s : State), ((s.svc.svc = .amber ∨ s.svc.svc = .green)) ∧ s.txnState (s.rd R.txnSel_txn) ≠ tFREE :=
  ⟨0, (amber.wr (R.txnState_state 0) tOPEN), by decide +kernel, by decide +kernel⟩
theorem witness_TransactionsStageAndDecide_2 : ∃ (t : Nat) (s : State), ((s.svc.svc = .amber ∨ s.svc.svc = .green)) ∧ s.txnState (s.rd R.txnSel_txn) ≠ tOPEN :=
  ⟨0, amber, by decide +kernel, by decide +kernel⟩
theorem witness_TransactionsStageAndDecide_3 : ∃ (t : Nat) (s : State), ((s.svc.svc = .amber ∨ s.svc.svc = .green)) ∧ s.txnState (s.rd R.txnSel_txn) = tOPEN ∧ s.rd (R.txnState_image (s.rd R.txnSel_txn)) = 0 ∧ (4096 ≤ (s.txn (s.rd R.txnSel_txn)).ents.length ∨ entryOk (s.rd R.txnStageKind_kind) (s.rd R.txnStageAddr_target) (s.rd R.txnStageKind_run_len) = false) :=
  ⟨0, ((amber.wr (R.txnState_state 0) tOPEN).wr R.txnStageKind_kind 7), by decide +kernel, by decide +kernel, by decide +kernel, by decide +kernel⟩
theorem witness_TransactionsStageAndDecide_4 : ∃ (t : Nat) (s : State), ((s.svc.svc = .amber ∨ s.svc.svc = .green)) ∧ s.txnState (s.rd R.txnSel_txn) = tOPEN ∧ s.rd (R.txnState_image (s.rd R.txnSel_txn)) = 0 ∧ (s.txn (s.rd R.txnSel_txn)).ents = [] ∧ s.rd R.txnStageKind_kind = 4 ∧ s.rd R.txnStageAddr_target < 256 :=
  ⟨0, ((amber.wr (R.txnState_state 0) tOPEN).wr R.txnStageKind_kind 4), by decide +kernel, by decide +kernel, by decide +kernel, by decide +kernel, by decide +kernel, by decide +kernel⟩
theorem witness_TransactionsStageAndDecide_5 : ∃ (t : Nat) (s : State), ((s.svc.svc = .amber ∨ s.svc.svc = .green)) ∧ s.txnState (s.rd R.txnSel_txn) ≠ tOPEN ∧ s.rd R.txnCmd_cmode ≠ 3 :=
  ⟨0, amber, by decide +kernel, by decide +kernel, by decide +kernel⟩
theorem witness_TransactionsStageAndDecide_6 : ∃ (t : Nat) (s : State), ((s.svc.svc = .amber ∨ s.svc.svc = .green)) ∧ s.txnState (s.rd R.txnSel_txn) = tOPEN ∧ s.rd R.txnCmd_cmode = 0 ∧ s.stageBad (s.rd R.txnSel_txn) = false :=
  ⟨0, (amber.wr (R.txnState_state 0) tOPEN), by decide +kernel, by decide +kernel, by decide +kernel, by decide +kernel⟩
theorem witness_TransactionsStageAndDecide_7 : ∃ (t : Nat) (s : State), ((s.svc.svc = .amber ∨ s.svc.svc = .green)) ∧ s.txnState (s.rd R.txnSel_txn) = tFREE :=
  ⟨0, amber, by decide +kernel, by decide +kernel⟩
theorem witness_TransactionsStageAndDecide_8 : ∃ (t : Nat) (s : State), ((s.svc.svc = .amber ∨ s.svc.svc = .green)) ∧ s.txnState (s.rd R.txnSel_txn) = tOPEN ∧ (s.txn (s.rd R.txnSel_txn)).ents = [] :=
  ⟨0, (amber.wr (R.txnState_state 0) tOPEN), by decide +kernel, by decide +kernel, by decide +kernel⟩
theorem witness_TransactionsStageAndDecide_9 : ∃ (t b : Nat) (x : Fin 16) (s : State), (s.at t).txnBeat x = some b ∧ b ≤ (s.at t).dial + 1024 ∧ s.txnState x = tPENDING :=
  ⟨0, 512, 2, pend2, by decide +kernel, by decide +kernel, by decide +kernel⟩
theorem witness_TransactionsStageAndDecide_10 : ∃ (t b : Nat) (x : Fin 16) (s : State), s.svc.svc ≠ .dark ∧ (s.at t).txnBeat x = some b ∧ b ≤ (s.at t).dial ∧ s.txnState x = tPENDING :=
  ⟨512, 512, 2, pend2, by decide +kernel, by decide +kernel, by decide +kernel, by decide +kernel⟩
theorem witness_SwarmMessagesTravel_0 : ∃ (t : Nat) (s : State), ((s.svc.svc = .amber ∨ s.svc.svc = .green)) ∧ s.swm.running = true :=
  ⟨0, ({ amber with swm := { amber.swm with running := true } }), by decide +kernel, by decide +kernel⟩
theorem witness_SwarmMessagesTravel_1 : ∃ (t : Nat) (s : State), ((s.svc.svc = .amber ∨ s.svc.svc = .green)) ∧ s.swm.running = false ∧ s.swarmParts = [] :=
  ⟨0, amber, by decide +kernel, by decide +kernel, by decide +kernel⟩
theorem witness_SwarmMessagesTravel_2 : ∃ (t : Nat) (s : State), s.swm.running = true ∧ s.swm.t ≤ (s.at t).dial + s.swm.guard :=
  ⟨0, ({ amber with swm := { amber.swm with running := true } }), by decide +kernel, by decide +kernel⟩
theorem witness_SwarmMessagesTravel_3 : ∃ (t : Nat) (p : Fin 8) (m : SwarmMsg) (s v : State), (s.at t).takeSwarm p 1 = some (m, v) ∧ v.inChain = true ∧ m.dest = v.myId :=
  ⟨0, 0, (msgOf 1), (swarmIn 1), (swarmOut 1), by decide +kernel, by decide +kernel, by decide +kernel⟩
theorem witness_SwarmMessagesTravel_4 : ∃ (t : Nat) (p : Fin 8) (m : SwarmMsg) (s v : State), (s.at t).takeSwarm p 2 = some (m, v) ∧ v.inChain = true ∧ m.dest = v.myId ∧ v.swm.running = false :=
  ⟨0, 0, (msgOf 2), (swarmIn 2), (swarmOut 2), by decide +kernel, by decide +kernel, by decide +kernel, by decide +kernel⟩
theorem witness_SwarmMessagesTravel_5 : ∃ (t : Nat) (p : Fin 8) (m : SwarmMsg) (s v : State), (s.at t).takeSwarm p 3 = some (m, v) ∧ v.inChain = true ∧ v.flooded m = false :=
  ⟨0, 0, (msgOf 3), (swarmIn 3), (swarmOut 3), by decide +kernel, by decide +kernel, by decide +kernel⟩
theorem witness_SwarmMessagesTravel_6 : ∃ (t : Nat) (p : Fin 8) (m : SwarmMsg) (s v : State), (s.at t).takeSwarm p 4 = some (m, v) ∧ v.inChain = true ∧ m.dest = v.myId ∧ v.swm.running = false :=
  ⟨0, 0, (msgOf 4), (swarmIn 4), (swarmOut 4), by decide +kernel, by decide +kernel, by decide +kernel, by decide +kernel⟩
theorem witness_SwarmMessagesTravel_7 : ∃ (t : Nat) (p : Fin 8) (m : SwarmMsg) (s v : State), (s.at t).takeSwarm p 5 = some (m, v) ∧ v.inChain = true ∧ v.flooded m = false :=
  ⟨0, 0, (msgOf 5), (swarmIn 5), (swarmOut 5), by decide +kernel, by decide +kernel, by decide +kernel⟩
theorem witness_SwarmMessagesTravel_8 : ∃ (t : Nat) (p : Fin 8) (m : SwarmMsg) (s v : State), (s.at t).takeSwarm p 6 = some (m, v) ∧ v.inChain = true ∧ v.flooded m = false ∧ (v.floodOut m (some p.val)).findRec m.coord m.swarm = none :=
  ⟨0, 0, (msgOf 6), (swarmIn 6), (swarmOut 6), by decide +kernel, by decide +kernel, by decide +kernel, by decide +kernel⟩
theorem witness_SwarmMessagesTravel_9 : ∃ (t : Nat) (p : Fin 8) (m : SwarmMsg) (s v : State), (s.at t).takeSwarm p 7 = some (m, v) ∧ v.inChain = true ∧ m.dest = v.myId ∧ v.swm.asks = [] :=
  ⟨0, 0, (msgOf 7), (swarmIn 7), (swarmOut 7), by decide +kernel, by decide +kernel, by decide +kernel, by decide +kernel⟩
theorem witness_SwarmMessagesTravel_10 : ∃ (t : Nat) (p : Fin 8) (m : SwarmMsg) (s v : State), (s.at t).takeSwarm p 1 = some (m, v) ∧ v.inChain = true ∧ m.dest ≠ v.myId :=
  ⟨0, 0, (msgOf 1), (swarmFar 1), (swarmFarOut 1), by decide +kernel, by decide +kernel, by decide +kernel⟩
theorem witness_SwarmMessagesTravel_11 : ∃ (t : Nat) (p : Fin 8) (m : SwarmMsg) (s v : State), (s.at t).takeSwarm p 2 = some (m, v) ∧ v.inChain = true ∧ m.dest ≠ v.myId :=
  ⟨0, 0, (msgOf 2), (swarmFar 2), (swarmFarOut 2), by decide +kernel, by decide +kernel, by decide +kernel⟩
theorem witness_SwarmMessagesTravel_12 : ∃ (t : Nat) (p : Fin 8) (m : SwarmMsg) (s v : State), (s.at t).takeSwarm p 4 = some (m, v) ∧ v.inChain = true ∧ m.dest ≠ v.myId :=
  ⟨0, 0, (msgOf 4), (swarmFar 4), (swarmFarOut 4), by decide +kernel, by decide +kernel, by decide +kernel⟩
theorem witness_SwarmMessagesTravel_13 : ∃ (t : Nat) (p : Fin 8) (m : SwarmMsg) (s v : State), (s.at t).takeSwarm p 7 = some (m, v) ∧ v.inChain = true ∧ m.dest ≠ v.myId :=
  ⟨0, 0, (msgOf 7), (swarmFar 7), (swarmFarOut 7), by decide +kernel, by decide +kernel, by decide +kernel⟩
theorem witness_SwarmMessagesTravel_14 : ∃ (t a b d : Nat) (s : State), s.swm.asks = [(a, b, d)] ∧ d + msTicks ≤ (s.at t).dial :=
  ⟨30000000, 1, 2, 0, ({ amber with swm := { amber.swm with asks := [(1, 2, 0)] } }), by decide +kernel, by decide +kernel⟩
theorem witness_SwarmMessagesTravel_15 : ∃ (t : Nat) (p : Fin 8) (m : SwarmMsg) (s v : State), (s.at t).takeSwarm p 2 = some (m, v) ∧ v.inChain = true ∧ m.dest = v.myId ∧ v.swm.running = true ∧ m.coord = v.myId ∧ m.swarm = v.rd R.swmCtl_swarm_no ∧ v.rd R.swmStatus_phase = 1 ∧ m.sender ∈ v.swm.parts ∧ m.code = 0 :=
  ⟨0, 0, (msgOf 2), (swarmRun 2 1), (swarmRunOut 2 1), by decide +kernel, by decide +kernel, by decide +kernel, by decide +kernel, by decide +kernel, by decide +kernel, by decide +kernel, by decide +kernel, by decide +kernel⟩
theorem witness_SwarmMessagesTravel_16 : ∃ (t : Nat) (p : Fin 8) (m : SwarmMsg) (s v : State), (s.at t).takeSwarm p 4 = some (m, v) ∧ v.inChain = true ∧ m.dest = v.myId ∧ v.swm.running = true ∧ m.coord = v.myId ∧ m.swarm = v.rd R.swmCtl_swarm_no ∧ v.rd R.swmStatus_phase = 2 ∧ m.sender ∈ v.swm.parts ∧ v.dial + v.swm.guard ≤ v.swm.t :=
  ⟨0, 0, (msgOf 4), (swarmRun 4 2), (swarmRunOut 4 2), by decide +kernel, by decide +kernel, by decide +kernel, by decide +kernel, by decide +kernel, by decide +kernel, by decide +kernel, by decide +kernel, by decide +kernel⟩
theorem witness_SwarmMessagesTravel_17 : ∃ (t : Nat) (p : Fin 8) (m : SwarmMsg) (s v : State), (s.at t).takeSwarm p 7 = some (m, v) ∧ v.inChain = true ∧ m.dest = v.myId ∧ v.swm.asks = [(m.coord, m.swarm, 0)] :=
  ⟨0, 0, (msgOf 7), swarmAsk, swarmAskOut, by decide +kernel, by decide +kernel, by decide +kernel, by decide +kernel⟩
theorem witness_SwarmMessagesTravel_18 : ∃ (t d : Nat) (s : State), ((s.svc.svc = .amber ∨ s.svc.svc = .green)) ∧ s.swm.running = false ∧ s.swarmParts = [d] ∧ ((4 * s.swarmL1 + 1792 + s.swarmG : Nat) : Int) ≤ diff40 (s.rd R.swmTLo_t_lo + 2 ^ 32 * s.rd R.swmTHi_t_hi) (s.at t).dial ∧ 2 * s.swarmL1 + 1024 ≤ s.swarmG ∧ s.rd R.swmCtl_self = 0 :=
  ⟨0, 3, swarmReady, by decide +kernel, by decide +kernel, by decide +kernel, by decide +kernel, by decide +kernel, by decide +kernel⟩
theorem witness_SwarmMessagesTravel_19 : ∃ (t : Nat) (p : Fin 8) (m : SwarmMsg) (r : SwarmRec) (o : Nat) (s v : State), (s.at t).takeSwarm p 6 = some (m, v) ∧ v.inChain = true ∧ v.flooded m = false ∧ (v.floodOut m (some p.val)).findRec m.coord m.swarm = some r ∧ r.outcome = some o :=
  ⟨0, 0, (msgOf 6), rec0, 0, swarmKnown, swarmKnownOut, by decide +kernel, by decide +kernel, by decide +kernel, by decide +kernel, by decide +kernel⟩
theorem witness_SwarmMessagesTravel_20 : ∃ (t : Nat) (p : Fin 8) (m : SwarmMsg) (r : SwarmRec) (s v : State), (s.at t).takeSwarm p 6 = some (m, v) ∧ v.inChain = true ∧ v.flooded m = false ∧ (v.floodOut m (some p.val)).findRec m.coord m.swarm = some r ∧ r.outcome = none :=
  ⟨0, 0, (msgOf 6), rec1, swarmOpen, swarmOpenOut, by decide +kernel, by decide +kernel, by decide +kernel, by decide +kernel, by decide +kernel⟩
theorem witness_PortsOverRangeAndSettle_0 : ∃ (t : Nat) (p : Fin 64) (s : State), s.converting = true :=
  ⟨0, 17, (green.wr R.timeStatus_pll_lock 1), by decide +kernel⟩
theorem witness_PortsOverRangeAndSettle_1 : ∃ (t : Nat) (p : Fin 64) (s : State), s.converting = true ∧ (s.comb p).settleEnd = none :=
  ⟨0, 17, (green.wr R.timeStatus_pll_lock 1), by decide +kernel, by decide +kernel⟩
theorem witness_PortsOverRangeAndSettle_2 : ∃ (t e : Nat) (p : Fin 64) (s : State), s.converting = true ∧ (s.comb p).settleEnd = some e ∧ (s.at t).dial < e ∧ (s.comb p).ovrRun = none ∧ t % 2 = 0 :=
  ⟨0, 4096, 17, ((green.wr R.timeStatus_pll_lock 1).setComb 17 { CombSt.init with settleEnd := some 4096 }), by decide +kernel, by decide +kernel, by decide +kernel, by decide +kernel, by decide +kernel⟩
theorem witness_PortsOverRangeAndSettle_3 : ∃ (t : Nat) (p : Fin 64) (s : State), s.converting = true ∧ (s.comb p).settleEnd = none ∧ (s.comb p).ovrRun = none :=
  ⟨0, 17, (green.wr R.timeStatus_pll_lock 1), by decide +kernel, by decide +kernel, by decide +kernel⟩
theorem witness_PortsOverRangeAndSettle_4 : ∃ (t : Nat) (o : Nat × Bool) (p : Fin 64) (s : State), (s.comb p).ovrRun = some o ∧ o.1 + 104 ≤ (s.at t).dial :=
  ⟨256, ((0, true)), 17, (green.setComb 17 { CombSt.init with ovrRun := some (0, true) }), by decide +kernel, by decide +kernel⟩
theorem witness_PortsOverRangeAndSettle_5 : ∃ (t : Nat) (o : Nat × Bool) (p : Fin 64) (s : State), (s.comb p).ovrRun = some o ∧ o.1 + 104 ≤ (s.at t).dial ∧ (s.comb p).settleEnd = none :=
  ⟨256, ((0, true)), 17, (green.setComb 17 { CombSt.init with ovrRun := some (0, true) }), by decide +kernel, by decide +kernel, by decide +kernel⟩
theorem witness_PortsOverRangeAndSettle_6 : ∃ (t e : Nat) (p : Fin 64) (s : State), (s.comb p).settleEnd = some e ∧ e ≤ (s.at t).dial :=
  ⟨256, 0, 17, (green.setComb 17 { CombSt.init with settleEnd := some 0 }), by decide +kernel, by decide +kernel⟩
theorem witness_PortsOverRangeAndSettle_7 : ∃ (t b : Nat) (p : Fin 64) (s : State), s.svc.svc ≠ .dark ∧ (s.at t).bndBeat p = some b :=
  ⟨0, ((((bnd1).at 0).bndBeat 3).getD 0), 3, bnd1, by decide +kernel, by decide +kernel⟩
theorem witness_PortsOverRangeAndSettle_8 : ∃ (t b : Nat) (p : Fin 64) (s : State), s.svc.svc ≠ .dark ∧ (s.at t).bndBeat p = some b ∧ (s.seq p).resume = none ∧ (s.at t).calPending p = false :=
  ⟨0, ((((bnd0).at 0).bndBeat 3).getD 0), 3, bnd0, by decide +kernel, by decide +kernel, by decide +kernel, by decide +kernel⟩
theorem witness_PortsOverRangeAndSettle_9 : ∃ (t b : Nat) (p : Fin 64) (s : State), s.svc.svc ≠ .dark ∧ (s.at t).bndBeat p = some b ∧ (s.seq p).resume.isSome = true :=
  ⟨0, ((((bnd1).at 0).bndBeat 3).getD 0), 3, bnd1, by decide +kernel, by decide +kernel, by decide +kernel⟩
theorem witness_PortsOverRangeAndSettle_10 : ∃ (t b : Nat) (p : Fin 64) (s : State), s.svc.svc ≠ .dark ∧ (s.at t).bndBeat p = some b ∧ (s.at t).betweenShots p = true ∧ (s.at t).calPending p = true ∧ (s.seq p).calAt + 25600 ≤ (s.at t).dial :=
  ⟨25600, ((((calDue1).at 25600).bndBeat 3).getD 0), 3, calDue1, by decide +kernel, by decide +kernel, by decide +kernel, by decide +kernel, by decide +kernel⟩
theorem witness_CaptureRuns_0 : ∃ (t : Nat) (s : State), s.svc.svc = .amber :=
  ⟨0, amber, by decide +kernel⟩
theorem witness_CaptureRuns_1 : ∃ (t : Nat) (s : State), ((s.svc.svc = .amber ∨ s.svc.svc = .green)) ∧ (s.capMask.filter fun p => decide (s.capState p ≠ cIDLE)) = [] :=
  ⟨0, amber, by decide +kernel, by decide +kernel⟩
theorem witness_CaptureRuns_2 : ∃ (t : Nat) (s : State), s.svc.svc = .green :=
  ⟨0, green, by decide +kernel⟩
theorem witness_CaptureRuns_3 : ∃ (t : Nat) (s : State), ((s.svc.svc = .amber ∨ s.svc.svc = .green)) :=
  ⟨0, green, by decide +kernel⟩
theorem witness_CaptureRuns_4 : ∃ (t : Nat) (s : State), ((s.svc.svc = .amber ∨ s.svc.svc = .green)) :=
  ⟨0, green, by decide +kernel⟩
theorem witness_CaptureRuns_5 : ∃ (t : Nat) (p : Fin 64) (l : List Int) (s : State), s.svc.svc = .green :=
  ⟨0, 1, [], green, by decide +kernel⟩
theorem witness_CaptureRuns_6 : ∃ (t : Nat) (p : Fin 64) (s : State), s.svc.svc = .green :=
  ⟨0, 1, green, by decide +kernel⟩
theorem witness_CaptureRuns_7 : ∃ (t : Nat) (p : Fin 64) (l : List Int) (s : State), s.svc.svc ≠ .dark :=
  ⟨0, 1, [], green, by decide +kernel⟩
theorem witness_CaptureRuns_8 : ∃ (t m : Nat) (p : Fin 64) (s v : State), v = (s.at t).capSettle p ((s.at t).dial + 1) ∧ v.svc.svc = .green ∧ v.capState p ≠ cIDLE ∧ v.ard (R.capTrig_en_timeout p) = 1 ∧ (v.comb p).settleEnd = none ∧ m = (v.cap p).toFrom + max 1 (v.ard (R.capTimeout_to_len p)) ∧ v.dial / 32 = m :=
  ⟨(32 * capM), capM, 1, capd, (((capd).at (32 * capM)).capSettle 1 (((capd).at (32 * capM)).dial + 1)), by decide +kernel, by decide +kernel, by decide +kernel, by decide +kernel, by decide +kernel, by decide +kernel, by decide +kernel⟩
theorem witness_CaptureRuns_9 : ∃ (t k : Nat) (p : Fin 64) (s v : State), v = (s.at t).capSettle p ((s.at t).dial + 1) ∧ v.svc.svc = .green ∧ v.capState p = cWAIT ∧ k = v.ard (R.capAuto_auto_to p) ∧ k ≠ 0 ∧ (v.comb p).settleEnd = none ∧ (v.cap p).autoFrom + 25600 * k ≤ v.dial :=
  ⟨25600000, 1, 1, capd, (((capd).at 25600000).capSettle 1 (((capd).at 25600000).dial + 1)), by decide +kernel, by decide +kernel, by decide +kernel, by decide +kernel, by decide +kernel, by decide +kernel, by decide +kernel⟩
theorem witness_BiasCodesStageAndLoad_0 : ∃ (t v : Nat) (n : Fin 64) (b : Fin 4) (s : State), ((s.svc.svc = .amber ∨ s.svc.svc = .green)) :=
  ⟨0, 7, 1, 2, green, by decide +kernel⟩
theorem witness_BiasCodesStageAndLoad_1 : ∃ (t : Nat) (n : Fin 64) (s : State), ((s.svc.svc = .amber ∨ s.svc.svc = .green)) :=
  ⟨0, 1, green, by decide +kernel⟩
theorem witness_BiasCodesStageAndLoad_2 : ∃ (t : Nat) (n : Fin 64) (s : State), ((s.svc.svc = .amber ∨ s.svc.svc = .green)) ∧ s.rd (R.biasStatus_tripped n) = 0 :=
  ⟨0, 1, green, by decide +kernel, by decide +kernel⟩
theorem witness_BiasCodesStageAndLoad_3 : ∃ (t : Nat) (n : Fin 64) (s : State), ((s.svc.svc = .amber ∨ s.svc.svc = .green)) ∧ s.rd (R.biasStatus_tripped n) ≠ 0 :=
  ⟨0, 1, (green.wr (R.biasStatus_tripped 1) 1), by decide +kernel, by decide +kernel⟩
theorem witness_BiasCodesStageAndLoad_4 : ∃ (t : Nat) (n : Fin 64) (l : GroupLoad) (s : State), s.grpLoads n = [l] ∧ l.beat ≤ (s.at t).dial ∧ l.arr + 1024 ≤ l.beat ∧ l.iss = none :=
  ⟨2048, 1, (⟨2048, 0, none⟩), (green.setLoads 1 [⟨2048, 0, none⟩]), by decide +kernel, by decide +kernel, by decide +kernel, by decide +kernel⟩
theorem witness_BiasCodesStageAndLoad_5 : ∃ (t : Nat) (n : Fin 64) (b : Fin 4) (s : State), ((s.svc.svc = .amber ∨ s.svc.svc = .green)) ∧ s.rd (R.biasStatus_tripped n) = 2 ^ b.val ∧ (s.biasOut (4 * n + b)).cond = 0 :=
  ⟨0, 1, 2, ((green.wr (R.biasStatus_tripped 1) 4).setBias 6 { BiasSt.init with cond := 0 }), by decide +kernel, by decide +kernel, by decide +kernel⟩
theorem witness_BiasOutputsHoldAndTrip_0 : ∃ (t : Nat) (n : Fin 64) (b : Fin 4) (f : Flux) (s : State), (s.biasOut (4 * n + b)).fluxes = [f] ∧ f.b0 ≤ (s.at t).dial :=
  ⟨0, 1, 2, flux0, (green.setBias 6 { BiasSt.init with fluxes := [flux0] }), by decide +kernel, by decide +kernel⟩
theorem witness_BiasOutputsHoldAndTrip_1 : ∃ (t : Nat) (n : Fin 64) (b : Fin 4) (f : Flux) (s : State), (s.biasOut (4 * n + b)).flux = some f ∧ f.fin ≤ (s.at t).dial ∧ f.hold = false :=
  ⟨256, 1, 2, flux0, (green.setBias 6 { BiasSt.init with flux := some flux0 }), by decide +kernel, by decide +kernel, by decide +kernel⟩
theorem witness_BiasOutputsHoldAndTrip_2 : ∃ (t e : Nat) (n : Fin 64) (b : Fin 4) (s : State), (s.biasOut (4 * n + b)).holdEnd = some e ∧ e ≤ (s.at t).dial :=
  ⟨0, 0, 1, 2, (green.setBias 6 { BiasSt.init with holdEnd := some 0 }), by decide +kernel, by decide +kernel⟩
theorem witness_BiasOutputsHoldAndTrip_3 : ∃ (t g : Nat) (mv : Int) (n : Fin 64) (b : Fin 4) (s : State), s.svc.svc ≠ .dark ∧ s.supervised (4 * n + b) 0 = true ∧ 2850 ≤ mv.natAbs ∧ g + qualTicks (s.ard (R.biasCfg_open_q (biasDie (4 * n + b)) (biasLocal (4 * n + b)))) ≤ (s.at t).dial :=
  ⟨51200, 0, -2850, 1, 2, sup3, by decide +kernel, by decide +kernel, by decide +kernel, by decide +kernel⟩
theorem witness_BiasOutputsHoldAndTrip_4 : ∃ (t : Nat) (n : Fin 64) (b : Fin 4) (s : State), s.svc.svc ≠ .dark ∧ s.supervised (4 * n + b) 1 = true ∧ (s.biasOut (4 * n + b)).cond.testBit 0 = true ∧ (s.biasOut (4 * n + b)).ocAt + qualTicks (s.ard (R.biasCfg_lim_q (biasDie (4 * n + b)) (biasLocal (4 * n + b)))) ≤ (s.at t).dial :=
  ⟨256000, 1, 2, (sup3.setBias 6 { BiasSt.init with cond := 1 }), by decide +kernel, by decide +kernel, by decide +kernel, by decide +kernel⟩
theorem witness_BiasOutputsHoldAndTrip_5 : ∃ (t g : Nat) (mv : Int) (n : Fin 64) (b : Fin 4) (s : State), s.svc.svc ≠ .dark ∧ s.supervised (4 * n + b) 0 = true ∧ mv.natAbs < 2850 :=
  ⟨51200, 0, 2849, 1, 2, sup3, by decide +kernel, by decide +kernel, by decide +kernel⟩
theorem witness_BiasOutputsHoldAndTrip_6 : ∃ (t g : Nat) (mv : Int) (n : Fin 64) (b : Fin 4) (s : State), s.svc.svc ≠ .dark ∧ s.supervised (4 * n + b) 0 = true ∧ 2850 ≤ mv.natAbs ∧ (s.at t).dial < g + qualTicks (s.ard (R.biasCfg_open_q (biasDie (4 * n + b)) (biasLocal (4 * n + b)))) :=
  ⟨0, 0, 2850, 1, 2, sup3, by decide +kernel, by decide +kernel, by decide +kernel, by decide +kernel⟩
theorem witness_BiasOutputsHoldAndTrip_7 : ∃ (t : Nat) (n : Fin 64) (b : Fin 4) (i : Int) (s : State), s.svc.svc ≠ .dark ∧ s.supervised (4 * n + b) 1 = true ∧ 2 ^ 19 * s.fullScale (4 * n + b) * limPercent (s.ard (R.biasCfg_lim_lvl (biasDie (4 * n + b)) (biasLocal (4 * n + b)))) < i.natAbs * 100 :=
  ⟨0, 1, 2, 20000000, sup3, by decide +kernel, by decide +kernel, by decide +kernel⟩
theorem witness_BiasOutputsHoldAndTrip_8 : ∃ (t : Nat) (n : Fin 64) (b : Fin 4) (i : Int) (s : State), s.svc.svc ≠ .dark ∧ s.supervised (4 * n + b) 1 = true ∧ i.natAbs * 100 ≤ 2 ^ 19 * s.fullScale (4 * n + b) * limPercent (s.ard (R.biasCfg_lim_lvl (biasDie (4 * n + b)) (biasLocal (4 * n + b)))) :=
  ⟨0, 1, 2, 0, sup3, by decide +kernel, by decide +kernel, by decide +kernel⟩
theorem witness_BiasOutputsHoldAndTrip_9 : ∃ (t : Nat) (q : Fin 4) (s : State), s.svc.svc ≠ .dark :=
  ⟨0, 1, green, by decide +kernel⟩
theorem witness_MarkersStampsAndCodeDensity_0 : ∃ (t : Nat) (n : Fin 64) (s : State), s.svc.svc ≠ .dark :=
  ⟨0, 1, green, by decide +kernel⟩
theorem witness_MarkersStampsAndCodeDensity_1 : ∃ (t : Nat) (n : Fin 64) (s : State), ((s.svc.svc = .amber ∨ s.svc.svc = .green)) ∧ (s.mkr n).low ≠ 0 :=
  ⟨0, 1, mlow, by decide +kernel, by decide +kernel⟩
theorem witness_MarkersStampsAndCodeDensity_2 : ∃ (t : Nat) (n : Fin 64) (s : State), ((s.svc.svc = .amber ∨ s.svc.svc = .green)) ∧ (s.mkr n).low = 0 :=
  ⟨0, 1, mfree, by decide +kernel, by decide +kernel⟩
theorem witness_MarkersStampsAndCodeDensity_3 : ∃ (t code : Nat) (mv : Int) (i : Fin 50) (s : State), i.val < 32 ∧ s.takesEdges i = true ∧ ((s.at t).stampFollow i mv).takesEdges i = true ∧ (((s.at t).stampFollow i mv).stamp i).high ≠ (s.stamp i).high :=
  ⟨0, 5, 900, 3, stampOn, by decide +kernel, by decide +kernel, by decide +kernel, by decide +kernel⟩
theorem witness_MarkersStampsAndCodeDensity_4 : ∃ (t code : Nat) (mv : Int) (i : Fin 50) (s : State), i.val < 32 ∧ (s.takesEdges i = false ∨ (((s.at t).stampFollow i mv).stamp i).high = (s.stamp i).high) :=
  ⟨0, 5, 900, 3, green, by decide +kernel, by decide +kernel⟩
theorem witness_MarkersStampsAndCodeDensity_5 : ∃ (t : Nat) (s : State), ((s.svc.svc = .amber ∨ s.svc.svc = .green)) ∧ (s.at t).cdBusy = true :=
  ⟨0, (green.wr R.stpCd_cd_busy 1), by decide +kernel, by decide +kernel⟩
theorem witness_MarkersStampsAndCodeDensity_6 : ∃ (t : Nat) (s : State), ((s.svc.svc = .amber ∨ s.svc.svc = .green)) ∧ (s.at t).cdBusy = false :=
  ⟨0, green, by decide +kernel, by decide +kernel⟩
theorem witness_MarkersStampsAndCodeDensity_7 : ∃ (t : Nat) (l : List Nat) (c : CdSt) (s : State), s.cd = some c ∧ c.half = none :=
  ⟨0, [], (⟨3, none, 0⟩), ({ green with cd := some ⟨3, none, 0⟩ }), by decide +kernel, by decide +kernel⟩
theorem witness_MarkersStampsAndCodeDensity_8 : ∃ (l a : List Nat) (c : CdSt) (s : State), s.cd = some c ∧ c.half = some a ∧ lutsAgree a (lutOf l (Config.freeValue s.free)) = true :=
  ⟨[], lutOf [] (Config.freeValue green.free), ⟨3, some (lutOf [] (Config.freeValue green.free)), 0⟩,
    { green with cd := some ⟨3, some (lutOf [] (Config.freeValue green.free)), 0⟩ }, rfl, rfl, by
      show lutsAgree (lutOf [] (Config.freeValue green.free)) (lutOf [] (Config.freeValue green.free)) = true
      simp [lutsAgree]⟩
theorem witness_MarkersStampsAndCodeDensity_9 : ∃ (t code : Nat) (mv : Int) (i : Fin 50) (s : State), 32 ≤ i.val ∧ s.takesEdges i = true ∧ 0 < mv :=
  ⟨0, 5, 1, 40, green, by decide +kernel, by decide +kernel, by decide +kernel⟩
theorem witness_MarkersStampsAndCodeDensity_10 : ∃ (t code : Nat) (mv : Int) (i : Fin 50) (s : State), 32 ≤ i.val ∧ (s.takesEdges i = false ∨ mv ≤ 0) :=
  ⟨0, 5, 0, 40, green, by decide +kernel, by decide +kernel⟩
theorem witness_MarkersStampsAndCodeDensity_11 : ∃ (l a : List Nat) (c : CdSt) (s : State), s.cd = some c ∧ c.half = some a ∧ lutsAgree a (lutOf l (Config.freeValue s.free)) = false ∧ c.bad < 3 :=
  ⟨List.replicate 16 65536, [], ⟨3, some [], 0⟩, { green with cd := some ⟨3, some [], 0⟩ }, rfl, rfl, by decide +kernel, by decide⟩
theorem witness_MarkersStampsAndCodeDensity_12 : ∃ (l a : List Nat) (c : CdSt) (s : State), s.cd = some c ∧ c.half = some a ∧ lutsAgree a (lutOf l (Config.freeValue s.free)) = false ∧ 3 ≤ c.bad :=
  ⟨List.replicate 16 65536, [], ⟨3, some [], 3⟩, { green with cd := some ⟨3, some [], 3⟩ }, rfl, rfl, by decide +kernel, by decide⟩
theorem witness_MeasurementUnitsPost_0 : ∃ (t : Nat) (k : Fin 16) (s : State), ((s.svc.svc = .amber ∨ s.svc.svc = .green)) ∧ s.rd (R.stpMCmd_busy k) = 1 :=
  ⟨0, 2, (green.wr (R.stpMCmd_busy 2) 1), by decide +kernel, by decide +kernel⟩
theorem witness_MeasurementUnitsPost_1 : ∃ (t : Nat) (k : Fin 16) (s : State), ((s.svc.svc = .amber ∨ s.svc.svc = .green)) ∧ s.rd (R.stpMCmd_busy k) = 0 ∧ 50 ≤ s.rd (R.stpMCfg_start_src k) :=
  ⟨0, 2, (green.wr (R.stpMCfg_start_src 2) 50), by decide +kernel, by decide +kernel, by decide +kernel⟩
theorem witness_MeasurementUnitsPost_2 : ∃ (t : Nat) (k : Fin 16) (s : State), ((s.svc.svc = .amber ∨ s.svc.svc = .green)) ∧ s.rd (R.stpMCmd_busy k) = 0 ∧ s.rd (R.stpMCfg_start_src k) < 50 ∧ s.rd (R.stpMCfg_stop_src k) < 50 ∧ s.rd (R.stpMCfg_mode k) = 0 :=
  ⟨0, 2, green, by decide +kernel, by decide +kernel, by decide +kernel, by decide +kernel, by decide +kernel⟩
theorem witness_MeasurementUnitsPost_3 : ∃ (t : Nat) (k : Fin 16) (s : State), ((s.svc.svc = .amber ∨ s.svc.svc = .green)) ∧ s.rd (R.stpMCmd_busy k) = 1 :=
  ⟨0, 2, (green.wr (R.stpMCmd_busy 2) 1), by decide +kernel, by decide +kernel⟩
theorem witness_MeasurementUnitsPost_4 : ∃ (t a b : Nat) (k : Fin 16) (s : State), (s.unit k).start = some a ∧ (s.unit k).stop = some b ∧ (s.unit k).mode = 0 ∧ (s.unit k).rep = false ∧ s.rd (R.stpMCmd_busy k) = 1 ∧ a ≤ b :=
  ⟨0, 5, 900, 2, (munit (some 5) (some 900)), by decide +kernel, by decide +kernel, by decide +kernel, by decide +kernel, by decide +kernel, by decide +kernel⟩
theorem witness_MeasurementUnitsPost_5 : ∃ (t a : Nat) (k : Fin 16) (s : State), (s.unit k).start = some a ∧ (s.unit k).stop = none ∧ (s.unit k).mode = 0 ∧ (s.unit k).rep = false ∧ s.rd (R.stpMCmd_busy k) = 1 ∧ a + 256 * (s.unit k).tmo < 256 * (s.at t).dial :=
  ⟨100000000000, 5, 2, (munit (some 5) none), by decide +kernel, by decide +kernel, by decide +kernel, by decide +kernel, by decide +kernel, by decide +kernel⟩
theorem witness_MeasurementUnitsPost_6 : ∃ (t : Nat) (k : Fin 16) (s : State), (s.unit k).mode = 1 ∧ s.rd (R.stpMCmd_busy k) = 1 ∧ ((s.unit k).start.getD (s.unit k).goAt) + 256 * (s.unit k).gate * msTicks < 256 * (s.at t).dial ∧ (s.unit k).cnt < 2 :=
  ⟨256, 2, ((green.wr (R.stpMCmd_busy 2) 1).setUnit 2 { MeasSt.init with mode := 1 }), by decide +kernel, by decide +kernel, by decide +kernel, by decide +kernel⟩
theorem witness_MeasurementUnitsPost_7 : ∃ (t : Nat) (k : Fin 16) (s : State), (s.unit k).mode = 1 ∧ s.rd (R.stpMCmd_busy k) = 1 ∧ ((s.unit k).start.getD (s.unit k).goAt) + 256 * (s.unit k).gate * msTicks < 256 * (s.at t).dial ∧ 2 ≤ (s.unit k).cnt :=
  ⟨256, 2, ((green.wr (R.stpMCmd_busy 2) 1).setUnit 2 { MeasSt.init with mode := 1, cnt := 2, si := 1, st := 1000, sii := 1, sit := 1000, pnom := 1000 }), by decide +kernel, by decide +kernel, by decide +kernel, by decide +kernel⟩
theorem witness_MeasurementUnitsPost_8 : ∃ (t : Nat) (k : Fin 16) (s : State), ((s.svc.svc = .amber ∨ s.svc.svc = .green)) ∧ s.rd (R.stpMCmd_busy k) = 0 :=
  ⟨0, 2, green, by decide +kernel, by decide +kernel⟩
theorem witness_MemoryRequestsAndLosses_0 : ∃ (t : Nat) (s : State), ((s.svc.svc = .amber ∨ s.svc.svc = .green)) ∧ s.allHalted = false :=
  ⟨0, (prog 0), by decide +kernel, by decide +kernel⟩
theorem witness_MemoryRequestsAndLosses_1 : ∃ (t k : Nat) (s v : State), ((s.svc.svc = .amber ∨ s.svc.svc = .green)) ∧ v = (s.at t).capSettleAll ∧ k = v.rd R.memHostRsv_host_rsv :=
  ⟨0, 0, green, ((green.at 0).capSettleAll), by decide +kernel, by decide +kernel, by decide +kernel⟩
theorem witness_MemoryRequestsAndLosses_2 : ∃ (t : Nat) (k : Nat) (s : State), ((s.svc.svc = .amber ∨ s.svc.svc = .green)) ∧ s.svc.hbmTrained = true ∧ k < 2 ^ 33 ∧ s.poisoned k = false ∧ s.errorsOf k = 0 :=
  ⟨0, 9, green, by decide +kernel, by decide +kernel, by decide +kernel, by decide +kernel, by decide +kernel⟩
theorem witness_MemoryRequestsAndLosses_3 : ∃ (t : Nat) (k : Nat) (s : State), ((s.svc.svc = .amber ∨ s.svc.svc = .green)) ∧ s.svc.hbmTrained = true ∧ k < 2 ^ 33 ∧ s.poisoned k = true :=
  ⟨0, 9, ({ green with poison := [9] }), by decide +kernel, by decide +kernel, by decide +kernel, by decide +kernel⟩
theorem witness_MemoryRequestsAndLosses_4 : ∃ (t ba row : Nat) (k : Fin 4) (pc : Fin 32) (s : State), s.svc.svc ≠ .dark ∧ s.svc.hbmTrained = true ∧ rowKey k pc ba row ∈ s.memo.marked ∧ SMap.get 0 s.memo.repairs k = 0 :=
  ⟨0, 0, 5, 1, 0, ({ green with memo := { green.memo with marked := [rowKey 1 0 0 5] } }), by decide +kernel, by decide +kernel, by decide +kernel, by decide +kernel⟩
theorem witness_MemoryRequestsAndLosses_5 : ∃ (t : Nat) (k : Fin 4) (s : State), ((s.svc.svc = .amber ∨ s.svc.svc = .green)) ∧ s.svc.hbmTrained = true :=
  ⟨0, 1, green, by decide +kernel, by decide +kernel⟩
theorem witness_MemoryRequestsAndLosses_6 : ∃ (t : Nat) (n : Fin 64) (r : DescRead) (l : List DescRead) (s : State), ((s.svc.svc = .amber ∨ s.svc.svc = .green)) ∧ (s.comb n).reads = r :: l :=
  ⟨0, 0, dread0, [], (green.setComb 0 { CombSt.init with reads := [dread0] }), by decide +kernel, by decide +kernel⟩
theorem witness_MemoryRequestsAndLosses_7 : ∃ (t : Nat) (n : Fin 64) (c : Fin 8) (p : Pulse) (g : Seg) (s : State), s.svc.svc ≠ .dark ∧ (s.cell (8 * n + c)).play = some (p, g) ∧ g.d.envSrc = 1 :=
  ⟨0, 0, 1, pulse0, (seg0 1), (playing 1), by decide +kernel, by decide +kernel, by decide +kernel⟩
theorem witness_MemoryRequestsAndLosses_8 : ∃ (t : Nat) (n : Fin 64) (c : Fin 8) (p : Pulse) (g : Seg) (s : State), s.svc.svc ≠ .dark ∧ (s.cell (8 * n + c)).play = some (p, g) ∧ g.d.envSrc = 2 :=
  ⟨0, 0, 1, pulse0, (seg0 2), (playing 2), by decide +kernel, by decide +kernel, by decide +kernel⟩
theorem witness_MemoryRequestsAndLosses_9 : ∃ (t tag : Nat) (p : Fin 8) (r : FarRead) (s : State), s.svc.svc ≠ .dark ∧ s.farOf p tag = some r ∧ r.code = none ∧ r.at' + 25600000 ≤ (s.at t).dial :=
  ⟨25600000, 0, 0, far0, ({ green with far := [far0] }), by decide +kernel, by decide +kernel, by decide +kernel, by decide +kernel⟩
theorem witness_MemoryRequestsAndLosses_10 : ∃ (t : Nat) (s : State), ((s.svc.svc = .amber ∨ s.svc.svc = .green)) ∧ s.allHalted = true ∧ (∀ p : Fin 64, (s.at t).capNow p = cIDLE ∧ (s.seq p).loading = none) ∧ mapBad (s.at t) (s.at t).askedMap = false :=
  ⟨0, green, by decide +kernel, by decide +kernel, by decide +kernel, by decide +kernel⟩
theorem witness_MemoryRequestsAndLosses_11 : ∃ (t : Nat) (k : Nat) (s : State), ((s.svc.svc = .amber ∨ s.svc.svc = .green)) ∧ s.svc.hbmTrained = true ∧ k < 2 ^ 33 ∧ s.poisoned k = false ∧ s.errorsOf k = 0 :=
  ⟨0, 9, green, by decide +kernel, by decide +kernel, by decide +kernel, by decide +kernel, by decide +kernel⟩
theorem witness_MemoryRequestsAndLosses_12 : ∃ (t : Nat) (k : Nat) (s : State), ((s.svc.svc = .amber ∨ s.svc.svc = .green)) ∧ s.svc.hbmTrained = true ∧ k < 2 ^ 33 ∧ s.poisoned k = false ∧ s.errorsOf k = 0 :=
  ⟨0, 9, green, by decide +kernel, by decide +kernel, by decide +kernel, by decide +kernel, by decide +kernel⟩
theorem witness_MemoryPacketsAreServed_0 : ∃ (t : Nat) (p : Fin 8) (x : Pkt) (s v : State), (s.at t).takePkt p (ptIs 7) = some (x, v) ∧ s.svc.svc ≠ .dark ∧ s.svc.hbmTrained = true ∧ s.role p = 1 :=
  ⟨0, 0, (pkOf 7), (pin 7), (pinOut 7), by decide +kernel, by decide +kernel, by decide +kernel, by decide +kernel⟩
theorem witness_MemoryPacketsAreServed_1 : ∃ (t : Nat) (p : Fin 8) (x : Pkt) (s v : State), (s.at t).takePkt p (ptIs 8) = some (x, v) ∧ s.svc.svc ≠ .dark ∧ s.svc.hbmTrained = true ∧ s.role p = 1 :=
  ⟨0, 0, (pkOf 8), (pin 8), (pinOut 8), by decide +kernel, by decide +kernel, by decide +kernel, by decide +kernel⟩
theorem witness_MemoryPacketsAreServed_2 : ∃ (t : Nat) (p : Fin 8) (x : Pkt) (s v : State), (s.at t).takePkt p (ptIs 9) = some (x, v) ∧ s.svc.svc ≠ .dark ∧ s.role p = 2 :=
  ⟨0, 0, (pkOf 9), (pin 9), (pinOut 9), by decide +kernel, by decide +kernel, by decide +kernel⟩
theorem witness_MemoryPacketsAreServed_3 : ∃ (t : Nat) (p : Fin 8) (x : Pkt) (s v : State), (s.at t).takePkt p (ptIs 0xA) = some (x, v) ∧ s.svc.svc ≠ .dark ∧ s.role p = 2 :=
  ⟨0, 0, (pkOf 10), (pin 10), (pinOut 10), by decide +kernel, by decide +kernel, by decide +kernel⟩
theorem witness_MemoryPacketsAreServed_4 : ∃ (t : Nat) (p : Fin 8) (x : Pkt) (s v : State), (s.at t).takePkt p (ptIs 7) = some (x, v) ∧ s.svc.svc ≠ .dark ∧ s.svc.hbmTrained = true ∧ s.role p = 1 ∧ x.ws.getD 0 0 % 2 ^ 32 = 0 :=
  ⟨0, 0, (pkOf 7), (pin 7), (pinOut 7), by decide +kernel, by decide +kernel, by decide +kernel, by decide +kernel, by decide +kernel⟩
theorem witness_LinkFramesAndQueues_0 : ∃ (t : Nat) (g : Nat × Nat) (p : Fin 8) (s : State), s.svc.svc ≠ .dark ∧ (s.at t).slotHere p = some g :=
  ⟨0, (((green.at 0).slotHere 0).getD (0, 0)), 0, green, by decide +kernel, by decide +kernel⟩
theorem witness_LinkFramesAndQueues_1 : ∃ (t b f : Nat) (p : Fin 8) (s : State), s.portHeld p = false :=
  ⟨0, 0, 3, 0, held, by decide +kernel⟩
theorem witness_LinkFramesAndQueues_2 : ∃ (t : Nat) (p : Fin 8) (s : State), ((s.svc.svc = .amber ∨ s.svc.svc = .green)) ∧ 64 ≤ (s.port p).lq.length :=
  ⟨0, 0, (green.setPort 0 { PortSt.init with lq := List.replicate 64 lq0 }), by decide +kernel, by decide +kernel⟩
theorem witness_LinkFramesAndQueues_3 : ∃ (t : Nat) (p : Fin 8) (s : State), ((s.svc.svc = .amber ∨ s.svc.svc = .green)) ∧ (s.port p).lq.length < 64 ∧ (s.rd (R.elvLqCfg_lq_len p) = 0 ∨ 8 < s.rd (R.elvLqCfg_lq_len p)) :=
  ⟨0, 0, (green.wr (R.elvLqCfg_lq_len 0) 0), by decide +kernel, by decide +kernel, by decide +kernel⟩
theorem witness_LinkFramesAndQueues_4 : ∃ (t : Nat) (p : Fin 8) (s : State), ((s.svc.svc = .amber ∨ s.svc.svc = .green)) ∧ (s.port p).lq = [] ∧ 1 ≤ s.rd (R.elvLqCfg_lq_len p) ∧ s.rd (R.elvLqCfg_lq_len p) ≤ 8 :=
  ⟨0, 0, (green.wr (R.elvLqCfg_lq_len 0) 3), by decide +kernel, by decide +kernel, by decide +kernel, by decide +kernel⟩
theorem witness_LinkFramesAndQueues_5 : ∃ (t : Nat) (p : Fin 8) (s : State), (s.at t).probeDue p = true :=
  ⟨0, 0, nbr, by decide +kernel⟩
theorem witness_LinkFramesAndQueues_6 : ∃ (t : Nat) (p : Fin 8) (x : Pkt) (s v : State), (s.at t).takePkt p (fun x => decide (x.ptype = 4)) = some (x, v) ∧ v.neighbourUp p = true :=
  ⟨0, 0, (pkOf 4), (pin 4), (pinOut 4), by decide +kernel, by decide +kernel⟩
theorem witness_LinkTraining_0 : ∃ (t : Nat) (p : Fin 8) (s : State), s.elvState p = eABSENT ∧ s.portHeld p = false ∧ (s.port p).everLeft = false :=
  ⟨0, 0, held, by decide +kernel, by decide +kernel, by decide +kernel⟩
theorem witness_LinkTraining_1 : ∃ (t : Nat) (p : Fin 8) (l : List (List Int × List Int)) (b : Bool) (s : State), s.elvState p = eCLOCK ∧ s.portHeld p = false :=
  ⟨0, 0, [], true, (held.wr (R.elvStatus_state 0) eCLOCK), by decide +kernel, by decide +kernel⟩
theorem witness_LinkTraining_2 : ∃ (t : Nat) (p : Fin 8) (l : List Nat) (s : State), s.elvState p = eSLIP ∧ s.ard (R.elvCtl_manual p) = 0 :=
  ⟨0, 0, [], (held.wr (R.elvStatus_state 0) eSLIP), by decide +kernel, by decide +kernel⟩
theorem witness_LinkTraining_3 : ∃ (t : Nat) (p : Fin 8) (l : List Nat) (s : State), s.elvState p = eDESKEW ∧ s.ard (R.elvCtl_manual p) = 0 :=
  ⟨0, 0, [], (held.wr (R.elvStatus_state 0) eDESKEW), by decide +kernel, by decide +kernel⟩
theorem witness_LinkTraining_4 : ∃ (t w : Nat) (p : Fin 8) (s : State), (s.port p).negIn = some w ∧ s.elvState p = eNEG ∧ (s.port p).negOut = true ∧ negReady w = true :=
  ⟨0, 2^34, 0, ((held.wr (R.elvStatus_state 0) eNEG).setPort 0 { PortSt.init with negIn := some (2^34), negOut := true }), by decide +kernel, by decide +kernel, by decide +kernel, by decide +kernel⟩
theorem witness_LinkTraining_5 : ∃ (t : Nat) (p : Fin 8) (s : State), eCLOCK ≤ s.elvState p ∧ s.elvState p ≤ eNEG ∧ s.ard (R.elvCtl_manual p) = 0 ∧ (s.port p).leftAt + 8 * 25600000 ≤ (s.at t).dial :=
  ⟨204800000, 0, (held.wr (R.elvStatus_state 0) eSLIP), by decide +kernel, by decide +kernel, by decide +kernel, by decide +kernel⟩
theorem witness_LinkTraining_6 : ∃ (t : Nat) (p : Fin 8) (s : State), ((s.svc.svc = .amber ∨ s.svc.svc = .green)) ∧ s.elvState p = eABSENT :=
  ⟨0, 0, held, by decide +kernel, by decide +kernel⟩
theorem witness_LinkTraining_7 : ∃ (t : Nat) (p : Fin 8) (s : State), ((s.svc.svc = .amber ∨ s.svc.svc = .green)) ∧ s.elvState p ≠ eABSENT :=
  ⟨0, 0, (held.wr (R.elvStatus_state 0) eSLIP), by decide +kernel, by decide +kernel⟩
theorem witness_LinkTraining_8 : ∃ (t : Nat) (p : Fin 8) (b : Bool) (s : State), ((s.svc.svc = .amber ∨ s.svc.svc = .green)) ∧ s.rd (R.elvCtl_level p) = 1 ∧ s.ard (R.elvCtl_manual p) = 0 :=
  ⟨0, 0, true, (held.wr (R.elvCtl_level 0) 1), by decide +kernel, by decide +kernel, by decide +kernel⟩
theorem witness_LinkTraining_9 : ∃ (t : Nat) (p : Fin 8) (b : Bool) (s : State), ((s.svc.svc = .amber ∨ s.svc.svc = .green)) ∧ s.rd (R.elvCtl_level p) = 1 ∧ s.ard (R.elvCtl_manual p) ≠ 0 ∧ s.elvState p = eSLIP ∧ s.rd (R.elvCmd_slip_lane p) ≤ 17 :=
  ⟨0, 0, true, (((held.wr (R.elvCtl_level 0) 1).awr (R.elvCtl_manual 0) 1).wr (R.elvStatus_state 0) eSLIP), by decide +kernel, by decide +kernel, by decide +kernel, by decide +kernel, by decide +kernel⟩
theorem witness_LinkTraining_10 : ∃ (t : Nat) (p : Fin 8) (s : State), ((s.svc.svc = .amber ∨ s.svc.svc = .green)) ∧ s.rd (R.elvCtl_level p) = 1 ∧ s.ard (R.elvCtl_manual p) = 0 :=
  ⟨0, 0, (held.wr (R.elvCtl_level 0) 1), by decide +kernel, by decide +kernel, by decide +kernel⟩
theorem witness_LinkTraining_11 : ∃ (t : Nat) (p : Fin 8) (s : State), ((s.svc.svc = .amber ∨ s.svc.svc = .green)) ∧ s.rd (R.elvCtl_level p) = 1 ∧ s.ard (R.elvCtl_manual p) ≠ 0 ∧ s.elvState p = eDESKEW :=
  ⟨0, 0, (((held.wr (R.elvCtl_level 0) 1).awr (R.elvCtl_manual 0) 1).wr (R.elvStatus_state 0) eDESKEW), by decide +kernel, by decide +kernel, by decide +kernel, by decide +kernel⟩
theorem witness_LanesLostAndRemapped_0 : ∃ (t : Nat) (p : Fin 8) (l : Fin 19) (b : Bool) (s : State), s.portHeld p = false :=
  ⟨0, 0, 3, true, held, by decide +kernel⟩
theorem witness_LanesLostAndRemapped_1 : ∃ (t : Nat) (p : Fin 8) (l : Fin 19) (s : State), (s.port p).noSig.testBit l = true :=
  ⟨0, 0, 3, (green.setPort 0 { PortSt.init with noSig := 8 }), by decide +kernel⟩
theorem witness_LanesLostAndRemapped_2 : ∃ (t : Nat) (p : Fin 8) (x : Pkt) (s v : State), (s.at t).takePkt p (linkIs 0) = some (x, v) ∧ v.portUp p = true :=
  ⟨0, 0, (pkOf 20), (pin 20), (pinOut 20), by decide +kernel, by decide +kernel⟩
theorem witness_LanesLostAndRemapped_3 : ∃ (t : Nat) (p : Fin 8) (x : Pkt) (s v : State), (s.at t).takePkt p (linkIs 1) = some (x, v) ∧ v.portUp p = true ∧ (v.port p).txAlign = true :=
  ⟨0, 0, (pkOf 21), (pin 21), (pinOut 21), by decide +kernel, by decide +kernel, by decide +kernel⟩
theorem witness_LanesLostAndRemapped_4 : ∃ (t : Nat) (p : Fin 8) (s : State), s.elvPaused p = true ∧ (s.port p).pauseAt + 2560000 ≤ (s.at t).dial :=
  ⟨2560000, 0, (held.wr (R.elvStatus_paused 0) 1), by decide +kernel, by decide +kernel⟩
theorem witness_ChainKeepsTime_0 : ∃ (t : Nat) (s : State), (s.at t).inChain = true ∧ s.chain.annAt ≤ (s.at t).dial :=
  ⟨0, (green.wr R.chnStatus_cstate 2), by decide +kernel, by decide +kernel⟩
theorem witness_ChainKeepsTime_1 : ∃ (t : Nat) (p : Fin 8) (x : Pkt) (s v : State), (s.at t).takePkt p (fun x => decide (x.ptype = 0xC)) = some (x, v) :=
  ⟨0, 0, (pkOf 12), (pin 12), (pinOut 12), by decide +kernel⟩
theorem witness_ChainKeepsTime_2 : ∃ (t : Nat) (p : Fin 8) (x : Pkt) (s v : State), (s.at t).takePkt p (fun x => decide (x.ptype = 3)) = some (x, v) :=
  ⟨0, 0, (pkOf 3), (pin 3), (pinOut 3), by decide +kernel⟩
theorem witness_ChainKeepsTime_3 : ∃ (t : Nat) (d : Fin 256) (r : Nat × RouteSt) (s : State), s.chain.routes = [r] ∧ r.1 = d ∧ r.2.seenAt + 7680000 ≤ (s.at t).dial :=
  ⟨7680000, 5, ((5, route0)), ({ green with chain := { green.chain with routes := [(5, route0)] } }), by decide +kernel, by decide +kernel, by decide +kernel⟩
theorem witness_ChainKeepsTime_4 : ∃ (t : Nat) (s : State), s.cstate = cSOURCE ∧ (s.at t).dial % 25600 = 0 ∧ s.chain.timeAt ≤ (s.at t).dial :=
  ⟨0, (green.wr R.chnStatus_cstate cSOURCE), by decide +kernel, by decide +kernel, by decide +kernel⟩
theorem witness_ChainKeepsTime_5 : ∃ (t : Nat) (s : State), s.cstate = cHOLDOVER ∧ s.chain.timeAt ≤ (s.at t).dial :=
  ⟨0, (green.wr R.chnStatus_cstate cHOLDOVER), by decide +kernel, by decide +kernel⟩
theorem witness_ChainKeepsTime_6 : ∃ (t : Nat) (s : State), 0 < s.chain.qa.run ∧ s.chain.qa.lastAt + max 2 (s.ard R.chnLoop_q_to) * 25600 ≤ (s.at t).dial :=
  ⟨256000000, ({ green with chain := { green.chain with qa := { QueenSt.init with run := 1 } } }), by decide +kernel, by decide +kernel⟩
theorem witness_ChainKeepsTime_7 : ∃ (t : Nat) (s : State), 0 < s.chain.qb.run ∧ s.chain.qb.lastAt + max 2 (s.ard R.chnLoop_q_to) * 25600 ≤ (s.at t).dial :=
  ⟨256000000, ({ green with chain := { green.chain with qb := { QueenSt.init with run := 1 } } }), by decide +kernel, by decide +kernel⟩
theorem witness_ChainKeepsTime_8 : ∃ (t : Nat) (s : State), s.rd R.chnStatus_ref = 2 ∧ s.rd R.chnStatus_a_ok = 1 ∧ s.ard R.chnCtl_revert = 1 ∧ s.chain.qa.okSince + s.ard R.chnRevert_rev_t * 256000000 ≤ (s.at t).dial :=
  ⟨1000000000000, ((green.wr R.chnStatus_ref 2).wr R.chnStatus_a_ok 1), by decide +kernel, by decide +kernel, by decide +kernel, by decide +kernel⟩
theorem witness_ChainKeepsTime_9 : ∃ (t : Nat) (s : State), s.cstate = cJOINING :=
  ⟨0, (green.wr R.chnStatus_cstate cJOINING), by decide +kernel⟩
theorem witness_ChainKeepsTime_10 : ∃ (t : Nat) (s : State), s.cstate = cJOINING ∧ 1 ≤ s.chainRole ∧ s.chain.stepAt = none ∧ s.chain.jumped = false ∧ s.chain.joinAt + (s.at t).listenTime ≤ (s.at t).dial :=
  ⟨1000000000000, ((green.wr R.chnStatus_cstate cJOINING).wr R.chnCtl_role 1), by decide +kernel, by decide +kernel, by decide +kernel, by decide +kernel, by decide +kernel⟩
theorem witness_SecondsAndPps_0 : ∃ (t : Nat) (s : State), s.svc.svc ≠ .dark ∧ s.chainRole = 1 ∧ s.rd R.chnCtl_pps_in_en = 1 ∧ s.cstate ≠ cSOURCE :=
  ⟨0, ((green.wr R.chnCtl_role 1).wr R.chnCtl_pps_in_en 1), by decide +kernel, by decide +kernel, by decide +kernel, by decide +kernel⟩
theorem witness_SecondsAndPps_1 : ∃ (t : Nat) (s : State), s.svc.svc ≠ .dark ∧ (s.at t).dial % 25600000000 = 0 :=
  ⟨0, (green.wr R.chnCtl_pps_oe 1), by decide +kernel, by decide +kernel⟩
theorem witness_SecondsAndPps_2 : ∃ (t : Nat) (s : State), s.svc.ppsOut = true ∧ 2560000 ≤ (s.at t).dial % 25600000000 :=
  ⟨2560000, (green.setSvc { green.svc with ppsOut := true }), by decide +kernel, by decide +kernel⟩
theorem witness_WaggleLinesCarryEvents_0 : ∃ (t : Nat) (c : Fin 256) (f : Flight) (s : State), s.svc.svc ≠ .dark ∧ (s.at t).wag.flight = [f] ∧ f.ch = c :=
  ⟨0, 5, (⟨0, 5, 1⟩), ({ green with wag := { green.wag with flight := [⟨0, 5, 1⟩] } }), by decide +kernel, by decide +kernel, by decide +kernel⟩
theorem witness_WaggleLinesCarryEvents_1 : ∃ (t : Nat) (c : Fin 256) (s : State), s.svc.svc ≠ .dark ∧ (s.ard (R.wagEn_en c)).testBit 15 = true :=
  ⟨0, 5, green, by decide +kernel, by decide +kernel⟩
theorem witness_WaggleLinesCarryEvents_2 : ∃ (t : Nat) (c : Fin 256) (s : State), s.svc.svc ≠ .dark ∧ (s.ard (R.wagEn_en c)).testBit 15 = false :=
  ⟨0, 5, (green.awr (R.wagEn_en 5) 0), by decide +kernel, by decide +kernel⟩
theorem witness_WaggleLinesCarryEvents_3 : ∃ (t a b : Nat) (c : Fin 256) (s : State), s.wag.chans = [(c.val, a, b)] ∧ b ≤ (s.at t).dial :=
  ⟨0, 0, 0, 5, ({ green with wag := { green.wag with chans := [(5, 0, 0)] } }), by decide +kernel, by decide +kernel⟩
def conv0 : MonConv := ⟨0, 0, 0, 0, 1, 0, 0, 0, 0, false⟩
theorem witness_MonitorConvertsAndCalibrates_0 : ∃ (t : Nat) (m : Fin 5) (c : MonConv) (s : State), s.svc.svc ≠ .dark ∧ (s.mon m).cur = some c ∧ c.finish ≤ (s.at t).dial :=
  ⟨1000000000000, 1, conv0, green.setMon 1 { green.mon 1 with cur := some conv0 }, by decide +kernel, by decide +kernel, by decide +kernel⟩
theorem witness_MonitorConvertsAndCalibrates_1 : ∃ (t a : Nat) (s : State), s.svc.svc ≠ .dark ∧ s.thm.hkAt = some a ∧ a ≤ (s.at t).dial :=
  ⟨0, 0, ({ green with thm := { green.thm with hkAt := some 0 } }), by decide +kernel, by decide +kernel, by decide +kernel⟩
theorem witness_MonitorConvertsAndCalibrates_2 : ∃ (t : Nat) (s : State), s.svc.svc = .sleep :=
  ⟨0, asleep, by decide +kernel⟩
theorem witness_MonitorConvertsAndCalibrates_3 : ∃ (t : Nat) (s : State), ((s.svc.svc = .amber ∨ s.svc.svc = .green)) ∧ s.thm.mcalAt ≠ none :=
  ⟨0, ({ green with thm := { green.thm with mcalAt := some 0 } }), by decide +kernel, by decide +kernel⟩
theorem witness_MonitorConvertsAndCalibrates_4 : ∃ (t : Nat) (s : State), ((s.svc.svc = .amber ∨ s.svc.svc = .green)) ∧ s.thm.mcalAt = none :=
  ⟨0, green, by decide +kernel, by decide +kernel⟩
theorem witness_MonitorConvertsAndCalibrates_5 : ∃ (t a : Nat) (l : List McalPath) (s : State), s.svc.svc ≠ .dark ∧ s.thm.mcalAt = some a ∧ a + 4608000000 + (s.at t).mcalExtra l ≤ (s.at t).dial :=
  ⟨8704000000, 0, [⟨[(40, 0)], []⟩], green.setThm { green.thm with mcalAt := some 0 }, by decide +kernel, by decide +kernel, by decide +kernel⟩
theorem witness_MonitorConvertsAndCalibrates_6 : ∃ (t : Nat) (m : Fin 5) (s : State), s.svc.svc ≠ .dark :=
  ⟨0, 1, green, by decide +kernel⟩
theorem witness_CalibrationPasses_0 : ∃ (t : Nat) (s : State), ((s.svc.svc = .amber ∨ s.svc.svc = .green)) ∧ s.passBusy = true :=
  ⟨0, (green.wr R.calStatus_pass_busy 1), by decide +kernel, by decide +kernel⟩
theorem witness_CalibrationPasses_1 : ∃ (t : Nat) (s : State), ((s.svc.svc = .amber ∨ s.svc.svc = .green)) ∧ s.passBusy = false :=
  ⟨0, green, by decide +kernel, by decide +kernel⟩
theorem witness_CalibrationPasses_2 : ∃ (t : Nat) (s : State), ((s.svc.svc = .amber ∨ s.svc.svc = .green)) ∧ (s.at t).passBusy = false ∧ (s.at t).passDue = true :=
  ⟨40000000000000000, ({ green with cal := { green.cal with passAt := some 0 } }), by decide +kernel, by decide +kernel, by decide +kernel⟩
theorem witness_CalibrationPasses_3 : ∃ (t i : Nat) (a b : List Int) (s : State), s.svc.svc ≠ .dark ∧ i ∈ s.cal.left ∧ i < 544 ∧ (s.at t).itemIdle i = true ∧ (s.at t).pairDue i ≤ (s.at t).dial :=
  ⟨1000000000000, 0, [], [], ({ green with cal := { green.cal with left := [0] } }), by decide +kernel, by decide +kernel, by decide +kernel, by decide +kernel, by decide +kernel⟩
theorem witness_CalibrationPasses_4 : ∃ (t i : Nat) (s : State), i ∈ s.cal.left ∧ (s.at t).itemIdle i = false :=
  ⟨0, 0, calBusy, by decide +kernel, by decide +kernel⟩
theorem witness_CalibrationPasses_5 : ∃ (t i : Nat) (s : State), s.svc.svc ≠ .dark ∧ i ∈ s.cal.left ∧ (s.at t).itemIdle i = false ∧ s.cal.passAt.getD 0 + max 1 (s.ard R.calCfg_cal_wait) * ticksPerSec ≤ (s.at t).dial :=
  ⟨40000000000000000, 0, calBusy, by decide +kernel, by decide +kernel, by decide +kernel, by decide +kernel⟩
theorem witness_TimeFieldsFallDueBySignedDifference_1 : ∃ (f d : Nat), 2 ^ 39 ≤ d :=
  ⟨5, 2^39, by decide +kernel⟩
theorem witness_ReceiveMailboxHoldsSixteen_0 : ∃ (t : Nat) (p : Fin 8) (x : Pkt) (s v : State), (s.at t).takePkt p (fun x => decide (x.ptype = 2)) = some (x, v) ∧ s.svc.svc ≠ .dark ∧ (v.port p).mbox.length < 16 :=
  ⟨0, 0, (pkOf 2), (pin 2), (pinOut 2), by decide +kernel, by decide +kernel, by decide +kernel⟩
theorem witness_ReceiveMailboxHoldsSixteen_1 : ∃ (t : Nat) (p : Fin 8) (x : Pkt) (s v : State), (s.at t).takePkt p (fun x => decide (x.ptype = 2)) = some (x, v) ∧ s.svc.svc ≠ .dark ∧ 16 ≤ (v.port p).mbox.length :=
  ⟨0, 0, (pkOf 2), pinFull, pinFullOut, by decide +kernel, by decide +kernel, by decide +kernel⟩
theorem witness_ReceiveMailboxHoldsSixteen_2 : ∃ (t : Nat) (p : Fin 8) (x : Pkt) (l : List Pkt) (s : State), ((s.svc.svc = .amber ∨ s.svc.svc = .green)) ∧ (s.port p).mbox = x :: l :=
  ⟨0, 0, (pk 2), ([pk 3]), (green.setPort 0 { PortSt.init with mbox := [pk 2, pk 3] }), by decide +kernel, by decide +kernel⟩
theorem witness_ReceiveMailboxHoldsSixteen_3 : ∃ (t : Nat) (p : Fin 8) (s : State), ((s.svc.svc = .amber ∨ s.svc.svc = .green)) ∧ (s.port p).mbox = [] :=
  ⟨0, 0, green, by decide +kernel, by decide +kernel⟩
theorem witness_BasicLevelsDeriveTheirFields_0 : ∃ (s : State), s.rd R.chnCtl_level = 0 :=
  ⟨amber, by decide +kernel⟩
theorem witness_BasicLevelsDeriveTheirFields_1 : ∃ (s : State), s.rd R.wagCtl_level = 0 :=
  ⟨amber, by decide +kernel⟩
theorem witness_BasicLevelsDeriveTheirFields_2 : ∃ (s : State), s.rd R.calCtl_level = 0 :=
  ⟨amber, by decide +kernel⟩
theorem witness_BasicLevelsDeriveTheirFields_3 : ∃ (s : State), s.rd R.chnCtl_level = 1 :=
  ⟨(amber.wr R.chnCtl_level 1), by decide +kernel⟩
theorem witness_BasicLevelsDeriveTheirFields_4 : ∃ (s : State), s.rd R.wagCtl_level = 1 :=
  ⟨(amber.wr R.wagCtl_level 1), by decide +kernel⟩
theorem witness_BasicLevelsDeriveTheirFields_5 : ∃ (s : State), s.rd R.calCtl_level = 1 :=
  ⟨(amber.wr R.calCtl_level 1), by decide +kernel⟩

/-! ### WellFormed refuses -/

theorem test_wf_dial_of_73_bits : Instr.wf (.pllLock (2 ^ 72)) = false := by decide
theorem test_wf_boot_sel : Instr.wf (.nresetHigh 0 4 1800) = false := by decide
theorem test_wf_converter_item : Instr.wf (.converterCalDone 0 [(545, [], [])]) = false := by decide
theorem test_wf_cause_zero : Instr.wf (.leaveGreen 0 0) = false := by decide
theorem test_wf_cause_six : Instr.wf (.greenLossCleared 0 6) = false := by decide
theorem test_wf_entdaa_address : Instr.wf (.cccEntdaa 0 128) = false := by decide
theorem test_wf_setdasa_address : Instr.wf (.cccSetdasa 0 128) = false := by decide
theorem test_wf_setnewda_address : Instr.wf (.cccSetnewda 0 128) = false := by decide
theorem test_wf_enec_byte : Instr.wf (.cccEnec 0 256) = false := by decide
theorem test_wf_disec_byte : Instr.wf (.cccDisec 0 256) = false := by decide
theorem test_wf_mwl : Instr.wf (.cccSetmwl 0 65536) = false := by decide
theorem test_wf_mrl : Instr.wf (.cccSetmrl 0 65536) = false := by decide
theorem test_wf_rstact : Instr.wf (.cccRstact 0 256 false) = false := by decide
theorem test_wf_read_of_five_address_bytes : Instr.wf (.sdrPrivateRead 0 [0, 0, 0, 0, 0] 0) = false := by decide
theorem test_wf_register_address : Instr.wf (.registerWrite 0 (2 ^ 32) 0) = false := by decide
theorem test_wf_register_data : Instr.wf (.registerWrite 0 0 (2 ^ 32)) = false := by decide
theorem test_wf_read_address : Instr.wf (.clearOnRead 0 (2 ^ 32) true 0) = false := by decide
theorem test_wf_read_again : Instr.wf (.clearOnRead 0 0 true (2 ^ 32)) = false := by decide
theorem test_wf_alias_address : Instr.wf (.bitAliasWrite 0 (2 ^ 32) 0) = false := by decide
theorem test_wf_alias_data : Instr.wf (.bitAliasWrite 0 0 (2 ^ 32)) = false := by decide
theorem test_wf_lock_address : Instr.wf (.lockWrite 0 (2 ^ 32) 0) = false := by decide
theorem test_wf_lock_data : Instr.wf (.lockWrite 0 0 (2 ^ 32)) = false := by decide
theorem test_wf_slot_address : Instr.wf (.slotPairRead 0 (2 ^ 32)) = false := by decide
theorem test_wf_xaddr : Instr.wf (.xaddrWrite 0 0 (2 ^ 24)) = false := by decide
theorem test_wf_xdata : Instr.wf (.xdataWrite 0 0 (2 ^ 32)) = false := by decide
theorem test_wf_update_mask : Instr.wf (.updateStrobe 0 (2 ^ 32)) = false := by decide
theorem test_wf_upset : Instr.wf (.microScrub 0 0 [(4, 0, 1)]) = false := by decide
theorem test_wf_upset_of_three_bits : Instr.wf (.microScrub 0 0 [(0, 0, 3)]) = false := by decide
theorem test_wf_program_start : Instr.wf (.load 0 0 { emptyImg with header := some ⟨0, 0, 0, [32768]⟩ }) = false := by decide
theorem test_wf_program_word : Instr.wf (.load 0 0 { emptyImg with micro := some [(32768, [])] }) = false := by decide
theorem test_wf_program_nano : Instr.wf (.load 0 0 { emptyImg with nano := some [2 ^ 192] }) = false := by decide
theorem test_wf_program_counter : Instr.wf (.load 0 0 { emptyImg with counters := some [2 ^ 24] }) = false := by decide
theorem test_wf_program_condition : Instr.wf (.load 0 0 { emptyImg with conditions := some [[2 ^ 32]] }) = false := by decide
theorem test_wf_program_barriers : Instr.wf (.load 0 0 { emptyImg with barriers := some (2 ^ 32) }) = false := by decide
theorem test_wf_program_streams : Instr.wf (.load 0 0 { emptyImg with streams := 256 }) = false := by decide
theorem test_wf_bank_half : Instr.wf (.bankHiWrite 0 0 (2 ^ 32)) = false := by decide
theorem test_wf_window_sample : Instr.wf (.windowClose 0 0 0 [8192]) = false := by decide
theorem test_wf_detector_samples : Instr.wf (.captureTrigger 0 0 (List.replicate 17 0)) = false := by decide
theorem test_wf_detector_sample : Instr.wf (.captureTrigger 0 0 [-8193]) = false := by decide
theorem test_wf_record_sample : Instr.wf (.captureRecordCommit 0 0 [8192]) = false := by decide
theorem test_wf_bias_code : Instr.wf (.biasStageWrite 0 0 0 (2 ^ 32)) = false := by decide
theorem test_wf_stamp_code : Instr.wf (.stampEdge 0 0 0 256) = false := by decide
theorem test_wf_density_counts : Instr.wf (.cdRunComplete 0 []) = false := by decide
theorem test_wf_scrub_chunk : Instr.wf (.hbmScrubPass 0 (2 ^ 33) []) = false := by decide
theorem test_wf_scrub_error : Instr.wf (.hbmScrubPass 0 0 [(2 ^ 33, 1)]) = false := by decide
theorem test_wf_hdr_mode : Instr.wf (.cccEnthdr0 ⟨0, 8⟩) = false := by decide
theorem test_wf_ddr_pointer_code : Instr.wf (.ddrSetPointer 0 ⟨0x20, []⟩) = false := by decide
theorem test_wf_ddr_write_code : Instr.wf (.ddrWrite 0 ⟨0x21, []⟩) = false := by decide
theorem test_wf_ddr_read_code : Instr.wf (.ddrRead 0 ⟨0x20, 0⟩) = false := by decide
theorem test_wf_store_tag : Instr.wf (.farStoreAbandon 0 0 65536) = false := by decide
theorem test_wf_frame_fraction : Instr.wf (.frameReceive 0 0 0 256) = false := by decide
theorem test_wf_cal_item : Instr.wf (.calMeasurementDone 0 545 [] []) = false := by decide
theorem test_wf_cal_abandoned_item : Instr.wf (.calAbandon 0 545) = false := by decide
theorem test_wf_cal_stale_item : Instr.wf (.calStale 0 545) = false := by decide
theorem test_wf_takes_a_command : Instr.wf (.registerWrite 0 0x10010 0xFFFF) = true := by decide

/-! ### Worked examples -/

/-- 19_calibration_and_life.md, the example of the calendar: label 812,345,678 is Sunday 2025-09-28 03:34:38. -/
theorem test_calendar_date : civil (812345678 / 86400) = (2025, 9, 28) := by decide
theorem test_calendar_time :
    (812345678 % 86400 / 3600, 812345678 % 3600 / 60, 812345678 % 60, (812345678 / 86400 + 6) % 7) = (3, 34, 38, 0) := by decide
/-- R73: a field 2^39 ticks behind its due time is due, the one before it is not. -/
theorem test_due_half_range : due40 (2 ^ 39) 0 = true := by decide
theorem test_not_due_below_half_range : due40 (2 ^ 39 - 1) 0 = false := by decide
theorem test_due_at_once : due40 5 5 = true := by decide
/-- R22: `HIVE_ID` reads 0x5120_0100. -/
theorem test_hive_id : ((amber.readAt 0 true 0).1) = 0x51200100 := by decide +kernel
/-- No row of the command table gives bits. -/
theorem test_no_word_spells_a_command : decodeTableWord 8 0 = none := rfl
theorem test_reset_queue_is_empty : State.reset.pending = [] := rfl
/-- R427: a fire of a Waggle channel is in flight as slot 15. -/
theorem test_fire : (match execWaggleFire 0 5 green with | .next u => u.wag.flight.map (·.slot) | _ => []) = [15] := by decide +kernel

end Sys2Proof.Tests
end

section
/-! SUPPORT. Accesses of the host that fault: what recording a fault changes, and which accesses do nothing but record one
(R33, R34, R36, R37). -/

namespace Sys2Proof.Machine

/-! ### What recording a fault changes -/

/-- A Waggle event changes no register, active value or memory. -/
theorem State.SameBut.fireD {u s : State} {fs : List Fld} (h : u.SameBut s fs) (d : Nat) : (u.fireD d).SameBut s fs := h

/-- `u` is `s` with a fault recorded in the flag `f` of HOST_ACC_STATUS: no other register, active value or memory differs, but the
fault address may. -/
structure State.Faulted (u s : State) (f : Fld) : Prop where
  flag : u.rd f = 1
  same : u.SameBut s [f, R.hostAccAddr_addr]

theorem State.Faulted.frame {u s : State} {f : Fld} (h : u.Faulted s f) (g : Fld) (hf : g.key ≠ f.key)
    (ha : g.key ≠ R.hostAccAddr_addr.key) : u.rd g = s.rd g :=
  h.same.1.1 g (by simp [hf, ha])

theorem State.Faulted.act {u s : State} {f : Fld} (h : u.Faulted s f) : u.act = s.act := h.same.1.2
theorem State.Faulted.hbm {u s : State} {f : Fld} (h : u.Faulted s f) : u.hbm = s.hbm := h.same.2.1
theorem State.Faulted.flash {u s : State} {f : Fld} (h : u.Faulted s f) : u.flash = s.flash := h.same.2.2

/-- The bytes driven on the bus stand in no register. -/
theorem State.Faulted.answerBytes {u s : State} {f : Fld} (h : u.Faulted s f) (bs : List Byte) : (u.answerBytes bs).Faulted s f :=
  ⟨h.flag, h.same⟩

@[simp] theorem State.accFault_i3c (s : State) (f : Fld) (a : Nat) : (s.accFault f a).i3c = s.i3c := by
  simp only [State.accFault]
  split <;> rfl

/-- R36, R37: recording a fault sets its flag, and at most the fault address beside it. -/
theorem State.accFault_Faulted {v s : State} {f : Fld} (a : Nat) (hv : v.SameBut s [f, R.hostAccAddr_addr]) (hw : f.width = 1) :
    (v.accFault f a).Faulted s f := by
  have flag (w : State) : ((w.setF f).fireD 85).rd f = 1 := (w.rd_wr f 1).trans (by rw [hw]; rfl)
  have same {w : State} (h : w.SameBut s [f, R.hostAccAddr_addr]) : ((w.setF f).fireD 85).SameBut s [f, R.hostAccAddr_addr] :=
    (h.wr f 1 (by simp)).fireD 85
  simp only [State.accFault]
  split
  · exact ⟨flag _, same (hv.wr R.hostAccAddr_addr a (by simp))⟩
  · exact ⟨flag _, same hv⟩

theorem State.at_SameBut (s : State) (t : Nat) (fs : List Fld) : (s.at t).SameBut s fs :=
  ⟨⟨fun f _ => s.at_rd t f, s.at_act t⟩, s.at_hbm t, s.at_flash t⟩

@[simp] theorem State.ack_ptr (s : State) : s.ack.i3c.ptr = s.i3c.ptr := rfl
@[simp] theorem State.ack_nack (s : State) : s.ack.i3c.nack = false := rfl
@[simp] theorem State.answerBytes_ptr (s : State) (bs : List Byte) : (s.answerBytes bs).i3c.ptr = s.i3c.ptr := rfl

theorem State.ack_SameBut {v s : State} {fs : List Fld} (h : v.SameBut s fs) : v.ack.SameBut s fs := h

/-! ### Accesses that do nothing but record a fault -/

/-- R33, for a write. -/
theorem State.writeAt_misaligned (s : State) {a : Nat} (data : Nat) (h : a % 4 ≠ 0) :
    s.writeAt a data = s.accFault R.hostAccStatus_acc_align a := if_pos h

/-- R33, for a read: what the target drives is one zero byte. -/
theorem State.answerRead_misaligned (s : State) {a : Nat} (done : Bool) (again : Nat) (h : a % 4 ≠ 0) :
    State.answerRead a (s.readAt a done again) = (s.accFault R.hostAccStatus_acc_align a).answerBytes [0#8] := by
  unfold State.answerRead State.readAt
  rw [if_neg h, if_pos h]

theorem State.writeTo_unmapped (s : State) {a : Nat} (src : Nat) (put : State → WordRef → State) (hr : s.reach a = .unmapped) :
    s.writeTo a src put = s.accFault R.hostAccStatus_acc_unmapped src := by
  simp only [State.writeTo, hr]

theorem State.readWord_unmapped (s : State) {a : Nat} (mask : Nat) (done : Bool) (again src : Nat) (hr : s.reach a = .unmapped) :
    s.readWord a mask done again src = (0, s.accFault R.hostAccStatus_acc_unmapped src) := by
  simp only [State.readWord, hr]

/-- R34, for a write. -/
theorem State.writeAt_unmapped (s : State) {a : Nat} (data : Nat) (h4 : a % 4 = 0) (hal : isAlias a = false)
    (hr : s.reach (a % 2 ^ 32) = .unmapped) : s.writeAt a data = s.accFault R.hostAccStatus_acc_unmapped a := by
  unfold State.writeAt
  rw [if_neg (not_not_intro h4), if_neg (by simp [hal]), s.writeTo_unmapped a _ hr]

theorem leBytes_four_zero : leBytes 4 0 = [0#8, 0#8, 0#8, 0#8] := by decide

/-- R34, for a read: what the target drives is a word of zeros. -/
theorem State.answerRead_unmapped (s : State) {a : Nat} (done : Bool) (again : Nat) (h4 : a % 4 = 0) (hal : isAlias a = false)
    (hr : s.reach (a % 2 ^ 32) = .unmapped) :
    State.answerRead a (s.readAt a done again) = (s.accFault R.hostAccStatus_acc_unmapped a).answerBytes [0#8, 0#8, 0#8, 0#8] := by
  unfold State.answerRead State.readAt
  rw [if_pos h4, if_neg (not_not_intro h4), if_neg (by simp [hal]), s.readWord_unmapped _ done again a hr]
  unfold State.answerWord
  rw [leBytes_four_zero]

/-- R33: the address phase of a transfer at an address that is no multiple of 4 ends the transfer. -/
theorem State.addrPhase_misaligned (s : State) {bs : List Byte} (hl : 4 ≤ bs.length) (h : leNat (bs.take 4) % 4 ≠ 0) :
    s.addrPhase bs = .inr (s.accFault R.hostAccStatus_acc_align (leNat (bs.take 4))) := by
  unfold State.addrPhase
  rw [if_neg (by omega), if_neg h]

theorem State.writeTransfer_misaligned (s : State) {bs : List Byte} (hl : 4 ≤ bs.length) (h : leNat (bs.take 4) % 4 ≠ 0) :
    s.writeTransfer bs = s.accFault R.hostAccStatus_acc_align (leNat (bs.take 4)) := by
  unfold State.writeTransfer
  rw [s.addrPhase_misaligned hl h]

theorem State.sdrRead_misaligned (s : State) {bs : List Byte} (count : Nat) (hl : 4 ≤ bs.length)
    (h : leNat (bs.take 4) % 4 ≠ 0) :
    s.sdrRead bs count = (s.accFault R.hostAccStatus_acc_align (leNat (bs.take 4))).answerBytes [0#8] := by
  have hne : bs ≠ [] := List.ne_nil_of_length_pos (by omega)
  have htake : (bs.take 4).take 4 = bs.take 4 := by rw [List.take_take, Nat.min_self]
  unfold State.sdrRead
  rw [if_neg hne, s.addrPhase_misaligned (by rw [List.length_take]; omega) (by rwa [htake]), htake]
  exact if_neg (by omega)

/-! ### Commands as the accesses they carry -/

theorem exec_registerWrite_awake (t a data : Nat) {s : State} (h : s.svc.svc ≠ .dark) :
    exec (.registerWrite t a data) s = .next ((s.at t).writeAt a data) := if_pos (by simpa [State.awake_iff] using h)

theorem exec_clearOnRead_awake (t a again : Nat) (fin : Bool) {s : State} (h : s.svc.svc ≠ .dark) :
    exec (.clearOnRead t a fin again) s = .next (State.answerRead a ((s.at t).readAt a fin again)) :=
  if_pos (by simpa [State.awake_iff] using h)

theorem exec_sdrPrivateWrite_busUp (t : Nat) (bs : List Byte) {s : State} (h : s.busUp 0 = true) :
    exec (.sdrPrivateWrite t bs) s = .next ((s.at t).ack.writeTransfer bs) := if_pos (by simpa using h)

theorem exec_sdrPrivateRead_busUp (t k : Nat) (bs : List Byte) {s : State} (h : s.busUp 0 = true) :
    exec (.sdrPrivateRead t bs k) s = .next ((s.at t).ack.sdrRead bs k) := if_pos (by simpa using h)

/-- A command of HDR-DDR that carries its own code is acknowledged and acts. -/
theorem State.ddr_own {s : State} (code : Nat) (f : State → State) (h : s.busUp 1 = true) : s.ddr code code f = f s.ack := by
  unfold State.ddr
  rw [if_neg (by simp [h]), if_pos rfl]

theorem exec_ddrWrite_busUp (t : Nat) (bs : List Byte) {s : State} (h : s.busUp 1 = true) :
    exec (.ddrWrite t ⟨0x20, bs⟩) s = .next ((s.at t).ack.writeTransfer bs) :=
  congrArg Host.Outcome.next (State.ddr_own 0x20 _ (by simpa using h))

theorem exec_ddrSetPointer_busUp (t : Nat) (bs : List Byte) {s : State} (h : s.busUp 1 = true) :
    exec (.ddrSetPointer t ⟨0x21, bs⟩) s = .next ((s.at t).ack.writeTransfer (bs.take 4)) :=
  congrArg Host.Outcome.next (State.ddr_own 0x21 _ (by simpa using h))

/-! ### The obligations -/

/-- Settles O13: an access to an unmapped word does nothing but record ACC_UNMAPPED, and a read answers zeros. -/
theorem unmappedWordsReadZero : Obligations.UnmappedWordsReadZero := by
  have fault (s : State) (t a : Nat) : ((s.at t).accFault R.hostAccStatus_acc_unmapped a).Faulted s R.hostAccStatus_acc_unmapped :=
    State.accFault_Faulted a (s.at_SameBut t _) rfl
  refine ⟨fun t a again fin s hd h4 hal hr => ⟨_, exec_clearOnRead_awake t a again fin hd, ?_⟩,
    fun t a data s hd h4 hal hr => ⟨_, exec_registerWrite_awake t a data hd, ?_⟩⟩
  · rw [State.answerRead_unmapped _ fin again h4 hal (by rwa [State.at_reach])]
    have r := (fault s t a).answerBytes [0#8, 0#8, 0#8, 0#8]
    exact ⟨rfl, r.flag, r.act, r.hbm, r.flash, r.frame⟩
  · rw [State.writeAt_unmapped _ data h4 hal (by rwa [State.at_reach])]
    have r := fault s t a
    exact ⟨r.flag, r.act, r.hbm, r.flash, r.frame⟩

/-- Settles O14: an access whose start address is no multiple of 4 does nothing but record ACC_ALIGN, which leaves the pointer and
the acknowledgement as they were, and a read answers one zero byte. -/
theorem misalignedTransfersAreRefused : Obligations.MisalignedTransfersAreRefused := by
  have fault {v s : State} (a : Nat) (hv : v.SameBut s [R.hostAccStatus_acc_align, R.hostAccAddr_addr]) :
      (v.accFault R.hostAccStatus_acc_align a).Faulted s R.hostAccStatus_acc_align := State.accFault_Faulted a hv rfl
  have acked (s : State) (t : Nat) := State.ack_SameBut (s.at_SameBut t [R.hostAccStatus_acc_align, R.hostAccAddr_addr])
  refine ⟨fun t bs s hb hl ha => ⟨_, exec_sdrPrivateWrite_busUp t bs hb, ?_⟩,
    fun t k bs s hb hl ha => ⟨_, exec_sdrPrivateRead_busUp t k bs hb, ?_⟩,
    fun t bs s hb hl ha => ⟨_, exec_ddrWrite_busUp t bs hb, ?_⟩,
    fun t bs s hb hl ha => ⟨_, exec_ddrSetPointer_busUp t bs hb, ?_⟩,
    fun t a data s hd ha => ⟨_, exec_registerWrite_awake t a data hd, ?_⟩,
    fun t a again fin s hd ha => ⟨_, exec_clearOnRead_awake t a again fin hd, ?_⟩⟩
  case refine_1 | refine_3 =>
    rw [State.writeTransfer_misaligned _ hl ha]
    have r := fault (leNat (bs.take 4)) (acked s t)
    exact ⟨r.flag, by simp, by simp, r.hbm, r.flash, r.frame⟩
  case refine_2 =>
    rw [State.sdrRead_misaligned _ k hl ha]
    have r := (fault (leNat (bs.take 4)) (acked s t)).answerBytes [0#8]
    exact ⟨rfl, r.flag, by simp, rfl, r.hbm, r.flash, r.frame⟩
  case refine_4 =>
    have whole : bs.take 4 = bs := List.take_of_length_le hl.le
    rw [whole, State.writeTransfer_misaligned _ hl.ge (by rwa [whole])]
    have r := fault (leNat (bs.take 4)) (acked s t)
    exact ⟨r.flag, by simp, by simp, r.hbm, r.flash, r.frame⟩
  case refine_5 =>
    rw [State.writeAt_misaligned _ data ha]
    have r := fault a (s.at_SameBut t _)
    exact ⟨r.flag, by simp, r.hbm, r.flash, r.frame⟩
  case refine_6 =>
    rw [State.answerRead_misaligned _ fin again ha]
    have r := (fault a (s.at_SameBut t _)).answerBytes [0#8]
    exact ⟨rfl, r.flag, by simp, r.hbm, r.flash, r.frame⟩

end Sys2Proof.Machine
end

section
/-! SUPPORT. The 40-bit time fields (R73, R74): the signed difference is Mathlib's balanced residue `Int.bmod`. -/

namespace Sys2Proof.Machine

/-! ### The signed difference as a balanced residue -/

/-- A field of `k + 1` bits read as two's complement is the residue of its value that lies in `[-2^k, 2^k)`. -/
theorem signed_succ_eq_bmod (k v : Nat) : signed (k + 1) v = (v : Int).bmod (2 ^ (k + 1)) := by
  have half : (((2 ^ (k + 1) : Nat) : Int) + 1) / 2 = ((2 ^ k : Nat) : Int) := by
    rw [pow_succ]; omega
  rw [Int.bmod_def, half, ← Int.natCast_mod, signed, Nat.add_sub_cancel]
  norm_cast

/-- The residue that is read as two's complement, without the model's detour that keeps it a natural number. -/
theorem diff40_eq_bmod (f d : Nat) : diff40 f d = ((f : Int) - d).bmod (2 ^ 40) := by
  have natural : (((f % 2 ^ 40 + (2 ^ 40 - d % 2 ^ 40)) % 2 ^ 40 : Nat) : Int) = ((f : Int) - d) % (2 ^ 40 : Nat) := by omega
  rw [diff40, signed_succ_eq_bmod, natural, Int.emod_bmod]

theorem le_diff40 (f d : Nat) : -2 ^ 39 ≤ diff40 f d := by
  rw [diff40_eq_bmod]
  exact Int.le_bmod (by decide)

theorem diff40_lt (f d : Nat) : diff40 f d < 2 ^ 39 := by
  rw [diff40_eq_bmod]
  exact Int.bmod_lt (by decide)

/-- A balanced residue is not positive when the residue is 0 or in the upper half. -/
theorem bmod_nonpos_iff (x : Int) {m : Nat} (hm : 0 < m) : x.bmod m ≤ 0 ↔ x % m = 0 ∨ ((m : Int) + 1) / 2 ≤ x % m := by
  have nonneg : 0 ≤ x % m := Int.emod_nonneg x (by omega)
  have below : x % m < m := Int.emod_lt_of_pos x (by omega)
  rw [Int.bmod_def]
  split <;> omega

/-! ### The expansion of a field to a Hive time -/

/-- R74: from 2^39 on the Hive time `Dial + d` is no negative number, which a natural number would cut off. -/
theorem expand40_eq_add (f : Nat) {d : Nat} (hd : 2 ^ 39 ≤ d) : (expand40 f d : Int) = d + diff40 f d := by
  have back := le_diff40 f d
  exact Int.toNat_of_nonneg (by omega)

/-- R74: the expansion keeps the low 40 bits of the field. -/
theorem expand40_emod (f : Nat) {d : Nat} (hd : 2 ^ 39 ≤ d) : (expand40 f d : Int) % 2 ^ 40 = (f : Int) % 2 ^ 40 := by
  have residue : diff40 f d % 2 ^ 40 = ((f : Int) - d) % 2 ^ 40 := by
    rw [diff40_eq_bmod]
    exact Int.bmod_emod
  calc (expand40 f d : Int) % 2 ^ 40 = (d + diff40 f d % 2 ^ 40) % 2 ^ 40 := by rw [expand40_eq_add f hd, Int.add_emod_emod]
    _ = (d + ((f : Int) - d)) % 2 ^ 40 := by rw [residue, Int.add_emod_emod]
    _ = (f : Int) % 2 ^ 40 := by rw [add_sub_cancel]

/-! ### The obligation -/

/-- Settles O58: the signed difference is the balanced residue of `F - Dial` modulo 2^40, so it is not positive exactly when the
plain residue is 0 or in the upper half, and `Dial + d` lies within 2^39 of the Dial. -/
theorem timeFieldsFallDueBySignedDifference : Obligations.TimeFieldsFallDueBySignedDifference := by
  refine ⟨fun f d => ?due, fun f d hd => ⟨expand40_emod f hd, ?expansion⟩⟩
  case due =>
    rw [due40, decide_eq_true_iff, diff40_eq_bmod, bmod_nonpos_iff _ (by decide), Int.sub_emod_emod]
    rfl
  case expansion =>
    rw [expand40_eq_add f hd, add_sub_cancel_left]
    exact ⟨le_diff40 f d, diff40_lt f d⟩

end Sys2Proof.Machine
end

section
/-! SUPPORT. SETC and the 24-bit counters of a sequencer (R146). -/

namespace Sys2Proof.Machine

/-! ### A counter that is set in a step -/

theorem mwTarget_lt (w : Nat) : mwTarget w < 2 ^ 15 := Nat.mod_lt _ (by decide)

theorem pc_key_ne_count_key (n k : Nat) : (R.seqPc_pc n).key ≠ (R.seqCnt_count n k).key := by
  simp only [R.seqPc_pc, R.seqCnt_count]
  omega

theorem count_key_ne_run_key (n k : Nat) : (R.seqCnt_count n k).key ≠ (R.seqStatus_run n).key := by
  simp only [R.seqStatus_run, R.seqCnt_count]
  omega

/-- A counter holds the low 24 bits of what it is set to. -/
@[simp] theorem State.setCount_count (s : State) (n k x : Nat) : (s.setCount n k x).count n k = x % 2 ^ 24 :=
  State.rd_wr _ _ _

@[simp] theorem State.setCount_pc (s : State) (n k x : Nat) :
    (s.setCount n k x).rd (R.seqPc_pc n) = s.rd (R.seqPc_pc n) :=
  State.rd_wr_ne _ _ (pc_key_ne_count_key n k)

/-- To go on to the next word changes no counter. -/
@[simp] theorem State.goNext_count (s : State) (n k : Nat) : (s.goNext n).count n k = s.count n k :=
  (s.goNext_SameBut n).1.1 _ (by simp [(pc_key_ne_count_key n k).symm, count_key_ne_run_key])

/-- The borrow bit that SUB adds keeps the difference a natural number, and is no part of the 24 bits. -/
theorem natCast_add_sub_mod {c x : Nat} (hx : x ≤ 2 ^ 24) :
    (((c + 2 ^ 24 - x) % 2 ^ 24 : Nat) : Int) = ((c : Int) - x) % 2 ^ 24 := by
  omega

/-- A ready SETC, whose mode computes `value`, sets its counter to the low 24 bits of that value and goes on to the next word. -/
theorem setc_answers {c : Instr} {t w mode : Nat} {n : Fin 64} {s v : State} (value : State → Nat → Nat)
    (acts : exec c s = .next ((s.at t).stepWith n (isSetc mode) fun s w => (s.setCount n (mwArg w % 16) (value s w)).goNext n))
    (ready : (s.at t).ready n = some (w, v)) (setc : isSetc mode w = true) :
    Answers c s fun u => u.count n (mwArg w % 16) = value v w % 2 ^ 24 ∧
      u.rd (R.seqPc_pc n) = (v.rd (R.seqPc_pc n) + 1) % 2 ^ 15 :=
  ⟨_, acts.trans (congrArg _ (State.stepWith_ready _ ready setc)), by simp, by simp⟩

/-! ### The obligation -/

/-- Settles O27: the four modes are one step that sets the counter to its low 24 bits; the 15-bit TARGET fits, and is less than the
borrow that SUB adds. -/
theorem setcActsOnItsCounter : Obligations.SetcActsOnItsCounter := by
  refine ⟨fun t w n s v ready setc => ?load,
    fun t w n s v ready setc => setc_answers (fun s w => s.ard (R.seqCinit_cinit n (mwArg w % 16))) rfl ready setc,
    fun t w n s v ready setc => setc_answers (fun s w => s.count n (mwArg w % 16) + mwTarget w) rfl ready setc,
    fun t w n s v ready setc => ?sub⟩
  case load =>
    obtain ⟨u, answer, count, pc⟩ := setc_answers (c := .setcLoad t n) (fun _ w => mwTarget w) rfl ready setc
    exact ⟨u, answer, count.trans (Nat.mod_eq_of_lt ((mwTarget_lt w).trans (by decide))), pc⟩
  case sub =>
    obtain ⟨u, answer, count, pc⟩ :=
      setc_answers (c := .setcSub t n) (fun s w => s.count n (mwArg w % 16) + 2 ^ 24 - mwTarget w) rfl ready setc
    exact ⟨u, answer, count ▸ natCast_add_sub_mod ((mwTarget_lt w).le.trans (by decide)), pc⟩

end Sys2Proof.Machine
end

section
/-! SUPPORT. The bulk clear of the local tag slots, `slot_clear` (R212). -/

namespace Sys2Proof.Machine

/-! ### Registers taken back to their reset values -/

/-- A map without the entries whose keys `p` marks holds the default there, and what it held elsewhere. -/
theorem SMap.get_filter {α : Type} (d : α) (p : Nat → Bool) (m : List (Nat × α)) (k : Nat) :
    SMap.get d (m.filter fun e => !p e.1) k = if p k then d else SMap.get d m k := by
  induction m with
  | nil => simp [SMap.get]
  | cons e m ih =>
    by_cases hk : e.1 = k
    · subst hk
      cases hp : p e.1 <;> simp [SMap.get, hp, ih]
    · cases hp : p e.1 <;> simp [SMap.get, hp, hk, ih]

/-- The registers whose keys `p` marks, back at their reset values. -/
def State.unsetRegs (s : State) (p : Nat → Bool) : State := { s with regs := s.regs.filter fun e => !p e.1 }

theorem State.unsetRegs_rd (s : State) (p : Nat → Bool) (f : Fld) :
    (s.unsetRegs p).rd f = if p f.key then f.reset else s.rd f := SMap.get_filter _ p _ _

/-! ### The valid bits of the local slots -/

/-- The key is that of the valid bit of a local slot: DEC_SLOT_LO repeats 4,096 times, 8 bytes apart (R234). -/
def isSlotValidKey (k : Nat) : Bool :=
  let lo := (R.decSlotLo_valid 0).key
  decide (lo ≤ k ∧ k < lo + 4096 * 256 ∧ (k - lo) % 256 = 0)

theorem isSlotValidKey_iff (k : Nat) : isSlotValidKey k = true ↔ ∃ i < 4096, (R.decSlotLo_valid i).key = k := by
  rw [isSlotValidKey, decide_eq_true_eq]
  simp only [R.decSlotLo_valid]
  constructor
  · rintro ⟨ge, lt, stride⟩
    exact ⟨(k - (0x8000 * 32 + 2)) / 256, by omega, by omega⟩
  · rintro ⟨i, lt, rfl⟩
    omega

theorem isSlotValidKey_valid (i : Fin 4096) : isSlotValidKey (R.decSlotLo_valid i).key = true :=
  (isSlotValidKey_iff _).2 ⟨i, i.2, rfl⟩

/-- The remote cache lies below the slots. -/
theorem isSlotValidKey_of_lt {k : Nat} (h : k < (R.decSlotLo_valid 0).key) : isSlotValidKey k = false :=
  decide_eq_false fun ⟨ge, _⟩ => Nat.not_le.2 h ge

theorem valid_key_ne_result_key (i : Nat) : (R.decSlotLo_valid i).key ≠ R.decCtl_result.key := by
  simp only [R.decSlotLo_valid, R.decCtl_result]
  omega

/-! ### slot_clear -/

theorem State.slotClear_halted {s : State} (h : s.allHalted = true) :
    s.slotClear = (s.unsetRegs isSlotValidKey).wr R.decCtl_result rOK := by
  simp only [State.slotClear, h, if_true, State.unsetRegs, isSlotValidKey, decide_not]

theorem State.slotClear_running {s : State} (h : s.allHalted = false) : s.slotClear = s.wr R.decCtl_result rSTATE :=
  if_neg (by simp [h])

/-- With every sequencer halted, the registers that `slot_clear` changes are the valid bits, which read their reset value, and `result`. -/
theorem State.slotClear_halted_rd {s : State} (h : s.allHalted = true) {f : Fld} (hf : f.key ≠ R.decCtl_result.key) :
    s.slotClear.rd f = if isSlotValidKey f.key then f.reset else s.rd f := by
  rw [State.slotClear_halted h, State.rd_wr_ne _ _ hf, State.unsetRegs_rd]

theorem exec_slotClear_awake (t : Nat) {s : State} (h : s.svc.svc ≠ .dark) :
    exec (.slotClear t) s = .next (s.at t).slotClear := if_pos (by simpa [State.awake_iff] using h)

/-! ### The obligation -/

theorem slotClear_halted_answers (t : Nat) {s : State} (awake : s.svc.svc ≠ .dark) (halted : s.allHalted = true) :
    Answers (.slotClear t) s fun u => u.rd R.decCtl_result = 0 ∧ (∀ k : Fin 4096, u.rd (R.decSlotLo_valid k) = 0) ∧
      u.dec = s.dec ∧
      (∀ e : Fin 1024, u.rd (R.decRcLo_rc_used e) = s.rd (R.decRcLo_rc_used e) ∧
        u.rd (R.decRcLo_rc_tag e) = s.rd (R.decRcLo_rc_tag e)) ∧
      u.RegsBut s (R.decCtl_result :: (List.range 4096).map R.decSlotLo_valid) := by
  have halted' : (s.at t).allHalted = true := (s.at_allHalted t).trans halted
  have kept {f : Fld} (hr : f.key ≠ R.decCtl_result.key) (hv : isSlotValidKey f.key = false) :
      (s.at t).slotClear.rd f = s.rd f := by
    rw [State.slotClear_halted_rd halted' hr, hv, if_neg Bool.false_ne_true, State.at_rd]
  have equation := State.slotClear_halted halted'
  refine ⟨_, exec_slotClear_awake t awake, ?result, fun k => ?valid, ?dec, fun e => ⟨?used, ?tag⟩, fun f hf => ?others, ?act⟩
  case result => rw [equation, State.rd_wr]; rfl
  case valid => rw [State.slotClear_halted_rd halted' (valid_key_ne_result_key k), isSlotValidKey_valid, if_pos rfl]; rfl
  case dec => rw [equation]; exact s.at_dec t
  case used | tag =>
    refine kept ?_ (isSlotValidKey_of_lt ?_) <;>
      simp only [R.decRcLo_rc_used, R.decRcLo_rc_tag, R.decCtl_result, R.decSlotLo_valid] <;> omega
  case others =>
    rw [List.map_cons, List.mem_cons, not_or] at hf
    obtain ⟨notResult, notValid⟩ := hf
    refine kept notResult (Bool.eq_false_iff.2 fun hv => notValid ?_)
    obtain ⟨i, lt, key⟩ := (isSlotValidKey_iff _).1 hv
    exact key ▸ List.mem_map_of_mem (List.mem_map_of_mem (List.mem_range.2 lt))
  case act => rw [equation]; exact s.at_act t

/-- Settles O37: the entries that `slot_clear` drops are those of the valid bits, and a refused one writes only its result. -/
theorem slotClearNeedsEverySequencerHalted : Obligations.SlotClearNeedsEverySequencerHalted := by
  refine ⟨fun t s awake halted => slotClear_halted_answers t awake halted,
    fun t s awake running => ⟨_, exec_slotClear_awake t awake, ?_⟩⟩
  rw [State.slotClear_running ((s.at_allHalted t).trans running)]
  exact ⟨State.rd_wr _ _ _, s.at_dec t, fun f hf => (State.rd_wr_ne _ _ hf).trans (s.at_rd t f)⟩

end Sys2Proof.Machine
end

section
/-! SUPPORT. The receive mailbox of a port: USER packets and `rx_pop` (R396). -/

namespace Sys2Proof.Machine

/-! ### Taking a packet and showing the mailbox -/

/-- Taking a packet off a port leaves the service state. -/
theorem State.takePkt_svc {s v : State} {p : Nat} {ok : Pkt → Bool} {x : Pkt} (h : s.takePkt p ok = some (x, v)) :
    v.svc = s.svc := by
  unfold State.takePkt at h
  split at h
  · cases h
  · cases h; rfl

theorem State.foldl_wr_ports {α : Type} (f : α → Fld) (value : α → Nat) (l : List α) (s : State) :
    (l.foldl (fun s i => s.wr (f i) (value i)) s).ports = s.ports := by
  induction l generalizing s with
  | nil => rfl
  | cons i l ih => exact ih _

/-- The mailbox is shown in registers: no port changes. -/
@[simp] theorem State.showMbox_ports (s : State) (p : Nat) : (s.showMbox p).ports = s.ports := by
  simp only [State.showMbox]
  split
  · rfl
  · exact State.foldl_wr_ports _ _ _ _

@[simp] theorem State.showMbox_port (s : State) (p j : Nat) : (s.showMbox p).port j = s.port j :=
  congrArg (SMap.get PortSt.init · j) (s.showMbox_ports p)

/-- A device source fires into the Waggle channels only. -/
@[simp] theorem State.fireD_port (s : State) (d j : Nat) : (s.fireD d).port j = s.port j := rfl

/-! ### A USER packet -/

theorem State.userPkt_room {s : State} {p : Nat} (x : Pkt) (h : (s.port p).mbox.length < 16) :
    s.userPkt p x = ((s.setPort p { s.port p with mbox := (s.port p).mbox ++ [x] }).showMbox p).fireD (48 + p) :=
  if_neg (Nat.not_le.2 h)

theorem State.userPkt_full {s : State} {p : Nat} (x : Pkt) (h : 16 ≤ (s.port p).mbox.length) :
    s.userPkt p x = s.wr (R.elvFlags_rx_drop p) 1 := if_pos h

/-- Outside Dark the USER packet that a port holds is taken off it and judged by the mailbox. -/
theorem exec_user_taken {t : Nat} {p : Fin 8} {x : Pkt} {s v : State}
    (taken : (s.at t).takePkt p (fun x => decide (x.ptype = 2)) = some (x, v)) (awake : s.svc.svc ≠ .dark) :
    exec (.user t p) s = .next (v.userPkt p x) := by
  have awake' : v.awake = true := v.awake_iff.2 (by rwa [State.takePkt_svc taken, State.at_svc])
  change execUser t p s = _
  unfold execUser
  simp only [taken, awake', if_true]

/-! ### rx_pop -/

theorem State.rxPop_cons {s : State} {p : Nat} {x : Pkt} {l : List Pkt} (h : (s.port p).mbox = x :: l) :
    s.rxPop p = ((s.setPort p { s.port p with mbox := l }).showMbox p).wr (R.elvCmd_result p) 0 := by
  unfold State.rxPop
  rw [h]
  rfl

theorem State.rxPop_nil {s : State} {p : Nat} (h : (s.port p).mbox = []) : s.rxPop p = s.wr (R.elvCmd_result p) 2 := by
  unfold State.rxPop
  rw [h]
  rfl

/-- Outside Sleep a command of the host reaches its block. -/
theorem State.hostCmd_of_up {s : State} (a : Nat) (f : State → State) (up : s.svc.svc = .amber ∨ s.svc.svc = .green) :
    s.hostCmd a f = f s := by
  have notSleep : s.isSleep = false := decide_eq_false (by rcases up with h | h <;> simp [h])
  exact if_neg (by simp [notSleep])

theorem exec_rxPop_up (t : Nat) (p : Fin 8) {s : State} (up : s.svc.svc = .amber ∨ s.svc.svc = .green) :
    exec (.rxPop t p) s = .next ((s.at t).rxPop p) := by
  have awake : (s.at t).awake = true := (s.at_awake t).trans (s.awake_iff.2 (by rcases up with h | h <;> simp [h]))
  exact (if_pos awake).trans (congrArg _ (State.hostCmd_of_up _ _ (by rwa [State.at_svc])))

/-! ### The obligation -/

/-- Settles O59: the mailbox takes a USER packet while it holds fewer than 16 and drops it otherwise, `rx_pop` takes its head, and
showing it changes no port. -/
theorem receiveMailboxHoldsSixteen : Obligations.ReceiveMailboxHoldsSixteen := by
  refine ⟨fun t p x s v taken awake room => ⟨_, exec_user_taken taken awake, v.userPkt_room x room, ?joined⟩,
    fun t p x s v taken awake full => ⟨_, exec_user_taken taken awake, v.userPkt_full x full, ?dropped⟩,
    fun t p x l s up holds => ?popped, fun t p s up empty => ?refused⟩
  case joined =>
    rw [v.userPkt_room x room, State.fireD_port, State.showMbox_port, State.setPort_port_self]
  case dropped => rw [v.userPkt_full x full, State.wr_ports]
  case popped =>
    have equation := State.rxPop_cons ((congrArg PortSt.mbox (s.at_port t p)).trans holds)
    refine ⟨_, exec_rxPop_up t p up, by rw [equation, State.at_port], ?_⟩
    rw [equation, State.wr_port, State.showMbox_port, State.setPort_port_self]
  case refused =>
    exact ⟨_, exec_rxPop_up t p up, State.rxPop_nil ((congrArg PortSt.mbox (s.at_port t p)).trans empty)⟩

end Sys2Proof.Machine
end

section
/-! SUPPORT. The basic levels of chain time, the Waggle channels and calibration scheduling (R423, R434, R479): each is a list of
fields with their derived values, and a list without a repeated field leaves every field of it at its value. -/

namespace Sys2Proof.Machine

/-! ### Deriving a list of fields -/

/-- Every field of a list takes the value beside it, shadow and active value (R52). -/
def State.bothAll (s : State) (l : List (Fld × Nat)) : State := l.foldl (fun s e => s.both e.1 e.2) s

theorem State.both_ard_self (s : State) (f : Fld) (v : Nat) : (s.both f v).ard f = v % 2 ^ f.width := State.ard_awr _ f v

theorem State.both_ard_ne (s : State) {f g : Fld} (v : Nat) (h : g.key ≠ f.key) : (s.both f v).ard g = s.ard g := State.ard_awr_ne _ f v h

/-- A field outside the list keeps its active value. -/
theorem State.bothAll_ard_of_notMem (s : State) {l : List (Fld × Nat)} {g : Fld} (h : ∀ e ∈ l, g.key ≠ e.1.key) :
    (s.bothAll l).ard g = s.ard g := by
  induction l generalizing s with
  | nil => rfl
  | cons e l ih =>
    obtain ⟨other, rest⟩ := List.forall_mem_cons.1 h
    exact (ih (s.both e.1 e.2) rest).trans (s.both_ard_ne e.2 other)

/-- A field of the list reads its derived value, where the value fits and no later entry writes the field again. -/
theorem State.bothAll_ard_of_mem (s : State) {l : List (Fld × Nat)} (distinct : (l.map (·.1.key)).Nodup)
    (fits : ∀ e ∈ l, e.2 < 2 ^ e.1.width) : ∀ e ∈ l, (s.bothAll l).ard e.1 = e.2 := by
  induction l generalizing s with
  | nil => exact fun _ h => absurd h List.not_mem_nil
  | cons e l ih =>
    obtain ⟨fresh, distinct⟩ := List.nodup_cons.1 distinct
    obtain ⟨fit, fits⟩ := List.forall_mem_cons.1 fits
    refine List.forall_mem_cons.2 ⟨?first, ih (s.both e.1 e.2) distinct fits⟩
    have untouched : ∀ d ∈ l, e.1.key ≠ d.1.key := fun d hd same => fresh (List.mem_map.2 ⟨d, hd, same.symm⟩)
    calc ((s.both e.1 e.2).bothAll l).ard e.1
        = (s.both e.1 e.2).ard e.1 := State.bothAll_ard_of_notMem _ untouched
      _ = e.2 % 2 ^ e.1.width := s.both_ard_self e.1 e.2
      _ = e.2 := Nat.mod_eq_of_lt fit

/-! ### The derived fields of the three blocks -/

/-- The E fields of chain time (R423). -/
def chainBasic : List (Fld × Nat) :=
  [(R.chnLoop_tc, 4), (R.chnLoop_slew, 64), (R.chnLoop_q_to, 10), (R.chnRevert_rev_t, 100), (R.chnCtl_revert, 1)]

/-- The E fields of the Waggle channels (R434): a refractory time of 100 ns. -/
def wagBasic : List (Fld × Nat) := (List.range 256).map fun c => (R.wagRefr_refr c, 100)

/-- The E fields of calibration scheduling (R479). -/
def calBasic : List (Fld × Nat) :=
  [(R.calCtl_bg_en, 0x3F), (R.calCfg_dt, 2 * 16), (R.calCfg_cal_per, 24), (R.calCfg_cal_wait, 10)]

theorem State.deriveChain_basic {s : State} (h : s.rd R.chnCtl_level = 0) : s.deriveChain = s.bothAll chainBasic :=
  if_neg (by rw [h]; decide)

theorem State.deriveWag_basic {s : State} (h : s.rd R.wagCtl_level = 0) : s.deriveWag = s.bothAll wagBasic := by
  have basic : ¬ s.rd R.wagCtl_level = 1 := by rw [h]; decide
  rw [State.deriveWag, if_neg basic, State.bothAll, wagBasic, List.foldl_map]

theorem State.deriveCal_basic {s : State} (h : s.rd R.calCtl_level = 0) : s.deriveCal = s.bothAll calBasic :=
  if_neg (by rw [h]; decide)

theorem State.deriveChain_basic_ard {s : State} (h : s.rd R.chnCtl_level = 0) : ∀ e ∈ chainBasic, s.deriveChain.ard e.1 = e.2 := by
  rw [State.deriveChain_basic h]
  exact s.bothAll_ard_of_mem (by decide) (by decide)

theorem State.deriveCal_basic_ard {s : State} (h : s.rd R.calCtl_level = 0) : ∀ e ∈ calBasic, s.deriveCal.ard e.1 = e.2 := by
  rw [State.deriveCal_basic h]
  exact s.bothAll_ard_of_mem (by decide) (by decide)

/-- Each channel has its own refractory field. -/
theorem refr_key_injective : Function.Injective fun c => (R.wagRefr_refr c).key := by
  intro c d h
  simp only [R.wagRefr_refr] at h
  omega

theorem en_key_ne_refr_key (c d : Nat) : (R.wagEn_en c).key ≠ (R.wagRefr_refr d).key := by
  simp only [R.wagEn_en, R.wagRefr_refr]
  omega

theorem State.deriveWag_basic_refr {s : State} (h : s.rd R.wagCtl_level = 0) {c : Nat} (hc : c < 256) :
    s.deriveWag.ard (R.wagRefr_refr c) = 100 := by
  have distinct : (wagBasic.map (·.1.key)).Nodup := by
    rw [wagBasic, List.map_map]
    exact List.nodup_range.map refr_key_injective
  have fits : ∀ e ∈ wagBasic, e.2 < 2 ^ e.1.width := List.forall_mem_map.2 fun _ _ => by simp only [R.wagRefr_refr]; decide
  rw [State.deriveWag_basic h]
  exact s.bothAll_ard_of_mem distinct fits (R.wagRefr_refr c, 100) (List.mem_map.2 ⟨c, List.mem_range.2 hc, rfl⟩)

theorem State.deriveWag_basic_en {s : State} (h : s.rd R.wagCtl_level = 0) (c : Nat) :
    s.deriveWag.ard (R.wagEn_en c) = s.ard (R.wagEn_en c) := by
  rw [State.deriveWag_basic h]
  exact s.bothAll_ard_of_notMem (List.forall_mem_map.2 fun d _ => en_key_ne_refr_key c d)

/-! ### The obligation -/

/-- Settles O60: at the basic level each block writes a list of different fields, and at the expert level its derivation is the
identity. -/
theorem basicLevelsDeriveTheirFields : Obligations.BasicLevelsDeriveTheirFields := by
  refine ⟨fun s basic => ?chain, fun s basic c => ⟨State.deriveWag_basic_refr basic c.isLt, State.deriveWag_basic_en basic c⟩,
    fun s basic => ?cal, fun _ expert => if_pos expert, fun _ expert => if_pos expert, fun _ expert => if_pos expert⟩
  case chain => simpa only [chainBasic, List.forall_mem_cons, List.not_mem_nil, false_imp_iff, implies_true, and_true] using State.deriveChain_basic_ard basic
  case cal => simpa only [calBasic, List.forall_mem_cons, List.not_mem_nil, false_imp_iff, implies_true, and_true] using State.deriveCal_basic_ard basic

end Sys2Proof.Machine
end

section
/-! SUPPORT. Steps of the queue: the front command runs, an empty queue counts, and what every step keeps. -/

namespace Sys2Proof.Machine

theorem step_cons (c : Instr) (l : List Instr) (s : State) : step { s with pending := c :: l } = exec c { s with pending := l } := rfl

theorem step_nil {s : State} (h : s.pending = []) : step s = .next (s.at (s.dial + s.gran)) := by
  unfold step
  rw [h]

/-- A step is the idle count of the Dial, or a command on the state without it. -/
theorem step_cases {s : State} {o : Host.Outcome State Fault Refusal} (h : step s = o) :
    o = .next (s.at (s.dial + s.gran)) ∨ ∃ c l, s.pending = c :: l ∧ exec c { s with pending := l } = o := by
  cases hp : s.pending with
  | nil => exact .inl (h.symm.trans (step_nil hp))
  | cons c l =>
    refine .inr ⟨c, l, rfl, ?_⟩
    unfold step at h
    rwa [hp] at h

/-! ### Time -/

/-- Events that enter their channels leave the Dial. -/
@[simp] theorem State.flush_dial (s : State) : s.flush.dial = s.dial := by
  obtain ⟨w, h, -⟩ := s.flush_eq
  exact (congrArg State.dial h).trans rfl

/-- From a Dial on its grid, outside Dark, the next value of the grid is one count on. -/
theorem State.at_next_dial {s : State} (awake : s.svc.svc ≠ .dark) (grid : s.dial % s.gran = 0) :
    (s.at (s.dial + s.gran)).dial = (s.dial + s.gran) % 2 ^ 72 := by
  have onGrid : s.dial + s.gran - (s.dial + s.gran) % s.gran = s.dial + s.gran := by
    rw [Nat.add_mod_right, grid, Nat.sub_zero]
  have ticks : (s.at (s.dial + s.gran)).dial = max s.dial (s.dial + s.gran - (s.dial + s.gran) % s.gran) % 2 ^ 72 := by
    rw [State.at, if_neg awake, State.flush_dial]
  rw [ticks, onGrid, Nat.max_eq_right (Nat.le_add_right _ _)]

/-! ### Every command completes -/

/-- The outcome is a next state: neither a fault nor a refusal. -/
def Completes (o : Host.Outcome State Fault Refusal) : Prop := ∃ u, o = .next u

theorem Completes.next (u : State) : Completes (.next u) := ⟨u, rfl⟩

theorem Completes.ite {c : Prop} [Decidable c] {a b : Host.Outcome State Fault Refusal} (ha : Completes a) (hb : Completes b) :
    Completes (if c then a else b) := by
  split
  · exact ha
  · exact hb

theorem exec_completes (c : Instr) (s : State) : Completes (exec c s) := by
  cases c
  case wakePin | nop | wait | setcLoad | setcInit | setcAdd | setcSub | loop | halt | play | meas | frame | publish | branch |
    call | ret | waitt | sync | syncRelease | shotBegin | shotEnd | commitShot | commitAt | commitAbort | powerApplied |
    ddrSetPointer | ddrWrite | ddrRead | cccSetnewda | cccGetmwl | cccGetmrl | cccGetpid | cccGetbcr | cccGetdcr |
    cccGetstatus | cccGetmxds =>
    exact Completes.next _
  case calendarRead | lifePeriodic | lifeRd | segmentBoundary | frameAction | cellJump | envelopeUnderrun | clipClr |
    bankHiWrite | overRange | captureTrigger | capArm | capStop | capForce | captureRecordCommit | captureFallBehind |
    biasLoadCmd | biasStageWrite | tripClr | biasSupplyTrip | markerEdge | markForce | measurementGo | measurementStop |
    txnOpen | txnStage | txnCommit | txnAbort | swarmGo | swarmGuardExpiry | leaveGreen | greenLossCleared | accClr |
    mcal | specCutoff | slotClear | calRun | calPassTrigger | calMeasurementDone | calAbandon | converterCalDone | cdRun
    | lqPush | rxPop | forwardedClockSteady | lanesLocked | slipSearchDone | deskewDone | laneSlip | negGo | retrain |
    laneLoss | pauseTo | frameReceive | mapApply | hostReq | stackLost | hbmScrubPass | announceTimer | holdoverTimeSend
    | queenRevert | joinStep | formListenEnd | ppsInEdge | secondBoundary | ppsOutFall | refClkLoss | ibiAcknowledged |
    ibiNacked | waggleFire | shadowCapture | updateStrobe | updateAtArm | updateAtCancel | updateApply | seqStart |
    seqResume | seqAbort | seqShotAbort | seqIclr | seqQuiet | microScrub | nresetLow | vddAuxCollapse | nresetHigh |
    pllLock | hbmTrainingDone | enterGreen | sleepEntryComplete | mailboxGo | imageSwitch | keyChange | calStore |
    chainJoin | chainLeave | outputEnable | sleep | fuseMinVersion | fuseOwnerKey | fuseRevoke | attest | flashErase |
    flashProg | flashRead | flashOpComplete | registerWrite | clearOnRead | bitAliasWrite | dialRead | slotPairRead |
    stampLastRead | measurementResultRead | xaddrWrite | xdataRead | xdataWrite | postedWriteComplete | cccEntdaa |
    cccSetdasa | cccRstdaa | cccEnec | cccDisec | cccSetmwl | cccSetmrl | cccEnthdr0 | hdrExit =>
    exact Completes.ite (Completes.next _) (Completes.next _)
  all_goals
    simp only [exec, execLifeRdDone, execOverRangeValidReturn, execBandSettleEnd, execCaptureTimeout, execCaptureAuto, execWindowOpen,
      execWindowClose, execResultRecordWrite, execShotTrailer, execFluxStart, execFluxEnd, execBiasLoad, execRangeHoldEnd,
      execSupervisionTrip, execBiasLimitClamp, execBiasSupplyRestored, execIntervalResult, execIntervalTimeout,
      execFrequencyGateEnd, execStampEdge, execTxnDecisionPoint, execPrepare, execVote, execSwarmCommit, execAck,
      execSwarmAbort, execStatusQ, execStatusA, execStatusNoAnswer, execMuteNLow, execMuteNHigh, execHousekeepingDue,
      execMonConversionDone, execMcalDone, execPulseStart, execVerdictWord, execQueryWord, execCancelWord, execTagSlotArrival,
      execVerdictHorizonExpiry, execWaittTriggered, execWaittTimeout, execSyncTimeout, execCalStale, execCdRunComplete,
      execBoundaryActionsApply, execHaltedCalStep, execFrameSend, execUser, execProbeExchange, execProbe, execTrainingActive,
      execTrainTo, execLosClear, execLinkRemap, execLinkResume, execSoftRepair, execDescReadComplete, execStreamRefill,
      execFarStoreAbandon, execMemRd, execMemWr, execMemData, execCpl, execLoad, execLoadComplete, execChain, execRouteExpiry,
      execTimeSend, execTime, execQueenTimeout, execRefClkReturn, execIbiAttempt, execIbiRetry, execWaggleDelivery,
      execRefractoryEnd, execTxnApply, execRunAheadRelease, execDescCheckReturn, execSequencerFault, execWakeComplete,
      execMailboxComplete, execLockWrite, execPrefetchComplete, execSdrPrivateWrite, execSdrPrivateRead, execCccRstact]
    repeat' split
    all_goals exact Completes.next _


/-! ### Dark -/

theorem State.reset_enterDark : State.reset.enterDark = State.reset := rfl

/-- The command SHOT_TRAILER counts the clip reports of its Comb up to the present before it looks for a shot, in Dark as well. -/
theorem exec_shotTrailer_reset : exec (.shotTrailer 0 0) State.reset = .next (State.reset.settleNow 0) := rfl

/-! ### The obligations -/

/-- Settles O1: a step is defined by the front of the queue. -/
theorem stepRunsTheFrontCommand : Obligations.StepRunsTheFrontCommand := step_cons

/-- Settles O2: an idle step is one count of the Dial, which in Dark stands still. -/
theorem emptyQueueAdvancesTheDial : Obligations.EmptyQueueAdvancesTheDial :=
  ⟨fun s idle awake grid => ⟨_, step_nil idle, State.at_next_dial awake grid, s.at_regs _, s.at_act _, s.at_hbm _, s.at_flash _⟩,
    fun s idle dark => (step_nil idle).trans (congrArg _ (s.at_dark _ dark))⟩

/-- Settles O3: after reset the memories are empty, the Dial is 0 and no register is written. -/
theorem resetMeetsInvariant : Obligations.ResetMeetsInvariant := by
  refine ⟨⟨rfl, ?dial⟩, rfl, rfl, fun _ => rfl⟩
  case dial => exact Nat.two_pow_pos 72

/-- Settles O4: letting the Dial count keeps the invariant, and so does every command (`exec_keeps`). -/
theorem everyStepKeepsInvariant : Obligations.EveryStepKeepsInvariant := by
  intro s u inv h
  rcases step_cases h with idle | ⟨c, l, -, run⟩
  · cases idle
    exact (State.at_keeps s _ (Keeps.refl s)).2 inv
  · exact (exec_keeps c _ (Keeps.refl _) u run).2 inv

/-- Settles O5: every arm of `exec` answers a next state, and none touches the queue (`exec_keeps`). -/
theorem everyCommandCompletesAndLeavesTheQueue : Obligations.EveryCommandCompletesAndLeavesTheQueue := by
  intro c s
  obtain ⟨u, h⟩ := exec_completes c s
  exact ⟨u, h, (exec_keeps c s (Keeps.refl s) u h).1⟩

/-- Refutes O6: in the state after reset, which entry into Dark leaves as it is, SHOT_TRAILER of sequencer 0 moves the tick up to which
its Comb's clip reports are made from 0 to 1. -/
theorem not_darkIsDeafToCommands : ¬ Obligations.DarkIsDeafToCommands := by
  intro deaf
  have same := deaf (.shotTrailer 0 0) State.reset State.reset_enterDark rfl
  rw [exec_shotTrailer_reset, Host.Outcome.next.injEq] at same
  have moved : ((State.reset.settleNow 0).comb 0).clipFrom = 1 := by decide
  rw [same] at moved
  exact absurd moved (by decide)

end Sys2Proof.Machine
end

section
/-! SUPPORT. Commands as the operation they carry, frames of the registers, and bytes put into the memories. -/

namespace Sys2Proof.Machine

/-! ### Commands as the operation they carry -/

theorem Answers.of_eq {c : Instr} {s u : State} {P : State → Prop} (run : exec c s = .next u) (h : P u) : Answers c s P := ⟨u, run, h⟩

/-- A command whose condition holds. -/
theorem Answers.of_pos {c : Instr} {s u v : State} {p : Prop} [Decidable p] {P : State → Prop}
    (run : exec c s = if p then .next u else .next v) (hp : p) (h : P u) : Answers c s P := ⟨u, run.trans (if_pos hp), h⟩

/-- A command whose condition does not hold. -/
theorem Answers.of_neg {c : Instr} {s u v : State} {p : Prop} [Decidable p] {P : State → Prop}
    (run : exec c s = if p then .next u else .next v) (hp : ¬ p) (h : P v) : Answers c s P := ⟨v, run.trans (if_neg hp), h⟩

theorem State.at_awake_of_ne {s : State} (t : Nat) (h : s.svc.svc ≠ .dark) : (s.at t).awake = true :=
  (s.at_awake t).trans (s.awake_iff.2 h)

theorem ne_dark_of_up {s : State} (up : s.svc.svc = .amber ∨ s.svc.svc = .green) : s.svc.svc ≠ .dark := by
  rcases up with h | h <;> simp [h]

theorem isSleep_of_up {s : State} (up : s.svc.svc = .amber ∨ s.svc.svc = .green) : s.isSleep = false :=
  ((State.up_iff s).1 up).2

/-- A command that needs only that the Hive is awake. -/
theorem Answers.of_awake {c : Instr} {s u v : State} {t : Nat} {P : State → Prop} (awake : s.svc.svc ≠ .dark)
    (run : exec c s = if (s.at t).awake then .next u else .next v) (h : P u) : Answers c s P :=
  .of_pos run (State.at_awake_of_ne t awake) h

/-- In Amber and Green a command of the host reaches its block. -/
theorem Answers.of_hostCmd {c : Instr} {s : State} {t a : Nat} {f : State → State} {P : State → Prop}
    (up : s.svc.svc = .amber ∨ s.svc.svc = .green)
    (run : exec c s = if (s.at t).awake then .next ((s.at t).hostCmd a f) else .next (s.at t)) (h : P (f (s.at t))) :
    Answers c s P := by
  refine .of_awake (ne_dark_of_up up) run ?_
  rwa [State.hostCmd_of_up a f (by rwa [State.at_svc])]

/-! ### Frames -/

@[simp] theorem State.RegsBut_refl (s : State) (fs : List Fld) : s.RegsBut s fs := ⟨fun _ _ => rfl, rfl⟩

theorem State.RegsBut.wr {u s : State} {fs : List Fld} (h : u.RegsBut s fs) (f : Fld) (v : Nat) (hf : f ∈ fs) :
    (u.wr f v).RegsBut s fs :=
  ⟨fun g hg => (State.rd_wr_ne u (f := f) v fun e => hg (e ▸ List.mem_map_of_mem hf)).trans (h.1 g hg), h.2⟩

theorem State.at_RegsBut (s : State) (t : Nat) (fs : List Fld) : (s.at t).RegsBut s fs := (s.at_SameBut t fs).1

/-- Writing a row of fields leaves every field outside it. -/
theorem State.foldl_wr_rd_ne {α : Type} (f : α → Fld) (value : State → α → Nat) (l : List α) (s : State) {g : Fld}
    (h : ∀ i ∈ l, g.key ≠ (f i).key) : (l.foldl (fun s i => s.wr (f i) (value s i)) s).rd g = s.rd g := by
  induction l generalizing s with
  | nil => rfl
  | cons i l ih =>
    exact (ih _ fun j hj => h j (List.mem_cons_of_mem i hj)).trans (s.rd_wr_ne _ (h i List.mem_cons_self))

/-- A property of states that no register write changes survives writing a row of fields. -/
theorem State.foldl_wr_eq {α β : Type} (φ : State → β) (hφ : ∀ s f v, φ (s.wr f v) = φ s) (f : α → Fld) (value : State → α → Nat)
    (l : List α) (s : State) : φ (l.foldl (fun s i => s.wr (f i) (value s i)) s) = φ s := by
  induction l generalizing s with
  | nil => rfl
  | cons i l ih => exact (ih _).trans (hφ s _ _)

theorem State.RegsBut.foldl_wr {α : Type} {u s : State} {fs : List Fld} (h : u.RegsBut s fs) (f : α → Fld) (value : State → α → Nat)
    (l : List α) (hl : ∀ i ∈ l, f i ∈ fs) : (l.foldl (fun s i => s.wr (f i) (value s i)) u).RegsBut s fs :=
  ⟨fun g hg => (u.foldl_wr_rd_ne f value l fun i hi e => hg (e ▸ List.mem_map_of_mem (hl i hi))).trans (h.1 g hg),
    (u.foldl_wr_eq State.act (fun _ _ _ => rfl) f value l).trans h.2⟩

/-! ### Bytes put into the memories -/

/-- In a list put from `a` on, the byte at `k`. -/
theorem getD_cons_sub {b : Byte} {l : List Byte} {a k : Nat} (h : a < k) : (b :: l).getD (k - a) 0#8 = l.getD (k - (a + 1)) 0#8 := by
  obtain ⟨j, rfl⟩ : ∃ j, k = a + 1 + j := ⟨k - (a + 1), by omega⟩
  rw [show a + 1 + j - a = j + 1 by omega, Nat.add_sub_cancel_left, List.getD_cons_succ]

/-- A memory after bytes are put into it one after the other. -/
def Memory.put (blank : Byte) (m : List Host.Cell) (a : Nat) : List Byte → List Host.Cell
  | [] => m
  | b :: bs => Memory.put blank (SMap.set blank m a b) (a + 1) bs

theorem State.putHbm_eq (s : State) (a : Nat) (l : List Byte) : s.putHbm a l = { s with hbm := Memory.put hbmBlank s.hbm a l } := by
  induction l generalizing s a with
  | nil => rfl
  | cons b l ih => exact ih _ _

theorem State.putFlash_eq (s : State) (a : Nat) (l : List Byte) : s.putFlash a l = { s with flash := Memory.put flashBlank s.flash a l } := by
  induction l generalizing s a with
  | nil => rfl
  | cons b l ih => exact ih _ _

theorem Memory.get_put (blank : Byte) (m : List Host.Cell) (a : Nat) (l : List Byte) (k : Nat) :
    SMap.get blank (Memory.put blank m a l) k = if a ≤ k ∧ k < a + l.length then l.getD (k - a) 0#8 else SMap.get blank m k := by
  induction l generalizing m a with
  | nil => exact (if_neg (by simp)).symm
  | cons b l ih =>
    rw [Memory.put, ih, List.length_cons]
    rcases Nat.lt_trichotomy k a with lt | rfl | gt
    · rw [if_neg (by omega), if_neg (by omega), SMap.get_set_ne blank m b (Nat.ne_of_lt lt)]
    · rw [if_neg (by omega), if_pos (by omega), Nat.sub_self, SMap.get_set_self, List.getD_cons_zero]
    · rw [getD_cons_sub gt, SMap.get_set_ne blank m b (Nat.ne_of_gt gt)]
      exact if_congr (by omega) rfl rfl

theorem State.putHbm_hbmByte (s : State) (a : Nat) (l : List Byte) (k : Nat) :
    (s.putHbm a l).hbmByte k = if a ≤ k ∧ k < a + l.length then l.getD (k - a) 0#8 else s.hbmByte k := by
  rw [State.hbmByte, s.putHbm_eq]
  exact Memory.get_put hbmBlank s.hbm a l k

theorem State.putFlash_flashByte (s : State) (a : Nat) (l : List Byte) (k : Nat) :
    (s.putFlash a l).flashByte k = if a ≤ k ∧ k < a + l.length then l.getD (k - a) 0#8 else s.flashByte k := by
  rw [State.flashByte, s.putFlash_eq]
  exact Memory.get_put flashBlank s.flash a l k

/-- Settles O48: by induction on the bytes, of which the first is written before the rest from the next address on. -/
theorem hbmBytesChangeWhereWritten : Obligations.HbmBytesChangeWhereWritten :=
  ⟨State.putHbm_hbmByte, State.putFlash_flashByte⟩

end Sys2Proof.Machine
end

section
/-! SUPPORT. The flash window (R498). -/

namespace Sys2Proof.Machine

/-! ### What an operation needs -/

theorem State.flRefusal_none {s : State} {unit : Nat} (aligned : s.flAddr % unit = 0) (up : s.svc.svc = .amber ∨ s.svc.svc = .green)
    (free : s.flTaken = false) : s.flRefusal unit = none := by
  simp [State.flRefusal, aligned, isSleep_of_up up, free]

theorem State.flRefusal_misaligned {s : State} {unit : Nat} (h : s.flAddr % unit ≠ 0) : s.flRefusal unit = some 5 := if_pos h

theorem State.flErase_free {s : State} (h : s.flRefusal 0x10000 = none) :
    s.flErase = (s.eraseFlash (0x2000000 + s.flAddr) 0x10000).flBegin 0 := by
  unfold State.flErase
  rw [h]

theorem State.flProg_free {s : State} (h : s.flRefusal 0x100 = none) :
    s.flProg = (s.putFlash (0x2000000 + s.flAddr) s.flBytes).flBegin 1 := by
  unfold State.flProg
  rw [h]

theorem State.flErase_misaligned {s : State} (h : s.flAddr % 0x10000 ≠ 0) : s.flErase = s.wr R.secFlCmd_result 5 := by
  unfold State.flErase
  rw [State.flRefusal_misaligned h]

theorem State.flProg_misaligned {s : State} (h : s.flAddr % 0x100 ≠ 0) : s.flProg = s.wr R.secFlCmd_result 5 := by
  unfold State.flProg
  rw [State.flRefusal_misaligned h]

/-- The 256 bytes from `a` on, in the words of the buffer. -/
def State.fillBuffer (s : State) (a : Nat) : State :=
  (List.range 64).foldl (fun s i => s.wr (R.secFlBuf_fl_data i) (s.flashNat (a + 4 * i) 4)) s

theorem State.flRead_free {s : State} (h : s.flRefusal 0x100 = none) :
    s.flRead = (s.fillBuffer (0x2000000 + s.flAddr)).flBegin 2 := by
  unfold State.flRead
  rw [h]
  rfl

/-! ### What an operation changes -/

@[simp] theorem State.eraseFlash_flashByte (s : State) (a len k : Nat) :
    (s.eraseFlash a len).flashByte k = if a ≤ k ∧ k < a + len then flashBlank else s.flashByte k := by
  have kept := SMap.get_filter flashBlank (fun k => decide (a ≤ k ∧ k < a + len)) s.flash k
  simp only [← decide_not, decide_eq_true_eq] at kept
  exact kept

@[simp] theorem State.eraseFlash_hbm (s : State) (a len : Nat) : (s.eraseFlash a len).hbm = s.hbm := rfl

theorem State.RegsBut.eraseFlash {u s : State} {fs : List Fld} (h : u.RegsBut s fs) (a len : Nat) : (u.eraseFlash a len).RegsBut s fs := h

theorem State.putFlash_flash (s : State) (a : Nat) (l : List Byte) : (s.putFlash a l).flash = Memory.put flashBlank s.flash a l := by
  rw [s.putFlash_eq]

@[simp] theorem State.putFlash_hbm (s : State) (a : Nat) (l : List Byte) : (s.putFlash a l).hbm = s.hbm := by
  rw [s.putFlash_eq]

theorem State.RegsBut.putFlash {u s : State} {fs : List Fld} (h : u.RegsBut s fs) (a : Nat) (l : List Byte) :
    (u.putFlash a l).RegsBut s fs := by
  rw [u.putFlash_eq]
  exact h

@[simp] theorem State.flBegin_busy (s : State) (op : Nat) : (s.flBegin op).rd R.secFlCmd_fl_busy = 1 := State.rd_wr _ _ _

@[simp] theorem State.flBegin_flash (s : State) (op : Nat) : (s.flBegin op).flash = s.flash := rfl

@[simp] theorem State.flBegin_flashByte (s : State) (op a : Nat) : (s.flBegin op).flashByte a = s.flashByte a := rfl

@[simp] theorem State.flBegin_hbm (s : State) (op : Nat) : (s.flBegin op).hbm = s.hbm := rfl

theorem State.flBegin_frame (s : State) (op : Nat) {f : Fld} (h : f.key ≠ R.secFlCmd_fl_busy.key) : (s.flBegin op).rd f = s.rd f :=
  State.rd_wr_ne _ _ h

theorem State.RegsBut.flBegin {u s : State} {fs : List Fld} (h : u.RegsBut s fs) (op : Nat) (hf : R.secFlCmd_fl_busy ∈ fs) :
    (u.flBegin op).RegsBut s fs :=
  State.RegsBut.wr (u := u.setSec { u.sec with fl := some (op, u.flAddr) }) h _ 1 hf

theorem State.fillBuffer_flash (s : State) (a : Nat) : (s.fillBuffer a).flash = s.flash :=
  State.foldl_wr_eq State.flash (fun _ _ _ => rfl) _ _ _ s

theorem State.fillBuffer_hbm (s : State) (a : Nat) : (s.fillBuffer a).hbm = s.hbm :=
  State.foldl_wr_eq State.hbm (fun _ _ _ => rfl) _ _ _ s

theorem State.RegsBut.fillBuffer {u s : State} {fs : List Fld} (h : u.RegsBut s fs) (a : Nat)
    (hf : ∀ i ∈ List.range 64, R.secFlBuf_fl_data i ∈ fs) : (u.fillBuffer a).RegsBut s fs := h.foldl_wr _ _ _ hf

theorem State.flashNat_lt (s : State) (a k : Nat) : s.flashNat a k < 256 ^ k := by
  induction k generalizing a with
  | zero => exact Nat.one_pos
  | succ k ih =>
    have byte := (s.flashByte a).isLt
    have rest := ih (a + 1)
    simp only [State.flashNat, Nat.pow_succ] at *
    omega

/-- The last word of the buffer is written last. -/
theorem State.fillBuffer_last (s : State) (a : Nat) : (s.fillBuffer a).rd (R.secFlBuf_fl_data 63) = s.flashNat (a + 252) 4 := by
  have before := State.foldl_wr_eq State.flash (fun _ _ _ => rfl) R.secFlBuf_fl_data (fun s i => s.flashNat (a + 4 * i) 4) (List.range 63) s
  unfold State.fillBuffer
  rw [List.range_succ, List.foldl_append, List.foldl_cons, List.foldl_nil, State.rd_wr, State.flashNat_congr before]
  exact Nat.mod_eq_of_lt (s.flashNat_lt _ 4)

/-! ### The obligation -/

/-- Settles O25: an operation that nothing refuses changes the flash or the buffer and then runs, and its end clears `fl_busy`. -/
theorem flashWindowOperations : Obligations.FlashWindowOperations := by
  have free {t unit : Nat} {s : State} (up : s.svc.svc = .amber ∨ s.svc.svc = .green) (aligned : s.flAddr % unit = 0)
      (notTaken : (s.at t).flTaken = false) : (s.at t).flRefusal unit = none :=
    State.flRefusal_none ((s.at_flAddr t).symm ▸ aligned) (by rwa [State.at_svc]) notTaken
  refine ⟨fun t s up aligned notTaken => .of_awake (ne_dark_of_up up) rfl ?erase,
    fun t s up aligned notTaken => .of_awake (ne_dark_of_up up) rfl ?prog,
    fun t s up aligned notTaken => .of_awake (ne_dark_of_up up) rfl ?read,
    fun t s awake odd => .of_awake awake rfl ?eraseOdd,
    fun t s awake odd => .of_awake awake rfl ?progOdd,
    fun t x s runs => .of_pos rfl ?isRun ?complete⟩
  case erase =>
    rw [State.flErase_free (free up aligned notTaken)]
    exact ⟨fun a => by simp [Nat.add_assoc], by simp, ((s.at_RegsBut t _).eraseFlash _ _).flBegin 0 (by simp), by simp⟩
  case prog =>
    rw [State.flProg_free (free up aligned notTaken)]
    exact ⟨by simp [State.putFlash_flash], by simp, ((s.at_RegsBut t _).putFlash _ _).flBegin 1 (by simp), by simp⟩
  case read =>
    rw [State.flRead_free (free up aligned notTaken), State.at_flAddr]
    refine ⟨?_, by simp, ?_, State.RegsBut.flBegin ?_ 2 (by simp), ?_⟩
    · rw [State.flBegin_flash, State.fillBuffer_flash, State.at_flash]
    · rw [State.flBegin_frame _ 2 (by decide), State.fillBuffer_last, State.at_flashNat]
    · exact (s.at_RegsBut t _).fillBuffer _ fun i hi => List.mem_cons_of_mem _ (List.mem_map_of_mem hi)
    · rw [State.flBegin_hbm, State.fillBuffer_hbm, State.at_hbm]
  case eraseOdd => exact State.flErase_misaligned (by rwa [State.at_flAddr])
  case progOdd => exact State.flProg_misaligned (by rwa [State.at_flAddr])
  case isRun => simp [runs]
  case complete =>
    have frame : ((s.at t).setSec { (s.at t).sec with fl := none }).SameBut s [R.secFlCmd_fl_busy, R.secFlCmd_result] := s.at_SameBut t _
    exact ⟨(State.rd_wr_ne _ _ (by decide)).trans (State.rd_wr _ _ _), State.rd_wr _ _ _, by simp, by simp,
      (frame.wr _ 0 (by simp)).wr _ 0 (by simp)⟩

end Sys2Proof.Machine
end

section
/-! SUPPORT. Posting a mailbox result (R62, R66). -/

namespace Sys2Proof.Machine

/-- The result of a posted command is its code in the 8 bits of `result`. -/
theorem State.mbPost_result (s : State) (code : Nat) (resp : List Byte) :
    (s.mbPost code resp).rd R.hostMbStatus_result = code % 2 ^ 8 :=
  (State.rd_wr_ne (f := R.hostMbStatus_resp_len) _ _ (by decide)).trans (State.rd_wr _ _ _)

/-- A mailbox whose running command has its answer. -/
def State.answered (code : Nat) (resp : List Byte) : State :=
  { State.reset with sec := { SecSt.init with mb := some ⟨0, 0, some (code, resp)⟩ } }

theorem exec_mailboxComplete_answered (t code : Nat) (resp : List Byte) :
    exec (.mailboxComplete t) (State.answered code resp) = .next (((State.answered code resp).at t).mbPost code resp) := rfl

/-- Refutes O23: of an answer with code 16, `result` reads 16, for it has 8 bits; the statement takes the code modulo 16. -/
theorem not_mailboxVerdicts : ¬ Obligations.MailboxVerdicts := by
  rintro ⟨-, -, -, -, posted, -⟩
  obtain ⟨u, run, -, -, result, -⟩ := posted 0 16 [] ⟨0, 0, some (16, [])⟩ (State.answered 16 []) rfl rfl
  rw [exec_mailboxComplete_answered, Host.Outcome.next.injEq] at run
  rw [← run, State.mbPost_result] at result
  exact absurd result (by decide)

end Sys2Proof.Machine
end

section
/-! SUPPORT. What moving a sequencer on, starting it and ending its waits change (R136 to R148, R159). -/

namespace Sys2Proof.Machine

/-! ### Fields of the sequencer's status -/

theorem run_key_ne_pc_key (n : Nat) : (R.seqStatus_run n).key ≠ (R.seqPc_pc n).key := by
  simp only [R.seqPc_pc, R.seqStatus_run]
  omega

/-- What the running mode shows: 3 in a handler, else 1. -/
@[simp] theorem State.runStep_run (s : State) (n : Nat) :
    (s.runStep n).rd (R.seqStatus_run n) = if (s.seq n).handler.isSome then 3 else 1 := by
  rw [State.runStep, State.rd_wr]
  split <;> rfl

@[simp] theorem State.runStep_seq (s : State) (n m : Nat) : (s.runStep n).seq m = s.seq m := rfl

theorem State.SameBut.runStep {u s : State} {fs : List Fld} (h : u.SameBut s fs) (n : Nat) (hf : R.seqStatus_run n ∈ fs) :
    (u.runStep n).SameBut s fs := h.wr _ _ hf

/-- The record of a sequencer stands in no register. -/
theorem State.SameBut.setSeq {u s : State} {fs : List Fld} (h : u.SameBut s fs) (n : Nat) (x : SeqSt) : (u.setSeq n x).SameBut s fs := h

theorem State.SameBut.trans {u v s : State} {fs : List Fld} (h : u.SameBut v fs) (k : v.SameBut s fs) : u.SameBut s fs := by
  obtain ⟨⟨hr, ha⟩, hh, hf⟩ := h
  obtain ⟨⟨kr, ka⟩, kh, kf⟩ := k
  exact ⟨⟨fun f hf => (hr f hf).trans (kr f hf), ha.trans ka⟩, hh.trans kh, hf.trans kf⟩

/-- More fields may differ. -/
theorem State.SameBut.mono {u s : State} {fs gs : List Fld} (h : u.SameBut s fs) (sub : fs ⊆ gs) : u.SameBut s gs := by
  obtain ⟨⟨hr, ha⟩, hh, hf⟩ := h
  exact ⟨⟨fun f hg => hr f fun hm => hg (List.map_subset _ sub hm), ha⟩, hh, hf⟩

theorem State.SameBut.goNext {u s : State} {fs : List Fld} (h : u.SameBut s fs) (n : Nat) (hp : R.seqPc_pc n ∈ fs)
    (hr : R.seqStatus_run n ∈ fs) : (u.goNext n).SameBut s fs :=
  ((u.goNext_SameBut n).mono (by simp [hp, hr])).trans h

theorem State.SameBut.endWait {u s : State} {fs : List Fld} (h : u.SameBut s fs) (n : Nat) (hr : R.seqStatus_run n ∈ fs) :
    (u.endWait n).SameBut s fs := ((u.endWait_SameBut n).mono (by simp [hr])).trans h

theorem State.SameBut.setWait {u s : State} {fs : List Fld} (h : u.SameBut s fs) (n : Nat) (w : Wait) (hr : R.seqStatus_run n ∈ fs) :
    (u.setWait n w).SameBut s fs := ((u.setWait_SameBut n w).mono (by simp [hr])).trans h

@[simp] theorem State.goNext_seq_self (s : State) (n : Nat) :
    (s.goNext n).seq n = { s.seq n with ord := (s.seq n).ord + 1, wait := .none } := s.goto_seq_self n _

/-- Going on writes `pc` and `run` only. -/
theorem State.goto_frame (s : State) (n pc : Nat) {f : Fld} (hp : f.key ≠ (R.seqPc_pc n).key) (hr : f.key ≠ (R.seqStatus_run n).key) :
    (s.goto n pc).rd f = s.rd f := (s.goto_SameBut n pc).1.1 f (by simp [hp, hr])

theorem State.goNext_frame (s : State) (n : Nat) {f : Fld} (hp : f.key ≠ (R.seqPc_pc n).key) (hr : f.key ≠ (R.seqStatus_run n).key) :
    (s.goNext n).rd f = s.rd f := s.goto_frame n _ hp hr

@[simp] theorem State.endWait_wait (s : State) (n : Nat) : ((s.endWait n).seq n).wait = .none := by simp [State.endWait]

@[simp] theorem State.endWait_checks (s : State) (n : Nat) : ((s.endWait n).seq n).checks = (s.seq n).checks := by simp [State.endWait]

@[simp] theorem State.endWait_run (s : State) (n : Nat) :
    (s.endWait n).rd (R.seqStatus_run n) = if (s.seq n).handler.isSome then 3 else 1 := by
  simp [State.endWait]

theorem State.endWait_frame (s : State) (n : Nat) {f : Fld} (hr : f.key ≠ (R.seqStatus_run n).key) : (s.endWait n).rd f = s.rd f :=
  (s.endWait_SameBut n).1.1 f (by simp [hr])

/-! ### The end of WAITT and SYNC -/

theorem State.endAt_eq (s : State) (n a : Nat) (timeout : Bool) : s.endAt n a timeout =
    (if timeout then (s.setSeq n { s.seq n with anchor := a, timedOut := timeout }).setF (R.seqStatus_timeout n)
      else s.setSeq n { s.seq n with anchor := a, timedOut := timeout }).goNext n := rfl

@[simp] theorem State.endAt_seq (s : State) (n a : Nat) (timeout : Bool) : (s.endAt n a timeout).seq n =
    { s.seq n with anchor := a, timedOut := timeout, ord := (s.seq n).ord + 1, wait := .none } := by
  rw [State.endAt_eq, State.goNext_seq_self]
  cases timeout <;> simp [State.setF]

@[simp] theorem State.endAt_anchor (s : State) (n a : Nat) (timeout : Bool) : (s.endAt n a timeout).anchor n = a := by
  simp [State.anchor]

@[simp] theorem State.endAt_pc (s : State) (n a : Nat) (timeout : Bool) :
    (s.endAt n a timeout).rd (R.seqPc_pc n) = (s.rd (R.seqPc_pc n) + 1) % 2 ^ 15 := by
  have key : (R.seqPc_pc n).key ≠ (R.seqStatus_timeout n).key := by simp only [R.seqPc_pc, R.seqStatus_timeout]; omega
  rw [State.endAt_eq, State.goNext_pc]
  cases timeout <;> simp [State.setF, State.rd_wr_ne _ _ key]

theorem State.endAt_timeout (s : State) (n a : Nat) : (s.endAt n a true).rd (R.seqStatus_timeout n) = 1 := by
  rw [State.endAt_eq, State.goNext_frame _ n (by simp only [R.seqPc_pc, R.seqStatus_timeout]; omega)
    (by simp only [R.seqStatus_run, R.seqStatus_timeout]; omega)]
  exact State.rd_wr _ _ _

theorem State.SameBut.endAt {u s : State} {fs : List Fld} (h : u.SameBut s fs) (n a : Nat) (timeout : Bool) (hp : R.seqPc_pc n ∈ fs)
    (hr : R.seqStatus_run n ∈ fs) (ht : timeout = true → R.seqStatus_timeout n ∈ fs) : (u.endAt n a timeout).SameBut s fs := by
  rw [State.endAt_eq]
  cases timeout with
  | false => exact (h.setSeq n _).goNext n hp hr
  | true => exact ((h.setSeq n _).wr _ 1 (ht rfl)).goNext n hp hr

end Sys2Proof.Machine
end

section
/-! SUPPORT. The plain steps NOP, WAIT, SETC, LOOP and HALT (R136, R144 to R147). -/

namespace Sys2Proof.Machine

/-- A ready step answers what its effect leaves of the state in which it acts. -/
theorem Answers.of_ready {c : Instr} {t w n : Nat} {s v : State} {is : Nat → Bool} {eff : State → Nat → State} {P : State → Prop}
    (acts : exec c s = .next ((s.at t).stepWith n is eff)) (ready : (s.at t).ready n = some (w, v)) (kind : is w = true)
    (h : P (eff v w)) : Answers c s P := ⟨_, acts.trans (congrArg _ (State.stepWith_ready _ ready kind)), h⟩

/-! ### What a plain step leaves -/

/-- In `u` as in `v`: every register but those listed, active values, memories, Cells, lanes, Bias outputs, ports, and the records of
the other sequencers. -/
structure State.OwnStep (u v : State) (n : Nat) (fs : List Fld) : Prop where
  rd : ∀ f : Fld, f.key ∉ fs.map Fld.key → u.rd f = v.rd f
  act : u.act = v.act
  hbm : u.hbm = v.hbm
  flash : u.flash = v.flash
  cells : u.cells = v.cells
  lanes : u.lanes = v.lanes
  bias : u.bias = v.bias
  ports : u.ports = v.ports
  seqs : ∀ m : Nat, m ≠ n → u.seq m = v.seq m

theorem State.OwnStep.refl (v : State) (n : Nat) (fs : List Fld) : v.OwnStep v n fs :=
  ⟨fun _ _ => rfl, rfl, rfl, rfl, rfl, rfl, rfl, rfl, fun _ _ => rfl⟩

theorem State.OwnStep.beyondRegs {u v : State} {n : Nat} {fs : List Fld} (h : u.OwnStep v n fs) :
    u.act = v.act ∧ u.hbm = v.hbm ∧ u.flash = v.flash ∧ u.cells = v.cells ∧ u.lanes = v.lanes ∧ u.bias = v.bias ∧
      u.ports = v.ports ∧ ∀ m : Nat, m ≠ n → u.seq m = v.seq m :=
  ⟨h.act, h.hbm, h.flash, h.cells, h.lanes, h.bias, h.ports, h.seqs⟩

theorem State.OwnStep.wr {u v : State} {n : Nat} {fs : List Fld} (h : u.OwnStep v n fs) (f : Fld) (x : Nat) (hf : f ∈ fs) :
    (u.wr f x).OwnStep v n fs :=
  { h with rd := fun g hg => (State.rd_wr_ne u (f := f) x fun e => hg (e ▸ List.mem_map_of_mem hf)).trans (h.rd g hg) }

theorem State.OwnStep.setSeq {u v : State} {n : Nat} {fs : List Fld} (h : u.OwnStep v n fs) (x : SeqSt) :
    (u.setSeq n x).OwnStep v n fs :=
  { h with seqs := fun m hm => (u.setSeq_seq_ne n x hm).trans (h.seqs m hm) }

theorem State.OwnStep.goto {u v : State} {n : Nat} {fs : List Fld} (h : u.OwnStep v n fs) (pc : Nat) (hp : R.seqPc_pc n ∈ fs)
    (hr : R.seqStatus_run n ∈ fs) : (u.goto n pc).OwnStep v n fs := ((h.setSeq _).wr _ _ hp).wr _ _ hr

theorem State.OwnStep.setCount {u v : State} {n : Nat} {fs : List Fld} (h : u.OwnStep v n fs) (k x : Nat)
    (hc : R.seqCnt_count n k ∈ fs) : (u.setCount n k x).OwnStep v n fs := (h.setSeq _).wr _ _ hc

/-- LOOP: the counter counts down to 0, and while it is above 0 the step goes to TARGET. -/
def State.loopStep (s : State) (n w : Nat) : State :=
  if s.count n (mwArg w % 16) = 0 then s.goNext n
  else
    if s.count n (mwArg w % 16) - 1 = 0 then (s.setCount n (mwArg w % 16) (s.count n (mwArg w % 16) - 1)).goNext n
    else (s.setCount n (mwArg w % 16) (s.count n (mwArg w % 16) - 1)).goto n (mwTarget w)

theorem exec_loop (t : Nat) (n : Fin 64) (s : State) : exec (.loop t n) s = .next ((s.at t).stepWith n (isOp 7) fun s w => s.loopStep n w) := rfl

/-- The fields that a step on counter `k` writes. -/
abbrev countFields (n k : Nat) : List Fld := [R.seqPc_pc n, R.seqStatus_run n, R.seqCnt_count n k]

theorem State.loopStep_OwnStep (v : State) (n w : Nat) : (v.loopStep n w).OwnStep v n (countFields n (mwArg w % 16)) := by
  have start := State.OwnStep.refl v n (countFields n (mwArg w % 16))
  unfold State.loopStep
  split
  · exact start.goto _ (by simp) (by simp)
  · split
    · exact (start.setCount _ _ (by simp)).goto _ (by simp) (by simp)
    · exact (start.setCount _ _ (by simp)).goto _ (by simp) (by simp)

theorem setc_frame {c : Instr} {t w mode : Nat} {n : Fin 64} {s v : State} (value : State → Nat → Nat)
    (acts : exec c s = .next ((s.at t).stepWith n (isSetc mode) fun s w => (s.setCount n (mwArg w % 16) (value s w)).goNext n))
    (ready : (s.at t).ready n = some (w, v)) (setc : isSetc mode w = true) :
    Answers c s fun u => u.OwnStep v n (countFields n (mwArg w % 16)) :=
  .of_ready acts ready setc (((State.OwnStep.refl v n _).setCount _ _ (by simp)).goto _ (by simp) (by simp))

/-! ### Counters and pc -/

theorem State.goto_count (s : State) (n pc k : Nat) : (s.goto n pc).count n k = s.count n k :=
  s.goto_frame n pc (pc_key_ne_count_key n k).symm (count_key_ne_run_key n k)

theorem State.loopStep_low {v : State} {n w : Nat} (h : v.count n (mwArg w % 16) ≤ 1) :
    (v.loopStep n w).rd (R.seqPc_pc n) = (v.rd (R.seqPc_pc n) + 1) % 2 ^ 15 ∧ (v.loopStep n w).count n (mwArg w % 16) = 0 := by
  unfold State.loopStep
  split
  · exact ⟨by simp, by simp [*]⟩
  · rw [if_pos (by omega)]
    exact ⟨by simp, by simp; omega⟩

theorem State.loopStep_high {v : State} {n w : Nat} (h : 1 < v.count n (mwArg w % 16)) (fits : v.count n (mwArg w % 16) < 2 ^ 24) :
    (v.loopStep n w).rd (R.seqPc_pc n) = mwTarget w ∧
      (v.loopStep n w).count n (mwArg w % 16) = v.count n (mwArg w % 16) - 1 := by
  unfold State.loopStep
  rw [if_neg (by omega), if_neg (by omega), State.goto_count, State.setCount_count, State.goto_pc]
  exact ⟨Nat.mod_eq_of_lt (mwTarget_lt w), Nat.mod_eq_of_lt (by omega)⟩

/-! ### HALT -/

/-- HALT goes on to the next word, halts there and fires S(n,2). -/
def State.haltStep (s : State) (n : Nat) : State :=
  (((s.goNext n).wr (R.seqStatus_run n) 0).wr (R.seqStatus_halt_why n) 1).fireS n 2

theorem State.SameBut.fireS {u s : State} {fs : List Fld} (h : u.SameBut s fs) (n k : Nat) : (u.fireS n k).SameBut s fs := h

@[simp] theorem State.fireS_rd (s : State) (n k : Nat) (f : Fld) : (s.fireS n k).rd f = s.rd f := rfl

theorem run_key_ne_halt_why_key (n : Nat) : (R.seqStatus_run n).key ≠ (R.seqStatus_halt_why n).key := by
  simp only [R.seqStatus_run, R.seqStatus_halt_why]
  omega

theorem pc_key_ne_halt_why_key (n : Nat) : (R.seqPc_pc n).key ≠ (R.seqStatus_halt_why n).key := by
  simp only [R.seqPc_pc, R.seqStatus_halt_why]
  omega

theorem State.haltStep_answers (v : State) (n : Nat) :
    (v.haltStep n).rd (R.seqPc_pc n) = (v.rd (R.seqPc_pc n) + 1) % 2 ^ 15 ∧ (v.haltStep n).rd (R.seqStatus_run n) = 0 ∧
      (v.haltStep n).rd (R.seqStatus_halt_why n) = 1 ∧
      (v.haltStep n).SameBut v [R.seqPc_pc n, R.seqStatus_run n, R.seqStatus_halt_why n] := by
  refine ⟨?pc, ?run, ?why, ?frame⟩
  case pc =>
    rw [State.haltStep, State.fireS_rd, State.rd_wr_ne _ _ (pc_key_ne_halt_why_key n),
      State.rd_wr_ne _ _ (run_key_ne_pc_key n).symm, State.goNext_pc]
  case run => rw [State.haltStep, State.fireS_rd, State.rd_wr_ne _ _ (run_key_ne_halt_why_key n), State.rd_wr, Nat.zero_mod]
  case why =>
    rw [State.haltStep, State.fireS_rd, State.rd_wr]
    rfl
  case frame =>
    exact ((((v.SameBut_refl _).goNext n (by simp) (by simp)).wr _ _ (by simp)).wr _ _ (by simp)).fireS n 2

/-! ### The obligations -/

/-- Settles O28: each plain step is one effect on the state in which it acts. -/
theorem plainStepsAdvance : Obligations.PlainStepsAdvance := by
  refine ⟨fun t w n s v ready op => .of_ready rfl ready op ?nop, fun t w n s v ready op => .of_ready rfl ready op ?wait,
    fun t w n s v ready op zero => .of_ready (exec_loop t n s) ready op (State.loopStep_low (by omega)),
    fun t w n s v ready op one => .of_ready (exec_loop t n s) ready op (State.loopStep_low (by omega)),
    fun t w n s v ready op high fits => .of_ready (exec_loop t n s) ready op (State.loopStep_high high fits),
    fun t w n s v ready op => .of_ready rfl ready op (v.haltStep_answers n)⟩
  case nop => exact ⟨v.goNext_pc n, by simp [State.anchor], rfl, rfl, rfl⟩
  case wait => exact ⟨by simp [State.setAnchor], by simp [State.anchor, State.setAnchor]⟩

/-- Settles O29: the steps are built of writes of `pc`, `run`, the counter named and the sequencer's own record. -/
theorem framesOfPlainSteps : Obligations.FramesOfPlainSteps := by
  have plain {u v : State} {n : Fin 64} (h : u.OwnStep v n [R.seqPc_pc n, R.seqStatus_run n]) := And.intro
    (fun (f : Fld) (hp : f.key ≠ (R.seqPc_pc n).key) (hr : f.key ≠ (R.seqStatus_run n).key) => h.rd f (by simp [hp, hr]))
    h.beyondRegs
  have counted {u v : State} {n : Fin 64} {k : Nat} (h : u.OwnStep v n (countFields n k)) := And.intro
    (fun (f : Fld) (hp : f.key ≠ (R.seqPc_pc n).key) (hr : f.key ≠ (R.seqStatus_run n).key)
      (hc : f.key ≠ (R.seqCnt_count n k).key) => h.rd f (by simp [hp, hr, hc]))
    h.beyondRegs
  have setc {c : Instr} {s v : State} {n : Fin 64} {k : Nat} (h : Answers c s fun u => u.OwnStep v n (countFields n k)) :=
    h.imp fun u hu => And.intro hu.1 (counted hu.2)
  exact ⟨fun t w n s v ready op => .of_ready rfl ready op (plain ((State.OwnStep.refl v n _).goto _ (by simp) (by simp))),
    fun t w n s v ready op => .of_ready rfl ready op (plain (((State.OwnStep.refl v n _).setSeq _).goto _ (by simp) (by simp))),
    fun t w n s v ready op => setc (setc_frame (fun _ w => mwTarget w) rfl ready op),
    fun t w n s v ready op => setc (setc_frame (fun s w => s.ard (R.seqCinit_cinit n (mwArg w % 16))) rfl ready op),
    fun t w n s v ready op => setc (setc_frame (fun s w => s.count n (mwArg w % 16) + mwTarget w) rfl ready op),
    fun t w n s v ready op => setc (setc_frame (fun s w => s.count n (mwArg w % 16) + 2 ^ 24 - mwTarget w) rfl ready op),
    fun t w n s v ready op => .of_ready (exec_loop t n s) ready op (counted (v.loopStep_OwnStep n w))⟩

end Sys2Proof.Machine
end

section
/-! SUPPORT. The ends of the sequencers' waits (R138, R145, R148) and the host's sequencer commands (R160 to R166). -/

namespace Sys2Proof.Machine

/-! ### When a wait ends -/

theorem exec_runAheadRelease_due {t : Nat} {n : Fin 64} {s : State} (waits : (s.seq n).wait = .runAhead)
    (near : s.anchor n ≤ (s.at t).dial + 16384) : exec (.runAheadRelease t n) s = .next ((s.at t).endWait n) := by
  change execRunAheadRelease t n s = _
  simp only [execRunAheadRelease, State.at_seq, waits, State.at_anchor, if_pos near]

/-- The oldest descriptor check of sequencer n is taken off. -/
def State.dropCheck (s : State) (n : Nat) (l : List DescChk) : State := s.setSeq n { s.seq n with checks := l }

theorem exec_descCheckReturn_last {t : Nat} {n : Fin 64} {c : DescChk} {s : State} (checks : (s.seq n).checks = [c])
    (passed : c.bad = false) (waits : (s.seq n).wait = .checks) :
    exec (.descCheckReturn t n) s = .next (((s.at t).dropCheck n []).endWait n) := by
  change execDescCheckReturn t n s = _
  simp only [execDescCheckReturn, State.at_seq, checks, passed, Bool.false_eq_true, if_false, State.setSeq_seq_self, waits, and_self,
    if_true, State.dropCheck]

theorem exec_descCheckReturn_bad {t : Nat} {n : Fin 64} {c : DescChk} {l : List DescChk} {s : State}
    (checks : (s.seq n).checks = c :: l) (bad : c.bad = true) :
    exec (.descCheckReturn t n) s = .next (((s.at t).dropCheck n l).raiseFault n 3 c.pc c.shot) := by
  change execDescCheckReturn t n s = _
  simp only [execDescCheckReturn, State.at_seq, checks, bad, if_true, State.dropCheck]

theorem exec_waittTriggered_come {t src a0 y : Nat} {x : Nat × Nat} {dl : Option Nat} {n : Fin 64} {s : State}
    (waits : (s.seq n).wait = .waitt src a0 dl x) (come : s.trigger n src a0 dl = some y) (active : s.waiting n = true) :
    exec (.waittTriggered t n) s = .next ((s.at t).endAt n (trigAnchor y) false) := by
  change execWaittTriggered t n s = _
  simp only [execWaittTriggered, State.at_seq, waits, State.at_trigger, come, State.at_waiting, active, if_true]

theorem exec_waittTimeout_due {t src a0 d : Nat} {x : Nat × Nat} {n : Fin 64} {s : State}
    (waits : (s.seq n).wait = .waitt src a0 (some d) x) (due : d ≤ (s.at t).dial) (none : s.trigger n src a0 (some d) = none)
    (active : s.waiting n = true) : exec (.waittTimeout t n) s = .next ((s.at t).endAt n d true) := by
  change execWaittTimeout t n s = _
  simp only [execWaittTimeout, State.at_seq, waits, State.at_trigger, none, State.at_waiting, active, due, and_self, if_true]

theorem exec_syncTimeout_due {t b a0 d : Nat} {n : Fin 64} {s : State} (waits : (s.seq n).wait = .sync b a0 (some d))
    (due : d ≤ (s.at t).dial) (active : s.waiting n = true) : exec (.syncTimeout t n) s = .next ((s.at t).endAt n d true) := by
  change execSyncTimeout t n s = _
  simp only [execSyncTimeout, State.at_seq, waits, State.at_waiting, active, due, and_self, if_true]

/-- SYNC_SLIP is set where the members' common anchor is too near (R148). -/
def State.slipAt (s : State) (n : Nat) : State := if s.anchor n < s.dial + 2048 then s.setF (R.seqStatus_sync_slip n) else s

theorem State.releaseBarrier_alone {s : State} {b n : Nat} (alone : s.members b = [n]) (waits : s.waitsAt b n = true) :
    s.releaseBarrier b = (s.slipAt n).endAt n (max (s.anchor n) (s.dial + 2048)) false := by
  simp only [State.releaseBarrier, alone, ne_eq, List.cons_ne_nil, not_false_eq_true, List.all_cons, waits, List.all_nil,
    Bool.and_self, and_self, if_true, List.foldl_cons, List.foldl_nil, Nat.zero_max, State.slipAt]

theorem State.SameBut.slipAt {u s : State} {fs : List Fld} (h : u.SameBut s fs) (n : Nat) (hf : R.seqStatus_sync_slip n ∈ fs) :
    (u.slipAt n).SameBut s fs := by
  unfold State.slipAt
  split
  · exact h.wr _ _ hf
  · exact h

theorem State.slipAt_pc (s : State) (n : Nat) : (s.slipAt n).rd (R.seqPc_pc n) = s.rd (R.seqPc_pc n) := by
  unfold State.slipAt
  split
  · exact State.rd_wr_ne _ _ (by simp only [R.seqPc_pc, R.seqStatus_sync_slip]; omega)
  · rfl

/-! ### A fault joins the open faults -/

@[simp] theorem State.raiseFault_seq (s : State) (n code pc : Nat) (shot : Option Nat) :
    (s.raiseFault n code pc shot).seq n = { s.seq n with faults := (s.seq n).faults ++ [⟨code, pc, shot⟩] } :=
  s.setSeq_seq_self n _

theorem State.SameBut.raiseFault {u s : State} {fs : List Fld} (h : u.SameBut s fs) (n code pc : Nat) (shot : Option Nat) :
    (u.raiseFault n code pc shot).SameBut s fs := h

/-- Settles O33: a wait that ends at a time is `endAt`; run-ahead and checks end with the same `pc`. -/
theorem waitsEnd : Obligations.WaitsEnd := by
  refine ⟨fun t n s waits near plain => ⟨_, exec_runAheadRelease_due waits near, ?runAhead⟩,
    fun t n c s checks passed waits plain => ⟨_, exec_descCheckReturn_last checks passed waits, ?passed⟩,
    fun t n c l s checks bad => ⟨_, exec_descCheckReturn_bad checks bad, ?failed⟩,
    fun t src a0 y x dl n s waits come active => ⟨_, exec_waittTriggered_come waits come active, ?triggered⟩,
    fun t src a0 d x n s waits due none active => ⟨_, exec_waittTimeout_due waits due none active, ?waittLimit⟩,
    fun t b n s alone waits => ⟨_,
      congrArg Host.Outcome.next (State.releaseBarrier_alone (by simpa using alone) (by simpa using waits)), ?released⟩,
    fun t b a0 d n s waits due active => ⟨_, exec_syncTimeout_due waits due active, ?syncLimit⟩⟩
  case runAhead =>
    exact ⟨by simp, by simp [plain], by rw [State.endWait_frame _ _ (run_key_ne_pc_key n).symm, State.at_rd],
      (s.at_SameBut t _).endWait n (by simp)⟩
  case passed =>
    exact ⟨by simp, by simp [State.dropCheck], by simp [State.dropCheck, plain], ((s.at_SameBut t _).setSeq n _).endWait n (by simp)⟩
  case failed => exact ⟨by simp [State.dropCheck], by simp [State.dropCheck], ((s.at_SameBut t _).setSeq n _).raiseFault n 3 _ _⟩
  case triggered => exact ⟨by simp, by simp, by simp, (s.at_SameBut t _).endAt n _ _ (by simp) (by simp) (by simp)⟩
  case waittLimit | syncLimit =>
    exact ⟨by simp, by simp, State.endAt_timeout _ n d, by simp, (s.at_SameBut t _).endAt n _ _ (by simp) (by simp) (by simp)⟩
  case released =>
    exact ⟨by simp, by simp, by rw [State.endAt_pc, State.slipAt_pc, State.at_rd],
      ((s.at_SameBut t _).slipAt n (by simp)).endAt n _ _ (by simp) (by simp) (by simp)⟩

end Sys2Proof.Machine
end

section
/-! SUPPORT. The host's sequencer commands: start, resume, abort, shot abort, quiet and iclr (R139, R160, R161, R166). -/

namespace Sys2Proof.Machine

/-! ### Fields that the commands write -/

theorem result_key_ne_pc_key (n : Nat) : (R.seqCmd_result n).key ≠ (R.seqPc_pc n).key := by
  simp only [R.seqCmd_result, R.seqPc_pc]; omega

theorem result_key_ne_run_key (n : Nat) : (R.seqCmd_result n).key ≠ (R.seqStatus_run n).key := by
  simp only [R.seqCmd_result, R.seqStatus_run]; omega

theorem result_key_ne_ipend_key (n : Nat) : (R.seqCmd_result n).key ≠ (R.seqStatus_ipend n).key := by
  simp only [R.seqCmd_result, R.seqStatus_ipend]; omega

theorem pc_key_ne_fault_code_key (n : Nat) : (R.seqPc_pc n).key ≠ (R.seqFault_fault_code n).key := by
  simp only [R.seqPc_pc, R.seqFault_fault_code]; omega

@[simp] theorem State.seqResult_result (s : State) (n code : Nat) : (s.seqResult n code).rd (R.seqCmd_result n) = code % 2 ^ 8 :=
  s.rd_wr _ _

theorem State.seqResult_frame (s : State) (n code : Nat) {f : Fld} (h : f.key ≠ (R.seqCmd_result n).key) :
    (s.seqResult n code).rd f = s.rd f := s.rd_wr_ne _ h

@[simp] theorem State.seqResult_seq (s : State) (n code m : Nat) : (s.seqResult n code).seq m = s.seq m := rfl

theorem State.SameBut.seqResult {u s : State} {fs : List Fld} (h : u.SameBut s fs) (n code : Nat) (hf : R.seqCmd_result n ∈ fs) :
    (u.seqResult n code).SameBut s fs := h.wr _ _ hf

/-! ### A sequencer that begins -/

@[simp] theorem State.goAt_anchor (s : State) (n a : Nat) : (s.goAt n a).anchor n = a := by
  simp [State.goAt, State.anchor]

@[simp] theorem State.goAt_run (s : State) (n a : Nat) :
    (s.goAt n a).rd (R.seqStatus_run n) = if (s.seq n).handler.isSome then 3 else 1 := by
  simp [State.goAt]

theorem State.goAt_frame (s : State) (n a : Nat) {f : Fld} (h : f.key ≠ (R.seqStatus_run n).key) : (s.goAt n a).rd f = s.rd f :=
  s.rd_wr_ne _ h

theorem State.SameBut.goAt {u s : State} {fs : List Fld} (h : u.SameBut s fs) (n a : Nat) (hf : R.seqStatus_run n ∈ fs) :
    (u.goAt n a).SameBut s fs := h.wr _ _ hf

/-! ### What a command comes to -/

/-- The state from which `start` begins: outside every handler, at the start entry, with no fault shown. -/
def State.atStart (s : State) (n : Nat) : State :=
  (((s.setSeq n { s.seq n with stack := [], depth := 0, handler := none }).wr (R.seqPc_pc n) (s.rd (R.seqStart_start_pc n))).wr
    (R.seqFault_fault_code n) 0).seqResult n rOK

theorem State.SameBut.atStart {u s : State} {fs : List Fld} (h : u.SameBut s fs) (n : Nat)
    (hf : [R.seqPc_pc n, R.seqFault_fault_code n, R.seqCmd_result n] ⊆ fs) : (u.atStart n).SameBut s fs :=
  (((h.setSeq n _).wr _ _ (hf (by simp))).wr _ _ (hf (by simp))).seqResult n _ (hf (by simp))

@[simp] theorem State.atStart_seq (s : State) (n : Nat) :
    (s.atStart n).seq n = { s.seq n with stack := [], depth := 0, handler := none } := s.setSeq_seq_self n _

@[simp] theorem State.atStart_result (s : State) (n : Nat) : (s.atStart n).rd (R.seqCmd_result n) = 0 := State.seqResult_result _ n 0

theorem State.atStart_pc (s : State) (n : Nat) : (s.atStart n).rd (R.seqPc_pc n) = s.rd (R.seqStart_start_pc n) % 2 ^ 15 := by
  rw [State.atStart, State.seqResult_frame _ n _ (result_key_ne_pc_key n).symm, State.rd_wr_ne _ _ (pc_key_ne_fault_code_key n),
    State.rd_wr]
  rfl

/-- The time that `start` asks for stands in fields that it does not write. -/
theorem State.atStart_startAsked (s : State) (n : Nat) : (s.atStart n).startAsked n = s.startAsked n := by
  have frame (f : Fld) (h : f.key ∉ [R.seqPc_pc n, R.seqFault_fault_code n, R.seqCmd_result n].map Fld.key) :
      (s.atStart n).rd f = s.rd f := ((s.SameBut_refl _).atStart n (List.Subset.refl _)).1.1 f h
  unfold State.startAsked
  rw [frame (R.seqStart_at_en n), frame (R.seqStartAt_start_at_lo n), frame (R.seqStart_start_at_hi n)]
  · rfl
  all_goals
    simp only [R.seqStart_at_en, R.seqStartAt_start_at_lo, R.seqStart_start_at_hi, R.seqPc_pc, R.seqFault_fault_code, R.seqCmd_result,
      List.map_cons, List.map_nil, List.mem_cons, List.not_mem_nil, or_false, not_or]
    omega

theorem State.start_taken {s : State} {n : Nat} (loaded : (s.seq n).loading = none) (halted : s.halted n = true)
    (entry : s.rd (R.seqStart_start_pc n) ∈ (s.seq n).starts) :
    s.start n = (s.atStart n).goAt n (max ((s.atStart n).startAsked n) ((s.atStart n).dial + 2048)) := by
  simp only [State.start, loaded, Option.isSome_none, Bool.false_eq_true, if_false, halted, Bool.true_eq_false, List.contains_eq_mem,
    entry, decide_true, State.atStart]

theorem State.start_loading {s : State} {n : Nat} (loading : (s.seq n).loading ≠ none) : s.start n = s.seqResult n 1 :=
  if_pos (Option.isSome_iff_ne_none.2 loading)

theorem State.start_running {s : State} {n : Nat} (loaded : (s.seq n).loading = none) (runs : s.halted n = false) :
    s.start n = s.seqResult n 2 := by
  simp only [State.start, loaded, Option.isSome_none, Bool.false_eq_true, if_false, runs, if_true, rSTATE]

theorem State.start_elsewhere {s : State} {n : Nat} (loaded : (s.seq n).loading = none) (halted : s.halted n = true)
    (elsewhere : s.rd (R.seqStart_start_pc n) ∉ (s.seq n).starts) : s.start n = s.seqResult n 5 := by
  simp only [State.start, loaded, Option.isSome_none, Bool.false_eq_true, if_false, halted, Bool.true_eq_false, List.contains_eq_mem,
    elsewhere, decide_false, if_true, rRANGE]

theorem State.resume_fresh {s : State} {n : Nat} (loaded : (s.seq n).loading = none) (why : s.rd (R.seqStatus_halt_why n) = 0) :
    s.resume n = s.seqResult n 2 := by
  simp only [State.resume, loaded, Option.isSome_none, Bool.false_eq_true, if_false, why, true_or, or_true, if_true, rSTATE]

theorem State.resume_halted {s : State} {n : Nat} (loaded : (s.seq n).loading = none) (halted : s.halted n = true)
    (why : s.rd (R.seqStatus_halt_why n) = 1) (runnable : (s.seq n).runnable = true)
    (word : (s.microWord n (s.rd (R.seqPc_pc n))).isSome = true) :
    s.resume n = (s.seqResult n 0).goAt n (max (s.anchor n) (s.dial + 2048)) := by
  simp only [State.resume, loaded, Option.isSome_none, Bool.false_eq_true, if_false, halted, why, runnable, Bool.true_eq_false,
    one_ne_zero, or_self, Option.isNone_iff_eq_none, Option.isSome_iff_ne_none.1 word, and_false, rOK, State.anchor]

theorem State.interruptWait_unsafe {s : State} {n : Nat} (h : s.waitsSafe n = false) : s.interruptWait n = s := if_neg (by simp [h])

/-- Which step is waited at depends on the wait, the word and `pc`. -/
theorem State.waitsSafe_congr {u s : State} {n : Nat} (wait : (u.seq n).wait = (s.seq n).wait) (micro : u.micro = s.micro)
    (pc : u.rd (R.seqPc_pc n) = s.rd (R.seqPc_pc n)) : u.waitsSafe n = s.waitsSafe n := by
  simp only [State.waitsSafe, State.microWord, wait, micro, pc]

/-- An abort noted for the next safe step. -/
def State.noteAbort (s : State) (n why : Nat) : State := s.setSeq n { s.seq n with abort := some why }

theorem State.abortCmd_running {s : State} {n : Nat} (runs : s.halted n = false) (unsafeWait : s.waitsSafe n = false) :
    s.abortCmd n = (s.seqResult n 0).noteAbort n 2 := by
  have runs' : (s.seqResult n 0).halted n = false := by
    rw [State.halted, State.seqResult_frame _ _ _ (result_key_ne_run_key n).symm]
    exact runs
  have wait : ((s.seqResult n 0).noteAbort n 2).waitsSafe n = false := by
    rw [← unsafeWait]
    exact State.waitsSafe_congr (by simp [State.noteAbort]) rfl (s.seqResult_frame n 0 (result_key_ne_pc_key n).symm)
  rw [State.abortCmd, if_neg (by simp [runs]), State.raiseAbort, rOK, if_neg (by simp [runs'])]
  exact State.interruptWait_unsafe wait

theorem State.shotAbort_unsafe {s : State} {n : Nat} (unsafeWait : s.waitsSafe n = false) :
    s.shotAbort n = (s.seqResult n 0).setBit (R.seqStatus_ipend n) 0 := by
  have pc_ne : (R.seqPc_pc n).key ≠ (R.seqStatus_ipend n).key := by simp only [R.seqPc_pc, R.seqStatus_ipend]; omega
  refine State.interruptWait_unsafe ?_
  rw [← unsafeWait]
  refine State.waitsSafe_congr rfl rfl ?_
  exact (State.rd_wr_ne _ _ pc_ne).trans (s.seqResult_frame n rOK (result_key_ne_pc_key n).symm)

theorem State.quiet_running {s : State} {n : Nat} (runs : s.halted n = false) : s.quiet n = s.seqResult n 2 := if_pos runs

theorem State.quiet_result {s : State} {n : Nat} (halted : s.halted n = true) : (s.quiet n).rd (R.seqCmd_result n) = 0 := by
  rw [State.quiet, if_neg (by simp [halted])]
  exact State.seqResult_result _ n 0

theorem State.iclr_expert {s : State} {n : Nat} (expert : s.rd (R.seqCtl_level n) = 1) :
    s.iclr n = (s.wr (R.seqStatus_ipend n) 0).seqResult n 0 := if_pos expert

/-! ### The obligation -/

/-- Settles O26: each command comes to one of the equations above. -/
theorem sequencerCommandsAnswer : Obligations.SequencerCommandsAnswer := by
  refine ⟨fun t n s up loaded halted entry fits => .of_hostCmd up rfl ?start,
    fun t n s up loading => .of_hostCmd up rfl (State.start_loading (by simpa using loading)),
    fun t n s up loaded runs => .of_hostCmd up rfl (State.start_running (by simpa using loaded) (by simpa using runs)),
    fun t n s up loaded halted elsewhere =>
      .of_hostCmd up rfl (State.start_elsewhere (by simpa using loaded) (by simpa using halted) (by simpa using elsewhere)),
    fun t n s up loaded why => .of_hostCmd up rfl (State.resume_fresh (by simpa using loaded) (by simpa using why)),
    fun t n s up loaded halted why runnable plain word => .of_hostCmd up rfl ?resume,
    fun t n s up halted => .of_hostCmd up rfl (if_pos (by simpa using halted)),
    fun t n s up runs noSafe => .of_hostCmd up rfl ?abort,
    fun t n s up noSafe => .of_hostCmd up rfl ?shotAbort,
    fun t n s up runs => .of_hostCmd up rfl (State.quiet_running (by simpa using runs)),
    fun t n s up halted => .of_hostCmd up rfl ⟨rfl, State.quiet_result (by simpa using halted)⟩,
    fun t n s up expert => .of_hostCmd up rfl ?iclr⟩
  case start =>
    rw [State.start_taken (by simpa using loaded) (by simpa using halted) (by simpa using entry), State.atStart_startAsked]
    refine ⟨?_, ?_, State.goAt_anchor _ n _, by simp, ?_⟩
    · rw [State.goAt_frame _ n _ (result_key_ne_run_key n), State.atStart_result]
    · rw [State.goAt_frame _ n _ (run_key_ne_pc_key n).symm, State.atStart_pc, State.at_rd, Nat.mod_eq_of_lt fits]
    · exact ((s.at_SameBut t _).atStart n (by simp)).goAt n _ (by simp)
  case resume =>
    rw [State.resume_halted (by simpa using loaded) (by simpa using halted) (by simpa using why) (by simpa using runnable)
      (by simpa using word), State.at_anchor]
    refine ⟨?_, ?_, State.goAt_anchor _ n _, by simp [plain], ?_⟩
    · rw [State.goAt_frame _ n _ (result_key_ne_run_key n), State.seqResult_result, Nat.zero_mod]
    · rw [State.goAt_frame _ n _ (run_key_ne_pc_key n).symm, State.seqResult_frame _ n _ (result_key_ne_pc_key n).symm, State.at_rd]
    · exact ((s.at_SameBut t _).seqResult n _ (by simp)).goAt n _ (by simp)
  case abort =>
    rw [State.abortCmd_running (by simpa using runs) (by simpa using noSafe)]
    exact ⟨State.seqResult_result _ n 0, by simp [State.noteAbort], ((s.at_SameBut t _).seqResult n _ (by simp)).setSeq n _⟩
  case shotAbort =>
    rw [State.shotAbort_unsafe (by simpa using noSafe), State.setBit]
    refine ⟨?_, ?_, ((s.at_SameBut t _).seqResult n _ (by simp)).wr _ _ (by simp)⟩
    · rw [State.rd_wr_ne _ _ (result_key_ne_ipend_key n), State.seqResult_result, Nat.zero_mod]
    · rw [State.rd_wr, State.seqResult_frame _ n _ (result_key_ne_ipend_key n).symm, State.at_rd]
      rfl
  case iclr =>
    rw [State.iclr_expert (by simpa using expert)]
    refine ⟨?_, State.seqResult_result _ n 0, ((s.at_SameBut t _).wr _ _ (by simp)).seqResult n _ (by simp)⟩
    rw [State.seqResult_frame _ n _ (result_key_ne_ipend_key n).symm, State.rd_wr, Nat.zero_mod]

end Sys2Proof.Machine
end

section
/-! SUPPORT. Measurement units (R339 to R342). -/

namespace Sys2Proof.Machine

/-! ### A unit that is idle again and a result that is posted -/

theorem State.SameBut.setUnit {v s : State} {fs : List Fld} (h : v.SameBut s fs) (u : Nat) (x : MeasSt) : (v.setUnit u x).SameBut s fs := h

theorem State.setUnit_frame (s : State) (u : Nat) (x : MeasSt) (f : Fld) : (s.setUnit u x).rd f = s.rd f := rfl

theorem State.SameBut.idleUnit {v s : State} {fs : List Fld} (h : v.SameBut s fs) (u : Nat) (hf : R.stpMCmd_busy u ∈ fs) :
    (v.idleUnit u).SameBut s fs := (h.wr _ 0 hf).setUnit u _

@[simp] theorem State.idleUnit_busy (s : State) (u : Nat) : (s.idleUnit u).rd (R.stpMCmd_busy u) = 0 := by
  rw [State.idleUnit, State.setUnit_frame, State.rd_wr, Nat.zero_mod]

theorem State.idleUnit_frame (s : State) (u : Nat) {f : Fld} (h : f.key ≠ (R.stpMCmd_busy u).key) : (s.idleUnit u).rd f = s.rd f := by
  rw [State.idleUnit, State.setUnit_frame, State.rd_wr_ne _ _ h]

/-- The fields that a posted value writes. -/
abbrev measFields (u : Nat) : List Fld :=
  [R.stpMCmd_busy u, R.stpMCmd_result u, R.stpMCmd_lost u, R.stpMResLo_res_lo u, R.stpMResHi_res_hi u]

/-- The result without its value. -/
def State.postCode (s : State) (u code : Nat) : State := (s.wr (R.stpMCmd_result u) code).fireD (32 + u)

theorem State.postCode_result (s : State) (u code : Nat) : (s.postCode u code).rd (R.stpMCmd_result u) = code % 2 ^ 8 :=
  State.rd_wr s (R.stpMCmd_result u) code

/-- Whether a value not read yet is lost. -/
def State.markLost (s : State) (u : Nat) (unread : Bool) : State := if unread then s.setF (R.stpMCmd_lost u) else s

/-- The value stands in the result registers. -/
def State.putResult (s : State) (u v : Nat) : State := (s.wr (R.stpMResLo_res_lo u) (v % 2 ^ 32)).wr (R.stpMResHi_res_hi u) (v / 2 ^ 32)

theorem State.postMeas_none (s : State) (u code : Nat) : s.postMeas u code none = s.postCode u code := rfl

theorem State.postMeas_some (s : State) (u code v : Nat) : s.postMeas u code (some v) =
    (((s.postCode u code).markLost u (s.unit u).unread).putResult u v).setUnit u
      { (((s.postCode u code).markLost u (s.unit u).unread).putResult u v).unit u with unread := true } := rfl

theorem State.SameBut.markLost {v s : State} {fs : List Fld} (h : v.SameBut s fs) (u : Nat) (b : Bool) (hf : R.stpMCmd_lost u ∈ fs) :
    (v.markLost u b).SameBut s fs := by
  unfold State.markLost
  split
  · exact h.wr _ 1 hf
  · exact h

theorem State.SameBut.postCode {v s : State} {fs : List Fld} (h : v.SameBut s fs) (u code : Nat) (hf : R.stpMCmd_result u ∈ fs) :
    (v.postCode u code).SameBut s fs := (h.wr _ code hf).fireD (32 + u)

theorem State.SameBut.putResult {v s : State} {fs : List Fld} (h : v.SameBut s fs) (u x : Nat) (hl : R.stpMResLo_res_lo u ∈ fs)
    (hh : R.stpMResHi_res_hi u ∈ fs) : (v.putResult u x).SameBut s fs := (h.wr _ _ hl).wr _ _ hh

theorem State.postMeas_some_SameBut (s : State) (u code v : Nat) : (s.postMeas u code (some v)).SameBut s (measFields u) := by
  rw [State.postMeas_some]
  exact ((((s.SameBut_refl _).postCode u code (by simp)).markLost u _ (by simp)).putResult u v (by simp) (by simp)).setUnit u _

/-- The code of a posted value. -/
theorem State.postMeas_some_result (s : State) (u code v : Nat) :
    (s.postMeas u code (some v)).rd (R.stpMCmd_result u) = code % 2 ^ 8 := by
  rw [State.postMeas_some, State.setUnit_frame, State.putResult,
    State.rd_wr_ne _ _ (by simp only [R.stpMCmd_result, R.stpMResHi_res_hi]; omega),
    State.rd_wr_ne _ _ (by simp only [R.stpMCmd_result, R.stpMResLo_res_lo]; omega), State.markLost]
  split
  · rw [State.setF, State.rd_wr_ne _ _ (by simp only [R.stpMCmd_result, R.stpMCmd_lost]; omega)]
    exact State.rd_wr _ _ _
  · exact State.rd_wr _ _ _

/-- The posted value of 48 bits stands in the two result registers. -/
theorem State.postMeas_some_value (s : State) (u code : Nat) {v : Nat} (h : v < 2 ^ 48) :
    (s.postMeas u code (some v)).rd (R.stpMResLo_res_lo u) + 2 ^ 32 * (s.postMeas u code (some v)).rd (R.stpMResHi_res_hi u) = v := by
  have lo_ne_hi : (R.stpMResLo_res_lo u).key ≠ (R.stpMResHi_res_hi u).key := by simp only [R.stpMResLo_res_lo, R.stpMResHi_res_hi]; omega
  rw [State.postMeas_some, State.setUnit_frame, State.setUnit_frame, State.putResult, State.rd_wr_ne _ _ lo_ne_hi, State.rd_wr,
    State.rd_wr]
  simp only [R.stpMResLo_res_lo, R.stpMResHi_res_hi]
  omega

/-! ### go and stop -/

theorem State.measGo_busy {s : State} {u : Nat} (busy : s.rd (R.stpMCmd_busy u) = 1) : s.measGo u = s.wr (R.stpMCmd_result u) 1 :=
  if_pos busy

theorem State.measGo_range {s : State} {u : Nat} (idle : s.rd (R.stpMCmd_busy u) = 0) (src : 50 ≤ s.rd (R.stpMCfg_start_src u)) :
    s.measGo u = s.wr (R.stpMCmd_result u) 5 := by
  rw [State.measGo, if_neg (by omega), if_pos (.inl src), rRANGE]

/-- An interval measurement as `go` begins it. -/
def State.intervalUnit (s : State) (u : Nat) : MeasSt :=
  { MeasSt.init with
    rep := s.flag (R.stpMCfg_repeat u), restart := s.flag (R.stpMCfg_restart u), src1 := s.rd (R.stpMCfg_start_src u),
    src2 := s.rd (R.stpMCfg_stop_src u),
    tmo := timeoutOf (s.rd (R.stpMToLo_to_lo u) + 2 ^ 32 * s.rd (R.stpMToHi_to_hi u)), gate := s.rd (R.stpMToHi_gate u),
    pnom := s.rd (R.stpMPnom_p_nom u), goAt := 256 * s.dial, unread := (s.unit u).unread }

theorem State.measGo_interval {s : State} {u : Nat} (idle : s.rd (R.stpMCmd_busy u) = 0) (start : s.rd (R.stpMCfg_start_src u) < 50)
    (stop : s.rd (R.stpMCfg_stop_src u) < 50) (mode : s.rd (R.stpMCfg_mode u) = 0) :
    s.measGo u = ((s.wr (R.stpMCmd_result u) 0).wr (R.stpMCmd_busy u) 1).setUnit u (s.intervalUnit u) := by
  rw [State.measGo, if_neg (by omega), if_neg (by omega), mode]
  rfl

theorem State.stopUnit_busy {s : State} {u : Nat} (busy : s.rd (R.stpMCmd_busy u) = 1) :
    s.stopUnit u = (s.wr (R.stpMCmd_result u) 11).idleUnit u := (if_pos busy).trans (if_pos busy)

theorem State.stopUnit_idle {s : State} {u : Nat} (idle : s.rd (R.stpMCmd_busy u) = 0) : s.stopUnit u = s.wr (R.stpMCmd_result u) 2 :=
  if_neg (by omega)

/-! ### Results, timeouts and gates -/

theorem State.rearm_once {s : State} {u : Nat} (once : (s.unit u).rep = false) (x : Nat) : s.rearm u x = s.idleUnit u := if_neg (by simp [once])

theorem State.postMeas_rep (s : State) (u code : Nat) (v : Option Nat) : ((s.postMeas u code v).unit u).rep = (s.unit u).rep := by
  cases v with
  | none => rfl
  | some v =>
    rw [State.postMeas_some, State.setUnit_unit_self]
    cases (s.unit u).unread <;> rfl

theorem exec_intervalResult_both {t a b : Nat} {k : Fin 16} {s : State} (start : (s.unit k).start = some a)
    (stop : (s.unit k).stop = some b) (mode : (s.unit k).mode = 0) (once : (s.unit k).rep = false) (busy : s.rd (R.stpMCmd_busy k) = 1) :
    exec (.intervalResult t k) s = .next (((s.at t).postMeas k 0 (some ((b - a) % 2 ^ 48))).idleUnit k) := by
  change execIntervalResult t k s = _
  simp only [execIntervalResult, State.at_unit, start, stop, mode, State.at_rd, busy, and_self, if_true, rOK]
  rw [State.rearm_once (by rw [State.postMeas_rep, State.at_unit, once])]

theorem exec_intervalTimeout_late {t a : Nat} {k : Fin 16} {s : State} (start : (s.unit k).start = some a)
    (stop : (s.unit k).stop = none) (mode : (s.unit k).mode = 0) (once : (s.unit k).rep = false) (busy : s.rd (R.stpMCmd_busy k) = 1)
    (late : a + 256 * (s.unit k).tmo < 256 * (s.at t).dial) :
    exec (.intervalTimeout t k) s = .next (((s.at t).postMeas k 9 (some (2 ^ 48 - 1))).idleUnit k) := by
  change execIntervalTimeout t k s = _
  simp only [execIntervalTimeout, State.at_unit, start, stop, mode, State.at_rd, busy, late, and_self, if_true, rTIMEOUT]
  rw [State.rearm_once (by rw [State.postMeas_rep, State.at_unit, once])]

theorem exec_frequencyGateEnd_over {t : Nat} {k : Fin 16} {s : State} (mode : (s.unit k).mode = 1)
    (busy : s.rd (R.stpMCmd_busy k) = 1) (passed : (s.unit k).start.getD (s.unit k).goAt + 256 * (s.unit k).gate * msTicks < 256 * (s.at t).dial) :
    exec (.frequencyGateEnd t k) s =
      .next ((if (s.unit k).cnt < 2 then ((s.at t).wr (R.stpMN_n_used k) (s.unit k).cnt).postMeas k 9 none
        else ((s.at t).wr (R.stpMN_n_used k) (s.unit k).cnt).postMeas k 0 (some (unsigned 48 (freqDev (s.unit k))))).idleUnit k) := by
  change execFrequencyGateEnd t k s = _
  simp only [execFrequencyGateEnd, State.at_unit, mode, State.at_rd, busy, passed, and_self, if_true, rTIMEOUT, rOK]

theorem unsigned_lt (w : Nat) (x : Int) : unsigned w x < 2 ^ w := by
  have pos : (0 : Int) < 2 ^ w := by positivity
  have := Int.emod_lt_of_pos x pos
  have := Int.emod_nonneg x pos.ne'
  unfold unsigned
  zify
  omega

/-! ### The obligation -/

theorem result_key_ne_busy_key (u : Nat) : (R.stpMCmd_result u).key ≠ (R.stpMCmd_busy u).key := by
  simp only [R.stpMCmd_result, R.stpMCmd_busy]; omega

/-- A value that is posted as the unit becomes idle. -/
theorem State.posted_idle {s v : State} {u code x : Nat} (h : v.SameBut s (measFields u)) (hc : code < 2 ^ 8) (hx : x < 2 ^ 48) :
    ((v.postMeas u code (some x)).idleUnit u).rd (R.stpMCmd_result u) = code ∧
      ((v.postMeas u code (some x)).idleUnit u).rd (R.stpMCmd_busy u) = 0 ∧
      ((v.postMeas u code (some x)).idleUnit u).rd (R.stpMResLo_res_lo u) +
        2 ^ 32 * ((v.postMeas u code (some x)).idleUnit u).rd (R.stpMResHi_res_hi u) = x ∧
      ((v.postMeas u code (some x)).idleUnit u).SameBut s (measFields u) := by
  refine ⟨?_, State.idleUnit_busy _ u, ?_, ((v.postMeas_some_SameBut u code x).trans h).idleUnit u (by simp)⟩
  · rw [State.idleUnit_frame _ u (result_key_ne_busy_key u), State.postMeas_some_result, Nat.mod_eq_of_lt hc]
  · rw [State.idleUnit_frame _ u (by simp only [R.stpMResLo_res_lo, R.stpMCmd_busy]; omega),
      State.idleUnit_frame _ u (by simp only [R.stpMResHi_res_hi, R.stpMCmd_busy]; omega), State.postMeas_some_value _ _ _ hx]

/-- Settles O46: `go` and `stop` come to one write or one beginning, and each end posts its value as the unit becomes idle. -/
theorem measurementUnitsPost : Obligations.MeasurementUnitsPost := by
  refine ⟨fun t k s up busy => .of_hostCmd up rfl (State.measGo_busy (by simpa using busy)),
    fun t k s up idle src => .of_hostCmd up rfl (State.measGo_range (by simpa using idle) (by simpa using src)),
    fun t k s up idle start stop mode => .of_hostCmd up rfl ?go,
    fun t k s up busy => .of_hostCmd up rfl ?stop,
    fun t a b k s start stop mode once busy order => ⟨_, exec_intervalResult_both start stop mode once busy,
      State.posted_idle (s.at_SameBut t _) (by decide) (Nat.mod_lt _ (by decide))⟩,
    fun t a k s start stop mode once busy late => ⟨_, exec_intervalTimeout_late start stop mode once busy late,
      State.posted_idle (s.at_SameBut t _) (by decide) (by decide)⟩,
    fun t k s mode busy passed few => ⟨_, exec_frequencyGateEnd_over mode busy passed, ?few⟩,
    fun t k s mode busy passed enough => ⟨_, exec_frequencyGateEnd_over mode busy passed, ?enough⟩,
    fun t k s up idle => .of_hostCmd up rfl (State.stopUnit_idle (by simpa using idle))⟩
  case go =>
    rw [State.measGo_interval (by simpa using idle) (by simpa using start) (by simpa using stop) (by simpa using mode)]
    refine ⟨?_, by simp [State.intervalUnit], by simp [State.intervalUnit], by simp [State.intervalUnit, MeasSt.init],
      by simp [State.intervalUnit], ?_, (((s.at_SameBut t _).wr _ 0 (by simp)).wr _ 1 (by simp)).setUnit k _⟩
    · rw [State.setUnit_frame, State.rd_wr]
      rfl
    · rw [State.setUnit_frame, State.rd_wr_ne _ _ (result_key_ne_busy_key k), State.rd_wr, Nat.zero_mod]
  case stop =>
    rw [State.stopUnit_busy (by simpa using busy)]
    refine ⟨?_, State.idleUnit_busy _ k, ((s.at_SameBut t _).wr _ _ (by simp)).idleUnit k (by simp)⟩
    rw [State.idleUnit_frame _ k (result_key_ne_busy_key k), State.rd_wr]
    rfl
  case few =>
    rw [if_pos few, State.postMeas_none]
    refine ⟨?_, State.idleUnit_busy _ k, ?_, (((s.at_SameBut t _).wr _ _ (by simp)).postCode k 9 (by simp)).idleUnit k (by simp)⟩
    · rw [State.idleUnit_frame _ k (result_key_ne_busy_key k), State.postCode_result]
      rfl
    · have frame := (State.SameBut_refl ((s.at t).wr (R.stpMN_n_used k) (s.unit k).cnt) [R.stpMCmd_result (k : Nat)]).postCode k 9 (by simp)
      rw [State.idleUnit_frame _ k (by simp only [R.stpMN_n_used, R.stpMCmd_busy]; omega),
        frame.1.1 _ (by simp only [R.stpMN_n_used, R.stpMCmd_result, List.map_cons, List.map_nil, List.mem_singleton]; omega), State.rd_wr]
      exact Nat.mod_eq_of_lt (few.trans (show 2 < 2 ^ 32 by decide))
  case enough =>
    rw [if_neg (by omega)]
    obtain ⟨result, idle, value, -⟩ := State.posted_idle (u := k) (code := 0)
      (State.SameBut_refl ((s.at t).wr (R.stpMN_n_used k) (s.unit k).cnt) _) (by decide) (unsigned_lt 48 (freqDev (s.unit k)))
    exact ⟨result, idle, value⟩

end Sys2Proof.Machine
end

section
/-! SUPPORT. A commit reads its entries from staging memory, and a read counts the errors that it corrects (R239, R351). -/

namespace Sys2Proof.Machine

/-- A read of one chunk with an error in one symbol corrects it and finds nothing unreadable. -/
theorem State.meetAll_weak {s : State} {c : Nat} (good : s.poisoned c = false) (weak : s.errorsOf c = 1) :
    s.meetAll [c] = ([], s.corrected c) := by
  simp [State.meetAll, State.meetChunk, good, weak]

theorem State.setMemo_regs (s : State) (x : MemSt) : (s.setMemo x).regs = s.regs := rfl
theorem State.healChunk_regs (s : State) (c : Nat) : (s.healChunk c).regs = s.regs := rfl
theorem State.markRow_regs (s : State) (k : Nat) : (s.markRow k).regs = s.regs := rfl
theorem State.lifeAdd_regs (s : State) (page i k : Nat) : (s.lifeAdd page i k).regs = s.regs := rfl

/-- A correction writes one register, the counter of the chunk's stack. -/
theorem State.corrected_regs (s : State) (c : Nat) : (s.corrected c).regs = (s.incSat (R.memStkCe_ce_count (stackOf c))).regs := by
  simp only [State.corrected, apply_ite State.regs, State.markRow_regs, State.setMemo_regs, State.healChunk_regs, State.lifeAdd_regs,
    ite_self]

/-- A correction counts in CE_COUNT of the chunk's stack. -/
theorem State.corrected_ce {s : State} {c : Nat} (none : s.rd (R.memStkCe_ce_count (stackOf c)) = 0) :
    (s.corrected c).rd (R.memStkCe_ce_count (stackOf c)) = 1 := by
  have counted : (s.incSat (R.memStkCe_ce_count (stackOf c))).rd (R.memStkCe_ce_count (stackOf c)) = 1 := by
    have fits : 0 + 1 < 2 ^ (R.memStkCe_ce_count (stackOf c)).width := show 0 + 1 < 2 ^ 32 by decide
    rw [State.incSat, none, if_pos fits, State.rd_wr, Nat.mod_eq_of_lt fits]
  rw [← counted, State.rd, State.rd, State.corrected_regs]

/-- A commit at once writes nothing but the transaction's state beside what the read of its entries does. -/
theorem State.requestCommit_atOnce_frame {s : State} {x : Nat} (opened : s.txnState x = tOPEN) (good : s.stageBad x = false) (t : Nat)
    {f : Fld} (h : f.key ≠ (R.txnState_state x).key) : (s.requestCommit x 0 t none none).2.rd f = (s.readStage x).2.rd f := by
  simp only [State.requestCommit, opened, good, ne_eq, not_true_eq_false, if_false, Bool.false_eq_true, OfNat.zero_ne_ofNat,
    zero_ne_one]
  exact State.rd_wr_ne _ _ h

/-- The chunk of the first entry of transaction 0, with the regions at their reset bases. -/
@[irreducible] def firstStaged : Nat := State.reset.rgnStart 1 / 32 + Config.stageChunk 0 0

/-- Amber, with transaction 0 open and one entry staged, whose chunk holds one error that a read corrects. -/
def weakStage : State :=
  { State.reset with
    svc := { SvcSt.init with svc := .amber }
    regs := [((R.txnState_state 0).key, tOPEN)]
    txns := [(0, { TxnSt.init with ents := [⟨4, 0, [0]⟩] })]
    memo := { MemSt.init with weak := [(firstStaged, 1)] } }

/-- The registers, transactions and memory errors of `weakStage`, at some Dial value. -/
structure State.IsWeakStage (s : State) : Prop where
  regs : s.regs = weakStage.regs
  txns : s.txns = weakStage.txns
  memo : s.memo = weakStage.memo
  poison : s.poison = weakStage.poison

theorem weakStage_is : weakStage.IsWeakStage := ⟨rfl, rfl, rfl, rfl⟩

theorem weakStage_at_is (t : Nat) : (weakStage.at t).IsWeakStage :=
  ⟨State.at_regs _ t, State.at_txns _ t, State.at_memo _ t, State.at_poison _ t⟩

theorem State.IsWeakStage.rd {s : State} (h : s.IsWeakStage) {f : Fld} (hf : f.key ≠ (R.txnState_state 0).key) : s.rd f = f.reset := by
  rw [State.rd, h.regs]
  exact if_neg hf.symm

theorem State.IsWeakStage.opened {s : State} (h : s.IsWeakStage) : s.txnState 0 = tOPEN := by
  rw [State.txnState, State.rd, h.regs]
  exact if_pos rfl

theorem State.IsWeakStage.readStage {s : State} (h : s.IsWeakStage) : s.readStage 0 = ([], s.corrected firstStaged) := by
  have base : s.rgnStart 1 = State.reset.rgnStart 1 := by
    rw [State.rgnStart, h.rd (by decide)]
    rfl
  have chunk : (List.range (s.txn 0).ents.length).map (fun i => s.rgnStart 1 / 32 + Config.stageChunk 0 i) = [firstStaged] := by
    rw [base, State.txn, h.txns, firstStaged]
    rfl
  have good : s.poisoned firstStaged = false := by
    rw [State.poisoned, h.poison, h.memo]
    simp [weakStage, State.reset, MemSt.init]
  have weak : s.errorsOf firstStaged = 1 := by
    rw [State.errorsOf, h.memo]
    simp [weakStage, SMap.get]
  rw [State.readStage, chunk, State.meetAll_weak good weak]

theorem State.IsWeakStage.good {s : State} (h : s.IsWeakStage) : s.stageBad 0 = false := by
  rw [State.stageBad, h.readStage]
  rfl

/-- The counter of the stack that holds the entry's chunk. -/
def stagedCe : Fld := R.memStkCe_ce_count (stackOf firstStaged)

theorem stagedCe_ne_state : stagedCe.key ≠ (R.txnState_state 0).key := by
  simp only [stagedCe, R.memStkCe_ce_count, R.txnState_state]; omega

theorem stagedCe_ne_result : stagedCe.key ≠ R.txnCmd_result.key := by
  simp only [stagedCe, R.memStkCe_ce_count, R.txnCmd_result]; omega

/-- The commit at once counts the correction. -/
theorem State.IsWeakStage.commit_ce {s : State} (h : s.IsWeakStage) : s.txnCommit.rd stagedCe = 1 := by
  have selected : s.rd R.txnSel_txn = 0 := h.rd (by decide)
  have mode : s.rd R.txnCmd_cmode = 0 := h.rd (by decide)
  have none : s.rd stagedCe = 0 := h.rd stagedCe_ne_state
  have counted : (s.corrected firstStaged).rd stagedCe = 1 := by
    unfold stagedCe at none ⊢
    exact State.corrected_ce none
  rw [State.txnCommit, State.rd_wr_ne _ _ stagedCe_ne_result, selected, mode,
    State.requestCommit_atOnce_frame h.opened h.good _ stagedCe_ne_state, h.readStage]
  simpa only using counted

theorem exec_txnCommit_up (t : Nat) {s : State} (up : s.svc.svc = .amber ∨ s.svc.svc = .green) :
    exec (.txnCommit t) s = .next (s.at t).txnCommit :=
  (if_pos (State.at_awake_of_ne t (ne_dark_of_up up))).trans (congrArg _ (State.hostCmd_of_up _ _ (by rwa [State.at_svc])))

/-- Refutes O39: the commit at once of the transaction of `weakStage` counts the correction of its entry's chunk in CE_COUNT, which is
not among the registers that the statement lets change. -/
theorem not_transactionsStageAndDecide : ¬ Obligations.TransactionsStageAndDecide := by
  rintro ⟨-, -, -, -, -, -, atOnce, -⟩
  have up : weakStage.svc.svc = .amber ∨ weakStage.svc.svc = .green := .inl rfl
  have selected : weakStage.rd R.txnSel_txn = 0 := weakStage_is.rd (by decide)
  have opened : weakStage.txnState (weakStage.rd R.txnSel_txn) = tOPEN := by rw [selected, weakStage_is.opened]
  have mode : weakStage.rd R.txnCmd_cmode = 0 := weakStage_is.rd (by decide)
  have good : weakStage.stageBad (weakStage.rd R.txnSel_txn) = false := by rw [selected, weakStage_is.good]
  obtain ⟨u, run, -, -, -, frame⟩ := atOnce 0 weakStage up opened mode good
  rw [exec_txnCommit_up 0 up, Host.Outcome.next.injEq] at run
  have same := frame.1.1 stagedCe (by
    simp only [selected, List.map_cons, List.map_nil, List.mem_cons, List.not_mem_nil, or_false, not_or]
    exact ⟨stagedCe_ne_state, stagedCe_ne_result⟩)
  rw [← run, (weakStage_at_is 0).commit_ce, weakStage_is.rd stagedCe_ne_state] at same
  exact absurd same one_ne_zero

end Sys2Proof.Machine
end

section
/-! SUPPORT. Bias outputs: fast flux, range holds and supervision (R312 to R318). -/

namespace Sys2Proof.Machine

/-! ### What marking and ending a shot's event leave -/

theorem State.markShot_biasOut (s : State) (n : Nat) (k : Option Nat) (o : Nat) : (s.markShot n k).biasOut o = s.biasOut o := by
  unfold State.markShot
  split
  · rfl
  · split
    · dsimp only
      split <;> rfl
    · rfl

theorem State.noteEnd_biasOut (s : State) (n : Nat) (k : Option Nat) (t o : Nat) : (s.noteEnd n k t).biasOut o = s.biasOut o := by
  unfold State.noteEnd
  split <;> rfl

theorem State.noteEnd_rd (s : State) (n : Nat) (k : Option Nat) (t : Nat) (f : Fld) : (s.noteEnd n k t).rd f = s.rd f := by
  unfold State.noteEnd
  split <;> rfl

theorem State.markShot_frame (s : State) (n : Nat) (k : Option Nat) {f : Fld} (h : f.key ≠ (R.seqStatus_shot_invalid n).key) :
    (s.markShot n k).rd f = s.rd f := by
  unfold State.markShot
  split
  · rfl
  · split
    · dsimp only
      split
      · rw [State.fireS_rd, State.rd_wr_ne _ _ h]
        rfl
      · rfl
    · rfl

/-! ### Playing a flux pulse up to a tick -/

/-- What plays is the pulse `f`, however much of it has been read and put out. -/
def Flux.IsPart (f g : Flux) : Prop := g.b0 = f.b0 ∧ g.len = f.len ∧ g.hold = f.hold

theorem Flux.IsPart.fin {f g : Flux} (h : f.IsPart g) : g.fin = f.fin := by
  rw [Flux.fin, Flux.fin, Flux.beat, Flux.beat, h.1, h.2.1]

/-- The pulse `f` plays at output `o`, and the active code is `c`. -/
structure State.PlaysFlux (s : State) (o : Nat) (f : Flux) (c : Nat) : Prop where
  flux : ∃ g, (s.biasOut o).flux = some g ∧ f.IsPart g
  code : s.codeAct o = c

theorem State.PlaysFlux.setF {s : State} {o : Nat} {f : Flux} {c : Nat} (h : s.PlaysFlux o f c) {g : Fld}
    (hg : (R.biasAct_code_act (o / 4) (o % 4)).key ≠ g.key) (v : Nat) : (s.wr g v).PlaysFlux o f c :=
  ⟨h.flux, (State.rd_wr_ne _ _ hg).trans h.code⟩

theorem State.PlaysFlux.markShot {s : State} {o : Nat} {f : Flux} {c : Nat} (h : s.PlaysFlux o f c) (k : Option Nat) :
    (s.markShot (o / 4) k).PlaysFlux o f c where
  flux := by rw [State.markShot_biasOut]; exact h.flux
  code := (State.markShot_frame _ _ _ (by simp only [R.biasAct_code_act, R.seqStatus_shot_invalid]; omega)).trans h.code

theorem State.PlaysFlux.setBias {s : State} {o : Nat} {f : Flux} {c : Nat} (h : s.PlaysFlux o f c) {x : BiasSt}
    (hx : ∃ g, x.flux = some g ∧ f.IsPart g) : (s.setBias o x).PlaysFlux o f c :=
  ⟨by rwa [State.setBias_biasOut_self], h.code⟩

theorem State.PlaysFlux.ite {u v : State} {o : Nat} {f : Flux} {c : Nat} {p : Prop} [Decidable p] (hu : u.PlaysFlux o f c)
    (hv : v.PlaysFlux o f c) : (if p then u else v).PlaysFlux o f c := by
  split
  · exact hu
  · exact hv

theorem State.PlaysFlux.fluxRead {s : State} {o : Nat} {f : Flux} {c : Nat} (h : s.PlaysFlux o f c) : (s.fluxRead o).PlaysFlux o f c := by
  obtain ⟨g, plays, part⟩ := h.flux
  unfold State.fluxRead
  simp only [plays]
  split
  · exact h
  · have counted := fun v => h.setF (g := R.seqEcc2_cache_fix (o / 4)) (by simp only [R.biasAct_code_act, R.seqEcc2_cache_fix]; omega) v
    have read := fun v x hx => State.PlaysFlux.setBias (x := x) (counted v) hx
    refine State.PlaysFlux.ite (State.PlaysFlux.markShot (State.PlaysFlux.setF (read _ _ ?_) ?_ 1) _) (read _ _ ?_)
    · exact ⟨_, rfl, part⟩
    · simp only [R.biasAct_code_act, R.biasStatus_flux_ecc]
      omega
    · exact ⟨_, rfl, part⟩

theorem State.PlaysFlux.fluxOut {s : State} {o : Nat} {f : Flux} {c : Nat} (h : s.PlaysFlux o f c) (t : Nat) :
    (s.fluxOut o t).PlaysFlux o f c := by
  obtain ⟨g, plays, part⟩ := h.flux
  unfold State.fluxOut
  simp only [plays]
  split
  · exact h
  · split
    · exact (h.setBias ⟨_, rfl, by exact part⟩).setF (g := R.biasStatus_flux_sat (o / 4)) (by simp only [R.biasAct_code_act, R.biasStatus_flux_sat]; omega) 1
    · exact h.setBias ⟨_, rfl, by exact part⟩

/-- A pulse without `fx_hold` that has ended leaves no pulse, and the code as it was. -/
theorem State.PlaysFlux.endFlux {s : State} {o : Nat} {f : Flux} {c : Nat} (h : s.PlaysFlux o f c) (free : f.hold = false) :
    ((s.endFlux o).biasOut o).flux = none ∧ (s.endFlux o).codeAct o = c := by
  obtain ⟨g, plays, part⟩ := h.flux
  have unheld : g.hold = false := part.2.2.trans free
  unfold State.endFlux
  simp only [plays, unheld, Bool.false_eq_true, false_and, if_false]
  refine ⟨?_, ?_⟩
  · rw [State.noteEnd_biasOut, State.setBias_biasOut_self]
  · rw [State.codeAct, State.noteEnd_rd]
    exact h.code

theorem State.PlaysFlux.fluxTo {s : State} {o : Nat} {f : Flux} {c : Nat} (h : s.PlaysFlux o f c) (free : f.hold = false) {t : Nat}
    (ended : f.fin ≤ t) : ((s.fluxTo o t).biasOut o).flux = none ∧ (s.fluxTo o t).codeAct o = c := by
  have played := h.fluxRead.fluxOut t
  obtain ⟨g, plays, part⟩ := played.flux
  unfold State.fluxTo
  simp only [plays, if_pos (part.fin.trans_le ended)]
  exact played.endFlux free

theorem exec_fluxEnd (t : Nat) (n : Fin 64) (b : Fin 4) {s : State} {f : Flux} (plays : (s.biasOut (4 * n + b)).flux = some f) (ended : f.fin ≤ (s.at t).dial) :
    exec (.fluxEnd t n b) s = .next ((s.at t).fluxTo (4 * n + b) (s.at t).dial) := by
  change execFluxEnd t n b s = _
  simp only [execFluxEnd, State.at_biasOut, plays, if_pos ended]

theorem exec_fluxStart (t : Nat) (n : Fin 64) (b : Fin 4) {s : State} {f : Flux} (one : (s.biasOut (4 * n + b)).fluxes = [f]) (due : f.b0 ≤ (s.at t).dial) :
    exec (.fluxStart t n b) s =
      .next (((s.at t).setBias (4 * n + b) { s.biasOut (4 * n + b) with fluxes := [] }).startFlux (4 * n + b) f) := by
  change execFluxStart t n b s = _
  simp [execFluxStart, one, due, latestFlux]

/-! ### Range holds -/

/-- The hold of an output is over. -/
def State.dropHold (s : State) (n b : Nat) : State :=
  (s.setBias (4 * n + b) { s.biasOut (4 * n + b) with holdEnd := none }).clrBit (R.biasStatus_holding n) b

theorem State.clrBit_biasOut (s : State) (f : Fld) (i o : Nat) : (s.clrBit f i).biasOut o = s.biasOut o := by
  unfold State.clrBit
  split <;> rfl

theorem State.dropHold_holdEnd (s : State) (n b : Nat) : ((s.dropHold n b).biasOut (4 * n + b)).holdEnd = none := by
  rw [State.dropHold, State.clrBit_biasOut, State.setBias_biasOut_self]

theorem exec_rangeHoldEnd (t : Nat) (n : Fin 64) (b : Fin 4) {s : State} {e : Nat} (held : (s.biasOut (4 * n + b)).holdEnd = some e) (ended : e ≤ (s.at t).dial) :
    exec (.rangeHoldEnd t n b) s = .next (((s.at t).fluxTo (4 * n + b) (s.at t).dial).dropHold n b) := by
  change execRangeHoldEnd t n b s = _
  simp only [execRangeHoldEnd, State.at_biasOut, held, if_pos ended]
  rfl

/-! ### Supervision -/

theorem exec_openLoad (t g : Nat) (n : Fin 64) (b : Fin 4) (mv : Int) {s : State} (up : s.svc.svc ≠ .dark) (on : s.supervised (4 * n + b) 0 = true) :
    exec (.supervisionTrip t n b (.openLoad g mv)) s = .next ((s.at t).openLoad (4 * n + b) g mv) :=
  if_pos ⟨State.at_awake_of_ne t up, (State.at_supervised s t _ 0).trans on⟩

theorem exec_overCurrent (t : Nat) (n : Fin 64) (b : Fin 4) {s : State} (up : s.svc.svc ≠ .dark) (on : s.supervised (4 * n + b) 1 = true) :
    exec (.supervisionTrip t n b .overCurrent) s = .next ((s.at t).overCurrent (4 * n + b)) :=
  if_pos ⟨State.at_awake_of_ne t up, (State.at_supervised s t _ 1).trans on⟩

/-- Below 2.85 V the open-load condition goes. -/
theorem State.openLoad_near (s : State) (o g : Nat) {mv : Int} (near : mv.natAbs < 2850) :
    s.openLoad o g mv = s.setBias o { s.biasOut o with cond := (s.biasOut o).cond &&& 3 } := if_pos near

/-- At 2.85 V or beyond it stands, and trips after its qualification time. -/
theorem State.openLoad_far (s : State) (o g : Nat) {mv : Int} (far : 2850 ≤ mv.natAbs) :
    s.openLoad o g mv =
      if g + qualTicks (s.ard (R.biasCfg_open_q (biasDie o) (biasLocal o))) ≤ s.dial then
        (s.setBias o { s.biasOut o with cond := (s.biasOut o).cond ||| 4 }).tripFor (openFld o) o
      else s.setBias o { s.biasOut o with cond := (s.biasOut o).cond ||| 4 } := if_neg (Nat.not_lt.mpr far)

theorem State.overCurrent_ripe {s : State} {o : Nat} (stands : (s.biasOut o).cond.testBit 0 = true)
    (ripe : (s.biasOut o).ocAt + qualTicks (s.ard (R.biasCfg_lim_q (biasDie o) (biasLocal o))) ≤ s.dial) :
    s.overCurrent o = s.tripFor (limFld o) o := by
  unfold State.overCurrent
  simp only [stands, ripe, and_self, if_true]

/-- A current above the limit. -/
def State.aboveLimit (s : State) (o : Nat) : State :=
  (s.setBias o { s.biasOut o with
    cond := (s.biasOut o).cond ||| 1, ocAt := if (s.biasOut o).cond.testBit 0 then (s.biasOut o).ocAt else s.dial }).setBit
      (limFld o) (biasLocal o % 32)

theorem State.at_fullScale (s : State) (t o : Nat) : (s.at t).fullScale o = s.fullScale o := by
  rw [State.fullScale, State.at_ard, State.fullScale]

/-- The limit of an output's current, in hundredths of 1.25 mA / 2^19. -/
def State.limitOf (s : State) (o : Nat) : Nat :=
  2 ^ 19 * s.fullScale o * limPercent (s.ard (R.biasCfg_lim_lvl (biasDie o) (biasLocal o)))

theorem exec_biasLimitClamp (t : Nat) (n : Fin 64) (b : Fin 4) (i : Int) {s : State} (up : s.svc.svc ≠ .dark) (on : s.supervised (4 * n + b) 1 = true) :
    exec (.biasLimitClamp t n b i) s =
      if s.limitOf (4 * n + b) < i.natAbs * 100 then .next ((s.at t).aboveLimit (4 * n + b))
      else .next ((s.at t).setBias (4 * n + b) { s.biasOut (4 * n + b) with cond := (s.biasOut (4 * n + b)).cond &&& 6 }) := by
  change execBiasLimitClamp t n b i s = _
  simp only [execBiasLimitClamp, State.at_awake_of_ne t up, State.at_supervised, on, and_self, if_true, State.at_fullScale, State.at_ard,
    State.at_biasOut]
  rw [State.aboveLimit, State.at_biasOut]
  rfl

/-! ### The supply of a Quarter returns -/

/-- Condition 2 of an output goes. -/
def State.endSupply (s : State) (o : Nat) : State := s.setBias o { s.biasOut o with cond := (s.biasOut o).cond &&& 5 }

theorem State.endSupply_cond (s : State) (o : Nat) : ((s.endSupply o).biasOut o).cond = (s.biasOut o).cond &&& 5 := by
  rw [State.endSupply, State.setBias_biasOut_self]

theorem State.endSupply_biasOut_ne (s : State) {o j : Nat} (h : j ≠ o) : (s.endSupply o).biasOut j = s.biasOut j :=
  State.setBias_biasOut_ne _ _ _ h

theorem State.endSupplies_biasOut_ne (s : State) (os : List Nat) {j : Nat} (h : j ∉ os) :
    (os.foldl State.endSupply s).biasOut j = s.biasOut j := by
  induction os generalizing s with
  | nil => rfl
  | cons o os ih =>
    obtain ⟨ho, hos⟩ := not_or.mp (mt List.mem_cons.mpr h)
    rw [List.foldl_cons, ih _ hos, State.endSupply_biasOut_ne s ho]

theorem State.endSupplies_cond (s : State) {os : List Nat} (distinct : os.Nodup) {j : Nat} (h : j ∈ os) :
    ((os.foldl State.endSupply s).biasOut j).cond = (s.biasOut j).cond &&& 5 := by
  induction os generalizing s with
  | nil => exact absurd h List.not_mem_nil
  | cons o os ih =>
    obtain ⟨fresh, rest⟩ := List.nodup_cons.mp distinct
    rw [List.foldl_cons]
    by_cases e : j = o
    · subst e
      rw [State.endSupplies_biasOut_ne _ _ fresh, State.endSupply_cond]
    · rw [ih _ rest ((List.mem_cons.mp h).resolve_left e), State.endSupply_biasOut_ne s e]

theorem State.endSupplies_regs (s : State) (os : List Nat) : (os.foldl State.endSupply s).regs = s.regs := by
  induction os generalizing s with
  | nil => rfl
  | cons o os ih => exact ih _

/-- The outputs of Quarter `q`. -/
abbrev quarterOutputs (q : Nat) : List Nat := (List.range 64).map (64 * q + ·)

theorem quarterOutputs_nodup (q : Nat) : (quarterOutputs q).Nodup :=
  List.nodup_range.map fun _ _ h => Nat.add_left_cancel h

theorem exec_biasSupplyRestored (t : Nat) (q : Fin 4) (s : State) :
    exec (.biasSupplyRestored t q) s = .next ((quarterOutputs q).foldl State.endSupply (s.at t)) := by
  rw [quarterOutputs, List.foldl_map]
  rfl

/-- Settles O44: each clause is an equation of its command; the flux clause follows the one pulse through its reads and its samples, and
the supply clause goes through the 64 outputs of the Quarter. -/
theorem biasOutputsHoldAndTrip : Obligations.BiasOutputsHoldAndTrip := by
  refine ⟨?start, ?fin, ?hold, ?far, ?current, ?near, ?early, ?above, ?within, ?supply, ?restored⟩
  case start =>
    intro t n b f s one due
    exact .of_eq (exec_fluxStart t n b one due) rfl
  case fin =>
    intro t n b f s plays ended free
    have at_plays : (s.at t).PlaysFlux (4 * n + b) f (s.codeAct (4 * n + b)) :=
      ⟨⟨f, by rw [State.at_biasOut, plays], rfl, rfl, rfl⟩, State.at_rd _ _ _⟩
    exact .of_eq (exec_fluxEnd t n b plays ended) ⟨rfl, at_plays.fluxTo free ended⟩
  case hold =>
    intro t e n b s held ended
    exact .of_eq (exec_rangeHoldEnd t n b held ended) ⟨rfl, State.dropHold_holdEnd _ _ _⟩
  case far =>
    intro t g mv n b s up on beyond ripe
    refine .of_eq (exec_openLoad t g n b mv up on) ?_
    rw [State.openLoad_far _ _ _ beyond, State.at_ard, if_pos ripe, State.at_biasOut]
  case current =>
    intro t n b s up on stands ripe
    refine .of_eq (exec_overCurrent t n b up on) ?_
    exact State.overCurrent_ripe (by rwa [State.at_biasOut]) (by rwa [State.at_biasOut, State.at_ard])
  case near =>
    intro t g mv n b s up on near
    refine .of_eq (exec_openLoad t g n b mv up on) ?_
    rw [State.openLoad_near _ _ _ near, State.setBias_biasOut_self, State.at_biasOut]
    exact ⟨rfl, State.at_regs s t⟩
  case early =>
    intro t g mv n b s up on far early
    refine .of_eq (exec_openLoad t g n b mv up on) ?_
    rw [State.openLoad_far _ _ _ far, State.at_ard, if_neg (Nat.not_le.mpr early), State.setBias_biasOut_self, State.at_biasOut]
    exact ⟨rfl, State.at_regs s t⟩
  case above =>
    intro t n b i s up on above
    refine .of_eq ((exec_biasLimitClamp t n b i up on).trans (if_pos above)) ?_
    rw [State.aboveLimit, State.at_biasOut]
    exact ⟨rfl, congrArg BiasSt.cond (State.setBias_biasOut_self _ _ _)⟩
  case within =>
    intro t n b i s up on within
    refine .of_eq ((exec_biasLimitClamp t n b i up on).trans (if_neg (Nat.not_lt.mpr within))) ?_
    rw [State.setBias_biasOut_self]
    exact ⟨rfl, State.at_regs s t⟩
  case supply =>
    intro t q s up
    exact .of_awake up rfl rfl
  case restored =>
    intro t q s
    refine .of_eq (exec_biasSupplyRestored t q s) ⟨fun k => ?_, (State.endSupplies_regs _ _).trans (State.at_regs s t)⟩
    rw [State.endSupplies_cond _ (quarterOutputs_nodup q) (List.mem_map_of_mem (List.mem_range.mpr k.isLt)), State.at_biasOut]

end Sys2Proof.Machine
end

section
/-! SUPPORT. Dark: what a loss of power leaves (R16, R511). -/

namespace Sys2Proof.Machine

theorem State.putFlash_sec (s : State) (a : Nat) (l : List Byte) : (s.putFlash a l).sec = s.sec := by
  rw [State.putFlash_eq]

theorem State.cutFlash_sec (s : State) : s.cutFlash.sec = s.sec := by
  unfold State.cutFlash
  split
  · exact State.putFlash_sec _ _ _
  · exact State.putFlash_sec _ _ _
  · rfl

/-- What `u` holds in flash and of the copies of the command key is what `s` does. -/
def State.SameKeys (u s : State) : Prop := u.flash = s.flash ∧ u.sec.keys = s.sec.keys

theorem State.cutFuse_sameKeys (s : State) : s.cutFuse.SameKeys s := by
  unfold State.cutFuse
  exact iteInduction (motive := (State.SameKeys · s)) (fun _ => ⟨rfl, rfl⟩) fun _ =>
    iteInduction (motive := (State.SameKeys · s)) (fun _ => ⟨rfl, rfl⟩) fun _ =>
      iteInduction (motive := (State.SameKeys · s)) (fun _ => ⟨rfl, rfl⟩) fun _ => ⟨rfl, rfl⟩

/-- With nothing under way in the flash window Dark cuts nothing off there. -/
theorem State.cutFlash_none {s : State} (idle : s.sec.fl = none) : s.cutFlash = s := by
  rw [State.cutFlash, idle]

/-- With no mailbox command under way Dark cuts no fuse off. -/
theorem State.cutFuse_none {s : State} (idle : s.sec.mb = none) : s.cutFuse = s := by
  simp only [State.cutFuse, idle, if_true]

theorem State.cutFlash_erase {s : State} {a : Nat} (erases : s.sec.fl = some (0, a)) :
    s.cutFlash = s.draw.2.putFlash (0x2000000 + a) (leBytes 0x10000 s.draw.1) := by
  unfold State.cutFlash
  simp only [erases]

theorem length_leBytes (k v : Nat) : (leBytes k v).length = k := by
  induction k generalizing v with
  | zero => rfl
  | succ k ih => exact congrArg Nat.succ (ih _)

/-- Entry into Dark: the service state, every register at its reset value, HBM lost and the copies of the command key kept. -/
theorem State.enterDark_cleared (s : State) :
    s.enterDark.svc.svc = .dark ∧ (∀ f : Fld, s.enterDark.rd f = f.reset) ∧ s.enterDark.hbm = [] ∧ s.enterDark.sec.keys = s.sec.keys := by
  refine ⟨rfl, fun f => rfl, rfl, ?_⟩
  calc s.enterDark.sec.keys = s.cutFlash.cutFuse.sec.keys := rfl
    _ = s.cutFlash.sec.keys := (State.cutFuse_sameKeys _).2
    _ = s.sec.keys := by rw [State.cutFlash_sec]

/-- What outlasts Dark in flash and fuses. -/
def State.Outlasts (u s : State) : Prop :=
  u.flash = s.flash ∧ u.sec.hashes = s.sec.hashes ∧ u.sec.keys = s.sec.keys ∧ u.sec.minVer = s.sec.minVer ∧ u.sec.rev = s.sec.rev

theorem State.enterDark_outlasts {s : State} (window : s.sec.fl = none) (mailbox : s.sec.mb = none) : s.enterDark.Outlasts s := by
  have whole : s.cutFlash.cutFuse = s := by rw [State.cutFlash_none window, State.cutFuse_none mailbox]
  unfold State.enterDark
  rw [whole]
  exact ⟨rfl, rfl, rfl, rfl, rfl⟩

theorem State.at_outlasts {u s : State} {t : Nat} (h : u.Outlasts (s.at t)) : u.Outlasts s := by
  rwa [State.Outlasts, State.at_flash, State.at_sec] at h

/-- An erase that is cut off leaves the bytes outside its sector. -/
theorem State.enterDark_flashByte {s : State} {x : Nat} (erases : s.sec.fl = some (0, x)) {a : Nat}
    (outside : a < 0x2000000 + x ∨ 0x2010000 + x ≤ a) : s.enterDark.flashByte a = s.flashByte a := by
  calc s.enterDark.flashByte a = SMap.get flashBlank s.cutFlash.cutFuse.flash a := rfl
    _ = (s.draw.2.putFlash (0x2000000 + x) (leBytes 0x10000 s.draw.1)).flashByte a := by
      rw [(State.cutFuse_sameKeys _).1, State.cutFlash_erase erases, State.flashByte]
    _ = s.flashByte a := by
      rw [State.putFlash_flashByte, length_leBytes, if_neg (by omega)]
      rfl

theorem exec_powerApplied (t : Nat) (s : State) : exec (.powerApplied t) s = .next (s.at t).enterDark := rfl

theorem exec_nresetLow {t w : Nat} (long : 100 ≤ w) (s : State) : exec (.nresetLow t w) s = .next (s.at t).enterDark := if_pos long

theorem exec_vddAuxCollapse {t mv ns : Nat} (low : mv < 1600) (long : 1000 ≤ ns) (s : State) :
    exec (.vddAuxCollapse t mv ns) s = .next (s.at t).enterDark := if_pos ⟨low, long⟩

/-- Settles O7: the three losses of power answer the same state, entry into Dark, whose parts are read off; what outlasts it goes through
the flash operation and the fuse operation that it cuts off. -/
theorem powerLossClearsEverything : Obligations.PowerLossClearsEverything := by
  have cleared (t : Nat) (s : State) := (s.at t).enterDark_cleared
  simp only [State.at_sec] at cleared
  have kept (t : Nat) (s : State) (window : s.sec.fl = none) (mailbox : s.sec.mb = none) : (s.at t).enterDark.Outlasts s :=
    State.at_outlasts (State.enterDark_outlasts (by rwa [State.at_sec]) (by rwa [State.at_sec]))
  refine ⟨?power, ?reset, ?glitch, ?supply, ?dip, ?powerKeeps, ?resetKeeps, ?supplyKeeps, ?erase⟩
  case power => exact fun t s => .of_eq (exec_powerApplied t s) ⟨rfl, cleared t s⟩
  case reset => exact fun t w s long => .of_eq (exec_nresetLow long s) ⟨rfl, cleared t s⟩
  case glitch => exact fun t w s short => .of_eq (if_neg (Nat.not_le.mpr short)) rfl
  case supply => exact fun t mv ns s low long => .of_eq (exec_vddAuxCollapse low long s) ⟨rfl, cleared t s⟩
  case dip => exact fun t mv ns s small => .of_eq (if_neg (by omega)) rfl
  case powerKeeps => exact fun t s window mailbox => .of_eq (exec_powerApplied t s) (kept t s window mailbox)
  case resetKeeps => exact fun t w s window mailbox long => .of_eq (exec_nresetLow long s) (kept t s window mailbox)
  case supplyKeeps =>
    exact fun t mv ns s window mailbox low long => .of_eq (exec_vddAuxCollapse low long s) (kept t s window mailbox)
  case erase =>
    intro t w x s erases long
    refine .of_eq (exec_nresetLow long s) fun a outside => ?_
    rw [State.enterDark_flashByte (by rwa [State.at_sec]) outside, State.at_flashByte]

end Sys2Proof.Machine
end

section
/-! SUPPORT. Transfers of bytes over I3C and the address pointer (R29 to R33). -/

namespace Sys2Proof.Machine

theorem leNat_lt (bs : List Byte) : leNat bs < 256 ^ bs.length := by
  induction bs with
  | nil => exact Nat.one_pos
  | cons b bs ih =>
    have byte := b.isLt
    rw [leNat, List.length_cons, Nat.pow_succ]
    omega

theorem leNat_lt_of_four {bs : List Byte} (four : bs.length = 4) : leNat bs < 2 ^ 32 := by
  have bound := leNat_lt bs
  rwa [four] at bound

theorem State.addrPhase_aligned (s : State) {bs : List Byte} (four : bs.length = 4) (aligned : leNat bs % 4 = 0) (d : List Byte) :
    s.addrPhase (bs ++ d) = .inl (leNat bs) := by
  have address : (bs ++ d).take 4 = bs := List.take_left' four
  unfold State.addrPhase
  rw [if_neg (by simp only [List.length_append, four]; omega), address, if_pos aligned]

/-- A write to an aligned address writes what follows it. -/
theorem State.writeTransfer_aligned (s : State) {bs : List Byte} (four : bs.length = 4) (aligned : leNat bs % 4 = 0) (d : List Byte) :
    s.writeTransfer (bs ++ d) = s.writeBurst (leNat bs) d := by
  unfold State.writeTransfer
  rw [s.addrPhase_aligned four aligned d]
  exact congrArg _ (List.drop_left' four)

theorem State.writeBurst_word (s : State) (a : Nat) {d : List Byte} (four : d.length = 4) :
    s.writeBurst a d = (s.writeAt a (leNat d)).setPtr ((a + 4) % 2 ^ 32) := by
  obtain ⟨b0, b1, b2, b3, rfl⟩ := List.length_eq_four.mp four
  rfl

theorem State.setPtr_ptr (s : State) {a : Nat} (h : a < 2 ^ 32) : (s.setPtr a).i3c.ptr = a := Nat.mod_eq_of_lt h

/-- An address without data sets the pointer and nothing else. -/
theorem State.writeTransfer_pointer (s : State) {bs : List Byte} (four : bs.length = 4) (aligned : leNat bs % 4 = 0) :
    s.writeTransfer bs = s.setPtr (leNat bs) := by
  have transfer := s.writeTransfer_aligned four aligned []
  rw [List.append_nil] at transfer
  rw [transfer, State.writeBurst]

theorem State.ack_setPtr_regs (s : State) (t a : Nat) : ((s.at t).ack.setPtr a).regs = s.regs := State.at_regs s t

theorem State.at_ptr (s : State) (t : Nat) : (s.at t).i3c.ptr = s.i3c.ptr := by rw [State.at_i3c]

theorem State.at_ack_ptr (s : State) (t : Nat) : (s.at t).ack.i3c.ptr = s.i3c.ptr := State.at_ptr s t

theorem State.sdrRead_address (s : State) {bs : List Byte} (four : bs.length = 4) (aligned : leNat bs % 4 = 0) (k : Nat) :
    s.sdrRead bs k = s.readFrom (leNat bs) k := by
  have some_bytes : bs ≠ [] := by
    rintro rfl
    cases four
  have address := s.addrPhase_aligned four aligned []
  rw [List.append_nil] at address
  unfold State.sdrRead
  rw [if_neg some_bytes, List.take_of_length_le four.le, address]

/-- A DDR command of another code is ignored up to the HDR exit. -/
theorem State.ddr_other {s : State} {code own : Nat} (f : State → State) (up : s.busUp 1 = true) (other : code ≠ own) :
    s.ddr code own f = s.setI3c { s.i3c with hdr := 2 } := by
  unfold State.ddr
  rw [if_neg (by simp [up]), if_neg other]

theorem exec_ddrRead_busUp (t k : Nat) {s : State} (up : s.busUp 1 = true) :
    exec (.ddrRead t ⟨0xA0, k⟩) s = .next ((s.at t).ack.readFrom s.i3c.ptr k) := by
  have own := State.ddr_own (s := s.at t) 0xA0 (fun s => s.readFrom s.i3c.ptr k) (by rwa [State.at_busUp])
  refine congrArg Host.Outcome.next (own.trans ?_)
  rw [State.at_ack_ptr]

/-- Settles O15: the address phase splits the bytes into the address and the words, of which each write takes one. -/
theorem transfersMoveThePointer : Obligations.TransfersMoveThePointer := by
  have ignored (t : Nat) (s : State) : ((s.at t).setI3c { (s.at t).i3c with hdr := 2 }).i3c.hdr = 2 ∧
      ((s.at t).setI3c { (s.at t).i3c with hdr := 2 }).regs = s.regs ∧
      ((s.at t).setI3c { (s.at t).i3c with hdr := 2 }).i3c.ptr = s.i3c.ptr :=
    ⟨rfl, State.at_regs s t, State.at_ptr s t⟩
  have up_at (t : Nat) {s : State} (up : s.busUp 1 = true) : (s.at t).busUp 1 = true := by rwa [State.at_busUp]
  refine ⟨?pointer, ?ddrPointer, ?write, ?ddrWrite, ?read, ?readOn, ?ddrRead, ?otherWrite, ?otherPointer, ?otherRead⟩
  case pointer =>
    intro t bs s up four aligned
    refine .of_eq (exec_sdrPrivateWrite_busUp t bs up) ?_
    rw [State.writeTransfer_pointer _ four aligned]
    exact ⟨State.setPtr_ptr _ (leNat_lt_of_four four), State.ack_setPtr_regs s t _⟩
  case ddrPointer =>
    intro t bs s up four aligned
    refine .of_eq (exec_ddrSetPointer_busUp t bs up) ?_
    rw [List.take_of_length_le four.le, State.writeTransfer_pointer _ four aligned]
    exact ⟨State.setPtr_ptr _ (leNat_lt_of_four four), State.ack_setPtr_regs s t _⟩
  case write =>
    intro t bs d s up four word aligned
    refine .of_eq (exec_sdrPrivateWrite_busUp t _ up) ?_
    rw [State.writeTransfer_aligned _ four aligned, State.writeBurst_word _ _ word]
  case ddrWrite =>
    intro t bs d s up four word aligned
    refine .of_eq (exec_ddrWrite_busUp t _ up) ?_
    rw [State.writeTransfer_aligned _ four aligned, State.writeBurst_word _ _ word]
  case read =>
    intro t k bs s up four aligned
    exact .of_eq (exec_sdrPrivateRead_busUp t k bs up) (State.sdrRead_address _ four aligned k)
  case readOn =>
    intro t k s up
    refine .of_eq (exec_sdrPrivateRead_busUp t k [] up) ((if_pos rfl).trans ?_)
    rw [State.at_ack_ptr]
  case ddrRead => exact fun t k s up => .of_eq (exec_ddrRead_busUp t k up) rfl
  case otherWrite =>
    exact fun t c bs s up other => .of_eq (congrArg Host.Outcome.next (State.ddr_other _ (up_at t up) other)) (ignored t s)
  case otherPointer =>
    exact fun t c bs s up other => .of_eq (congrArg Host.Outcome.next (State.ddr_other _ (up_at t up) other)) (ignored t s)
  case otherRead =>
    exact fun t c k s up other => .of_eq (congrArg Host.Outcome.next (State.ddr_other _ (up_at t up) other)) (ignored t s)

end Sys2Proof.Machine
end

section
/-! SUPPORT. The service record through the operations that silence the outputs (R16, R18, R197, R266, R300, R314). -/

namespace Sys2Proof.Machine

/-- A fold keeps what each of its steps keeps. -/
theorem State.foldl_same {α β : Type} (φ : State → β) {f : State → α → State} (same : ∀ s a, φ (f s a) = φ s) (l : List α) (s : State) :
    φ (l.foldl f s) = φ s := by
  induction l generalizing s with
  | nil => rfl
  | cons a l ih => rw [List.foldl_cons, ih, same]

/-- Both branches of a condition keep what is kept. -/
theorem State.ite_same {β : Type} (φ : State → β) {p : Prop} [Decidable p] {a b : State} {x : β} (ha : φ a = x) (hb : φ b = x) :
    φ (if p then a else b) = x := iteInduction (motive := fun u => φ u = x) (fun _ => ha) (fun _ => hb)

/-! ### What the outputs' operations keep

A part of the state lies off the outputs when no register from 0x100000 on and no record of a sequencer, a lane, a marker, a Bias output
or a Waggle source bears on it. -/

structure OffOutputs {β : Type} (φ : State → β) : Prop where
  wr : ∀ (s : State) (f : Fld) (v : Nat), 0x100000 * 32 ≤ f.key → φ (s.wr f v) = φ s
  seq : ∀ (s : State) (n : Nat) (x : SeqSt), φ (s.setSeq n x) = φ s
  bias : ∀ (s : State) (o : Nat) (x : BiasSt), φ (s.setBias o x) = φ s
  lane : ∀ (s : State) (g : Nat) (x : LaneSt), φ (s.setLane g x) = φ s
  mkr : ∀ (s : State) (n : Nat) (x : MarkSt), φ (s.setMkr n x) = φ s
  fireS : ∀ (s : State) (n k : Nat), φ (s.fireS n k) = φ s
  fireAt : ∀ (s : State) (time src : Nat), φ (s.fireAt time src) = φ s
  unfireS : ∀ (s : State) (time n k : Nat), φ (s.unfireS time n k) = φ s

theorem svc_offOutputs : OffOutputs State.svc where
  wr _ _ _ _ := rfl
  seq _ _ _ := rfl
  bias _ _ _ := rfl
  lane _ _ _ := rfl
  mkr _ _ _ := rfl
  fireS _ _ _ := rfl
  fireAt _ _ _ := State.ite_same State.svc rfl rfl
  unfireS _ _ _ _ := rfl

/-- A register below the outputs' blocks. -/
theorem rd_offOutputs {f : Fld} (low : f.key < 0x100000 * 32) : OffOutputs (fun s => s.rd f) where
  wr s g v h := State.rd_wr_ne s v (by omega)
  seq _ _ _ := rfl
  bias _ _ _ := rfl
  lane _ _ _ := rfl
  mkr _ _ _ := rfl
  fireS _ _ _ := rfl
  fireAt _ _ _ := State.ite_same (fun s => s.rd f) rfl rfl
  unfireS _ _ _ _ := rfl

section
variable {β : Type} {φ : State → β} (off : OffOutputs φ)
include off

theorem OffOutputs.setBit (s : State) {f : Fld} (h : 0x100000 * 32 ≤ f.key) (i : Nat) : φ (s.setBit f i) = φ s := off.wr s f _ h

theorem OffOutputs.clrBit (s : State) {f : Fld} (h : 0x100000 * 32 ≤ f.key) (i : Nat) : φ (s.clrBit f i) = φ s :=
  State.ite_same φ (off.wr s f _ h) rfl

theorem OffOutputs.markShot (s : State) (n : Nat) (k : Option Nat) : φ (s.markShot n k) = φ s := by
  have key : 0x100000 * 32 ≤ (R.seqStatus_shot_invalid n).key := by simp only [R.seqStatus_shot_invalid]; omega
  cases k with
  | none => rfl
  | some k =>
    exact State.ite_same φ ((off.fireS _ n 4).trans (State.ite_same φ ((off.wr _ _ 1 key).trans (off.seq s n _)) (off.seq s n _))) rfl

theorem OffOutputs.noteEnd (s : State) (n : Nat) (k : Option Nat) (t : Nat) : φ (s.noteEnd n k t) = φ s := by
  cases k with
  | none => rfl
  | some k => exact off.seq s n _

theorem OffOutputs.markAllOpen (s : State) : φ s.markAllOpen = φ s := by
  unfold State.markAllOpen
  exact State.foldl_same φ (fun s n => off.markShot s n _) _ s

/-! ### Mute, marker levels and windows -/

theorem OffOutputs.muteState (s : State) (k : Nat) : φ (s.muteState k) = φ s :=
  State.ite_same φ (off.clrBit s (by simp only [R.frontMuted_muted]; omega) _) (off.setBit s (by simp only [R.frontMuted_muted]; omega) _)

theorem OffOutputs.mute (s : State) (k cause : Nat) : φ (s.mute k cause) = φ s :=
  (off.muteState _ k).trans (off.setBit s (by simp only [muteWhy, R.dacMuteWhy_mute_why]; omega) cause)

theorem OffOutputs.unmute (s : State) (k cause : Nat) : φ (s.unmute k cause) = φ s :=
  (off.muteState _ k).trans (off.clrBit s (by simp only [muteWhy, R.dacMuteWhy_mute_why]; omega) cause)

theorem OffOutputs.muteAll (s : State) (cause : Nat) : φ (s.muteAll cause) = φ s := by
  unfold State.muteAll
  exact State.foldl_same φ (fun s k => off.mute s k cause) _ s

theorem OffOutputs.unmuteAll (s : State) (cause : Nat) : φ (s.unmuteAll cause) = φ s := by
  unfold State.unmuteAll
  exact State.foldl_same φ (fun s k => off.unmute s k cause) _ s

theorem OffOutputs.markLow (s : State) (cause n : Nat) : φ (s.markLow cause n) = φ s :=
  (off.wr _ (R.markStatus_level_now n) _ (by simp only [R.markStatus_level_now]; omega)).trans (off.mkr s n _)

theorem OffOutputs.markLowAll (s : State) (cause : Nat) : φ (s.markLowAll cause) = φ s := by
  unfold State.markLowAll
  exact State.foldl_same φ (fun s n => off.markLow s cause n) _ s

theorem OffOutputs.cutComb (s : State) (n m upto : Nat) (pick : Issue → Bool) : φ (s.cutComb n m upto pick) = φ s := by
  unfold State.cutComb
  exact State.foldl_same φ (fun s c => off.lane s (8 * n + c) _) _ s

theorem OffOutputs.cutOpen (s : State) : φ s.cutOpen = φ s := by
  unfold State.cutOpen
  exact State.foldl_same φ (fun s n => off.cutComb s n _ _ _) _ s

theorem OffOutputs.markOverlap (s : State) : φ s.markOverlap = φ s := by
  unfold State.markOverlap
  exact State.foldl_same φ (fun _ n => State.foldl_same φ (fun s x => State.ite_same φ (off.markShot s n _) rfl) _ _) _ s

/-! ### Bias outputs at zero scale -/

theorem OffOutputs.fluxRead (s : State) (o : Nat) : φ (s.fluxRead o) = φ s := by
  unfold State.fluxRead
  split
  · rfl
  · have counted := fun v => off.wr s (R.seqEcc2_cache_fix (o / 4)) v (by simp only [R.seqEcc2_cache_fix]; omega)
    have read := fun v x => (off.bias _ o x).trans (counted v)
    refine State.ite_same φ rfl (State.ite_same φ ((off.markShot _ _ _).trans ((off.wr _ _ 1 ?_).trans (read _ _))) (read _ _))
    simp only [R.biasStatus_flux_ecc]
    omega

theorem OffOutputs.fluxOut (s : State) (o t : Nat) : φ (s.fluxOut o t) = φ s := by
  unfold State.fluxOut
  dsimp only
  split
  · rfl
  · refine State.ite_same φ rfl (State.ite_same φ ((off.wr _ (R.biasStatus_flux_sat (o / 4)) 1 ?_).trans (off.bias s o _)) (off.bias s o _))
    simp only [R.biasStatus_flux_sat]
    omega

theorem OffOutputs.setCode (s : State) (o v : Nat) : φ (s.setCode o v) = φ s :=
  off.wr s (R.biasAct_code_act (o / 4) (o % 4)) v (by simp only [R.biasAct_code_act]; omega)

theorem OffOutputs.endFlux (s : State) (o : Nat) : φ (s.endFlux o) = φ s := by
  unfold State.endFlux
  dsimp only
  split
  · rfl
  · exact (off.noteEnd _ _ _ _).trans ((off.bias _ o _).trans (State.ite_same φ (off.setCode s o _) rfl))

theorem OffOutputs.fluxTo (s : State) (o t : Nat) : φ (s.fluxTo o t) = φ s := by
  have played : φ ((s.fluxRead o).fluxOut o t) = φ s := (off.fluxOut _ o t).trans (off.fluxRead s o)
  unfold State.fluxTo
  dsimp only
  split
  · exact played
  · exact State.ite_same φ ((off.endFlux _ o).trans played) played

theorem OffOutputs.setStages (s : State) (o : Nat) (l : List Staging) : φ (s.setStages o l) = φ s := by
  have status : 0x100000 * 32 ≤ (R.biasStatus_staged (o / 4)).key := by simp only [R.biasStatus_staged]; omega
  unfold State.setStages State.showStage
  split
  · refine (off.wr _ (R.biasStage_stage_code (o / 4) (o % 4)) _ ?_).trans ((off.setBit _ status _).trans (off.bias s o _))
    simp only [R.biasStage_stage_code]
    omega
  · exact (off.clrBit _ status _).trans (off.bias s o _)

theorem OffOutputs.unload (s : State) (o beat : Nat) : φ (s.unload o beat) = φ s := by
  unfold State.unload
  split
  · rfl
  · exact State.ite_same φ ((off.bias _ o _).trans ((off.setStages _ o _).trans (off.setCode s o _))) rfl

theorem OffOutputs.fluxStopped (s : State) (o : Nat) (hold : Bool) : φ (s.fluxStopped o hold) = φ s := by
  unfold State.fluxStopped
  split
  · rfl
  · refine (off.markShot _ _ _).trans (State.ite_same φ (off.wr s (R.biasStatus_hold_drop (o / 4)) 1 ?_) rfl)
    simp only [R.biasStatus_hold_drop]
    omega

theorem OffOutputs.zeroOut (s : State) (cause : Nat) (keep : Bool) (o : Nat) : φ (s.zeroOut cause keep o) = φ s := by
  have stopped : φ (((s.fluxTo o s.dial).unload o s.dial).fluxStopped o false) = φ s :=
    (off.fluxStopped _ o false).trans ((off.unload _ o _).trans (off.fluxTo s o _))
  have zeroed := fun x => (off.bias (((s.fluxTo o s.dial).unload o s.dial).fluxStopped o false) o x).trans stopped
  exact State.ite_same φ (zeroed _) ((off.setStages _ o _).trans ((off.setCode _ o 0).trans (zeroed _)))

theorem OffOutputs.zeroAll (s : State) (cause : Nat) (keep : Bool) : φ (s.zeroAll cause keep) = φ s := by
  unfold State.zeroAll
  exact State.foldl_same φ (fun s o => off.zeroOut s cause keep o) _ s

/-! ### Aborts at a safe step -/

theorem OffOutputs.fireSAt (s : State) (time n k : Nat) : φ (s.fireSAt time n k) = φ s := (off.fireAt _ _ _).trans (off.fireAt s _ _)

theorem OffOutputs.tellShot (s : State) (n : Nat) (x : Shot) : φ (s.tellShot n x) = φ s := by
  unfold State.tellShot
  dsimp only
  split
  · split
    · rfl
    · exact (off.fireSAt _ _ _ _).trans (off.seq s n _)
  · have untold := fun x a => (off.seq _ n x).trans (off.unfireS s a n 1)
    refine State.ite_same φ rfl ?_
    split
    · exact untold _ _
    · exact (off.fireSAt _ _ _ _).trans (untold _ _)

theorem OffOutputs.tellShots (s : State) (n : Nat) : φ (s.tellShots n) = φ s := by
  unfold State.tellShots
  exact State.foldl_same φ (fun s x => off.tellShot s n x) _ s

theorem OffOutputs.closeShot (s : State) (n : Nat) : φ (s.closeShot n) = φ s := by
  have key : 0x100000 * 32 ≤ (R.seqStatus_in_shot n).key := by simp only [R.seqStatus_in_shot]; omega
  unfold State.closeShot
  refine State.ite_same φ ?_ rfl
  split
  · exact off.wr s _ 0 key
  · exact (off.tellShots _ n).trans ((off.wr _ _ 0 key).trans (off.seq s n _))

theorem OffOutputs.takeAbortInt (s : State) (n why : Nat) : φ (s.takeAbortInt n why) = φ s := by
  have run : 0x100000 * 32 ≤ (R.seqStatus_run n).key := by simp only [R.seqStatus_run]; omega
  have halt : 0x100000 * 32 ≤ (R.seqStatus_halt_why n).key := by simp only [R.seqStatus_halt_why]; omega
  unfold State.takeAbortInt
  exact (off.fireS _ n 2).trans ((off.wr _ _ _ halt).trans ((off.wr _ _ _ run).trans ((off.seq _ n _).trans (off.closeShot s n))))

theorem OffOutputs.enterHandler (s : State) (n i : Nat) : φ (s.enterHandler n i) = φ s := by
  have pend : 0x100000 * 32 ≤ (R.seqStatus_ipend n).key := by simp only [R.seqStatus_ipend]; omega
  have run : 0x100000 * 32 ≤ (R.seqStatus_run n).key := by simp only [R.seqStatus_run]; omega
  have pc : 0x100000 * 32 ≤ (R.seqPc_pc n).key := by simp only [R.seqPc_pc]; omega
  unfold State.enterHandler
  exact (off.wr _ _ _ pc).trans ((off.wr _ _ _ run).trans ((off.seq _ n _).trans (off.clrBit s pend i)))

theorem OffOutputs.takeSafe {s u : State} {n : Nat} (h : s.takeSafe n = some u) : φ u = φ s := by
  unfold State.takeSafe at h
  split at h
  · cases h
    exact off.takeAbortInt s n _
  · obtain ⟨i, -, rfl⟩ := Option.map_eq_some_iff.mp h
    exact off.enterHandler s n i

theorem OffOutputs.interruptWait (s : State) (n : Nat) : φ (s.interruptWait n) = φ s := by
  refine State.ite_same φ ?_ rfl
  cases safe : s.takeSafe n with
  | none => rfl
  | some u => exact off.takeSafe safe

theorem OffOutputs.raiseAbort (s : State) (n why : Nat) : φ (s.raiseAbort n why) = φ s :=
  State.ite_same φ rfl ((off.interruptWait _ n).trans (off.seq s n _))

theorem OffOutputs.raiseAborts (s : State) (l : List Nat) (why : Nat) : φ (l.foldl (fun s n => s.raiseAbort n why) s) = φ s :=
  State.foldl_same φ (fun s n => off.raiseAbort s n why) l s

end

/-! ### What the end of captures keeps -/

/-- A part of the state off the outputs on which no capture record and no reservation bears. -/
structure OffCapture {β : Type} (φ : State → β) : Prop extends OffOutputs φ where
  cap : ∀ (s : State) (p : Nat) (x : CapSt), φ (s.setCap p x) = φ s
  charges : ∀ (s : State) (l : List (Nat × Nat)), φ (s.setCharges l) = φ s

section
variable {β : Type} {φ : State → β} (off : OffCapture φ)
include off

theorem OffCapture.setCapState (s : State) (p v : Nat) : φ (s.setCapState p v) = φ s := by
  have state : φ (s.wr (R.capPstat_state p) v) = φ s := off.wr s _ v (by simp only [R.capPstat_state]; omega)
  have key : 0x100000 * 32 ≤ (if p < 32 then R.capArmedLo_armed_lo else R.capArmedHi_armed_hi).key := by split <;> decide
  exact State.ite_same φ ((off.toOffOutputs.clrBit _ key _).trans state) ((off.toOffOutputs.setBit _ key _).trans state)

theorem OffCapture.capIdle (s : State) (p why : Nat) : φ (s.capIdle p why) = φ s :=
  (off.charges _ _).trans ((off.wr _ _ why (by simp only [R.capPstat_stop_why]; omega)).trans (off.setCapState s p _))

theorem OffCapture.capEnd (s : State) (p : Nat) (r : CapRec) (why : Option Nat) : φ (s.capEnd p r why) = φ s := by
  unfold State.capEnd
  dsimp only
  split
  · refine State.ite_same φ ?_ ((off.capIdle _ _ _).trans (off.cap _ _ _))
    exact (off.wr _ _ 4 (by simp only [R.capPstat_stop_why]; omega)).trans ((off.setCapState _ _ _).trans (off.cap _ _ _))
  · exact (off.capIdle _ _ _).trans (off.cap _ _ _)
  · exact State.ite_same φ ((off.setCapState _ _ _).trans (off.cap _ _ _)) ((off.capIdle _ _ _).trans (off.cap _ _ _))

theorem OffCapture.capSettle (s : State) (p x : Nat) : φ (s.capSettle p x) = φ s := by
  unfold State.capSettle
  split
  · exact State.ite_same φ (off.capEnd _ _ _ _) rfl
  · rfl

theorem OffCapture.capStopOne (s : State) (p why : Nat) : φ (s.capStopOne p why) = φ s := by
  have settled := off.capSettle s p (s.dial + 1)
  unfold State.capStopOne
  refine State.ite_same φ settled ?_
  split
  · exact (off.capIdle _ _ _).trans settled
  · exact (off.capEnd _ _ _ _).trans settled

theorem OffCapture.capService (s : State) : φ s.capService = φ s := by
  unfold State.capService
  exact State.foldl_same φ (fun s p => off.capStopOne s p 3) _ s

theorem OffCapture.stopGreen (s : State) : φ s.stopGreen = φ s := by
  have outputs := off.toOffOutputs
  have stops : s.stopGreen = ((List.range 64).foldl (fun s n => s.raiseAbort n 3)
    (((s.markAllOpen.cutOpen.muteAll 2).zeroAll 1 false).markLowAll 1)).capService := rfl
  rw [stops, off.capService, outputs.raiseAborts, outputs.markLowAll, outputs.zeroAll, outputs.muteAll, outputs.cutOpen, outputs.markAllOpen]

end

theorem svc_offCapture : OffCapture State.svc where
  toOffOutputs := svc_offOutputs
  cap _ _ _ := rfl
  charges _ _ := rfl

/-- Silencing the outputs as Green is left keeps the service record. -/
theorem State.stopGreen_svc (s : State) : s.stopGreen.svc = s.svc := svc_offCapture.stopGreen s

end Sys2Proof.Machine
end

section
/-! SUPPORT. Boot, Green and its loss (R16 to R20, R455, R489). -/

namespace Sys2Proof.Machine

/-! ### Boot -/

theorem exec_nresetHigh_dark {t b mv : Nat} {s : State} (dark : s.svc.svc = .dark) (low : 1746 ≤ mv) (high : mv ≤ 1854) :
    exec (.nresetHigh t b mv) s = .next (s.boot t (b % 4)) := by
  have asleep : s.awake = false := by simp [State.awake, dark]
  change execNresetHigh t b mv s = _
  rw [execNresetHigh, State.at_dark s t dark]
  exact if_pos ⟨asleep, low, high⟩

theorem State.flashBytes_congr {u v : State} (h : u.flash = v.flash) (k : Nat) : ∀ a, u.flashBytes a k = v.flashBytes a k := by
  induction k with
  | zero => exact fun _ => rfl
  | succ k ih =>
    intro a
    rw [State.flashBytes, State.flashBytes, ih, State.flashByte, State.flashByte, h]

/-- The counter that a boot finds is the flash's. -/
theorem State.ctrBoot_congr {u v : State} (h : u.flash = v.flash) : u.ctrBoot = v.ctrBoot := by
  have valid : u.ctrValid = v.ctrValid := funext fun k => by
    rw [State.ctrValid, State.ctrValid, State.flashNat_congr h, State.flashNat_congr h, State.flashBytes_congr h]
  have blank : u.ctrBlank = v.ctrBlank := funext fun k => by rw [State.ctrBlank, State.ctrBlank, State.flashBytes_congr h]
  have number : (fun k => (u.flashNat (ctrAddr k) 8, k)) = fun k => (v.flashNat (ctrAddr k) 8, k) := funext fun k => by
    rw [State.flashNat_congr h]
  have newest : u.ctrNewest = v.ctrNewest := by rw [State.ctrNewest, State.ctrNewest, State.ctrUsed, State.ctrUsed, valid, number, h]
  rw [State.ctrBoot, State.ctrBoot, newest, blank]

/-- A boot without power-up marks: the Dial at 0, BOOT_SEL shown and REF_CLK taken as present. -/
def State.bootBegin (s : State) (sel : Nat) : State := ({ s with dial := 0 }.wr R.secBoot_boot_sel sel).wr R.timeStatus_ref_ok 1

theorem State.bootBegin_flash (s : State) (sel : Nat) : (s.bootBegin sel).flash = s.flash := rfl

/-- BOOT_SEL = 2 is Recovery. -/
theorem State.boot_recovery (s : State) (t : Nat) : s.boot t 2 =
    (((((s.bootBegin 2).showFuses).setLast s.ctrBoot).loadKey.wr R.secBoot_recovery 1).calLoad).enterAmber t true := by
  rw [← State.ctrBoot_congr (s.bootBegin_flash 2)]
  unfold State.boot State.bootBegin
  simp only [if_true]

/-- Settles O8: the two forms of the boot are the branches of `State.boot`, and in Dark no time has passed. -/
theorem nresetHighBoots : Obligations.NresetHighBoots := by
  refine ⟨?recovery, ?slots, ?otherwise⟩
  case recovery =>
    intro t b mv s dark low high sel
    refine .of_eq (exec_nresetHigh_dark dark low high) ?_
    rw [sel, State.boot_recovery, State.bootBegin]
  case slots =>
    intro t b mv s dark low high _
    exact .of_eq (exec_nresetHigh_dark dark low high) rfl
  case otherwise =>
    intro t b mv s unfit
    refine .of_eq (if_neg ?_) rfl
    rintro ⟨asleep, low, high⟩
    rcases unfit with awake | below | above
    · exact absurd (State.at_awake_of_ne t awake) (by simp [asleep])
    · omega
    · omega

/-! ### From Amber to Green -/

theorem State.toGreen_seen {s : State} (seen : s.svc.greenSeen = true) : s.toGreen.svc.svc = .green ∧ s.toGreen.svc.greenSeen = true := by
  unfold State.toGreen
  simp only [seen, Bool.true_eq_false, if_false]
  refine ⟨?_, rfl⟩
  calc (((s.toSvc .green).unmuteAll 1).setSvc { ((s.toSvc .green).unmuteAll 1).svc with greenSeen := true }).svc.svc
      = ((s.toSvc .green).unmuteAll 1).svc.svc := rfl
    _ = (s.toSvc .green).svc.svc := by rw [svc_offOutputs.unmuteAll]
    _ = .green := rfl

theorem contains_false {c : Nat} {l : List Nat} (h : c ∉ l) : l.contains c = false := by simpa using h

theorem exec_hbmTrainingDone_up (t : Nat) {s : State} (up : s.svc.svc = .amber ∨ s.svc.svc = .green) (untrained : s.svc.hbmTrained = false)
    (here : 5 ∉ s.svc.causes) : exec (.hbmTrainingDone t) s =
      .next ((List.range 4).foldl (fun v k => v.showSpares k)
        ((s.at t).setSvc { s.svc with hbmTrained := true }).bootRecord).bootSections.bootCheck := by
  change execHbmTrainingDone t s = _
  simp only [execHbmTrainingDone, State.at_awake_of_ne t (ne_dark_of_up up), State.at_isSleep, isSleep_of_up up, State.at_svc, untrained,
    contains_false here, and_self, if_true]

/-- With no results and outside the boot pass the converters' calibration is only noted. -/
theorem exec_converterCalDone_amber (t : Nat) {s : State} (amber : s.svc.svc = .amber) (uncalibrated : s.svc.convCal = false)
    (locked : s.rd R.timeStatus_pll_lock = 1) (image : s.rd R.secBoot_recovery = 0 ∧ s.rd R.secBoot_no_image = 0)
    (clocks : 2 ∉ s.svc.causes ∧ 3 ∉ s.svc.causes) (idle : s.cal.boot = false) :
    exec (.converterCalDone t []) s = .next ((s.at t).setSvc { s.svc with convCal := true }).bootCheck := by
  have up : s.isSleep = false := by simp [State.isSleep, amber]
  change execConverterCalDone t [] s = _
  simp only [execConverterCalDone, State.at_awake_of_ne t (ne_dark_of_up (.inl amber)), State.at_isSleep, up, State.at_svc, uncalibrated,
    State.at_rd, locked, image, contains_false clocks.1, contains_false clocks.2, and_self, if_true, List.map_nil, List.eraseDups_nil,
    List.filter_nil, List.foldl_nil, State.at_cal, idle, Bool.false_eq_true, if_false]

/-- Settles O9: every condition of the four commands is one of the hypotheses. -/
theorem clocksAndTrainingComplete : Obligations.ClocksAndTrainingComplete := by
  refine ⟨?lock, ?trained, ?calibrated, ?green⟩
  case lock =>
    intro t s amber unlocked
    exact .of_eq (if_pos (by simp [State.mayLock, State.isAmber, amber, unlocked])) rfl
  case trained => exact fun t s up untrained here => .of_eq (exec_hbmTrainingDone_up t up untrained here) rfl
  case calibrated =>
    exact fun t s amber uncalibrated locked image booted noLock noRef idle =>
      .of_eq (exec_converterCalDone_amber t amber uncalibrated locked ⟨image, booted⟩ ⟨noLock, noRef⟩ idle) rfl
  case green =>
    intro t s amber entry fit hold seen
    refine .of_eq (if_pos ⟨?_, ?_, ?_, ?_⟩) ⟨rfl, State.toGreen_seen (by rwa [State.at_svc])⟩
    · rw [State.at_isAmber, State.isAmber, amber]
      rfl
    · rw [State.at_svc, entry]
    · rw [State.at_fit, fit]
    · rw [State.at_rd, hold]

end Sys2Proof.Machine
end

section
/-! SUPPORT. Leaving Green, its causes and the pins (R16 to R20, R70, R266, R500, R501). -/

namespace Sys2Proof.Machine

/-! ### The service state and its registers -/

theorem State.account_frame (s : State) {f : Fld} (hb : f.key ≠ R.lifeAvBase_av_base.key) (ho : f.key ≠ R.lifeAvOut_av_out.key) :
    s.account.rd f = s.rd f := by
  rw [State.account, State.rd_wr_ne _ _ ho, State.rd_wr_ne _ _ hb]
  rfl

theorem State.fireD_rd (s : State) (d : Nat) (f : Fld) : (s.fireD d).rd f = s.rd f := rfl

theorem State.toSvc_state (s : State) (v : Svc) : (s.toSvc v).rd R.hiveState_state = svcCode v % 2 ^ 2 := by
  rw [State.toSvc, State.fireD_rd, State.rd_wr]
  rfl

theorem State.toSvc_cause (s : State) (v : Svc) : (s.toSvc v).rd R.hiveState_cause = s.rd R.hiveState_cause := by
  rw [State.toSvc, State.fireD_rd, State.rd_wr_ne _ _ (by decide), State.setSvc_rd, State.account_frame _ (by decide) (by decide)]

theorem State.bootCheck_svc (s : State) : s.bootCheck.svc = s.svc := State.ite_same State.svc rfl rfl

theorem State.bootCheck_frame (s : State) {f : Fld} (hb : f.key ≠ R.lifeAvBase_av_base.key) (ho : f.key ≠ R.lifeAvOut_av_out.key) :
    s.bootCheck.rd f = s.rd f :=
  State.ite_same (fun u => u.rd f) ((State.setLife_rd _ _ _).trans (s.account_frame hb ho)) rfl

/-! ### A cause of leaving Green -/

/-- The cause stands among those that hold. -/
def State.addCause (s : State) (c : Nat) : State :=
  if s.svc.causes.contains c then s else s.setSvc { s.svc with causes := s.svc.causes ++ [c] }

theorem State.addCause_svc_svc (s : State) (c : Nat) : (s.addCause c).svc.svc = s.svc.svc := State.ite_same (fun u => u.svc.svc) rfl rfl

theorem State.mem_addCause (s : State) (c : Nat) : c ∈ (s.addCause c).svc.causes := by
  unfold State.addCause
  split
  case isTrue here => exact List.contains_iff_mem.mp here
  case isFalse => exact List.mem_append_right _ (List.mem_singleton_self c)

/-- A cause is noted in the list of causes, and beside it in a register or a record that no cause changes. -/
theorem State.noteCause_cases {P : State → Prop} (s : State) (c : Nat) (reg : ∀ f v, P ((s.addCause c).wr f v))
    (hbm : P ((s.addCause c).setSvc { (s.addCause c).svc with hbmTrained := false }))
    (conv : P ((s.addCause c).setSvc { (s.addCause c).svc with convCal := false })) : P (s.noteCause c) :=
  iteInduction (fun _ => reg _ _) fun _ => iteInduction (fun _ => reg _ _) fun _ => iteInduction (fun _ => hbm) fun _ => conv

theorem State.noteCause_svc_svc (s : State) (c : Nat) : (s.noteCause c).svc.svc = s.svc.svc :=
  State.noteCause_cases (P := fun u => u.svc.svc = s.svc.svc) s c (fun _ _ => s.addCause_svc_svc c) (s.addCause_svc_svc c)
    (s.addCause_svc_svc c)

theorem State.mem_noteCause (s : State) (c : Nat) : c ∈ (s.noteCause c).svc.causes :=
  State.noteCause_cases (P := fun u => c ∈ u.svc.causes) s c (fun _ _ => s.mem_addCause c) (s.mem_addCause c) (s.mem_addCause c)

/-- Amber after Green or Sleep, with the outputs silent and the cause shown. -/
def State.toAmber (s : State) (c : Nat) : State := ((s.wr R.hiveState_cause c).lifeAdd 4 4 1).toSvc .amber

/-- A Sleep that ends frees its markers. -/
def State.freeAsleep (s : State) : State := if s.isSleep then s.markFreeAll 2 else s

theorem State.freeAsleep_awake {s : State} (awake : s.isSleep = false) : s.freeAsleep = s := if_neg (by simp [awake])

theorem State.leaveGreen_eq (s : State) (c : Nat) : s.leaveGreen c = s.stopGreen.freeAsleep.toAmber c := rfl

theorem State.lifeAdd_rd (s : State) (page i k : Nat) (f : Fld) : (s.lifeAdd page i k).rd f = s.rd f := rfl

theorem State.toAmber_svc (s : State) (c : Nat) : (s.toAmber c).svc = { s.svc with svc := .amber } := rfl

theorem State.toAmber_state (s : State) (c : Nat) : (s.toAmber c).rd R.hiveState_state = 1 := State.toSvc_state _ _

theorem State.toAmber_cause (s : State) {c : Nat} (h : c ≤ 5) : (s.toAmber c).rd R.hiveState_cause = c := by
  rw [State.toAmber, State.toSvc_cause, State.lifeAdd_rd, State.rd_wr]
  exact Nat.mod_eq_of_lt (show c < 2 ^ 4 by omega)

theorem State.leaveGreen_amber (s : State) (c : Nat) : (s.leaveGreen c).svc.svc = .amber := by
  rw [State.leaveGreen_eq, State.toAmber_svc]

theorem State.leaveGreen_state (s : State) (c : Nat) : (s.leaveGreen c).rd R.hiveState_state = 1 := by
  rw [State.leaveGreen_eq, State.toAmber_state]

theorem State.leaveGreen_cause (s : State) {c : Nat} (h : c ≤ 5) : (s.leaveGreen c).rd R.hiveState_cause = c := by
  rw [State.leaveGreen_eq, State.toAmber_cause _ h]

theorem State.leaveGreen_causes {s : State} (green : s.svc.svc = .green) (c : Nat) : (s.leaveGreen c).svc.causes = s.svc.causes := by
  have awake : s.stopGreen.isSleep = false := by
    rw [State.isSleep, State.stopGreen_svc, green]
    rfl
  rw [State.leaveGreen_eq, State.freeAsleep_awake awake, State.toAmber_svc, State.stopGreen_svc]

theorem State.greenLoss_leaves {s : State} {c : Nat} (h : s.svc.svc = .green ∨ (s.svc.svc = .sleep ∧ c = 1)) :
    s.greenLoss c = (s.noteCause c).leaveGreen c := by
  unfold State.greenLoss
  refine if_pos ?_
  simpa only [State.isGreen, State.isSleep, State.noteCause_svc_svc, decide_eq_true_eq] using h

theorem State.greenLoss_stays {s : State} {c : Nat} (h : ¬ (s.svc.svc = .green ∨ (s.svc.svc = .sleep ∧ c = 1))) :
    s.greenLoss c = (s.noteCause c).fireD 84 := by
  unfold State.greenLoss
  refine if_neg ?_
  simpa only [State.isGreen, State.isSleep, State.noteCause_svc_svc, decide_eq_true_eq] using h

theorem State.fireD_svc (s : State) (d : Nat) : (s.fireD d).svc = s.svc := rfl

theorem exec_leaveGreen (t : Nat) {c : Nat} {s : State} (awake : s.svc.svc ≠ .dark) (one : 1 ≤ c) (five : c ≤ 5) (other : c ≠ 2) :
    exec (.leaveGreen t c) s = .next ((s.at t).greenLoss c) := by
  change execLeaveGreen t c s = _
  simp only [execLeaveGreen, State.at_awake_of_ne t awake, one, five, other, and_self, if_true, if_false]

theorem exec_leaveGreen_pll (t : Nat) {s : State} (awake : s.svc.svc ≠ .dark) :
    exec (.leaveGreen t 2) s = .next (((s.at t).wr R.timeStatus_pll_lock 0).greenLoss 2) :=
  if_pos ⟨State.at_awake_of_ne t awake, by decide⟩

/-! ### A cause that no longer holds -/

/-- The cause is off the list. -/
def State.dropCause (s : State) (c : Nat) : State := s.setSvc { s.svc with causes := s.svc.causes.filter (· ≠ c) }

theorem State.not_mem_dropCause (s : State) (c : Nat) : c ∉ (s.dropCause c).svc.causes := by
  simp [State.dropCause, State.setSvc]

theorem exec_greenLossCleared (t : Nat) {c : Nat} {s : State} (awake : s.svc.svc ≠ .dark) (holds : c ∈ s.svc.causes) :
    exec (.greenLossCleared t c) s = .next ((s.at t).clearCause c) :=
  if_pos ⟨State.at_awake_of_ne t awake, by rw [State.at_svc]; exact List.contains_iff_mem.mpr holds⟩

/-- Settles O10: what leaving Green does to the service record goes through `stopGreen_svc`; the cause, the state and the list of causes
are then written in the open. -/
theorem greenIsLostAndCleared : Obligations.GreenIsLostAndCleared := by
  have not_dark {v w : Svc} {s : State} (h : s.svc.svc = v) (hw : v ≠ w) : s.svc.svc ≠ w := h ▸ hw
  have noted_green (t c : Nat) {s : State} (green : s.svc.svc = .green) : ((s.at t).noteCause c).svc.svc = .green := by
    rw [State.noteCause_svc_svc, State.at_svc, green]
  have dropped (t c : Nat) (s : State) : (s.at t).dropCause c = (s.at t).setSvc { s.svc with causes := s.svc.causes.filter (· ≠ c) } := by
    rw [State.dropCause, State.at_svc]
  refine ⟨?green, ?pll, ?amber, ?clocks, ?shut, ?rail, ?hbm, ?sleep, ?asleep, ?none, ?absent⟩
  case green =>
    intro t c s green cause
    have leaves : (s.at t).greenLoss c = ((s.at t).noteCause c).leaveGreen c := State.greenLoss_leaves (.inl (by rw [State.at_svc, green]))
    refine .of_eq (exec_leaveGreen t (not_dark green (by decide)) (by omega) (by omega) (by omega)) ?_
    refine ⟨leaves, ?_⟩
    rw [leaves]
    refine ⟨State.leaveGreen_amber _ c, State.leaveGreen_state _ c, State.leaveGreen_cause _ (by omega), ?_⟩
    rw [State.leaveGreen_causes (noted_green t c green)]
    exact State.mem_noteCause _ c
  case pll =>
    intro t s green
    have at_green : ((s.at t).wr R.timeStatus_pll_lock 0).svc.svc = .green := by rw [State.wr_svc, State.at_svc, green]
    refine .of_eq (exec_leaveGreen_pll t (not_dark green (by decide))) ?_
    rw [State.greenLoss_leaves (.inl at_green)]
    refine ⟨rfl, State.leaveGreen_amber _ 2, State.leaveGreen_state _ 2, State.leaveGreen_cause _ (by decide), ?_⟩
    rw [State.leaveGreen_causes ((State.noteCause_svc_svc _ 2).trans at_green)]
    exact State.mem_noteCause _ 2
  case amber =>
    intro t c s amber one five other
    refine .of_eq (exec_leaveGreen t (not_dark amber (by decide)) one five other) ?_
    rw [State.greenLoss_stays (by simp [State.at_svc, amber])]
    refine ⟨rfl, ?_, State.mem_noteCause _ c⟩
    rw [State.fireD_svc, State.noteCause_svc_svc, State.at_svc, amber]
  case clocks =>
    intro t c s awake holds cause
    refine .of_eq (exec_greenLossCleared t awake holds) ?_
    have clears : (s.at t).clearCause c = ((s.at t).dropCause c).bootCheck := by
      rcases cause with rfl | rfl <;> rfl
    rw [clears]
    refine ⟨by rw [dropped], ?_, ?_⟩
    · rw [State.bootCheck_svc]
      exact State.not_mem_dropCause _ c
    · rw [State.bootCheck_svc]
      change (s.at t).svc.svc = _
      rw [State.at_svc]
  case shut =>
    intro t s awake holds
    refine .of_eq (exec_greenLossCleared t awake holds) ?_
    have clears : (s.at t).clearCause 1 = (((s.at t).dropCause 1).wr R.thmStatus_shut 0).bootCheck := rfl
    rw [clears]
    refine ⟨by rw [dropped], ?_, ?_⟩
    · rw [State.bootCheck_svc]
      exact State.not_mem_dropCause _ 1
    · rw [State.bootCheck_frame _ (by decide) (by decide), State.rd_wr]
      rfl
  case rail =>
    intro t s awake holds
    refine .of_eq (exec_greenLossCleared t awake holds) ?_
    have clears : (s.at t).clearCause 4 = (((s.at t).dropCause 4).wr R.monStatus_rail_bad 0).bootCheck := rfl
    rw [clears]
    refine ⟨by rw [dropped], ?_, ?_⟩
    · rw [State.bootCheck_svc]
      exact State.not_mem_dropCause _ 4
    · rw [State.bootCheck_frame _ (by decide) (by decide), State.rd_wr]
      rfl
  case hbm =>
    intro t s awake holds
    refine .of_eq (exec_greenLossCleared t awake holds) ?_
    have clears : (s.at t).clearCause 5 =
        (((s.at t).dropCause 5).setSvc { ((s.at t).dropCause 5).svc with hbmTrained := true }).bootCheck := rfl
    rw [clears]
    refine ⟨?_, ?_, ?_⟩
    · rw [dropped]
      rfl
    · rw [State.bootCheck_svc]
      exact State.not_mem_dropCause _ 5
    · rw [State.bootCheck_svc]
      rfl
  case sleep =>
    intro t s sleep
    refine .of_eq (exec_leaveGreen t (not_dark sleep (by decide)) (by decide) (by decide) (by decide)) ?_
    rw [State.greenLoss_leaves (.inr ⟨by rw [State.at_svc, sleep], rfl⟩)]
    exact ⟨rfl, State.leaveGreen_amber _ 1, State.leaveGreen_cause _ (by decide)⟩
  case asleep =>
    intro t c s sleep cause
    refine .of_eq (exec_leaveGreen t (not_dark sleep (by decide)) (by omega) (by omega) (by omega)) ?_
    rw [State.greenLoss_stays (by rw [State.at_svc, sleep]; rintro (h | ⟨-, h⟩); · cases h
                                  · omega)]
    refine ⟨rfl, ?_, State.mem_noteCause _ c⟩
    rw [State.fireD_svc, State.noteCause_svc_svc, State.at_svc, sleep]
  case none => exact fun t c s out => .of_eq (if_neg (by omega)) rfl
  case absent =>
    intro t c s absent
    refine .of_eq (if_neg ?_) rfl
    rintro ⟨-, holds⟩
    exact absent (by rw [State.at_svc] at holds; exact List.contains_iff_mem.mp holds)

end Sys2Proof.Machine
end

section
/-! SUPPORT. Pins, Sleep and its ends (R20, R70, R266, R500, R501). -/

namespace Sys2Proof.Machine

theorem State.hiveMuted_muted {s : State} (low : s.svc.muteHigh = false) : s.hiveMuted.rd R.hiveState_muted = 1 := by
  rw [State.hiveMuted, State.rd_wr, if_pos (.inl low)]
  rfl

/-- What a falling MUTE_N finds before its outputs go silent. -/
def State.pinLow (s : State) : State := s.setSvc { s.svc with muteHigh := false, muteAt := s.dial }

theorem State.muteLow_eq (s : State) : s.muteLow = (((s.pinLow.markOverlap.cutOpen).muteAll 3).zeroAll 3 true).hiveMuted := rfl

theorem State.muteLow_muted (s : State) : s.muteLow.rd R.hiveState_muted = 1 := by
  rw [State.muteLow_eq]
  refine State.hiveMuted_muted ?_
  rw [svc_offOutputs.zeroAll, svc_offOutputs.muteAll, svc_offOutputs.cutOpen, svc_offOutputs.markOverlap]
  rfl

theorem exec_muteNLow (t : Nat) {s : State} (high : s.svc.muteHigh = true) :
    exec (.muteNLow t) s = if (s.at t).awake then .next (s.at t).muteLow else .next ((s.at t).setSvc { s.svc with muteHigh := false }) := by
  change execMuteNLow t s = _
  simp only [execMuteNLow, State.at_svc, high, Bool.true_eq_false, if_false]

theorem exec_muteNHigh (t : Nat) {s : State} (low : s.svc.muteHigh = false) :
    exec (.muteNHigh t) s = if (s.at t).awake then .next (s.at t).muteHigh else .next ((s.at t).setSvc { s.svc with muteHigh := true }) := by
  change execMuteNHigh t s = _
  simp only [execMuteNHigh, State.at_svc, low, Bool.false_eq_true, if_false]

/-! ### REF_CLK -/

/-- A loss of REF_CLK is noted. -/
def State.refLost (s : State) : State := (s.wr R.timeStatus_ref_ok 0).setF R.timeStatus_ref_lost

theorem State.refLost_dial_free (s : State) : s.refLost.rd R.timeStatus_dial_free = s.rd R.timeStatus_dial_free := by
  rw [State.refLost, State.setF, State.rd_wr_ne _ _ (by decide), State.rd_wr_ne _ _ (by decide)]

theorem exec_refClkLoss (t a p : Nat) {s : State} (awake : s.svc.svc ≠ .dark) (lost : 200 ≤ a ∨ 25000 < p) :
    exec (.refClkLoss t a p) s =
      .next ((if 200 ≤ a ∧ s.rd R.timeStatus_dial_free = 0 then ((s.at t).refLost.wr R.timeStatus_dial_free 1).abortUnits
        else (s.at t).refLost).greenLoss 3) := by
  have still := ((s.at t).refLost_dial_free).trans (s.at_rd t _)
  rw [State.refLost] at still ⊢
  rw [← still]
  exact if_pos ⟨State.at_awake_of_ne t awake, lost⟩

/-- REF_CLK is back. -/
theorem exec_refClkReturn (t : Nat) {s : State} (awake : s.svc.svc ≠ .dark) (lost : s.rd R.timeStatus_ref_ok = 0) :
    exec (.refClkReturn t) s =
      if ((s.at t).wr R.timeStatus_ref_ok 1).rd R.timeStatus_dial_free = 0 then .next ((s.at t).wr R.timeStatus_ref_ok 1)
      else .next ((((s.at t).wr R.timeStatus_ref_ok 1).wr R.timeStatus_dial_free 0).setChain { s.chain with fast := true }) := by
  refine (if_pos ⟨State.at_awake_of_ne t awake, by rw [State.at_rd, lost]⟩).trans ?_
  rw [← s.at_chain t]
  rfl

/-! ### Sleep -/

theorem exec_sleepEntryComplete (t : Nat) {s : State} (awake : s.svc.svc ≠ .dark) (entry : s.svc.entry = true) :
    exec (.sleepEntryComplete t) s = .next (
      let v := ((s.at t).capService.abortUnits.toSvc .sleep).wr R.timeStatus_pll_lock 0
      v.setSvc { v.svc with entry := false, asleepAt := v.dial, fine := false, wakeAt := v.svc.wakeAt.map fun _ => v.dial }) :=
  if_pos ⟨by rw [State.at_svc, entry], State.at_awake_of_ne t awake⟩

/-- The state that Sleep entry reaches. -/
theorem State.asleep_reads (s : State) (x : Option Nat) (d : Nat) :
    let v := ((s.toSvc .sleep).wr R.timeStatus_pll_lock 0)
    let u := v.setSvc { v.svc with entry := false, asleepAt := d, fine := false, wakeAt := x }
    u.svc.svc = .sleep ∧ u.svc.entry = false ∧ u.rd R.timeStatus_pll_lock = 0 :=
  ⟨rfl, rfl, State.rd_wr (s.toSvc .sleep) R.timeStatus_pll_lock 0⟩

theorem State.wake_sleep {s : State} (sleep : s.svc.svc = .sleep) (still : s.svc.wakeAt = none) :
    s.wake = s.setSvc { s.svc with wakeAt := some s.dial } :=
  if_pos ⟨.inl (by rw [State.isSleep, sleep]; rfl), still⟩

theorem exec_wakeComplete (t : Nat) {s : State} {w : Nat} (sleep : s.svc.svc = .sleep) (woken : s.svc.wakeAt = some w)
    (ripe : w + 230400000 ≤ (s.at t).dial) : exec (.wakeComplete t) s = .next ((s.at t).endWake w) := by
  have asleep : s.isSleep = true := by rw [State.isSleep, sleep]; rfl
  change execWakeComplete t s = _
  simp only [execWakeComplete, State.at_svc, woken, State.at_isSleep, asleep, ripe, and_self, if_true]

/-- Settles O11: each pin's command is one branch; MUTE_N low reaches `hiveMuted` with the pin's level, which the silencing keeps. -/
theorem pinsAndSleep : Obligations.PinsAndSleep := by
  refine ⟨?low, ?lowDark, ?high, ?drift, ?loss, ?back, ?wake, ?entered, ?woken⟩
  case low =>
    intro t s awake high
    exact .of_pos (exec_muteNLow t high) (State.at_awake_of_ne t awake) ⟨rfl, State.muteLow_muted _⟩
  case lowDark =>
    intro t s dark high
    have asleep : ¬ (s.at t).awake = true := by simp [State.awake, dark]
    exact .of_neg (exec_muteNLow t high) asleep ⟨rfl, State.at_regs s t⟩
  case high =>
    intro t s awake low
    exact .of_pos (exec_muteNHigh t low) (State.at_awake_of_ne t awake) rfl
  case drift =>
    intro t a p s awake lost
    refine .of_eq (exec_refClkLoss t a p awake (by omega)) ?_
    rw [if_neg (by omega), State.refLost]
  case loss =>
    intro t a p s awake long locked
    refine .of_eq (exec_refClkLoss t a p awake (.inl long)) ?_
    rw [if_pos ⟨long, locked⟩, State.refLost]
  case back =>
    intro t s awake lost
    have refOk : (R.timeStatus_ref_ok ∈ [R.timeStatus_ref_ok, R.timeStatus_dial_free]) := List.mem_cons_self
    have same := (s.at_RegsBut t [R.timeStatus_ref_ok, R.timeStatus_dial_free]).wr R.timeStatus_ref_ok 1 refOk
    have run := exec_refClkReturn t awake lost
    by_cases free : ((s.at t).wr R.timeStatus_ref_ok 1).rd R.timeStatus_dial_free = 0
    · refine .of_pos run free ⟨State.rd_wr _ _ _, free, State.at_hbm s t, State.at_flash s t, same⟩
    · refine .of_neg run free ⟨?_, ?_, State.at_hbm s t, State.at_flash s t, ?_⟩
      · rw [State.setChain_rd, State.rd_wr_ne _ _ (by decide), State.rd_wr]
        rfl
      · rw [State.setChain_rd, State.rd_wr]
        rfl
      · exact same.wr R.timeStatus_dial_free 0 (by simp)
  case wake =>
    intro t s sleep still
    have waked : (s.at t).wake = (s.at t).setSvc { (s.at t).svc with wakeAt := some (s.at t).dial } :=
      State.wake_sleep (by rw [State.at_svc, sleep]) (by rw [State.at_svc, still])
    refine .of_eq (u := (s.at t).wake) rfl ?_
    rw [waked]
    exact ⟨rfl, State.at_regs s t⟩
  case entered =>
    intro t s awake entry
    exact .of_eq (exec_sleepEntryComplete t awake entry) ⟨rfl, State.asleep_reads _ _ _⟩
  case woken =>
    intro t w s sleep woken ripe
    exact .of_eq (exec_wakeComplete t sleep woken ripe) rfl

end Sys2Proof.Machine
end

section
/-! SUPPORT. The life log and the calendar (R472, R474, R476, R477, R481). -/

namespace Sys2Proof.Machine

/-! ### A periodic record -/

theorem State.putFlash_life (s : State) (a : Nat) (l : List Byte) : (s.putFlash a l).life = s.life := by rw [State.putFlash_eq]

/-- A record that is appended keeps the page and the due time of the next. -/
theorem State.lifeAppend_life (s : State) (kind page payload : Nat) :
    (s.lifeAppend kind page payload).life.page = s.life.page ∧ (s.lifeAppend kind page payload).life.dueAt = s.life.dueAt := by
  have erased (u : State) (a : Nat) (p : Prop) [Decidable p] : (if p then u.eraseFlash a 65536 else u).life.page = u.life.page ∧
      (if p then u.eraseFlash a 65536 else u).life.dueAt = u.life.dueAt :=
    iteInduction (motive := fun v : State => v.life.page = u.life.page ∧ v.life.dueAt = u.life.dueAt) (fun _ => ⟨rfl, rfl⟩) fun _ => ⟨rfl, rfl⟩
  unfold State.lifeAppend
  dsimp only [State.wr, State.setLife]
  rw [State.putFlash_life]
  exact erased s.account _ _

/-- The life log writes its record of the page and moves on. -/
def State.lifeNext (s : State) : State :=
  s.setLife { s.life with page := (s.life.page + 1) % 49, dueAt := s.life.dueAt + 600 * ticksPerSec }

def State.lifeRecord (s : State) : State := s.account.lifeAppend 1 s.account.life.page (s.account.lifePage s.account.life.page)

theorem State.lifeRecord_life (s : State) : s.lifeRecord.life.page = s.life.page ∧ s.lifeRecord.life.dueAt = s.life.dueAt :=
  s.account.lifeAppend_life 1 _ _

theorem State.lifeNext_page (s : State) : s.lifeNext.life.page = (s.life.page + 1) % 49 := rfl
theorem State.lifeNext_dueAt (s : State) : s.lifeNext.life.dueAt = s.life.dueAt + 600 * ticksPerSec := rfl

theorem exec_lifePeriodic (t : Nat) {s : State} (awake : s.svc.svc ≠ .dark) (due : s.life.dueAt ≤ (s.at t).dial) :
    exec (.lifePeriodic t) s = .next (s.at t).lifeRecord.lifeNext :=
  if_pos ⟨State.at_awake_of_ne t awake, by rwa [State.at_life]⟩

/-! ### Copying a record -/

/-- A row of fields with keys of their own holds what is written to each. -/
theorem State.foldl_wr_rd {α : Type} (f : α → Fld) (value : State → α → Nat) (stable : ∀ s g v i, value (State.wr s g v) i = value s i)
    {l : List α} (distinct : (l.map fun i => (f i).key).Nodup) (s : State) {i : α} (h : i ∈ l) :
    (l.foldl (fun s i => s.wr (f i) (value s i)) s).rd (f i) = value s i % 2 ^ (f i).width := by
  induction l generalizing s with
  | nil => exact absurd h List.not_mem_nil
  | cons j l ih =>
    obtain ⟨fresh, rest⟩ := List.nodup_cons.mp distinct
    rcases List.mem_cons.mp h with rfl | later
    · rw [List.foldl_cons, State.foldl_wr_rd_ne _ _ _ _ fun k hk e => fresh (List.mem_map.mpr ⟨k, hk, e.symm⟩), State.rd_wr]
    · rw [List.foldl_cons, ih rest _ later, stable]

/-- The 16 words of the record in slot `k`. -/
def State.fillRecord (s : State) (k : Nat) : State :=
  (List.range 16).foldl (fun s w => s.wr (R.lifeRec_rec w) (s.flashNat (lifeAddr k + 4 * w) 4)) s

theorem State.fillRecord_rec (s : State) (k : Nat) (w : Fin 16) :
    (s.fillRecord k).rd (R.lifeRec_rec w) = s.flashNat (lifeAddr k + 4 * w) 4 := by
  have distinct : ((List.range 16).map fun w => (R.lifeRec_rec w).key).Nodup := by decide
  rw [State.fillRecord, State.foldl_wr_rd R.lifeRec_rec _ (fun s g v i => State.flashNat_congr rfl 4 _) distinct s
    (List.mem_range.mpr w.isLt)]
  exact Nat.mod_eq_of_lt (s.flashNat_lt _ 4)

theorem State.fillRecord_flash (s : State) (k : Nat) : (s.fillRecord k).flash = s.flash :=
  State.foldl_wr_eq State.flash (fun _ _ _ => rfl) _ _ _ s

/-- The copy ends. -/
def State.recordReady (s : State) (k : Nat) : State :=
  ((s.setLife { s.life with reading := none }).wr R.lifeCtl_life_ready 1).wr R.lifeCtl_life_ok (if s.lifeValid k then 1 else 0)

theorem State.recordReady_rec (s : State) (k : Nat) (w : Fin 16) : (s.recordReady k).rd (R.lifeRec_rec w) = s.rd (R.lifeRec_rec w) := by
  rw [State.recordReady, State.rd_wr_ne _ _ (by simp only [R.lifeRec_rec, R.lifeCtl_life_ok]; omega),
    State.rd_wr_ne _ _ (by simp only [R.lifeRec_rec, R.lifeCtl_life_ready]; omega), State.setLife_rd]

theorem State.recordReady_ready (s : State) (k : Nat) : (s.recordReady k).rd R.lifeCtl_life_ready = 1 := by
  rw [State.recordReady, State.rd_wr_ne _ _ (by decide), State.rd_wr]
  rfl

theorem State.recordReady_reading (s : State) (k : Nat) : (s.recordReady k).life.reading = none := rfl

theorem State.recordReady_flash (s : State) (k : Nat) : (s.recordReady k).flash = s.flash := rfl

/-- The slot of the record `back` behind the newest. -/
def State.slotBack (s : State) (back : Nat) : Nat := (s.life.slot.getD 0 + 262144 - back) % 262144

theorem exec_lifeRdDone (t : Nat) {k : Nat} {s : State} (reading : s.life.reading = some k) :
    exec (.lifeRdDone t) s = .next (((s.at t).fillRecord (s.slotBack k)).recordReady (s.slotBack k)) := by
  change execLifeRdDone t s = _
  simp only [execLifeRdDone, State.at_life, reading]
  rfl

/-- The registers of a copied record. -/
abbrev recordFields : List Fld := R.lifeCtl_life_ready :: R.lifeCtl_life_ok :: (List.range 16).map R.lifeRec_rec

theorem State.RegsBut.recordReady {u s : State} (h : u.RegsBut s recordFields) (k : Nat) : (u.recordReady k).RegsBut s recordFields :=
  State.RegsBut.wr (State.RegsBut.wr (u := u.setLife { u.life with reading := none }) h R.lifeCtl_life_ready 1 List.mem_cons_self)
    R.lifeCtl_life_ok _ (List.mem_cons_of_mem _ List.mem_cons_self)

theorem State.RegsBut.fillRecord {u s : State} (h : u.RegsBut s recordFields) (k : Nat) : (u.fillRecord k).RegsBut s recordFields :=
  h.foldl_wr _ _ _ fun _ hi => List.mem_cons_of_mem _ (List.mem_cons_of_mem _ (List.mem_map_of_mem hi))

theorem State.lifeRd_near {s : State} (near : s.rd R.lifeCtl_life_back < 262144) :
    s.lifeRd = if s.life.reading.isSome then s.wr R.lifeCtl_result rBUSY
      else ((s.setLife { s.life with reading := some (s.rd R.lifeCtl_life_back) }).wr R.lifeCtl_life_ready 0).wr R.lifeCtl_result rOK :=
  if_neg (Nat.not_le.mpr near)

/-! ### The calendar -/

/-- The calendar's time of day is written last. -/
theorem State.captureCalendar_time (s : State) :
    s.captureCalendar.rd R.cldTime_hour = s.label % 86400 / 3600 ∧ s.captureCalendar.rd R.cldTime_minute = s.label % 3600 / 60 ∧
      s.captureCalendar.rd R.cldTime_second = s.label % 60 := by
  refine ⟨?_, ?_, ?_⟩
  · rw [State.captureCalendar, State.rd_wr_ne _ _ (by decide), State.rd_wr_ne _ _ (by decide), State.rd_wr]
    exact Nat.mod_eq_of_lt (show _ < 2 ^ 5 by omega)
  · rw [State.captureCalendar, State.rd_wr_ne _ _ (by decide), State.rd_wr]
    exact (Nat.mod_eq_of_lt (show _ < 2 ^ 6 by omega)).trans (by omega)
  · rw [State.captureCalendar, State.rd_wr]
    exact (Nat.mod_eq_of_lt (show _ < 2 ^ 6 by omega)).trans (by omega)

/-- Settles O12: a record keeps the page that it is of, a copy fills 16 words with keys of their own, and the calendar's time of day is
what it writes last. -/
theorem lifeLogAndCalendar : Obligations.LifeLogAndCalendar := by
  refine ⟨?periodic, ?busy, ?begins, ?done, ?calendar⟩
  case periodic =>
    intro t s awake due
    obtain ⟨page, dueAt⟩ := (s.at t).lifeRecord_life
    refine .of_eq (exec_lifePeriodic t awake due) ⟨rfl, ?_, ?_⟩
    · rw [State.lifeNext_page, page, State.at_life]
    · rw [State.lifeNext_dueAt, dueAt, State.at_life]
  case busy =>
    intro t s up near reading
    refine .of_hostCmd up rfl ((State.lifeRd_near (by rwa [State.at_rd])).trans (if_pos ?_))
    rw [State.at_life]
    exact Option.isSome_iff_ne_none.mpr reading
  case begins =>
    intro t s up near reading
    refine .of_hostCmd up rfl ((State.lifeRd_near (by rwa [State.at_rd])).trans ((if_neg ?_).trans ?_))
    · simp [reading]
    · rw [State.at_life, State.at_rd]
      rfl
  case done =>
    intro t k s reading
    refine .of_eq (exec_lifeRdDone t reading) ⟨State.recordReady_ready _ _, State.recordReady_reading _ _, ?_, fun w => ?_, ?_⟩
    · rw [State.recordReady_flash, State.fillRecord_flash, State.at_flash]
    · rw [State.recordReady_rec, State.fillRecord_rec, State.at_flashNat, State.slotBack]
    · exact ((s.at_RegsBut t recordFields).fillRecord _).recordReady _
  case calendar => exact fun t s up => .of_hostCmd up rfl ⟨rfl, State.captureCalendar_time _⟩

end Sys2Proof.Machine
end

section
/-! SUPPORT. A LOCK register of a block that sleeps (R27, R42, R56). -/

namespace Sys2Proof.Machine

theorem State.accFault_locks (s : State) (f : Fld) (a : Nat) : (s.accFault f a).locks = s.locks := by
  simp only [State.accFault]
  split <;> rfl

/-- An address of the memory block that holds no word. -/
def bareAddr : Nat := 0x5FFFC

/-- A Hive in Sleep, where the memory block is asleep. -/
def sleeping : State := { State.reset with svc := { SvcSt.init with svc := .sleep } }

/-- In Sleep the memory block answers every access with ACC_ASLEEP. -/
theorem State.reach_bareAddr {s : State} (sleep : s.isSleep = true) : s.reach bareAddr = .asleep := by
  have block : blockOf bareAddr = some (.mem, 0, 0x50000) := by decide
  unfold State.reach
  rw [block]
  exact if_pos ⟨sleep, rfl⟩

/-- A LOCK write that finds its block asleep keeps no value. -/
theorem State.lockWrite_asleep {s : State} (sleep : s.isSleep = true) (data : Nat) :
    (s.lockWrite bareAddr data bareAddr data).locks = s.locks := by
  have refused : s.lockWrite bareAddr data bareAddr data = s.writeAt bareAddr data :=
    if_pos (.inr (.inr (by rw [State.reach_bareAddr sleep]; exact nofun)))
  have fault : s.writeAt bareAddr data = s.accFault R.hostAccStatus_acc_asleep bareAddr := by
    unfold State.writeAt
    rw [if_neg (by decide), if_neg (by decide), show bareAddr % 2 ^ 32 = bareAddr by decide, State.writeTo, State.reach_bareAddr sleep]
  rw [refused, fault, State.accFault_locks]

theorem exec_lockWrite_awake (t a data : Nat) {s : State} (awake : s.svc.svc ≠ .dark) (plain : isAlias a = false) :
    exec (.lockWrite t a data) s = .next ((s.at t).lockWrite a data a data) := by
  change execLockWrite t a data s = _
  simp only [execLockWrite, State.at_awake_of_ne t awake, plain, Bool.true_eq_false, Bool.false_eq_true, if_false]

/-- Refutes O16: its last clause takes a LOCK write to be kept outside Dark, but in Sleep the write to a block that is asleep ends in
ACC_ASLEEP. -/
theorem not_wordAccessesReachTheirWord : ¬ Obligations.WordAccessesReachTheirWord := by
  rintro ⟨-, -, -, -, -, lock⟩
  have awake : sleeping.svc.svc ≠ .dark := by decide
  obtain ⟨u, run, kept, -⟩ := lock 0 bareAddr 0 sleeping awake (by decide) (by decide) (by decide) (by decide) rfl
  rw [exec_lockWrite_awake 0 bareAddr 0 awake (by decide), Host.Outcome.next.injEq] at run
  have none : u.lockOf bareAddr = none := by
    rw [← run, State.lockOf, State.lockWrite_asleep (by rw [State.at_isSleep]; rfl), State.at_locks]
    rfl
  rw [none] at kept
  exact absurd kept nofun

end Sys2Proof.Machine
end

section
/-! SUPPORT. Reads that capture a pair, and the indirect windows (R44 to R47, R72). -/

namespace Sys2Proof.Machine

/-! ### The Dial's low word -/

/-- The word that holds the low 32 bits of the Dial. -/
def dialWord : WordRef := ⟨0x30010, .time, 0, [], .time, [⟨0, 32, .ro, 0, .none, false⟩]⟩

theorem lookupWord_dial : lookupWord 0x30010 = some dialWord := by decide

theorem State.reach_dial (s : State) : s.reach 0x30010 = .word dialWord := by
  have block : blockOf 0x30010 = some (.time, 0, 0x30000) := by decide
  unfold State.reach
  rw [block, lookupWord_dial]
  exact if_neg fun h => absurd h.2 (by decide)

/-- The Dial as a read of its low word captures it. -/
def State.holdDial (s : State) : State := { s with capt := { s.capt with dial := s.dial } }

theorem State.liveWord_dial (s : State) : s.liveWord dialWord = s.capt.dial % 2 ^ 32 := by
  simp [State.liveWord, dialWord, State.liveFld, WordRef.off]

/-- A read of the Dial's low word answers it and holds the whole Dial; it clears nothing. -/
theorem State.readAt_dial (s : State) : s.readAt 0x30010 true 0 = (s.dial % 2 ^ 32, s.holdDial) := by
  have plain : winOf 0x30010 = none := by decide
  have held : s.beforeRead dialWord = s.holdDial := rfl
  have kept : s.holdDial.clearRc dialWord (2 ^ 32 - 1) 0 = s.holdDial := rfl
  unfold State.readAt
  rw [if_neg (by decide), if_neg (by decide), show 0x30010 % 2 ^ 32 = 0x30010 by decide, State.readWord, State.reach_dial, plain]
  simp only [held, if_true, kept, State.liveWord_dial]
  rfl

/-- Settles O17: the Dial's low word is looked up in the table; the other three reads are those of the commands. -/
theorem wordsReadAsPairs : Obligations.WordsReadAsPairs := by
  refine ⟨?dial, ?slot, ?stamp, ?result⟩
  case dial =>
    intro t s up
    refine .of_awake (ne_dark_of_up up) rfl ?_
    rw [State.readAt_dial]
    exact ⟨rfl, rfl, State.at_regs s t⟩
  case slot =>
    intro t a s awake even range
    refine .of_eq (if_pos ⟨State.at_awake_of_ne t awake, ?_⟩) rfl
    simpa [within, even] using range
  case stamp => exact fun t i s awake => .of_awake awake rfl rfl
  case result => exact fun t i s awake => .of_awake awake rfl rfl

/-! ### The indirect windows -/

/-- A prefetch that is done shows its word. -/
def State.fetched (s : State) (k v : Nat) : State :=
  ((s.setWin k { s.win k with fetch := false }).wr (xdataF k) v).wr (xreadyF k) 1

theorem State.fetched_reads (s : State) (k v : Nat) : (s.fetched k v).rd (xreadyF k) = 1 ∧ ((s.fetched k v).win k).fetch = false := by
  refine ⟨?_, ?_⟩
  · rw [State.fetched, State.rd_wr]
    rfl
  · rw [State.fetched, State.wr_win, State.wr_win, State.setWin_win_self]

theorem State.RegsBut.fetched {u s : State} {k : Nat} (h : u.RegsBut s [xreadyF k, xdataF k]) (v : Nat) :
    (u.fetched k v).RegsBut s [xreadyF k, xdataF k] :=
  State.RegsBut.wr (State.RegsBut.wr (u := u.setWin k { u.win k with fetch := false }) h (xdataF k) v (by simp)) (xreadyF k) 1 (by simp)

/-- A prefetch without a posted write before it shows some word. -/
theorem exec_prefetchComplete (t : Nat) {k : Fin 21} {s : State} (up : s.winUp k = true) (fetch : (s.win k).fetch = true)
    (still : (s.win k).posted = []) : ∃ v, exec (.prefetchComplete t k) s = .next ((s.at t).fetched k v) := by
  have can : (s.at t).winUp k ∧ ((s.at t).win k).fetch ∧
      (((s.at t).win k).posted.all fun (p : Nat × Nat) => decide (p.1 ≠ (s.at t).rd (xaddrF k))) := by
    rw [State.at_winUp, State.at_win, still]
    exact ⟨up, fetch, rfl⟩
  exact ⟨_, if_pos can⟩

/-- The oldest posted write of a window is off it. -/
def State.unpost (s : State) (k : Nat) (l : List (Nat × Nat)) : State :=
  (s.setWin k { s.win k with posted := l }).wr (xpendingF k) l.length

theorem State.unpost_reads (s : State) (k : Nat) (l : List (Nat × Nat)) :
    ((s.unpost k l).win k).posted = l ∧ (s.unpost k l).rd (xpendingF k) = l.length % 16 := by
  refine ⟨?_, ?_⟩
  · rw [State.unpost, State.wr_win, State.setWin_win_self]
  · rw [State.unpost, State.rd_wr]
    rfl

theorem State.SameBut.unpost {u s : State} {k : Nat} (h : u.SameBut s [xpendingF k]) (l : List (Nat × Nat)) :
    (u.unpost k l).SameBut s [xpendingF k] :=
  State.SameBut.wr (s := s) (u := u.setWin k { u.win k with posted := l }) h (xpendingF k) _ List.mem_cons_self

theorem State.postedDone_cons {k i d : Nat} {l : List (Nat × Nat)} {s : State} (posted : (s.win k).posted = (i, d) :: l) :
    s.postedDone k = (s.unpost k l).putPosted d (winWord k i) := by
  unfold State.postedDone
  rw [posted, State.unpost]

theorem exec_postedWriteComplete (t : Nat) {k : Fin 21} {s : State} (up : s.winUp k = true) :
    exec (.postedWriteComplete t k) s = .next ((s.at t).postedDone k) := if_pos ((s.at_winUp t k).trans up)

/-- Settles O18: the window's words are written and read as any other, and the ends of its prefetches and posted writes are equations. -/
theorem windowsCarryIndirectAccesses : Obligations.WindowsCarryIndirectAccesses := by
  refine ⟨?addr, ?write, ?read, ?prefetch, ?unmapped, ?mapped⟩
  case addr =>
    intro t x k s awake
    refine .of_awake awake rfl ?_
    rw [State.at_rd]
  case write => exact fun t d k s awake => .of_awake awake rfl rfl
  case read => exact fun t k s awake => .of_awake awake rfl rfl
  case prefetch =>
    intro t k s up fetch still
    obtain ⟨v, run⟩ := exec_prefetchComplete t up fetch still
    obtain ⟨ready, ended⟩ := (s.at t).fetched_reads k v
    exact .of_eq run ⟨ready, ended, State.at_hbm s t, State.at_flash s t, (s.at_RegsBut t _).fetched _⟩
  case unmapped =>
    intro t i d k l s up posted bare
    obtain ⟨rest, left⟩ := (s.at t).unpost_reads k l
    refine .of_eq (exec_postedWriteComplete t up) ?_
    rw [State.postedDone_cons ((congrArg WinSt.posted (s.at_win t k)).trans posted), bare]
    exact ⟨rest, left, (s.at_SameBut t _).unpost l⟩
  case mapped =>
    intro t i d k l w s up posted mapped
    refine .of_eq (exec_postedWriteComplete t up) ?_
    rw [State.postedDone_cons ((congrArg WinSt.posted (s.at_win t k)).trans posted), mapped, State.unpost, State.at_win]
    rfl

end Sys2Proof.Machine
end

section
/-! SUPPORT. The target's address, common command codes and in-band interrupts (R25 to R27, R57 to R60). -/

namespace Sys2Proof.Machine

/-! ### Common command codes -/

theorem State.at_ccc_of {s : State} (t : Nat) (ccc : s.ccc = true) : (s.at t).ccc = true := (s.at_ccc t).trans ccc

/-- A broadcast code acts. -/
theorem Answers.of_ccc {c : Instr} {s u v : State} {t : Nat} {P : State → Prop} (ccc : s.ccc = true)
    (run : exec c s = if (s.at t).ccc then .next u else .next v) (h : P u) : Answers c s P := .of_pos run (State.at_ccc_of t ccc) h

/-- A direct code of a target with a dynamic address is acknowledged and acts. -/
theorem Answers.of_direct {c : Instr} {s : State} {t : Nat} {f : State → State} {P : State → Prop} (ccc : s.ccc = true)
    (valid : s.rd R.hostI3cCtl_dyn_valid = 1) (run : exec c s = .next ((s.at t).directCcc f)) (h : P (f (s.at t).ack)) :
    Answers c s P := by
  refine .of_eq run ?_
  unfold State.directCcc
  rwa [if_neg (by simp [State.at_ccc_of t ccc]), if_pos ((s.at_rd t _).trans valid)]

/-- A direct code of a target without one is not acknowledged. -/
theorem Answers.of_direct_unaddressed {c : Instr} {s : State} {t : Nat} {f : State → State} {P : State → Prop} (ccc : s.ccc = true)
    (invalid : s.rd R.hostI3cCtl_dyn_valid ≠ 1) (run : exec c s = .next ((s.at t).directCcc f)) (h : P (s.at t).nackIt) :
    Answers c s P := by
  refine .of_eq run ?_
  unfold State.directCcc
  rwa [if_neg (by simp [State.at_ccc_of t ccc]), if_neg (by rwa [State.at_rd])]

/-- What an exchange on the bus leaves. -/
def State.SameStore (u s : State) : Prop := u.regs = s.regs ∧ u.hbm = s.hbm ∧ u.flash = s.flash

theorem State.at_sameStore (s : State) (t : Nat) : (s.at t).SameStore s := ⟨State.at_regs s t, State.at_hbm s t, State.at_flash s t⟩

theorem State.SameStore.setI3c {u s : State} (h : u.SameStore s) (x : I3cSt) : (u.setI3c x).SameStore s := h

theorem State.SameStore.ack {u s : State} (h : u.SameStore s) : u.ack.SameStore s := h

theorem State.SameStore.answerBytes {u s : State} (h : u.SameStore s) (bs : List Byte) : (u.answerBytes bs).SameStore s := h

theorem State.SameStore.draw {u s : State} (h : u.SameStore s) : u.draw.2.SameStore s := h

/-! ### The dynamic address -/

theorem State.setDynAddr_reads (s : State) (a : Nat) :
    (s.setDynAddr a).rd R.hostI3cCtl_dyn_valid = 1 ∧ (s.setDynAddr a).rd R.hostI3cCtl_dyn_addr = a % 128 := by
  refine ⟨?_, ?_⟩
  · rw [State.setDynAddr, State.rd_wr_ne _ _ (by decide), State.rd_wr]
    rfl
  · rw [State.setDynAddr, State.rd_wr]
    rfl

theorem State.dropDynAddr_reads (s : State) :
    s.dropDynAddr.rd R.hostI3cCtl_dyn_valid = 0 ∧ s.dropDynAddr.rd R.hostI3cCtl_dyn_addr = 0 := by
  refine ⟨?_, ?_⟩
  · rw [State.dropDynAddr, State.rd_wr_ne _ _ (by decide), State.rd_wr]
    rfl
  · rw [State.dropDynAddr, State.rd_wr]
    rfl

abbrev addressFields : List Fld := [R.hostI3cCtl_dyn_valid, R.hostI3cCtl_dyn_addr]

theorem State.SameBut.setDynAddr {u s : State} (h : u.SameBut s addressFields) (a : Nat) : (u.setDynAddr a).SameBut s addressFields :=
  (h.wr _ 1 List.mem_cons_self).wr _ a (List.mem_cons_of_mem _ List.mem_cons_self)

theorem State.SameBut.dropDynAddr {u s : State} (h : u.SameBut s addressFields) : u.dropDynAddr.SameBut s addressFields :=
  (h.wr _ 0 List.mem_cons_self).wr _ 0 (List.mem_cons_of_mem _ List.mem_cons_self)

theorem State.setDynAddr_i3c (s : State) (a : Nat) : (s.setDynAddr a).i3c = s.i3c := rfl

/-- Settles O19: the address is what two register writes hold. -/
theorem addressesOfTheTarget : Obligations.AddressesOfTheTarget := by
  have free (t : Nat) {s : State} (ccc : s.ccc = true) (invalid : s.rd R.hostI3cCtl_dyn_valid = 0) :
      (s.at t).ccc = true ∧ (s.at t).rd R.hostI3cCtl_dyn_valid = 0 := ⟨State.at_ccc_of t ccc, (s.at_rd t _).trans invalid⟩
  refine ⟨?entdaa, ?setdasa, ?setnewda, ?rstdaa, ?unaddressed⟩
  case entdaa =>
    intro t a s ccc invalid
    obtain ⟨valid, addr⟩ := ((s.at t).answerBytes (msbBytes 6 (s.at t).pid ++ [6#8, 0#8])).setDynAddr_reads a
    refine .of_eq (if_pos (free t ccc invalid)) ⟨valid, addr, ?_, State.SameBut.setDynAddr (s.at_SameBut t _) a⟩
    rw [State.setDynAddr_i3c, State.at_pid]
    rfl
  case setdasa =>
    intro t a s ccc invalid
    obtain ⟨valid, addr⟩ := (s.at t).ack.setDynAddr_reads a
    exact .of_eq (if_pos (free t ccc invalid)) ⟨valid, addr, rfl, State.SameBut.setDynAddr (s.at_SameBut t _) a⟩
  case setnewda =>
    intro t a s ccc valid
    obtain ⟨held, addr⟩ := (s.at t).ack.setDynAddr_reads a
    exact .of_direct ccc valid rfl ⟨held, addr, rfl, State.SameBut.setDynAddr (s.at_SameBut t _) a⟩
  case rstdaa =>
    intro t s ccc
    obtain ⟨dropped, addr⟩ := (s.at t).ack.dropDynAddr_reads
    exact .of_ccc ccc rfl ⟨dropped, addr, State.SameBut.dropDynAddr (s.at_SameBut t _)⟩
  case unaddressed => exact fun t a s ccc invalid => .of_direct_unaddressed ccc invalid rfl ⟨rfl, State.at_regs s t⟩

/-! ### What the codes answer -/

theorem State.at_ack_i3c (s : State) (t : Nat) : (s.at t).ack.i3c = { s.i3c with nack := false } := by
  rw [State.ack, State.at_i3c]
  rfl

theorem State.at_ack_pid (s : State) (t : Nat) : (s.at t).ack.pid = s.pid := s.at_pid t

theorem State.hostReset_i3c (s : State) : s.hostReset.i3c = { I3cSt.init with alert := s.i3c.alert } := rfl

theorem State.hostReset_reads (s : State) : s.hostReset.rd R.hostI3cCtl_dyn_valid = 0 ∧ s.hostReset.rd R.hostI3cCtl_dyn_addr = 0 :=
  s.dropDynAddr_reads

theorem exec_cccRstact (t k : Nat) (b : Bool) {s : State} (ccc : s.ccc = true) : exec (.cccRstact t k b) s =
    if 1 < k then .next (s.at t).nackIt
    else if k = 1 ∧ b then .next (s.at t).hostReset
    else .next ((s.at t).ack.setI3c { (s.at t).ack.i3c with rstAct := k }) :=
  if_neg (by simp [State.at_ccc_of t ccc])

/-- Settles O20: each code is one operation on the bus's record, and none but the host reset touches a register. -/
theorem commonCommandCodesAnswer : Obligations.CommonCommandCodesAnswer := by
  have same (s : State) (t : Nat) := s.at_sameStore t
  refine ⟨?enec, ?disec, ?setmwl, ?setmrl, ?getmwl, ?getmrl, ?getpid, ?getbcr, ?getdcr, ?getstatus, ?getmxds, ?getmxdsByte, ?rstact,
    ?rstactOther, ?rstactHost, ?enthdr, ?enthdrOther, ?exit⟩
  case enec => exact fun t e s ccc odd => .of_ccc ccc rfl (by rw [if_pos odd]; exact ⟨rfl, same s t⟩)
  case disec => exact fun t e s ccc odd => .of_ccc ccc rfl (by rw [if_pos odd]; exact ⟨rfl, rfl, rfl, rfl, rfl, same s t⟩)
  case setmwl => exact fun t n s ccc => .of_ccc ccc rfl ⟨rfl, same s t⟩
  case setmrl => exact fun t n s ccc => .of_ccc ccc rfl ⟨rfl, same s t⟩
  case getmwl =>
    intro t s ccc valid
    refine .of_direct ccc valid rfl ⟨?_, rfl, same s t⟩
    rw [State.at_ack_i3c]
    rfl
  case getmrl =>
    intro t s ccc valid
    refine .of_direct ccc valid rfl ⟨?_, rfl, same s t⟩
    rw [State.at_ack_i3c]
    rfl
  case getpid =>
    intro t s ccc valid
    refine .of_direct ccc valid rfl ⟨?_, rfl, same s t⟩
    rw [State.at_ack_pid]
    rfl
  case getbcr => exact fun t s ccc valid => .of_direct ccc valid rfl ⟨rfl, rfl, same s t⟩
  case getdcr => exact fun t s ccc valid => .of_direct ccc valid rfl ⟨rfl, rfl, same s t⟩
  case getstatus =>
    intro t s ccc valid
    have drawn : (s.at t).ack.free = s.free := State.at_free s t
    refine .of_direct ccc valid rfl ⟨?_, congrArg (· + 1) drawn, same s t⟩
    rw [State.draw, drawn]
    rfl
  case getmxds => exact fun t s ccc valid => .of_direct ccc valid rfl ⟨rfl, rfl, same s t⟩
  case getmxdsByte => exact fun t s ccc valid => .of_direct ccc valid rfl ⟨rfl, same s t⟩
  case rstact =>
    intro t k s ccc small
    refine .of_eq ((exec_cccRstact t k false ccc).trans ((if_neg (Nat.not_lt.mpr small)).trans (if_neg ?_))) ⟨rfl, rfl, same s t⟩
    exact fun h => Bool.false_ne_true h.2
  case rstactOther =>
    exact fun t k b s ccc large => .of_eq ((exec_cccRstact t k b ccc).trans (if_pos large)) ⟨rfl, same s t⟩
  case rstactHost =>
    intro t s ccc
    obtain ⟨dropped, addr⟩ := (s.at t).hostReset_reads
    refine .of_eq (u := (s.at t).hostReset) (exec_cccRstact t 1 true ccc) ⟨dropped, ?_, State.at_hbm s t, State.at_flash s t, addr, ?_⟩
    · rw [State.hostReset_i3c, State.at_i3c]
    · exact (State.SameBut.dropDynAddr (s.at_SameBut t _)).1
  case enthdr => exact fun t s ccc => .of_ccc (t := t) ccc rfl ⟨rfl, same s t⟩
  case enthdrOther => exact fun t m s ccc other => .of_ccc (t := t) ccc rfl ⟨if_neg other, same s t⟩
  case exit => exact fun t s awake => .of_awake awake rfl ⟨rfl, same s t⟩

/-! ### In-band interrupts -/

/-- An attempt goes out with the masked summary. -/
def State.tryIbi (s : State) (v d : Nat) : State := s.setI3c { s.i3c with ibiTry := true, ibiByte := v, ibiFrom := d }

theorem exec_ibiAttempt (t : Nat) {s : State} (awake : s.svc.svc ≠ .dark) (out : s.i3c.ibiOut = true) (enabled : s.i3c.ibiEn = true)
    (idle : s.i3c.ibiTry = false) (waiting : s.i3c.ibiRetry = none) (ripe : s.i3c.ibiFrom ≤ (s.at t).dial)
    (valid : s.rd R.hostI3cCtl_dyn_valid = 1) (masked : s.summary &&& s.rd R.hostEvtMask_ibi_mask ≠ 0) :
    exec (.ibiAttempt t) s = .next ((s.at t).tryIbi (s.summary &&& s.rd R.hostEvtMask_ibi_mask) (s.at t).dial) := by
  change execIbiAttempt t s = _
  rw [State.tryIbi]
  simp only [execIbiAttempt, State.at_awake_of_ne t awake, State.at_i3c, out, enabled, idle, waiting, ripe, State.at_rd, valid,
    State.at_summary, masked, and_self, if_true, if_false]

theorem exec_ibiRetry (t : Nat) {r : Nat} {s : State} (waits : s.i3c.ibiRetry = some r) (ripe : r ≤ (s.at t).dial) :
    exec (.ibiRetry t) s = .next ((s.at t).setI3c { s.i3c with ibiRetry := none, ibiFrom := 0 }) := by
  change execIbiRetry t s = _
  simp only [execIbiRetry, State.at_i3c, waits, ripe, if_true]

/-- Settles O21: each step of an interrupt is one operation on the bus's record. -/
theorem inBandInterrupts : Obligations.InBandInterrupts := by
  refine ⟨?attempt, ?acknowledged, ?nacked, ?retry⟩
  case attempt =>
    intro t s awake out enabled idle waiting ripe valid masked
    exact .of_eq (exec_ibiAttempt t awake out enabled idle waiting ripe valid masked) ⟨rfl, rfl, rfl, s.at_sameStore t⟩
  case acknowledged =>
    intro t s tried
    refine .of_eq (if_pos (by rwa [State.at_i3c])) ⟨rfl, ?_, ?_, s.at_sameStore t⟩
    · exact congrArg I3cSt.ibiMore (State.at_i3c s t)
    · exact congrArg (fun h => (s.at t).dial + h * 25600) (s.at_rd t _)
  case nacked =>
    intro t s tried
    refine .of_eq (if_pos (by rwa [State.at_i3c])) ⟨rfl, ?_, s.at_sameStore t⟩
    exact congrArg (fun x : I3cSt => some (x.ibiFrom + 1280000)) (State.at_i3c s t)
  case retry => exact fun t r s waits ripe => .of_eq (exec_ibiRetry t waits ripe) ⟨rfl, s.at_sameStore t⟩

end Sys2Proof.Machine
end

section
/-! SUPPORT. UPDATE strobes: queued, armed, cancelled and applied (R48 to R54). -/

namespace Sys2Proof.Machine

/-! ### Arming -/

/-- The time that UPDATE_AT asks for. -/
def State.askedAt (s : State) : Nat := expand40 (s.rd R.hiveUpdAtLo_at_time_lo + 2 ^ 32 * s.rd R.hiveUpdAtHi_at_time_hi) s.dial

theorem State.at_askedAt (s : State) (t : Nat) :
    (s.at t).askedAt = expand40 (s.rd R.hiveUpdAtLo_at_time_lo + 2 ^ 32 * s.rd R.hiveUpdAtHi_at_time_hi) (s.at t).dial := by
  rw [State.askedAt, State.at_rd, State.at_rd]

theorem State.updateAtArm_pending {s : State} (pending : s.rd R.hiveUpdAtCtl_pending = 1) :
    s.updateAtArm = s.wr R.hiveUpdAtCtl_result 1 := if_pos pending

theorem State.updateAtArm_late {s : State} (free : s.rd R.hiveUpdAtCtl_pending = 0) (late : s.askedAt ≤ s.dial + 1024) :
    s.updateAtArm = ((s.updateStrobe (s.rd R.hiveUpdAtMask_at_mask)).setF R.hiveUpdAtCtl_upd_late).wr R.hiveUpdAtCtl_result 0 :=
  (if_neg (by rw [free]; decide)).trans (if_pos late)

/-- UPDATE_AT has its answer. -/
def State.answerAt (s : State) (pending : Nat) : State := (s.wr R.hiveUpdAtCtl_pending pending).wr R.hiveUpdAtCtl_result 0

theorem State.updateAtArm_ahead {s : State} (free : s.rd R.hiveUpdAtCtl_pending = 0) (ahead : s.dial + 1024 < s.askedAt) :
    s.updateAtArm = (s.strobe (s.rd R.hiveUpdAtMask_at_mask) true (beatUp s.askedAt)).answerAt 1 :=
  (if_neg (by rw [free]; decide)).trans (if_neg (Nat.not_le.mpr ahead))

theorem State.answerAt_reads (s : State) {p : Nat} (h : p < 2) :
    (s.answerAt p).rd R.hiveUpdAtCtl_result = 0 ∧ (s.answerAt p).rd R.hiveUpdAtCtl_pending = p := by
  refine ⟨?_, ?_⟩
  · rw [State.answerAt, State.rd_wr]
    rfl
  · rw [State.answerAt, State.rd_wr_ne _ _ (by decide), State.rd_wr]
    exact Nat.mod_eq_of_lt h

theorem State.answerAt_strobes (s : State) (p : Nat) : (s.answerAt p).strobes = s.strobes := rfl

abbrev atFields : List Fld := [R.hiveUpdAtCtl_result, R.hiveUpdAtCtl_pending]

theorem State.SameBut.answerAt {u s : State} (h : u.SameBut s atFields) (p : Nat) : (u.answerAt p).SameBut s atFields :=
  (h.wr R.hiveUpdAtCtl_pending p (List.mem_cons_of_mem _ List.mem_cons_self)).wr R.hiveUpdAtCtl_result 0 List.mem_cons_self

theorem exec_updateAtArm (t : Nat) {s : State} (awake : s.svc.svc ≠ .dark) : exec (.updateAtArm t) s = .next (s.at t).updateAtArm :=
  if_pos (State.at_awake_of_ne t awake)

/-! ### Cancelling -/

theorem State.updateAtCancel_none {s : State} (empty : s.strobes = []) : s.updateAtCancel = s.wr R.hiveUpdAtCtl_result 2 := by
  unfold State.updateAtCancel
  rw [empty]
  rfl

/-- With its shadows not captured a strobe leaves nothing behind. -/
theorem State.updateAtCancel_one {s : State} {b m : Nat} (one : s.strobes = [⟨b, m, true, none, none⟩]) (ahead : s.dial < b) :
    s.updateAtCancel = { s with strobes := [] }.answerAt 0 := by
  unfold State.updateAtCancel
  rw [one]
  simp only [List.find?_cons, Bool.true_and, decide_eq_true ahead, State.restoreMarks, Option.getD_none, List.map_nil, List.append_nil]
  simp only [laneMarksOf, List.filterMap_nil, List.filter_nil, List.foldl_nil, one, List.filter_cons, Bool.not_true,
    Bool.false_eq_true, if_false]
  rfl

theorem exec_updateAtCancel (t : Nat) {s : State} (awake : s.svc.svc ≠ .dark) :
    exec (.updateAtCancel t) s = .next (s.at t).updateAtCancel := if_pos (State.at_awake_of_ne t awake)

/-! ### Applying -/

theorem State.captureDue_none {s : State} (p : Strobe → Bool) (empty : s.strobes = []) : s.captureDue p = s := by
  unfold State.captureDue
  rw [empty, captureOrder]
  simp only [List.filter_nil, List.append_nil, List.foldl_nil]
  rw [← empty]

/-- A strobe that is captured is not captured again. -/
theorem State.captureDue_captured {s : State} (p : Strobe → Bool) {x : Strobe} (one : s.strobes = [x]) (captured : x.shadows.isSome) :
    s.captureDue p = s := by
  have order : captureOrder [x] = [x] := by cases h : x.at40 <;> simp [captureOrder, h]
  have held : ¬ (x.shadows = none ∧ p x = true) := fun h => by simp [h.1] at captured
  unfold State.captureDue
  rw [one, order]
  simp only [List.foldl_cons, List.foldl_nil, if_neg held, List.nil_append]
  rw [← one]

/-- With nothing to capture UPDATE_APPLY applies the strobes that are due. -/
theorem exec_updateApply (t : Nat) {s : State} (awake : s.svc.svc ≠ .dark)
    (settled : ((s.at t).captureDue fun x => decide (x.beat ≤ (s.at t).dial)) = s.at t) :
    exec (.updateApply t) s = .next (((s.strobes.filter fun x => decide (x.beat ≤ (s.at t).dial)).foldl
      (fun acc x => insertStrobe x acc) []).foldl (fun s x => s.applyStrobe x)
        { s.at t with strobes := s.strobes.filter fun x => ¬ x.beat ≤ (s.at t).dial }) := by
  change execUpdateApply t s = _
  simp only [execUpdateApply, State.at_awake_of_ne t awake, Bool.true_eq_false, if_false, settled, State.at_strobes]

/-- Settles O22: queueing, arming and cancelling are equations of `strobes`; a strobe whose shadows are taken goes straight to be
applied. -/
theorem updateStrobesQueueAndCancel : Obligations.UpdateStrobesQueueAndCancel := by
  have at_pending (t p : Nat) {s : State} (h : s.rd R.hiveUpdAtCtl_pending = p) : (s.at t).rd R.hiveUpdAtCtl_pending = p :=
    (s.at_rd t _).trans h
  refine ⟨?strobe, ?busy, ?arm, ?late, ?nothing, ?cancel, ?capture, ?empty, ?apply⟩
  case strobe =>
    intro t m s awake mask
    refine .of_awake awake rfl ?_
    rw [State.updateStrobe, if_neg mask, State.strobe, State.at_strobes]
    exact ⟨rfl, s.at_sameStore t⟩
  case busy => exact fun t s awake pending => .of_eq (exec_updateAtArm t awake) (State.updateAtArm_pending (at_pending t 1 pending))
  case arm =>
    intro t s awake free ahead
    rw [← State.at_askedAt] at ahead
    refine .of_eq (exec_updateAtArm t awake) ?_
    rw [State.updateAtArm_ahead (at_pending t 0 free) ahead, ← State.at_askedAt]
    obtain ⟨result, pending⟩ := State.answerAt_reads ((s.at t).strobe ((s.at t).rd R.hiveUpdAtMask_at_mask) true (beatUp (s.at t).askedAt))
      (show 1 < 2 by decide)
    refine ⟨result, pending, ?_, State.SameBut.answerAt (s.at_SameBut t _) 1⟩
    rw [State.answerAt_strobes, State.strobe, State.at_strobes, State.at_rd]
  case late =>
    intro t s awake free late
    rw [← State.at_askedAt] at late
    refine .of_eq (exec_updateAtArm t awake) ?_
    rw [State.updateAtArm_late (at_pending t 0 free) late, State.at_rd]
  case nothing =>
    exact fun t s awake empty => .of_eq (exec_updateAtCancel t awake) (State.updateAtCancel_none ((s.at_strobes t).trans empty))
  case cancel =>
    intro t b m s awake one ahead
    refine .of_eq (exec_updateAtCancel t awake) ?_
    rw [State.updateAtCancel_one ((s.at_strobes t).trans one) ahead]
    obtain ⟨result, pending⟩ := State.answerAt_reads { s.at t with strobes := [] } (show 0 < 2 by decide)
    exact ⟨result, pending, rfl, State.SameBut.answerAt (s.at_SameBut t _) 0⟩
  case capture => exact fun t s awake => .of_awake awake rfl rfl
  case empty =>
    intro t s awake empty
    refine .of_eq (exec_updateApply t awake (State.captureDue_none _ ((s.at_strobes t).trans empty))) ?_
    rw [empty]
    exact ⟨rfl, s.at_sameStore t⟩
  case apply =>
    intro t x c b s awake one shadows banks due
    refine .of_eq (exec_updateApply t awake (State.captureDue_captured _ ((s.at_strobes t).trans one) (by rw [shadows]; rfl))) ?_
    simp [one, due, insertStrobe]

end Sys2Proof.Machine
end

section
/-! SUPPORT. The mailbox commands that run (R253, R403, R471, R490 to R500). -/

namespace Sys2Proof.Machine

/-! ### The command that runs -/

theorem State.at_mbAt {s : State} {t op : Nat} {r : MbRun} (mb : s.sec.mb = some r) (unanswered : r.out = none)
    (inTime : (s.at t).dial ≤ r.since + mbLimit r.op) (kind : r.op = op) : (s.at t).mbAt op = true := by
  subst kind
  unfold State.mbAt
  simp [mb, unanswered, inTime]

/-- A command under way within its limit does its step. -/
theorem Answers.of_mbAt {c : Instr} {s u v : State} {t op : Nat} {r : MbRun} {P : State → Prop} (mb : s.sec.mb = some r)
    (unanswered : r.out = none) (inTime : (s.at t).dial ≤ r.since + mbLimit r.op) (kind : r.op = op)
    (run : exec c s = if (s.at t).mbAt op then .next u else .next v) (h : P u) : Answers c s P :=
  .of_pos run (State.at_mbAt mb unanswered inTime kind) h

/-- The same of a command whose first argument chooses the step. -/
theorem Answers.of_mbAt_arg {c : Instr} {s u v : State} {t op a : Nat} {r : MbRun} {P : State → Prop} (mb : s.sec.mb = some r)
    (unanswered : r.out = none) (inTime : (s.at t).dial ≤ r.since + mbLimit r.op) (kind : r.op = op) (arg : s.mbArg 0 = a)
    (run : exec c s = if (s.at t).mbAt op ∧ (s.at t).mbArg 0 = a then .next u else .next v) (h : P u) : Answers c s P :=
  .of_pos run ⟨State.at_mbAt mb unanswered inTime kind, (s.at_mbArg t 0).trans arg⟩ h

theorem State.mbDone_mb {s : State} {r : MbRun} (mb : s.sec.mb = some r) (code : Nat) (resp : List Byte) :
    (s.mbDone code resp).sec.mb = some { r with out := some (code, resp) } := by
  change s.sec.mb.map _ = _
  rw [mb]
  rfl

theorem State.mbDone_rd (s : State) (code : Nat) (resp : List Byte) (f : Fld) : (s.mbDone code resp).rd f = s.rd f := rfl

/-- Fuses that are blown and answered with OK. -/
def State.fused (s : State) (x : SecSt) : State := ((s.setSec x).showFuses).mbDone 0 []

theorem State.fused_fuses (s : State) (x : SecSt) : (s.fused x).sec.minVer = x.minVer ∧ (s.fused x).sec.prog = x.prog := ⟨rfl, rfl⟩

theorem State.fused_mb (s : State) {x : SecSt} {r : MbRun} (mb : x.mb = some r) : (s.fused x).sec.mb = some { r with out := some (0, []) } :=
  State.mbDone_mb (s := (s.setSec x).showFuses) mb 0 []

/-! ### Output enable -/

theorem State.hiveMuted_rd_ne (s : State) {f : Fld} (h : f.key ≠ R.hiveState_muted.key) : s.hiveMuted.rd f = s.rd f :=
  State.rd_wr_ne s _ h

theorem State.hiveMuted_off {s : State} (off : s.rd R.secBoot_oe = 0) : s.hiveMuted.rd R.hiveState_muted = 1 := by
  rw [State.hiveMuted, State.rd_wr, if_pos (.inr off)]
  rfl

/-- Disabling the outputs leaves the enable at 0 and the Hive muted. -/
theorem State.setOe_false (s : State) : (s.setOe false).rd R.secBoot_oe = 0 ∧ (s.setOe false).rd R.hiveState_muted = 1 := by
  have oe : OffOutputs (fun s => s.rd R.secBoot_oe) := rd_offOutputs (by decide)
  have cleared : (s.wr R.secBoot_oe 0).rd R.secBoot_oe = 0 := State.rd_wr _ _ _
  have off (p : Prop) [Decidable p] :
      (if p then ((s.wr R.secBoot_oe 0).muteAll 4).zeroAll 4 true else s.wr R.secBoot_oe 0).rd R.secBoot_oe = 0 :=
    State.ite_same (fun s => s.rd R.secBoot_oe) ((oe.zeroAll _ 4 true).trans ((oe.muteAll _ 4).trans cleared)) cleared
  unfold State.setOe
  simp only [Bool.false_eq_true, false_and, if_false, true_and]
  exact ⟨(State.hiveMuted_rd_ne _ (by decide)).trans (off _), State.hiveMuted_off (off _)⟩

theorem State.outputEnable_off {s : State} (off : s.mbArg 0 = 0) : s.outputEnable = s.setOe false :=
  if_neg (by rw [off]; decide)

theorem State.outputEnable_on {s : State} (on : s.mbArg 0 = 1) : s.outputEnable = (s.setOe true).enabledLoad := if_pos on

/-! ### Sleep and the fuses -/

theorem State.putResp_svc (s : State) (bs : List Byte) : (s.putResp bs).svc = s.svc :=
  (State.foldl_wr_eq State.svc (fun _ _ _ => rfl) _ _ _ _).trans (State.foldl_wr_eq State.svc (fun _ _ _ => rfl) _ _ _ _)

theorem State.mbPost_svc (s : State) (code : Nat) (resp : List Byte) : (s.mbPost code resp).svc = s.svc := by
  rw [State.mbPost, State.fireD_svc, State.wr_svc, State.wr_svc, State.wr_svc, State.putResp_svc]
  rfl

theorem exec_sleep (t : Nat) {s : State} (runs : (s.at t).mbAt opSLEEP = true) (still : s.svc.entry = false) :
    exec (.sleep t) s = .next ((s.at t).mbPost 0 []).beginSleep := by
  refine (if_pos runs).trans (congrArg Host.Outcome.next (if_neg ?_))
  rw [State.mbPost_svc, State.at_svc, still]
  exact Bool.false_ne_true

theorem State.fuseMinVersion_fits {s : State} {v : Nat} (small : v ≤ 64) (image : v ≤ s.sec.img.svn) (bare : s.noHash = true) :
    s.fuseMinVersion v = (rOK, (s.setSec { s.sec with minVer := max s.sec.minVer v }).showFuses) :=
  if_neg (by rw [bare]; simp; omega)

theorem State.fuseOwnerKey_slot {s : State} {k : Nat} (slot : k = 1 ∨ k = 2) (hash : Nat) :
    s.fuseOwnerKey k hash =
      (rOK, (s.setSec { s.sec with hashes := SMap.set 0 s.sec.hashes k hash, prog := s.sec.prog ||| 2 ^ k }).showFuses) :=
  if_neg (by omega)

theorem State.at_noHash (s : State) (t : Nat) : (s.at t).noHash = s.noHash := by
  unfold State.noHash
  simp only [State.at_mbArg]

/-- Settles O24: a command within its limit does its step, and the steps are equations; that disabling leaves the enable at 0 goes through
the silencing of the outputs, which writes no register of the security block. -/
theorem mailboxCommandsRun : Obligations.MailboxCommandsRun := by
  refine ⟨?image, ?key, ?cal, ?join, ?leave, ?off, ?on, ?sleep, ?version, ?owner, ?revoke, ?attest⟩
  case image =>
    intro t r s mb out lim kind
    refine .of_mbAt mb out lim kind rfl ?_
    rw [State.mbDo, State.at_mbArg, State.at_mbArg]
  case key => exact fun t r s mb out lim kind => .of_mbAt mb out lim kind rfl rfl
  case cal => exact fun t r s mb out lim kind => .of_mbAt mb out lim kind rfl rfl
  case join =>
    intro t r s mb out lim kind arg
    refine .of_mbAt_arg mb out lim kind arg rfl ?_
    rw [State.mbDo, State.at_mbArg, State.at_mbArg]
  case leave => exact fun t r s mb out lim kind arg => .of_mbAt_arg mb out lim kind arg rfl rfl
  case off =>
    intro t r s mb out lim kind arg
    refine .of_mbAt mb out lim kind rfl ?_
    obtain ⟨oe, muted⟩ := (s.at t).setOe_false
    rw [State.outputEnable_off ((s.at_mbArg t 0).trans arg), State.mbDo]
    exact ⟨rfl, (State.mbDone_rd _ _ _ _).trans oe, (State.mbDone_rd _ _ _ _).trans muted⟩
  case on =>
    intro t r s mb out lim kind arg
    refine .of_mbAt mb out lim kind rfl ?_
    rw [State.outputEnable_on ((s.at_mbArg t 0).trans arg), State.mbDo]
    rfl
  case sleep => exact fun t r s mb out lim kind still => .of_eq (exec_sleep t (State.at_mbAt mb out lim kind) still) rfl
  case version =>
    intro t r s mb out lim kind arg bare small image
    refine .of_mbAt_arg mb out lim kind arg rfl ?_
    rw [State.at_mbArg, State.fuseMinVersion_fits small (by rwa [State.at_sec]) ((s.at_noHash t).trans bare), State.mbDo, State.at_sec]
    exact ⟨rfl, (State.fused_fuses _ _).1, State.fused_mb _ mb⟩
  case owner =>
    intro t r s mb out lim kind arg slot
    refine .of_mbAt_arg mb out lim kind arg rfl ?_
    rw [State.at_mbArg, State.at_mbArgs, State.fuseOwnerKey_slot slot, State.mbDo, State.at_sec]
    exact ⟨rfl, (State.fused_fuses _ _).2, State.fused_mb _ mb⟩
  case revoke =>
    intro t r s mb out lim kind arg
    refine .of_mbAt_arg mb out lim kind arg rfl ?_
    rw [State.mbDo, State.at_mbArg]
  case attest =>
    intro t r s mb out lim kind
    exact .of_mbAt mb out lim kind rfl ⟨State.mbDone_mb ((congrArg SecSt.mb (s.at_sec t)).trans mb) _ _, s.at_sameStore t⟩

end Sys2Proof.Machine
end

section
/-! SUPPORT. Steps that act, branch, wait and commit (R138 to R148, R159, R210, R239). -/

namespace Sys2Proof.Machine

/-! ### PUBLISH -/

/-- The verdict of a PUBLISH. -/
def State.pubOf (s : State) (n w : Nat) : Pub :=
  ⟨mwTarget w % 4096, mwArg w % 4, s.anchor n % 2 ^ 40, s.anchor n, n, false, s.issue n⟩

/-- The verdict is queued and its event noted. -/
def State.queuePub (s : State) (n : Nat) (p : Pub) : State :=
  ({ s with dec := { s.dec with pubs := s.dec.pubs ++ [p] } }).addEvent n p.due

theorem State.publishStep_eq (s : State) (n w : Nat) : s.publishStep n w = (s.queuePub n (s.pubOf n w)).goNext n := rfl

theorem State.goNext_dec (s : State) (n : Nat) : (s.goNext n).dec = s.dec := rfl

theorem State.queuePub_pubs (s : State) (n : Nat) (p : Pub) : (s.queuePub n p).dec.pubs = s.dec.pubs ++ [p] := rfl

theorem State.queuePub_rd (s : State) (n : Nat) (p : Pub) (f : Fld) : (s.queuePub n p).rd f = s.rd f := rfl

theorem State.SameBut.queuePub {u s : State} {fs : List Fld} (h : u.SameBut s fs) (n : Nat) (p : Pub) : (u.queuePub n p).SameBut s fs := h

abbrev stepFields (n : Nat) : List Fld := [R.seqPc_pc n, R.seqStatus_run n]

/-- Going on to the next word, for a step that has changed no register. -/
theorem State.SameBut.stepOn {u v : State} {n : Nat} (h : u.SameBut v (stepFields n)) : (u.goNext n).SameBut v (stepFields n) :=
  h.goNext n List.mem_cons_self (List.mem_cons_of_mem _ List.mem_cons_self)

/-- Settles O30: the four steps are those of their words; PUBLISH queues its verdict and goes on. -/
theorem pulseAndActionSteps : Obligations.PulseAndActionSteps := by
  refine ⟨?play, ?meas, ?frame, ?publish⟩
  case play => exact fun t w n s v ready kind => .of_ready rfl ready kind rfl
  case meas => exact fun t w n s v ready kind => .of_ready rfl ready kind rfl
  case frame => exact fun t w n s v ready kind => .of_ready rfl ready kind rfl
  case publish =>
    intro t w n s v ready kind
    refine .of_ready (c := .publish t n) rfl ready kind ?_
    rw [State.publishStep_eq]
    refine ⟨?_, ?_, ((v.SameBut_refl _).queuePub n _).stepOn⟩
    · rw [State.goNext_dec, State.queuePub_pubs]
      rfl
    · rw [State.goNext_pc, State.queuePub_rd]

/-! ### RET -/

/-- The innermost return address is off the stack. -/
def State.popStack (s : State) (n : Nat) : State :=
  (s.setSeq n { s.seq n with depth := (s.seq n).depth - 1 }).goto n ((s.seq n).stack.getD ((s.seq n).depth - 1) 0)

/-- The handler ends. -/
def State.leaveHandler (s : State) (n link : Nat) : State := (s.setSeq n { s.seq n with handler := none }).goto n link

/-- RET of sequencer `n`. -/
def State.retStep (s : State) (n : Nat) : State :=
  match (s.seq n).handler with
  | some (link, d) => if (s.seq n).depth = d then s.leaveHandler n link else s.popStack n
  | none => s.popStack n

theorem exec_ret (t : Nat) (n : Fin 64) (s : State) : exec (.ret t n) s = .next ((s.at t).stepWith n (isOp 6) fun s _ => s.retStep n) := rfl

theorem State.retStep_outside {s : State} {n : Nat} (outside : (s.seq n).handler = none) : s.retStep n = s.popStack n := by
  unfold State.retStep
  rw [outside]

theorem State.retStep_handler {s : State} {n link d : Nat} (inside : (s.seq n).handler = some (link, d)) (own : (s.seq n).depth = d) :
    s.retStep n = s.leaveHandler n link := by
  unfold State.retStep
  rw [inside]
  exact if_pos own

theorem State.popStack_reads (s : State) (n : Nat) :
    (s.popStack n).rd (R.seqPc_pc n) = (s.seq n).stack.getD ((s.seq n).depth - 1) 0 % 2 ^ 15 ∧
      ((s.popStack n).seq n).depth = (s.seq n).depth - 1 := by
  refine ⟨State.goto_pc _ n _, ?_⟩
  rw [State.popStack, State.goto_seq_self, State.setSeq_seq_self]

theorem State.leaveHandler_reads (s : State) (n link : Nat) :
    (s.leaveHandler n link).rd (R.seqPc_pc n) = link % 2 ^ 15 ∧ ((s.leaveHandler n link).seq n).handler = none := by
  refine ⟨State.goto_pc _ n _, ?_⟩
  rw [State.leaveHandler, State.goto_seq_self, State.setSeq_seq_self]

/-! ### Waits begin -/

theorem State.setWait_reads {s : State} {n : Nat} (outside : (s.seq n).handler = none) (w : Wait) :
    ((s.setWait n w).seq n).wait = w ∧ (s.setWait n w).rd (R.seqStatus_run n) = 2 := by
  refine ⟨?_, ?_⟩
  · rw [State.setWait, State.wr_seq, State.setSeq_seq_self]
  · rw [State.setWait, State.rd_wr, outside]
    rfl

theorem exec_verdictHorizonExpiry (t : Nat) {a hzn ways target : Nat} {cs : CSet} {b : Bool} {n : Fin 64} {s : State}
    (waits : (s.seq n).wait = .verdict a hzn cs ways target b none) (past : a + hzn ≤ (s.at t).dial) (sound : (s.seq n).faults = [])
    (runs : s.halted n = false) : exec (.verdictHorizonExpiry t n) s = .next ((s.at t).missed n a cs target b) := by
  change execVerdictHorizonExpiry t n s = _
  simp only [execVerdictHorizonExpiry, State.at_seq, waits, past, sound, State.at_halted, runs, and_self, if_true]

/-- Settles O31: the return addresses, the waits and the answer to a missing verdict are equations of their steps. -/
theorem controlFlowSteps : Obligations.ControlFlowSteps := by
  refine ⟨?branch, ?call, ?ret, ?retHandler, ?waitt, ?sync, ?horizon⟩
  case branch => exact fun t w n s v ready kind => .of_ready rfl ready kind rfl
  case call => exact fun t w n s v ready kind => .of_ready rfl ready kind rfl
  case ret =>
    intro t w n s v ready kind outside
    refine .of_ready (exec_ret t n s) ready kind ?_
    obtain ⟨pc, depth⟩ := v.popStack_reads n
    rw [State.retStep_outside outside]
    exact ⟨pc, depth, State.goto_SameBut _ n _⟩
  case retHandler =>
    intro t w link d n s v ready kind inside own
    refine .of_ready (exec_ret t n s) ready kind ?_
    obtain ⟨pc, handler⟩ := v.leaveHandler_reads n link
    rw [State.retStep_handler inside own]
    exact ⟨pc, handler, State.goto_SameBut _ n _⟩
  case waitt =>
    intro t w n s v ready kind outside
    obtain ⟨wait, run⟩ := State.setWait_reads outside (.waitt (mwArg w) (v.anchor n) (waitLimit (v.anchor n) w)
      (if 48 ≤ mwArg w then (v.readCset n (mwArg w - 48)).bits.getD 0 (0, 6) else (0, 6)))
    exact .of_ready (c := .waitt t n) rfl ready kind ⟨wait, run, v.setWait_SameBut n _⟩
  case sync =>
    intro t w n s v ready kind outside
    obtain ⟨wait, run⟩ := State.setWait_reads outside (.sync (mwArg w % 32) (v.anchor n) (waitLimit (v.anchor n) w))
    exact .of_ready (c := .sync t n) rfl ready kind ⟨wait, run, v.setWait_SameBut n _⟩
  case horizon => exact fun t a hzn ways target cs b n s waits past sound runs => .of_eq (exec_verdictHorizonExpiry t waits past sound runs) rfl

/-! ### COMMIT abort -/

/-- COMMIT abort of transaction 0, at a safe step. -/
def abortWord : Nat := 0xE0300000

/-- Sequencer 0 waits for a verdict at a COMMIT abort of an OPEN transaction that stages a Bias code of its own Comb; interrupt 2 is
enabled, with a handler at word 0. -/
def abortable : State :=
  { State.reset with
    svc := { SvcSt.init with svc := .amber }
    regs := [((R.txnState_state 0).key, tOPEN), ((R.seqStatus_run 0).key, 2), ((R.seqPc_pc 0).key, 5), ((R.seqCtl_ien 0).key, 4)]
    act := [((R.seqIvec_vec_valid 0 2).key, 1)]
    seqs := [(0, { SeqSt.init with wait := .verdict 0 0 ⟨[], false, 0, 0⟩ 0 0 false none })]
    txns := [(0, { TxnSt.init with ents := [⟨4, 0, [0]⟩] })]
    micro := [(5, ⟨abortWord, 0⟩)] }

theorem abortable_ready : (abortable.at 0).ready 0 = some (abortWord, abortable.at 0) := by decide +kernel

/-- The step of the COMMIT abort. -/
def State.commitAbortStep (s : State) (n w : Nat) : State :=
  ((s.abortTxn (mwArg w % 16)).2.commitCode n (s.abortTxn (mwArg w % 16)).1).goNext n

theorem exec_commitAbort (t : Nat) (n : Fin 64) (s : State) :
    exec (.commitAbort t n) s = .next ((s.at t).stepWith n (isCommit 2) fun s w => s.commitAbortStep n w) := rfl

/-- The interrupt that the outcome raises takes the waiting sequencer to its handler before it goes on. -/
theorem abortable_pc : ((abortable.at 0).commitAbortStep 0 abortWord).rd (R.seqPc_pc 0) = 1 := by decide +kernel

/-- Refutes O32: in `abortable` the outcome of the aborted transaction raises interrupt 2 of the same sequencer, which enters its handler,
so that `pc` ends after the handler's first word and not after the COMMIT. -/
theorem not_shotAndCommitSteps : ¬ Obligations.ShotAndCommitSteps := by
  rintro ⟨-, -, -, -, -, -, -, abort⟩
  obtain ⟨u, run, -, -, -, pc⟩ := abort 0 abortWord 0 abortable (abortable.at 0) abortable_ready (by decide) (by decide +kernel)
  have step : ((abortable.at 0).stepWith 0 (isCommit 2) fun s w => s.commitAbortStep 0 w) = (abortable.at 0).commitAbortStep 0 abortWord :=
    State.stepWith_ready _ abortable_ready (by decide)
  rw [exec_commitAbort, Host.Outcome.next.injEq, Fin.val_zero, step] at run
  rw [← run] at pc
  exact absurd (abortable_pc.symm.trans pc) (by decide +kernel)

end Sys2Proof.Machine
end

section
/-! SUPPORT. Faults, scrubs and loads; pulses, jumps and underruns of the Cells (R112 to R122, R160 to R172). -/

namespace Sys2Proof.Machine

/-! ### The answer to a fault -/

theorem exec_sequencerFault (t : Nat) {n : Fin 64} {f : FaultRep} {l : List FaultRep} {s : State} (front : (s.seq n).faults = f :: l) :
    exec (.sequencerFault t n) s = .next (((s.at t).setSeq n { s.seq n with faults := l }).answerFault n f) := by
  change execSequencerFault t n s = _
  simp only [execSequencerFault, State.at_seq, front]

/-- The fault is shown with its code and its word. -/
def State.showFault (s : State) (n : Nat) (f : FaultRep) : State :=
  (s.wr (R.seqFault_fault_code n) f.code).wr (R.seqFault_fault_pc n) f.pc

theorem State.answerFault_halted {s : State} {n : Nat} {f : FaultRep} (halted : s.halted n = true) (noShot : f.shot = none) :
    s.answerFault n f = s.showFault n f := by
  have shown : (s.showFault n f).halted n = true := by
    rw [← halted, State.halted, State.showFault, State.rd_wr_ne _ _ (by simp only [R.seqStatus_run, R.seqFault_fault_pc]; omega),
      State.rd_wr_ne _ _ (by simp only [R.seqStatus_run, R.seqFault_fault_code]; omega)]
    rfl
  unfold State.answerFault
  rw [noShot]
  exact if_pos shown

theorem State.showFault_reads (s : State) (n : Nat) (f : FaultRep) :
    (s.showFault n f).rd (R.seqFault_fault_code n) = f.code % 16 ∧ (s.showFault n f).rd (R.seqFault_fault_pc n) = f.pc % 2 ^ 15 ∧
      (s.showFault n f).rd (R.seqStatus_run n) = s.rd (R.seqStatus_run n) := by
  refine ⟨?_, State.rd_wr _ _ _, ?_⟩
  · rw [State.showFault, State.rd_wr_ne _ _ (by simp only [R.seqFault_fault_code, R.seqFault_fault_pc]; omega), State.rd_wr]
    rfl
  · rw [State.showFault, State.rd_wr_ne _ _ (by simp only [R.seqStatus_run, R.seqFault_fault_pc]; omega),
      State.rd_wr_ne _ _ (by simp only [R.seqStatus_run, R.seqFault_fault_code]; omega)]

theorem exec_load (t : Nat) {p : Fin 8} (im : ProgImage) {x : Pkt} {s v : State} (taken : (s.at t).takePkt p (ptIs 0xB) = some (x, v))
    (lit : s.svc.svc ≠ .dark) (trained : s.svc.hbmTrained = true) (host : s.role p = 1) :
    exec (.load t p im) s = .next (v.loadPkt p x im) := by
  change execLoad t p im s = _
  simp only [execLoad, taken, State.at_awake_of_ne t lit, State.at_svc, trained, State.at_role, host, and_self, if_true]

theorem exec_loadComplete (t : Nat) {n : Fin 64} {r : LoadReq} {s : State} (lit : s.svc.svc ≠ .dark) (loads : (s.seq n).loading = some r) :
    exec (.loadComplete t n) s = .next ((s.at t).completeLoad n r).checkStacks := by
  change execLoadComplete t n s = _
  simp only [execLoadComplete, State.at_seq, loads, State.at_awake_of_ne t lit, if_true]

/-- Settles O34: the fault of a halted sequencer is shown and nothing else; the other operations are equations of their commands. -/
theorem faultsScrubAndLoads : Obligations.FaultsScrubAndLoads := by
  refine ⟨?halted, ?running, ?scrub, ?load, ?complete⟩
  case halted =>
    intro t n f l s front halted noShot
    refine .of_eq (exec_sequencerFault t front) ?_
    have still : ((s.at t).setSeq n { s.seq n with faults := l }).halted n = true := by rwa [← State.at_halted s t] at halted
    rw [State.answerFault_halted still noShot]
    obtain ⟨code, pc, run⟩ := State.showFault_reads ((s.at t).setSeq n { s.seq n with faults := l }) n f
    refine ⟨code, pc, ?_, ?_, ?_⟩
    · rw [State.showFault, State.wr_seq, State.wr_seq, State.setSeq_seq_self]
    · rw [run, State.setSeq_rd, State.at_rd]
    · exact (((s.at_SameBut t _).setSeq n _).wr _ _ List.mem_cons_self).wr _ _ (List.mem_cons_of_mem _ List.mem_cons_self)
  case running => exact fun t n f l s front _ => .of_eq (exec_sequencerFault t front) rfl
  case scrub => exact fun t n l s lit => .of_awake lit rfl rfl
  case load => exact fun t p im x s v taken lit trained host => .of_eq (exec_load t im taken lit trained host) rfl
  case complete => exact fun t n r s lit loads => .of_eq (exec_loadComplete t lit loads) rfl

/-! ### Boundaries and jumps -/

theorem State.boundaryBy_end {s : State} {n c x : Nat} {p : Pulse} {g : Seg} (plays : (s.cell (8 * n + c)).play = some (p, g))
    (free : p.stop = none) (ends : g.b0 + 16 * g.d.length ≤ x) : s.boundaryBy n c x = s.boundary n c p g (g.b0 + 16 * g.d.length) := by
  unfold State.boundaryBy
  simp only [plays, free, ends, if_true]

theorem State.boundaryBy_cut {s : State} {n c x y : Nat} {p : Pulse} {g : Seg} (plays : (s.cell (8 * n + c)).play = some (p, g))
    (cut : p.stop = some y) (due : y ≤ x) (inside : y ≤ g.b0 + 16 * g.d.length) : s.boundaryBy n c x = (s.settleTo n y).endPulse n c y := by
  unfold State.boundaryBy
  simp only [plays, cut, due, inside, if_true]

theorem State.cellJump_playing {s : State} {n c : Nat} (plays : (s.cell (8 * n + c)).play.isSome = true) :
    s.cellJump n c = (s.askJump n c s.dial none).wr (R.cellCmd_result n c) rOK := if_pos plays

theorem State.cellJump_idle {s : State} {n c : Nat} (idle : (s.cell (8 * n + c)).play = none) :
    s.cellJump n c = s.wr (R.cellCmd_result n c) rSTATE := by
  unfold State.cellJump
  rw [idle]
  rfl

theorem exec_pulseStart (t : Nat) {x : Nat} {n : Fin 64} {c : Fin 8} {s : State} (lit : s.svc.svc ≠ .dark)
    (due : (s.at t).nextStart n c = some x) : exec (.pulseStart t n c) s = .next ((s.at t).startAt n c x) := by
  change execPulseStart t n c s = _
  simp only [execPulseStart, due, State.at_awake_of_ne t lit, if_true]

/-- A command to a block asleep in Sleep is refused. -/
theorem State.hostCmd_asleep {s : State} (asleep : s.svc.svc = .sleep) (a : Nat) (f : State → State) :
    s.hostCmd a f = s.accFault R.hostAccStatus_acc_asleep a := if_pos (by rw [State.isSleep, asleep]; rfl)

theorem State.accFault_cells (s : State) (f : Fld) (a : Nat) : (s.accFault f a).cells = s.cells := by
  simp only [State.accFault]
  split <;> rfl

/-! ### Bank writes -/

/-- A bank entry with a new high half. -/
def highHalf (old v : Nat) : Nat := old % 2 ^ 32 + v % 2 ^ 16 * 2 ^ 32

/-- A bank entry is stored and its high half marked. -/
def State.storeHi (s : State) (k x : Nat) : State := ({ s with bank := SMap.set 0 s.bank k x }).mark k 2

/-- The entry number goes on where it counts by itself. -/
def State.nextEntry (s : State) (n : Nat) : State :=
  if s.rd (R.cellBankSel_auto_inc n) = 1 then s.wr (R.cellBankSel_entry n) (s.rd (R.cellBankSel_entry n) + 1) else s

theorem State.bankHi_eq (s : State) (n v : Nat) : s.bankHi n v = (s.storeHi (s.bankKey n) (highHalf (SMap.get 0 s.bank (s.bankKey n)) v)).nextEntry n := by
  unfold State.storeHi highHalf State.bankHi State.nextEntry
  rfl

theorem State.nextEntry_same {β : Type} (φ : State → β) (same : ∀ (s : State) (n v : Nat), φ (s.wr (R.cellBankSel_entry n) v) = φ s)
    (s : State) (n : Nat) : φ (s.nextEntry n) = φ s := State.ite_same φ (same s n _) rfl

theorem State.storeHi_bank (s : State) (k x : Nat) : SMap.get 0 (s.storeHi k x).bank k = x := SMap.get_set_self _ _ _ _

theorem State.storeHi_marks (s : State) (k v : Nat) : (SMap.get 0 (s.storeHi k v).marks k).testBit 1 = true := by
  have marked : SMap.get 0 (s.storeHi k v).marks k = SMap.get 0 s.marks k ||| 2 := SMap.get_set_self _ _ _ _
  rw [marked, Nat.testBit_or]
  exact Bool.or_true _

theorem State.storeHi_RegsBut {u s : State} {fs : List Fld} (h : u.RegsBut s fs) (k v : Nat) : (u.storeHi k v).RegsBut s fs := h

theorem State.storeHi_bytes (s : State) (k v : Nat) : (s.storeHi k v).hbm = s.hbm ∧ (s.storeHi k v).flash = s.flash := ⟨rfl, rfl⟩

theorem State.nextEntry_RegsBut {u s : State} {n : Nat} (h : u.RegsBut s [R.cellBankSel_entry n]) :
    (u.nextEntry n).RegsBut s [R.cellBankSel_entry n] :=
  iteInduction (motive := fun w : State => w.RegsBut s [R.cellBankSel_entry n]) (fun _ => h.wr _ _ List.mem_cons_self) (fun _ => h)

/-! ### Envelope samples that come too late -/

/-- What reading the envelope of a Cell keeps. -/
theorem State.readEnv_same {β : Type} (φ : State → β) {n c : Nat}
    (wr : ∀ (s : State) v, φ (s.wr (R.seqEcc2_cache_fix n) v) = φ s) (cell : ∀ (s : State) x, φ (s.setCell (8 * n + c) x) = φ s)
    (ecc : ∀ s : State, φ (s.combFlag (R.cellStatus_env_ecc n c) n 9) = φ s)
    (late : ∀ s : State, φ (s.combFlag (R.cellStatus_underrun n c) n 9) = φ s) (mark : ∀ (s : State) k, φ (s.markShot n k) = φ s)
    (s : State) : φ (s.readEnv n c) = φ s := by
  unfold State.readEnv
  split
  · rfl
  next p g _ =>
    refine State.ite_same φ rfl ?_
    dsimp only
    have kept : ∀ v x, φ ((s.wr (R.seqEcc2_cache_fix n) v).setCell (8 * n + c) x) = φ s := fun v x => (cell _ _).trans (wr _ _)
    refine State.ite_same φ ?_ (State.ite_same φ ?_ (kept _ _))
    · exact ((mark _ _).trans (ecc _)).trans (kept _ _)
    · exact ((mark _ _).trans (late _)).trans (kept _ _)

theorem State.readEnv_dead {s : State} {n c : Nat} {p : Pulse} {g : Seg} (plays : (s.cell (8 * n + c)).play = some (p, g))
    (dead : g.deadAt.isSome = true) : s.readEnv n c = s := by
  unfold State.readEnv
  simp only [plays, dead, Bool.true_or, if_true]

theorem State.reportClip_same {β : Type} (φ : State → β) {n p : Nat}
    (clip : ∀ (s : State) v, φ (s.wr (R.cellPortStatus_clip n p) v) = φ s)
    (count : ∀ (s : State) v, φ (s.wr (R.cellPortStatus_clip_count n p) v) = φ s)
    (fire : ∀ (s : State) t k, φ (s.fireSAt t n k) = φ s) (s : State) (t : Nat) : φ (s.reportClip n p t) = φ s :=
  (fire _ _ _).trans ((State.ite_same φ (count _ _) rfl).trans (clip s 1))

/-- What the port sums of a Comb keep, over any span. -/
theorem State.clipSpan_same {β : Type} (φ : State → β) {n : Nat} (report : ∀ (s : State) p t, φ (s.reportClip n p t) = φ s)
    (len : Nat) (s : State) (t : Nat) : φ (s.clipSpan n t len) = φ s := by
  induction len generalizing s t with
  | zero => rfl
  | succ len ih =>
    rw [State.clipSpan, ih]
    have first : φ (if s.clips n 0 t then s.reportClip n 0 t else s) = φ s := State.ite_same φ (report _ _ _) rfl
    exact (State.ite_same φ ((report _ _ _).trans first) first)

/-- The part of the state that reading the envelope of Cell `k` rests on, and its flag `f`. -/
def State.envView (k : Nat) (f : Fld) (s : State) : CellSt × List (Nat × Mem1) × Nat × Nat := (s.cell k, s.cache, s.dial, s.rd f)

theorem State.envView_wr {k : Nat} {f h : Fld} (other : f.key ≠ h.key) (s : State) (v : Nat) :
    (s.wr h v).envView k f = s.envView k f := by
  rw [State.envView, State.rd_wr_ne s v other]
  rfl

theorem State.envView_setCell {j k : Nat} {f : Fld} (other : k ≠ j) (s : State) (x : CellSt) :
    (s.setCell j x).envView k f = s.envView k f := by
  rw [State.envView, State.setCell_cell_ne s _ _ other]
  rfl

theorem envParts_offOutputs (k : Nat) : OffOutputs fun s : State => (s.cell k, s.cache, s.dial) where
  wr _ _ _ _ := rfl
  seq _ _ _ := rfl
  bias _ _ _ := rfl
  lane _ _ _ := rfl
  mkr _ _ _ := rfl
  fireS _ _ _ := rfl
  fireAt _ _ _ := State.ite_same (fun s : State => (s.cell k, s.cache, s.dial)) rfl rfl
  unfireS _ _ _ _ := rfl

theorem State.envView_eq {k : Nat} {f : Fld} {u s : State} (parts : (u.cell k, u.cache, u.dial) = (s.cell k, s.cache, s.dial))
    (flag : u.rd f = s.rd f) : u.envView k f = s.envView k f := by
  obtain ⟨cell, cache, dial⟩ : u.cell k = s.cell k ∧ u.cache = s.cache ∧ u.dial = s.dial := by simpa only [Prod.mk.injEq] using parts
  rw [State.envView, cell, cache, dial, flag]
  rfl

theorem State.envView_markShot {k : Nat} {f : Fld} {n : Nat} (other : f.key ≠ (R.seqStatus_shot_invalid n).key) (s : State) (j : Option Nat) :
    (s.markShot n j).envView k f = s.envView k f :=
  State.envView_eq ((envParts_offOutputs k).markShot s n j) (s.markShot_frame n j other)

theorem State.fireSAt_rd (s : State) (t n k : Nat) (f : Fld) : (s.fireSAt t n k).rd f = s.rd f :=
  (State.ite_same (fun s => s.rd f) rfl rfl : ((s.fireAt t (20 * n + k)).fireAt t (1280 + 64 + k)).rd f = (s.fireAt t (20 * n + k)).rd f).trans
    (State.ite_same (fun s => s.rd f) rfl rfl)

theorem State.envView_combFlag {k : Nat} {f h : Fld} (other : f.key ≠ h.key) (n i : Nat) (s : State) :
    (s.combFlag h n i).envView k f = s.envView k f := State.envView_wr other s 1

/-- Reading the envelope of one Cell leaves the others. -/
theorem State.envView_readEnv {n c b : Nat} (other : b ≠ c) (s : State) :
    (s.readEnv n b).envView (8 * n + c) (R.cellStatus_underrun n c) = s.envView (8 * n + c) (R.cellStatus_underrun n c) := by
  refine State.readEnv_same _ (State.envView_wr ?_) (State.envView_setCell (by omega)) (State.envView_combFlag ?_ n 9)
    (State.envView_combFlag ?_ n 9) (State.envView_markShot ?_) s
  · simp only [R.cellStatus_underrun, R.seqEcc2_cache_fix]; omega
  · simp only [R.cellStatus_underrun, R.cellStatus_env_ecc]; omega
  · simp only [R.cellStatus_underrun]; omega
  · simp only [R.cellStatus_underrun, R.seqStatus_shot_invalid]; omega

theorem State.envView_clipSpan (k n : Nat) {c : Nat} (hc : c < 8) (s : State) (t len : Nat) :
    (s.clipSpan n t len).envView k (R.cellStatus_underrun n c) = s.envView k (R.cellStatus_underrun n c) := by
  refine State.clipSpan_same _ (fun s p t => State.reportClip_same _ (State.envView_wr ?_) (State.envView_wr ?_) ?_ s t) len s t
  · simp only [R.cellStatus_underrun, R.cellPortStatus_clip]; omega
  · simp only [R.cellStatus_underrun, R.cellPortStatus_clip_count]; omega
  · exact fun s t j => State.envView_eq ((envParts_offOutputs k).fireSAt s t n j) (s.fireSAt_rd t n j _)

/-- The play of Cell `c` is silent from tick `m` on, and the underrun is shown. -/
def State.Silent (n c m : Nat) (s : State) : Prop :=
  (∃ p g, (s.cell (8 * n + c)).play = some (p, g) ∧ g.deadAt = some m) ∧ s.rd (R.cellStatus_underrun n c) = 1

/-- Cell `c` plays far-store samples that have not come in time, with no word of the Comb in error. -/
structure State.Late (n c : Nat) (p : Pulse) (g : Seg) (fill : Nat) (s : State) : Prop where
  play : (s.cell (8 * n + c)).play = some (p, g)
  filled : (s.cell (8 * n + c)).fill = fill
  late : 256 + fill < needBy g (s.dial + 461)
  clean : ∀ e ∈ s.cache, e.1 / 65536 ≠ n ∨ e.2.mark = 0

theorem State.Silent.congr {n c m : Nat} {u s : State} (h : s.Silent n c m)
    (same : u.envView (8 * n + c) (R.cellStatus_underrun n c) = s.envView (8 * n + c) (R.cellStatus_underrun n c)) : u.Silent n c m := by
  obtain ⟨cell, -, -, flag⟩ := by simpa only [State.envView, Prod.mk.injEq] using same
  rw [State.Silent, cell, flag]
  exact h

theorem State.Late.congr {n c fill : Nat} {p : Pulse} {g : Seg} {u s : State} (h : s.Late n c p g fill)
    (same : u.envView (8 * n + c) (R.cellStatus_underrun n c) = s.envView (8 * n + c) (R.cellStatus_underrun n c)) : u.Late n c p g fill := by
  obtain ⟨cell, cache, dial, -⟩ := by simpa only [State.envView, Prod.mk.injEq] using same
  exact ⟨cell ▸ h.play, cell ▸ h.filled, dial ▸ h.late, cache ▸ h.clean⟩

theorem State.Silent.readEnv {n c m : Nat} {s : State} (h : s.Silent n c m) (b : Nat) : (s.readEnv n b).Silent n c m := by
  by_cases same : b = c
  · obtain ⟨⟨p, g, play, dead⟩, -⟩ := id h
    rw [same, State.readEnv_dead play (by rw [dead]; rfl)]
    exact h
  · exact h.congr (State.envView_readEnv same s)

/-- No word of the Comb in error: nothing is marked in its part of the cache. -/
theorem State.cache_clean {n : Nat} {s : State} (clean : ∀ e ∈ s.cache, e.1 / 65536 ≠ n ∨ e.2.mark = 0) :
    (s.cache.filter fun e => decide (e.1 / 65536 = n ∧ e.2.mark ≠ 0)) = [] := by
  rw [List.filter_eq_nil_iff]
  intro e he
  rw [decide_eq_true_eq]
  rintro ⟨comb, marked⟩
  exact (clean e he).elim (fun h => h comb) marked

/-- A play that dies is silent, and shown as such. -/
theorem State.silent_of_dies (s : State) {n c m : Nat} {x : CellSt} {p : Pulse} {g : Seg} (play : x.play = some (p, g))
    (dead : g.deadAt = some m) : (((s.setCell (8 * n + c) x).combFlag (R.cellStatus_underrun n c) n 9).markShot n none).Silent n c m :=
  ⟨⟨p, g, (congrArg CellSt.play (State.setCell_cell_self s (8 * n + c) x)).trans play, dead⟩,
    State.rd_wr (s.setCell (8 * n + c) x) (R.cellStatus_underrun n c) 1⟩

theorem State.Late.readEnv {n c fill : Nat} {p : Pulse} {g : Seg} {s : State} (h : s.Late n c p g fill) (free : p.stop = none)
    (far : g.d.envSrc = 2) (alive : g.deadAt = none) (noShot : p.iss.shot = none) :
    (s.readEnv n c).Silent n c (deadTick g (256 + fill)) := by
  obtain ⟨play, filled, late, clean⟩ := h
  unfold State.readEnv
  simp only [play, alive, far, free, filled, State.cache_clean clean, State.wr_dial, late, noShot, List.flatMap_nil, List.filter_nil,
    List.map_nil, Option.isSome_none, Bool.false_or, Nat.reduceEqDiff, decide_false, decide_true, and_self, if_true, if_false,
    List.min?_nil, Bool.false_eq_true]
  exact State.silent_of_dies _ rfl rfl

/-- Once the envelopes of a Comb are read, the late Cell among them is silent. -/
theorem State.Late.readAll {n c fill : Nat} {p : Pulse} {g : Seg} (free : p.stop = none) (far : g.d.envSrc = 2) (alive : g.deadAt = none)
    (noShot : p.iss.shot = none) {l : List Nat} (mem : c ∈ l) {s : State} (h : s.Late n c p g fill) :
    (l.foldl (fun s c => s.readEnv n c) s).Silent n c (deadTick g (256 + fill)) := by
  have stays : ∀ (l : List Nat) (s : State), s.Silent n c (deadTick g (256 + fill)) →
      (l.foldl (fun s c => s.readEnv n c) s).Silent n c (deadTick g (256 + fill)) := by
    intro l
    induction l with
    | nil => exact fun s h => h
    | cons b l ih => exact fun s h => ih _ (h.readEnv b)
  induction l generalizing s with
  | nil => exact absurd mem List.not_mem_nil
  | cons b l ih =>
    by_cases first : b = c
    · subst first
      exact stays l _ (h.readEnv free far alive noShot)
    · exact ih (List.mem_of_ne_of_mem (Ne.symm first) mem) (h.congr (State.envView_readEnv first s))

/-- The envelopes of all eight Cells of a Comb are read. -/
def State.readAll (s : State) (n : Nat) : State := (List.range 8).foldl (fun s c => s.readEnv n c) s

/-- The port sums of a Comb that plays are judged over a span. -/
def State.judgeSpan (s : State) (n a len : Nat) : State := if s.combPlays n then s.clipSpan n a len else s

theorem State.settleTo_eq (s : State) (n x : Nat) :
    s.settleTo n x = ((s.readAll n).judgeSpan n ((s.readAll n).comb n).clipFrom (x - ((s.readAll n).comb n).clipFrom)).setComb n
      { ((s.readAll n).judgeSpan n ((s.readAll n).comb n).clipFrom (x - ((s.readAll n).comb n).clipFrom)).comb n with
        clipFrom := max ((s.readAll n).comb n).clipFrom x } := by
  unfold State.settleTo State.readAll State.judgeSpan
  rfl

theorem State.Silent.settleTo {n c m : Nat} (hc : c < 8) {s : State} (x : Nat) (h : (s.readAll n).Silent n c m) :
    (s.settleTo n x).Silent n c m := by
  rw [State.settleTo_eq]
  generalize s.readAll n = u at h
  have judged (a len : Nat) : (u.judgeSpan n a len).Silent n c m :=
    h.congr (State.ite_same _ (State.envView_clipSpan _ n hc u a len) rfl)
  exact judged _ _

theorem State.Silent.reads {n c m : Nat} {s : State} (h : s.Silent n c m) :
    s.rd (R.cellStatus_underrun n c) = 1 ∧ (s.cell (8 * n + c)).play.map (fun e => e.2.deadAt) = some (some m) := by
  obtain ⟨⟨p, g, play, dead⟩, flag⟩ := h
  exact ⟨flag, by rw [play, Option.map_some, dead]⟩

/-- Settles O35: an underrun found in any reading of the Comb's envelopes stays; the other commands are equations of their operations. -/
theorem cellsPlayAndJump : Obligations.CellsPlayAndJump := by
  refine ⟨?start, ?act, ?boundary, ?cut, ?jumpIdle, ?jump, ?bank, ?late, ?clip, ?underrun, ?asleep⟩
  case start => exact fun t x n c s lit due => .of_eq (exec_pulseStart t lit due) rfl
  case act => exact fun t n c s lit => .of_awake lit rfl rfl
  case boundary =>
    exact fun t n c p g s lit plays free ends => .of_awake lit rfl (State.boundaryBy_end (by rwa [State.at_cell]) free ends)
  case cut =>
    exact fun t x n c p g s lit plays cut due inside =>
      .of_awake lit rfl (State.boundaryBy_cut (by rwa [State.at_cell]) cut due inside)
  case jumpIdle => exact fun t n c s up idle => .of_hostCmd up rfl (State.cellJump_idle (by rwa [State.at_cell]))
  case jump =>
    intro t n c s up plays
    refine .of_hostCmd up rfl ?_
    rw [State.cellJump_playing (by rwa [State.at_cell])]
    exact ⟨rfl, State.rd_wr _ _ _⟩
  case bank =>
    intro t v n s up
    refine .of_hostCmd up rfl ?_
    rw [State.bankHi_eq, State.at_bankKey, State.at_bank]
    generalize hx : highHalf (SMap.get 0 s.bank (s.bankKey n)) v = x
    obtain ⟨hbm, flash⟩ := (s.at t).storeHi_bytes (s.bankKey n) x
    refine ⟨?_, ?_, ?_, ?_, State.nextEntry_RegsBut (State.storeHi_RegsBut (State.at_RegsBut s t _) _ x)⟩
    · rw [State.nextEntry_same State.bank (fun _ _ _ => rfl), State.storeHi_bank, ← hx, highHalf]
    · rw [State.nextEntry_same State.marks (fun _ _ _ => rfl), State.storeHi_marks]
    · rw [State.nextEntry_same State.hbm (fun _ _ _ => rfl), hbm, State.at_hbm]
    · rw [State.nextEntry_same State.flash (fun _ _ _ => rfl), flash, State.at_flash]
  case late =>
    intro t n c p g s lit plays free far alive clean late noShot
    refine .of_awake lit rfl ?_
    have start : (s.at t).Late n c p g (s.cell (8 * n + c)).fill :=
      ⟨by rwa [State.at_cell], by rw [State.at_cell], late, by rwa [State.at_cache]⟩
    have settled := State.Silent.settleTo c.isLt (s.at t).dial (start.readAll free far alive noShot (List.mem_range.mpr c.isLt))
    exact (settled.readEnv c).reads
  case clip => exact fun t n p s up => .of_hostCmd up rfl ⟨rfl, State.rd_wr _ _ _⟩
  case underrun => exact fun t n c s lit => .of_awake lit rfl rfl
  case asleep =>
    intro t n c s asleep
    refine .of_awake (by rw [asleep]; decide) rfl ?_
    rw [State.hostCmd_asleep (by rwa [State.at_svc])]
    exact ⟨((s.at t).accFault_Faulted _ (State.SameBut_refl _ _) rfl).flag, (State.accFault_cells _ _ _).trans (State.at_cells s t)⟩

end Sys2Proof.Machine
end

section
/-! SUPPORT. Windows, the result writer, trailers and speculations (R185 to R201, R218). -/

namespace Sys2Proof.Machine

/-! ### Records that are lost or queued -/

/-- The registers that a lost record touches. -/
def lostFields (n : Nat) : List Fld :=
  [R.rdResLost_res_lost n, R.rdStatus_res_drop n, R.seqStatus_shot_invalid n, R.seqInvalid_invalid_count n]

/-- A part of the state that no lost record of Comb `n` bears on. -/
structure OffLost {β : Type} (n : Nat) (φ : State → β) : Prop where
  wr : ∀ f ∈ lostFields n, ∀ (s : State) (v : Nat), φ (s.wr f v) = φ s
  seq : ∀ (s : State) (x : SeqSt), φ (s.setSeq n x) = φ s
  fireS : ∀ (s : State) (k : Nat), φ (s.fireS n k) = φ s

/-- A register other than those. -/
theorem rd_offLost {n : Nat} {f : Fld} (other : ∀ h ∈ lostFields n, f.key ≠ h.key) : OffLost n fun s => s.rd f where
  wr h hh s v := State.rd_wr_ne s v (other h hh)
  seq _ _ := rfl
  fireS _ _ := rfl

section
variable {β : Type} {n : Nat} {φ : State → β} (off : OffLost n φ)
include off

theorem OffLost.markShot (s : State) (k : Option Nat) : φ (s.markShot n k) = φ s := by
  have invalid := off.wr (R.seqStatus_shot_invalid n) (by simp [lostFields])
  cases k with
  | none => rfl
  | some k =>
    exact State.ite_same φ ((off.fireS _ 4).trans (State.ite_same φ ((invalid _ 1).trans (off.seq s _)) (off.seq s _))) rfl

theorem OffLost.editShot (s : State) (k : Option Nat) (f : Shot → Shot) : φ (s.editShot n k f) = φ s := by
  cases k with
  | none => rfl
  | some k => exact off.seq s _

theorem OffLost.noteEnd (s : State) (k : Option Nat) (t : Nat) : φ (s.noteEnd n k t) = φ s := by
  cases k with
  | none => rfl
  | some k => exact off.seq s _

theorem OffLost.loseRec (s : State) (r : RecQ) : φ (s.loseRec n r) = φ s := by
  have lost := off.wr (R.rdResLost_res_lost n) (by simp [lostFields])
  have drop := off.wr (R.rdStatus_res_drop n) (by simp [lostFields])
  have invalid := off.wr (R.seqStatus_shot_invalid n) (by simp [lostFields])
  have count := off.wr (R.seqInvalid_invalid_count n) (by simp [lostFields])
  unfold State.loseRec
  dsimp only
  have shown : φ ((s.inc (R.rdResLost_res_lost n)).combFlag (R.rdStatus_res_drop n) n 13) = φ s :=
    (off.fireS _ 13).trans ((drop _ 1).trans (lost s _))
  refine State.ite_same φ ?_ (((off.markShot _ _).trans (off.editShot _ _ _)).trans shown)
  refine State.ite_same φ ((off.fireS _ 4).trans ?_) ((off.fireS _ 4).trans ((count _ _).trans ?_)) <;>
    exact State.ite_same φ ((invalid _ 1).trans shown) shown

theorem OffLost.queueRec (comb : ∀ (s : State) (x : CombSt), φ (s.setComb n x) = φ s) (s : State) (r : RecQ) :
    φ (s.queueRec n r) = φ s := State.ite_same φ (off.loseRec s r) (comb s _)

end

theorem lane_offLost (n g : Nat) : OffLost n fun s => s.lane g where
  wr _ _ _ _ := rfl
  seq _ _ := rfl
  fireS _ _ := rfl

theorem comb_offLost (n m : Nat) : OffLost n fun s => s.comb m where
  wr _ _ _ _ := rfl
  seq _ _ := rfl
  fireS _ _ := rfl

/-! ### A window opens -/

theorem exec_windowOpen (t : Nat) {n : Fin 64} {c : Fin 8} {w : Win} {s : State} (next : nextWin (s.lane (8 * n + c)).wins = some w)
    (runs : s.converting = true) (due : tFirst w.mFirst ≤ (s.at t).dial) :
    exec (.windowOpen t n c) s = .next ((s.at t).windowOpen n c w) := by
  change execWindowOpen t n c s = _
  simp only [execWindowOpen, State.at_lane, next, State.at_converting, runs, due, and_self, if_true]

/-- The only window of an idle lane, in time: it is open, and nothing waits. -/
theorem State.windowOpen_alone {s : State} {n c : Nat} {w : Win} (only : (s.lane (8 * n + c)).wins = [w])
    (idle : (s.lane (8 * n + c)).cur = none) (inTime : firstTaken w.mFirst w.iss.arr = w.mFirst) :
    ∃ (o : OpenWin) (x y : LaneSt), s.windowOpen n c w = (s.setLane (8 * n + c) x).setLane (8 * n + c) y ∧ y.wins = [] ∧ y.cur = some o ∧
      o = (s.setLane (8 * n + c) x).openWin n c w (tFirst w.mFirst) := by
  refine ⟨_, { s.lane (8 * n + c) with wins := [] }, { s.lane (8 * n + c) with wins := [], cur := some _ }, ?_, rfl, rfl, rfl⟩
  unfold State.windowOpen
  simp only [only, State.overtake, State.setLane_lane_self, idle, inTime, List.filter_cons, List.filter_nil, decide_true, Bool.true_and,
    ne_eq, not_true_eq_false, decide_false, Bool.false_eq_true, if_false, List.foldl_nil, Nat.lt_irrefl]

theorem State.SameBut.setLane {u s : State} {fs : List Fld} (h : u.SameBut s fs) (g : Nat) (x : LaneSt) : (u.setLane g x).SameBut s fs := h

/-- An uncut window takes its whole count. -/
theorem State.openWin_uncut (s : State) (n c : Nat) {w : Win} (uncut : w.cut = none) (t : Nat) :
    ((s.openWin n c w t).w, (s.openWin n c w t).first, (s.openWin n c w t).last) = (w, w.mFirst, w.mFirst + w.count - 1) := by
  simp only [State.openWin, uncut]

/-! ### A window's result -/

theorem exec_windowClose_current (t : Nat) {n : Fin 64} {c : Fin 8} {o : OpenWin} (x : List Int) {s : State}
    (none : (s.lane (8 * n + c)).ending = []) (cur : (s.lane (8 * n + c)).cur = some o) (done : 32 * o.last + 307 ≤ (s.at t).dial)
    (lit : s.svc.svc ≠ .dark) : exec (.windowClose t n c x) s =
      .next (((s.at t).setLane (8 * n + c) { s.lane (8 * n + c) with cur := Option.none }).windowResult n c o x) := by
  change execWindowClose t n c x s = _
  simp only [execWindowClose, State.at_lane, none, cur, done, State.at_awake_of_ne t lit, and_self, if_true]

theorem exec_windowClose_ending (t : Nat) {n : Fin 64} {c : Fin 8} {o : OpenWin} {l : List OpenWin} (x : List Int) {s : State}
    (front : (s.lane (8 * n + c)).ending = o :: l) (done : 32 * o.last + 307 ≤ (s.at t).dial) (lit : s.svc.svc ≠ .dark) :
    exec (.windowClose t n c x) s =
      .next (((s.at t).setLane (8 * n + c) { s.lane (8 * n + c) with ending := l }).windowResult n c o x) := by
  change execWindowClose t n c x s = _
  simp only [execWindowClose, State.at_lane, front, done, State.at_awake_of_ne t lit, and_self, if_true]

/-- The corrections of the weights a window has read are counted. -/
def State.countFixes (s : State) (n : Nat) (o : OpenWin) : State :=
  s.wr (R.seqEcc2_kern_fix n) (min 0xFFFF (s.rd (R.seqEcc2_kern_fix n) +
    ((weightsRead o).filter fun k => decide ((s.kernWord n ((o.kBase + k) % 32768)).mark = 1)).length))

/-- The warnings of a result. -/
def State.warn (s : State) (n : Nat) (r : WinRes) : State :=
  ((s.setIf r.rsat (R.rdStatus_rsat n)).setIf r.ovr (R.rdStatus_ovr n)).setIf r.kclamp (R.rdStatus_kclamp n)

/-- A weight in error is reported. -/
def State.warnEcc (s : State) (n : Nat) (o : OpenWin) (r : WinRes) : State :=
  if r.kecc then (s.combFlag (R.rdStatus_kecc n) n 13).markShot n o.w.iss.shot else s

/-- A verdict waits for its tag slot. -/
def State.sendVerdict (s : State) (n : Nat) (o : OpenWin) (r : WinRes) : State :=
  match o.w.pub with
  | some slot =>
    if o.silent then s
    else { s with dec := { s.dec with pubs := s.dec.pubs ++ [⟨slot, r.verdict, o.pubTime.getD (32 * o.last) % 2 ^ 40, s.dial, n, true, o.w.iss⟩] } }
  | none => s

/-- The record of a result is queued. -/
def State.recordResult (s : State) (n c : Nat) (o : OpenWin) (r : WinRes) : State :=
  if o.w.record then s.queueRec n ⟨32 * o.last, c, recordBits r (32 * o.last) o.trunc false o.w.set o.w.prof c, o.w.iss.shot⟩ else s

theorem State.windowResult_eq (s : State) (n c : Nat) (o : OpenWin) (xs : List Int) : s.windowResult n c o xs =
    ((((((s.noteEnd n o.w.iss.shot (32 * o.last + 1)).countFixes n o).warn n (s.winResult n o (s.adcWords n (tFirst o.first) 2 xs))).warnEcc n
      o (s.winResult n o (s.adcWords n (tFirst o.first) 2 xs))).wr (R.rdLaneStatus_last_v n c)
      (s.winResult n o (s.adcWords n (tFirst o.first) 2 xs)).verdict).sendVerdict n o
      (s.winResult n o (s.adcWords n (tFirst o.first) 2 xs))).recordResult n c o
      (s.winResult n o (s.adcWords n (tFirst o.first) 2 xs)) := by
  unfold State.windowResult State.countFixes State.warn State.warnEcc State.sendVerdict State.recordResult
  rfl

/-- A forced window has no verdict but 3. -/
theorem State.winResult_forced (s : State) (n : Nat) {o : OpenWin} (forced : o.force3 = true) (xs : List Int) :
    (s.winResult n o xs).verdict = 3 := by
  simp only [State.winResult, forced, Bool.true_or, if_true]

theorem State.sendVerdict_same {β : Type} (φ : State → β) (same : ∀ (s : State) (d : DecSt), φ { s with dec := d } = φ s) (s : State)
    (n : Nat) (o : OpenWin) (r : WinRes) : φ (s.sendVerdict n o r) = φ s := by
  unfold State.sendVerdict
  split
  · exact State.ite_same φ rfl (same _ _)
  · rfl

theorem State.setIf_lane (s : State) (b : Bool) (f : Fld) (g : Nat) : (s.setIf b f).lane g = s.lane g :=
  State.ite_same (fun s => s.lane g) rfl rfl

theorem State.warn_lane (s : State) (n : Nat) (r : WinRes) (g : Nat) : (s.warn n r).lane g = s.lane g := by
  rw [State.warn, State.setIf_lane, State.setIf_lane, State.setIf_lane]

theorem State.warnEcc_lane (s : State) (n : Nat) (o : OpenWin) (r : WinRes) (g : Nat) : (s.warnEcc n o r).lane g = s.lane g :=
  State.ite_same (fun s => s.lane g) ((lane_offLost n g).markShot _ _) rfl

theorem State.recordResult_lane (s : State) (n c : Nat) (o : OpenWin) (r : WinRes) (g : Nat) : (s.recordResult n c o r).lane g = s.lane g :=
  State.ite_same (fun s => s.lane g) ((lane_offLost n g).queueRec (fun _ _ => rfl) s _) rfl

theorem State.windowResult_lane (s : State) (n c : Nat) (o : OpenWin) (xs : List Int) (g : Nat) :
    (s.windowResult n c o xs).lane g = s.lane g := by
  rw [State.windowResult_eq, State.recordResult_lane, State.sendVerdict_same (fun s => s.lane g) (fun _ _ => rfl), State.wr_lane,
    State.warnEcc_lane, State.warn_lane, State.countFixes, State.wr_lane, (lane_offLost n g).noteEnd]

/-- The last verdict shown is that of the result. -/
theorem State.windowResult_lastV (s : State) (n c : Nat) (o : OpenWin) (xs : List Int) :
    (s.windowResult n c o xs).rd (R.rdLaneStatus_last_v n c) = (s.winResult n o (s.adcWords n (tFirst o.first) 2 xs)).verdict % 4 := by
  have off : OffLost n fun s => s.rd (R.rdLaneStatus_last_v n c) := by
    refine rd_offLost ?_
    simp only [lostFields, List.forall_mem_cons, List.not_mem_nil, false_imp_iff, implies_true, and_true, R.rdLaneStatus_last_v,
      R.rdResLost_res_lost, R.rdStatus_res_drop, R.seqStatus_shot_invalid, R.seqInvalid_invalid_count]
    omega
  have recorded (u : State) (r : WinRes) : (u.recordResult n c o r).rd (R.rdLaneStatus_last_v n c) = u.rd (R.rdLaneStatus_last_v n c) :=
    State.ite_same (fun s => s.rd (R.rdLaneStatus_last_v n c)) (off.queueRec (fun _ _ => rfl) u _) rfl
  rw [State.windowResult_eq, recorded, State.sendVerdict_same (fun s => s.rd (R.rdLaneStatus_last_v n c)) (fun _ _ => rfl), State.rd_wr]
  rfl

/-! ### The result writer -/

theorem exec_resultRecordWrite (t : Nat) {n : Fin 64} {r : RecQ} {l : List RecQ} {s : State} (lit : s.svc.svc ≠ .dark)
    (front : (s.comb n).recs = r :: l) (first : (s.at t).earlierRec n r.tLast r.lane = false) :
    exec (.resultRecordWrite t n) s = .next ((s.at t).drainRec n r l) := by
  change execResultRecordWrite t n s = _
  simp only [execResultRecordWrite, State.at_comb, front, first, State.at_awake_of_ne t lit, and_self, if_true]

/-- The ring of a Comb is good and not full. -/
structure State.RingOpen (s : State) (n : Nat) : Prop where
  good : s.rd (R.rdStatus_ring_bad n) = 0
  room : (s.rd (R.rdResWr_res_wr n) + 1) % s.ringSize n ≠ s.rd (R.rdResRd_res_rd n)

theorem State.drainRec_open {s : State} {n : Nat} (free : s.RingOpen n) (r : RecQ) (l : List RecQ) :
    s.drainRec n r l = (s.setComb n { s.comb n with recs := l }).writeRec n r := by
  obtain ⟨good, room⟩ := free
  refine if_neg ?_
  rintro (bad | full)
  · rw [State.flag, State.setComb_rd, good] at bad
    exact absurd bad (by decide)
  · exact room full

theorem State.cleanChunk_same {β : Type} (φ : State → β) (memo : ∀ (s : State) m, φ (s.setMemo m) = φ s)
    (poison : ∀ (s : State) l, φ { s with poison := l } = φ s) (s : State) (chunk : Nat) : φ (s.cleanChunk chunk) = φ s :=
  (poison _ _).trans (memo _ _)

/-- What a write of whole chunks of HBM keeps. -/
theorem State.putChunks_same {β : Type} (φ : State → β) (memo : ∀ (s : State) m, φ (s.setMemo m) = φ s)
    (poison : ∀ (s : State) l, φ { s with poison := l } = φ s) (hbm : ∀ (s : State) h, φ { s with hbm := h } = φ s) (s : State) (a : Nat)
    (bs : List Byte) : φ (s.putChunks a bs) = φ s := by
  unfold State.putChunks
  rw [State.foldl_same φ (fun s i => State.cleanChunk_same φ memo poison s (a / 32 + i)), putHbm_eq]
  exact hbm _ _

/-- The bytes of a record that is written (R200: two records to a chunk). -/
def State.recBytes (s : State) (n : Nat) (r : RecQ) : List Byte :=
  if s.rd (R.rdResWr_res_wr n) % 2 = 0 then leBytes 16 r.bits ++ leBytes 16 0 else leBytes 16 (s.comb n).half ++ leBytes 16 r.bits

/-- The chunk of a record is written and kept for the next one. -/
def State.putRec (s : State) (n : Nat) (r : RecQ) (a : Nat) : State :=
  (s.putChunks a (s.recBytes n r)).setComb n { s.comb n with half := r.bits }

theorem State.writeRec_eq (s : State) (n : Nat) (r : RecQ) : ∃ a v, s.writeRec n r =
    (if r.bits.testBit 127 then (s.putRec n r a).wr (R.rdResWr_res_wr n) v
      else ((s.putRec n r a).wr (R.rdResWr_res_wr n) v).editShot n r.shot fun x => { x with recs := x.recs + 1 }) ∧
    v = (s.rd (R.rdResWr_res_wr n) + 1) % (s.putRec n r a).ringSize n := 
  ⟨(s.comb n).resStart + s.ard (R.rdResBase_res_base n) * 4096 + s.rd (R.rdResWr_res_wr n) / 2 * 32, _, rfl, rfl⟩

theorem State.editShot_same {β : Type} (φ : State → β) {n : Nat} (seq : ∀ (s : State) x, φ (s.setSeq n x) = φ s) (s : State) (k : Option Nat)
    (f : Shot → Shot) : φ (s.editShot n k f) = φ s := by
  cases k with
  | none => rfl
  | some k => exact seq s _

theorem State.putRec_same {β : Type} (φ : State → β) (memo : ∀ (s : State) m, φ (s.setMemo m) = φ s)
    (poison : ∀ (s : State) l, φ { s with poison := l } = φ s) (hbm : ∀ (s : State) h, φ { s with hbm := h } = φ s)
    (comb : ∀ (s : State) n x, φ (s.setComb n x) = φ s) (s : State) (n : Nat) (r : RecQ) (a : Nat) : φ (s.putRec n r a) = φ s :=
  (comb _ _ _).trans (State.putChunks_same φ memo poison hbm s a _)

theorem State.putRec_recs (s : State) (n : Nat) (r : RecQ) (a : Nat) : ((s.putRec n r a).comb n).recs = (s.comb n).recs := by
  rw [State.putRec, State.setComb_comb_self]

/-- A record that is written: the queue is as it was, and the write index one further. -/
theorem State.writeRec_reads (s : State) (n : Nat) (r : RecQ) : ((s.writeRec n r).comb n).recs = (s.comb n).recs ∧
    (s.writeRec n r).rd (R.rdResWr_res_wr n) = (s.rd (R.rdResWr_res_wr n) + 1) % s.ringSize n % 2 ^ 28 ∧ (s.writeRec n r).flash = s.flash := by
  obtain ⟨a, v, run, hv⟩ := s.writeRec_eq n r
  have size : (s.putRec n r a).ringSize n = s.ringSize n :=
    State.putRec_same (fun s => s.ringSize n) (fun _ _ => rfl) (fun _ _ => rfl) (fun _ _ => rfl) (fun _ _ _ => rfl) s n r a
  have flash : (s.putRec n r a).flash = s.flash :=
    State.putRec_same State.flash (fun _ _ => rfl) (fun _ _ => rfl) (fun _ _ => rfl) (fun _ _ _ => rfl) s n r a
  have edited {β : Type} (φ : State → β) (seq : ∀ (s : State) x, φ (s.setSeq n x) = φ s) :
      φ (s.writeRec n r) = φ ((s.putRec n r a).wr (R.rdResWr_res_wr n) v) := by
    rw [run]
    exact State.ite_same φ rfl (State.editShot_same φ seq _ _ _)
  refine ⟨?_, ?_, ?_⟩
  · rw [edited (fun s => (s.comb n).recs) fun _ _ => rfl, State.wr_comb, State.putRec_recs]
  · rw [edited (fun s => s.rd (R.rdResWr_res_wr n)) fun _ _ => rfl, State.rd_wr, hv, size]
    rfl
  · rw [edited State.flash fun _ _ => rfl, State.wr_flash, flash]

/-! ### Trailers -/

theorem svc_settleTo (s : State) (n x : Nat) : (s.settleTo n x).svc = s.svc := by
  have read : (s.readAll n).svc = s.svc :=
    State.foldl_same State.svc (fun s c => State.readEnv_same State.svc (fun _ _ => rfl) (fun _ _ => rfl) (fun _ => rfl) (fun _ => rfl)
      (fun s k => svc_offOutputs.markShot s n k) s) _ s
  have judged (a len : Nat) : ((s.readAll n).judgeSpan n a len).svc = (s.readAll n).svc :=
    State.ite_same State.svc (State.clipSpan_same State.svc (fun s p t => State.reportClip_same State.svc (fun _ _ => rfl) (fun _ _ => rfl)
      (fun s t k => svc_offOutputs.fireSAt s t n k) s t) len _ a) rfl
  rw [State.settleTo_eq, State.setComb_svc, judged, read]

theorem exec_shotTrailer (t : Nat) {e : Nat} {n : Fin 64} {x : Shot} {s : State} (lit : s.svc.svc ≠ .dark)
    (done : ((s.at t).settleNow n).shotDone n = some (x, e)) (loud : s.svc.muteHigh = true) :
    exec (.shotTrailer t n) s = .next ((((s.at t).settleNow n).tellShots n).shotTrailer n x e) := by
  have svc : ((s.at t).settleNow n).svc = s.svc := (svc_settleTo _ _ _).trans (State.at_svc s t)
  have awake : ((s.at t).settleNow n).awake = true := (State.awake_iff _).mpr (by rwa [svc])
  change execShotTrailer t n s = _
  simp only [execShotTrailer, done, svc, loud, awake, Bool.true_eq_false, false_and, decide_false, Bool.or_false, Bool.false_eq_true,
    if_false, if_true]

/-! ### Speculations -/

/-- The way that a speculation takes by default. -/
def Spec.dflt (x : Spec) : Nat := if x.cset.dfltEn then x.cset.dfltWay % 2 else 0

theorem State.verdictMissing_flag (s : State) (n : Nat) (k : Option Nat) :
    (s.verdictMissing n k).rd (R.seqStatus_verdict_missing n) = 1 := by
  rw [State.verdictMissing, State.markShot_frame _ n k (by simp only [R.seqStatus_verdict_missing, R.seqStatus_shot_invalid]; omega)]
  exact State.rd_wr s _ 1

theorem State.verdictMissing_comb (s : State) (n : Nat) (k : Option Nat) (m : Nat) : (s.verdictMissing n k).comb m = s.comb m :=
  ((comb_offLost n m).markShot _ k).trans rfl

/-- The only speculation of a Comb takes its default. -/
theorem State.specDefault_alone {s : State} {n : Nat} {x : Spec} (only : (s.comb n).specs = [x]) :
    ((s.specDefault n x).comb n).specs = [{ x with way := some x.dflt }] := by
  rw [State.specDefault, State.verdictMissing_comb, State.setComb_comb_self, only]
  simp only [List.map_cons, List.map_nil, if_true, Spec.dflt]

/-- The speculations whose decision can wait no longer. -/
def State.dueSpecs (s : State) (n : Nat) : List Spec := (s.comb n).specs.filter fun x => decide (x.way = none ∧ x.ts ≤ s.dial + 562)

theorem exec_specCutoff (t : Nat) (n : Fin 64) (s : State) : exec (.specCutoff t n) s =
    if (s.at t).awake then .next (((s.at t).dueSpecs n).foldl (fun v x => v.specDefault n x) (s.at t)) else .next (s.at t) := rfl

/-- Settles O36: the first clauses are equations of their commands; the others follow the lane, the queue and the speculation through them. -/
theorem windowsRecordsAndTrailers : Obligations.WindowsRecordsAndTrailers := by
  refine ⟨?opens, ?current, ?ending, ?drain, ?trailer, ?cutoff, ?alone, ?forced, ?written, ?dflt, ?nothing⟩
  case opens => exact fun t n c w s next runs due => .of_eq (exec_windowOpen t next runs due) rfl
  case current => exact fun t n c o x s none cur done lit => .of_eq (exec_windowClose_current t x none cur done lit) rfl
  case ending => exact fun t n c o l x s front done lit => .of_eq (exec_windowClose_ending t x front done lit) rfl
  case drain => exact fun t n r l s lit front first => .of_eq (exec_resultRecordWrite t lit front first) rfl
  case trailer => exact fun t e n x s lit done loud => .of_eq (exec_shotTrailer t lit done loud) rfl
  case cutoff =>
    intro t n s lit
    refine .of_awake lit (exec_specCutoff t n s) ?_
    rw [State.dueSpecs, State.at_comb]
  case alone =>
    intro t n c w s only idle runs due inTime uncut
    have next : nextWin (s.lane (8 * n + c)).wins = some w := by rw [only]; rfl
    refine .of_eq (exec_windowOpen t next runs due) ?_
    obtain ⟨o, x, y, opened, wins, cur, ho⟩ :=
      State.windowOpen_alone (s := s.at t) (n := n) (c := c) (by rwa [State.at_lane]) (by rwa [State.at_lane]) inTime
    rw [opened]
    refine ⟨?_, ?_, ((s.at_SameBut t _).setLane _ x).setLane _ y⟩
    · rw [State.setLane_lane_self, wins]
    · rw [State.setLane_lane_self, cur, Option.map_some, ho, State.openWin_uncut _ _ _ uncut]
  case forced =>
    intro t n c o x s none cur done forced lit
    refine .of_eq (exec_windowClose_current t x none cur done lit) ?_
    refine ⟨?_, ?_⟩
    · rw [State.windowResult_lane, State.setLane_lane_self]
    · rw [State.windowResult_lastV, State.winResult_forced _ _ forced]
  case written =>
    intro t n r l s lit front first good room
    refine .of_eq (exec_resultRecordWrite t lit front first) ?_
    have size : (s.at t).ringSize n = s.ringSize n := by rw [State.ringSize, State.at_ard, State.ringSize]
    have free : (s.at t).RingOpen n := ⟨by rwa [State.at_rd], by rwa [State.at_rd, State.at_rd, size]⟩
    obtain ⟨recs, wr, flash⟩ := ((s.at t).setComb n { (s.at t).comb n with recs := l }).writeRec_reads n r
    rw [State.drainRec_open free]
    refine ⟨?_, ?_, ?_⟩
    · rw [recs, State.setComb_comb_self]
    · rw [wr, State.setComb_rd, State.at_rd, ← size]
      rfl
    · rw [flash, State.setComb_flash, State.at_flash]
  case dflt =>
    intro t n x s lit only undecided due
    refine .of_awake lit (exec_specCutoff t n s) ?_
    have one : (s.at t).dueSpecs n = [x] := by
      rw [State.dueSpecs, State.at_comb, only, List.filter_cons, if_pos (decide_eq_true ⟨undecided, due⟩), List.filter_nil]
    rw [one, List.foldl_cons, List.foldl_nil]
    exact ⟨State.specDefault_alone (by rwa [State.at_comb]), State.verdictMissing_flag _ n _⟩
  case nothing =>
    intro t n s lit far
    refine .of_awake lit (exec_specCutoff t n s) ?_
    have none : (s.at t).dueSpecs n = [] := by
      rw [State.dueSpecs, State.at_comb, List.filter_eq_nil_iff]
      intro x hx due
      obtain ⟨undecided, late⟩ := of_decide_eq_true due
      exact (far x hx).elim (fun decided => decided undecided) (fun h => absurd late (by omega))
    rw [none, List.foldl_nil]

end Sys2Proof.Machine
end

section
/-! SUPPORT. Swarm messages and the swarm coordinator (R245 to R252). -/

namespace Sys2Proof.Machine

/-! ### The coordinator's go -/

theorem State.swarmGo_busy {s : State} (busy : s.swm.running = true) : s.swarmGo = s.wr R.swmCtl_result rBUSY := if_pos busy

theorem State.swarmGo_alone {s : State} (idle : s.swm.running = false) (alone : s.swarmParts = []) :
    s.swarmGo = s.wr R.swmCtl_result rRANGE :=
  (if_neg (by rw [idle]; decide)).trans (if_pos alone)

/-- The registers of a swarm that begins. -/
def State.openSwarm (s : State) : State :=
  ((((s.wr R.swmCtl_swarm_no (s.rd R.swmCtl_swarm_no + 1)).wr R.swmCtl_result rOK).wr R.swmStatus_phase 1).wr R.swmStatus_votes 0).wr
    R.swmStatus_acks 0

/-- The time asked for a swarm, as 40 bits. -/
def State.swarmTime (s : State) : Nat := s.rd R.swmTLo_t_lo + 2 ^ 32 * s.rd R.swmTHi_t_hi

/-- The swarm that begins, of one participant that is another Hive. -/
def State.newSwarm (s : State) (d : Nat) : SwarmSt :=
  { s.swm with running := true, txnNo := s.rd R.swmCtl_txn_no, t := expand40 s.swarmTime s.dial, shot := s.openSwarm.flag R.swmCtl_mode,
               parts := [d], self := false, yes := [], acked := [], guard := s.swarmG }

/-- The request for a swarm of `d` alone is in order. -/
structure State.SwarmReady (s : State) (d : Nat) : Prop where
  idle : s.swm.running = false
  parts : s.swarmParts = [d]
  ahead : ((4 * s.swarmL1 + 1792 + s.swarmG : Nat) : Int) ≤ diff40 s.swarmTime s.dial
  wide : 2 * s.swarmL1 + 1024 ≤ s.swarmG
  others : s.rd R.swmCtl_self = 0

theorem State.swarmGo_begins {s : State} {d : Nat} (ready : s.SwarmReady d) : ∃ m r,
    s.swarmGo = ((s.openSwarm.setSwm (s.newSwarm d)).sendTo m).addRec r := by
  obtain ⟨idle, parts, ahead, wide, others⟩ := ready
  have noSelf : s.flag R.swmCtl_self = false := decide_eq_false (by rw [others]; decide)
  rw [State.swarmTime] at ahead
  unfold State.swarmGo
  dsimp only
  rw [if_neg (by rw [idle]; decide), if_neg (by rw [parts]; exact List.cons_ne_nil _ _), if_neg (not_lt.mpr ahead),
    if_neg (not_lt.mpr wide), noSelf, if_neg (fun h => absurd h.1 (by decide)), parts,
    if_neg Bool.false_ne_true, List.foldl_cons, List.foldl_nil]
  have begun : ∀ u : State, (∃ m r, ((u.sendTo (swarmMsg u 1 d 0)).addRec (newRec (u.sendTo (swarmMsg u 1 d 0)).myId
      ((u.sendTo (swarmMsg u 1 d 0)).rd R.swmCtl_swarm_no) none)) = (u.sendTo m).addRec r) := fun u => ⟨_, _, rfl⟩
  unfold State.newSwarm State.swarmTime
  exact begun _

theorem State.sendTo_same {β : Type} (φ : State → β) (port : ∀ (s : State) p x, φ (s.setPort p x) = φ s) (s : State) (m : SwarmMsg) :
    φ (s.sendTo m) = φ s := by
  unfold State.sendTo
  split
  · rfl
  · exact State.ite_same φ (port _ _ _) rfl

theorem State.addRec_rd (s : State) (r : SwarmRec) (f : Fld) : (s.addRec r).rd f = s.rd f := rfl

/-- The swarm that has begun. -/
theorem State.swarmGo_reads {s : State} {d : Nat} (ready : s.SwarmReady d) :
    s.swarmGo.swm.running = true ∧ s.swarmGo.swm.parts = [d] ∧ s.swarmGo.swm.guard = s.swarmG ∧
      s.swarmGo.swm.t = expand40 s.swarmTime s.dial ∧ s.swarmGo.rd R.swmCtl_result = 0 ∧ s.swarmGo.rd R.swmStatus_phase = 1 ∧
      s.swarmGo.rd R.swmCtl_swarm_no = (s.rd R.swmCtl_swarm_no + 1) % 2 ^ 16 := by
  obtain ⟨m, r, begun⟩ := State.swarmGo_begins ready
  have sent {β : Type} (φ : State → β) (port : ∀ (s : State) p x, φ (s.setPort p x) = φ s) := State.sendTo_same φ port (s.openSwarm.setSwm (s.newSwarm d)) m
  have swm : ((s.openSwarm.setSwm (s.newSwarm d)).sendTo m).swm = s.newSwarm d := sent State.swm fun _ _ _ => rfl
  have added : (((s.openSwarm.setSwm (s.newSwarm d)).sendTo m).addRec r).swm = { s.newSwarm d with recs := (r :: (s.newSwarm d).recs).take 64 } := by
    rw [State.addRec, swm]
  have reg (f : Fld) : s.swarmGo.rd f = s.openSwarm.rd f := by
    rw [begun, State.addRec_rd, sent (fun s => s.rd f) fun _ _ _ => rfl, State.setSwm_rd]
  rw [reg, reg, reg, begun, added]
  simp only [State.newSwarm, true_and]
  refine ⟨?_, ?_, ?_⟩
  · rw [State.openSwarm, State.rd_wr_ne _ _ (by decide), State.rd_wr_ne _ _ (by decide), State.rd_wr_ne _ _ (by decide), State.rd_wr]
    rfl
  · rw [State.openSwarm, State.rd_wr_ne _ _ (by decide), State.rd_wr_ne _ _ (by decide), State.rd_wr]
    rfl
  · rw [State.openSwarm, State.rd_wr_ne _ _ (by decide), State.rd_wr_ne _ _ (by decide), State.rd_wr_ne _ _ (by decide),
      State.rd_wr_ne _ _ (by decide), State.rd_wr]
    rfl

theorem State.at_swarmReady {s : State} {t d : Nat} (idle : s.swm.running = false) (parts : s.swarmParts = [d])
    (ahead : ((4 * s.swarmL1 + 1792 + s.swarmG : Nat) : Int) ≤ diff40 s.swarmTime (s.at t).dial) (wide : 2 * s.swarmL1 + 1024 ≤ s.swarmG)
    (others : s.rd R.swmCtl_self = 0) : (s.at t).SwarmReady d where
  idle := by rwa [State.at_swm]
  parts := by rwa [State.at_swarmParts]
  ahead := by rwa [State.at_swarmL1, State.at_swarmG, State.swarmTime, State.at_rd, State.at_rd]
  wide := by rwa [State.at_swarmL1, State.at_swarmG]
  others := by rwa [State.at_rd]

/-! ### Messages for this Hive and for others -/

section
variable {t : Nat} {p : Fin 8} {m : SwarmMsg} {s v : State}

theorem exec_prepare (taken : (s.at t).takeSwarm p 1 = some (m, v)) (joined : v.inChain = true) : exec (.prepare t p) s =
    .next (if m.dest ≠ v.myId then v.sendTo m else (v.prepare m.txn m.coord m.swarm m.t m.shot).2.sendTo
      { m with kind := 2, sender := v.myId, dest := m.coord, code := (v.prepare m.txn m.coord m.swarm m.t m.shot).1 }) := by
  change execPrepare t p s = _
  simp only [execPrepare, taken, joined, Bool.true_eq_false, if_false]
  exact (apply_ite Host.Outcome.next _ _ _).symm

theorem exec_vote (taken : (s.at t).takeSwarm p 2 = some (m, v)) (joined : v.inChain = true) : exec (.vote t p) s =
    .next (if m.dest ≠ v.myId then v.sendTo m
      else if v.swm.running ∧ m.coord = v.myId ∧ m.swarm = v.rd R.swmCtl_swarm_no ∧ v.rd R.swmStatus_phase = 1 ∧
        v.swm.parts.contains m.sender then (if m.code = rOK then v.countYes m.sender else v.swarmAbort) else v) := by
  change execVote t p s = _
  simp only [execVote, taken, joined, Bool.true_eq_false, if_false]
  rw [apply_ite Host.Outcome.next, apply_ite Host.Outcome.next, apply_ite Host.Outcome.next, apply_ite Host.Outcome.next]

theorem exec_ack (taken : (s.at t).takeSwarm p 4 = some (m, v)) (joined : v.inChain = true) : exec (.ack t p) s =
    .next (if m.dest ≠ v.myId then v.sendTo m
      else if v.swm.running ∧ m.coord = v.myId ∧ m.swarm = v.rd R.swmCtl_swarm_no ∧ v.rd R.swmStatus_phase = 2 ∧
        v.swm.parts.contains m.sender ∧ v.dial + v.swm.guard ≤ v.swm.t then v.countAck m.sender else v) := by
  change execAck t p s = _
  simp only [execAck, taken, joined, Bool.true_eq_false, if_false]
  rw [apply_ite Host.Outcome.next, apply_ite Host.Outcome.next]

theorem exec_swarmCommit (taken : (s.at t).takeSwarm p 3 = some (m, v)) (joined : v.inChain = true) (fresh : v.flooded m = false) :
    exec (.swarmCommit t p) s = .next (if ((v.floodOut m (some p.val)).takeCommit m.coord m.swarm).1 then
      ((v.floodOut m (some p.val)).takeCommit m.coord m.swarm).2.sendTo
        { m with kind := 4, sender := (v.floodOut m (some p.val)).myId, dest := m.coord }
      else ((v.floodOut m (some p.val)).takeCommit m.coord m.swarm).2) := by
  change execSwarmCommit t p s = _
  simp only [execSwarmCommit, taken, joined, fresh, Bool.true_eq_false, Bool.false_eq_true, or_self, if_false]

theorem exec_swarmAbort (taken : (s.at t).takeSwarm p 5 = some (m, v)) (joined : v.inChain = true) (fresh : v.flooded m = false) :
    exec (.swarmAbort t p) s = .next ((v.floodOut m (some p.val)).takeAbort m.coord m.swarm) := by
  change execSwarmAbort t p s = _
  simp only [execSwarmAbort, taken, joined, fresh, Bool.true_eq_false, Bool.false_eq_true, or_self, if_false]

/-- What a question about a swarm leads to, by the outcome on record. -/
def State.answerQuery (s : State) (m : SwarmMsg) : Option (Option Nat) → State
  | none => s
  | some none => s.setRec m.coord m.swarm fun r => { r with askers := r.askers ++ [m.sender] }
  | some (some o) => s.answerStatus m.coord m.swarm m.sender o

theorem exec_statusQ (taken : (s.at t).takeSwarm p 6 = some (m, v)) (joined : v.inChain = true) (fresh : v.flooded m = false) :
    exec (.statusQ t p) s = .next ((v.floodOut m (some p.val)).answerQuery m
      (((v.floodOut m (some p.val)).findRec m.coord m.swarm).map (·.outcome))) := by
  change execStatusQ t p s = _
  simp only [execStatusQ, taken, joined, fresh, Bool.true_eq_false, Bool.false_eq_true, or_self, if_false]
  split
  next none => rw [none]; rfl
  next undecided => rw [undecided]; rfl
  next o decided => rw [decided]; rfl

/-- A STATUS_A to an open question: the question is closed and the record has the peer's outcome. -/
def State.closeAsk (s : State) (m : SwarmMsg) : State :=
  (s.setSwm { s.swm with asks := s.swm.asks.filter fun a => ¬ (a.1 = m.coord ∧ a.2.1 = m.swarm) }).setRec m.coord m.swarm
    fun r => { r with peer := some m.code }

/-- The orphan shown, brought up to date. -/
def State.refreshOrphan (s : State) (coord swarm : Nat) : State :=
  match s.findRec coord swarm with
  | some r => s.showOrphan r
  | none => s

theorem exec_statusA (taken : (s.at t).takeSwarm p 7 = some (m, v)) (joined : v.inChain = true) : exec (.statusA t p) s =
    .next (if m.dest ≠ v.myId then v.sendTo m
      else if v.swm.asks.any fun a => decide (a.1 = m.coord ∧ a.2.1 = m.swarm) then
        (if (v.closeAsk m).rd R.swmOrph0_orph_swarm = m.swarm ∧ (v.closeAsk m).rd R.swmOrph0_orph_coord = m.coord then
          (v.closeAsk m).refreshOrphan m.coord m.swarm else v.closeAsk m) else v) := by
  change execStatusA t p s = _
  simp only [execStatusA, taken, joined, Bool.true_eq_false, if_false]
  rw [apply_ite Host.Outcome.next, apply_ite Host.Outcome.next, apply_ite Host.Outcome.next]
  rfl

end

/-! ### Questions that end -/

/-- The registers of the orphan shown. -/
abbrev orphFields : List Fld := [R.swmOrph0_orph_swarm, R.swmOrph0_orph_coord, R.swmOrph0_orph_outcome, R.swmOrph1_orph_peer]

theorem State.showOrphan_frame {u v : State} (r : SwarmRec) (h : u.SameBut v orphFields) :
    (u.showOrphan r).SameBut v orphFields ∧ (u.showOrphan r).swm = u.swm := by
  unfold State.showOrphan
  split
  · exact ⟨h, rfl⟩
  · exact ⟨(((h.wr _ _ (by simp [orphFields])).wr _ _ (by simp [orphFields])).wr _ _ (by simp [orphFields])).wr _ _ (by simp [orphFields]), rfl⟩

theorem State.refreshOrphan_frame {u v : State} (coord swarm : Nat) (h : u.SameBut v orphFields) :
    (u.refreshOrphan coord swarm).SameBut v orphFields ∧ (u.refreshOrphan coord swarm).swm = u.swm := by
  unfold State.refreshOrphan
  split
  · exact State.showOrphan_frame _ h
  · exact ⟨h, rfl⟩

theorem State.closeAsk_SameBut (s : State) (m : SwarmMsg) (fs : List Fld) : (s.closeAsk m).SameBut s fs := s.SameBut_refl fs

theorem State.closeAsk_asks (s : State) {m : SwarmMsg} {d : Nat} (only : s.swm.asks = [(m.coord, m.swarm, d)]) :
    (s.closeAsk m).swm.asks = [] := by
  simp only [State.closeAsk, State.setRec, State.setSwm, only, List.filter_cons, List.filter_nil, and_self, not_true_eq_false, decide_false,
    Bool.false_eq_true, if_false]

/-- The one open question is dropped, and the orphan's peer with it. -/
def State.dropAsk (s : State) (coord swarm : Nat) : State :=
  if s.rd R.swmOrph0_orph_swarm = swarm ∧ s.rd R.swmOrph0_orph_coord = coord then
    (s.setSwm { s.swm with asks := [] }).wr R.swmOrph1_orph_peer 0
  else s.setSwm { s.swm with asks := [] }

theorem exec_statusNoAnswer {t a b d : Nat} {s : State} (only : s.swm.asks = [(a, b, d)]) (old : d + msTicks ≤ (s.at t).dial) :
    exec (.statusNoAnswer t) s = .next ((s.at t).dropAsk a b) := by
  change execStatusNoAnswer t s = _
  simp only [execStatusNoAnswer, State.at_swm, only, List.filter_cons, List.filter_nil, old, not_true_eq_false, decide_false,
    Bool.false_eq_true, if_true, if_false, List.cons_ne_nil, List.any_cons, List.any_nil, Bool.or_false, decide_eq_true_eq, State.setSwm_rd]
  rw [State.dropAsk, State.at_swm]
  exact (apply_ite Host.Outcome.next _ _ _).symm

theorem State.dropAsk_asks (s : State) (a b : Nat) : (s.dropAsk a b).swm.asks = [] := State.ite_same (fun s => s.swm.asks) rfl rfl

/-- Settles O40: the messages are equations of their commands by destination and state; the go of one participant is followed to its end. -/
theorem swarmMessagesTravel : Obligations.SwarmMessagesTravel := by
  refine ⟨?busy, ?noParts, ?guard, ?prepare, ?voteIdle, ?commit, ?ackIdle, ?abort, ?queryNone, ?answerNone, ?prepareOn, ?voteOn, ?ackOn,
    ?answerOn, ?noAnswer, ?vote, ?ack, ?answer, ?begins, ?queryKnown, ?queryOpen⟩
  case busy => exact fun t s up busy => .of_hostCmd up rfl (State.swarmGo_busy (by rwa [State.at_swm]))
  case noParts =>
    exact fun t s up idle alone => .of_hostCmd up rfl (State.swarmGo_alone (by rwa [State.at_swm]) (by rwa [State.at_swarmParts]))
  case guard => exact fun t s runs due => .of_pos rfl ⟨by rwa [State.at_swm], by rwa [State.at_swm]⟩ rfl
  case prepare =>
    exact fun t p m s v taken joined mine => .of_eq (exec_prepare taken joined) (if_neg (not_not_intro mine))
  case voteIdle =>
    exact fun t p m s v taken joined mine idle => .of_eq (exec_vote taken joined)
      ((if_neg (not_not_intro mine)).trans (if_neg (by rw [idle]; simp)))
  case commit => exact fun t p m s v taken joined fresh => .of_eq (exec_swarmCommit taken joined fresh) rfl
  case ackIdle =>
    exact fun t p m s v taken joined mine idle => .of_eq (exec_ack taken joined)
      ((if_neg (not_not_intro mine)).trans (if_neg (by rw [idle]; simp)))
  case abort => exact fun t p m s v taken joined fresh => .of_eq (exec_swarmAbort taken joined fresh) rfl
  case queryNone =>
    intro t p m s v taken joined fresh none
    refine .of_eq (exec_statusQ taken joined fresh) ?_
    rw [none]
    rfl
  case answerNone =>
    intro t p m s v taken joined mine closed
    exact .of_eq (exec_statusA taken joined) ((if_neg (not_not_intro mine)).trans (if_neg (by rw [closed]; exact Bool.false_ne_true)))
  case prepareOn => exact fun t p m s v taken joined other => .of_eq (exec_prepare taken joined) (if_pos other)
  case voteOn => exact fun t p m s v taken joined other => .of_eq (exec_vote taken joined) (if_pos other)
  case ackOn => exact fun t p m s v taken joined other => .of_eq (exec_ack taken joined) (if_pos other)
  case answerOn => exact fun t p m s v taken joined other => .of_eq (exec_statusA taken joined) (if_pos other)
  case noAnswer =>
    intro t a b d s only old
    refine .of_eq (exec_statusNoAnswer only old) ⟨?_, State.dropAsk_asks _ a b⟩
    rw [State.dropAsk, State.at_rd, State.at_rd, State.at_swm]
  case vote =>
    intro t p m s v taken joined mine runs coord number phase part yes
    exact .of_eq (exec_vote taken joined) ((if_neg (not_not_intro mine)).trans
      ((if_pos ⟨runs, coord, number, phase, List.contains_iff_mem.mpr part⟩).trans (if_pos yes)))
  case ack =>
    intro t p m s v taken joined mine runs coord number phase part inTime
    exact .of_eq (exec_ack taken joined) ((if_neg (not_not_intro mine)).trans
      (if_pos ⟨runs, coord, number, phase, List.contains_iff_mem.mpr part, inTime⟩))
  case answer =>
    intro t p m s v taken joined mine only
    refine .of_eq (exec_statusA taken joined) ?_
    have asked : (v.swm.asks.any fun a => decide (a.1 = m.coord ∧ a.2.1 = m.swarm)) = true := by
      rw [only, List.any_cons, decide_eq_true ⟨rfl, rfl⟩]
      rfl
    rw [if_neg (not_not_intro mine), if_pos asked]
    obtain ⟨same, swm⟩ := State.refreshOrphan_frame m.coord m.swarm (v.closeAsk_SameBut m orphFields)
    have closed := v.closeAsk_asks only
    split
    · exact ⟨by rw [swm, closed], same⟩
    · exact ⟨closed, v.closeAsk_SameBut m _⟩
  case begins =>
    intro t d s up idle parts ahead wide others
    refine .of_hostCmd up rfl ?_
    have begun := State.swarmGo_reads (State.at_swarmReady idle parts ahead wide others)
    rwa [State.at_swarmG, State.swarmTime, State.at_rd, State.at_rd, State.at_rd] at begun
  case queryKnown =>
    intro t p m r o s v taken joined fresh found known
    refine .of_eq (exec_statusQ taken joined fresh) ?_
    rw [found, Option.map_some, known]
    rfl
  case queryOpen =>
    intro t p m r s v taken joined fresh found undecided
    refine .of_eq (exec_statusQ taken joined fresh) ?_
    rw [found, Option.map_some, undecided]
    rfl

end Sys2Proof.Machine
end

section
/-! SUPPORT. Capture ports (R281 to R298); staged codes, LOADs and trips of the Bias outputs (R308 to R318). -/

namespace Sys2Proof.Machine

/-! ### Capture -/

theorem exec_capStop (t : Nat) (s : State) :
    exec (.capStop t) s = if (s.at t).awake then .next ((s.at t).hostCmd 0x410004 fun s => s.capStop) else .next (s.at t) := rfl

/-- A record of no samples that is over. -/
def overRecord : CapRec :=
  { no := 0, gen := 0, first := 0, sp := 1, dec := 0, pre := 0, cnt := 0, trig := 0, tTrig := 0, coinc := 0, primary := 0, auto := false,
    preShort := false, trunc := false, half := none, at' := 0, units := 0 }

/-- No port is selected; the record of port 5 is over and not yet settled. -/
def unsettled : State :=
  { State.reset with
    svc := { SvcSt.init with svc := .amber }
    caps := [(5, { CapSt.init with cur := some overRecord })] }

theorem unsettled_capStop : (((unsettled.at 0).capStop).cap 5).cur = none := by decide +kernel

/-- Refutes O42: stopping settles the records of every port first; in `unsettled` it ends the record of port 5, though no selected port is
armed. -/
theorem not_captureRuns : ¬ Obligations.CaptureRuns := by
  rintro ⟨-, stop, -⟩
  obtain ⟨u, run, same⟩ := stop 0 unsettled (Or.inl rfl) (by decide +kernel)
  have awake : (unsettled.at 0).awake = true := by decide +kernel
  rw [exec_capStop, if_pos awake, Host.Outcome.next.injEq, State.hostCmd_of_up _ _ (Or.inl rfl)] at run
  have kept : ((unsettled.at 0).cap 5).cur = none := by
    rw [← unsettled_capStop, run, same]
    rfl
  exact absurd kept (by decide +kernel)

/-! ### Staged codes and LOADs -/

theorem mem_insertStage (a : Staging) (l : List Staging) : a ∈ insertStage a l := by
  induction l with
  | nil => exact List.mem_cons_self
  | cons b l ih =>
    unfold insertStage
    split
    · exact List.mem_cons_self
    · exact List.mem_cons_of_mem b ih

theorem State.showStage_biasOut (s : State) (o k : Nat) : (s.showStage o).biasOut k = s.biasOut k := by
  unfold State.showStage
  split
  · rfl
  · exact State.clrBit_biasOut s _ _ k

theorem State.setStages_stages (s : State) (o : Nat) (l : List Staging) : ((s.setStages o l).biasOut o).stages = l :=
  ((State.showStage_biasOut _ o o).trans (State.setBias_biasOut_self s o _)).symm ▸ rfl

theorem exec_biasLoad (t : Nat) (n : Fin 64) (s : State) {l : GroupLoad} (only : s.grpLoads n = [l]) (due : l.beat ≤ (s.at t).dial)
    (inTime : l.arr + 1024 ≤ l.beat) (alone : l.iss = none) : exec (.biasLoad t n) s = .next (((s.at t).setLoads n []).loadGroup n l.beat) := by
  have taken : ([l].filter fun l => decide (l.beat ≤ (s.at t).dial)) = [l] := by rw [List.filter_cons, if_pos (decide_eq_true due), List.filter_nil]
  have left : ([l].filter fun l => decide (¬ l.beat ≤ (s.at t).dial)) = [] := by
    rw [List.filter_cons, if_neg (by rw [decide_eq_true_eq]; exact not_not_intro due), List.filter_nil]
  have good : ([l].filter fun l => decide (l.arr + 1024 ≤ l.beat)) = [l] := by
    rw [List.filter_cons, if_pos (decide_eq_true inTime), List.filter_nil]
  change execBiasLoad t n s = _
  unfold execBiasLoad
  dsimp only
  rw [State.at_grpLoads, only, taken, left, List.foldl_cons, List.foldl_nil, insertLoad, good, List.map_cons, List.map_nil,
    List.eraseDups_cons, List.filter_nil, List.eraseDups_nil, List.foldl_cons, List.foldl_nil, List.foldl_cons, List.foldl_nil, alone]
  rfl

/-! ### Clearing a trip -/

/-- Clearing the trip of output `b` of group `n`, where it is tripped and its condition is gone. -/
def State.clearTrip (s : State) (n b : Nat) : State :=
  if (s.rd (R.biasStatus_tripped n)).testBit b ∧ (s.biasOut (4 * n + b)).cond = 0 then
    ((s.clrBit (R.biasStatus_tripped n) b).clrBit (tripFld (4 * n + b)) (biasLocal (4 * n + b) % 32)).readyOut 2 (4 * n + b)
  else s

theorem State.tripClr_clear {s : State} {n : Nat} (clear : s.rd (R.biasStatus_tripped n) = 0) :
    s.tripClr n = s.wr (R.biasCmd_result n) rSTATE := if_pos clear

theorem State.tripClr_tripped {s : State} {n : Nat} (tripped : s.rd (R.biasStatus_tripped n) ≠ 0) :
    s.tripClr n = ([0, 1, 2, 3].foldl (fun s b => s.clearTrip n b) s).wr (R.biasCmd_result n) rOK := if_neg tripped

theorem State.clearTrip_not {s : State} {n b : Nat} (not : (s.rd (R.biasStatus_tripped n)).testBit b = false) : s.clearTrip n b = s :=
  if_neg fun h => absurd (not.symm.trans h.1) (by decide)

theorem State.readyOut_rd (s : State) (cause o : Nat) (f : Fld) : (s.readyOut cause o).rd f = s.rd f :=
  State.ite_same (fun s => s.rd f) rfl rfl

theorem State.clrBit_rd_ne (s : State) {f g : Fld} (other : g.key ≠ f.key) (i : Nat) : (s.clrBit f i).rd g = s.rd g :=
  State.ite_same (fun s => s.rd g) (State.rd_wr_ne s _ other) rfl

theorem tripFld_key (n o : Nat) : (R.biasStatus_tripped n).key ≠ (tripFld o).key := by
  unfold tripFld
  split
  · simp only [R.biasStatus_tripped, R.frontBiasTripLo_trip_lo]; omega
  · simp only [R.biasStatus_tripped, R.frontBiasTripHi_trip_hi]; omega

/-- The one tripped output of a group is cleared, and none is tripped then. -/
theorem State.clearTrip_rd {s : State} {n b : Nat} (only : s.rd (R.biasStatus_tripped n) = 2 ^ b)
    (gone : (s.biasOut (4 * n + b)).cond = 0) : (s.clearTrip n b).rd (R.biasStatus_tripped n) = 0 := by
  have tripped : (s.rd (R.biasStatus_tripped n)).testBit b = true := by rw [only, Nat.testBit_two_pow_self]
  rw [State.clearTrip, if_pos ⟨tripped, gone⟩, State.readyOut_rd, State.clrBit_rd_ne _ (tripFld_key n _), State.clrBit, if_pos tripped,
    State.rd_wr, only, Nat.sub_self, Nat.zero_mod]

theorem foldl_clearTrip_none {s : State} {n : Nat} (none : s.rd (R.biasStatus_tripped n) = 0) (l : List Nat) :
    l.foldl (fun s b => s.clearTrip n b) s = s := by
  induction l with
  | nil => rfl
  | cons b l ih => rw [List.foldl_cons, State.clearTrip_not (by rw [none, Nat.zero_testBit]), ih]

/-- Over outputs among which `b` is the one tripped, only it is cleared. -/
theorem foldl_clearTrip {s : State} {n b : Nat} (only : s.rd (R.biasStatus_tripped n) = 2 ^ b)
    (gone : (s.biasOut (4 * n + b)).cond = 0) {l : List Nat} (mem : b ∈ l) : l.foldl (fun s b => s.clearTrip n b) s = s.clearTrip n b := by
  induction l with
  | nil => exact absurd mem List.not_mem_nil
  | cons a l ih =>
    rw [List.foldl_cons]
    by_cases same : a = b
    · rw [same, foldl_clearTrip_none (State.clearTrip_rd only gone)]
    · rw [State.clearTrip_not (by rw [only, Nat.testBit_two_pow_of_ne (Ne.symm same)]), ih (List.mem_of_ne_of_mem (Ne.symm same) mem)]

theorem State.clearTrip_one {s : State} {n b : Nat} (only : s.rd (R.biasStatus_tripped n) = 2 ^ b)
    (gone : (s.biasOut (4 * n + b)).cond = 0) : s.clearTrip n b =
      ((s.clrBit (R.biasStatus_tripped n) b).clrBit (tripFld (4 * n + b)) (biasLocal (4 * n + b) % 32)).readyOut 2 (4 * n + b) :=
  if_pos ⟨by rw [only, Nat.testBit_two_pow_self], gone⟩

/-- Settles O43: a staged code is in its queue; of a group with one tripped output the clearing reaches that output alone. -/
theorem biasCodesStageAndLoad : Obligations.BiasCodesStageAndLoad := by
  refine ⟨?stage, ?load, ?notTripped, ?tripped, ?beat, ?one⟩
  case stage =>
    intro t v n b s up
    refine .of_hostCmd up rfl ⟨rfl, ?_⟩
    rw [State.biasStageWrite, State.stage, State.setStages_stages]
    exact mem_insertStage _ _
  case load => exact fun t n s up => .of_hostCmd up rfl ⟨rfl, State.rd_wr _ _ _⟩
  case notTripped => exact fun t n s up clear => .of_hostCmd up rfl (State.tripClr_clear (by rwa [State.at_rd]))
  case tripped =>
    intro t n s up tripped
    refine .of_hostCmd up rfl ?_
    rw [State.tripClr_tripped (by rwa [State.at_rd]), State.rd_wr]
    rfl
  case beat => exact fun t n l s only due inTime alone => .of_eq (exec_biasLoad t n s only due inTime alone) rfl
  case one =>
    intro t n b s up only gone
    have only' : (s.at t).rd (R.biasStatus_tripped n) = 2 ^ b.val := by rwa [State.at_rd]
    have gone' : ((s.at t).biasOut (4 * n + b)).cond = 0 := by rwa [State.at_biasOut]
    have mem : b.val ∈ [0, 1, 2, 3] := by rw [show [0, 1, 2, 3] = List.range 4 from rfl]; exact List.mem_range.mpr b.isLt
    refine .of_hostCmd up rfl ?_
    rw [State.tripClr_tripped (by rw [only']; exact (Nat.two_pow_pos _).ne'), foldl_clearTrip only' gone' mem,
      State.clearTrip_one only' gone']
    rfl

end Sys2Proof.Machine
end

section
/-! SUPPORT. Markers, Stamp inputs and the code-density test (R332 to R338). -/

namespace Sys2Proof.Machine

/-! ### Stamp edges -/

section
variable {t code : Nat} {mv : Int} {i : Fin 50} {s : State}

theorem exec_stampEdge_comparator (input : i.val < 32) : exec (.stampEdge t i mv code) s =
    .next (if (s.at t).takesEdges i ∧ (((s.at t).stampFollow i mv).stamp i).high ≠ ((s.at t).stamp i).high then
      ((s.at t).stampFollow i mv).takeEdge i (256 * (s.at t).dial + (s.at t).stampFrac i code) (((s.at t).stampFollow i mv).stamp i).high
      else (s.at t).stampFollow i mv) := by
  change execStampEdge t i mv code s = _
  unfold execStampEdge
  dsimp only
  rw [if_neg (by omega)]
  exact (apply_ite Host.Outcome.next _ _ _).symm

theorem exec_stampEdge_internal (source : 32 ≤ i.val) : exec (.stampEdge t i mv code) s =
    .next (if (s.at t).takesEdges i ∧ 0 < mv then (s.at t).takeEdge i (256 * (s.at t).dial + code % 256) true else s.at t) := by
  have frac : (s.at t).stampFrac i code = code % 256 := if_neg (by omega)
  change execStampEdge t i mv code s = _
  unfold execStampEdge
  dsimp only
  rw [if_pos source, frac]
  exact (apply_ite Host.Outcome.next _ _ _).symm

end

theorem State.stampFollow_regs (s : State) (i : Nat) (mv : Int) : (s.stampFollow i mv).regs = s.regs := State.ite_same State.regs rfl rfl

/-! ### Code density -/

theorem State.cdRun_busy {s : State} (busy : s.cdBusy = true) : s.cdRun = s.wr R.stpCd_result rBUSY := if_pos busy

/-- A code-density run begins for the chosen input. -/
def State.beginCd (s : State) : State := { s.wr R.stpCd_cd_busy 1 with cd := some ⟨s.rd R.stpCd_cd_in, none, 0⟩ }

theorem State.cdRun_idle {s : State} (up : s.svc.svc = .amber ∨ s.svc.svc = .green) (idle : s.cdBusy = false) :
    s.cdRun = s.beginCd.cdTakes (s.rd R.stpCd_cd_in) := by
  unfold State.cdRun
  rw [if_neg (by rw [idle]; decide), if_pos ((State.ambOrGreen_iff s).mpr up)]
  rfl

theorem State.cdTakes_same {β : Type} (φ : State → β) (abort : ∀ (s : State) u, φ (s.abortUnit u) = φ s) (s : State) (i : Nat) :
    φ (s.cdTakes i) = φ s := by
  unfold State.cdTakes
  exact State.foldl_same φ (fun s u => State.ite_same φ (abort s u) rfl) _ s

theorem State.abortUnit_cd (s : State) (u : Nat) : (s.abortUnit u).cd = s.cd := State.ite_same State.cd rfl rfl

theorem State.abortUnit_cdBusy (s : State) (u : Nat) : (s.abortUnit u).rd R.stpCd_cd_busy = s.rd R.stpCd_cd_busy := by
  refine State.ite_same (fun s => s.rd R.stpCd_cd_busy) ?_ rfl
  rw [State.idleUnit_frame _ u (by simp only [R.stpCd_cd_busy, R.stpMCmd_busy]; omega),
    State.rd_wr_ne _ _ (by simp only [R.stpCd_cd_busy, R.stpMCmd_result]; omega)]

/-- The test has counted half its hits. -/
def State.keepHalf (s : State) (c : CdSt) (l : List Nat) : State := { s with cd := some { c with half := some l } }

/-- The two halves agree: their mean is the table. -/
def State.takeTable (s : State) (c : CdSt) (a l : List Nat) : State :=
  { ((s.setLut c.input (meanLut a l)).wr R.stpCd_cd_busy 0).wr R.stpCd_result rOK with cd := none }

/-- The two halves disagree: the test begins again. -/
def State.tryAgain (s : State) (c : CdSt) : State := { s with cd := some { c with half := none, bad := c.bad + 1 } }

/-- The test is given up. -/
def State.giveUpCd (s : State) (c : CdSt) (z : Nat) : State :=
  { ((s.calDisagree (0xE00 + 4 * c.input)).wr R.stpCd_cd_busy 0).wr R.stpCd_result (cdFailCode z) with cd := none }

/-- What a finished half leads to. -/
def State.endHalf (s : State) (c : CdSt) (z : Nat) (l : List Nat) : State :=
  match c.half with
  | none => s.keepHalf c l
  | some a => if lutsAgree a l then s.takeTable c a l else if c.bad < 3 then s.tryAgain c else s.giveUpCd c z

section
variable {s : State} {c : CdSt} {a l : List Nat}

theorem State.endHalf_first (first : c.half = none) (z : Nat) : s.endHalf c z l = s.keepHalf c l := by
  unfold State.endHalf
  rw [first]

theorem State.endHalf_second (second : c.half = some a) (z : Nat) : s.endHalf c z l =
    if lutsAgree a l then s.takeTable c a l else if c.bad < 3 then s.tryAgain c else s.giveUpCd c z := by
  unfold State.endHalf
  rw [second]

end

theorem exec_cdRunComplete (t : Nat) (l : List Nat) {c : CdSt} {s : State} (runs : s.cd = some c) : exec (.cdRunComplete t l) s =
    .next ((s.at t).draw.2.endHalf c (Config.freeValue s.free) (lutOf l (Config.freeValue s.free))) := by
  change execCdRunComplete t l s = _
  unfold execCdRunComplete
  cases h : c.half with
  | none =>
    rw [State.endHalf_first h]
    simp only [State.at_cd, runs, h, State.draw, State.at_free]
    rfl
  | some a =>
    rw [State.endHalf_second h, apply_ite Host.Outcome.next, apply_ite Host.Outcome.next]
    simp only [State.at_cd, runs, h, State.draw, State.at_free]
    rfl

theorem State.takeTable_reads (s : State) (c : CdSt) (a l : List Nat) :
    (s.takeTable c a l).rd R.stpCd_cd_busy = 0 ∧ (s.takeTable c a l).rd R.stpCd_result = 0 := by
  generalize hu : s.setLut c.input (meanLut a l) = u
  have regs (f : Fld) : (s.takeTable c a l).rd f = ((u.wr R.stpCd_cd_busy 0).wr R.stpCd_result rOK).rd f := by rw [← hu]; rfl
  refine ⟨?_, ?_⟩
  · rw [regs, State.rd_wr_ne _ _ (by decide), State.rd_wr]
    rfl
  · rw [regs, State.rd_wr]
    rfl

theorem State.giveUpCd_reads (s : State) (c : CdSt) (z : Nat) :
    (s.giveUpCd c z).rd R.stpCd_cd_busy = 0 ∧ (s.giveUpCd c z).rd R.stpCd_result < rPARTIAL := by
  generalize hu : s.calDisagree (0xE00 + 4 * c.input) = u
  have regs (f : Fld) : (s.giveUpCd c z).rd f = ((u.wr R.stpCd_cd_busy 0).wr R.stpCd_result (cdFailCode z)).rd f := by rw [← hu]; rfl
  refine ⟨?_, ?_⟩
  · rw [regs, State.rd_wr_ne _ _ (by decide), State.rd_wr]
    rfl
  · rw [regs, State.rd_wr]
    exact (Nat.mod_le _ _).trans_lt (Nat.mod_lt _ (by decide))

/-- The state of a fresh draw has the registers of before. -/
theorem State.at_draw (s : State) (t : Nat) : (s.at t).draw.2.regs = s.regs ∧ (s.at t).draw.2.free = s.free + 1 :=
  ⟨State.at_regs s t, congrArg (· + 1) (State.at_free s t)⟩

/-- Settles O45: the edges and halves are equations of their commands by the comparator and the state of the test. -/
theorem markersStampsAndCodeDensity : Obligations.MarkersStampsAndCodeDensity := by
  refine ⟨?edge, ?held, ?force, ?moved, ?follows, ?busy, ?begins, ?half, ?agree, ?rise, ?noRise, ?again, ?fails⟩
  case edge => exact fun t n s lit => .of_awake lit rfl rfl
  case held => exact fun t n s up low => .of_hostCmd up rfl (if_pos (by rwa [State.at_mkr]))
  case force =>
    intro t n s up low
    refine .of_hostCmd up rfl ?_
    rw [State.markForce, if_neg (by rw [State.at_mkr]; exact not_not_intro low)]
    exact ⟨rfl, State.rd_wr _ _ _⟩
  case moved =>
    intro t code mv i s input takes _ moved
    exact .of_eq (exec_stampEdge_comparator input) (if_pos ⟨by rwa [State.at_takesEdges], by rwa [State.at_stamp]⟩)
  case follows =>
    intro t code mv i s input still
    have follow : ¬ ((s.at t).takesEdges i = true ∧ (((s.at t).stampFollow i mv).stamp i).high ≠ ((s.at t).stamp i).high) := by
      rw [State.at_takesEdges, State.at_stamp]
      rintro ⟨takes, moved⟩
      exact still.elim (fun blind => absurd (blind.symm.trans takes) (by decide)) moved
    refine .of_eq (exec_stampEdge_comparator input) ?_
    rw [if_neg follow]
    exact ⟨rfl, (State.stampFollow_regs _ _ _).trans (State.at_regs s t)⟩
  case busy => exact fun t s up busy => .of_hostCmd up rfl (State.cdRun_busy busy)
  case begins =>
    intro t s up idle
    refine .of_hostCmd up rfl ?_
    rw [State.cdRun_idle (by rwa [State.at_svc]) idle]
    refine ⟨?_, ?_⟩
    · rw [State.cdTakes_same State.cd State.abortUnit_cd, State.beginCd, State.at_rd]
    · rw [State.cdTakes_same (fun s => s.rd R.stpCd_cd_busy) State.abortUnit_cdBusy]
      exact State.rd_wr (s.at t) R.stpCd_cd_busy 1
  case half =>
    intro t l c s runs first
    obtain ⟨regs, free⟩ := s.at_draw t
    refine .of_eq (exec_cdRunComplete t l runs) ?_
    rw [State.endHalf_first first]
    exact ⟨rfl, free, regs⟩
  case agree =>
    intro t l a c s runs second agree
    refine .of_eq (exec_cdRunComplete t l runs) ?_
    rw [State.endHalf_second second, if_pos agree]
    exact ⟨rfl, rfl, State.takeTable_reads _ c a _⟩
  case rise => exact fun t code mv i s source takes up => .of_eq (exec_stampEdge_internal source) (if_pos ⟨by rwa [State.at_takesEdges], up⟩)
  case noRise =>
    intro t code mv i s source still
    refine .of_eq (exec_stampEdge_internal source) (if_neg ?_)
    rw [State.at_takesEdges]
    rintro ⟨takes, up⟩
    exact still.elim (fun blind => absurd (blind.symm.trans takes) (by decide)) (fun down => absurd up (not_lt.mpr down))
  case again =>
    intro t l a c s runs second disagree few
    obtain ⟨regs, -⟩ := s.at_draw t
    refine .of_eq (exec_cdRunComplete t l runs) ?_
    rw [State.endHalf_second second, if_neg (by rw [disagree]; decide), if_pos few]
    exact ⟨rfl, regs⟩
  case fails =>
    intro t l a c s runs second disagree many
    refine .of_eq (exec_cdRunComplete t l runs) ?_
    rw [State.endHalf_second second, if_neg (by rw [disagree]; decide), if_neg (not_lt.mpr many)]
    exact ⟨rfl, State.giveUpCd_reads _ c _⟩

end Sys2Proof.Machine
end

section
/-! SUPPORT. The memory: maps, reservations, scrubs, a lost stack, refills (R349 to R365). -/

namespace Sys2Proof.Machine

/-! ### What leaving Green keeps -/

section
variable {β : Type} {φ : State → β} (off : OffCapture φ)
include off

theorem OffCapture.markFree (s : State) (cause n : Nat) : φ (s.markFree cause n) = φ s := by
  have level (u : State) (l : Bool) : φ (u.setLevel n l) = φ u := off.wr u _ _ (by simp only [R.markStatus_level_now]; omega)
  have taken (u : State) (b : Nat) (l : Bool) : φ (u.takeLevel n b l) = φ u :=
    State.ite_same φ ((off.toOffOutputs.fireSAt _ _ _ _).trans (level u l)) (level u l)
  exact State.ite_same φ (State.ite_same φ ((taken _ _ _).trans (off.mkr s n _)) (off.mkr s n _)) rfl

theorem OffCapture.freeAsleep (s : State) : φ s.freeAsleep = φ s := by
  refine State.ite_same φ ?_ rfl
  unfold State.markFreeAll
  exact State.foldl_same φ (fun s n => off.markFree s 2 n) _ s

end

/-! ### A lost stack -/

/-- The flag that poison was met. -/
def State.hit (s : State) : Nat := s.rd R.memStatus_poison_hit

theorem hit_wr {f : Fld} (other : R.memStatus_poison_hit.key ≠ f.key) (s : State) (v : Nat) : (s.wr f v).hit = s.hit :=
  State.rd_wr_ne s v other

theorem hit_offCapture : OffCapture State.hit where
  toOffOutputs := rd_offOutputs (by decide)
  cap _ _ _ := rfl
  charges _ _ := hit_wr (f := R.memRsv_rsv_sum) (by decide) _ _

theorem State.noteCause_hit (s : State) (c : Nat) : (s.noteCause c).hit = s.hit := by
  have added : (if s.svc.causes.contains c then s else s.setSvc { s.svc with causes := s.svc.causes ++ [c] }).hit = s.hit :=
    State.ite_same State.hit rfl rfl
  exact State.ite_same State.hit ((hit_wr (by decide) _ _).trans added) (State.ite_same State.hit ((hit_wr (by decide) _ _).trans added)
    (State.ite_same State.hit added added))

theorem State.toAmber_hit (s : State) (c : Nat) : (s.toAmber c).hit = s.hit := by
  rw [State.hit, State.toAmber, State.toSvc, State.fireD_rd, State.rd_wr_ne _ _ (by decide), State.setSvc_rd,
    State.account_frame _ (by decide) (by decide), State.lifeAdd_rd, State.rd_wr_ne _ _ (by decide), State.hit]

theorem State.greenLoss_hit (s : State) (c : Nat) : (s.greenLoss c).hit = s.hit := by
  have left : ((s.noteCause c).leaveGreen c).hit = s.hit := by
    rw [State.leaveGreen_eq, State.toAmber_hit, hit_offCapture.freeAsleep, hit_offCapture.stopGreen, State.noteCause_hit]
  exact State.ite_same State.hit left (s.noteCause_hit c)

theorem State.loseStack_hit (s : State) (k : Nat) : (s.loseStack k).hit = s.hit := by
  unfold State.loseStack
  rw [hit_wr (by decide), hit_wr (by decide)]
  rfl

theorem State.memEvent_hit (s : State) : s.memEvent.hit = s.hit := rfl

theorem State.stackLost_hit (s : State) (k : Nat) : (s.stackLost k).hit = s.hit := by
  rw [State.stackLost, State.greenLoss_hit, State.memEvent_hit, State.setF, hit_wr (by decide), State.loseStack_hit]

theorem State.setMemo_hit (s : State) (m : MemSt) : (s.setMemo m).hit = s.hit := rfl

/-- A stack is lost for its errors, which are then forgotten. -/
def State.dropStack (s : State) (k : Nat) : State :=
  (s.stackLost k).setMemo { (s.stackLost k).memo with ues := (s.stackLost k).memo.ues.filter fun e => decide (stackOf e.1 ≠ k) }

/-- A stack of too many errors within a second is lost. -/
def State.checkStack (s : State) (k : Nat) : State :=
  if 64 < (s.memo.ues.filter fun e => decide (stackOf e.1 = k ∧ s.dial < e.2 + ticksPerSec)).length then s.dropStack k else s

theorem State.checkStacks_eq (s : State) : s.checkStacks = (List.range 4).foldl State.checkStack s := by
  unfold State.checkStacks State.checkStack State.dropStack
  rfl

theorem State.dropStack_hit (s : State) (k : Nat) : (s.dropStack k).hit = s.hit := by
  rw [State.dropStack, State.setMemo_hit, State.stackLost_hit]

theorem State.checkStack_hit (s : State) (k : Nat) : (s.checkStack k).hit = s.hit := by
  unfold State.checkStack
  split
  · exact s.dropStack_hit k
  · rfl

theorem State.checkStacks_hit (s : State) : s.checkStacks.hit = s.hit := by
  rw [State.checkStacks_eq]
  exact State.foldl_same State.hit State.checkStack_hit _ s

/-! ### Maps and reservations -/

theorem State.mapApply_running {s : State} (running : s.allHalted = false) : s.mapApply = s.memCode rSTATE := if_pos (.inl running)

theorem State.mapApply_sets {s : State} (halted : s.allHalted = true) (still : ∀ p < 64, s.capNow p = cIDLE ∧ (s.seq p).loading = none)
    (legal : mapBad s s.askedMap = false) : s.mapApply = (s.setMap s.askedMap).memCode rOK := by
  have captures : ((List.range 64).any fun p => decide (s.capNow p ≠ cIDLE)) = false := by
    rw [List.any_eq_false]
    intro p hp
    rw [decide_eq_true_eq]
    exact not_not_intro (still p (List.mem_range.mp hp)).1
  have loads : ((List.range 64).any fun n => (s.seq n).loading.isSome) = false := by
    rw [List.any_eq_false]
    intro n hn
    rw [(still n (List.mem_range.mp hn)).2]
    exact Bool.false_ne_true
  unfold State.mapApply
  rw [captures, loads, halted, legal, if_neg (by decide), if_neg (by decide)]

/-- A reservation of `k` for the host, once every capture record that is over is settled. -/
theorem State.hostReq_eq {s v : State} {k : Nat} (settled : v = s.capSettleAll) (asked : k = v.rd R.memHostRsv_host_rsv) :
    s.hostReq = if (v.admission [0] [(0, 50 * k)]).1 then ((v.admission [0] [(0, 50 * k)]).2.wr R.memHostRsv_host_act k).memCode rOK
      else (v.admission [0] [(0, 50 * k)]).2.memCode rADMIT := by
  unfold State.hostReq
  dsimp only
  rw [← settled, ← asked]

/-! ### Scrubs -/

theorem exec_hbmScrubPass (t : Nat) {k : Nat} (l : List (Nat × Nat)) {s : State} (up : s.svc.svc = .amber ∨ s.svc.svc = .green)
    (trained : s.svc.hbmTrained = true) (inside : k < 2 ^ 33) : exec (.hbmScrubPass t k l) s = .next ((s.at t).scrubChunk k l) := by
  have here : (s.at t).isAmber = true ∨ (s.at t).isGreen = true := by
    simpa only [State.isAmber, State.isGreen, State.at_svc, decide_eq_true_eq] using up
  change execHbmScrubPass t k l s = _
  unfold execHbmScrubPass
  exact if_pos ⟨here, by rwa [State.at_svc], inside⟩

theorem State.scrubChunk_quiet (s : State) (k : Nat) : s.scrubChunk k [] = (s.meetChunk k).2.checkStacks := rfl

theorem State.scrubChunk_struck (s : State) {k : Nat} (inside : k < 2 ^ 33) (e : Nat) :
    s.scrubChunk k [(k, e)] = ((s.strikeChunk k e).meetChunk k).2.checkStacks := by
  rw [State.scrubChunk, List.foldl_cons, List.foldl_nil, Nat.mod_eq_of_lt inside]

section
variable {s : State} {k : Nat}

theorem State.meetChunk_poisoned (poisoned : s.poisoned k = true) : s.meetChunk k = (true, s.poisonHit) := if_pos poisoned

theorem State.meetChunk_sound (clean : s.poisoned k = false) (sound : s.errorsOf k = 0) : s.meetChunk k = (false, s) :=
  (if_neg (by rw [clean]; decide)).trans (if_pos sound)

theorem State.meetChunk_one (clean : s.poisoned k = false) (one : s.errorsOf k = 1) : s.meetChunk k = (false, s.corrected k) :=
  (if_neg (by rw [clean]; decide)).trans ((if_neg (by rw [one]; decide)).trans (if_pos one))

theorem State.meetChunk_two (clean : s.poisoned k = false) (two : s.errorsOf k = 2) : s.meetChunk k = (true, s.uncorrectable k) :=
  (if_neg (by rw [clean]; decide)).trans ((if_neg (by rw [two]; decide)).trans (if_neg (by rw [two]; decide)))

/-- Errors put into a sound chunk are in it, and it is not poisoned by them. -/
theorem State.strikeChunk_errors (clean : s.poisoned k = false) (sound : s.errorsOf k = 0) {e : Nat} (some : e ≠ 0) :
    (s.strikeChunk k e).poisoned k = false ∧ (s.strikeChunk k e).errorsOf k = e := by
  have struck : s.strikeChunk k e = s.setMemo { s.memo with weak := SMap.set 0 s.memo.weak k (s.errorsOf k + e) } :=
    if_neg (by rw [clean]; exact not_or.mpr ⟨Bool.false_ne_true, some⟩)
  have weak : (s.strikeChunk k e).errorsOf k = s.errorsOf k + e := by
    rw [struck]
    exact SMap.get_set_self _ _ _ _
  refine ⟨?_, by rw [weak, sound, Nat.zero_add]⟩
  rw [struck, ← clean]
  rfl

end

theorem State.poisonHit_hit (s : State) : s.poisonHit.hit = 1 := State.rd_wr s R.memStatus_poison_hit 1

/-! ### Refills, repairs and reads -/

section
variable {t : Nat} {n : Fin 64} {c : Fin 8} {p : Pulse} {g : Seg} {s : State}

theorem exec_streamRefill_hbm (lit : s.svc.svc ≠ .dark) (plays : (s.cell (8 * n + c)).play = some (p, g)) (source : g.d.envSrc = 1) :
    exec (.streamRefill t n c) s = .next (((s.at t).settle n).refillHbm n c g).checkStacks := by
  change execStreamRefill t n c s = _
  simp only [execStreamRefill, State.at_cell, plays, State.at_awake_of_ne t lit, source, and_self, if_true]

theorem exec_streamRefill_far (lit : s.svc.svc ≠ .dark) (plays : (s.cell (8 * n + c)).play = some (p, g)) (source : g.d.envSrc = 2) :
    exec (.streamRefill t n c) s = .next (((s.at t).settle n).refillFar n c g) := by
  have hbm : ¬ g.d.envSrc = 1 := by rw [source]; decide
  change execStreamRefill t n c s = _
  simp only [execStreamRefill, State.at_cell, plays, State.at_awake_of_ne t lit, source, true_and, if_true, Nat.reduceEqDiff, if_false]

end

theorem exec_descReadComplete (t : Nat) {n : Fin 64} {r : DescRead} {l : List DescRead} {s : State}
    (up : s.svc.svc = .amber ∨ s.svc.svc = .green) (front : (s.comb n).reads = r :: l) :
    exec (.descReadComplete t n) s = .next (((s.at t).settle n).descDone n r l).checkStacks := by
  have awake : (s.at t).isSleep = false := isSleep_of_up (by rwa [State.at_svc])
  change execDescReadComplete t n s = _
  simp only [execDescReadComplete, State.at_comb, front, State.at_awake_of_ne t (ne_dark_of_up up), awake, and_self, if_true]

theorem exec_farStoreAbandon (t : Nat) {tag : Nat} {p : Fin 8} {r : FarRead} {s : State} (lit : s.svc.svc ≠ .dark)
    (waits : s.farOf p tag = some r) (unanswered : r.code = none) (late : r.at' + ticksPerMs ≤ (s.at t).dial) :
    exec (.farStoreAbandon t p tag) s = .next ((s.at t).farEnd r rTIMEOUT) := by
  change execFarStoreAbandon t p tag s = _
  simp only [execFarStoreAbandon, State.at_farOf, waits, State.at_awake_of_ne t lit, unanswered, late, and_self, if_true]

theorem exec_softRepair (t : Nat) {ba row : Nat} {k : Fin 4} {pc : Fin 32} {s : State} (lit : s.svc.svc ≠ .dark)
    (trained : s.svc.hbmTrained = true) (marked : rowKey k pc ba row ∈ s.memo.marked) (none : SMap.get 0 s.memo.repairs k = 0) :
    exec (.softRepair t k pc ba row) s = .next ((s.at t).softRepair k pc ba row) := by
  change execSoftRepair t k pc ba row s = _
  unfold execSoftRepair
  exact if_pos ⟨State.at_awake_of_ne t lit, by rwa [State.at_svc], by rw [State.at_memo]; exact List.contains_iff_mem.mpr marked,
    .inl (by rwa [State.at_memo])⟩

/-- Settles O47: the operations are equations of their commands by the state of the chunk, the row and the segment; the poison flag is kept
by the check of the stacks. -/
theorem memoryRequestsAndLosses : Obligations.MemoryRequestsAndLosses := by
  refine ⟨?running, ?reserve, ?sound, ?poisoned, ?repair, ?lost, ?desc, ?hbm, ?far, ?abandon, ?map, ?one, ?two⟩
  case running => exact fun t s up running => .of_hostCmd up rfl (State.mapApply_running (by rwa [State.at_allHalted]))
  case reserve =>
    intro t k s v up settled asked
    refine .of_hostCmd up rfl ?_
    rw [State.hostReq_eq settled asked]
    rfl
  case sound =>
    intro t k s up trained inside clean sound
    refine .of_eq (exec_hbmScrubPass t [] up trained inside) ?_
    rw [State.scrubChunk_quiet, State.meetChunk_sound (by rwa [State.at_poisoned]) (by rwa [State.errorsOf, State.at_memo])]
  case poisoned =>
    intro t k s up trained inside poisoned
    refine .of_eq (exec_hbmScrubPass t [] up trained inside) ?_
    rw [State.scrubChunk_quiet, State.meetChunk_poisoned (by rwa [State.at_poisoned])]
    exact ⟨rfl, (State.checkStacks_hit _).trans (State.poisonHit_hit _)⟩
  case repair => exact fun t ba row k pc s lit trained marked none => .of_eq (exec_softRepair t lit trained marked none) rfl
  case lost =>
    exact fun t k s up trained => .of_pos rfl
      ⟨State.at_awake_of_ne t (ne_dark_of_up up), by rwa [State.at_svc], isSleep_of_up (by rwa [State.at_svc])⟩ rfl
  case desc => exact fun t n r l s up front => .of_eq (exec_descReadComplete t up front) rfl
  case hbm => exact fun t n c p g s lit plays source => .of_eq (exec_streamRefill_hbm lit plays source) rfl
  case far => exact fun t n c p g s lit plays source => .of_eq (exec_streamRefill_far lit plays source) rfl
  case abandon => exact fun t tag p r s lit waits unanswered late => .of_eq (exec_farStoreAbandon t lit waits unanswered late) rfl
  case map =>
    intro t s up halted still legal
    refine .of_hostCmd up rfl ?_
    rw [State.mapApply_sets (by rwa [State.at_allHalted]) (fun p hp => ?_) legal]
    · rfl
    · obtain ⟨idle, loads⟩ := still ⟨p, hp⟩
      exact ⟨idle, by rwa [State.at_seq]⟩
  case one =>
    intro t k s up trained inside clean sound
    refine .of_eq (exec_hbmScrubPass t _ up trained inside) ?_
    obtain ⟨poison, errors⟩ := State.strikeChunk_errors (s := s.at t) (k := k) (by rwa [State.at_poisoned])
      (by rwa [State.errorsOf, State.at_memo]) one_ne_zero
    rw [State.scrubChunk_struck _ inside, State.meetChunk_one poison errors]
  case two =>
    intro t k s up trained inside clean sound
    refine .of_eq (exec_hbmScrubPass t _ up trained inside) ?_
    obtain ⟨poison, errors⟩ := State.strikeChunk_errors (s := s.at t) (k := k) (by rwa [State.at_poisoned])
      (by rwa [State.errorsOf, State.at_memo]) two_ne_zero
    rw [State.scrubChunk_struck _ inside, State.meetChunk_two poison errors]

end Sys2Proof.Machine
end

section
/-! SUPPORT. Frames, queues and probes of the link; its training and its lanes (R382 to R392). -/

namespace Sys2Proof.Machine

/-! ### Frames, queues and probes -/

theorem exec_frameSend (t : Nat) {g : Nat × Nat} {p : Fin 8} {s : State} (lit : s.svc.svc ≠ .dark) (slot : (s.at t).slotHere p = some g) :
    exec (.frameSend t p) s = .next (((s.at t).setPort p { s.port p with grid := some g }).frameSend p (s.at t).dial) := by
  change execFrameSend t p s = _
  simp only [execFrameSend, slot, State.at_awake_of_ne t lit, State.at_port, if_true]

theorem exec_probe (t : Nat) {p : Fin 8} {x : Pkt} {s v : State} (taken : (s.at t).takePkt p (fun x => decide (x.ptype = 4)) = some (x, v))
    (up : v.neighbourUp p = true) : exec (.probe t p) s = .next (v.probePkt p x) := by
  change execProbe t p s = _
  simp only [execProbe, taken, up, if_true]

theorem State.lqPush_full {s : State} {p : Nat} (full : 64 ≤ (s.port p).lq.length) : s.lqPush p = s.elvCode p rBUSY := if_pos full

theorem State.lqPush_bad {s : State} {p : Nat} (room : (s.port p).lq.length < 64)
    (bad : s.rd (R.elvLqCfg_lq_len p) = 0 ∨ 8 < s.rd (R.elvLqCfg_lq_len p)) : s.lqPush p = s.elvCode p rRANGE :=
  (if_neg (not_le.mpr room)).trans (if_pos bad)

/-- A packet of legal length joins its queue. -/
theorem State.lqPush_joins {s : State} {p : Nat} (room : (s.port p).lq.length < 64) (some : 1 ≤ s.rd (R.elvLqCfg_lq_len p))
    (few : s.rd (R.elvLqCfg_lq_len p) ≤ 8) : ∃ x : LqEnt, s.lqPush p = (s.setLq p ((s.port p).lq ++ [x])).elvCode p rOK ∧
      x.ws.length = s.rd (R.elvLqCfg_lq_len p) := by
  unfold State.lqPush
  dsimp only
  rw [if_neg (not_le.mpr room), if_neg (by omega)]
  exact ⟨_, rfl, by rw [List.length_map, List.length_range]⟩

theorem State.SameBut.setPort {u s : State} {fs : List Fld} (h : u.SameBut s fs) (p : Nat) (x : PortSt) : (u.setPort p x).SameBut s fs := h

theorem State.elvCode_port (s : State) (p code q : Nat) : (s.elvCode p code).port q = s.port q := rfl

theorem State.setLq_lq (s : State) (p : Nat) (l : List LqEnt) : ((s.setLq p l).port p).lq = l :=
  congrArg PortSt.lq (State.setPort_port_self s p _)

theorem State.SameBut.pushed {u s : State} (p : Nat) (l : List LqEnt) (code : Nat)
    (h : u.SameBut s [R.elvCmd_result p, R.elvStatus_lq_count p]) :
    ((u.setLq p l).elvCode p code).SameBut s [R.elvCmd_result p, R.elvStatus_lq_count p] :=
  ((h.setPort p _).wr _ _ (List.mem_cons_of_mem _ List.mem_cons_self)).wr _ _ List.mem_cons_self

/-- A request to measure the delay joins the queue. -/
def State.sendProbe (s : State) (p : Nat) : State :=
  s.setPort p { s.port p with probeq := (s.port p).probeq ++ [⟨0x14, [0], 0⟩], probeAt := s.dial + 25600000 }

theorem exec_probeExchange (t : Nat) {p : Fin 8} {s : State} (due : (s.at t).probeDue p = true) :
    exec (.probeExchange t p) s = .next ((s.at t).sendProbe p) := if_pos due

theorem State.sendProbe_port (s : State) (p : Nat) :
    ((s.sendProbe p).port p).probeq = (s.port p).probeq ++ [⟨0x14, [0], 0⟩] ∧ ((s.sendProbe p).port p).probeAt = s.dial + 25600000 ∧
      (s.sendProbe p).regs = s.regs := by
  rw [State.sendProbe, State.setPort_port_self]
  exact ⟨rfl, rfl, rfl⟩

/-- Settles O50: the frames, pushes and probes are equations of their commands; a push that fits leaves its one entry. -/
theorem linkFramesAndQueues : Obligations.LinkFramesAndQueues := by
  refine ⟨?send, ?receive, ?full, ?bad, ?push, ?exchange, ?probe⟩
  case send => exact fun t g p s lit slot => .of_eq (exec_frameSend t lit slot) rfl
  case receive =>
    intro t b f p s free
    exact .of_neg rfl (by rw [State.at_portHeld, free]; exact Bool.false_ne_true) rfl
  case full => exact fun t p s up full => .of_hostCmd up rfl (State.lqPush_full (by rwa [State.at_port]))
  case bad =>
    exact fun t p s up room bad => .of_hostCmd up rfl (State.lqPush_bad (by rwa [State.at_port]) (by rwa [State.at_rd]))
  case push =>
    intro t p s up empty one eight
    refine .of_hostCmd up rfl ?_
    have room : ((s.at t).port p).lq.length < 64 := by
      rw [State.at_port, empty]
      decide
    obtain ⟨x, pushed, length⟩ := State.lqPush_joins room (by rwa [State.at_rd]) (by rwa [State.at_rd])
    rw [pushed]
    refine ⟨?_, (s.at_SameBut t _).pushed p _ _⟩
    rw [State.elvCode_port, State.setLq_lq, State.at_port, empty, List.nil_append, List.map_singleton, length, State.at_rd]
  case exchange =>
    intro t p s due
    obtain ⟨probeq, probeAt, regs⟩ := (s.at t).sendProbe_port p
    refine .of_eq (exec_probeExchange t due) ⟨?_, probeAt, ?_⟩
    · rw [probeq, State.at_port]
    · rw [regs, State.at_regs]
  case probe => exact fun t p x s v taken up => .of_eq (exec_probe t taken up) rfl

/-! ### Training -/

/-- Port 0 in CLOCK, enabled, whose frame grid is known. -/
def gridded : State :=
  { State.reset with
    svc := { SvcSt.init with svc := .green, firstLoad := true }
    regs := [((R.elvStatus_state 0).key, eCLOCK)]
    act := [((R.elvCtl_en 0).key, 1)]
    ports := [(0, { PortSt.init with grid := some (1, 2) })] }

/-- The lanes of a port lock. -/
def State.lockLanes (s : State) (p : Nat) (slow : Bool) (lat : List (List Int × List Int)) : State :=
  let s := s.measurePairs (545 + p) 0 lat
  let x := s.port p
  let s := s.setPort p { x with v1 := x.v1 || slow, grid := if slow && !x.v1 then none else x.grid, alignN := 0 }
  (s.wr (R.elvAlign_align_ok p) 0).setElv p eSLIP

theorem exec_lanesLocked (t : Nat) (p : Fin 8) (slow : Bool) (lat : List (List Int × List Int)) (s : State) :
    exec (.lanesLocked t p slow lat) s = if (s.at t).elvState p = eCLOCK ∧ (s.at t).portHeld p = false then
      .next ((s.at t).lockLanes p slow lat) else .next (s.at t) := rfl

theorem gridded_locks : (((gridded.at 0).lockLanes 0 true []).port 0).grid = none := by decide +kernel

/-- Refutes O51: lanes that lock for the first time at the slow rate drop the frame grid of the port; in `gridded` the grid that the
statement keeps is gone. -/
theorem not_linkTraining : ¬ Obligations.LinkTraining := by
  rintro ⟨-, locked, -⟩
  obtain ⟨u, run, same, -, -⟩ := locked 0 0 [] true gridded (by decide +kernel) (by decide +kernel)
  have kept : (u.port 0).grid = some (1, 2) := by
    rw [same]
    decide +kernel
  rw [exec_lanesLocked, if_pos (by decide +kernel), Host.Outcome.next.injEq] at run
  rw [← run] at kept
  exact absurd (gridded_locks.symm.trans kept) (by decide)

/-! ### Lanes -/

theorem exec_linkRemap (t : Nat) {p : Fin 8} {x : Pkt} {s v : State} (taken : (s.at t).takePkt p (linkIs 0) = some (x, v))
    (up : v.portUp p = true) : exec (.linkRemap t p) s = .next (v.takeRemap p x.hdr) := by
  change execLinkRemap t p s = _
  simp only [execLinkRemap, taken, up, if_true]

theorem exec_linkResume (t : Nat) {p : Fin 8} {x : Pkt} {s v : State} (taken : (s.at t).takePkt p (linkIs 1) = some (x, v))
    (up : v.portUp p = true) (aligns : (v.port p).txAlign = true) : exec (.linkResume t p) s = .next (v.endPause p) := by
  change execLinkResume t p s = _
  simp only [execLinkResume, taken, up, aligns, and_self, if_true]

/-- The signal of a lane is back. -/
def State.regain (s : State) (p l : Nat) : State := s.setPort p { s.port p with noSig := (s.port p).noSig - 2 ^ l }

theorem exec_losClear (t : Nat) {p : Fin 8} {l : Fin 19} {s : State} (missing : (s.port p).noSig.testBit l = true) :
    exec (.losClear t p l) s = .next ((s.at t).regain p l) := if_pos (by rwa [State.at_port])

theorem State.regain_reads (s : State) (p l : Nat) :
    ((s.regain p l).port p).noSig = (s.port p).noSig - 2 ^ l ∧ (s.regain p l).regs = s.regs := by
  rw [State.regain, State.setPort_port_self]
  exact ⟨rfl, rfl⟩

/-- Settles O52: every clause is the equation of its command; a signal that is back changes its port's mark alone. -/
theorem lanesLostAndRemapped : Obligations.LanesLostAndRemapped := by
  refine ⟨?loss, ?back, ?remap, ?resume, ?pause⟩
  case loss =>
    intro t p l b s free
    exact .of_neg rfl (by rw [State.at_portHeld, free]; exact Bool.false_ne_true) rfl
  case back =>
    intro t p l s missing
    obtain ⟨noSig, regs⟩ := (s.at t).regain_reads p l
    refine .of_eq (exec_losClear t missing) ⟨?_, ?_⟩
    · rw [noSig, State.at_port]
    · rw [regs, State.at_regs]
  case remap => exact fun t p x s v taken up => .of_eq (exec_linkRemap t taken up) rfl
  case resume => exact fun t p x s v taken up aligns => .of_eq (exec_linkResume t taken up aligns) rfl
  case pause =>
    intro t p s paused long
    exact .of_pos rfl ⟨by rwa [State.elvPaused, State.at_rd], by rwa [State.at_port]⟩ rfl

end Sys2Proof.Machine
end

section
/-! SUPPORT. The chain's time, its seconds and the Waggle lines (R408 to R429). -/

namespace Sys2Proof.Machine

/-! ### Packets, routes and Queens -/

theorem exec_chain (t : Nat) {p : Fin 8} {x : Pkt} {s v : State} (taken : (s.at t).takePkt p (fun x => decide (x.ptype = 0xC)) = some (x, v)) :
    exec (.chain t p) s = .next (v.takeChain p x.hdr) := by
  change execChain t p s = _
  simp only [execChain, taken]

theorem exec_time (t : Nat) {p : Fin 8} {x : Pkt} {s v : State} (taken : (s.at t).takePkt p (fun x => decide (x.ptype = 3)) = some (x, v)) :
    exec (.time t p) s = .next (v.takeTime p x) := by
  change execTime t p s = _
  simp only [execTime, taken]

theorem SMap.erase_single {α : Type} (k : Nat) (v : α) : SMap.erase [(k, v)] k = [] := by rw [SMap.erase, if_pos rfl, SMap.erase]

theorem exec_routeExpiry (t : Nat) {d : Fin 256} {x : RouteSt} {s : State} (only : s.chain.routes = [(d.val, x)])
    (silent : x.seenAt + 7680000 ≤ (s.at t).dial) : exec (.routeExpiry t d) s =
      .next ((((s.at t).setChain { s.chain with routes := [] }).wr (R.chnRoute_r_valid d) 0).lostRoute d) := by
  change execRouteExpiry t d s = _
  simp only [execRouteExpiry, State.at_chain, only, List.find?_cons, decide_true, silent, if_true, SMap.erase_single]

theorem exec_queenTimeout (t : Nat) (which : Fin 2) (s : State) : exec (.queenTimeout t which) s =
    if 0 < (if decide (which.val = 1) then (s.at t).chain.qb else (s.at t).chain.qa).run ∧
      (if decide (which.val = 1) then (s.at t).chain.qb else (s.at t).chain.qa).lastAt + max 2 ((s.at t).ard R.chnLoop_q_to) * 25600 ≤
        (s.at t).dial then .next ((s.at t).queenTimeout (decide (which.val = 1))) else .next (s.at t) := rfl

/-- Queen A is the reference again. -/
theorem State.newRef_revert {s : State} (old : s.rd R.chnStatus_ref = 2) :
    s.newRef 1 = (s.wr R.chnStatus_ref 1).chnFlag R.chnStatus_q_switch := by
  unfold State.newRef
  dsimp only
  rw [old, if_neg (by decide), if_pos (by decide)]

theorem State.chnFlag_rd (s : State) (f g : Fld) : (s.chnFlag f).rd g = (s.wr f 1).rd g := rfl

theorem exec_queenRevert (t : Nat) {s : State} (ref : s.rd R.chnStatus_ref = 2) (steady : s.rd R.chnStatus_a_ok = 1)
    (revert : s.ard R.chnCtl_revert = 1) (long : s.chain.qa.okSince + s.ard R.chnRevert_rev_t * 256000000 ≤ (s.at t).dial) :
    exec (.queenRevert t) s = .next (((s.at t).wr R.chnStatus_ref 1).chnFlag R.chnStatus_q_switch) := by
  rw [← State.newRef_revert (by rwa [State.at_rd])]
  exact if_pos ⟨by rwa [State.at_rd], by rwa [State.at_rd], by rwa [State.at_ard], by rwa [State.at_chain, State.at_ard]⟩

/-- Settles O53: every clause is the equation of its command; the reference and its flag are read back after the revert. -/
theorem chainKeepsTime : Obligations.ChainKeepsTime := by
  refine ⟨?announce, ?chain, ?time, ?route, ?source, ?holdover, ?queenA, ?queenB, ?revert, ?join, ?form⟩
  case announce => exact fun t s joined due => .of_pos rfl ⟨joined, by rwa [State.at_chain]⟩ rfl
  case chain => exact fun t p x s v taken => .of_eq (exec_chain t taken) rfl
  case time => exact fun t p x s v taken => .of_eq (exec_time t taken) rfl
  case route =>
    rintro t d ⟨k, x⟩ s only rfl silent
    exact .of_eq (exec_routeExpiry t only silent) rfl
  case source =>
    intro t s source grid due
    refine .of_pos rfl ⟨?_, grid, by rwa [State.at_chain]⟩ rfl
    rw [State.at_cstate, decide_eq_true source, Bool.true_or]
  case holdover => exact fun t s hold due => .of_pos rfl ⟨by rwa [State.at_cstate], by rwa [State.at_chain]⟩ rfl
  case queenA =>
    exact fun t s heard silent => .of_pos (exec_queenTimeout t 0 s) ⟨by rwa [State.at_chain], by rwa [State.at_chain, State.at_ard]⟩ rfl
  case queenB =>
    exact fun t s heard silent => .of_pos (exec_queenTimeout t 1 s) ⟨by rwa [State.at_chain], by rwa [State.at_chain, State.at_ard]⟩ rfl
  case revert =>
    intro t s ref steady revert long
    refine .of_eq (exec_queenRevert t ref steady revert long) ⟨rfl, ?_, ?_⟩
    · rw [State.chnFlag_rd, State.rd_wr_ne _ _ (by decide), State.rd_wr]
      rfl
    · rw [State.chnFlag_rd, State.rd_wr]
      rfl
  case join => exact fun t s joining => .of_pos rfl (by rwa [State.at_cstate]) rfl
  case form =>
    exact fun t s joining role still first long => .of_pos rfl
      ⟨by rwa [State.at_cstate], by rwa [State.at_chainRole], by rwa [State.at_chain], by rwa [State.at_chain], by rwa [State.at_chain]⟩ rfl

/-! ### Seconds -/

theorem exec_ppsInEdge (t : Nat) {s : State} (lit : s.svc.svc ≠ .dark) (queenA : s.chainRole = 1) (takes : s.rd R.chnCtl_pps_in_en = 1) :
    exec (.ppsInEdge t) s = .next (s.at t).ppsIn :=
  if_pos ⟨State.at_awake_of_ne t lit, by rwa [State.at_chainRole], by rwa [State.at_rd]⟩

theorem State.ppsIn_kept {s : State} (other : s.cstate ≠ cSOURCE) :
    s.ppsIn = s.setChain { s.chain with ppsLast := some (256 * s.dial) } := if_pos other

/-- PPS_OUT rises where it is enabled. -/
def State.ppsRise (s : State) : State := if s.rd R.chnCtl_pps_oe = 1 then s.setSvc { s.svc with ppsOut := true } else s

theorem exec_secondBoundary (t : Nat) {s : State} (lit : s.svc.svc ≠ .dark) (whole : (s.at t).dial % 25600000000 = 0) :
    exec (.secondBoundary t) s = .next ((s.at t).ppsRise.fireD 90) := if_pos ⟨State.at_awake_of_ne t lit, whole⟩

theorem State.ppsRise_reads (s : State) : s.ppsRise.svc.ppsOut = (s.svc.ppsOut || decide (s.rd R.chnCtl_pps_oe = 1)) ∧ s.ppsRise.regs = s.regs := by
  unfold State.ppsRise
  split
  case isTrue on => rw [decide_eq_true on, Bool.or_true]; exact ⟨rfl, rfl⟩
  case isFalse off => rw [decide_eq_false off, Bool.or_false]; exact ⟨rfl, rfl⟩

theorem exec_ppsOutFall (t : Nat) {s : State} (high : s.svc.ppsOut = true) (past : 2560000 ≤ (s.at t).dial % 25600000000) :
    exec (.ppsOutFall t) s = .next ((s.at t).setSvc { (s.at t).svc with ppsOut := false }) := if_pos ⟨by rwa [State.at_svc], past⟩

/-- Settles O54: the edges change the chain's record and the pin alone. -/
theorem secondsAndPps : Obligations.SecondsAndPps := by
  refine ⟨?edge, ?boundary, ?fall⟩
  case edge =>
    intro t s lit queenA takes other
    refine .of_eq (exec_ppsInEdge t lit queenA takes) ?_
    rw [State.ppsIn_kept (by rwa [State.at_cstate])]
    exact ⟨rfl, State.at_regs s t⟩
  case boundary =>
    intro t s lit whole
    refine .of_eq (exec_secondBoundary t lit whole) ?_
    obtain ⟨out, regs⟩ := (s.at t).ppsRise_reads
    rw [State.fireD_svc, out, State.at_svc, State.at_rd]
    exact ⟨rfl, regs.trans (State.at_regs s t)⟩
  case fall => exact fun t s high past => .of_eq (exec_ppsOutFall t high past) ⟨rfl, State.at_regs s t⟩

/-! ### Waggle lines -/

theorem exec_waggleDelivery (t : Nat) {c : Fin 256} {f : Flight} {s : State} (lit : s.svc.svc ≠ .dark) (only : (s.at t).wag.flight = [f])
    (here : f.ch = c) : exec (.waggleDelivery t c) s = .next (((s.at t).setWag { (s.at t).wag with flight := [] }).wagArrive c f.slot) := by
  change execWaggleDelivery t c s = _
  simp only [execWaggleDelivery, only, List.find?_cons, here, decide_true, State.at_awake_of_ne t lit, if_true, List.erase_cons_head]

/-- An event of slot 15 is on its way, or only remembered. -/
theorem State.wagFire_on {s : State} {c : Nat} (on : (s.ard (R.wagEn_en c)).testBit 15 = true) :
    s.wagFire c = s.setWag { s.wag with flight := s.wag.flight ++ [⟨s.dial, c, 15⟩], recent := s.recall s.dial (4096 + c) } := if_pos on

theorem State.wagFire_off {s : State} {c : Nat} (off : (s.ard (R.wagEn_en c)).testBit 15 = false) :
    s.wagFire c = s.setWag { s.wag with recent := s.recall s.dial (4096 + c) } := if_neg (by rw [off]; decide)

theorem exec_refractoryEnd (t : Nat) {a b : Nat} {c : Fin 256} {s : State} (only : s.wag.chans = [(c.val, a, b)]) (past : b ≤ (s.at t).dial) :
    exec (.refractoryEnd t c) s = .next ((s.at t).setWag { (s.at t).wag with chans := [] }) := by
  change execRefractoryEnd t c s = _
  simp only [execRefractoryEnd, State.at_wag_chans, only, List.find?_cons, decide_true, past, if_true, SMap.erase_single]

/-- Settles O55: the events change the record of the lines alone. -/
theorem waggleLinesCarryEvents : Obligations.WaggleLinesCarryEvents := by
  refine ⟨?arrives, ?fires, ?silent, ?refractory⟩
  case arrives => exact fun t c f s lit only here => .of_eq (exec_waggleDelivery t lit only here) rfl
  case fires =>
    intro t c s lit on
    refine .of_awake lit rfl ?_
    rw [State.wagFire_on (by rwa [State.at_ard])]
    exact ⟨rfl, rfl, State.at_regs s t⟩
  case silent =>
    intro t c s lit off
    refine .of_awake lit rfl ?_
    rw [State.wagFire_off (by rwa [State.at_ard])]
    exact ⟨rfl, State.at_regs s t, State.at_act s t⟩
  case refractory => exact fun t a b c s only past => .of_eq (exec_refractoryEnd t only past) ⟨rfl, State.at_regs s t⟩

end Sys2Proof.Machine
end

section
/-! SUPPORT. The monitors and the calibration passes (R443 to R480). -/

namespace Sys2Proof.Machine

/-! ### Conversions and housekeeping -/

theorem exec_monConversionDone (t : Nat) {m : Fin 5} (l : List Int) {c : MonConv} {s : State} (lit : s.svc.svc ≠ .dark)
    (converts : (s.mon m).cur = some c) (done : c.finish ≤ (s.at t).dial) : exec (.monConversionDone t m l) s =
      .next ((((s.at t).draw.2.monWrite m c (convResult c l (Config.freeValue s.free)).1
        (convResult c l (Config.freeValue s.free)).2).monAdvance m c).monNext m c.finish) := by
  change execMonConversionDone t m l s = _
  simp only [execMonConversionDone, State.at_mon, converts, State.at_awake_of_ne t lit, not_lt.mpr done, State.draw, State.at_free,
    Bool.true_eq_false, or_self, if_false]

/-- The housekeeping of a monitor that has none begins at `a`. -/
def State.startHk (v : State) (m a : Nat) : State :=
  (if (v.mon m).hk.isSome then v else v.setMon m { v.mon m with hk := some (if m = 4 then 0 else 64) }).monKick m a

theorem exec_housekeepingDue (t : Nat) {a : Nat} {s : State} (lit : s.svc.svc ≠ .dark) (next : s.thm.hkAt = some a)
    (due : a ≤ (s.at t).dial) : exec (.housekeepingDue t []) s =
      .next ((List.range 5).foldl (fun v m => v.startHk m a) ((s.at t).setThm { s.thm with hkAt := some (a + 512000000) })) := by
  change execHousekeepingDue t [] s = _
  unfold execHousekeepingDue
  dsimp only
  rw [State.at_thm, next]
  dsimp only
  rw [if_neg (by rw [State.at_awake_of_ne t lit]; exact not_or.mpr ⟨not_lt.mpr due, by decide⟩)]
  simp only [List.getElem?_nil, List.foldl_fixed]
  rfl

/-! ### MCAL -/

theorem State.mcal_asleep {s : State} (asleep : s.svc.svc = .sleep) : s.mcal = s.wr R.monCtl_result rSTATE :=
  if_pos (by rw [State.isSleep, asleep]; rfl)

section
variable {s : State} (up : s.svc.svc = .amber ∨ s.svc.svc = .green)
include up

theorem State.mcal_busy (runs : s.thm.mcalAt ≠ none) : s.mcal = s.wr R.monCtl_result rBUSY :=
  (if_neg (by rw [isSleep_of_up up]; decide)).trans (if_pos (Option.isSome_iff_ne_none.mpr runs))

theorem State.mcal_starts (idle : s.thm.mcalAt = none) : s.mcal = s.mcalStart.wr R.monCtl_result rOK :=
  (if_neg (by rw [isSleep_of_up up]; decide)).trans (if_neg (by rw [idle]; decide))

end

theorem State.mcalStart_at (s : State) : s.mcalStart.thm.mcalAt = some s.dial := by
  unfold State.mcalStart
  dsimp only
  rw [State.wr_thm]
  refine (State.foldl_same (fun s => s.thm.mcalAt) ?_ _ _).trans ?_
  · exact fun _ _ => rfl
  · rfl

theorem exec_mcalDone (t : Nat) {a : Nat} {l : List McalPath} {s : State} (lit : s.svc.svc ≠ .dark) (runs : s.thm.mcalAt = some a)
    (done : a + 4608000000 + (s.at t).mcalExtra l ≤ (s.at t).dial) :
    exec (.mcalDone t l) s = .next ((s.at t).mcalTake l).mcalEnd := by
  change execMcalDone t l s = _
  simp only [execMcalDone, State.at_thm, runs, State.at_awake_of_ne t lit, not_lt.mpr done, Bool.true_eq_false, or_self, if_false]

theorem State.accClear_sums (s : State) (m : Nat) : ((s.accClear m).mon m).sums = [] := congrArg MonSt.sums (State.setMon_mon_self _ m _)

/-- Settles O56: every clause is the equation of its command by the monitor's and the chip's record. -/
theorem monitorConvertsAndCalibrates : Obligations.MonitorConvertsAndCalibrates := by
  refine ⟨?converted, ?house, ?asleep, ?busy, ?starts, ?done, ?clear⟩
  case converted => exact fun t m l c s lit converts done => .of_eq (exec_monConversionDone t l lit converts done) rfl
  case house => exact fun t a s lit next due => .of_eq (exec_housekeepingDue t lit next due) rfl
  case asleep =>
    exact fun t s asleep => .of_awake (by rw [asleep]; decide) rfl (State.mcal_asleep (by rwa [State.at_svc]))
  case busy =>
    exact fun t s up runs => .of_awake (ne_dark_of_up up) rfl (State.mcal_busy (by rwa [State.at_svc]) (by rwa [State.at_thm]))
  case starts =>
    intro t s up idle
    refine .of_awake (ne_dark_of_up up) rfl ?_
    rw [State.mcal_starts (by rwa [State.at_svc]) (by rwa [State.at_thm])]
    exact ⟨rfl, (s.at t).mcalStart_at⟩
  case done => exact fun t a l s lit runs done => .of_eq (exec_mcalDone t lit runs done) rfl
  case clear => exact fun t m s lit => .of_awake lit rfl ⟨rfl, State.accClear_sums _ m⟩

/-! ### Calibration passes -/

theorem State.calRun_busy {s : State} (busy : s.passBusy = true) : s.calRun = s.wr R.calCtl_result rBUSY := if_pos busy

theorem State.calRun_begins {s : State} (up : s.svc.svc = .amber ∨ s.svc.svc = .green) (idle : s.passBusy = false) :
    s.calRun = (s.startPass false).wr R.calCtl_result rOK :=
  (if_neg (by rw [idle]; decide)).trans (if_pos ((State.ambOrGreen_iff s).mpr up))

/-- The item waits anew from now. -/
def State.waitAnew (s : State) (i : Nat) : State := s.setCal { s.cal with since := SMap.insert (dropKey i s.cal.since) i s.dial }

theorem exec_calAbandon (t : Nat) {i : Nat} {s : State} (left : i ∈ s.cal.left) (used : (s.at t).itemIdle i = false) :
    exec (.calAbandon t i) s = .next ((s.at t).waitAnew i) := if_pos ⟨by rw [State.at_cal]; exact List.contains_iff_mem.mpr left, used⟩

/-- Settles O57: every clause is the equation of its command by the pass and the item. -/
theorem calibrationPasses : Obligations.CalibrationPasses := by
  refine ⟨?busy, ?begins, ?trigger, ?pair, ?abandon, ?stale⟩
  case busy => exact fun t s up busy => .of_hostCmd up rfl (State.calRun_busy (by rwa [State.at_passBusy]))
  case begins =>
    exact fun t s up idle => .of_hostCmd up rfl (State.calRun_begins (by rwa [State.at_svc]) (by rwa [State.at_passBusy]))
  case trigger =>
    exact fun t s up idle due => .of_pos rfl ⟨(State.ambOrGreen_iff _).mpr (by rwa [State.at_svc]), idle, due⟩ rfl
  case pair =>
    intro t i a b s lit left few idle due
    exact .of_pos rfl ⟨State.at_awake_of_ne t lit, by rw [State.at_cal]; exact List.contains_iff_mem.mpr left, few, idle, due⟩ rfl
  case abandon =>
    intro t i s left used
    refine .of_eq (exec_calAbandon t left used) ⟨?_, State.at_regs s t⟩
    rw [State.waitAnew, State.at_cal]
    rfl
  case stale =>
    intro t i s lit left used long
    exact .of_pos rfl ⟨State.at_awake_of_ne t lit, by rw [State.at_cal]; exact List.contains_iff_mem.mpr left, used,
      by rwa [State.at_cal, State.at_ard]⟩ rfl

end Sys2Proof.Machine
end
